-- ==== Sys2Proof/Word.lean ====
section
/-! DEFINITION. The word types of the model (R2, R3): a descriptor, register or record word has 64 bits, memory is
addressed by the byte. -/

namespace Sys2Proof

/-- A 64-bit word of a descriptor, register or record; bit 0 is the least significant (R2). -/
abbrev Word := BitVec 64

/-- One byte of memory. -/
abbrev Byte := BitVec 8

end Sys2Proof
end

