-- ==== Sys2Proof/Syntax.lean ====
section
/-! DEFINITION. The commands of the block: one constructor of `Instr` per row of spec/opcode_table.json, with the
operands the command brings. Commands that a register write delivers bring the writer and the written words, reserved
bits included, so that the checks of the spec are made on what was written. Events bring what was read or received. -/

namespace Sys2Proof

/-- Who makes a dictionary request or writes a doorbell (R586): a PF, a VF, or the management port. -/
inductive Req
  | pf (port : Nat)
  | vf (n : Nat)
  | mgmt
  deriving DecidableEq, Repr

/-- The engines of R260, and the front end. Lanterns are named by logical ID (R24), quarter engines by quarter and
index, sequence slots by slot ID. -/
inductive Eng
  | lan (l : Nat)
  | core (l c : Nat)
  | dma (l : Nat)
  | mover (q i : Nat)
  | coll (q i : Nat)
  | cse (slot : Nat)
  | fe
  | host (who : Req)
  deriving DecidableEq, Repr

/-- The atomic memory operations of an S core (R164). -/
inductive AmoOp
  | swap | add | xor | and | or | min | max | minu | maxu
  deriving DecidableEq, Repr

/-- An ordinary RISC-V instruction of an S core (R159 to R163). What the RISC-V specifications compute comes with the
instruction: register results, and the addresses of vector accesses (log 14), but for the integer instructions and the CSRs, which are
computed here. -/
inductive CoreOp
  /-- Load `size` bytes at x[rs1] + off into x[rd], sign-extended when `signed`. -/
  | load (rd rs1 : Nat) (off : Int) (size : Nat) (signed : Bool)
  /-- Store the low `size` bytes of x[rs2] at x[rs1] + off. -/
  | store (rs1 rs2 : Nat) (off : Int) (size : Nat)
  /-- Load `size` bytes into f[rd], NaN-boxed. -/
  | loadF (rd rs1 : Nat) (off : Int) (size : Nat)
  /-- Store the low `size` bytes of f[rs2]. -/
  | storeF (rs1 rs2 : Nat) (off : Int) (size : Nat)
  /-- A vector load: each part is an address, a length, and the byte of the register group from v[rd] on that it fills. -/
  | loadV (rd : Nat) (parts : List (Word × Nat × Nat))
  /-- A vector store: each part is an address, a length, and the byte of the register group it comes from. -/
  | storeV (rs : Nat) (parts : List (Word × Nat × Nat))
  /-- FENCE with its predecessor and successor sets (bit 1 R, bit 0 W). -/
  | fence (pred succ : Nat)
  /-- A CSR instruction, as its 32-bit word. -/
  | csr (word : BitVec 32)
  /-- An integer instruction of RV64I or of its M extension, as its 32-bit word: computed here. -/
  | int (word : BitVec 32)
  /-- WRS.NTO (`sto` false) or WRS.STO (`sto` true). -/
  | wrs (sto : Bool)
  /-- x[rd] := value; `flags` are the floating-point exception flags that the instruction accrues in fcsr. -/
  | setX (rd : Nat) (value : Word) (flags : Nat)
  /-- f[rd] := value, with accrued flags. -/
  | setF (rd : Nat) (value : Word) (flags : Nat)
  /-- v[rd] and the registers after it := values, with accrued flags and vxsat. -/
  | setV (rd : Nat) (values : List (BitVec 256)) (flags : Nat) (sat : Bool)
  /-- vsetvl: vl and vtype, with rd. -/
  | setVl (rd : Nat) (vl vtype : Word)
  /-- Branch or jump: x[rd] := return address, pc := target. -/
  | jump (rd : Nat) (target : Word)
  /-- A 32-bit word of the custom-0 or custom-1 major opcode, as R170 and R171 encode the Xetp instructions. -/
  | custom (word : BitVec 32)
  deriving DecidableEq, Repr

/-- What a confirming read follows (R390). -/
inductive Confirm
  | ring (queue : Nat)
  | work (queue entry : Nat)
  | faults (hoop : Nat)
  | inval (hoop : Nat)
  | dump
  | save (hoop : Nat)
  | dumpExport
  deriving DecidableEq, Repr

/-- A link of R249: the mesh of a quarter, a bridge direction (0 to 7, ordered as ports 12 to 19 of R437) or a hub
link. -/
inductive LinkId
  | mesh (q : Nat)
  | bridge (d : Nat)
  | hub (q : Nat)
  deriving DecidableEq, Repr

/-- A fault as a block's error pin reports it (R489, R490). -/
structure FaultInfo where
  cls : Nat
  access : Nat
  addr : Option Nat
  masterKind : Nat
  master : Nat
  hoop : Option Nat
  ctx : Option Nat
  detail : Word
  deriving DecidableEq, Repr

/-- A TDISP request (R361). -/
inductive TdispReq
  | lock | start | stop
  deriving DecidableEq, Repr

/-- An access on the module's debug port (R527, R539); `control` is run control of a lantern: 0 it runs, 1 it is halted, 2 it issues one op or
instruction and is halted again. -/
inductive DebugAcc
  | readLocal (addr len : Nat)
  | writeLocal (addr : Nat) (data : List Byte)
  | readState (lantern : Nat)
  | control (lantern run : Nat)
  | scan
  deriving DecidableEq, Repr

/-- The header fields and the data of a dictionary message or mailbox request (R590, R593): FLAGS with bit 0 RESPONSE, 1
FINAL, 2 PENDING, 3 HIDDEN. -/
structure SdpMsg where
  session : Nat
  seq : Nat
  index : Nat
  sub : Nat
  flags : Nat
  first : Nat
  count : Nat
  result : Nat
  reserved : Nat
  length : Nat
  data : List Byte
  deriving DecidableEq, Repr

/-- What a host read that met an error was for: the queue whose entry it read, whether it fetched an instruction or an entry,
and its address (R184, R382, R615). -/
structure HostRead where
  queue : Nat
  fetch : Bool
  va : Word
  deriving DecidableEq, Repr

/-- The draw that a cap step finds, in mW: the predicted one, and its fixed and variable parts (R475 to R477). -/
structure Draw where
  predicted : Nat
  fixed : Nat
  vary : Nat
  deriving DecidableEq, Repr

/-- An access of BAR0 or BAR2 by a function (R365, R371). -/
structure BarAccess where
  who : Req
  bar : Nat
  off : Nat
  len : Nat
  deriving DecidableEq, Repr

/-- The commands of the block, one constructor per row of spec/opcode_table.json. -/
inductive Instr
  -- package (01)
  | quarterStoreRead (q off len : Nat)
  | mergeWindowExpire (q line : Nat)
  | quarterStoreWrite (q off : Nat) (data : List Byte) (poison : Bool)
  | pllStop (q : Nat)
  | pllLock (q : Nat)
  | lanternWakeDone (l : Nat)
  | lanternGate (l : Nat)
  -- stitches and tile operations (03)
  | stitch (queue entry : Nat)
  | stitchChoose (hoop : Nat)
  | strandStart (l : Nat)
  | load (l : Nat)
  | store (l : Nat)
  | mma (l : Nat)
  | transpose (l : Nat)
  | convert (l : Nat)
  | bcastAdd (l : Nat)
  | zero (l : Nat)
  | alloc (l : Nat)
  | wait (l : Nat)
  | signal (l : Nat)
  | inval (l : Nat)
  | chain (l : Nat)
  | tileOpComplete (l op : Nat)
  | strandComplete (l : Nat)
  | stitchStop (queue entry : Nat)
  -- scalar lanterns (04)
  | xwait (l c rd rs1 rs2 : Nat) (tryFlag : Bool)
  | xsignal (l c rs1 rs2 : Nat) (error : Bool)
  | xfread (l c rd rs1 : Nat)
  | xtile (l c rd rs1 : Nat)
  | xtsync (l c rd rs1 : Nat)
  | xpicot (l c rs1 rs2 : Nat)
  | xcinv (l c rs1 rs2 : Nat) (allCores : Bool)
  | xdrain (l c : Nat)
  | xalloc (l c rd rs1 rs2 : Nat) (soft : Bool)
  | xfree (l c rs1 : Nat)
  | xexit (l c rs1 : Nat)
  | cboInval (l c rs1 : Nat)
  | cboClean (l c rs1 : Nat)
  | cboFlush (l c rs1 : Nat)
  | cboZero (l c rs1 : Nat)
  | amo (l c : Nat) (op : AmoOp) (double : Bool) (aq rl : Bool) (rd rs1 rs2 : Nat)
  | lr (l c : Nat) (double : Bool) (aq rl : Bool) (rd rs1 : Nat)
  | sc (l c : Nat) (double : Bool) (aq rl : Bool) (rd rs1 rs2 : Nat)
  | wrsStoTimeout (l c : Nat)
  | coreException (l c cause : Nat) (tval : Word)
  | dmaOpStart (l : Nat)
  | dmaOpComplete (l core ticket : Nat)
  -- context stream engine (05)
  | slotOpen (queue entry : Nat)
  | slotClose (queue entry : Nat)
  | cseRequestStart (slot : Nat)
  | csePassStart (slot : Nat)
  | csePassEnd (slot : Nat)
  | query (slot : Nat) (word : Word)
  | partialMsg (slot : Nat) (word : Word)
  | max (slot : Nat) (word : Word)
  | gmax (slot : Nat) (word : Word)
  | credit (slot : Nat) (word : Word)
  | fail (slot : Nat) (word : Word)
  | mailboxAccessDrop (q : Nat)
  | ringTimeout (slot : Nat)
  -- memory (06)
  | bobbinRead (b off len : Nat)
  | bobbinWrite (b off : Nat) (data : List Byte) (poison : Bool)
  | partialBlockMerge (b : Nat)
  | linkCrcError (link : LinkId) (resends : Nat)
  | move (queue entry : Nat)
  | moverDispatch (q : Nat)
  | copy (q m : Nat)
  | gather (q m : Nat)
  | scatter (q m : Nat)
  | fill (q m : Nat)
  | moverDescriptorComplete (q m : Nat)
  | scratchpadWindowAccess (who : Req) (l off : Nat) (write : Option (List Byte)) (len : Nat)
  -- translation (07)
  | rangeCommit (who : Req) (row : Nat) (w0 : Word)
  | walkComplete (n : Nat)
  | faultRecordWrite (hoop : Nat)
  | faultRecordTimeout (hoop : Nat)
  | frHeadWrite (who : Req) (hoop : Nat) (v : Word)
  | frConfigWrite (who : Req) (hoop : Nat) (w0 w1 : Word)
  | hotWriteBack (hoop : Nat)
  | invalEntry (who : Req) (w : Word)
  | invalAspace (who : Req) (w : Word)
  | invalHoop (who : Req) (w : Word)
  | replay (who : Req) (w : Word)
  | invalComplete (hoop : Nat)
  -- hoops, pricking and eyelets (08)
  | hoopCreate (who : Req) (w : Word)
  | hoopRebind (who : Req) (w : Word)
  | rebindApply (hoop : Nat)
  | hoopDestroy (who : Req) (w : Word)
  | destroyDone (hoop : Nat)
  | hoopCancel (who : Req) (w : Word)
  | unitScrubDone (b : Nat)
  | retiredLanternRemove (hoop : Nat)
  | nodeIdWrite (who : Req) (v : Word)
  | epochStage (who : Req) (w : Word)
  | epochOpen (who : Req) (w : Word)
  | epochCommit (who : Req) (w : Word)
  | epochAbandon (who : Req) (w : Word)
  | remoteTimeout (node : Nat)
  | markLost (who : Req) (v : Word)
  | elpRead (eye : Nat)
  | elpWrite (eye : Nat)
  | elpPicot (eye : Nat)
  | elpFence (eye : Nat)
  | elpReadData (eye : Nat)
  | elpAck (eye : Nat)
  | flitData (eye : Nat) (flit : List Byte)
  | flitIdle (eye : Nat) (flit : List Byte)
  | flitNak (eye : Nat) (flit : List Byte)
  | ctrlHello (eye version node : Nat) (nodeValid : Bool) (window reqCredits rspCredits : Nat)
  | ctrlSpareRequest (eye lane : Nat)
  | ctrlSpareSwitch (eye boundary : Nat)
  | laneFailing (eye lane : Nat)
  | spareTrained (eye : Nat)
  | retrainTimeout (eye : Nat)
  | eyeletEnable (who : Req) (eye : Nat) (w : Word)
  | eyeletTrained (eye : Nat) (fecLock : Bool)
  | collective (queue entry : Nat)
  | allReduce (q m : Nat)
  | reduceScatter (q m : Nat)
  | allGather (q m : Nat)
  | collectiveInFlag (q m : Nat)
  | collectiveFreeFlag (q m : Nat)
  | collectiveAbortFlag (q m : Nat) (fromUp : Bool)
  | collectiveTimeout (q m : Nat)
  -- host interface and queues (09)
  | flrVf (n : Nat)
  | flrPf (port : Nat)
  | perst (port : Nat)
  | perstRelease (port : Nat)
  | cxlMemRead (port dec dpa len : Nat)
  | cxlMemWrite (port dec dpa : Nat) (data : List Byte)
  | bar4Read (who : Req) (off len : Nat)
  | bar4Write (who : Req) (off : Nat) (data : List Byte)
  | fenceWindowRead (who : Req) (fence : Nat)
  | queueCreate (who : Req) (w : Word)
  | destroyDrain (who : Req) (w : Word)
  | destroyAbort (who : Req) (w : Word)
  | queueDestroyDone (queue : Nat)
  | queueResume (who : Req) (w : Word)
  | sqTailWrite (who : Req) (queue : Nat) (v : Word)
  | cqHeadWrite (who : Req) (queue : Nat) (v : Word)
  | entryRead (queue : Nat)
  | entryAdmit (queue : Nat)
  | seam (queue entry : Nat)
  | fence (queue entry : Nat)
  | imageLoad (queue entry : Nat)
  | imageLoadDone (queue entry : Nat)
  | imageUnload (queue entry : Nat)
  | completionRecordWrite (queue : Nat)
  | confirmingReadDone (what : Confirm) (ok : Bool)
  | hostReadError (eng : Eng) (access : HostRead)
  -- objects and scheduling (10)
  | contextCreate (who : Req) (w : Word)
  | contextTeardown (who : Req) (w : Word)
  | teardownDone (ctx : Nat)
  | fenceAlloc (who : Req) (w : Word)
  | fenceFree (who : Req) (w : Word)
  | fenceReset (who : Req) (w : Word)
  | fenceSignal (fence : Nat) (value : Word) (error : Bool) (via : Option Req)
  | objectCreate (who : Req) (w : Word)
  | objectRef (who : Req) (w : Word)
  | objectUnref (who : Req) (w : Word)
  | heapConfigWrite (who : Req) (hoop : Nat) (w0 w1 w2 w3 : Word)
  | contextStuck (ctx : Nat)
  | swapOut (ctx : Nat)
  | swapIn (ctx : Nat)
  | swapAreaWrite (who : Req) (hoop : Nat) (w0 w1 : Word)
  | samplerControlWrite (who : Req) (hoop : Nat) (w0 w1 : Word)
  | samplerPeriod (hoop : Nat)
  | samplerSlot (hoop : Nat)
  -- bandwidth (11)
  | portServe (port : Nat)
  -- power (12)
  | powerReqActive (who : Req)
  | powerReqDrowse (who : Req)
  | powerReqWickOnly (who : Req)
  | opStepDone (q : Nat)
  | railSample (currents : List Nat)
  | activityInterval (activity : List Nat)
  | capStep (draw : Draw)
  | sensorRead (temps : List Int)
  | thermalStep (q : Nat)
  | stackTempRead (temps : List Int)
  -- faults, hangs and reset (13)
  | faultLatch (f : FaultInfo)
  | fenceReactionDone (cls : Nat) (failed : List Nat)
  | graceExpiry (cls : Nat)
  | statusWordWrite (who : Req) (v : Word)
  | inject (who : Req) (w0 w1 : Word)
  | stitchWatchdog (queue entry : Nat)
  | queueNoprogress (queue : Nat)
  | lanternHeartbeat (l : Nat)
  | resetL1 (who : Req) (w : Word)
  | resetL2 (who : Req) (w : Word)
  | resetL3 (who : Req) (w : Word)
  | resetL4Warm (who : Req) (w : Word)
  | resetL4Cold (who : Req) (w : Word)
  | resetL5 (who : Req) (w : Word)
  | drainAllowanceEnd (level target : Nat)
  | selfCheckDone (target : Nat) (pass : Bool)
  | resetOverrun (level target : Nat)
  | dumpRelease (who : Req) (v : Word)
  | dumpExport (who : Req) (v : Word)
  | dumpExportDone (ok : Bool)
  -- security, life-cycle and instances (14)
  | transitionFactoryTest (who : Req) (request : List Byte)
  | transitionProvisioned (who : Req) (request : List Byte)
  | transitionMission (who : Req) (request : List Byte)
  | transitionFieldReturn (who : Req) (request : List Byte)
  | transitionScrap (who : Req) (request : List Byte)
  | signedWrite (who : Req) (request : List Byte)
  | debugToken (who : Req) (request : List Byte)
  | enter (who : Req) (cmd : List Byte)
  | change (who : Req) (cmd : List Byte)
  | exit (who : Req) (cmd : List Byte)
  | quiesce (who : Req) (w : Word)
  | quiescedReached (hoop : Nat)
  | quiesceTimeout (hoop : Nat)
  | instanceResume (who : Req) (w : Word)
  | freeze (who : Req) (w : Word)
  | save (who : Req) (w : Word)
  | restore (who : Req) (w : Word)
  -- telemetry and repair (15)
  | selConfigWrite (who : Req) (row : Nat) (v : Word)
  | windowUsWrite (who : Req) (v : Word)
  | peakReset (who : Req) (v : Word)
  | dumpHeadWrite (who : Req) (v : Word)
  | dumpConfigWrite (who : Req) (w0 w1 w2 w3 : Word)
  | hbmCorrectedError (b off : Nat)
  | granuleRemap (b off : Nat)
  | remapCopyDone (b : Nat)
  -- the object dictionary (16)
  | sessionOpen (mctp : Bool) (peer : Nat) (m : SdpMsg)
  | sessionClose (m : SdpMsg)
  | read (who : Req) (m : SdpMsg)
  | write (who : Req) (m : SdpMsg)
  | describe (who : Req) (m : SdpMsg)
  | nop (who : Req) (m : SdpMsg)
  | seqRepeat (session : Nat)
  | mbControlGo (who : Req) (magicOk : Bool) (op : Nat) (m : SdpMsg)
  | apertureAccess (who : Req) (select : Word) (off : Nat) (write : Option Word) (len : Nat)
  | sessionTimeout (session : Nat)
  | registerWrite (who : Req) (index sub row : Nat) (ws : List Word)
  -- sequencing and pins (17)
  | supplyApplied (main : Bool)
  | hubSelfCheckDone (ok : Bool)
  | coreInstruction (l c : Nat) (short : Bool) (op : CoreOp)
  | mainLow (low : Bool)
  | hostLinkTrained (port width speed : Nat) (flitMode cxl : Bool)
  | hdmDecoderCommit (port dec base size ways gran : Nat)
  | debugPortAccess (acc : DebugAcc)
  | resetEnd (level target : Nat)
  | barAccessDrop (access : BarAccess) (isRead : Bool)
  -- last, for the compiler builds no constructor with operands beyond its 244th:
  -- rows of 01, 14, 16 and 17, then the rows with no operand
  | timestampRealign (q : Nat)
  | getVersion (who : Req)
  | getCapabilities (who : Req)
  | negotiateAlgorithms (who : Req)
  | getDigests (who : Req)
  | getCertificate (who : Req)
  | challenge (who : Req) (nonce : Nat)
  | getMeasurements (who : Req)
  | keyExchange (who : Req)
  | finish (who : Req)
  | blobStagingTimeout (index sub : Nat)
  | setEndpointId (eid : Nat)
  | neighbourDiscovery (target : Nat)
  | icmpv6Echo (payload : List Byte)
  | tdispRequest (n : Nat) (r : TdispReq)
  | ideStreamSetup (port stream : Nat) (selective : Bool)
  | wickTimeAdvance
  | hbmZeroDone
  | picotWriteLand
  | epochDrainTimeout
  | allocatorRequest
  | flossWindowEnd
  | mainLost
  | backupStopped
  | mainQualified
  | holdUpExhausted
  | auxOutOfRange
  | drowseWake
  | pwrcycTimeout
  | transitionPhaseDone
  | debugTokenExpire
  | keyEpochDrained
  | keyScrubDone
  | bwWindowEnd
  | dumpPeriod
  | sdpMessageDrop
  | mainApplied
  | auxInRange
  | auxLost
  deriving DecidableEq, Repr

end Sys2Proof
end

