-- ==== Sys2Proof/Config.lean ====
section
/-! DEFINITION. What the spec leaves open: free values and the constants of one unit. None has a body that a proof can
see, so a statement holds whatever they are. -/

namespace Sys2Proof

/-- The n-th free value the machine takes: a value the spec does not give (log 2). -/
opaque Config.freeValue : Nat → Word

/-- Does a signature verify: scheme, the bytes signed, the signature bytes, the key (log 15)? -/
opaque Config.signatureOk : Nat → List Byte → List Byte → Nat → Bool

/-- The vendor's public key, held in the hub ROM (log 15). -/
opaque Config.vendorKey : Nat

/-- SHA-384 of a byte string (log 15). -/
opaque Config.sha384 : List Byte → Nat

/-- A key that a wrapped-key field unwraps to, or none when unwrapping fails (log 15). -/
opaque Config.unwrapKey : List Byte → Option Nat

/-- The unit's key for a key epoch and purpose, drawn from the Keeper's generator (log 15). -/
opaque Config.epochKey : Nat → Nat → Nat

/-- AES-256-GCM of a flit body: key, nonce, plain bytes to cipher bytes and tag (log 15). -/
opaque Config.sealBody : Nat → Nat → List Byte → List Byte

/-- The inverse of `sealBody`; none when the tag does not match (log 15). -/
opaque Config.openBody : Nat → Nat → List Byte → Option (List Byte)

/-- The 64-bit unit identifier UID (R557, R614). -/
opaque Config.uid : Word

/-- PCI_VENDOR_ID of the unit (R614). -/
opaque Config.pciVendorId : Word

/-- The bytes of MODULE_SERIAL (R614). -/
opaque Config.moduleSerial : Nat → Byte

/-- SEQUENCER_VERSION of the unit (R614). -/
opaque Config.sequencerVersion : Word

/-- The 48-bit MAC address (R594, R614). -/
opaque Config.mac : BitVec 48

/-- The choice of a free local port for the n-th of the unit's lanterns, in the order of LANTERN_ROUTERS (R32, log 129). -/
opaque Config.routerChoice : Nat → Nat

/-- The largest rise of current, in mA, that a rise of 64 in a quarter's activity draws on a rail (R470, log 196). -/
opaque Config.railRise : Nat → Nat

/-- The size of a function's BAR4 as the host has set it: 2^(30 + n), n taken modulo 11 (R364, log 171). -/
opaque Config.bar4Log : Nat → Nat

/-- The bytes of the device identity certificate chain (R547). -/
opaque Config.certificate : Nat → Byte

/-- The length of that chain in bytes (R547). -/
opaque Config.certificateLength : Nat

end Sys2Proof
end

