-- ==== Sys2Proof/Machine/Numerics.lean ====
section
/-! DEFINITION. Number formats and arithmetic (02_numerics.md): the twelve formats, the exact values they hold, the
rounding modes, conversions, microscaling blocks, the long accumulator and its compressed partials, FAST and DET. -/

namespace Sys2Proof.Machine

/-- The twelve number formats of R60. -/
inductive Fmt
  | fp32 | bf16 | fp16 | e4m3 | e5m2 | e3m2 | e2m3 | e2m1 | mxint8 | int8 | int4 | fp64
  deriving DecidableEq, Repr

/-- The five rounding modes of R72. -/
inductive Rnd
  | rne | rtz | rup | rdn | sr
  deriving DecidableEq, Repr

/-- An exact value: a NaN, a signed infinity, a signed zero or a nonzero rational `num / den` with its sign.
A Boolean sign is true for negative. -/
inductive Num
  | nan
  | inf (neg : Bool)
  | zero (neg : Bool)
  | fin (neg : Bool) (num den : Nat)
  deriving DecidableEq, Repr

/-- A long accumulator (R88): the 640-bit integer A, the wrap count W and the three flags. -/
structure LongAcc where
  a : Int
  w : Int
  nanSeen : Bool
  posInf : Bool
  negInf : Bool
  deriving DecidableEq, Repr

/-! ### Formats -/

/-- The format a 4-bit code names; codes 0xC to 0xF are reserved (R60). -/
def fmtOfCode (c : Nat) : Option Fmt :=
  match c with
  | 0 => some .fp32 | 1 => some .bf16 | 2 => some .fp16 | 3 => some .e4m3
  | 4 => some .e5m2 | 5 => some .e3m2 | 6 => some .e2m3 | 7 => some .e2m1
  | 8 => some .mxint8 | 9 => some .int8 | 10 => some .int4 | 11 => some .fp64
  | _ => none

/-- Width of one element in bits (R60). -/
def fmtBits (f : Fmt) : Nat :=
  match f with
  | .fp32 => 32 | .bf16 => 16 | .fp16 => 16 | .e4m3 => 8 | .e5m2 => 8 | .e3m2 => 6
  | .e2m3 => 6 | .e2m1 => 4 | .mxint8 => 8 | .int8 => 8 | .int4 => 4 | .fp64 => 64

/-- The microscaling formats, which carry a scale plane (R60, R68). -/
def fmtIsMx (f : Fmt) : Bool :=
  match f with
  | .e3m2 | .e2m3 | .e2m1 | .mxint8 => true
  | _ => false

/-- The two's complement integer formats (R62). -/
def fmtIsInt (f : Fmt) : Bool :=
  match f with
  | .int8 | .int4 => true
  | _ => false

/-- Mantissa width (R61). -/
def fmtMan (f : Fmt) : Nat :=
  match f with
  | .fp64 => 52 | .fp32 => 23 | .bf16 => 7 | .fp16 => 10 | .e4m3 => 3 | .e5m2 => 2
  | .e3m2 => 2 | .e2m3 => 3 | .e2m1 => 1 | .mxint8 | .int8 | .int4 => 0

/-- Exponent width (R61). -/
def fmtExp (f : Fmt) : Nat :=
  match f with
  | .fp64 => 11 | .fp32 => 8 | .bf16 => 8 | .fp16 => 5 | .e4m3 => 4 | .e5m2 => 5
  | .e3m2 => 3 | .e2m3 => 2 | .e2m1 => 2 | .mxint8 | .int8 | .int4 => 0

/-- Exponent bias (R61). -/
def fmtBias (f : Fmt) : Nat :=
  match f with
  | .fp64 => 1023 | .fp32 => 127 | .bf16 => 127 | .fp16 => 15 | .e4m3 => 7 | .e5m2 => 15
  | .e3m2 => 3 | .e2m3 => 1 | .e2m1 => 1 | .mxint8 | .int8 | .int4 => 0

/-- The largest finite magnitude of a floating-point format (R61), as numerator over denominator. -/
def fmtMax (f : Fmt) : Nat × Nat :=
  match f with
  | .fp64 => ((2 ^ 53 - 1) * 2 ^ 971, 1)
  | .fp32 => ((2 ^ 24 - 1) * 2 ^ 104, 1)
  | .bf16 => ((2 ^ 8 - 1) * 2 ^ 120, 1)
  | .fp16 => (65504, 1)
  | .e4m3 => (448, 1)
  | .e5m2 => (57344, 1)
  | .e3m2 => (28, 1)
  | .e2m3 => (15, 2)
  | .e2m1 => (6, 1)
  | .mxint8 => (127, 64)
  | .int8 => (127, 1)
  | .int4 => (7, 1)

/-- The exponent of the element format's largest normal, for the choice of a block scale (R70). -/
def fmtEmax (f : Fmt) : Int :=
  match f with
  | .e4m3 => 8 | .e5m2 => 15 | .e3m2 => 4 | .e2m3 => 2 | .e2m1 => 2 | _ => 0

/-! ### Exact values -/

/-- `2 ^ e` for an integer exponent, as numerator over denominator. -/
def pow2 (e : Int) : Nat × Nat :=
  if 0 ≤ e then (2 ^ e.toNat, 1) else (1, 2 ^ (-e).toNat)

/-- The value with magnitude `n / d`, a signed zero when `n` is zero. -/
def numMk (neg : Bool) (n d : Nat) : Num :=
  if n = 0 then .zero neg else .fin neg n d

/-- floor(log2 (n / d)) for positive `n` and `d`. -/
def floorLog2 (n d : Nat) : Int :=
  let k : Int := (Nat.log2 n : Int) - (Nat.log2 d : Int)
  let p := pow2 k
  if d * p.1 ≤ n * p.2 then k else k - 1

/-- The exact product (R90: an invalid product is a NaN). -/
def numMul (x y : Num) : Num :=
  match x, y with
  | .nan, _ | _, .nan => .nan
  | .inf _, .zero _ | .zero _, .inf _ => .nan
  | .inf a, .inf b => .inf (a != b)
  | .inf a, .fin b _ _ => .inf (a != b)
  | .fin a _ _, .inf b => .inf (a != b)
  | .zero a, .zero b => .zero (a != b)
  | .zero a, .fin b _ _ => .zero (a != b)
  | .fin a _ _, .zero b => .zero (a != b)
  | .fin a n d, .fin b n' d' => .fin (a != b) (n * n') (d * d')

/-- The exact quotient, with the special results of IEEE 754. -/
def numDiv (x y : Num) : Num :=
  match x, y with
  | .nan, _ | _, .nan => .nan
  | .inf _, .inf _ | .zero _, .zero _ => .nan
  | .inf a, .zero b => .inf (a != b)
  | .inf a, .fin b _ _ => .inf (a != b)
  | .zero a, .inf b => .zero (a != b)
  | .zero a, .fin b _ _ => .zero (a != b)
  | .fin a _ _, .inf b => .zero (a != b)
  | .fin a _ _, .zero b => .inf (a != b)
  | .fin a n d, .fin b n' d' => .fin (a != b) (n * d') (d * n')

/-- Negation. -/
def numNeg (x : Num) : Num :=
  match x with
  | .nan => .nan
  | .inf a => .inf (!a)
  | .zero a => .zero (!a)
  | .fin a n d => .fin (!a) n d

/-- Magnitude. -/
def numAbs (x : Num) : Num :=
  match x with
  | .nan => .nan
  | .inf _ => .inf false
  | .zero _ => .zero false
  | .fin _ n d => .fin false n d

/-- A signed rational as (integer numerator, denominator); zero for a value that is not finite. -/
def numRat (x : Num) : Int × Nat :=
  match x with
  | .fin neg n d => (if neg then -(n : Int) else n, d)
  | _ => (0, 1)

/-- Sum of two signed rationals, over the larger denominator when it is a multiple of the smaller. -/
def ratAdd (x y : Int × Nat) : Int × Nat :=
  if y.2 % x.2 = 0 then (x.1 * ((y.2 / x.2 : Nat) : Int) + y.1, y.2)
  else if x.2 % y.2 = 0 then (x.1 + y.1 * ((x.2 / y.2 : Nat) : Int), x.2)
  else (x.1 * (y.2 : Int) + y.1 * (x.2 : Int), x.2 * y.2)

/-- Is the value a NaN? -/
def numIsNan (x : Num) : Bool := match x with | .nan => true | _ => false
/-- Is the value the infinity of this sign? -/
def numIsInf (neg : Bool) (x : Num) : Bool := match x with | .inf s => s == neg | _ => false
/-- Is the value −0? -/
def numIsNegZero (x : Num) : Bool := match x with | .zero s => s | _ => false

/-- The exact sum of a list of values: NaN for a NaN or for infinities of both signs; an exact zero is −0 only when
every addend is −0 (R98 step 2, and IEEE 754 addition under RNE for two addends). -/
def numSum (xs : List Num) : Num :=
  if xs.any numIsNan || (xs.any (numIsInf false) && xs.any (numIsInf true)) then .nan
  else if xs.any (numIsInf false) then .inf false
  else if xs.any (numIsInf true) then .inf true
  else
    let s := xs.foldl (fun acc x => ratAdd acc (numRat x)) (0, 1)
    if s.1 = 0 then .zero (!xs.isEmpty && xs.all numIsNegZero)
    else .fin (s.1 < 0) s.1.natAbs s.2

/-- Total order used by MAX, MIN and SORT on values that are not NaN: −0 lies below +0 (R140). -/
def numLe (x y : Num) : Bool :=
  match x, y with
  | .inf true, _ => true
  | _, .inf false => true
  | .inf false, _ => false
  | _, .inf true => false
  | .zero a, .zero b => a || !b
  | _, _ =>
    let p := numRat x
    let q := numRat y
    p.1 * (q.2 : Int) ≤ q.1 * (p.2 : Int)

/-! ### Rounding -/

/-- Round the positive magnitude `n / d` to a multiple of `2 ^ u`: the multiple's count. `neg` is the value's sign,
`r` the generator value of R76 used by SR (R75). -/
def roundCount (mode : Rnd) (neg : Bool) (r : Nat) (n d : Nat) (u : Int) : Nat :=
  let p := pow2 u
  let num := n * p.2
  let den := d * p.1
  let q := num / den
  let rem := num % den
  if rem = 0 then q
  else
    match mode with
    | .rne => if 2 * rem > den || (2 * rem = den && q % 2 = 1) then q + 1 else q
    | .rtz => q
    | .rup => if neg then q else q + 1
    | .rdn => if neg then q + 1 else q
    | .sr => if r < 65536 * rem / den then q + 1 else q

/-- The exponent of the spacing of format `f` at magnitude `n / d`: subnormals share the spacing of the smallest
normal (R61, R79). MXINT8 has the fixed spacing 1/64 (R62), the integer formats 1. -/
def fmtUlp (f : Fmt) (n d : Nat) : Int :=
  match f with
  | .mxint8 => -6
  | .int8 | .int4 => 0
  | _ =>
    let emin : Int := 1 - (fmtBias f : Int)
    max (floorLog2 n d) emin - (fmtMan f : Int)

/-- What a finite overflow becomes in a format with infinities or E4M3 (R81, R83). -/
def overflow (f : Fmt) (mode : Rnd) (sat neg : Bool) : Num :=
  let top := Num.fin neg (fmtMax f).1 (fmtMax f).2
  let infinite : Num := if f = .e4m3 then .nan else .inf neg
  if sat && (f = .e4m3 || f = .e5m2) then top
  else match mode with
    | .rne => infinite
    | .rtz => top
    | .rup => if neg then top else infinite
    | .rdn => if neg then infinite else top
    | .sr => infinite

/-- Convert a value to a format other than a microscaling one, or to one element of a microscaling format
(after the division by the block scale). `sat` is the resolved SAT of R81. -/
def convert (f : Fmt) (mode : Rnd) (sat : Bool) (r : Nat) (x : Num) : Num :=
  match f with
  | .int8 | .int4 =>
    let lo : Nat := if f = .int8 then 128 else 8
    match x with
    | .nan | .zero _ => .zero false
    | .inf neg => if neg then .fin true lo 1 else .fin false (lo - 1) 1
    | .fin neg n d =>
      let q := roundCount mode neg r n d 0
      let q := if neg then min q lo else min q (lo - 1)
      if q = 0 then .zero false else .fin neg q 1
  | .e3m2 | .e2m3 | .e2m1 | .mxint8 =>
    match x with
    | .nan => .zero false
    | .inf neg => .fin neg (fmtMax f).1 (fmtMax f).2
    | .zero neg => .zero neg
    | .fin neg n d =>
      let u := fmtUlp f n d
      let q := roundCount mode neg r n d u
      let p := pow2 u
      let m := fmtMax f
      if m.1 * p.2 < q * p.1 * m.2 then .fin neg m.1 m.2
      else if q = 0 then .zero neg else .fin neg (q * p.1) p.2
  | _ =>
    match x with
    | .nan => .nan
    | .inf neg => if f = .e4m3 then .nan else .inf neg
    | .zero neg => .zero neg
    | .fin neg n d =>
      let u := fmtUlp f n d
      let q := roundCount mode neg r n d u
      let p := pow2 u
      let m := fmtMax f
      if m.1 * p.2 < q * p.1 * m.2 then overflow f mode sat neg
      else if q = 0 then .zero neg else .fin neg (q * p.1) p.2

/-- Does a conversion to `f` overflow (R85): is the rounded magnitude of a finite value larger than the largest finite value of a
floating-point format? The formats with integer elements saturate and overflow nothing (log 143). -/
def convOver (f : Fmt) (mode : Rnd) (r : Nat) (x : Num) : Bool :=
  match f, x with
  | .int8, _ | .int4, _ | .mxint8, _ => false
  | _, .fin neg n d =>
    let u := fmtUlp f n d
    decide ((fmtMax f).1 * (pow2 u).2 < roundCount mode neg r n d u * (pow2 u).1 * (fmtMax f).2)
  | _, _ => false

/-- Round to nearest even in a working format (R73: every operation that takes no rounding code). -/
def rne (f : Fmt) (x : Num) : Num := convert f .rne false 0 x

/-- The stochastic rounding generator of R76: the 16-bit `r` of element (`row`, `col`). -/
def srValue (seed tag row col : Nat) : Nat :=
  let m := 2 ^ 64
  let index := ((row * 2 ^ 32) ||| col) % m
  let z := ((seed ^^^ (tag * 2 ^ 48 % m)) + (index + 1) * 0x9e3779b97f4a7c15) % m
  let z := (z ^^^ (z / 2 ^ 30)) * 0xbf58476d1ce4e5b9 % m
  let z := (z ^^^ (z / 2 ^ 27)) * 0x94d049bb133111eb % m
  let z := z ^^^ (z / 2 ^ 31)
  z / 2 ^ 48

/-! ### Encodings of single elements -/

/-- The value of an element code (R61, R62, R64 to R67); microscaling elements without their scale. -/
def decodeElem (f : Fmt) (c : Nat) : Num :=
  match f with
  | .int8 | .int4 | .mxint8 =>
    let half := if f = .int4 then 8 else 128
    let den := if f = .mxint8 then 64 else 1
    let c := c % (2 * half)
    if c < half then numMk false c den else .fin true (2 * half - c) den
  | _ =>
    let m := fmtMan f
    let e := fmtExp f
    let man := c % 2 ^ m
    let ex := c / 2 ^ m % 2 ^ e
    let neg := c / 2 ^ (m + e) % 2 = 1
    let top := 2 ^ e - 1
    let special : Bool :=
      match f with
      | .fp64 | .fp32 | .bf16 | .fp16 | .e5m2 => ex = top
      | .e4m3 => ex = top && man = 7
      | _ => false
    if special then
      if f = .e4m3 || man ≠ 0 then .nan else .inf neg
    else if ex = 0 then
      let p := pow2 (1 - (fmtBias f : Int) - (m : Int))
      numMk neg (man * p.1) p.2
    else
      let p := pow2 ((ex : Int) - (fmtBias f : Int) - (m : Int))
      .fin neg ((2 ^ m + man) * p.1) p.2

/-- The canonical NaN of a format (R80). -/
def canonicalNan (f : Fmt) : Nat :=
  match f with
  | .fp64 => 0x7FF8000000000000
  | .fp32 => 0x7FC00000
  | .bf16 => 0x7FC0
  | .fp16 => 0x7E00
  | .e4m3 => 0x7F
  | .e5m2 => 0x7E
  | _ => 0

/-- The code of a value that the format represents. -/
def encodeElem (f : Fmt) (x : Num) : Nat :=
  match f with
  | .int8 | .int4 | .mxint8 =>
    let full := if f = .int4 then 16 else 256
    let scale := if f = .mxint8 then 64 else 1
    match x with
    | .fin neg n d => let k := n * scale / d; if neg then (full - k) % full else k
    | _ => 0
  | _ =>
    let m := fmtMan f
    let e := fmtExp f
    let sign := fun neg : Bool => if neg then 2 ^ (m + e) else 0
    match x with
    | .nan => canonicalNan f
    | .inf neg => sign neg + (2 ^ e - 1) * 2 ^ m
    | .zero neg => sign neg
    | .fin neg n d =>
      let ex := floorLog2 n d
      let emin : Int := 1 - (fmtBias f : Int)
      if ex < emin then
        let p := pow2 (emin - (m : Int))
        sign neg + n * p.2 / (d * p.1)
      else
        let p := pow2 (ex - (m : Int))
        sign neg + (ex + (fmtBias f : Int)).toNat * 2 ^ m + (n * p.2 / (d * p.1) - 2 ^ m)

/-! ### Microscaling blocks -/

/-- Scale a value by `2 ^ e`. -/
def numScale (e : Int) (x : Num) : Num :=
  match x with
  | .fin neg n d => let p := pow2 e; .fin neg (n * p.1) (d * p.2)
  | y => y

/-- The value of an element of a block whose scale code is `s` (R69: code 0xFF makes every element a NaN). -/
def decodeMx (f : Fmt) (s c : Nat) : Num :=
  if s = 0xFF then .nan else numScale ((s : Int) - 127) (decodeElem f c)

/-- The larger of two positive rationals. -/
def ratMax (x y : Nat × Nat) : Nat × Nat := if x.1 * y.2 < y.1 * x.2 then y else x

/-- The largest magnitude of a block of values, as a rational; 0/1 when all are zero. -/
def maxMagnitude (xs : List Num) : Nat × Nat :=
  xs.foldl (fun m x => match x with | .fin _ n d => ratMax m (n, d) | _ => m) (0, 1)

/-- Is the value a NaN or an infinity? -/
def numIsSpecial (x : Num) : Bool := match x with | .nan | .inf _ => true | _ => false

/-- The exponent of the block scale that R70 chooses for a block of finite values, not all zero. -/
def mxExp (f : Fmt) (xs : List Num) : Int :=
  let top := maxMagnitude xs
  min (max (floorLog2 top.1 top.2 - fmtEmax f) (-127)) 127

/-- Elements of a block that overflow their element format (R70, R85). -/
def mxOvers (f : Fmt) (mode : Rnd) (xs : List (Num × Nat)) : Nat :=
  if xs.any (fun p => numIsSpecial p.1) then 0
  else (xs.filter (fun p => convOver f mode p.2 (numScale (-(mxExp f (xs.map Prod.fst))) p.1))).length

/-- Convert one block to an MX format (R70): the scale code and the element codes. `rs` are the SR values. -/
def encodeMxBlock (f : Fmt) (mode : Rnd) (xs : List (Num × Nat)) : Nat × List Nat :=
  if xs.any (fun p => numIsSpecial p.1) then (0xFF, xs.map (fun _ => 0))
  else
    let top := maxMagnitude (xs.map Prod.fst)
    if top.1 = 0 then (127, xs.map (fun _ => 0))
    else
      let e := mxExp f (xs.map Prod.fst)
      ((e + 127).toNat,
        xs.map (fun p => encodeElem f (convert f mode true p.2 (numScale (-e) p.1))))

/-! ### The long accumulator -/

/-- The empty accumulator. -/
def accZero : LongAcc := { a := 0, w := 0, nanSeen := false, posInf := false, negInf := false }

/-- Bring the exact integer sum back into the 640-bit range, counting the wrap (R88). -/
def accWrap (s w : Int) : Int × Int :=
  if 2 ^ 639 ≤ s then (s - 2 ^ 640, w + 1)
  else if s < -(2 ^ 639) then (s + 2 ^ 640, w - 1)
  else (s, w)

/-- Add one addend exactly (R88 to R90). -/
def accAdd (l : LongAcc) (x : Num) : LongAcc :=
  match x with
  | .nan => { l with nanSeen := true }
  | .inf neg => if neg then { l with negInf := true } else { l with posInf := true }
  | .zero _ => l
  | .fin neg n d =>
    let t : Nat := n * 2 ^ 320 / d
    let p := accWrap (l.a + (if neg then -(t : Int) else (t : Int))) l.w
    { l with a := p.1, w := p.2 }

/-- Add a list of addends. -/
def accAddAll (l : LongAcc) (xs : List Num) : LongAcc := xs.foldl accAdd l

/-- Combine two long accumulators (R94). -/
def accCombine (l k : LongAcc) : LongAcc :=
  let p := accWrap (l.a + k.a) (l.w + k.w)
  { a := p.1, w := p.2, nanSeen := l.nanSeen || k.nanSeen, posInf := l.posInf || k.posInf,
    negInf := l.negInf || k.negInf }

/-- The exact value the accumulator stands for, before any rounding (R91 cases 1, 2 and 4). -/
def accValue (l : LongAcc) : Num :=
  if l.nanSeen || (l.posInf && l.negInf) then .nan
  else if l.posInf then .inf false
  else if l.negInf then .inf true
  else if l.a = 0 then .zero false
  else .fin (l.a < 0) l.a.natAbs (2 ^ 320)

/-- Does the accumulator end under case 3 of R91? -/
def accOverflowed (l : LongAcc) : Bool :=
  !(l.nanSeen || l.posInf || l.negInf) && decide (l.w ≠ 0)

/-- The value handed to the conversion of the target (R91): in case 3 a NaN, or for an integer target the limit by the
sign of W. -/
def accResult (target : Fmt) (l : LongAcc) : Num :=
  if accOverflowed l then
    if fmtIsInt target then .inf (l.w < 0) else .nan
  else accValue l

/-- Word `i` of A in two's complement (R93). -/
def accWord (l : LongAcc) (i : Nat) : Nat :=
  (l.a.emod (2 ^ 640 : Int)).toNat / 2 ^ (64 * i) % 2 ^ 64

/-- Is every word above `h` a copy of bit 63 of word `h`? -/
def accSpanOk (l : LongAcc) (h : Nat) : Bool :=
  let fill := if accWord l h / 2 ^ 63 = 1 then 2 ^ 64 - 1 else 0
  (List.range 10).all (fun i => i ≤ h || accWord l i == fill)

/-- The words of a compressed partial, header first, with the narrowest span (R93). -/
def accPack (l : LongAcc) : List Nat :=
  let flags := (if l.nanSeen then 2 ^ 15 else 0) + (if l.posInf then 2 ^ 14 else 0)
    + (if l.negInf then 2 ^ 13 else 0)
  let wrap : Nat := (l.w.emod (2 ^ 32)).toNat * 2 ^ 32
  if l.a = 0 then [wrap + flags + 2 ^ 12 + 1]
  else
    let lo := ((List.range 10).find? (fun i => accWord l i != 0)).getD 0
    let hi := ((List.range 10).find? (fun h => decide (lo ≤ h) && accSpanOk l h)).getD 9
    (wrap + flags + hi * 2 ^ 8 + lo * 2 ^ 4 + 1) ::
      (List.range (hi - lo + 1)).map (fun i => accWord l (lo + i))

/-- The accumulator a compressed partial stands for; `none` where FORM, the reserved bits or the span break R93. -/
def accUnpack (ws : List Nat) : Option LongAcc :=
  match ws with
  | [] => none
  | h :: body =>
    let wrap : Nat := h / 2 ^ 32 % 2 ^ 32
    let w : Int := if wrap < 2 ^ 31 then wrap else (wrap : Int) - 2 ^ 32
    let zero := h / 2 ^ 12 % 2 = 1
    let hi := h / 2 ^ 8 % 16
    let lo := h / 2 ^ 4 % 16
    let flag := fun b : Nat => decide (h / 2 ^ b % 2 = 1)
    if h % 16 ≠ 1 || h / 2 ^ 16 % 2 ^ 16 ≠ 0 || hi > 9 || lo > hi || (zero && (hi ≠ 0 || lo ≠ 0)) then none
    else
      let words := if zero then [] else body.take (hi - lo + 1)
      let low : Nat := words.foldr (fun x acc => x + 2 ^ 64 * acc) 0 * 2 ^ (64 * lo)
      let negative := !zero && decide (words.getLastD 0 / 2 ^ 63 = 1)
      let a : Int := if negative then (low : Int) - ((2 ^ (64 * (hi + 1)) : Nat) : Int) else (low : Int)
      some { a := a, w := w, nanSeen := flag 15, posInf := flag 14, negInf := flag 13 }

/-! ### FAST accumulation -/

/-- Split a list into pieces of at most `k` elements (structural on `fuel`, at most the list's length). -/
def chunksOf {α : Type} (k : Nat) : Nat → List α → List (List α)
  | 0, _ => []
  | fuel + 1, xs => if xs.isEmpty then [] else xs.take k :: chunksOf k fuel (xs.drop k)

/-- Chunks of 32 addends (R98 step 1). -/
def chunks32 {α : Type} (xs : List α) : List (List α) := chunksOf 32 xs.length xs

/-- FAST accumulation from an optional first addend (R98 steps 2 and 3). An empty accumulation is +0. -/
def fastSum (start : Option Num) (addends : List Num) : Option Num :=
  (chunks32 addends).foldl
    (fun acc c =>
      let v := rne .fp32 (numSum c)
      match acc with
      | none => some v
      | some a => some (rne .fp32 (numSum [a, v])))
    start

/-- FP64 accumulation: ascending order, RNE at each addition (R100). -/
def fp64Sum (start : Option Num) (addends : List Num) : Option Num :=
  addends.foldl
    (fun acc v => match acc with | none => some v | some a => some (rne .fp64 (numSum [a, v])))
    start

/-! ### Correctly rounded functions -/

/-- Interval arithmetic on fixed-point integers with `p` fractional bits: lower and upper bound. -/
abbrev Ival := Nat × Nat

/-- Ceiling of a quotient. -/
def ceilDiv (a b : Nat) : Nat := (a + b - 1) / b

/-- A nonnegative rational as an interval. -/
def ivRat (p n d : Nat) : Ival := (n * 2 ^ p / d, ceilDiv (n * 2 ^ p) d)
/-- Product of nonnegative intervals. -/
def ivMul (p : Nat) (x y : Ival) : Ival := (x.1 * y.1 / 2 ^ p, ceilDiv (x.2 * y.2) (2 ^ p))
/-- Quotient of nonnegative intervals whose divisor is positive; a zero lower bound widens to the largest integer. -/
def ivDiv (p : Nat) (x y : Ival) : Ival :=
  (x.1 * 2 ^ p / y.2, if y.1 = 0 then x.2 * 2 ^ p else ceilDiv (x.2 * 2 ^ p) y.1)
/-- Sum of intervals. -/
def ivAdd (x y : Ival) : Ival := (x.1 + y.1, x.2 + y.2)
/-- Difference of intervals, cut at zero. -/
def ivSub (x y : Ival) : Ival := (x.1 - y.2, x.2 - y.1)

/-- Terms of the exponential series at `y`, at most 2^-8: `k` counts the terms done, `t` is the last term, `acc` the sum. -/
def expSeries (p : Nat) (y : Ival) : Nat → Nat → Ival → Ival → Ival
  | 0, _, t, acc => (acc.1, acc.2 + 2 * t.2 + 1)
  | n + 1, k, t, acc =>
    let m := ivMul p t y
    let t' : Ival := (m.1 / k, ceilDiv m.2 k)
    expSeries p y n (k + 1) t' (ivAdd acc t')

/-- Square an interval `n` times. -/
def ivSquares (p : Nat) : Nat → Ival → Ival
  | 0, x => x
  | n + 1, x => ivSquares p n (ivMul p x x)

/-- e raised to a nonnegative interval of at most 2,048. -/
def ivExp (p : Nat) (x : Ival) : Ival :=
  let y : Ival := (x.1 / 2 ^ 19, ceilDiv x.2 (2 ^ 19))
  let one : Ival := (2 ^ p, 2 ^ p)
  ivSquares p 19 (expSeries p y (p / 8 + 2) 1 one one)

/-- Terms of atanh z (`sign` false) or atan z (`sign` true), for z at most 1/3. -/
def atSeries (p : Nat) (alternate : Bool) (z2 : Ival) : Nat → Nat → Ival → Ival → Ival → Ival
  | 0, _, t, pos, neg =>
    let s := ivSub pos neg
    (s.1 - t.2 - 1, s.2 + t.2 + 1)
  | n + 1, k, t, pos, neg =>
    let t' := ivMul p t z2
    let term : Ival := (t'.1 / (2 * k + 1), ceilDiv t'.2 (2 * k + 1))
    if alternate && k % 2 = 1 then atSeries p alternate z2 n (k + 1) t' pos (ivAdd neg term)
    else atSeries p alternate z2 n (k + 1) t' (ivAdd pos term) neg

/-- atanh of a rational at most 1/3. -/
def ivAtanh (p n d : Nat) : Ival :=
  let z := ivRat p n d
  atSeries p false (ivMul p z z) (p / 3 + 2) 1 z z (0, 0)

/-- atan of 1 / k. -/
def ivAtanInv (p k : Nat) : Ival :=
  let z := ivRat p 1 k
  atSeries p true (ivMul p z z) (p / 3 + 2) 1 z z (0, 0)

/-- π by Machin's formula. -/
def ivPi (p : Nat) : Ival :=
  let a := ivAtanInv p 5
  let b := ivAtanInv p 239
  ivSub (16 * a.1, 16 * a.2) (4 * b.1, 4 * b.2)

/-- Square root of an interval. -/
def ivSqrt (p : Nat) (x : Ival) : Ival :=
  (Nat.sqrt (x.1 * 2 ^ p), Nat.sqrt (x.2 * 2 ^ p) + 1)

/-- ln 2. -/
def ivLn2 (p : Nat) : Ival :=
  let a := ivAtanh p 1 3
  (2 * a.1, 2 * a.2)

/-- |ln (n / d)| of a positive rational. -/
def ivLogAbs (p n d : Nat) : Ival :=
  let k := floorLog2 n d
  let q := pow2 (-k)
  let mn := n * q.1
  let md := d * q.2
  let a := ivAtanh p (mn - md) (mn + md)
  let frac : Ival := (2 * a.1, 2 * a.2)
  let l2 := ivLn2 p
  let whole : Ival := (k.natAbs * l2.1, k.natAbs * l2.2)
  if 0 ≤ k then ivAdd whole frac else ivSub whole frac

/-- Round an interval of one sign when both bounds round alike. -/
def ivRound (f : Fmt) (p : Nat) (neg : Bool) (x : Ival) : Option Num :=
  let lo := rne f (numMk neg x.1 (2 ^ p))
  let hi := rne f (numMk neg x.2 (2 ^ p))
  if encodeElem f lo = encodeElem f hi then some lo else none

/-- Raise the precision until the bounds round alike. The exact values are irrational, so some precision decides; the
last one stands where none of these does (UNVERIFIED, log 13). -/
def refine (f : Fmt) (neg : Bool) (g : Nat → Ival) : Num :=
  match ivRound f 128 neg (g 128) with
  | some v => v
  | none =>
    match ivRound f 256 neg (g 256) with
    | some v => v
    | none =>
      match ivRound f 1280 neg (g 1280) with
      | some v => v
      | none =>
        match ivRound f 3072 neg (g 3072) with
        | some v => v
        | none => rne f (numMk neg (g 6144).1 (2 ^ 6144))

/-- Is the magnitude `n / d` at least 2,000, where e to it leaves every format's range? -/
def isHuge (n d : Nat) : Bool := decide (2000 * d ≤ n)

/-- e^x for a finite nonzero x of the given sign, as an interval. -/
def ivExpSigned (p : Nat) (neg : Bool) (x : Ival) : Ival :=
  let one : Ival := (2 ^ p, 2 ^ p)
  if neg then ivDiv p one (ivExp p x) else ivExp p x

/-- EXP (R139, R140). -/
def fExp (f : Fmt) (x : Num) : Num :=
  match x with
  | .nan => .nan
  | .inf neg => if neg then .zero false else .inf false
  | .zero _ => .fin false 1 1
  | .fin neg n d =>
    if isHuge n d then (if neg then .zero false else .inf false)
    else refine f false (fun p => ivExpSigned p neg (ivRat p n d))

/-- LOG (R139, R140). Of a zero of either sign the spec states no value: here −∞ (DESIGN CHOICE, log 146). -/
def fLog (f : Fmt) (x : Num) : Num :=
  match x with
  | .nan => .nan
  | .inf neg => if neg then .nan else .inf false
  | .zero _ => .inf true
  | .fin neg n d =>
    if neg then .nan
    else if n = d then .zero false
    else refine f (decide (n < d)) (fun p => ivLogAbs p n d)

/-- TANH (R139, R140). -/
def fTanh (f : Fmt) (x : Num) : Num :=
  match x with
  | .nan => .nan
  | .inf neg => .fin neg 1 1
  | .zero neg => .zero neg
  | .fin neg n d =>
    if isHuge n d then .fin neg 1 1
    else refine f neg (fun p =>
      let one : Ival := (2 ^ p, 2 ^ p)
      let e := ivExp p (ivRat p (2 * n) d)
      ivDiv p (ivSub e one) (ivAdd e one))

/-- 1 / (1 + e^(−x)) for a finite x, as an interval. -/
def ivSigmoid (p : Nat) (neg : Bool) (x : Ival) : Ival :=
  let one : Ival := (2 ^ p, 2 ^ p)
  ivDiv p one (ivAdd one (ivExpSigned p (!neg) x))

/-- SIGMOID (R139, R140). -/
def fSigmoid (f : Fmt) (x : Num) : Num :=
  match x with
  | .nan => .nan
  | .inf neg => if neg then .zero false else .fin false 1 1
  | .zero _ => .fin false 1 2
  | .fin neg n d =>
    if isHuge n d then (if neg then .zero false else .fin false 1 1)
    else refine f false (fun p => ivSigmoid p neg (ivRat p n d))

/-- SiLU (R127). -/
def fSilu (f : Fmt) (x : Num) : Num :=
  match x with
  | .nan => .nan
  | .inf neg => if neg then .zero true else .inf false
  | .zero neg => .zero neg
  | .fin neg n d =>
    if isHuge n d then (if neg then .zero true else x)
    else refine f neg (fun p => ivMul p (ivRat p n d) (ivSigmoid p neg (ivRat p n d)))

/-- √(8/π) × (x + 0.044715 x³), twice the argument of the tanh in GELU (R127), for a magnitude x. -/
def ivGeluArg (p n d : Nat) : Ival :=
  let c := ivSqrt p (ivDiv p (8 * 2 ^ p, 8 * 2 ^ p) (ivPi p))
  ivMul p c (ivRat p (1000000 * n * d * d + 44715 * n * n * n) (1000000 * d * d * d))

/-- GELU, tanh form (R127): 0.5x(1 + tanh u) is x / (1 + e^(−2u)). -/
def fGelu (f : Fmt) (x : Num) : Num :=
  match x with
  | .nan => .nan
  | .inf neg => if neg then .zero true else .inf false
  | .zero neg => .zero neg
  | .fin neg n d =>
    if isHuge (44715 * n * n * n + n * d * d * 1000000) (1000000 * d * d * d) then (if neg then .zero true else x)
    else refine f neg (fun p => ivMul p (ivRat p n d) (ivSigmoid p neg (ivGeluArg p n d)))

/-- ReLU (R127). -/
def fRelu (x : Num) : Num :=
  match x with
  | .nan => .nan
  | .inf neg => if neg then .zero false else .inf false
  | .zero _ => .zero false
  | .fin neg n d => if neg then .zero false else .fin false n d

/-- SQRT, correctly rounded: the interval is refined, an exact root is found exactly. -/
def fSqrt (f : Fmt) (x : Num) : Num :=
  match x with
  | .nan => .nan
  | .inf neg => if neg then .nan else .inf false
  | .zero neg => .zero neg
  | .fin neg n d =>
    if neg then .nan
    else
      let r := Nat.sqrt (n * d)
      if r * r = n * d then rne f (.fin false r d)
      else refine f false (fun p =>
        (Nat.sqrt (n * 2 ^ (2 * p) / d), Nat.sqrt (n * 2 ^ (2 * p) / d) + 1))

/-- RSQRT, correctly rounded. Of −0 the spec states no value: here −∞, the reciprocal of −0 (DESIGN CHOICE, log 146). -/
def fRsqrt (f : Fmt) (x : Num) : Num :=
  match x with
  | .nan => .nan
  | .inf neg => if neg then .nan else .zero false
  | .zero neg => .inf neg
  | .fin neg n d =>
    if neg then .nan
    else
      let r := Nat.sqrt (n * d)
      if r * r = n * d then rne f (.fin false d r)
      else refine f false (fun p =>
        (Nat.sqrt (d * 2 ^ (2 * p) / n), Nat.sqrt (d * 2 ^ (2 * p) / n) + 1))

/-- MAX: a NaN input gives the NaN; −0 lies below +0 (R140). -/
def fMax (x y : Num) : Num :=
  if numIsNan x || numIsNan y then .nan else if numLe x y then y else x
/-- MIN: as MAX (R140). -/
def fMin (x y : Num) : Num :=
  if numIsNan x || numIsNan y then .nan else if numLe x y then x else y

/-! ### Resolved settings and conversion pairs -/

/-- The mode a rounding code selects when ROUND_DEFAULT holds `dflt`; a code 7 that resolves to SR for a target wider
than 8 bits rounds RNE (R72, R118). Reserved codes are refused by the encoding checks. -/
def roundOf (dflt code : Nat) (target : Fmt) : Rnd :=
  match code with
  | 0 => .rne | 1 => .rtz | 2 => .rup | 3 => .rdn | 4 => .sr
  | _ =>
    match dflt with
    | 1 => .rtz | 2 => .rup | 3 => .rdn
    | 4 => if fmtBits target ≤ 8 then .sr else .rne
    | _ => .rne

/-- The resolved SAT: 1 saturates, 2 does not, 0 takes FP8_SAT_DEFAULT (R81). -/
def satOf (dflt code : Nat) : Bool :=
  match code with
  | 1 => true
  | 2 => false
  | _ => dflt = 1

/-- The pairs a data mover converts (R86). -/
def moverPair (a b : Fmt) : Bool :=
  if a = b then true
  else match a, b with
    | .fp64, .fp32 | .fp32, .fp64 => true
    | .fp64, _ | _, .fp64 => false
    | _, _ => true

end Sys2Proof.Machine
end

