-- ==== Sys2Proof/Machine/State.lean ====
section
/-! DEFINITION. The machine's state as plain data, the reasons a command can stop, and the state after reset.
Tables are lists of (key, value) pairs sorted by key; see Machine/Ops.lean for the operations. -/

namespace Sys2Proof.Machine

/-- Why a command is refused without effect. -/
inductive Refusal
  /-- Raised by an arm of `exec` whose command has no meaning in the model; safe. -/
  | notModelled (mnemonic : String)
  /-- Raised by a debug-port scan-chain access, whose effect the spec does not describe (R527); safe. -/
  | scanChainNotDescribed
  deriving DecidableEq, Repr

/-- Why the machine stops. -/
inductive Fault
  /-- Raised by a debug-port access to a local address outside every range of R282; safe. -/
  | nonexistentLocal
  deriving DecidableEq, Repr

/-- A table: (key, value) pairs, keys strictly rising. -/
abbrev Table (α : Type) := List (Nat × α)

/-- The completion statuses of R391. -/
inductive Status
  | ok | aborted | fenceError | xlateFault | rights | poison | peerLost | timeout | keyRetired | resetAbort | numeric
  | allocFail | undeliverable | epochStale | queueDestroyed | format
  deriving DecidableEq, Repr

/-- A place that translation yields (R281): a local address of this node, host apertures included, or an address on
another node. -/
inductive Place
  | loc (a : Nat)
  | peer (node a : Nat)
  deriving DecidableEq, Repr

/-! ### Clocks (R48 to R53) -/

/-- A quarter's PLL. -/
inductive Pll
  | running | starting | stopped
  deriving DecidableEq, Repr

/-- A request held at a bridge or hub link for a stopped quarter (R53). -/
inductive HeldReq
  | storeRead (q off len : Nat)
  | storeWrite (q off : Nat) (data : List Byte) (poison : Bool)
  | window (who : Req) (l off : Nat) (write : Option (List Byte)) (len : Nat)
  | bobbinRead (b off len : Nat)
  | bobbinWrite (b off : Nat) (data : List Byte) (poison : Bool)
  | bar4Read (who : Req) (off len : Nat)
  | bar4Write (who : Req) (off : Nat) (data : List Byte)
  | device (addr : Nat) (data : List Byte)
  | cxl (port hoop addr len : Nat) (write : Option (List Byte))
  | debug (addr len : Nat) (write : Option (List Byte))
  deriving DecidableEq, Repr

/-- A doorbell that waits for earlier BAR4 writes of its function to land (R272): of a queue's SQ or CQ page, or of the invalidation
page. -/
inductive Bell
  | sqTail (who : Req) (queue : Nat) (value : Word)
  | cqHead (who : Req) (queue : Nat) (value : Word)
  | inval (who : Req) (word : Word)
  deriving DecidableEq, Repr

/-- Wick time, the quarters' timestamp counters and PLLs, when each PLL last began to start, and the requests held for a
stopped PLL. -/
structure Clocks where
  wick : Nat
  ts : List Nat
  pll : List Pll
  since : List Nat
  held : List (Nat × HeldReq)
  deriving DecidableEq, Repr

/-! ### Memory -/

/-- The last response the block gave a host, peer or manager: data bytes, poison, and whether it was refused
(Unsupported Request, a status other than OK); of a dictionary response also FLAGS and SESSION (R593). -/
structure Answer where
  data : List Byte
  poison : Bool
  status : Nat
  flags : Nat := 0
  session : Nat := 0
  deriving DecidableEq, Repr

/-- An open merge window: line, the buffered line and its integrity result (R41 to R46). -/
structure MergeWindow where
  line : Nat
  data : List Byte
  poison : Bool
  deriving DecidableEq, Repr

/-- A write waiting at a bobbin controller: a part of a block that waits for its merge (R240), or a write to a granule whose
remap runs (R570); the engine it is of, and the check that it carries (R242). -/
structure Merge where
  addr : Nat
  data : List Byte
  poison : Bool
  eng : Eng := .fe
  check : Option Nat := none
  deriving DecidableEq, Repr

/-- A load reservation on a 128-byte row of the local node (R164). -/
structure Resv where
  l : Nat
  c : Nat
  row : Nat
  deriving DecidableEq, Repr

/-- Local memory and its guards; `mail` holds the mailbox words that have landed and are not yet taken, by slot, and whether each is
poisoned; `badLinks` the links whose next block is delivered poisoned (R249). -/
structure Mem where
  cells : List Host.Cell
  storePoison : List Nat
  scratchPoison : List Nat
  resv : List Resv
  windows : List MergeWindow
  merges : List Merge
  zeroed : Bool
  corruptNext : List Nat
  mail : List (Nat × Word × Bool)
  badLinks : List LinkId
  deriving DecidableEq, Repr

/-- A picot write held at its source or at this receiving node (R273 to R276): its number, the engine that issued it and for what it
acts, the range row it was translated through, its place and bytes, whether those are poisoned, and the HOST page to count. `after`
names the source's earlier writes by number. `sender` is none for a picot write of this node, else the sender's node, FHID and eyelet,
with the message's arrival number in `id`. -/
structure Picot where
  id : Nat
  eng : Eng
  hoop : Nat
  ctx : Nat
  aspace : Nat
  entry : Nat
  row : Nat
  place : Place
  data : List Byte
  poison : Bool
  page : Option Nat
  after : List Nat
  sender : Option (Nat × Nat × Nat)
  tag : Nat
  epoch : Nat
  cls : Nat
  failed : Option Status
  deriving DecidableEq, Repr

/-! ### Translation (07) -/

/-- A lookaside entry (R292). `lk` is the lookaside: a lantern ID, 1024 + quarter, or 1028 for the front end. -/
structure LookEntry where
  lk : Nat
  hoop : Nat
  aspace : Nat
  row : Nat
  start : Nat
  len : Nat
  target : Nat
  rd : Bool
  wr : Bool
  atomic : Bool
  countAt : Option Nat
  deriving DecidableEq, Repr

/-- How far the translation of one granule has come. -/
inductive XPhase
  | walking (stale : Bool)
  /-- Parked in a replay entry (R306): record type 1 MISS, 2 NONRES, 0 HELD. -/
  | parked (type : Nat)
  /-- Parked, with its REPLAY taken: it walks again in its turn (R293, R305). -/
  | again (type : Nat)
  /-- Answered with a failure the engine has not taken yet. -/
  | failed (status : Status)
  deriving DecidableEq, Repr

/-- A translation in progress: a walk, a parked access or an answer (R293, R306, R612). `kind` is ACCESS of R307. -/
structure XReq where
  eng : Eng
  hoop : Nat
  aspace : Nat
  ctx : Nat
  va : Nat
  kind : Nat
  row : Nat
  repeated : Bool
  phase : XPhase
  deriving DecidableEq, Repr

/-- A fault record that waits for the ring (R307, R309): type, REPEAT, ACCESS, the access's hoop, address space, context and engine,
address, range row and the wick time of the fault. -/
structure FaultRec where
  type : Nat
  repeated : Bool
  kind : Nat
  hoop : Nat
  aspace : Nat
  ctx : Nat
  eng : Eng
  va : Nat
  entry : Nat
  since : Nat
  deriving DecidableEq, Repr

/-- A pending invalidation (R299 to R303): `waits` names the requests it waits for. -/
structure Inval where
  op : Nat
  hoop : Nat
  entry : Nat
  fence : Option Nat
  via : Option Req
  seq : Nat
  waits : List Nat
  deriving DecidableEq, Repr

/-- The range map unit: valid entries in force by row (eight words), lookasides, translations, fault records that wait, pending invalidations,
doorbells held in the host (R303), bytes moved to and from HOST pages since the last write-back, by row × 2^28 + page. -/
structure RangeUnit where
  rows : Table (List Word)
  look : List LookEntry
  xreqs : List XReq
  records : List FaultRec
  invals : List Inval
  doorbells : List (Req × Word)
  counts : Table Nat
  deriving DecidableEq, Repr

/-! ### Remote requests and eyelets (08) -/

/-- A request to another node (R336, R341): who issued it, for which op or row, through which range
entry (65,536 for none), message code, eyelet and the candidate
set it was issued under, tag, map epoch and key epoch, address, length, data and its poison, wick time of issue and the time an answer may take; `answer` is status,
data and poison once the response came. -/
structure Remote where
  id : Nat
  eng : Eng
  hoop : Nat
  ctx : Nat
  row : Nat
  aspace : Nat
  entry : Nat
  msg : Nat
  node : Nat
  eye : Nat
  cands : List Nat
  tag : Nat
  epoch : Nat
  key : Nat
  addr : Nat
  len : Nat
  data : List Byte
  poison : Bool
  sent : Nat
  limit : Nat
  answer : Option (Status × List Byte × Bool)
  deriving DecidableEq, Repr

/-- A message queued at an eyelet for a credit: its class (true for a response) and its bytes. -/
structure TxMsg where
  response : Bool
  bytes : List Byte
  deriving DecidableEq, Repr

/-- A whole message received: its arrival number, the key epoch it came under and its bytes. -/
structure RxMsg where
  num : Nat
  key : Nat
  bytes : List Byte
  deriving DecidableEq, Repr

/-- One eyelet (R339 to R346). `state` is the LINK code of EYELET_STATE, `cfg` the configuration it came up with; `retrain`
says that it trains again, since `since`. Receive and transmit directions have each a map of logical to physical lanes, a
spare asked for (the failing lane), and a spare in use. `replay` holds the flits sent and not acknowledged by SEQ, `resends`
how often each was sent again, `ctrlDue` the CTRL flits for which that buffer has no room; `rxMsgs` the whole messages received, `out` the flits put on the fibre. -/
structure Eyelet where
  state : Nat
  cfg : Word
  version : Nat
  peer : Nat
  retrain : Bool
  since : Nat
  activeLanes : Nat
  rxMap : List Nat
  txMap : List Nat
  rxSpare : Bool
  txSpare : Bool
  rxAsked : Option Nat
  txAsked : Option Nat
  failing : List Nat
  txNext : Nat
  replay : List (Nat × List Byte)
  resends : List Nat
  ctrlDue : Nat
  rxNext : Nat
  rxBytes : List Byte
  rxMsgs : List RxMsg
  txq : List TxMsg
  reqCredits : Nat
  rspCredits : Nat
  reqReturn : Nat
  rspReturn : Nat
  out : List (List Byte)
  deriving DecidableEq, Repr

/-- The state of a pricking bank (R333). -/
inductive BankState
  | empty | staged | current | draining
  deriving DecidableEq, Repr

/-- A bank: its state, epoch, and the route and hoop rows as written. -/
structure Bank where
  state : BankState
  epoch : Nat
  routes : Table Word
  hoops : Table (List Word)
  deriving DecidableEq, Repr

/-- The node's part of the fabric: banks, whether the old epoch has drained, when the present one opened and how long the
old may drain, the route rows (bank, node) marked LOST since they were written, requests of this node and the next number of a
request or a received message, picot writes held, alias-fence signals waiting to be sent (fence, value, error),
doorbells that wait for their function's BAR4 writes (R272), the confirming reads that have no answer, each with its port (R390), the
eyelets. -/
structure Fabric where
  banks : List Bank
  drained : Bool
  openAt : Nat
  drainMs : Nat
  lostRows : List (Nat × Nat)
  remotes : List Remote
  nextId : Nat
  picots : List Picot
  aliases : List (Nat × Nat × Bool)
  bells : List Bell
  confirms : List (Confirm × Nat)
  eyes : List Eyelet
  deriving DecidableEq, Repr

/-! ### Lanterns (03, 04) -/

/-- Power of a lantern (R55 to R58). -/
inductive Power
  | awake | retained | cold | waking (fromCold : Bool)
  deriving DecidableEq, Repr

/-- A cache line: address in the virtual space of its context, bytes, poison (R109, R163). -/
structure Line where
  hoop : Nat
  aspace : Nat
  va : Nat
  data : List Byte
  poison : Bool
  deriving DecidableEq, Repr

/-- A held accumulation of a matrix engine (R125): shape, formats, and per element the long accumulator (DET or
integer) or the FAST running sum, and whether a NaN stood among its inputs. -/
structure OpenAcc where
  rows : Nat
  cols : Nat
  fmtA : Nat
  fmtB : Nat
  long : List LongAcc
  fast : List (Option Num)
  nanIn : List Bool
  poison : Bool
  deriving DecidableEq, Repr

/-- A strand on a lantern: the stitch's queue and entry, the strand's index in the variant. -/
structure StrandRef where
  queue : Nat
  entry : Nat
  idx : Nat
  deriving DecidableEq, Repr

/-- The position of a running strand: next op, rows of it done, ops issued and not completed, the WAIT among them and
whether it still waits, the status contributed so far, whether it ended early, the start of its charge (R142 to R149, R421), when an op of
it last completed or a core of it last retired an instruction, 0 for never (R505), and W0 of the op last read past the first 64 (R385). -/
structure Running where
  ref : StrandRef
  ctx : Nat
  pos : Nat
  row : Nat
  begun : Bool
  pois : Bool
  bad : List Nat
  busy : List Nat
  waitOp : Option Nat
  waiting : Bool
  status : Status
  ended : Bool
  since : Nat
  opAt : Nat := 0
  opWord : Word := 0
  deriving DecidableEq, Repr

/-- What an S core is stalled in. -/
inductive Stall
  | none
  | fence (f rd : Nat) (tryFlag : Bool)
  | wrs (sto : Bool)
  | alloc
  deriving DecidableEq, Repr

/-- One S core (R158 to R169). `l1` and `il1` are the two halves of its L1, the latter by hoop,
address space and line, with the bytes of the line, from its start, that lie in a loaded S code section. -/
structure Core where
  on : Bool
  ended : Bool
  pc : Word
  x : List Word
  f : List Word
  v : List (BitVec 256)
  fcsr : Word
  vl : Word
  vtype : Word
  vstart : Word
  vcsr : Word
  cycle : Nat
  instret : Nat
  l1 : List Line
  il1 : List (Nat × Nat × Nat × Nat)
  tickets : Nat
  poisoned : List Nat
  stall : Stall
  status : Status
  deriving DecidableEq, Repr

/-- An op in the S-lantern's DMA queue (R176 to R178). -/
structure DmaOp where
  core : Nat
  ticket : Nat
  op : List Word
  running : Bool
  issued : Bool
  waiting : Bool
  row : Nat
  poison : Bool
  bad : List Nat
  deriving DecidableEq, Repr

/-- A lantern by logical ID. `phys` is its physical index (R28, R29), `idleAt` when its run list last became empty, `opDone` when an op of
it last completed or a core of it last retired an instruction (R520); `run` is the debug port's run control: 1 halted, 2 for one op (R527). -/
structure Lantern where
  power : Power
  phys : Nat
  retired : Bool
  fenced : Bool
  idleAt : Nat
  lastCtx : Option Nat
  rebound : Bool
  runList : List StrandRef
  cur : Option Running
  engines : List (Option OpenAcc)
  chain : List (List (List Num))
  cache : List Line
  prefetch : Option (StrandRef × List Byte)
  dma : List DmaOp
  cores : List Core
  opDone : Nat := 0
  run : Nat := 0
  deriving DecidableEq, Repr

/-! ### Queues (09) -/

/-- Phases of an admitted entry. -/
inductive Phase
  | admitted | staged | running | stopping | done | recorded
  deriving DecidableEq, Repr

/-- A strand of a staged stitch (R113). -/
structure Strand where
  kind : Nat
  slot : Nat
  ops : Nat
  off : Nat
  entryVa : Nat
  first : List (List Word)
  started : Bool
  finished : Bool
  deriving DecidableEq, Repr

/-- A staged stitch with its resolved settings (R85, R96, R114, R385). -/
structure Stitch where
  va : Nat
  variant : Nat
  widthM : Nat
  widthV : Nat
  widthS : Nat
  det : Bool
  round : Nat
  sat : Nat
  floss : Nat
  seed : Nat
  strands : List Strand
  deriving DecidableEq, Repr

/-- An entry in flight (R379). -/
structure Flight where
  entry : Nat
  words : List Word
  desc : List Word
  phase : Phase
  status : Status
  origin : Nat
  detail : Nat
  start : Nat
  doneAt : Nat
  stitch : Option Stitch
  aux : Nat
  waitOn : List Nat
  wrote : List Nat
  moved : Nat := 0
  deriving DecidableEq, Repr

/-- A destroy in progress (R395), or the end of a queue at a teardown or an L3 (R432, R512): whether unadmitted entries
are given up, the fence to signal, SQ_TAIL when it began, what the queue was before (0 ACTIVE, 1 UNDELIVERABLE, 2 ERROR), whether it ends
without a destroy record, and whether the entries not read yet are lost, since the ring cannot be read. -/
structure Destroy where
  abort : Bool
  fence : Option Nat
  via : Option Req
  tail : Nat
  was : Nat
  silent : Bool
  lost : Bool
  deriving DecidableEq, Repr

/-- A queue that is not FREE (R368 to R395): its row in force, the tail, the records consumed and written, the entries
admitted, those read and not admitted (as QF3 words), those in flight, the completed ones in the order of their records,
its admission wait, whether a RESUME's retry of the held record waits for its translation (R393), and when it last admitted or completed
an entry, later by the time that does not count (R505). -/
structure Queue where
  row : List Word
  tail : Nat
  cqHead : Nat
  written : Nat
  admitted : Nat
  entries : List (Nat × List Word)
  flights : List Flight
  order : List Nat
  waiting : Bool
  waitDone : Option Bool
  destroy : Option Destroy
  resuming : Bool
  moved : Nat := 0
  deriving DecidableEq, Repr

/-! ### Objects (10) -/

/-- Who waits on a fence (R404). -/
inductive Waiter
  | lan (l : Nat)
  | core (l c : Nat)
  | dma (l core ticket : Nat)
  | entry (queue entry : Nat)
  | slot (n : Nat)
  deriving DecidableEq, Repr

/-- A registered wait for a value, compared as 32-bit values for a QF2 entry (R407, R408). -/
structure Wait where
  fence : Nat
  who : Waiter
  value : Nat
  qf2 : Bool
  deriving DecidableEq, Repr

/-- A fence in force (R403). -/
structure Fence where
  valid : Bool
  error : Bool
  orphan : Bool
  use : Nat
  remote : Bool
  alias_ : Bool
  hoop : Nat
  owner : Nat
  aliasNode : Nat
  aliasFence : Nat
  result : Nat
  value : Nat
  discards : Nat
  init : Nat
  deriving DecidableEq, Repr

/-- A memory object (R412); `via` is the requester that created it (R613). -/
structure Obj where
  valid : Bool
  heap : Bool
  hoop : Nat
  owner : Nat
  freeFence : Nat
  freeFenceEn : Bool
  result : Nat
  refs : Nat
  base : Nat
  length : Nat
  freeValue : Nat
  via : Option Req
  deriving DecidableEq, Repr

/-- The saved state of one lantern of a swapped context (R424): the running strand, the scratchpad bytes and what R424
and R187 list. -/
structure Saved where
  l : Nat
  running : Running
  scratch : List Host.Cell
  poison : List Nat
  engines : List (Option OpenAcc)
  chain : List (List (List Num))
  cores : List Core
  dma : List DmaOp
  waits : List (Nat × Nat)
  deriving DecidableEq, Repr

/-- A context (R399 to R402, R419, R424, R433): virtual time, references, lantern time charged per kind and engine time in
ns, the charges of the last 100 ms (end, length), saved strands, the swap image, whether a swap-out is in progress. -/
structure Context where
  hoop : Nat
  aspace : Nat
  vtime : Nat
  share : Nat
  refs : List Nat
  charged : List Nat
  hist : List (Nat × Nat)
  engineNs : Nat
  saved : List Saved
  image : Option Nat
  leaving : Bool
  since : Nat
  tearFence : Option (Nat × Option Req)
  deriving DecidableEq, Repr

/-- A request at the hub allocator (R416). -/
inductive AllocReq
  | opAlloc (l op hoop ctx size align off : Nat) (soft : Bool)
  | coreAlloc (l c hoop ctx size align rd : Nat) (soft : Bool)
  | coreFree (l c hoop ctx addr : Nat)
  deriving DecidableEq, Repr

/-- A sampler table in force (R428 to R430): first slot, count, START, when the period began, the slots and the current one. -/
structure Sampler where
  first : Nat
  count : Nat
  start : Nat
  began : Nat
  slots : List Nat
  cur : Nat
  deriving DecidableEq, Repr

/-! ### Hoops (08, 14) -/

/-- A loaded or loading kernel image (R156, R157, R377): the entry that loads it, its handle, and as local runs (address,
length) the destination and the S code sections. -/
structure Image where
  queue : Nat
  entry : Nat
  handle : Nat
  loading : Bool
  parts : List (Nat × Nat)
  code : List (Nat × Nat)
  deriving DecidableEq, Repr

/-- The instance state of a hoop (R554). -/
inductive Inst
  | running | quiescing | quiesced | frozen
  deriving DecidableEq, Repr

/-- A hoop: descriptor in force, pending descriptor, images, completed invalidations, the floss and HOUSE_CLASS rows in
force and as a pending re-bind will make them, the lanterns that a re-bind has bound and whose wake it still waits for, the
bytes of the swap area, the instance state and when it last began to quiesce, the stuck SWAPPED contexts in the order in which they became stuck, and the
resident one for which another was swapped out, to be chosen next (R423). -/
structure Hoop where
  desc : List Word
  pending : Option (List Word)
  images : List Image
  invals : Nat
  floss : Table Word
  house : Word
  flossNew : Table Word
  houseNew : Word
  joining : List Nat
  swapBytes : Nat
  inst : Inst
  instAt : Nat
  freezing : Bool
  sampler : Option Sampler
  samplerNew : Option (List Word)
  stuck : List Nat
  favored : Option Nat
  deriving DecidableEq, Repr

/-! ### Movers, collectives and sequence slots (06, 08, 05) -/

/-- A row that a mover has read and converted: source address, destination row, element and scale bytes, poison. -/
structure MoverRow where
  src : Nat
  dst : Nat
  data : List Byte
  scales : List Byte
  bad : Bool
  deriving DecidableEq, Repr

/-- A mover descriptor waiting or in progress (R250): owner entry, the resolved settings, the rows read, writes issued,
blocks carried. `work` is 0 for a MOVE entry, 1 for an image load; `key` the key epoch that was ACTIVE at admission. -/
structure MoverJob where
  queue : Nat
  entry : Nat
  work : Nat
  desc : List Word
  hoop : Nat
  ctx : Nat
  aspace : Nat
  rows : List MoverRow
  put : Nat
  round : Nat
  sat : Nat
  status : Status
  flagSent : Bool
  finished : Bool
  since : Nat
  key : Nat
  deriving DecidableEq, Repr

/-- A collective in progress (R347 to R352): whether its engine has begun; the next step it sends, whether that step's
payload `load` is ready, with its poisoned runs; the last step received and worked through; the counts its flags have
shown; a FREE_FLAG count still to write; whether its part is done; why it stops, and the sides still to be told; when a flag
last changed. -/
structure CollJob where
  queue : Nat
  entry : Nat
  desc : List Word
  hoop : Nat
  ctx : Nat
  aspace : Nat
  det : Bool
  round : Nat
  sat : Nat
  begun : Bool
  next : Nat
  ready : Bool
  load : List Byte
  badLoad : List (Nat × Nat)
  seen : Nat
  inCount : Nat
  freeCount : Nat
  freeOut : Option Nat
  finished : Bool
  status : Status
  stop : Option Status
  tellDown : Bool
  tellUp : Bool
  heard : Nat
  since : Nat
  deriving DecidableEq, Repr

/-- One partial of a member, of one head and row: maximum, l and o in FAST, or the long accumulators L and O in DET
(R210, R211), and which values are poisoned: m and l, or L; each o or O (R209). -/
structure Partial where
  m : Num
  l : Num
  o : List Num
  long : List LongAcc
  bad : Bool
  badO : List Bool
  deriving DecidableEq, Repr

/-- A request a member works on: home, number, whether it is the slot's own; W0 as resolved, W4 and OUT_VA; positions and query as
bytes with the poisoned byte runs; the query buffer, and whether it is free again; when it started; whether the query is
forwarded, and whether the home still reads the entry, the positions and the query (R200); passes done, a pass in progress, the count it
reads, its next token block; its partials by head and row; a MAX
received (with its buffer), MAX sent, M, GMAX sent; the PARTIAL merged, sent; the status contributed and the combined one; the output
written; W6 and W7 written; its local partial buffer (R198). -/
structure SlotReq where
  home : Nat
  num : Nat
  own : Bool
  w0 : Word
  w4 : Word
  out : Nat
  body : List Byte
  badBody : List (Nat × Nat)
  buf : Nat
  freed : Bool
  started : Nat
  forwarded : Bool
  loading : Bool
  pass : Nat
  passing : Bool
  count : Nat
  block : Nat
  parts : List Partial
  maxIn : Option (Nat × List (Num × Bool))
  maxSent : Bool
  gmax : Option (List (Num × Bool))
  gmaxSent : Bool
  partIn : Option (Nat × List Partial)
  merged : Bool
  partSent : Bool
  status : Status
  chain : Status
  outDone : Bool
  w7 : Bool
  part : Nat
  deriving DecidableEq, Repr

/-- Something that a slot has yet to write or send beside its requests: a FAIL word (downstream?, reason, origin), W7 of an abandoned
request (number, start, status), the error-signal of DONE_FENCE, its status record (STATE, REASON). -/
inductive SlotOut
  | fail (down : Bool) (reason : Status) (origin : Nat)
  | w7 (num started : Nat) (st : Status)
  | signal
  | record (state : Nat) (reason : Status)
  deriving DecidableEq, Repr

/-- A sequence slot (R188 to R234). State 0 FREE, 1 OPEN, 2 FAILED, 3 CLOSED. `qFree` and `pFree` are the downstream
buffers it holds credits for; `credits` the CREDIT words to send (pool, buffer); `heard` is when it last heard from a
neighbour, or began to await one; `out` what else it has yet to write or send. -/
structure Slot where
  state : Nat
  hoop : Nat
  ctx : Nat
  aspace : Nat
  desc : List Word
  qFree : List Nat
  pFree : List Nat
  credits : List (Nat × Nat)
  next : Nat
  lastDone : Nat
  reqs : List SlotReq
  reason : Status
  origin : Nat
  discarded : Nat
  heard : Nat
  out : List SlotOut
  deriving DecidableEq, Repr

/-! ### Bandwidth (11), power (12), faults and reset (13) -/

/-- A request waiting at a regulated port (R443 to R446). `flow` is hoop × 8 + class, or none for device traffic; `fn` is the
function whose requester ID an access of host memory carries (R286). -/
structure PortReq where
  port : Nat
  flow : Option Nat
  bytes : Nat
  arrived : Nat
  fn : Option Req := none
  deriving DecidableEq, Repr

/-- Regulation: waiting requests, and per port and flow the bytes served in the present window (head) and the last
eight. -/
structure Floss where
  waiting : List PortReq
  served : Table (List Nat)
  deriving DecidableEq, Repr

/-- Supplies, operating points and limiters. `step` is how far power-up has come (R603), `sleep` 2 in a DROWSE entered by
request and 3 in WICK_ONLY, `backupStep` BACKUP_STEP of R455; `rails` the current samples of each rail, newest first; `slow`
and `wait` say in which quarters a rail or the slope withholds issue, `hot95` which stacks are at 95 °C; `thrNs` the time of
each throttle reason up to `thrAt`; `ceiling` is OP_CEILING as the last 10 µs step took it, and `auxLows` how often AUX has gone low
(R460); `mainLow` is MAIN_LOW (R453), `slowMem` says in which quarters VHBM withholds request starts, and `held` in which a rail cannot
absorb a rise of activity (R470). -/
structure PowerUnit where
  mainPresent : Bool
  mainOk : Bool
  auxOk : Bool
  started : Bool
  ready : Bool
  step : Nat
  sleep : Nat
  backup : Bool
  backupStep : Nat
  op : List Nat
  g : List Nat
  capOp : List Nat
  capG : Nat
  thermOp : List Nat
  thermG : List Nat
  trip : List Bool
  hotStack : List Bool
  activity : List Nat
  rails : List (List Nat)
  slow : List Bool
  wait : List Bool
  hot95 : List Bool
  thrNs : List Nat
  thrAt : Nat
  capGutter : Bool
  ceiling : List Nat
  auxLows : Nat
  mainLow : Bool := false
  slowMem : List Bool := [false, false, false, false]
  held : List Bool := [false, false, false, false]
  deriving DecidableEq, Repr

/-- A reset in progress (R506 to R517): its level, target, trigger and cause, the fences to signal at its end, when it
started, how far it is (0 the drain allowance runs, 1 its work has stopped, 2 its domain is cleared or its engine checked),
whether it took a crash dump, the log record it completes, its drain allowance in ns, whether DUMP_LEVELS selected its
level when it began, the log records of the resets it absorbed (R492, R517), and the time, in ns, in which requests to other nodes kept
it waiting (R506). -/
structure Reset where
  level : Nat
  target : Nat
  trigger : Nat
  cause : Status
  fences : List (Nat × Option Req)
  start : Nat
  phase : Nat
  dumped : Bool
  logAt : Option Nat
  allowance : Nat := 0
  dumpSel : Bool := false
  absorbed : List Nat := []
  waited : Nat := 0
  deriving DecidableEq, Repr

/-- A FENCE reaction in progress (R494): its class, the fault's kind, master and address, its log record, when it began, and for
an HBM granule whether the Darner has remapped (1) or retired (2) it; and whether another fault of the class has been latched since
(R494, R499). -/
structure Fencing where
  cls : Nat
  kind : Nat
  master : Nat
  addr : Nat
  logAt : Nat
  start : Nat
  done : Nat
  again : Bool := false
  deriving DecidableEq, Repr

/-- The Snuffer: resets and fence reactions in progress, the fault, log record and start of each running timer, safe state, power-cycle
request, the rows written to RESET_LOG, and the crash-dump summary in wick SRAM. -/
structure Snuffer where
  resets : List Reset
  waiting : List Reset
  fencing : List Fencing
  timers : Table (FaultInfo × Nat × Nat)
  logged : Nat
  safe : Bool
  pwrcyc : Bool
  summary : List Host.Cell
  perstPending : List Nat
  exportTo : Option Nat
  deriving DecidableEq, Repr

/-! ### Keeper (14), telemetry and repair (15) -/

/-- A progress mark (R534). -/
structure Mark where
  seq : Nat
  src : Nat
  dst : Nat
  phase : Nat
  wipePending : Bool
  counter : Nat
  hash : Nat
  deriving DecidableEq, Repr

/-- A debug token in force (R539). -/
structure Token where
  rights : Nat
  signer : Nat
  notAfter : Nat
  epoch : Nat
  deriving DecidableEq, Repr

/-- State of a key epoch (R548). -/
inductive KeyState
  | empty | active | draining | destroyed
  deriving DecidableEq, Repr

/-- The Keeper. `ctrlKey` and `imageKey` are the owner's keys as bytes; `tags` holds the key epoch of each channel unit
by bobbin × 32 + unit (0 when unlisted); `sessions` lists the requesters whose SPDM session is secured, `opening` those
in KEY_EXCHANGE; `drainAt` is when a tenant change began, `trims` whether the trims stand. -/
structure Keeper where
  markA : List Byte
  markB : List Byte
  lc : Nat
  staging : List Byte
  ctrlKey : List Byte
  imageKey : List Byte
  token : Option Token
  conf : Bool
  tenant : Nat
  keys : List KeyState
  eyeletKey : List (Option Nat)
  generation : Nat
  step : Nat
  drainAt : Nat
  ending : Bool
  trims : Bool
  tags : Table Nat
  opening : List Req
  sessions : List Req
  deriving DecidableEq, Repr

/-- Telemetry: SEL_CONFIG rows written and not in force, bytes per port in the window, the window length written and
not in force, dump records written, staged and lost, error held, the sequence number, when the last dump was made, when the present
window began to be counted, and the dump records written to the host with no confirming read come back yet. -/
structure Telemetry where
  selNew : Table Word
  bytes : Table Nat
  windowNew : Option Nat
  written : Nat
  staged : List (List Word)
  lost : Nat
  error : Bool
  seq : Nat
  dumpAt : Nat
  windowFrom : Nat
  ringed : List (List Word)
  deriving DecidableEq, Repr

/-- A granule remap under way (R570): granule address, place, and the writes held. -/
structure Remap where
  b : Nat
  granule : Nat
  place : Nat
  held : List Merge
  deriving DecidableEq, Repr

/-- A corrected-error table entry (R571). -/
structure CeEntry where
  granule : Nat
  count : Nat
  first : Nat
  last : Nat
  deriving DecidableEq, Repr

/-- The Darner: retired physical lanterns, remapped granules (granule address to place), retired granules, remaps
queued or under way, corrected-error entries by bobbin, remaps per channel, pending and retired channels, and the
retired engines. -/
structure Darner where
  deadPhys : List Nat
  remaps : Table Nat
  retired : List Nat
  queue : List Remap
  ces : Table (List CeEntry)
  chanRemaps : Table Nat
  deadEngines : List Nat
  deriving DecidableEq, Repr

/-! ### Dictionary server (16) and host ports (09, 17) -/

/-- An SDP session (R592). `last` is the response stored for the last SEQ. -/
structure Session where
  num : Nat
  mctp : Bool
  secured : Bool
  seq : Nat
  peer : Nat
  time : Nat
  last : Option Answer
  deriving DecidableEq, Repr

/-- A function's mailbox and aperture (R590, R591). -/
structure Mailbox where
  control : Nat
  request : Option SdpMsg
  answer : Answer
  select : Word
  apResult : Word
  deriving DecidableEq, Repr

/-- A BLOB staging (R584). -/
structure Staging where
  who : Req
  entry : Nat
  bytes : List Byte
  time : Nat
  deriving DecidableEq, Repr

/-- The dictionary server. `mailboxes` is keyed by function. -/
structure Server where
  sessions : List Session
  nextSession : Nat
  mailboxes : Table Mailbox
  stagings : List Staging
  eid : Nat
  deriving DecidableEq, Repr

/-- A CXL HDM decoder in force (R362, R363): hoop, base, size, ways, granularity. -/
structure Decoder where
  hoop : Option Nat
  base : Nat
  size : Nat
  ways : Nat
  gran : Nat
  deriving DecidableEq, Repr

/-- A host port. -/
structure Port where
  trained : Bool
  width : Nat
  speed : Nat
  flit : Bool
  cxl : Bool
  ideLink : Bool
  ideSel : List Nat
  perst : Bool
  ready : Bool
  vfEnable : Bool
  decoders : List Decoder
  deriving DecidableEq, Repr

/-- TDISP states of a VF's interface (R361). -/
inductive Tdisp
  | unlocked | locked | run | error
  deriving DecidableEq, Repr

/-- What is in force for a VF: its rows of VF_HOOP and VF_QUEUE_BLOCK, its TDISP state. -/
structure Vf where
  hoop : Option Nat
  first : Nat
  count : Nat
  tdisp : Tdisp
  deriving DecidableEq, Repr

/-! ### The whole state -/

/-- The state of the block. `pending` is the queue of commands, front first. `free` counts the free values taken.
`hostMem` lists the bytes of host memory that are known, by port × 2^64 + bus address, and `hostPoison` those of them that are poisoned (log 5).
`regs` holds the dictionary's cells that differ from their defaults, `staged` the values written and not in force. -/
structure State where
  pending : List Instr
  free : Nat
  clk : Clocks
  mem : Mem
  hostMem : List Host.Cell
  hostPoison : List Nat
  regs : Table Word
  staged : Table Word
  lan : Table Lantern
  hoops : Table Hoop
  fab : Fabric
  rng : RangeUnit
  queues : Table Queue
  ctxs : Table Context
  fences : Table Fence
  waits : List Wait
  objs : Table Obj
  allocQ : List AllocReq
  movers : Table MoverJob
  moverQ : List (Nat × MoverJob)
  colls : Table CollJob
  slots : Table Slot
  scrubs : Table (List Nat)
  floss : Floss
  power : PowerUnit
  snuffer : Snuffer
  keeper : Keeper
  tele : Telemetry
  darner : Darner
  server : Server
  ports : List Port
  vfs : Table Vf
  answer : Answer
  deriving DecidableEq, Repr

/-! ### Reset -/

/-- A lantern as shipped and unbound: cold-gated, on the physical index of its logical one (R28, R56). -/
def Lantern.reset (l : Nat) : Lantern :=
  { power := .cold, phys := l % 64, retired := false, fenced := false, idleAt := 0, lastCtx := none, rebound := false,
    runList := [], cur := none, engines := [none, none, none, none], chain := [[], [], [], []], cache := [],
    prefetch := none, dma := [], cores := [] }

/-- An eyelet that is DOWN, with identity lane maps. -/
def Eyelet.down : Eyelet :=
  { state := 0, cfg := 0, version := 0, peer := 0, retrain := false, since := 0, activeLanes := 0,
    rxMap := [0, 1, 2, 3, 4, 5, 6, 7], txMap := [0, 1, 2, 3, 4, 5, 6, 7], rxSpare := false, txSpare := false,
    rxAsked := none, txAsked := none, failing := [], txNext := 0, replay := [], resends := [], ctrlDue := 0, rxNext := 0,
    rxBytes := [], rxMsgs := [], txq := [], reqCredits := 0, rspCredits := 0, reqReturn := 0, rspReturn := 0,
    out := [] }

/-- A port that is not trained, its PERSTn asserted (log 11). -/
def Port.reset : Port :=
  { trained := false, width := 0, speed := 0, flit := false, cxl := false, ideLink := false, ideSel := [],
    perst := true, ready := true, vfEnable := false, decoders := [] }

/-- An answer that holds nothing. -/
def Answer.none : Answer := { data := [], poison := false, status := 0 }

/-- The machine at step 6 of R603, with MAIN qualified and AUX in range, an empty wick store and wick time 0 (log 1). -/
def State.reset : State :=
  { pending := []
    free := 0
    clk := { wick := 0, ts := [0, 0, 0, 0], pll := [.stopped, .stopped, .stopped, .stopped],
             since := [0, 0, 0, 0], held := [] }
    mem := { cells := [], storePoison := [], scratchPoison := [], resv := [], windows := [], merges := [],
             zeroed := true, corruptNext := [], mail := [], badLinks := [] }
    hostMem := []
    hostPoison := []
    regs := []
    staged := []
    lan := []
    hoops := []
    fab := { banks := [{ state := .current, epoch := 0, routes := [], hoops := [] },
                       { state := .empty, epoch := 0, routes := [], hoops := [] }],
             drained := false, openAt := 0, drainMs := 4, lostRows := [], remotes := [], nextId := 0, picots := [], aliases := [],
             bells := [], confirms := [],
             eyes := List.replicate 8 Eyelet.down }
    rng := { rows := [], look := [], xreqs := [], records := [], invals := [], doorbells := [], counts := [] }
    queues := []
    ctxs := []
    fences := []
    waits := []
    objs := []
    allocQ := []
    movers := []
    moverQ := []
    colls := []
    slots := []
    scrubs := []
    floss := { waiting := [], served := [] }
    power := { mainPresent := true, mainOk := true, auxOk := true, started := true, ready := true, step := 6, sleep := 0,
               backup := false, backupStep := 0, op := [0, 0, 0, 0], g := [64, 64, 64, 64], capOp := [0, 0, 0, 0], capG := 64,
               thermOp := [0, 0, 0, 0], thermG := [64, 64, 64, 64], trip := [false, false, false, false], hotStack := List.replicate 12 false,
               activity := [0, 0, 0, 0], rails := [], slow := [false, false, false, false],
               wait := [false, false, false, false], hot95 := List.replicate 12 false,
               thrNs := [0, 0, 0, 0, 0, 0, 0, 0], thrAt := 0, capGutter := false, ceiling := [0, 0, 0, 0], auxLows := 0 }
    snuffer := { resets := [], waiting := [], fencing := [], timers := [], logged := 0, safe := false, pwrcyc := false,
                 summary := [], perstPending := [], exportTo := none }
    keeper := { markA := [], markB := [], lc := 0, staging := [], ctrlKey := [], imageKey := [], token := none,
                conf := false, tenant := 0, keys := [.empty, .empty, .empty, .empty],
                eyeletKey := [none, none, none, none], generation := 0, step := 0, drainAt := 0, ending := false, trims := true, tags := [],
                opening := [], sessions := [] }
    tele := { selNew := [], bytes := [], windowNew := none, written := 0, staged := [], lost := 0, error := false,
              seq := 0, dumpAt := 0, windowFrom := 0, ringed := [] }
    darner := { deadPhys := [], remaps := [], retired := [], queue := [], ces := [], chanRemaps := [],
                deadEngines := [] }
    server := { sessions := [], nextSession := 1, mailboxes := [], stagings := [], eid := 0 }
    ports := [Port.reset, Port.reset]
    vfs := []
    answer := Answer.none }

end Sys2Proof.Machine
end

