-- ==== Sys2Proof/Machine/Ops.lean ====
section
/-! DEFINITION. The shared operations on words, bytes, tables, dictionary cells, counters and free values. -/

namespace Sys2Proof.Machine

/-! ### Words and bytes -/

/-- Bits `hi` down to `lo` of a word, as a number (R2). -/
def fld (w : Word) (hi lo : Nat) : Nat := w.toNat / 2 ^ lo % 2 ^ (hi + 1 - lo)

/-- Bit `i` of a word. -/
def bit (w : Word) (i : Nat) : Bool := fld w i i = 1

/-- A word from a number, mod 2^64. -/
def wd (n : Nat) : Word := BitVec.ofNat 64 n

/-- `w` with bits `hi` down to `lo` holding `v`. -/
def setFld (w : Word) (hi lo v : Nat) : Word :=
  let width := 2 ^ (hi + 1 - lo)
  wd (w.toNat - fld w hi lo * 2 ^ lo + v % width * 2 ^ lo)

/-- The number of set bits among bits `hi` down to `lo`. -/
def popCount (w : Word) (hi lo : Nat) : Nat := ((List.range (hi + 1 - lo)).filter (fun i => bit w (lo + i))).length

/-- One bit of a Boolean. -/
def b1 (b : Bool) : Nat := if b then 1 else 0

/-- Word `i` of a list of words, 0 beyond its end. -/
def wordAt (ws : List Word) (i : Nat) : Word := ws.getD i 0

/-- The little-endian number of a byte string (R3). -/
def leNat (bs : List Byte) : Nat := bs.foldr (fun b acc => b.toNat + 256 * acc) 0

/-- The `n` low bytes of a number, lowest first (R3). -/
def leBytes : Nat → Nat → List Byte
  | 0, _ => []
  | n + 1, v => BitVec.ofNat 8 v :: leBytes n (v / 256)

/-- The words of a byte string, eight bytes each. -/
def toWords (bs : List Byte) : List Word := (chunksOf 8 bs.length bs).map (fun c => wd (leNat c))

/-- The bytes of a list of words. -/
def wordBytes (ws : List Word) : List Byte := ws.flatMap (fun w => leBytes 8 w.toNat)

/-- A byte string padded with zeros to length `n`. -/
def padTo (n : Nat) (bs : List Byte) : List Byte := bs ++ List.replicate (n - bs.length) 0

/-- The largest multiple of `k` that is at most `n`. -/
def alignDown (n k : Nat) : Nat := n / k * k

/-- The element `i` of a list replaced. -/
def setAt {α : Type} (xs : List α) (i : Nat) (v : α) : List α := xs.set i v

/-! ### Tables -/

/-- The value listed for a key. -/
def tget {α : Type} (t : Table α) (k : Nat) : Option α :=
  match t with
  | [] => none
  | (k', v) :: rest => if k = k' then some v else tget rest k

/-- Enter a value, keeping keys strictly rising. -/
def tput {α : Type} (t : Table α) (k : Nat) (v : α) : Table α :=
  match t with
  | [] => [(k, v)]
  | (k', v') :: rest =>
    if k < k' then (k, v) :: (k', v') :: rest
    else if k = k' then (k, v) :: rest
    else (k', v') :: tput rest k v

/-- Remove a key. -/
def tdel {α : Type} (t : Table α) (k : Nat) : Table α :=
  match t with
  | [] => []
  | (k', v') :: rest => if k = k' then rest else (k', v') :: tdel rest k

/-- Read a table whose unlisted keys hold `d k`. -/
def cget {α : Type} (d : Nat → α) (t : Table α) (k : Nat) : α := (tget t k).getD (d k)

/-- Write a table whose unlisted keys hold `d k`: a value equal to that removes the entry. -/
def cput {α : Type} [DecidableEq α] (d : Nat → α) (t : Table α) (k : Nat) (v : α) : Table α :=
  if v = d k then tdel t k else tput t k v

/-- Keys strictly rising. -/
def keysRise {α : Type} : Table α → Bool
  | [] => true
  | [_] => true
  | (k, _) :: (k', v') :: rest => decide (k < k') && keysRise ((k', v') :: rest)

/-- The canonical form of a table over defaults `d`. -/
def canonical {α : Type} [DecidableEq α] (d : Nat → α) (t : Table α) : Bool :=
  keysRise t && t.all (fun p => decide (p.2 ≠ d p.1))

/-! ### CRCs (R237, R340) -/

/-- One bit of a reflected CRC-32 with reversed polynomial `poly`. -/
def crcBit (poly c : Nat) : Nat := if c % 2 = 1 then c / 2 ^^^ poly else c / 2

/-- Feed one byte to a reflected CRC-32. -/
def crcByte (poly c : Nat) (b : Byte) : Nat :=
  let f := crcBit poly
  f (f (f (f (f (f (f (f (c ^^^ b.toNat))))))))

/-- CRC-32C (Castagnoli, R237) of a byte string. -/
def crc32c (bs : List Byte) : Nat := bs.foldl (crcByte 0x82F63B78) 0xFFFFFFFF ^^^ 0xFFFFFFFF

/-- CRC-32 of a flit (R340). -/
def crc32 (bs : List Byte) : Nat := bs.foldl (crcByte 0xEDB88320) 0xFFFFFFFF ^^^ 0xFFFFFFFF

/-! ### Statuses (R391, R392) -/

/-- The code of a status (R391). -/
def statusCode (s : Status) : Nat :=
  match s with
  | .ok => 0x00 | .aborted => 0x01 | .fenceError => 0x02 | .xlateFault => 0x03 | .rights => 0x04 | .poison => 0x05
  | .peerLost => 0x06 | .timeout => 0x07 | .keyRetired => 0x08 | .resetAbort => 0x09 | .numeric => 0x0A
  | .allocFail => 0x0B | .undeliverable => 0x0C | .epochStale => 0x0D | .queueDestroyed => 0x0E | .format => 0x0F

/-- The status of a code; an unlisted code is taken as FORMAT. -/
def statusOf (c : Nat) : Status :=
  match c with
  | 0x00 => .ok | 0x01 => .aborted | 0x02 => .fenceError | 0x03 => .xlateFault | 0x04 => .rights | 0x05 => .poison
  | 0x06 => .peerLost | 0x07 => .timeout | 0x08 => .keyRetired | 0x09 => .resetAbort | 0x0A => .numeric
  | 0x0B => .allocFail | 0x0C => .undeliverable | 0x0D => .epochStale | 0x0E => .queueDestroyed | _ => .format

/-- Precedence (R392): 15 for RESET_ABORT down to 0 for OK. -/
def statusRank (s : Status) : Nat :=
  match s with
  | .resetAbort => 15 | .queueDestroyed => 14 | .keyRetired => 13 | .peerLost => 12 | .epochStale => 11
  | .undeliverable => 10 | .timeout => 9 | .xlateFault => 8 | .rights => 7 | .format => 6 | .fenceError => 5
  | .allocFail => 4 | .aborted => 3 | .poison => 2 | .numeric => 1 | .ok => 0

/-- The higher of two statuses (R392). -/
def statusMax (a b : Status) : Status := if statusRank a < statusRank b then b else a

/-- Statuses under which an entry's fence is signalled and not error-signalled, and output is written (R389, R205). -/
def statusGood (s : Status) : Bool :=
  match s with
  | .ok | .poison | .numeric => true
  | _ => false

/-! ### Geometry (R1, R16 to R24) -/

/-- Quarter of a lantern ID (R24). -/
def lanQuarter (l : Nat) : Nat := l / 256 % 4
/-- Kind of a lantern ID: 0 M, 1 V, 2 S (R24). -/
def lanKind (l : Nat) : Nat := l / 64 % 4
/-- Index of a lantern ID (R24). -/
def lanIndex (l : Nat) : Nat := l % 64
/-- Lantern ID of a quarter, kind and index. -/
def lanId (q kind i : Nat) : Nat := q * 256 + kind * 64 + i
/-- Logical lanterns of a kind in one quarter. -/
def kindCount (kind : Nat) : Nat := match kind with | 0 => 40 | 1 => 16 | 2 => 8 | _ => 0
/-- Spares of a kind in one quarter (R24). -/
def kindSpares (kind : Nat) : Nat := match kind with | 0 => 4 | 1 => 2 | 2 => 1 | _ => 0
/-- Is this a logical lantern ID (R27)? -/
def lanOk (l : Nat) : Bool := decide (l < 1024) && decide (lanIndex l < kindCount (lanKind l))
/-- Backed bytes of a lantern's scratchpad (R284). -/
def scratchSize (kind : Nat) : Nat := match kind with | 0 => 0x200000 | 1 => 0x100000 | 2 => 0x80000 | _ => 0
/-- Every logical lantern ID, ascending. -/
def allLanterns : List Nat := (List.range 1024).filter lanOk
/-- Quarter of a bobbin (R17). -/
def bobQuarter (b : Nat) : Nat := b / 3

/-! ### Dictionary cells (R10) -/

/-- The key of word `w` of row `row` of an entry; an entry is its index × 256 + its sub-index. No entry
has as many as 2^20 rows or a row of more than 16 words of which the block keeps one. -/
def cellKey (e row w : Nat) : Nat := (e * 2 ^ 20 + row % 2 ^ 20) * 16 + w % 16

/-- Default of a CLASS_CONFIG row (R487): REACTION, LEVEL, GRACE_MS. -/
def classDefault (c : Nat) : Nat :=
  let fence (level ms : Nat) := 2 ^ 31 + level * 2 ^ 28 + ms
  let grace (level ms : Nat) := level * 2 ^ 28 + ms
  match c with
  | 1 | 2 | 3 => fence 2 100
  | 4 => fence 3 100
  | 5 => grace 4 1000
  | 6 => fence 3 100
  | 7 => fence 0 60000
  | 8 => fence 2 100
  | 9 => fence 3 100
  | 10 => grace 4 100
  | 11 => grace 5 1000
  | 12 => grace 0 60000
  | 13 => fence 0 60000
  | 14 => grace 4 100
  | 15 | 16 => grace 3 100
  | 17 => grace 4 100
  | 18 => grace 5 10
  | 19 | 20 => grace 0 60000
  | 21 => grace 5 10
  | 22 => grace 0 60000
  | 23 | 24 => grace 4 1000
  | 25 => grace 2 100
  | 26 => fence 2 100
  | 27 => grace 0 60000
  | _ => 0

/-- Default of a RAIL_LIMITS row in mA (R469): 1 ms, 20 µs and 1 µs limits. -/
def railLimit (row i : Nat) : Nat :=
  let r := if row < 4 then [290000, 330000, 360000] else if row < 8 then [32000, 36000, 40000]
    else if row < 12 then [105000, 120000, 135000] else if row = 12 then [55000, 60000, 70000]
    else [85000, 90000, 100000]
  r.getD i 0

/-- The default of a cell: the value at first power-up (R10, and the Default column of each chapter's entries). A CLASS_STATE row
starts with its class's LEVEL, as R493 has it while the class's bit is clear, where R525's table gives 0 (log 130). -/
def cellDefault (k : Nat) : Word :=
  let w := k % 16
  let row := k / 16 % 2 ^ 20
  let e := k / 2 ^ 24
  let n : Nat :=
    match e with
    | 0xB00001 => 1
    | 0xB00004 => 1
    | 0xB00006 => 0x0FFF
    | 0x70000A => 100
    | 0x710004 => 3
    | 0x310005 => 4
    | 0x310006 => 2000
    | 0x900002 => 3
    | 0x900004 => if row = 0 then 64 else 0
    | 0x800009 => 100
    | 0x400006 => 20
    | 0x201001 => 1700
    | 0x201005 => 2000
    | 0x202001 => if w = 0 then railLimit row 0 + railLimit row 1 * 2 ^ 32 else if w = 1 then railLimit row 2 else 0
    | 0x210001 => 100
    | 0x210003 => 85
    | 0x220003 => 4
    | 0x500005 => classDefault row
    | 0x500006 => classDefault row / 2 ^ 28 % 8 * 2 ^ 28
    | 0x510004 => match row with | 0 => 1000 | 1 => 10000 | 2 => 20000 | _ => 0
    | 0x510005 => 2000
    | 0x510006 => 10000
    | 0x510007 => 100
    | 0x520001 => 0x78
    | 0x520002 => 1
    | 0x110009 => 28800
    | 0x11001B => 1000
    | 0x600004 => 1000
    | 0xA00001 => 0xF
    | 0xA00003 => 8
    | 0xA00004 => 3600
    | 0xA00005 => 1024
    | 0x120001 => 0x5344
    | 0x120005 => 30
    | _ => 0
  if w = 0 ∨ e = 0x202001 then wd n else 0

/-- Read a dictionary cell. -/
def cell (s : State) (e row w : Nat) : Word := cget cellDefault s.regs (cellKey e row w)

/-- The first word of a row, as a number. -/
def regN (s : State) (e row : Nat) : Nat := (cell s e row 0).toNat

/-- Write a dictionary cell. -/
def setCell (s : State) (e row w : Nat) (v : Word) : State :=
  { s with regs := cput cellDefault s.regs (cellKey e row w) v }

/-- Write the first word of a row. -/
def setReg (s : State) (e row v : Nat) : State := setCell s e row 0 (wd v)

/-- Write consecutive words of a row from word `w` on. -/
def setCells (s : State) (e row w : Nat) (ws : List Word) : State :=
  match ws with
  | [] => s
  | v :: rest => setCells (setCell s e row w v) e row (w + 1) rest

/-- The first `n` words of a row. -/
def rowWords (s : State) (e row n : Nat) : List Word := (List.range n).map (fun w => cell s e row w)

/-- Write a bit field of the first word of a row. -/
def setRegFld (s : State) (e row hi lo v : Nat) : State :=
  setCell s e row 0 (setFld (cell s e row 0) hi lo v)

/-- Values written to some entries, and staged since, come into force (R11). -/
def takeStaged (s : State) (es : List Nat) : State :=
  let mine := fun k : Nat => es.contains (k / 2 ^ 24)
  let regs := (s.staged.filter (fun p => mine p.1)).foldl (fun r p => cput cellDefault r p.1 p.2) s.regs
  { s with regs := regs, staged := s.staged.filter (fun p => !mine p.1) }

/-- Add to a 64-bit counter, saturating (R558). -/
def addCell (s : State) (e row w n : Nat) : State :=
  setCell s e row w (wd (min ((cell s e row w).toNat + n) (2 ^ 64 - 1)))

/-- Add one to a counter held in the first word of a row. -/
def bump (s : State) (e row : Nat) : State := addCell s e row 0 1

/-! Counters of 0x6000:01 (R559). -/

/-- Add to counter `i` of quarter `q`. -/
def countQ (s : State) (q i n : Nat) : State := addCell s 0x600001 q i n
/-- Add to counter `i` of bobbin `b`. -/
def countB (s : State) (b i n : Nat) : State := addCell s 0x600001 (4 + b) i n
/-- Add to counter `i` of eyelet `e`. -/
def countE (s : State) (e i n : Nat) : State := addCell s 0x600001 (24 + e) i n
/-- Add to counter `i` of host port `p`. -/
def countP (s : State) (p i n : Nat) : State := addCell s 0x600001 (32 + p) i n
/-- Add to counter `i` of the hub. -/
def countHub (s : State) (i n : Nat) : State := addCell s 0x600001 34 i n

/-! Selectable counters (R560 to R562). -/

/-- Does SEL_CONFIG row `cfg` count an event of this code, hoop, class and context? -/
def selMatches (cfg : Word) (ev : Nat) (hoop cls ctx : Option Nat) : Bool :=
  bit cfg 63 && decide (fld cfg 59 52 = ev)
    && (!bit cfg 62 || decide (hoop = some (fld cfg 51 46)))
    && (!bit cfg 61 || decide (cls = some (fld cfg 45 43)))
    && (!bit cfg 60 || decide (ctx = some (fld cfg 42 33)))

/-- Count an event in every selectable counter of a quarter (`some q`) or of the hub that selects it; nothing counts in
confidential mode (R562). A row written and not yet in force still counts as configured before. -/
def selCount (s : State) (q : Option Nat) (ev n : Nat) (hoop cls ctx : Option Nat) : State :=
  if s.keeper.conf then s
  else
    let rows := match q with
      | some q => (List.range 64).map (fun i => 64 * q + i)
      | none => (List.range 16).map (fun i => 256 + i)
    rows.foldl (fun s r => if selMatches (cell s 0x600002 r 0) ev hoop cls ctx then addCell s 0x600003 r 0 n else s) s

/-! ### Free values -/

/-- The next free value, and the state in which it is used up. -/
def takeFree (s : State) : Word × State := (Config.freeValue s.free, { s with free := s.free + 1 })

/-- `n` free bytes. -/
def freeBytes : Nat → State → List Byte × State
  | 0, s => ([], s)
  | n + 1, s =>
    let p := takeFree s
    let q := freeBytes n p.2
    ((p.1.setWidth 8) :: q.1, q.2)

/-! ### Records of the state -/

/-- The lantern record of a logical ID. -/
def lantern (s : State) (l : Nat) : Lantern := (tget s.lan l).getD (Lantern.reset l)
/-- Write a lantern record. -/
def setLantern (s : State) (l : Nat) (x : Lantern) : State := { s with lan := tput s.lan l x }
/-- Change a lantern record. -/
def modLantern (s : State) (l : Nat) (f : Lantern → Lantern) : State := setLantern s l (f (lantern s l))

/-- A hoop that holds nothing. -/
def hoopFree : Hoop :=
  { desc := [], pending := none, images := [], invals := 0, floss := [], house := 0, flossNew := [],
    houseNew := 0, joining := [], swapBytes := 0,
    inst := .running, instAt := 0, freezing := false, sampler := none, samplerNew := none, stuck := [], favored := none }
/-- The hoop record. -/
def hoop (s : State) (h : Nat) : Hoop := (tget s.hoops h).getD hoopFree
/-- Write a hoop record. -/
def setHoop (s : State) (h : Nat) (x : Hoop) : State := { s with hoops := tput s.hoops h x }
/-- Change a hoop record. -/
def modHoop (s : State) (h : Nat) (f : Hoop → Hoop) : State := setHoop s h (f (hoop s h))

/-- A queue that is FREE. -/
def queueFree : Queue :=
  { row := [], tail := 0, cqHead := 0, written := 0, admitted := 0, entries := [], flights := [], order := [],
    waiting := false, waitDone := none, destroy := none, resuming := false }
/-- The queue record. -/
def queue (s : State) (q : Nat) : Queue := (tget s.queues q).getD queueFree
/-- Write a queue record. -/
def setQueue (s : State) (q : Nat) (x : Queue) : State := { s with queues := tput s.queues q x }
/-- Change a queue record. -/
def modQueue (s : State) (q : Nat) (f : Queue → Queue) : State := setQueue s q (f (queue s q))

/-- A context that is FREE. -/
def ctxFree : Context :=
  { hoop := 0, aspace := 0, vtime := 0, share := 0, refs := [], charged := [0, 0, 0], hist := [], engineNs := 0, saved := [], image := none, leaving := false, since := 0, tearFence := none }
/-- The context record. -/
def context (s : State) (c : Nat) : Context := (tget s.ctxs c).getD ctxFree
/-- Write a context record. -/
def setContext (s : State) (c : Nat) (x : Context) : State := { s with ctxs := tput s.ctxs c x }
/-- Change a context record. -/
def modContext (s : State) (c : Nat) (f : Context → Context) : State := setContext s c (f (context s c))

/-- A fence that was never allocated. -/
def fenceNone : Fence :=
  { valid := false, error := false, orphan := false, use := 0, remote := false, alias_ := false, hoop := 0,
    owner := 0, aliasNode := 0, aliasFence := 0, result := 0, value := 0, discards := 0, init := 0 }
/-- The fence record. -/
def fence (s : State) (f : Nat) : Fence := (tget s.fences f).getD fenceNone
/-- Write a fence record. -/
def setFence (s : State) (f : Nat) (x : Fence) : State := { s with fences := tput s.fences f x }

/-- An object slot that holds none. -/
def objNone : Obj :=
  { valid := false, heap := false, hoop := 0, owner := 0, freeFence := 0, freeFenceEn := false, result := 0,
    refs := 0, base := 0, length := 0, freeValue := 0, via := none }
/-- The memory-object record. -/
def obj (s : State) (o : Nat) : Obj := (tget s.objs o).getD objNone
/-- Write a memory-object record. -/
def setObj (s : State) (o : Nat) (x : Obj) : State := { s with objs := tput s.objs o x }

/-- The eyelet record. -/
def eyelet (s : State) (e : Nat) : Eyelet := s.fab.eyes.getD e Eyelet.down
/-- Change an eyelet record. -/
def modEyelet (s : State) (e : Nat) (f : Eyelet → Eyelet) : State :=
  { s with fab := { s.fab with eyes := s.fab.eyes.set e (f (eyelet s e)) } }

/-- The port record. -/
def port (s : State) (p : Nat) : Port := s.ports.getD p Port.reset
/-- Change a port record. -/
def modPort (s : State) (p : Nat) (f : Port → Port) : State := { s with ports := s.ports.set p (f (port s p)) }

/-- A VF with nothing in force. -/
def vfNone : Vf := { hoop := none, first := 0, count := 0, tdisp := .unlocked }
/-- The VF record. -/
def vf (s : State) (n : Nat) : Vf := (tget s.vfs n).getD vfNone
/-- Change a VF record. -/
def modVf (s : State) (n : Nat) (f : Vf → Vf) : State := { s with vfs := tput s.vfs n (f (vf s n)) }

/-! ### Hoops, contexts and requesters -/

/-- STATE of HOOP_STATUS: 0 FREE, 1 ACTIVE, 2 PENDING, 3 DESTROYING (R353). -/
def hoopState (s : State) (h : Nat) : Nat := fld (cell s 0x300003 h 0) 63 60
/-- Is the hoop bound: ACTIVE or PENDING? -/
def hoopLive (s : State) (h : Nat) : Bool := hoopState s h = 1 || hoopState s h = 2
/-- Word `i` of the descriptor in force. -/
def hoopWord (s : State) (h i : Nat) : Word := wordAt (hoop s h).desc i
/-- ROLE of a hoop (R317). -/
def hoopRole (s : State) (h : Nat) : Nat := fld (hoopWord s h 0) 55 54
/-- QMASK of a hoop (R317). -/
def hoopQmask (s : State) (h q : Nat) : Bool := bit (hoopWord s h 0) (50 + q)

/-- Does a descriptor bind a logical lantern (R317)? -/
def descBinds (d : List Word) (l : Nat) : Bool :=
  let base := match lanKind l with | 0 => 0 | 1 => 40 | _ => 56
  lanOk l && bit (wordAt d (1 + lanQuarter l)) (base + lanIndex l)
/-- Does a descriptor bind unit `j` of bobbin `b` (R317)? -/
def descUnit (d : List Word) (b j : Nat) : Bool := bit (wordAt d (5 + b / 2)) (32 * (b % 2) + j)
/-- Does a descriptor hold a sequence slot (R317)? -/
def descSlot (d : List Word) (n : Nat) : Bool := bit (wordAt d (12 + n / 64)) (n % 64)

/-- The lanterns of a kind that a descriptor binds, in ascending ID: index k is hoop slot k (R318). -/
def descLanterns (d : List Word) (kind : Nat) : List Nat :=
  allLanterns.filter (fun l => lanKind l = kind && descBinds d l)
/-- The lantern in a hoop slot (R318). -/
def hoopLantern (s : State) (h kind slot : Nat) : Option Nat := (descLanterns (hoop s h).desc kind)[slot]?
/-- Width of a hoop in a kind (R318). -/
def hoopWidth (s : State) (h kind : Nat) : Nat := (descLanterns (hoop s h).desc kind).length

/-- The live hoop that binds a lantern. -/
def lanternHoop (s : State) (l : Nat) : Option Nat :=
  (List.range 64).find? (fun h => hoopLive s h && descBinds (hoop s h).desc l)

/-- Channel unit of a local HBM address, as bobbin × 32 + unit (R316). -/
def unitOf (a : Nat) : Nat := a / 0x80000000
/-- Is a local address in usable HBM: below the held-back gigabyte of its bobbin (R20, R21)? -/
def usableHbm (a : Nat) : Bool := decide (a < 0xC000000000) && decide (a % 0x1000000000 < 0xFC0000000)
/-- Is a local address in bound memory of the hoop (R316)? -/
def hoopBindsAddr (s : State) (h a : Nat) : Bool :=
  usableHbm a && descUnit (hoop s h).desc (a / 0x1000000000) (a / 0x80000000 % 32)
/-- Does a run of local addresses meet the hoop's swap area (R427)? -/
def inSwap (s : State) (h a n : Nat) : Bool :=
  let base := (cell s 0x800007 h 0).toNat
  decide (a < base + (hoop s h).swapBytes) && decide (base < a + n)

/-- STATE of CONTEXT_STATUS: 0 FREE, 1 RESIDENT, 2 SWAPPED, 3 TEARING_DOWN (R434). -/
def ctxState (s : State) (c : Nat) : Nat := fld (cell s 0x800003 c 0) 63 60
/-- Is the context live (not FREE)? -/
def ctxLive (s : State) (c : Nat) : Bool := decide (ctxState s c ≠ 0)

/-- STATE of QUEUE_STATUS: 0 FREE, 1 ACTIVE, 2 UNDELIVERABLE, 3 ERROR, 4 DESTROYING (R396). -/
def queueState (s : State) (q : Nat) : Nat := fld (cell s 0x900012 q 0) 63 60
/-- Context of a queue (R368). -/
def queueCtx (s : State) (q : Nat) : Nat := fld (wordAt (queue s q).row 0) 48 39
/-- Hoop of a queue (R368). -/
def queueHoop (s : State) (q : Nat) : Nat := fld (wordAt (queue s q).row 0) 54 49

/-- The number of VFs of H0 (R359). -/
def vfSplit (s : State) : Nat := regN s 0x900004 0
/-- The port whose PF carries a VF (R359). -/
def vfPort (s : State) (n : Nat) : Nat := if n < vfSplit s then 0 else 1
/-- Is a VF enabled? -/
def vfEnabled (s : State) (n : Nat) : Bool :=
  decide (n < vfSplit s + regN s 0x900004 1) && (port s (vfPort s n)).vfEnable
/-- The hoop a VF fronts (R359). -/
def vfHoop (s : State) (n : Nat) : Option Nat := (vf s n).hoop
/-- The enabled VF that fronts a hoop. -/
def frontVf (s : State) (h : Nat) : Option Nat :=
  (List.range 64).find? (fun n => vfEnabled s n && vfHoop s n == some h)
/-- Does a function of a port front a hoop: its VF's port, or, where no enabled VF names the hoop, each port that presents a PF (R354, R359)? -/
def hoopAtPort (s : State) (h p : Nat) : Bool :=
  match frontVf s h with
  | some n => decide (vfPort s n = p)
  | none => decide (p = 0) || (decide (p = 1) && decide (regN s 0x900001 0 = 1))
/-- The port at which the reports of a hoop are counted: its VF's, else H0 (log 16). -/
def hoopPort (s : State) (h : Nat) : Nat := match frontVf s h with | some n => vfPort s n | none => 0

/-- Is the requester the PF of a port or the management port? -/
def isManager (r : Req) : Bool := match r with | .vf _ => false | _ => true
/-- May the requester act on a hoop: a manager on any, a VF on its own? -/
def reqOwns (s : State) (r : Req) (h : Nat) : Bool :=
  match r with | .vf n => vfHoop s n == some h | _ => true
/-- A number for each requester: VFs 0 to 63, the PFs 64 and 65, the management port 66. -/
def reqIndex (r : Req) : Nat := match r with | .vf n => n % 64 | .pf p => 64 + p % 2 | .mgmt => 66

/-- HOUSE_CLASS of a hoop as in force (R435, R442). -/
def houseClass (s : State) (h : Nat) : Nat := fld (hoop s h).house 2 0
/-- The flow of everything that is done for a hoop outside its work (R435). -/
def houseFlow (s : State) (h : Nat) : Option Nat := some (h * 8 + houseClass s h)

/-- The own node's ID: node 0 until NODE_VALID is set (R314). -/
def ownNode (s : State) : Nat :=
  let v := cell s 0x310001 0 0
  if bit v 15 then fld v 7 0 else 0

/-- Wick time as a word. -/
def wick (s : State) : Nat := s.clk.wick
/-- Has a token ended: wick time passed NOT_AFTER, or WICK_EPOCH changed (R540)? -/
def tokenOver (s : State) (t : Token) : Bool := decide (t.notAfter < wick s) || decide (t.epoch ≠ regN s 0x11000D 0)

/-- In safe state the engines and admission stand still and outstanding accesses are abandoned without records (R500): an event of
theirs changes nothing. -/
def unlessSafe (s t : State) : State := if s.snuffer.safe then s else t

/-- Give the requester an answer. -/
def reply (s : State) (data : List Byte) (poison : Bool) (status : Nat) : State :=
  { s with answer := { data := data, poison := poison, status := status } }

end Sys2Proof.Machine
end

