-- ==== Sys2Proof/Machine/Beacon.lean ====
section
/-! DEFINITION. The Beacon's latch (R486 to R499) and the start of a reset (R506, R510, R517): the operations that any
block's fault goes through. -/

namespace Sys2Proof.Machine

/-- The status word (R486). -/
def statusWord (s : State) : Word := cell s 0x500001 0 0

/-- BEACON_N is driven low while the status word is nonzero or Jeotte is in safe state (R502), with a supply present
(R599). -/
def beaconLow (s : State) : Bool := s.power.started && (decide (statusWord s ≠ 0) || s.snuffer.safe)

/-- The logical lantern a physical lantern ID serves (R29). -/
def logicalOf (s : State) (p : Nat) : Option Nat :=
  allLanterns.find? (fun l => decide (l / 64 = p / 64) && decide ((lantern s l).phys = p % 64))

/-- The physical lantern ID of a logical lantern (R26). -/
def physId (s : State) (l : Nat) : Nat := alignDown l 64 + (lantern s l).phys % 64

/-- The four words of a capture (R489). -/
def captureWords (s : State) (f : FaultInfo) : List Word :=
  [wd (2 ^ 63 + b1 f.addr.isSome * 2 ^ 62 + f.cls % 64 * 2 ^ 56 + f.access % 16 * 2 ^ 52 + f.addr.getD 0 % 2 ^ 52),
   wd (f.masterKind % 16 * 2 ^ 60 + f.master % 2 ^ 16 * 2 ^ 44 + f.hoop.getD 0 % 64 * 2 ^ 38 + b1 f.hoop.isSome * 2 ^ 37
     + f.ctx.getD 0 % 1024 * 2 ^ 27 + b1 f.ctx.isSome * 2 ^ 26),
   wd (wick s), f.detail]

/-- Does the class react by FENCE (R493)? -/
def classFences (s : State) (c : Nat) : Bool := bit (cell s 0x500005 c 0) 31
/-- LEVEL of a class (R493). -/
def classLevel (s : State) (c : Nat) : Nat := fld (cell s 0x500005 c 0) 30 28
/-- The class's current level (R493). -/
def currentLevel (s : State) (c : Nat) : Nat := fld (cell s 0x500006 c 0) 31 28

/-- The domain of a fault's log record at a reset level (R497); none when the record lacks it. A class 1 to 3 fault or
a hang names its lantern physically; engines by the code of R307. -/
def faultDomain (s : State) (f : FaultInfo) (level : Nat) : Option Nat :=
  match level with
  | 1 => f.ctx
  | 2 =>
    match f.masterKind with
    | 0 => logicalOf s f.master
    | 1 => some (2 ^ 14 + f.master % 1024)
    | _ => none
  | 3 => f.hoop
  | _ => some 0

/-- The lowest level from `level` up whose domain the record gives (R497), with that domain. -/
def faultReset (s : State) (f : FaultInfo) (level : Nat) : Nat × Nat :=
  let try_ (l : Nat) := (faultDomain s f l).map (fun d => (l, d))
  if level ≥ 4 then (level, 0)
  else ((List.range 4).filterMap (fun i => if level ≤ i + 1 then try_ (i + 1) else none)).headD (4, 0)

/-- Does a running reset's domain contain that of a request at `level` and `target` (R517)? L4 and L5 contain all; an
L3 contains its hoop's contexts and lanterns. -/
def resetContains (s : State) (r : Reset) (level target : Nat) : Bool :=
  if r.level ≥ 4 then true
  else if r.level = level then decide (r.target = target)
  else if r.level = 3 then
    match level with
    | 1 => decide ((context s target).hoop = r.target)
    | 2 => decide (target < 1024) && lanternHoop s target == some r.target
    | _ => false
  else false

/-- The drain allowance that DRAIN_US gives a level, in ns. -/
def drainTime (s : State) (level : Nat) : Nat := 1000 * regN s 0x510004 (if level = 2 then 0 else if level = 3 then 1 else 2)

/-- The log records that a reset completes at its end, its own and those of the resets it absorbed (R492, R517). -/
def logsOf (r : Reset) : List Nat := r.logAt.toList ++ r.absorbed
/-- Start a reset: it absorbs the running resets its domain contains, whose fences are then signalled at its end (R517), and
RESET_STATUS shows FENCING and its level (R507, R525). The drain allowance is that of DRAIN_US at this moment (R510); an L5 has
none, and drives PWRCYC_REQ_N low at once (R503). -/
def startReset (s : State) (r : Reset) : State :=
  let gone := s.snuffer.resets.filter (fun o => resetContains s r o.level o.target)
  let keep := s.snuffer.resets.filter (fun o => !resetContains s r o.level o.target)
  let r := { r with fences := r.fences ++ gone.flatMap (fun o => o.fences), absorbed := r.absorbed ++ gone.flatMap logsOf, allowance := if r.level = 6 then 0 else drainTime s r.level,
                    dumpSel := bit (cell s 0x520001 0 0) r.level }
  let s := { s with snuffer := { s.snuffer with resets := keep ++ [r], pwrcyc := s.snuffer.pwrcyc || decide (r.level = 6) } }
  let s := setRegFld s 0x510002 0 59 56 1
  setRegFld s 0x510002 0 55 52 r.level

/-- The Snuffer's reset for a fault (R495, R497, R499): it waits behind a running reset of its domain (R517).
Only a cold L4 or an L5 runs in safe state (R501). -/
def faultResets (s : State) (f : FaultInfo) (trigger logAt : Nat) : State :=
  let level := currentLevel s f.cls
  let d := faultReset s f level
  if level = 0 ∨ (s.snuffer.safe = true ∧ d.1 < 5) then s
  else
    let r : Reset := { level := d.1, target := d.2, trigger := trigger, cause := .aborted, fences := [],
                       start := wick s, phase := 0, dumped := false, logAt := some logAt }
    if s.snuffer.resets.any (fun o => resetContains s o r.level r.target) then
      { s with snuffer := { s.snuffer with waiting := s.snuffer.waiting ++ [r] } }
    else startReset s r

/-- The current level rises by one, up to 6; a level of 0 stays 0 (R495, R496). -/
def raiseLevel (s : State) (c : Nat) : State :=
  let l := currentLevel s c
  if l = 0 then s else setRegFld s 0x500006 c 31 28 (min 6 (l + 1))

/-- Append a record to the error log (R492). -/
def logFault (s : State) (f : FaultInfo) (subsequent same : Bool) (code : Nat) : State :=
  let n := regN s 0x500008 0
  let row := n % 512
  let s := setCells s 0x500007 row 0 (captureWords s f)
  let action := if code = 0 then 0 else 3
  let w4 := wd (action * 2 ^ 60 + code * 2 ^ 56 + b1 subsequent * 2 ^ 55 + b1 same * 2 ^ 54 + n % 2 ^ 32)
  let s := setCells s 0x500007 row 4 [w4, 0, 0, 0]
  bump s 0x500008 0

/-- Complete a log record with its ACTION and reset code, if the ring still holds it (R492, R494). -/
def completeLog (s : State) (n action code : Nat) : State :=
  let row := n % 512
  let w4 := cell s 0x500007 row 4
  if fld w4 31 0 = n % 2 ^ 32 ∧ n < regN s 0x500008 0 then
    setCells s 0x500007 row 4 [setFld (setFld w4 63 60 action) 59 56 code, wd (wick s)]
  else s

/-- A reset's log records are complete (R492). -/
def completeLogs (s : State) (r : Reset) : State := (logsOf r).foldl (fun s n => completeLog s n 3 r.level) s

/-- Enter safe state (R500): everything stops, the flag is set, outstanding accesses are abandoned, VOPT goes off. -/
def safeState (s : State) : State :=
  let s := { s with snuffer := { s.snuffer with safe := true, resets := [], waiting := [] } }
  let s := setRegFld s 0x510002 0 59 56 4
  { s with fab := { s.fab with remotes := [], picots := [], confirms := [], eyes := List.replicate 8 Eyelet.down },
           rng := { s.rng with xreqs := [], records := [] }, clk := { s.clk with held := [] } }

/-- Does a fault name the unit that FENCE takes out of service (R487)? A slice or an HBM row is named by an address; with none there is
nothing to take out, and the reaction ends without a spare (DESIGN CHOICE, log 163). -/
def namesUnit (f : FaultInfo) : Bool := !([4, 6, 7, 9] : List Nat).contains f.cls || f.addr.isSome

/-- Latch a fault: status bit, first capture or SUBSEQUENT, log record, reaction (R486 to R499). Class 0 has no
reaction but safe state (R500). -/
def latch (s : State) (f : FaultInfo) : State :=
  if f.cls > 27 then s
  else
    let w := statusWord s
    let first := decide (w = 0)
    let same := bit w f.cls
    let s := if same then s else setRegFld s 0x500006 f.cls 31 28 (classLevel s f.cls)
    let s := if first then setCells s 0x500002 0 0 (captureWords s f)
      else
        let s := setCell s 0x500003 0 0 (cell s 0x500003 0 0 ||| wd (2 ^ f.cls))
        setReg s 0x500004 f.cls (min (regN s 0x500004 f.cls + 1) (2 ^ 32 - 1))
    let s := setCell s 0x500001 0 0 (w ||| wd (2 ^ f.cls))
    let code := if same && decide (f.cls ≠ 0) then currentLevel s f.cls else 0
    let at_ := regN s 0x500008 0
    let s := logFault s f (!first) same code
    let again := fun x : Fencing => if x.cls = f.cls then { x with again := true } else x
    if f.cls = 0 then safeState s
    else if same then
      let s := { s with snuffer := { s.snuffer with fencing := s.snuffer.fencing.map again } }
      raiseLevel (faultResets s f 2 at_) f.cls
    else if classFences s f.cls then
      let a := f.addr.getD 0
      let fc : Fencing := { cls := f.cls, kind := f.masterKind, master := f.master, addr := a, logAt := at_, start := wick s,
                            done := if namesUnit f then 0 else 2 }
      { s with snuffer := { s.snuffer with fencing := s.snuffer.fencing ++ [fc] } }
    else
      let s := { s with snuffer := { s.snuffer with timers := tput s.snuffer.timers f.cls (f, at_, wick s) } }
      let ms := fld (cell s 0x500005 f.cls 0) 15 0
      setRegFld (setRegFld s 0x500006 f.cls 27 27 1) 0x500006 f.cls 15 0 ms

/-- A fault of a hub block with no access. -/
def hubFault (c : Nat) (detail : Word) : FaultInfo :=
  { cls := c, access := 4, addr := none, masterKind := 3, master := c, hoop := none, ctx := none, detail := detail }

/-- Is the whole device being reset (R506, R510)? -/
def deviceResetting (s : State) : Bool := s.snuffer.resets.any (fun r => decide (4 ≤ r.level))
/-- Is the context, lantern or engine inside a running reset's domain? -/
def hoopResetting (s : State) (h : Nat) : Bool :=
  s.snuffer.resets.any (fun r => r.level ≥ 4 || (r.level = 3 && r.target = h))

/-- Is a FENCE reaction for a unit in progress, whose work is drained as for an L2 (R494)? -/
def fencingUnit (s : State) (p : Fencing → Bool) : Bool := s.snuffer.fencing.any p
/-- Is a lantern fenced by a running reset or a FENCE reaction (R494, R510)? -/
def lanternResetting (s : State) (l : Nat) : Bool :=
  (lantern s l).fenced
    || fencingUnit s (fun f => decide (1 ≤ f.cls) && decide (f.cls ≤ 3) && decide (f.master = physId s l))
    || s.snuffer.resets.any (fun r => r.level ≥ 4 || (r.level = 2 && r.target = l)
      || (r.level = 3 && lanternHoop s l == some r.target))

/-- Is a quarter engine, by its code of R307 with bits 15:14 equal to 1, inside a running L2 or above, or in a FENCE reaction of its own
class (R494, R510)? -/
def engineResetting (s : State) (code : Nat) : Bool :=
  fencingUnit s (fun f => (decide (f.cls = 8) || decide (f.cls = 26)) && decide (2 ^ 14 + f.master % 1024 = code))
    || s.snuffer.resets.any (fun r => r.level ≥ 4 || (r.level = 2 && r.target = code))

/-- Do the engines run: not in safe state, not stopped by backup operation or asleep (R455, R461,
R500), power present? -/
def enginesRun (s : State) : Bool := s.power.ready && !s.snuffer.safe && !s.power.backup && decide (s.power.sleep = 0)
/-- May a quarter issue: the engines run, and neither a thermal trip nor a rail withholds its issue (R470, R483)? -/
def quarterRuns (s : State) (q : Nat) : Bool :=
  enginesRun s && !s.power.trip.getD q false && !s.power.slow.getD q false

/-! ### Dictionary writes and the present state (R463, R500, R589) -/

/-- Answer a write with a result of R582. -/
def result (s : State) (code : Nat) : State := reply s [] false code

/-- Every eyelet with ENABLE set runs bring-up (R346, R458, R463). -/
def bringUpEyes (s : State) : State :=
  (List.range 8).foldl (fun s e =>
    let w := cell s 0x320001 e 0
    if bit w 0 && decide ((eyelet s e).state = 0) then
      modEyelet s e (fun y => { Eyelet.down with state := 1, cfg := w, since := wick s, rxMsgs := y.rxMsgs, out := y.out })
    else s) s
/-- Do the quarters' rails run? -/
def coreRails (s : State) : Bool := s.power.ready && decide (s.power.sleep = 0) && decide (s.power.backupStep ≠ 6)
/-- The stopped PLLs of the quarters for which requests are held start again (R53, R463). -/
def restartPlls (s : State) : State :=
  let held := fun q : Nat => s.clk.held.any (fun p => decide (p.1 = q))
  let go := s.clk.pll.zipIdx.map (fun p => if p.1 = .stopped ∧ held p.2 = true then Pll.starting else p.1)
  { s with clk := { s.clk with pll := go, since := s.clk.since.zipIdx.map (fun p => if held p.2 then s.clk.wick else p.1) } }
/-- A DROWSE entered by request is left, unless backup operation has begun in it (R463). -/
def wakeUp (s : State) : State :=
  if s.power.sleep = 2 ∧ s.power.backup = false then bringUpEyes (restartPlls { s with power := { s.power with sleep := 0 } }) else s

/-- Does an index range work in WICK_ONLY (R589)? Of range 0x5000 only the first eight entries do. -/
def wickRange (e : Nat) : Bool :=
  [0x1000, 0x1100, 0x1200, 0x2000].contains (e / 256) || (decide (e / 256 = 0x5000) && decide (e % 256 ≤ 8))
/-- Does an index range work on AUX (R589)? -/
def auxRange (e : Nat) : Bool :=
  (decide (0x1000 ≤ e / 256) && decide (e / 256 ≤ 0x2200)) || (decide (0x5000 ≤ e / 256) && decide (e / 256 ≤ 0x5200))
/-- Only the wick domain and the management port work: WICK_ONLY, or power-up before the hub is ready (R461, R603). -/
def wickOnly (s : State) : Bool := decide (s.power.sleep = 3) || decide (s.power.step < 5)
/-- Is an entry (index and sub-index) closed to writes of a requester in the present state (R500, R589)? -/
def writeClosed (s : State) (who : Req) (e : Nat) : Bool :=
  s.snuffer.safe || (wickOnly s && (decide (who ≠ .mgmt) || !wickRange e)) || (s.power.backup && !auxRange e)
/-- A dictionary write by command: STATE when the present state closes the entry, and NOT_PERMITTED when no VF may write it;
else a DROWSE entered by request is left, and the write is made; unless it says otherwise the answer is OK. -/
def gateWrite (s : State) (who : Req) (e : Nat) (vfs : Bool) (f : State → State) : State :=
  if writeClosed s who e then result s (match who with | .vf _ => if vfs then 10 else 4 | _ => 10)
  else f (result (wakeUp s) 0)

end Sys2Proof.Machine
end

