-- ==== Sys2Proof/Machine/Memory.lean ====
section
/-! DEFINITION. Local memory and its guards: the local address map (R20 to R23, R282), quarter stores and merge windows
(R40 to R47, R611), scratchpads (R106 to R108, R284), bobbins, carry checks and poison (R236 to R248), remapped granules
(R570), reservations (R164), and accesses to a local address by an engine (R278, R377, R510, R549). -/

namespace Sys2Proof.Machine

/-- What an access or an engine's step gives: a value, a wait for another event, or a failure status. -/
inductive Out (α : Type)
  | ok (v : α) (s : State)
  | wait (s : State)
  | fail (st : Status) (s : State)

/-- Continue after success. -/
def Out.andThen {α β : Type} (o : Out α) (f : α → State → Out β) : Out β :=
  match o with
  | .ok v s => f v s
  | .wait s => .wait s
  | .fail st s => .fail st s

/-- The state an outcome leaves. -/
def Out.state {α : Type} (o : Out α) : State :=
  match o with
  | .ok _ s | .wait s | .fail _ s => s

/-- On whose behalf an access is made: engine, hoop, context, the flow it belongs to (none: device traffic), and the key
epoch it carries where that is not the ACTIVE one. -/
structure Who where
  eng : Eng
  hoop : Option Nat
  ctx : Option Nat
  flow : Option Nat
  key : Option Nat := none
  deriving DecidableEq, Repr

/-- Data with its poison. -/
structure Data where
  bytes : List Byte
  poison : Bool
  deriving DecidableEq, Repr

/-! ### The byte store -/

/-- The carry check of a block of 512 zeros. -/
def zeroCheck : Nat := 0x30fcedc0

/-- What an unlisted byte of local memory reads as: zero (R57, R248, R513), or in the carry-check array a byte of the
good check of a zero block (R236, R248). -/
def memDefault (a : Nat) : Byte :=
  let off := a % 0x1000000000
  if a < 0xC000000000 ∧ 0xFC0000000 ≤ off ∧ off < 0xFDF800000 then
    BitVec.ofNat 8 (zeroCheck / 256 ^ (a % 4))
  else 0

/-- One byte of local memory. -/
def rb (s : State) (a : Nat) : Byte := cget memDefault s.mem.cells a

/-- `n` bytes of local memory. -/
def rbs (s : State) (a n : Nat) : List Byte := (List.range n).map (fun i => rb s (a + i))

/-- Write bytes into the cells. -/
def putBytes (d : Nat → Byte) (cells : List Host.Cell) (a : Nat) : List Byte → List Host.Cell
  | [] => cells
  | b :: rest => putBytes d (cput d cells a b) (a + 1) rest

/-- Write bytes of local memory, guards aside. -/
def wbs (s : State) (a : Nat) (bs : List Byte) : State :=
  { s with mem := { s.mem with cells := putBytes memDefault s.mem.cells a bs } }

/-- The canonical form of the memory cells: addresses strictly rising, no entry equal to what an unlisted byte reads
as. -/
abbrev Memory.wf (cells : List Host.Cell) : Bool := canonical memDefault cells

/-- The key of a byte of host memory: port × 2^64 + bus address. -/
def hostKey (p a : Nat) : Nat := p * 2 ^ 64 + a % 2 ^ 64

/-- Enter bytes of host memory from key `k` on. -/
def hostPutAt (cells : List Host.Cell) (k : Nat) : List Byte → List Host.Cell
  | [] => cells
  | b :: rest => hostPutAt (tput cells k b) (k + 1) rest

/-- Write what this node sends to host memory; poisoned data arrives as a poisoned TLP (R245). -/
def hostPut (s : State) (p a : Nat) (bs : List Byte) (poison : Bool) : State :=
  let k := hostKey p a
  let rest := s.hostPoison.filter (fun x => decide (x < k) || decide (k + bs.length ≤ x))
  let bad := if poison then (List.range bs.length).map (fun i => k + i) else []
  { s with hostMem := hostPutAt s.hostMem k bs, hostPoison := rest ++ bad }
/-- Is a byte of a run of host memory known to be poisoned? -/
def hostBad (s : State) (k n : Nat) : Bool := s.hostPoison.any (fun x => decide (k ≤ x) && decide (x < k + n))

/-- `n` bytes of host memory from key `k` on: the listed bytes, and for an unlisted one, whose contents are not known, a
free byte (log 5). -/
def hostGet : Nat → Nat → State → List Byte × State
  | 0, _, s => ([], s)
  | n + 1, k, s =>
    match tget s.hostMem k with
    | some b =>
      let q := hostGet n (k + 1) s
      (b :: q.1, q.2)
    | none =>
      let p := takeFree s
      let q := hostGet n (k + 1) p.2
      (p.1.setWidth 8 :: q.1, q.2)

/-! ### The local address map (R282) -/

/-- The ranges of R282. -/
inductive Region
  | hbm | store | mailbox | scratch | host0 | host1
  deriving DecidableEq, Repr

/-- Are two ×8 links trained (R282)? -/
def twoPorts (s : State) : Bool := (port s 0).trained && (port s 1).trained && decide (regN s 0x900001 0 = 1)

/-- The range a local address lies in; none where it does not exist (R282). -/
def region (s : State) (a : Nat) : Option Region :=
  if a < 0xC000000000 then some .hbm
  else if a < 0xC010000000 then some .store
  else if a < 0xC400000000 then none
  else if a < 0xC400004000 then some .mailbox
  else if a < 0xC800000000 then none
  else if a < 0xC880000000 then some .scratch
  else if a < 0xD000000000 then none
  else if a < 0x80000000000 then some .host0
  else if a < 0x100000000000 then (if twoPorts s then some .host1 else none)
  else none

/-- Base of a quarter's store window. -/
def storeBase (q : Nat) : Nat := 0xC000000000 + q * 0x4000000
/-- Base of a lantern's scratchpad window. -/
def scratchBase (l : Nat) : Nat := 0xC800000000 + l * 0x200000
/-- Quarter of a local address below the host apertures. -/
def addrQuarter (a : Nat) : Nat :=
  if a < 0xC000000000 then a / 0x3000000000
  else if a < 0xC010000000 then (a - 0xC000000000) / 0x4000000
  else if a < 0xC400004000 then (a - 0xC400000000) / 0x1000
  else lanQuarter ((a - 0xC800000000) / 0x200000)

/-- The live hoop that binds a local HBM address. -/
def addrHoop (s : State) (a : Nat) : Option Nat :=
  (List.range 64).find? (fun h => hoopLive s h && hoopBindsAddr s h a)

/-! ### Ports (R437) -/

/-- A request of `n` bytes arrives at a regulated port; it is served by PORT_SERVE. The data moves with the access
itself (log 17). -/
def portArrive (s : State) (p : Nat) (flow : Option Nat) (n : Nat) : State :=
  let r : PortReq := { port := p, flow := flow, bytes := n, arrived := wick s }
  { s with floss := { s.floss with waiting := s.floss.waiting ++ [r] } }

/-- The function that fronts an access of host memory over port `p`: the VF that fronts its hoop, else the port's PF (R286). -/
def hostFn (s : State) (h : Option Nat) (p : Nat) : Req := match h.bind (frontVf s) with | some n => .vf n | none => .pf p
/-- An access of host memory goes out at a port's direction with the requester ID of the function that fronts its hoop (R286,
R437). -/
def portArriveAs (s : State) (p dir : Nat) (h flow : Option Nat) (n : Nat) : State :=
  let r : PortReq := { port := 28 + 2 * p + dir, flow := flow, bytes := n, arrived := wick s, fn := some (hostFn s h p) }
  { s with floss := { s.floss with waiting := s.floss.waiting ++ [r] } }

/-- The port of a requester. -/
def reqPort (s : State) (who : Req) : Nat := match who with | .vf n => vfPort s n | .pf p => p % 2 | .mgmt => 0
/-- `n` bytes of a host's own access to this node cross its port: toward the host (0) or from it (1). They are served and counted there
(R437, R559). The management port is none. -/
def hostCross (s : State) (who : Req) (dir : Nat) (flow : Option Nat) (n : Nat) : State :=
  match who with
  | .mgmt => s
  | _ => portArrive (countP s (reqPort s who) dir n) (28 + 2 * reqPort s who + dir) flow n

/-! ### Quarter PLLs (R52, R53) -/

/-- The PLL of a quarter. -/
def pll (s : State) (q : Nat) : Pll := s.clk.pll.getD q .stopped
/-- Set the PLL of a quarter. -/
def setPll (s : State) (q : Nat) (p : Pll) : State := { s with clk := { s.clk with pll := s.clk.pll.set q p } }

/-- Is the device in the DROWSE of backup operation, which no request ends: VCORE and every PLL are off (R455, R461, R463)? -/
def backupDrowse (s : State) : Bool := s.power.backup && decide (s.power.backupStep = 6)
/-- A request that needs a quarter's clocks: it waits, and starts the PLL, while that is stopped (R53). -/
def needClock (s : State) (q : Nat) : Out Unit :=
  match pll s q with
  | .running => .ok () s
  | .starting => .wait s
  | .stopped =>
    if backupDrowse s then .wait s else
    let s := setPll s q .starting
    .wait { s with clk := { s.clk with since := s.clk.since.set q s.clk.wick } }

/-! ### Quarter store (R40 to R47, R611) -/

/-- Is a store line poisoned? -/
def linePoisoned (s : State) (a : Nat) : Bool := s.mem.storePoison.contains (alignDown a 128)

/-- The slice of a line, numbered over the device: quarter × 16 + slice (R40). -/
def sliceOf (a : Nat) : Nat := addrQuarter a * 16 + (a % 0x4000000) / 128 % 16

/-- Add a sorted element. -/
def insertNat (xs : List Nat) (k : Nat) : List Nat :=
  match xs with
  | [] => [k]
  | x :: rest => if k < x then k :: x :: rest else if k = x then x :: rest else x :: insertNat rest k

/-- Close the merge window of a line. -/
def closeWindow (s : State) (line : Nat) : State :=
  { s with mem := { s.mem with windows := s.mem.windows.filter (fun w => decide (w.line ≠ line)) } }

/-- Drop the first element that satisfies `p`. -/
def dropFirst {α : Type} (p : α → Bool) : List α → List α
  | [] => []
  | x :: rest => if p x then rest else x :: dropFirst p rest

/-- Open a merge window on a line just read from the array, closing the slice's oldest of 32 (R41, R45). -/
def openWindow (s : State) (line : Nat) : State :=
  let ws := s.mem.windows
  let inSlice := fun (w : MergeWindow) => decide (sliceOf w.line = sliceOf line)
  let ws := if 32 ≤ (ws.filter inSlice).length then dropFirst inSlice ws else ws
  let w : MergeWindow := { line := line, data := rbs s line 128, poison := linePoisoned s line }
  { s with mem := { s.mem with windows := ws ++ [w] } }

/-- Read one line's bytes, from its merge window or from the array (R41, R42, R46). -/
def readLine (s : State) (a n : Nat) : Data × State :=
  let line := alignDown a 128
  match s.mem.windows.find? (fun w => decide (w.line = line)) with
  | some w => ({ bytes := (w.data.drop (a - line)).take n, poison := w.poison }, countQ s (addrQuarter a) 13 1)
  | none =>
    let s := countQ s (addrQuarter a) 12 1
    ({ bytes := rbs s a n, poison := linePoisoned s a }, openWindow s line)

/-- Clear reservations on the 128-byte rows that a write touches (R164). -/
def clearResv (s : State) (a n : Nat) : State :=
  { s with mem := { s.mem with resv := s.mem.resv.filter (fun r => !(decide (alignDown a 128 ≤ r.row)
      && decide (r.row < a + n))) } }

/-- Write bytes of one line: its window closes first; poison marks the line, a clean write of the whole line clears it
(R43, R611). -/
def writeLine (s : State) (a : Nat) (bs : List Byte) (poison : Bool) : State :=
  let line := alignDown a 128
  let s := closeWindow s line
  let s := clearResv (wbs s a bs) a bs.length
  let sp := s.mem.storePoison
  let sp := if poison then insertNat sp line
    else if a = line ∧ bs.length = 128 then sp.filter (fun x => decide (x ≠ line)) else sp
  { s with mem := { s.mem with storePoison := sp } }

/-! ### Scratchpads (R106 to R108) -/

/-- Is any 64-byte word of a run poisoned? -/
def scratchPoisoned (s : State) (a n : Nat) : Bool :=
  s.mem.scratchPoison.any (fun w => decide (alignDown a 64 ≤ w) && decide (w < a + n))

/-- Mark every word a run touches as poisoned. -/
def poisonWords (s : State) (a n : Nat) : State :=
  let first := a / 64
  let count := (a + n + 63) / 64 - first
  let sp := (List.range (if n = 0 then 0 else count)).foldl (fun sp i => insertNat sp ((first + i) * 64)) s.mem.scratchPoison
  { s with mem := { s.mem with scratchPoison := sp } }

/-- Write scratchpad bytes at a local address: poisoned data marks every word touched, clean data clears the words it
covers whole (R108). -/
def writeScratch (s : State) (a : Nat) (bs : List Byte) (poison : Bool) : State :=
  let s := clearResv (wbs s a bs) a bs.length
  if poison then poisonWords s a bs.length
  else
    let whole := fun w : Nat => decide (a ≤ w) && decide (w + 64 ≤ a + bs.length)
    { s with mem := { s.mem with scratchPoison := s.mem.scratchPoison.filter (fun w => !whole w) } }

/-- The words of a scratchpad that one op's clean writes cover whole, by several rows or pieces, lose their poison (R108): `runs` are
the runs the op wrote, `bad` the words into which it wrote poisoned data. -/
def clearWhole (s : State) (runs : List (Nat × Nat)) (bad : List Nat) : State :=
  let whole := fun w : Nat => !bad.contains w
    && (List.range 64).all (fun i => runs.any (fun r => decide (r.1 ≤ w + i) && decide (w + i < r.1 + r.2)))
  { s with mem := { s.mem with scratchPoison := s.mem.scratchPoison.filter (fun w => !whole w) } }

/-- One op writes runs of a scratchpad, all clean or all poisoned (R108). -/
def writeRuns (s : State) (runs : List (Nat × List Byte)) (poison : Bool) : State :=
  let s := runs.foldl (fun s r => writeScratch s r.1 r.2 poison) s
  if poison then s else clearWhole s (runs.map (fun r => (r.1, r.2.length))) []

/-- Zero a lantern's scratchpad, and clear its poison and the reservations on its rows (R57, R110, R164). -/
def clearScratch (s : State) (l : Nat) : State :=
  let lo := scratchBase l
  let hi := lo + 0x200000
  let out := fun a : Nat => decide (a < lo) || decide (hi ≤ a)
  { s with mem := { s.mem with cells := s.mem.cells.filter (fun p => out p.1),
                               scratchPoison := s.mem.scratchPoison.filter out,
                               resv := s.mem.resv.filter (fun r => out r.row) } }

/-! ### Bobbins (R236 to R248) -/

/-- The stored-check address of the block of a bobbin address (R238). -/
def checkAddr (a : Nat) : Nat := alignDown a 0x1000000000 + 0xFC0000000 + 4 * (a % 0x1000000000 / 512)

/-- Where a byte of a remapped granule is held (R570). -/
def heldAt (s : State) (a : Nat) : Nat :=
  match tget s.darner.remaps (alignDown a 8192) with
  | some place => place + a % 8192
  | none => a

/-- Bytes of HBM as held, through the remap table. -/
def hbmBytes (s : State) (a n : Nat) : List Byte := rbs s (heldAt s a) n
/-- Write bytes of HBM as held, through the remap table. -/
def hbmPut (s : State) (a : Nat) (bs : List Byte) : State := wbs s (heldAt s a) bs

/-- The stored check of a block. -/
def storedCheck (s : State) (a : Nat) : Nat := leNat (rbs s (checkAddr a) 4)
/-- Store a check. -/
def putCheck (s : State) (a c : Nat) : State := wbs s (checkAddr a) (leBytes 4 c)
/-- The CRC of a block's present content (R237). -/
def blockCrc (s : State) (a : Nat) : Nat := crc32c (hbmBytes s (alignDown a 512) 512)
/-- The bitwise complement of a check. -/
def notCheck (c : Nat) : Nat := 0xFFFFFFFF ^^^ c

/-- The three meanings of a stored check (R238). -/
inductive BlockState
  | good | poisoned | mismatch
  deriving DecidableEq, Repr

/-- What the stored check of a block says; a retired granule is held poisoned (R570). -/
def blockState (s : State) (a : Nat) : BlockState :=
  let c := storedCheck s a
  let k := blockCrc s a
  if s.darner.retired.contains (alignDown a 8192) then .poisoned
  else if c = k then .good else if c = notCheck k then .poisoned else .mismatch

/-- Give a block a good or a poisoned check over its present content. -/
def sealBlock (s : State) (a : Nat) (poison : Bool) : State :=
  let k := blockCrc s a
  putCheck s a (if poison then notCheck k else k)

/-- A fault injected on a block's next write (R504): 0 carry check armed, 1 ECC armed, 2 ECC corrupted, 3 carry check corrupted. -/
def injected (s : State) (a k : Nat) : Bool := s.mem.corruptNext.contains (alignDown a 512 * 4 + k)
/-- Arm or plant an injected fault on a block in place of what stood there; 4 and above clear it. -/
def setInjected (s : State) (a k : Nat) : State :=
  let base := alignDown a 512 * 4
  let rest := s.mem.corruptNext.filter (fun x => decide (x / 4 * 4 ≠ base))
  { s with mem := { s.mem with corruptNext := if k < 4 then (base + k) :: rest else rest } }
/-- A whole new content stands in a block: an error planted in the old one is gone (R504). -/
def clearPlanted (s : State) (a : Nat) : State := if injected s a 2 || injected s a 3 then setInjected s a 4 else s

/-- Handle a mismatch or an uncorrectable ECC error: the block becomes poisoned, class 9 or 6 latches with the bobbin as
master, and the event is counted (R241, R243, R247). DETAIL bit 63 shows that it was injected (R504). -/
def blockFault (s : State) (who : Who) (a access cls : Nat) : State :=
  let b := a / 0x1000000000
  let planted := injected s a 2 || injected s a 3
  let s := clearPlanted (sealBlock s a true) a
  let s := countB s b (if cls = 6 then 4 else 5) 1
  latch s { cls := cls, access := access, addr := some (ownNode s * 2 ^ 44 + alignDown a 512), masterKind := 4,
            master := b, hoop := who.hoop, ctx := who.ctx, detail := wd (b1 planted * 2 ^ 63) }

/-- After a write of a block: an armed injection corrupts the stored check or ECC (R504). -/
def applyInjection (s : State) (a : Nat) : State :=
  if injected s a 0 then setInjected (putCheck s a (storedCheck s a ^^^ 1)) a 3
  else if injected s a 1 then setInjected s a 2
  else s

/-- Merge a partial write into a block (R240, R241). The old block is read for it: an ECC error planted there is found as a
mismatch is (R247). -/
def mergeBlock (s : State) (who : Who) (a : Nat) (bs : List Byte) (poison : Bool) : State :=
  let old := blockState s a
  let s := hbmPut s a bs
  let s := countB s (a / 0x1000000000) 2 1
  if injected s a 2 then blockFault s who a 1 6
  else match old with
  | .good => applyInjection (sealBlock s a poison) a
  | .poisoned => sealBlock s a true
  | .mismatch => blockFault s who a 1 9

/-- Is a write to this granule held while its copy runs (R570)? -/
def remapping (s : State) (a : Nat) : Bool :=
  match s.darner.queue.find? (fun r => decide (r.b = a / 0x1000000000)) with
  | some r => decide (r.granule = alignDown a 8192)
  | none => false

/-- Count an access to a remapped granule (R559). -/
def countRemapped (s : State) (a : Nat) : State := if heldAt s a = a then s else countB s (a / 0x1000000000) 8 1

/-- Store bytes that lie in one block: a write of the whole block stores data and a new check and clears poison, and with it an
ECC error planted in the old content; a part is merged (R240, R241, R245, R247). -/
def storeBlock (s : State) (who : Who) (a : Nat) (bs : List Byte) (poison : Bool) : State :=
  if a = alignDown a 512 ∧ bs.length = 512 then
    let s := sealBlock (hbmPut s a bs) a poison
    applyInjection (clearPlanted s a) a
  else mergeBlock s who a bs poison

/-- Hold a write to a granule whose copy runs, with the check it carries, if any (R570). -/
def holdWrite (s : State) (who : Who) (a : Nat) (bs : List Byte) (poison : Bool) (check : Option Nat) : State :=
  let hold := fun r : Remap => if r.granule = alignDown a 8192 then
    { r with held := r.held ++ [{ addr := a, data := bs, poison := poison, eng := who.eng, check := check }] } else r
  { s with darner := { s.darner with queue := s.darner.queue.map hold } }

/-- A part of a block that waited at its controller is merged, or held while a remap copies its granule; the bobbin's port counts its
bytes and the read of the merge (R240, R437, R570). -/
def performMerge (s : State) (m : Merge) : State :=
  let who : Who := { eng := m.eng, hoop := none, ctx := none, flow := none }
  let b := m.addr / 0x1000000000
  let s := portArrive (countB s b 1 m.data.length) b none (m.data.length + 512)
  if remapping s m.addr then holdWrite s who m.addr m.data m.poison none
  else storeBlock (countRemapped s m.addr) who m.addr m.data m.poison
/-- Perform the merges of a block that wait at its controller, in arrival order (R240). -/
def flushMerges (s : State) (blk : Nat) : State :=
  let mine := s.mem.merges.filter (fun m => decide (alignDown m.addr 512 = blk))
  let s := { s with mem := { s.mem with merges := s.mem.merges.filter (fun m => decide (alignDown m.addr 512 ≠ blk)) } }
  mine.foldl performMerge s

/-- Write bytes that lie in one block of usable HBM, after the merges of that block that wait: both are held while a remap of the
granule copies it (R240, R570). -/
def writeBlock (s : State) (who : Who) (a : Nat) (bs : List Byte) (poison : Bool) : State :=
  let blk := alignDown a 512
  let b := a / 0x1000000000
  let s := countRemapped (clearResv s a bs.length) a
  let s := selCount s (some (addrQuarter a)) 0x08 bs.length who.hoop (who.flow.map (fun f => f % 8)) who.ctx
  let s := portArrive (countB s b 1 bs.length) b who.flow (if bs.length = 512 then 512 else bs.length + 512)
  let s := flushMerges s blk
  if remapping s a then holdWrite s who a bs poison none else storeBlock s who a bs poison

/-- Store a whole block with the check it carries (R242). -/
def storeCarried (s : State) (a : Nat) (bs : List Byte) (check : Nat) : State :=
  let s := putCheck (hbmPut s a bs) a check
  applyInjection (clearPlanted s a) a
/-- A write that a granule remap held is performed at the new place (R570). -/
def landHeld (s : State) (m : Merge) : State :=
  let s := clearResv s m.addr m.data.length
  match m.check with
  | some c => storeCarried s m.addr m.data c
  | none => storeBlock s { eng := m.eng, hoop := none, ctx := none, flow := none } m.addr m.data m.poison

/-- Read bytes that lie in one block of usable HBM, with its carry check (R242 to R244, R247). During a remap's copy the old place
serves it (R570). -/
def readBlock (s : State) (who : Who) (a n access : Nat) : Data × State :=
  let b := a / 0x1000000000
  let s := countRemapped (if remapping s a then s else flushMerges s (alignDown a 512)) a
  let s := selCount s (some (addrQuarter a)) 0x08 n who.hoop (who.flow.map (fun f => f % 8)) who.ctx
  let s := portArrive (countB s b 0 n) b who.flow n
  let bs := hbmBytes s a n
  if injected s a 2 then ({ bytes := bs, poison := true }, blockFault s who a access 6)
  else
    match blockState s a with
    | .good => ({ bytes := bs, poison := false }, s)
    | .poisoned => ({ bytes := bs, poison := true }, countQ s (addrQuarter a) 11 1)
    | .mismatch => ({ bytes := bs, poison := true }, blockFault s who a access 9)

/-! ### Runs -/

/-- Cut a run of `n` bytes at `a` into pieces that do not cross a multiple of `k` (structural on `fuel`). -/
def pieces (k : Nat) : Nat → Nat → Nat → List (Nat × Nat)
  | 0, _, _ => []
  | fuel + 1, a, n =>
    if n = 0 then []
    else
      let len := min n (k - a % k)
      (a, len) :: pieces k fuel (a + len) (n - len)

/-- The pieces of a run, at most one per byte. -/
def cut (k a n : Nat) : List (Nat × Nat) := pieces k (n / k + 2) a n

/-- Read a run of local memory below the host apertures that lies in one range of R282, guards and counters included. A
mailbox page reads as 0 and counts the access (R196). -/
def readRun (s : State) (who : Who) (a n access : Nat) : Data × State :=
  if a < 0xC000000000 then
    if usableHbm a then
      (cut 512 a n).foldl (fun acc p =>
        let r := readBlock acc.2 who p.1 p.2 access
        ({ bytes := acc.1.bytes ++ r.1.bytes, poison := acc.1.poison || r.1.poison }, r.2))
        ({ bytes := [], poison := false }, s)
    else ({ bytes := rbs s a n, poison := false }, s)
  else if a < 0xC010000000 then
    (cut 128 a n).foldl (fun acc p =>
      let r := readLine acc.2 p.1 p.2
      ({ bytes := acc.1.bytes ++ r.1.bytes, poison := acc.1.poison || r.1.poison }, r.2))
      ({ bytes := [], poison := false }, s)
  else if a < 0xC400004000 then
    ({ bytes := List.replicate n 0, poison := false }, countQ s (addrQuarter a) 9 1)
  else ({ bytes := rbs s a n, poison := scratchPoisoned s a n }, s)

/-- Write a run of local memory below the host apertures that lies in one range of R282. A mailbox page drops the access
and counts it (R196); its picot writes are messages, not stores. -/
def writeRun (s : State) (who : Who) (a : Nat) (bs : List Byte) (poison : Bool) : State :=
  if a < 0xC000000000 then
    if usableHbm a then
      (cut 512 a bs.length).foldl (fun s p => writeBlock s who p.1 ((bs.drop (p.1 - a)).take p.2) poison) s
    else wbs s a bs
  else if a < 0xC010000000 then
    (cut 128 a bs.length).foldl (fun s p => writeLine s p.1 ((bs.drop (p.1 - a)).take p.2) poison) s
  else if a < 0xC400004000 then countQ s (addrQuarter a) 9 1
  else writeScratch s a bs poison

/-! ### Checks on a local access (R278, R284, R377, R510, R549) -/

/-- Is a local range held by a loading or loaded kernel image (R157, R377)? -/
def imageHolds (s : State) (a n : Nat) : Bool :=
  (List.range 64).any (fun h => (hoop s h).images.any (fun i =>
    i.parts.any (fun p => decide (a < p.1 + p.2) && decide (p.1 < a + n))))

/-- Is the address lent to a host over CXL .mem (R278): bound to a memory-role hoop that a committed decoder serves? -/
def cxlLent (s : State) (a : Nat) : Bool :=
  match addrHoop s a with
  | some h => decide (hoopRole s h = 1) && s.ports.any (fun p => p.decoders.any (fun d => d.hoop == some h))
  | none => false

/-- Is a run of memory closed to device traffic: an image holds it (R157), or it is lent to a host over CXL .mem (R278)? -/
def deviceClosed (s : State) (a n : Nat) : Bool := usableHbm a && (imageHolds s a n || cxlLent s a)

/-- The ACTIVE key epoch (R548). -/
def activeEpoch (s : State) : Option Nat :=
  (List.range 4).find? (fun e => s.keeper.keys.getD e .empty = .active)

/-- The key epoch that tags a unit (R549). -/
def unitTag (s : State) (u : Nat) : Nat := (tget s.keeper.tags u).getD 0

/-- Is an access refused because its unit's tag is not the epoch it carries (R549)? -/
def keyRetired (s : State) (who : Who) (a : Nat) : Bool :=
  let e := match who.key with | some k => some k | none => activeEpoch s
  s.keeper.conf && usableHbm a && decide (e ≠ some (unitTag s (unitOf a)))

/-- May a hoop reach a lantern's scratchpad window at this offset (R284)? A requester of no hoop, the PF or the management port
(R367), reaches the windows of lanterns that some hoop binds; a lantern of no hoop is off and holds nothing (R56), so its window is
refused to every requester (log 131). -/
def windowOk (s : State) (h : Option Nat) (a n : Nat) : Bool :=
  let l := (a - 0xC800000000) / 0x200000
  let off := (a - 0xC800000000) % 0x200000
  lanOk l && decide (off + n ≤ scratchSize (lanKind l)) && (lanternHoop s l).isSome && (h.isNone || lanternHoop s l == h)

/-- Wake a gated lantern that an access reaches (R58): the access waits until it is awake. -/
def wakeLantern (s : State) (l : Nat) : Out Unit :=
  match (lantern s l).power with
  | .awake => .ok () s
  | .waking _ => .wait s
  | .retained => if backupDrowse s then .wait s else .wait (modLantern s l (fun x => { x with power := .waking false }))
  | .cold => if backupDrowse s then .wait s else .wait (modLantern s l (fun x => { x with power := .waking true }))

/-- Do runs of `n` bytes at `a` and `k` bytes at `b` touch a common 128-byte row? -/
def rowsMeet (a n b k : Nat) : Bool := decide (alignDown a 128 < b + k) && decide (alignDown b 128 < a + n)
/-- Does a held picot write of an engine touch the rows of a run at a place? -/
def picotMeets (p : Picot) (place : Place) (n : Nat) : Bool :=
  match p.place, place with
  | .loc b, .loc a => rowsMeet a n b p.data.length
  | .peer k b, .peer m a => decide (k = m) && rowsMeet a n b p.data.length
  | _, _ => false
/-- Has an engine a write of the 128-byte rows of a run that has not landed: a picot write of its own held here, or a write held by
a granule remap? A later access of that engine to the row waits for it (R261, R262). -/
def rowHeld (s : State) (eng : Eng) (place : Place) (n : Nat) : Bool :=
  s.fab.picots.any (fun p => p.sender.isNone && decide (p.eng = eng) && picotMeets p place n)
    || (match place with
      | .loc a => s.darner.queue.any (fun r => r.held.any (fun m => decide (m.eng = eng) && rowsMeet a n m.addr m.data.length))
      | .peer _ _ => false)

/-- Does a run of HBM meet a granule whose remap copies it? -/
def meetsRemap (s : State) (a n : Nat) : Bool :=
  s.darner.queue.any (fun r => decide (a < r.granule + 8192) && decide (r.granule < a + n) && remapping s r.granule)
/-- Does a request come from outside the device: from a host? A peer's request is checked as it arrives. -/
def fromHost (who : Who) : Bool := match who.eng with | .host _ => true | _ => false

/-- Does a run of a quarter store meet a slice that a FENCE reaction takes out (R494 step 1)? -/
def sliceFenced (s : State) (a n : Nat) : Bool :=
  fencingUnit s (fun f => decide (f.cls = 4) && decide (f.done = 0)
    && (List.range ((a + n + 127) / 128 - a / 128)).any (fun i => decide (sliceOf (a + 128 * i) = sliceOf (f.addr % 2 ^ 44))))
/-- The checks and waits of an access to this node's memory below the host apertures: the address exists, the domain is
not being reset from outside it (a host's request comes from outside every domain, R510), the key epoch holds, a scratchpad window is
the hoop's and awake, clocks run; a write of a granule that a remap copies waits for the copy (R570). In safe state the bobbins are in
self-refresh and serve nothing (R500; that such an access is refused is a DESIGN CHOICE, log 170). A request from a lantern to its own
window needs no wake. -/
def localOpen (s : State) (who : Who) (a n : Nat) (write own : Bool) : Out Unit :=
  if fromHost who && deviceResetting s then .fail .resetAbort s
  else
  match region s a with
  | none | some .host0 | some .host1 => .fail .rights s
  | some .scratch =>
    let l := (a - 0xC800000000) / 0x200000
    if !windowOk s who.hoop a n then .fail .rights s
    else if !own && lanternResetting s l then .fail .resetAbort s
    else (needClock s (lanQuarter l)).andThen (fun _ s => if own then .ok () s else wakeLantern s l)
  | some .store => if sliceFenced s a n then .fail .resetAbort s else needClock s (addrQuarter a)
  | some .mailbox => needClock s (addrQuarter a)
  | some .hbm =>
    let owner := addrHoop s a
    if s.snuffer.safe then .fail .rights s
    else if keyRetired s who a then .fail .keyRetired s
    else if write && (cxlLent s a || (!own && imageHolds s a n)) then .fail .rights s
    else if (decide (owner ≠ who.hoop) || fromHost who) && (owner.map (hoopResetting s)).getD false then .fail .resetAbort s
    else (needClock s (addrQuarter a)).andThen (fun _ s => if write && meetsRemap s a n then .wait s else .ok () s)
/-- The same, behind the engine's own earlier writes of the rows (R261). -/
def localReady (s : State) (who : Who) (a n : Nat) (write own : Bool) : Out Unit :=
  (localOpen s who a n write own).andThen (fun _ s => if rowHeld s who.eng (.loc a) n then .wait s else .ok () s)

/-- The quarter an engine belongs to; the front end and host requesters belong to none. -/
def engQuarter (e : Eng) : Option Nat :=
  match e with
  | .lan l | .core l _ | .dma l => some (lanQuarter l)
  | .mover q _ | .coll q _ => some q
  | .cse slot => some (slot / 64)
  | .fe | .host _ => none

/-- The bridge ports that data from quarter `a` to quarter `b` crosses (R36, R437). -/
def bridgeHops (a b : Nat) : List Nat :=
  match (b + 4 - a) % 4 with
  | 1 => [12 + 2 * a]
  | 2 => [12 + 2 * a, 12 + 2 * ((a + 1) % 4)]
  | 3 => [13 + 2 * b]
  | _ => []

/-- The links of R249 on the way between two ends: quarters, or the hub (none). -/
def pathLinks (a b : Option Nat) : List LinkId :=
  match a, b with
  | some a, some b => if a = b then [.mesh a] else .mesh a :: .mesh b :: (bridgeHops a b).map (fun p => .bridge (p - 12))
  | some a, none => [.mesh a, .hub a]
  | none, some b => [.mesh b, .hub b]
  | none, none => []
/-- Is the next block on the way delivered poisoned: the re-sends of one of its links failed (R249)? -/
def linkPoison (s : State) (a b : Option Nat) : Bool := (pathLinks a b).any (fun k => s.mem.badLinks.contains k)

/-- `n` bytes of data go between two ends: they are served and counted at the bridges, as bytes in transit when they pass
through a third quarter (R36, R37, R437); an end outside the quarters crosses none (R38). A block that a link delivered
poisoned is past. -/
def crossTo (s : State) (who : Who) (a b : Option Nat) (n : Nat) : State :=
  let s := if linkPoison s a b then
      { s with mem := { s.mem with badLinks := s.mem.badLinks.filter (fun k => !(pathLinks a b).contains k) } }
    else s
  match a, b with
  | some a, some b =>
    let hops := bridgeHops (a % 4) (b % 4)
    hops.foldl (fun s p =>
      let s := addCell (portArrive s p who.flow n) 0x600001 (4 + p) 0 n
      if hops.length = 2 then addCell s 0x600001 (4 + p) 2 n else s) s
  | _, _ => s

/-- Mark data that a link has poisoned on its way. -/
def onWay (s : State) (a b : Option Nat) (d : Data) : Data := { d with poison := d.poison || linkPoison s a b }

end Sys2Proof.Machine
end

