-- ==== Sys2Proof/Machine/Fabric.lean ====
section
/-! DEFINITION. The sending side of the fabric: pricking banks (R328 to R333), the path to a node (R330, R331), messages,
flits and credits (R340 to R343), and requests to other nodes. -/

namespace Sys2Proof.Machine

/-! ### Pricking banks -/

/-- A bank that is EMPTY. -/
def bankEmpty : Bank := { state := .empty, epoch := 0, routes := [], hoops := [] }
/-- Bank `i`. -/
def bank (s : State) (i : Nat) : Bank := s.fab.banks.getD i bankEmpty
/-- Change bank `i`. -/
def modBank (s : State) (i : Nat) (f : Bank → Bank) : State :=
  { s with fab := { s.fab with banks := s.fab.banks.set i (f (bank s i)) } }
/-- The bank in a state, when there is one. -/
def bankIn (s : State) (st : BankState) : Option Nat :=
  (List.range 2).find? (fun i => (bank s i).state = st)
/-- The CURRENT bank. -/
def curBank (s : State) : Bank := bank s ((bankIn s .current).getD 0)
/-- A live bank of an epoch: CURRENT, DRAINING or STAGED (R332). -/
def bankOfEpoch (s : State) (e : Nat) : Option Bank :=
  ((List.range 2).map (bank s)).find? (fun b => decide (b.state ≠ .empty) && decide (b.epoch = e))

/-- Row of a hoop in a bank (R329). -/
def bankRow (b : Bank) (h : Nat) : List Word := (tget b.hoops h).getD [0, 0, 0, 0]
/-- FHID of a hoop in a bank. -/
def bankFhid (b : Bank) (h : Nat) : Nat := fld (wordAt (bankRow b h) 0) 63 48
/-- The peers a hoop row lists (R329). -/
def bankPeers (b : Bank) (h : Nat) : List Nat :=
  let row := bankRow b h
  let node (i : Nat) := let k := i % 8; fld (wordAt row (1 + i / 8)) (8 * k + 7) (8 * k)
  (List.range (fld (wordAt row 0) 47 44)).map node
/-- Route row of a node in a bank (R328). -/
def bankRoute (b : Bank) (n : Nat) : Word := (tget b.routes n).getD 0
/-- The hoop of a bank that carries an FHID. -/
def bankHoopOf (b : Bank) (fhid : Nat) : Option Nat :=
  if fhid = 0 then none else (List.range 64).find? (fun h => bankFhid b h = fhid)

/-- FHID of a hoop in the CURRENT bank (R315). -/
def hoopFhid (s : State) (h : Nat) : Nat := bankFhid (curBank s) h
/-- Is a hoop's FHID nonzero in a live bank (R322)? -/
def fhidLive (s : State) (h : Nat) : Bool :=
  (List.range 2).any (fun i => decide ((bank s i).state ≠ .empty) && decide (bankFhid (bank s i) h ≠ 0))

/-! ### Path (R330, R331) -/

/-- Is an eyelet UP, at full or at half width? -/
def eyeUp (s : State) (e : Nat) : Bool := (eyelet s e).state = 2 || (eyelet s e).state = 3
/-- The eyelets on which a hoop binds a lane (R317, R319). -/
def hoopEyes (s : State) (h : Nat) : List Nat :=
  (List.range 8).filter (fun k => fld (hoopWord s h 11) (8 * k + 7) (8 * k) ≠ 0)

/-- The candidate set of a hoop's requests to a node, or why there is none (R330, R331). -/
def candidates (s : State) (h node : Nat) : Except Status (List Nat) :=
  let b := curBank s
  let row := bankRoute b node
  let shared := (hoopEyes s h).filter (fun k => bit row (54 + k))
  let up := shared.filter (eyeUp s)
  if !(bankPeers b h).contains node then .error .epochStale
  else if bit row 62 then .error .peerLost
  else if !bit row 63 || shared.isEmpty then .error .rights
  else if up.isEmpty then .error .peerLost
  else .ok up

/-- The eyelet a request takes (R331): those of the requester's quarter (E(2q), E(2q + 1)) when a candidate is among
them; then by ADDR bits 17:7. -/
def pickEye (cands : List Nat) (eng : Eng) (addr : Nat) : Nat :=
  let near := match engQuarter eng with
    | some q => cands.filter (fun k => k / 2 = q)
    | none => []
  let use := if near.isEmpty then cands else near
  use.getD (addr / 128 % 2048 % use.length) 0

/-! ### Messages and flits (R340, R341) -/

/-- A message's bytes: its header, then its data starting at byte `off` of the first data unit, in whole units. -/
def msgBytes (msg epoch floss : Nat) (poison : Bool) (len tag status src fhid addr off : Nat) (data : List Byte) :
    List Byte :=
  let w0 := msg % 16 * 2 ^ 60 + epoch % 8 * 2 ^ 57 + floss % 8 * 2 ^ 54 + b1 poison * 2 ^ 53 + (len - 1) % 512 * 2 ^ 44
    + tag % 4096 * 2 ^ 32 + status % 256 * 2 ^ 24 + src % 256 * 2 ^ 16 + fhid % 65536
  let body := if data.isEmpty then [] else List.replicate off 0 ++ data
  leBytes 8 w0 ++ leBytes 8 (addr % 2 ^ 52) ++ padTo ((body.length + 15) / 16 * 16) body

/-- The twelve header bytes of a flit (R340). -/
def flitHeader (ty seq ack req rsp key : Nat) (enc : Bool) (first : Nat) : List Byte :=
  leBytes 12 (ty % 16 * 2 ^ 92 + seq % 4096 * 2 ^ 80 + ack % 4096 * 2 ^ 68 + req % 256 * 2 ^ 60 + rsp % 256 * 2 ^ 52
    + key % 4 * 2 ^ 50 + b1 enc * 2 ^ 49 + first % 16 * 2 ^ 45)

/-- A flit with its CRC. -/
def flitOf (header body : List Byte) : List Byte :=
  let front := header ++ padTo 240 body
  front ++ leBytes 4 (crc32 front)

/-- The eyelet key of a key epoch. -/
def eyeKey (s : State) (e : Nat) : Nat := (s.keeper.eyeletKey.getD e none).getD 0

/-- The last SEQ an eyelet received in order. -/
def lastGood (y : Eyelet) : Nat := (y.rxNext + 4095) % 4096

/-- Send one flit of a class of TYPE that needs a SEQ: it is kept for replay (R343) and carries the credits to return. -/
def sendSeq (s : State) (e ty key : Nat) (enc : Bool) (first : Nat) (body : List Byte) : State :=
  let y := eyelet s e
  let req := min 255 y.reqReturn
  let rsp := min 255 y.rspReturn
  let flit := flitOf (flitHeader ty y.txNext (lastGood y) req rsp key enc first) body
  let s := countE s e 0 1
  modEyelet s e (fun y => { y with replay := y.replay ++ [(y.txNext, flit)], resends := y.resends ++ [0], txNext := (y.txNext + 1) % 4096,
                                   reqReturn := y.reqReturn - req, rspReturn := y.rspReturn - rsp,
                                   out := y.out ++ [flit] })

/-- Has the replay buffer room for a flit (R343)? -/
def replayRoom (s : State) (e : Nat) : Bool := decide ((eyelet s e).replay.length < 2048)
/-- Send a CTRL flit, or note that it is due when the replay buffer has no room (R343). The spec gives its body no layout, so its bytes are
free. -/
def sendCtrl (s : State) (e : Nat) : State :=
  if replayRoom s e then let b := freeBytes 240 s; sendSeq b.2 e 3 0 false 15 b.1
  else modEyelet s e (fun y => { y with ctrlDue := y.ctrlDue + 1 })
/-- Send the CTRL flits that are due, as far as the replay buffer has room. -/
def sendDue : Nat → State → Nat → State
  | 0, s, _ => s
  | k + 1, s, e =>
    if replayRoom s e then sendDue k (sendCtrl (modEyelet s e (fun y => { y with ctrlDue := y.ctrlDue - 1 })) e) e else s

/-- Send a flit without a SEQ of its own: IDLE (0) carries the next SEQ, NAK (2) carries 0. -/
def sendBare (s : State) (e ty : Nat) : State :=
  let y := eyelet s e
  let req := min 255 y.reqReturn
  let rsp := min 255 y.rspReturn
  let seq := if ty = 0 then y.txNext else 0
  let flit := flitOf (flitHeader ty seq (lastGood y) req rsp 0 false 15) []
  let s := countE s e 0 1
  let s := if ty = 2 then countE s e 2 1 else s
  modEyelet s e (fun y => { y with reqReturn := y.reqReturn - req, rspReturn := y.rspReturn - rsp,
                                   out := y.out ++ [flit] })

/-- Send a message as DATA flits. A message begins a flit, and continues in flits with FIRST = 15 (log 20). In
confidential mode the body is sealed under the ACTIVE epoch's eyelet key (R340, R542). -/
def sendFlits (s : State) (e : Nat) (msg : List Byte) : State :=
  let enc := s.keeper.conf
  let cap := if enc then 224 else 240
  let key := (activeEpoch s).getD 0
  let parts := chunksOf cap msg.length msg
  (parts.zipIdx).foldl (fun s p =>
    let nonce := (eyelet s e).txNext
    let body := if enc then Config.sealBody (eyeKey s key) nonce (padTo 224 p.1) else p.1
    sendSeq s e 1 key enc (if p.2 = 0 then 0 else 15) body) s

/-- Flits a message takes. -/
def flitCount (s : State) (msg : List Byte) : Nat :=
  let cap := if s.keeper.conf then 224 else 240
  (msg.length + cap - 1) / cap

/-- May this queued message go now: link UP, a credit of its class, room in the replay buffer (R342, R343)? -/
def canSend (s : State) (e : Nat) (m : TxMsg) : Bool :=
  let y := eyelet s e
  eyeUp s e && decide (0 < (if m.response then y.rspCredits else y.reqCredits))
    && decide (y.replay.length + flitCount s m.bytes ≤ 2048)

/-- The next message of an eyelet that may go: the oldest of its class, so that the messages of one class keep their order (R262, R342);
one class never blocks the other. -/
def nextTx (s : State) (e : Nat) : Option TxMsg :=
  let q := (eyelet s e).txq
  q.find? (fun m => canSend s e m && some m == q.find? (fun x => x.response == m.response))
/-- Send the CTRL flits that are due, then the queued messages of an eyelet that may go, oldest first in each class. -/
def pumpEye (s : State) (e : Nat) : State :=
  let rec go : Nat → State → State
    | 0, s => s
    | fuel + 1, s =>
      match nextTx s e with
      | none => s
      | some m =>
        let take := fun y : Eyelet => { y with
          txq := dropFirst (fun x => x == m) y.txq,
          reqCredits := if m.response then y.reqCredits else y.reqCredits - 1,
          rspCredits := if m.response then y.rspCredits - 1 else y.rspCredits }
        go fuel (sendFlits (modEyelet s e take) e m.bytes)
  go (eyelet s e).txq.length (if eyeUp s e then sendDue (eyelet s e).ctrlDue s e else s)

/-- Queue a message at an eyelet and send what may go; a message that waits for credit is counted. -/
def sendMsg (s : State) (e : Nat) (m : TxMsg) : State :=
  let y := eyelet s e
  let s := if (if m.response then y.rspCredits else y.reqCredits) = 0 then countE s e 6 1 else s
  pumpEye (modEyelet s e (fun y => { y with txq := y.txq ++ [m] })) e

/-! ### Requests -/

/-- The outstanding requests of this node. -/
def outstanding (s : State) : List Remote := s.fab.remotes.filter (fun r => r.answer.isNone)
/-- The lowest request tag free on an eyelet; none while all 4,096 are in use (R342). -/
def freeTag (s : State) (e : Nat) : Option Nat :=
  let used := ((outstanding s).filter (fun r => r.eye = e)).map (fun r => r.tag)
  (List.range 4096).find? (fun t => !used.contains t)

/-- Does a transaction belong to the lantern of an engine, or else to its quarter (R431)? -/
def sharesTags (a b : Eng) : Bool :=
  let lan (e : Eng) : Option Nat := match e with | .lan l | .core l _ | .dma l => some l | _ => none
  match lan a with
  | some l => decide (lan b = some l)
  | none => (engQuarter a).isSome && decide (engQuarter b = engQuarter a) && (lan b).isNone
/-- The engines whose memory transactions are in flight: requests to other nodes that have no answer, and picot writes held here. Every
other access is over in one step. -/
def inFlight (s : State) : List Eng :=
  (outstanding s).map (fun r => r.eng) ++ (s.fab.picots.filter (fun p => p.sender.isNone)).map (fun p => p.eng)
/-- Are the memory transaction tags used up for `n` more of an engine: 512 per lantern, 16,384 per quarter, 65,536 in all (R431)? -/
def memTagsFull (s : State) (eng : Eng) (n : Nat) : Bool :=
  let all := inFlight s
  let lan := match eng with | .lan _ | .core _ _ | .dma _ => true | _ => false
  let quarter := match engQuarter eng with
    | some q => (all.filter (fun e => decide (engQuarter e = some q))).length
    | none => 0
  (lan && decide (512 < (all.filter (sharesTags eng)).length + n)) || decide (16384 < quarter + n) || decide (65536 < all.length + n)

/-- Codes of the request messages (R341). -/
def msgRead : Nat := 1
/-- WRITE. -/
def msgWrite : Nat := 2
/-- PICOT. -/
def msgPicot : Nat := 3
/-- FENCE. -/
def msgFence : Nat := 4

/-- Issue the request of a number to another node on behalf of a hoop (R330, R331, R342). It waits while requests to the node issued
under another candidate set of the hoop are outstanding, and while no tag is free. -/
def sendAs (s : State) (id : Nat) (who : Who) (h aspace entry msg node addr len row status : Nat) (d : Data) : Out Unit :=
  match candidates s h node with
  | .error st => .fail st s
  | .ok cands =>
    if (outstanding s).any (fun r => decide (r.node = node) && decide (r.hoop = h) && decide (r.cands ≠ cands)) then .wait s
    else
      let e := pickEye cands who.eng addr
      if memTagsFull s who.eng 1 then .wait (addCell s 0x810008 4 0 1)
      else
      match freeTag s e with
      | none => .wait (addCell (countE s e 7 1) 0x810008 5 0 1)
      | some tag =>
        let b := curBank s
        let fhid := bankFhid b h
        let floss := (who.flow.getD 0) % 8
        let r : Remote := { id := id, eng := who.eng, hoop := h, ctx := who.ctx.getD 1024, row := row,
                            aspace := aspace, entry := entry,
                            msg := msg, node := node, eye := e, cands := cands, tag := tag, epoch := b.epoch,
                            key := (activeEpoch s).getD 0, addr := addr, len := len, data := d.bytes, poison := d.poison, sent := wick s,
                            limit := 1000 * regN s 0x310006 0,
                            answer := none }
        let s := { s with fab := { s.fab with remotes := s.fab.remotes ++ [r], nextId := max s.fab.nextId (id + 1) } }
        let bytes := msgBytes msg b.epoch floss d.poison len tag status (ownNode s) fhid
          (if msg = msgFence then addr else node * 2 ^ 44 + addr) (if msg = msgFence then 0 else addr % 16) d.bytes
        let s := crossTo s who (engQuarter who.eng) (some (e / 2)) d.bytes.length
        .ok () (sendMsg (portArrive s (20 + e) who.flow d.bytes.length) e { response := false, bytes := bytes })

/-- Issue a request under the next number. -/
def sendRemote (s : State) (who : Who) (h aspace entry msg node addr len row status : Nat) (d : Data) : Out Unit :=
  sendAs s s.fab.nextId who h aspace entry msg node addr len row status d

/-- The request of an engine for one piece, if any. -/
def findRemote (s : State) (eng : Eng) (msg node addr len row : Nat) : Option Remote :=
  s.fab.remotes.find? (fun r => decide (r.eng = eng) && decide (r.msg = msg) && decide (r.node = node)
    && decide (r.addr = addr) && decide (r.len = len) && decide (r.row = row))

/-- Forget a request. -/
def dropRemote (s : State) (id : Nat) : State :=
  { s with fab := { s.fab with remotes := s.fab.remotes.filter (fun r => decide (r.id ≠ id)) } }

/-- A read of another node, sent once and taken when its data has come. -/
def readRemote (s : State) (who : Who) (h aspace entry node addr len row : Nat) : Out Data :=
  match findRemote s who.eng msgRead node addr len row with
  | some r =>
    match r.answer with
    | none => .wait s
    | some (.ok, bs, p) => .ok { bytes := bs, poison := p } (dropRemote s r.id)
    | some (st, _, _) => .fail st (dropRemote s r.id)
  | none =>
    match sendRemote s who h aspace entry msgRead node addr len row 0 { bytes := [], poison := false } with
    | .ok _ s => .wait s
    | .wait s => .wait s
    | .fail st s => .fail st s

/-- Has an engine requests that have no answer, picot writes held here, or writes held by a granule remap? -/
def engBusy (s : State) (eng : Eng) : Bool :=
  (outstanding s).any (fun r => r.eng = eng) || s.fab.picots.any (fun p => p.sender.isNone && decide (p.eng = eng))
    || s.darner.queue.any (fun r => r.held.any (fun m => decide (m.eng = eng)))
/-- The writes of some engines for a hoop that have not landed, by number (R273): requests to other nodes that no answer has come to,
and picot writes held here. -/
def writesOf (s : State) (mine : Eng → Bool) (h : Nat) : List Nat :=
  ((outstanding s).filter (fun r => mine r.eng && decide (r.hoop = h) && decide (r.msg ≠ msgRead))).map (fun r => r.id)
    ++ (s.fab.picots.filter (fun p => p.sender.isNone && mine p.eng && decide (p.hoop = h))).map (fun p => p.id)
/-- The first failure among the answers to some engines' writes for a hoop that no engine has taken yet (R275). -/
def writeFailure (s : State) (mine : Eng → Bool) (h : Nat) : Option Status :=
  (s.fab.remotes.filterMap (fun r => if mine r.eng ∧ r.hoop = h ∧ r.msg ≠ msgRead then
    (match r.answer with | some (.ok, _, _) => none | some (st, _, _) => some st | none => none) else none)).head?
/-- The source of an engine's picot writes: of a core, its whole lantern (R179, R273). -/
def sourceOf (eng : Eng) : Eng → Bool :=
  match eng with
  | .core l _ => fun e => match e with | .lan x | .core x _ | .dma x => decide (x = l) | _ => false
  | _ => fun e => decide (e = eng)
/-- Are writes of a source held by a granule remap? -/
def remapHeld (s : State) (mine : Eng → Bool) : Bool := s.darner.queue.any (fun r => r.held.any (fun m => mine m.eng))
/-- Let go of this node's held picot writes of some engines. -/
def dropPicots (s : State) (mine : Eng → Bool) : State :=
  { s with fab := { s.fab with picots := s.fab.picots.filter (fun p => !(p.sender.isNone && mine p.eng)) } }
/-- The first failing answer an engine has received and not taken. -/
def engFailure (s : State) (eng : Eng) : Option Status :=
  (s.fab.remotes.filterMap (fun r => if r.eng = eng then
    (match r.answer with | some (.ok, _, _) => none | some (st, _, _) => some st | none => none) else none)).head?
/-- Forget the answered writes of an engine's op or row. -/
def dropAnswered (s : State) (eng : Eng) (row : Nat) : State :=
  { s with fab := { s.fab with remotes := s.fab.remotes.filter (fun r =>
      !(decide (r.eng = eng) && decide (r.row = row) && r.answer.isSome && decide (r.msg ≠ msgRead))) } }
/-- Forget the answered reads of an engine's op or row. -/
def dropAnsweredReads (s : State) (eng : Eng) (row : Nat) : State :=
  { s with fab := { s.fab with remotes := s.fab.remotes.filter (fun r =>
      !(decide (r.eng = eng) && decide (r.row = row) && r.answer.isSome && decide (r.msg = msgRead))) } }
/-- Forget every answered request of an engine. -/
def dropEng (s : State) (eng : Eng) : State :=
  { s with fab := { s.fab with remotes := s.fab.remotes.filter (fun r => !(decide (r.eng = eng) && r.answer.isSome)) } }

/-! ### What a request's end leaves behind -/

/-- Requests issued or received under a map epoch and not completed (R333): the old in-flight count. -/
def epochCount (s : State) (e : Nat) : Nat :=
  let msgs := s.fab.eyes.flatMap (fun y => y.rxMsgs.filter (fun m =>
    let w0 := wd (leNat (m.bytes.take 8))
    decide (fld w0 63 60 < 8) && decide (fld w0 59 57 = e)))
  ((outstanding s).filter (fun r => r.epoch = e)).length + msgs.length
    + (s.fab.picots.filter (fun p => p.sender.isSome && decide (p.epoch = e))).length

/-- The node shows DRAINED once the draining epoch's count is zero (R333). -/
def epochCheck (s : State) : State :=
  match bankIn s .draining with
  | some i =>
    if !s.fab.drained && decide (epochCount s (bank s i).epoch = 0) then { s with fab := { s.fab with drained := true } }
    else s
  | none => s

/-- Picot writes behind a request that could not land fail with its status (R275). -/
def failPicots (s : State) (id : Nat) (st : Status) : State :=
  let mark := fun p : Picot => if p.after.contains id ∧ p.failed.isNone then { p with failed := some st } else p
  { s with fab := { s.fab with picots := s.fab.picots.map mark } }

/-! ### Host memory (R286, R355, R615) -/

/-- Port and bus address of a host-aperture local address (R286). -/
def hostAddr (s : State) (a : Nat) : Nat × Nat :=
  if a < 0x80000000000 then (0, (a - 0xD000000000 + regN s 0x700006 0) % 2 ^ 64)
  else (1, (a - 0x80000000000 + regN s 0x700008 0) % 2 ^ 64)

/-- Is host memory reachable: the port of the aperture is trained? -/
def hostUp (s : State) (a : Nat) : Bool := (port s (hostAddr s a).1).trained

/-- The entry whose work an engine does. -/
def workOf (s : State) (eng : Eng) : Option (Nat × Nat) :=
  match eng with
  | .lan l | .core l _ | .dma l => (lantern s l).cur.map (fun r => (r.ref.queue, r.ref.entry))
  | .mover q i => (tget s.movers (16 * q + i)).map (fun j => (j.queue, j.entry))
  | .coll q i => (tget s.colls (2 * q + i)).map (fun j => (j.queue, j.entry))
  | _ => none
/-- An entry's work has written host memory over a port: a confirming read is due before its record (R390). -/
def markWrote (s : State) (eng : Eng) (p : Nat) : State :=
  match workOf s eng with
  | some (q, e) =>
    modQueue s q (fun x => { x with flights := x.flights.map (fun f =>
      if f.entry = e ∧ f.wrote.contains p = false then { f with wrote := f.wrote ++ [p] } else f) })
  | none => s

/-- Tags of a port's non-posted requests by its speed (R355). -/
def hostTags (s : State) (p : Nat) : Nat := if (port s p).speed = 3 ∧ (port s p).flit then 4096 else 768
/-- Are a port's tags all in use? The confirming reads that no answer has come to hold theirs; every other read is over in one step
(log 5). -/
def tagsFull (s : State) (p : Nat) : Bool := decide (hostTags s p ≤ (s.fab.confirms.filter (fun c => decide (c.2 = p))).length)
/-- A requester stalls at the host interface for want of a tag, and the stall is counted (R355, R431). -/
def tagStall (s : State) (p : Nat) : State := addCell (countP s p 2 1) 0x810008 6 0 1
/-- The host interface issues a confirming read over a port, or holds it there for a tag (R355, R390). -/
def issueConfirm (s : State) (p : Nat) (c : Confirm) : State :=
  let s := if tagsFull s p then tagStall s p else s
  { s with fab := { s.fab with confirms := s.fab.confirms ++ [(c, p)] } }

/-- A posted write of host memory by this node (R274, R301: acknowledged when the host interface accepts it). -/
def writeHost (s : State) (who : Who) (a : Nat) (bs : List Byte) (poison : Bool) : State :=
  let p := hostAddr s a
  let s := markWrote s who.eng p.1
  hostPut (portArriveAs (countP s p.1 0 bs.length) p.1 0 who.hoop who.flow bs.length) p.1 p.2 bs poison

/-- A read of host memory (log 5). -/
def readHost (s : State) (who : Who) (a n : Nat) : Data × State :=
  let p := hostAddr s a
  let r := hostGet n (hostKey p.1 p.2) s
  ({ bytes := r.1, poison := hostBad s (hostKey p.1 p.2) n }, portArriveAs (countP r.2 p.1 1 n) p.1 1 who.hoop who.flow n)

/-- Does a host-aperture local address exist (R282)? -/
def hostExists (s : State) (a n : Nat) : Bool :=
  match region s a, region s (a + n - 1) with
  | some .host0, some .host0 | some .host1, some .host1 => true
  | _, _ => false

end Sys2Proof.Machine
end

