-- ==== Sys2Proof/Machine/Fences.lean ====
section
/-! DEFINITION. Fences (R403 to R411, R613): who may use one, waits, signals and the release of waiters; and how a strand
ends early (R149, R186), which an error-signal can bring about. -/

namespace Sys2Proof.Machine

/-! ### A strand that ends early -/

/-- Drop the registered waits of a lantern, its cores and its DMA engine. -/
def dropWaits (s : State) (l : Nat) : State :=
  let mine := fun w : Wait => match w.who with
    | .lan l' => decide (l' = l)
    | .core l' _ => decide (l' = l)
    | .dma l' _ _ => decide (l' = l)
    | _ => false
  { s with waits := s.waits.filter (fun w => !mine w) }

/-- Stop a lantern's strand: no later op starts, a WAIT is abandoned, the other ops in progress run on; every core stops,
DMA ops not started are discarded (R149, R186). -/
def stopLantern (s : State) (l : Nat) (st : Status) : State :=
  let s := dropWaits s l
  modLantern s l (fun x =>
    let cur := x.cur.map (fun r => { r with
      busy := (if r.waiting then r.busy.filter (fun i => some i ≠ r.waitOp) else r.busy),
      waitOp := if r.waiting then none else r.waitOp, waiting := false,
      status := statusMax r.status st, ended := true })
    { x with cur := cur
             dma := x.dma.filter (fun d => d.running && !d.waiting)
             cores := x.cores.map (fun c => if c.on then { c with ended := true, stall := .none } else c) })

/-- The lanterns that run a strand of a stitch. -/
def stitchLanterns (s : State) (q e : Nat) : List Nat :=
  (s.lan.filter (fun p => match p.2.cur with
    | some r => decide (r.ref.queue = q) && decide (r.ref.entry = e)
    | none => false)).map (fun p => p.1)

/-- Change the flight of an entry. -/
def modFlight (s : State) (q e : Nat) (f : Flight → Flight) : State :=
  modQueue s q (fun x => { x with flights := x.flights.map (fun y => if y.entry = e then f y else y) })
/-- The flight of an entry. -/
def flight (s : State) (q e : Nat) : Option Flight := (queue s q).flights.find? (fun f => f.entry = e)

/-- Take a stitch's strands out of every run list and every saved image: none of them starts any more, or goes on. -/
def unlistStitch (s : State) (q e : Nat) : State :=
  let lan := s.lan.map (fun p => (p.1, { p.2 with
    runList := p.2.runList.filter (fun r => !(decide (r.queue = q) && decide (r.entry = e))),
    prefetch := match p.2.prefetch with
      | some (r, d) => if r.queue = q ∧ r.entry = e then none else some (r, d)
      | none => none }))
  let here := fun v : Saved => decide (v.running.ref.queue = q) && decide (v.running.ref.entry = e)
  let ctxs := s.ctxs.map (fun p => (p.1, { p.2 with saved := p.2.saved.filter (fun v => !here v) }))
  let gone := (s.ctxs.flatMap (fun p => p.2.saved.filter here)).map (fun v => v.running.ref.idx)
  let s := { s with lan := lan, ctxs := ctxs }
  let over_ := fun p : Strand × Nat => if p.1.started && !gone.contains p.2 then p.1 else { p.1 with finished := true }
  modFlight s q e (fun f => { f with
    phase := .stopping,
    stitch := f.stitch.map (fun t => { t with strands := t.strands.zipIdx.map over_ }) })

/-- Stop every strand of a stitch, none contributing a status of its own (R149). -/
def stopStitch (s : State) (q e : Nat) : State :=
  (stitchLanterns s q e).foldl (fun s l => stopLantern s l .ok) (unlistStitch s q e)

/-- A strand ends with a status: its lantern stops at once, an op it has done in part included; the scheduler stops the rest of its
stitch, and of the other strands each finishes the op it is running (R148, R149). -/
def endStrand (s : State) (l : Nat) (st : Status) : State :=
  match (lantern s l).cur with
  | none => s
  | some r =>
    let s := modLantern (stopLantern s l st) l (fun x => { x with cur := x.cur.map (fun r => { r with row := 0, begun := false, pois := false, bad := [] }) })
    stopStitch s r.ref.queue r.ref.entry

/-! ### Use and waiting -/

/-- May a context wait on the fence or signal it (R410)? -/
def fenceMay (s : State) (f ctx : Nat) : Bool :=
  let x := fence s f
  x.valid && (match x.use with
    | 0 => decide (x.owner = ctx)
    | 1 => decide (x.hoop = (context s ctx).hoop)
    | 2 => true
    | _ => false)

/-- The value that an error-signal leaves (R406). -/
def allOnes : Nat := 0xFFFFFFFFFFFFFFFF

/-- Is a wait satisfied (R407, R408)? -/
def waitMet (value : Nat) (w : Nat) (qf2 : Bool) : Bool :=
  if qf2 then decide ((value % 2 ^ 32 + 2 ^ 32 - w % 2 ^ 32) % 2 ^ 32 < 2 ^ 31) else decide (w ≤ value)

/-! ### Entries at the front of their queues (R379) -/

/-- Opcode of an entry's first word. -/
def entryOp (ws : List Word) : Nat := fld (wordAt ws 0) 63 56
/-- Has every admitted entry of a queue completed? -/
def queueQuiet (x : Queue) : Bool := x.flights.all (fun f => decide (f.phase = .done) || decide (f.phase = .recorded))
/-- Is a queue's format QF2? -/
def isQf2 (x : Queue) : Bool := !bit (wordAt x.row 0) 55
/-- SIG_EN. -/
def entSignals (ws : List Word) : Bool := bit (wordAt ws 0) 50
/-- SIG_FENCE. -/
def entSigFence (ws : List Word) : Nat := fld (wordAt ws 4) 13 0
/-- Records of the completion ring. -/
def cqSize (x : Queue) : Nat := 2 ^ fld (wordAt x.row 0) 33 29
/-- Difference mod 2^32. -/
def sub32 (a b : Nat) : Nat := (a + 2 ^ 32 - b % 2 ^ 32) % 2 ^ 32
/-- Word `i` of an entry. -/
def ent (ws : List Word) (i : Nat) : Nat := (wordAt ws i).toNat
/-- WAIT_EN. -/
def entWaits (ws : List Word) : Bool := bit (wordAt ws 0) 54
/-- WAIT_FENCE. -/
def entWaitFence (ws : List Word) : Nat := fld (wordAt ws 2) 13 0

/-- Is a queue outside every running reset, with the front end at work (R455, R500, R509 to R512)? -/
def queueRuns (s : State) (q : Nat) : Bool :=
  enginesRun s && !hoopResetting s (queueHoop s q)
    && !s.snuffer.resets.any (fun r => r.level = 1 && r.target = queueCtx s q)

/-- Is a stitch entry staged or on its way to it: admitted, with no strand running yet? -/
def isStaged (f : Flight) : Bool :=
  entryOp f.words = 1 && f.phase ≠ .done && f.phase ≠ .recorded
    && (match f.stitch with | some t => t.strands.all (fun d => !d.started) | none => true)
/-- Stitches in flight on the device (R431). -/
def stitchesInFlight (s : State) : Nat :=
  (s.queues.map (fun p => (p.2.flights.filter (fun f => entryOp f.words = 1)).length)).foldl (· + ·) 0

/-- Must a SEAM wait at the front of its queue: a re-bind is pending, the instance is not RUNNING, or a retired lantern must
leave the hoop (R325, R494, R554)? -/
def holdsSeams (s : State) (h : Nat) : Bool :=
  hoopState s h = 2 || decide ((hoop s h).inst ≠ .running)
    || s.lan.any (fun p => p.2.retired && descBinds (hoop s h).desc p.1)

/-- Count a stall of R431. -/
def stall (s : State) (row : Nat) : State := addCell s 0x810008 row 0 1

/-- What holds the entry at the front of a queue back, its wait apart (R150, R378, R379, R402, R431, R510): nothing (none), a bound, by its row
in the table of R431, or another condition. -/
def admitBlock (s : State) (q : Nat) (ws : List Word) : Option (Option Nat) :=
  let x := queue s q
  let h := queueHoop s q
  let op := entryOp ws
  let quiet := queueQuiet x
  let afterSeam := x.flights.any (fun f => entryOp f.words = 2 && decide (f.phase = .admitted))
  let inst := (hoop s h).inst
  if ctxState s (queueCtx s q) ≠ 1 ∨ hoopLive s h = false ∨ inst = .quiesced ∨ inst = .frozen ∨ queueRuns s q = false
      ∨ (hoop s h).joining ≠ [] then some none
  else if (op = 5 ∨ op = 6) ∧ engineResetting s (2 ^ 14 + fld (wordAt ws 0) 7 6 * 2 ^ 8 + 2 ^ 7) = true then some none
  else if (bit (wordAt ws 0) 55 ∨ op = 9 ∨ op = 2) ∧ quiet = false then some none
  else if afterSeam then some none
  else if op = 2 ∧ holdsSeams s h = true then some none
  else if 256 ≤ x.flights.length then some (some 0)
  else if cqSize x < x.flights.length + sub32 x.written x.cqHead + 1 then some none
  else if op = 1 ∧ 2 ≤ (x.flights.filter isStaged).length then some (some 2)
  else if op = 1 ∧ 16384 ≤ stitchesInFlight s then some (some 1)
  else none
/-- May the entry at the front of a queue be admitted, its wait apart? When a bound holds it back the stall is counted. -/
def admissible (s : State) (q : Nat) (ws : List Word) : Bool × State :=
  match admitBlock s q ws with
  | none => (true, s)
  | some none => (false, s)
  | some (some row) => (false, stall s row)
/-- Would the wait of the front entry let it be admitted now, be it to complete with an error (R379, R380, R407, R408, R410, R411)? -/
def gateOpen (s : State) (q : Nat) (ws : List Word) : Bool :=
  let x := queue s q
  let f := fence s (entWaitFence ws)
  !entWaits ws || x.waitDone.isSome || (!x.waiting && (!fenceMay s (entWaitFence ws) (queueCtx s q) || f.alias_ || f.error
    || waitMet f.value (ent ws 3) (isQf2 x)))
/-- Has a queue that is ACTIVE an entry at its front that could be admitted now? -/
def frontAdmissible (s : State) (q : Nat) : Bool :=
  match (queue s q).entries with
  | (_, ws) :: _ => queueState s q = 1 && (admitBlock s q ws).isNone && gateOpen s q ws
  | [] => false

/-! ### Activity (R420, R422) -/

/-- Is a context RESIDENT? -/
def ctxResident (s : State) (c : Nat) : Bool := ctxState s c = 1
/-- The contexts of a hoop that are not FREE. -/
def hoopCtxs (s : State) (h : Nat) : List Nat :=
  (s.ctxs.filter (fun p => decide (p.2.hoop = h) && ctxLive s p.1)).map (fun p => p.1)
/-- Queues of a context. -/
def ctxQueues (s : State) (c : Nat) : List Nat :=
  (s.queues.filter (fun p => decide (queueState s p.1 ≠ 0) && decide (queueCtx s p.1 = c))).map (fun p => p.1)
/-- Queues of a hoop. -/
def hoopQueues (s : State) (h : Nat) : List Nat :=
  (s.queues.filter (fun p => decide (queueState s p.1 ≠ 0) && decide (queueHoop s p.1 = h))).map (fun p => p.1)

/-- Room in a lantern's run list, the running strand included (R418). -/
def runRoom (s : State) (l : Nat) : Bool :=
  let x := lantern s l
  decide (x.runList.length + (if x.cur.isSome then 1 else 0) < 4)
/-- The lanterns a staged stitch names: those of its strands' hoop slots. -/
def stitchNames (s : State) (h : Nat) (t : Stitch) : List (Option Nat) :=
  t.strands.map (fun d => if d.finished then none else hoopLantern s h d.kind d.slot)
/-- May a staged stitch be chosen: every lantern it names has room (R418)? A strand whose slot has no lantern any more
can have none. -/
def mayChoose (s : State) (h : Nat) (f : Flight) : Bool :=
  match f.stitch with
  | none => false
  | some t => decide (f.phase = .staged) && t.strands.all (fun d => match hoopLantern s h d.kind d.slot with
      | some l => runRoom s l && !lanternResetting s l
      | none => false)
/-- The staged stitches of a context that may be chosen, as (queue, entry, admission time). -/
def choosable (s : State) (c : Nat) : List (Nat × Nat × Nat) :=
  let h := (context s c).hoop
  (ctxQueues s c).flatMap (fun q => ((queue s q).flights.filter (mayChoose s h)).map (fun f => (q, f.entry, f.start)))
/-- Is a strand stalled in a fence wait: a WAIT, or for an S strand every started core in XWAIT? -/
def strandStalled (x : Lantern) (r : Running) : Bool :=
  if x.cores.isEmpty then r.waiting
  else x.cores.all (fun c => !c.on || c.ended || (match c.stall with | .fence _ _ _ => true | _ => false))
    && x.cores.any (fun c => c.on && !c.ended)
/-- The lanterns that run a strand of a context. -/
def ctxLanterns (s : State) (c : Nat) : List (Nat × Lantern × Running) :=
  s.lan.filterMap (fun p => match p.2.cur with
    | some r => if r.ctx = c then some (p.1, p.2, r) else none
    | none => none)
/-- Activity of a resident context (R422): 0 IDLE, 1 READY, 2 RUNNING, 3 BLOCKED. Work in flight that holds no lantern
counts as READY (log 24); an entry that was read and may not be admitted does not. -/
def activity (s : State) (c : Nat) : Nat :=
  let mine := ctxLanterns s c
  if mine.any (fun p => !strandStalled p.2.1 p.2.2) then 2
  else if !mine.isEmpty && (choosable s c).isEmpty then 3
  else if !mine.isEmpty || (ctxQueues s c).any (fun q => !(queue s q).flights.isEmpty || frontAdmissible s q) then 1
  else 0

/-- Raise a context's virtual time to the lowest among the other READY and RUNNING contexts of its hoop (R420). -/
def raiseV (s : State) (c : Nat) : State :=
  let h := (context s c).hoop
  let others := ((hoopCtxs s h).filter (fun o => decide (o ≠ c) && ctxResident s o
    && (activity s o = 1 || activity s o = 2))).map (fun o => (context s o).vtime)
  match others with
  | [] => s
  | v :: vs =>
    let low := vs.foldl min v
    modContext s c (fun x => { x with vtime := max x.vtime low })

/-- Show a context's activity in CONTEXT_STATUS, noting when it became BLOCKED or IDLE, and raising V when it turns READY
from IDLE (R420, R422). -/
def showActivity (s : State) (c : Nat) : State :=
  if !ctxResident s c then s
  else
    let old := fld (cell s 0x800003 c 0) 59 56
    let new := activity s c
    if old = new then s
    else
      let s := if old = 0 ∧ new = 1 then raiseV s c else s
      let s := modContext s c (fun x => { x with since := wick s })
      setRegFld s 0x800003 c 59 56 new
/-- Show the activity of every context of a hoop. -/
def showHoop (s : State) (h : Nat) : State := (hoopCtxs s h).foldl showActivity s

/-! ### The release of waiters -/

/-- Change an S core. -/
def modCore (s : State) (l c : Nat) (f : Core → Core) : State :=
  modLantern s l (fun x => { x with cores := match x.cores[c]? with
    | some k => x.cores.set c (f k)
    | none => x.cores })
/-- An S core that is not started. -/
def coreOff : Core :=
  { on := false, ended := false, pc := 0, x := List.replicate 32 0, f := List.replicate 32 0, v := List.replicate 32 0,
    fcsr := 0, vl := 0, vtype := 0x8000000000000000, vstart := 0, vcsr := 0, cycle := 0, instret := 0, l1 := [], il1 := [], tickets := 0,
    poisoned := [], stall := .none, status := .ok }
/-- An S core. -/
def core (s : State) (l c : Nat) : Core := (lantern s l).cores.getD c coreOff

/-- Count a retired instruction (0x03 of R561), under the context and class of the lantern's strand. -/
def countRetired (s : State) (l : Nat) : State :=
  match (lantern s l).cur with
  | none => s
  | some r =>
    let cls := ((flight s r.ref.queue r.ref.entry).bind (fun f => f.stitch)).map (fun t => t.floss)
    selCount s (some (lanQuarter l)) 0x03 1 (some (context s r.ctx).hoop) cls (some r.ctx)

/-- An op of a lantern's strand has completed, or one of its cores has retired an instruction (R505, R520). -/
def progressed (s : State) (l : Nat) : State :=
  modLantern s l (fun x => { x with opDone := wick s, cur := x.cur.map (fun r => { r with opAt := wick s }) })
/-- Retire an instruction of `len` bytes: its effect on the core's registers, then the pc. -/
def retire (s : State) (l c len : Nat) (f : Core → Core) : State :=
  let s := modCore s l c (fun k =>
    let k := f k
    { k with pc := k.pc + wd len, instret := k.instret + 1, stall := .none })
  countRetired (progressed (modLantern s l (fun x => { x with run := min x.run 1 })) l) l

/-- x[rd] := v; x0 stays 0. -/
def setX (rd : Nat) (v : Word) (k : Core) : Core := { k with x := if rd = 0 then k.x else k.x.set rd v }

/-- Write x[rd] of a core and step its pc past a 32-bit instruction. -/
def coreRet (s : State) (l c rd : Nat) (v : Word) : State := retire s l c 4 (setX rd v)

/-- Release a registered waiter; `err` when the fence carries ERROR (R406, R407). -/
def releaseWaiter (s : State) (w : Wait) (err : Bool) : State :=
  match w.who with
  | .lan l =>
    let s := modLantern s l (fun x => { x with cur := x.cur.map (fun r => { r with waiting := false }) })
    if err then endStrand s l .fenceError else s
  | .core l c =>
    match (core s l c).stall with
    | .fence _ rd tryFlag =>
      if err && !tryFlag then endStrand s l .fenceError else coreRet s l c rd (if err then 1 else 0)
    | _ => s
  | .dma l core ticket =>
    let s := modLantern s l (fun x => { x with
      dma := x.dma.map (fun d => if d.core = core ∧ d.ticket = ticket then { d with waiting := false } else d) })
    if err then endStrand s l .fenceError else s
  | .entry q _ => modQueue s q (fun x => { x with waiting := false, waitDone := some err })
  | .slot _ => s

/-- The context of a waiter. -/
def waitCtx (s : State) (w : Wait) : Option Nat :=
  match w.who with
  | .lan l | .core l _ | .dma l _ _ => (lantern s l).cur.map (fun r => r.ctx)
  | .entry q _ => some (queueCtx s q)
  | .slot _ => none
/-- Release every waiter that the fence's present value satisfies, in the order they registered; a context's activity is shown as its
waits end (R407, R409, R422). -/
def releaseMet (s : State) (f : Nat) : State :=
  let x := fence s f
  let met := fun w : Wait => decide (w.fence = f) && (x.error || waitMet x.value w.value w.qf2)
  let due := s.waits.filter met
  due.foldl (fun s w =>
    let s' := releaseWaiter s w x.error
    match waitCtx s w with
    | some c => showActivity s' c
    | none => s') { s with waits := s.waits.filter (fun w => !met w) }

/-- Register a wait. -/
def addWait (s : State) (w : Wait) : State :=
  if s.waits.contains w then s else { s with waits := s.waits ++ [w] }

/-! ### Signals -/

/-- Discard a signal at a fence (R405). -/
def discardSignal (s : State) (f : Nat) : State :=
  let x := fence s f
  setFence s f { x with discards := x.discards + 1 }

/-- An error-signal reaches the fence unit (R406). -/
def errorSignal (s : State) (f : Nat) : State :=
  let x := fence s f
  releaseMet (setFence s f { x with value := allOnes, error := true }) f

/-- A signal reaches the fence unit of this node: discarded, an error-signal, or a new value (R405, R406, R408). A QF2
value advances the 64-bit value. -/
def signalLocal (s : State) (f v : Nat) (err qf2 : Bool) : State :=
  let x := fence s f
  let s := selCount s none 0x22 1 (some x.hoop) none none
  if x.error then discardSignal s f
  else if err then errorSignal s f
  else if qf2 then
    let d := (v % 2 ^ 32 + 2 ^ 32 - x.value % 2 ^ 32) % 2 ^ 32
    if d = 0 then s
    else if 2 ^ 31 ≤ d then discardSignal s f
    else releaseMet (setFence s f { x with value := (x.value + d) % 2 ^ 64 }) f
  else if v = allOnes then errorSignal s f
  else if v < x.value then discardSignal s f
  else releaseMet (setFence s f { x with value := v }) f

/-- Forward a signal of an alias fence as an ELP FENCE message (R411). -/
def aliasSignal (s : State) (who : Who) (h f v : Nat) (err : Bool) (row : Nat) : Out Unit :=
  let x := fence s f
  sendRemote s who h 0 65536 msgFence x.aliasNode x.aliasFence 8 row (if err then 2 else 0)
    { bytes := leBytes 8 v, poison := false }

/-- A signal that a context's engine makes to a fence it may use: done at once on this node, or forwarded; `row` names
the op the ACK completes. -/
def engineSignal (s : State) (who : Who) (h f v : Nat) (err : Bool) (row : Nat) : Out Unit :=
  if (fence s f).alias_ then aliasSignal s who h f v err row
  else .ok () (signalLocal s f v err false)

/-- Count a signal discarded under R613. -/
def signalDropped (s : State) : State := countHub s 5 1

/-- The front end sends an alias signal, or keeps it until it can; a path that fails is counted (R411). -/
def feAlias (s : State) (f v : Nat) (err : Bool) : State :=
  let x := fence s f
  let who : Who := { eng := .fe, hoop := some x.hoop, ctx := none, flow := houseFlow s x.hoop }
  match aliasSignal s who x.hoop f v err 0 with
  | .ok _ s => s
  | .wait s => { s with fab := { s.fab with aliases := s.fab.aliases ++ [(f, v, err)] } }
  | .fail _ s => countHub s 6 1

/-- Send again the alias signals that could not go. -/
def retryAliases (s : State) : State :=
  s.fab.aliases.foldl (fun s p => feAlias s p.1 p.2.1 p.2.2) { s with fab := { s.fab with aliases := [] } }

/-- A signal that no context makes: named by a command, a doorbell or a memory object (R613). `via` is the requester that
named it. -/
def commandSignal (s : State) (f v : Nat) (err : Bool) (via : Option Req) : State :=
  let x := fence s f
  let foreign := match via with
    | some (.vf n) => decide (vfHoop s n ≠ some x.hoop)
    | _ => false
  if !x.valid || foreign then signalDropped s
  else if x.alias_ then feAlias s f v err
  else signalLocal s f v err false

/-- The signal of a FENCE that QUEUE_COMMAND, CONTEXT_COMMAND or RESET_REQUEST names: no rule gives its value, so it is a
free one (R369, R400, R507, R613). -/
def namedSignal (s : State) (f : Nat) (via : Option Req) : State :=
  let v := takeFree s
  commandSignal v.2 f v.1.toNat false via

/-- The signal of a queue entry's SIG_FENCE, sent after its record (R389, R408, R411, R613). -/
def entrySignal (s : State) (f v : Nat) (err qf2 : Bool) : State :=
  let x := fence s f
  if !x.valid then signalDropped s
  else if x.alias_ then feAlias s f v err
  else signalLocal s f v err qf2

end Sys2Proof.Machine
end

