-- ==== Sys2Proof/Machine/Translation.lean ====
section
/-! DEFINITION. Address translation (R280 to R312, R612): range entries and lookasides, walks and parked accesses, the
fault ring, and the accesses of engines to virtual addresses. -/

namespace Sys2Proof.Machine

/-- An engine's identity in an access: its hoop, context, address space and flow, and the op or row it works on. -/
structure Acc where
  eng : Eng
  hoop : Nat
  ctx : Nat
  aspace : Nat
  flow : Nat
  row : Nat
  deriving DecidableEq, Repr

/-- The access's identity at a local memory. -/
def Acc.who (a : Acc) : Who := { eng := a.eng, hoop := some a.hoop, ctx := some a.ctx, flow := some a.flow }

/-- The identity of an access of a context, of a floss class. -/
def accOf (s : State) (eng : Eng) (ctx cls row : Nat) : Acc :=
  let c := context s ctx
  { eng := eng, hoop := c.hoop, ctx := ctx, aspace := c.aspace, flow := c.hoop * 8 + cls % 8, row := row }

/-! ### Range entries (R287, R291) -/

/-- First row and count of a hoop's range block; none for a FREE hoop (R287, RANGE_BLOCKS). -/
def rangeBlock (s : State) (h : Nat) : Nat × Nat :=
  if hoopState s h = 0 then (0, 0)
  else (fld (hoopWord s h 0) 47 32, 64 * (fld (hoopWord s h 0) 31 26 + 1))
/-- Does a hoop's block hold a row? -/
def inBlock (s : State) (h row : Nat) : Bool :=
  let b := rangeBlock s h
  decide (b.1 ≤ row) && decide (row < b.1 + b.2)
/-- The ACTIVE hoop whose block holds a row (R289). A hoop with a pending re-bind is still bound. -/
def rowHoop (s : State) (row : Nat) : Option Nat :=
  (List.range 64).find? (fun h => hoopLive s h && inBlock s h row)

/-- First address of an entry. -/
def entStart (ws : List Word) : Nat := fld (wordAt ws 1) 56 12 * 4096
/-- Bytes of an entry. -/
def entLen (ws : List Word) : Nat := (fld (wordAt ws 2) 31 0 + 1) * 4096
/-- Fabric physical address of an entry's first byte. -/
def entTarget (ws : List Word) : Nat := fld (wordAt ws 3) 51 12 * 4096
/-- Local address of an entry's page-state table. -/
def entPst (ws : List Word) : Nat := fld (wordAt ws 4) 43 3 * 8
/-- Address space of an entry. -/
def entAspace (ws : List Word) : Nat := fld (wordAt ws 0) 57 48
/-- Is the entry migratable? -/
def entMigratable (ws : List Word) : Bool := bit (wordAt ws 0) 59
/-- Does an entry grant an access: 0 read, 1 write, 2 atomic, 3 instruction fetch (R290)? -/
def entRight (ws : List Word) (kind : Nat) : Bool :=
  match kind with
  | 1 => bit (wordAt ws 0) 61
  | 2 => bit (wordAt ws 0) 60
  | _ => bit (wordAt ws 0) 62

/-- The entry that an address matches, with its row (R291). -/
def findEntry (s : State) (h aspace va : Nat) : Option (Nat × List Word) :=
  s.rng.rows.find? (fun p => inBlock s h p.1 && bit (wordAt p.2 0) 63 && decide (entAspace p.2 = aspace)
    && decide (entStart p.2 ≤ va) && decide (va < entStart p.2 + entLen p.2))

/-! ### Lookasides (R292) -/

/-- The lookaside that serves an engine: a lantern's, 1024 + quarter, 1028 for the front end. -/
def lookasideOf (e : Eng) : Nat :=
  match e with
  | .lan l | .core l _ | .dma l => l
  | .mover q _ | .coll q _ => 1024 + q
  | .cse slot => 1024 + slot / 64
  | .fe | .host _ => 1028
/-- Entries of a lookaside. -/
def lookasideSize (lk : Nat) : Nat := if lk < 1024 then 64 else 256

/-- Drop the lookaside entries that satisfy `p`. -/
def dropLook (s : State) (p : LookEntry → Bool) : State :=
  { s with rng := { s.rng with look := s.rng.look.filter (fun e => !p e) } }

/-- Enter a translation. A full lookaside replaces an entry that the spec does not name (R292): a free value chooses. -/
def fillLook (s : State) (e : LookEntry) : State :=
  let mine := s.rng.look.filter (fun x => x.lk = e.lk)
  if mine.length < lookasideSize e.lk then { s with rng := { s.rng with look := s.rng.look ++ [e] } }
  else
    let p := takeFree s
    let victim := mine[p.1.toNat % mine.length]?
    let look := dropFirst (fun x => some x == victim) s.rng.look
    { p.2 with rng := { s.rng with look := look ++ [e] } }

/-! ### The fault ring (R307 to R310) -/

/-- ENABLE of a hoop's fault ring. -/
def frEnabled (s : State) (h : Nat) : Bool := bit (cell s 0x710001 h 1) 8
/-- Records of the ring. -/
def frSize (s : State) (h : Nat) : Nat := 2 ^ fld (cell s 0x710001 h 1) 4 0
/-- Records written and not consumed, mod 2^32. -/
def frUsed (s : State) (h : Nat) : Nat := (regN s 0x710003 h + 2 ^ 32 - regN s 0x710002 h % 2 ^ 32) % 2 ^ 32
/-- Is a ring held in ERROR? -/
def frError (s : State) (h : Nat) : Bool := decide (regN s 0x710004 h = 2)
/-- May no record be written now: full, disabled or in ERROR (R309, R310, R313)? -/
def frBlocked (s : State) (h : Nat) : Bool := !frEnabled s h || frError s h || decide (frSize s h ≤ frUsed s h)
/-- FR_STATE brought up to date. -/
def frShow (s : State) (h : Nat) : State :=
  if frError s h then s
  else setReg s 0x710004 h (if !frEnabled s h then 3 else if frSize s h ≤ frUsed s h then 1 else 0)

/-- SOURCE code of an engine (R307). -/
def engCode (e : Eng) : Nat :=
  match e with
  | .lan l => l % 1024
  | .core l c => c % 8 * 2 ^ 11 + l % 1024
  | .dma l => 2 ^ 10 + l % 1024
  | .mover q i => 2 ^ 14 + q % 4 * 2 ^ 8 + i % 64
  | .coll q i => 2 ^ 14 + q % 4 * 2 ^ 8 + 1 * 2 ^ 6 + i % 64
  | .cse slot => 2 ^ 14 + slot / 64 % 4 * 2 ^ 8 + 2 * 2 ^ 6 + slot % 64
  | .fe | .host _ => 0

/-- Write one fault record: W1 to W3, then W0 (R308). The write goes out as device traffic. -/
def frWrite (s : State) (h : Nat) (w0 : Nat) (va entry count time : Nat) : State :=
  let tail := regN s 0x710003 h
  let size := frSize s h
  let base := (cell s 0x710001 h 0).toNat + 32 * (tail % size)
  let phase := (tail / size + 1) % 2
  let who : Who := { eng := .fe, hoop := some h, ctx := none, flow := houseFlow s h }
  let rest := wordBytes [wd va, wd (entry % 65536 * 2 ^ 48 + count % 65536 * 2 ^ 32 + tail % 2 ^ 32), wd time]
  let s := writeHost s who (base + 8) rest false
  let s := issueConfirm (writeHost s who base (leBytes 8 (w0 + phase * 2 ^ 59)) false) (hostAddr s base).1 (.faults h)
  frShow (setReg s 0x710003 h ((tail + 1) % 2 ^ 32)) h

/-! ### Walks and parked accesses (R293, R306, R612) -/

/-- Replay entries a lookaside's engines share, and how many are used (R306). -/
def replaySize (lk : Nat) : Nat := if lk < 1024 then 16 else 64
/-- Is the translation parked? -/
def xParked (x : XReq) : Bool := match x.phase with | .parked _ | .again _ => true | _ => false
/-- Replay entries in use. -/
def replayUsed (s : State) (lk : Nat) : Nat :=
  (s.rng.xreqs.filter (fun x => lookasideOf x.eng = lk && xParked x)).length
/-- Is the translation walking? -/
def xWalking (x : XReq) : Bool := match x.phase with | .walking _ => true | _ => false
/-- Does a replayed translation of a lookaside wait for its turn to walk? -/
def xAgain (lk : Nat) (x : XReq) : Bool := decide (lookasideOf x.eng = lk) && (match x.phase with | .again _ => true | _ => false)
/-- Walks of a lookaside in progress. -/
def walksOf (s : State) (lk : Nat) : Nat :=
  (s.rng.xreqs.filter (fun x => lookasideOf x.eng = lk && xWalking x)).length

/-- Granule on which a translation in progress holds later accesses of its engine: 64 KiB for NONRES and HELD, else
4 KiB (R306). -/
def xGranule (x : XReq) : Nat :=
  match x.phase with
  | .parked 2 | .parked 0 | .again 2 | .again 0 => 65536
  | _ => 4096

/-- Does an access of an engine wait behind this translation? -/
def xCovers (x : XReq) (a : Acc) (va : Nat) : Bool :=
  decide (x.eng = a.eng) && decide (x.hoop = a.hoop) && decide (x.aspace = a.aspace)
    && decide (x.va / xGranule x = va / xGranule x)

/-- A right is missing: count it (R290). -/
def rightsEvent (s : State) (h : Nat) : State := bump s 0x700009 h

/-- The place at a fabric physical address. -/
def placeOf (s : State) (fpa : Nat) : Place :=
  if fpa / 2 ^ 44 = ownNode s then .loc (fpa % 2 ^ 44) else .peer (fpa / 2 ^ 44) (fpa % 2 ^ 44)

/-- The lookaside entry that translates an address. -/
def lookHit (s : State) (a : Acc) (va : Nat) : Option LookEntry :=
  s.rng.look.find? (fun e => decide (e.lk = lookasideOf a.eng) && decide (e.hoop = a.hoop)
    && decide (e.aspace = a.aspace) && decide (e.start ≤ va) && decide (va < e.start + e.len))

/-- Translate one address (R280, R281, R290 to R293, R306). The answer is the place, the entry's row and the page to
count, or a wait, or a failure. -/
def translate (s : State) (a : Acc) (va0 kind : Nat) : Out (Place × Nat × Option Nat) :=
  let va := va0 % 2 ^ 57
  match s.rng.xreqs.find? (fun x => xCovers x a va) with
  | some x =>
    match x.phase with
    | .failed st => .fail st { s with rng := { s.rng with xreqs := dropFirst (fun y => y == x) s.rng.xreqs } }
    | _ => .wait s
  | none =>
    match lookHit s a va with
    | some e =>
      let ok := match kind with | 1 => e.wr | 2 => e.atomic | _ => e.rd
      if ok then .ok (placeOf s (e.target + (va - e.start)), e.row, e.countAt) s
      else .fail .rights (rightsEvent s a.hoop)
    | none =>
      let lk := lookasideOf a.eng
      if 8 ≤ walksOf s lk || s.rng.xreqs.any (xAgain lk) then .wait s
      else
        let x : XReq := { eng := a.eng, hoop := a.hoop, aspace := a.aspace, ctx := a.ctx, va := va, kind := kind, row := a.row,
                          repeated := false, phase := .walking false }
        let s := if lk < 1024 then selCount s (some (lanQuarter lk)) 0x07 1 (some a.hoop) (some (a.flow % 8)) (some a.ctx)
          else s
        let s := selCount s none 0x24 1 (some a.hoop) none (some a.ctx)
        .wait { s with rng := { s.rng with xreqs := s.rng.xreqs ++ [x] } }

/-! ### Accesses to virtual addresses -/

/-- One piece of an access: virtual address, length, place, range row, page to count. -/
structure Piece where
  va : Nat
  len : Nat
  place : Place
  entry : Nat
  page : Option Nat
  deriving DecidableEq, Repr

/-- Translate the pieces of an access, each inside an aligned 512-byte block; a piece that must wait does not keep the
later ones from starting their walks. -/
def translateAll (s : State) (a : Acc) (kind : Nat) : List (Nat × Nat) → Out (List Piece)
  | [] => .ok [] s
  | (va, len) :: rest =>
    match translate s a va kind with
    | .fail st s => .fail st s
    | .wait s => .wait (translateAll s a kind rest).state
    | .ok t s =>
      (translateAll s a kind rest).andThen (fun ps s =>
        .ok ({ va := va % 2 ^ 57, len := len, place := t.1, entry := t.2.1, page := t.2.2 } :: ps) s)

/-- Count the bytes moved to or from a HOST page (R297). -/
def countPage (s : State) (page : Option Nat) (n : Nat) : State :=
  match page with
  | some k => { s with rng := { s.rng with counts := tput s.rng.counts k ((tget s.rng.counts k).getD 0 + n) } }
  | none => s

/-- Is a local address in the scratchpad window of the engine's own lantern? -/
def ownWindow (s : State) (eng : Eng) (l : Nat) : Bool :=
  match eng, region s l with
  | .lan x, some .scratch | .core x _, some .scratch | .dma x, some .scratch => decide ((l - 0xC800000000) / 0x200000 = x)
  | _, _ => false

/-- Checks and waits of the pieces on this node. -/
def piecesReady (s : State) (a : Acc) (write own : Bool) : List Piece → Out Unit
  | [] => .ok () s
  | p :: rest =>
    let here := match p.place with
      | .peer _ _ => Out.ok () s
      | .loc l =>
        match region s l with
        | some .host0 | some .host1 =>
          if !hostExists s l p.len then .fail .rights s
          else if !write && !hostUp s l then .fail .rights (countP s (hostAddr s l).1 7 1)
          else if rowHeld s a.eng p.place p.len then .wait s
          else if !write && tagsFull s (hostAddr s l).1 then .wait (tagStall s (hostAddr s l).1)
          else .ok () s
        | _ =>
          localReady s a.who l p.len write (own || ownWindow s a.eng l)
    here.andThen (fun _ s => piecesReady s a write own rest)

/-- Reads of other nodes that are not answered yet are sent; whether all have come. -/
def remoteReads (s : State) (a : Acc) : List Piece → Out Bool
  | [] => .ok true s
  | p :: rest =>
    match p.place with
    | .loc _ => remoteReads s a rest
    | .peer n x =>
      match findRemote s a.eng msgRead n x p.len a.row with
      | some r =>
        match r.answer with
        | some (.ok, _, _) => remoteReads s a rest
        | some (st, _, _) => .fail st (dropEng s a.eng)
        | none => (remoteReads s a rest).andThen (fun _ s => .ok false s)
      | none =>
        if rowHeld s a.eng p.place p.len then (remoteReads s a rest).andThen (fun _ s => .ok false s)
        else match sendRemote s a.who a.hoop a.aspace p.entry msgRead n x p.len a.row 0 { bytes := [], poison := false } with
        | .fail st s => .fail st s
        | .wait s | .ok _ s => (remoteReads s a rest).andThen (fun _ s => .ok false s)

/-- Take the data of one piece. The front end keeps what it has read until the entry's reads are over. -/
def takePiece (s : State) (a : Acc) (kind : Nat) (p : Piece) : Data × State :=
  match p.place with
  | .peer n x =>
    match findRemote s a.eng msgRead n x p.len a.row with
    | some r =>
      match r.answer with
      | some (_, bs, poison) =>
        let s := if a.eng = .fe then s else dropRemote s r.id
        let x := some (r.eye / 2)
        let y := engQuarter a.eng
        (onWay s x y { bytes := bs, poison := poison }, crossTo s a.who x y p.len)
      | none => ({ bytes := [], poison := false }, s)
    | none => ({ bytes := [], poison := false }, s)
  | .loc l =>
    if l < 0xD000000000 then
      let r := readRun s a.who l p.len kind
      let x := some (addrQuarter l)
      let y := engQuarter a.eng
      (onWay r.2 x y r.1, crossTo r.2 a.who x y p.len)
    else
      let r := readHost s a.who l p.len
      let y := engQuarter a.eng
      (onWay r.2 none y r.1, countPage (crossTo r.2 a.who none y p.len) p.page p.len)

/-- An engine reads `n` bytes at a virtual address. A poisoned page-state word delivers poisoned data (R612). -/
def readVa (s : State) (a : Acc) (va n kind : Nat) : Out Data :=
  match translateAll s a kind (cut 512 va n) with
  | .fail .poison s => .ok { bytes := List.replicate n 0, poison := true } s
  | .fail st s => .fail st s
  | .wait s => .wait s
  | .ok ps s =>
    (piecesReady s a false false ps).andThen (fun _ s =>
      (remoteReads s a ps).andThen (fun done s =>
        if done then
          let r := ps.foldl (fun (acc : Data × State) p =>
            let t := takePiece acc.2 a kind p
            ({ bytes := acc.1.bytes ++ t.1.bytes, poison := acc.1.poison || t.1.poison }, t.2))
            ({ bytes := [], poison := false }, s)
          .ok r.1 r.2
        else .wait s))

/-- Can every piece that goes to another node be sent now? -/
def remoteWritesReady (s : State) (a : Acc) : List Piece → Out Unit
  | [] => .ok () s
  | p :: rest =>
    match p.place with
    | .loc _ => remoteWritesReady s a rest
    | .peer n x =>
      match candidates s a.hoop n with
      | .error st => .fail st s
      | .ok cands =>
        let e := pickEye cands a.eng x
        let tags := ((outstanding s).filter (fun r => r.eye = e)).length
        if rowHeld s a.eng p.place p.len || (outstanding s).any (fun r => decide (r.node = n) && decide (r.hoop = a.hoop) && decide (r.cands ≠ cands)) then
          .wait s
        else if 4096 < tags + rest.length + 1 then .wait (addCell (countE s e 7 1) 0x810008 5 0 1)
        else if memTagsFull s a.eng (rest.length + 1) then .wait (addCell s 0x810008 4 0 1)
        else remoteWritesReady s a rest

/-- Write the pieces, in order. -/
def putPieces (s : State) (a : Acc) (d : Data) (at_ : Nat) : List Piece → State
  | [] => s
  | p :: rest =>
    let part : Data := { bytes := (d.bytes.drop at_).take p.len, poison := d.poison }
    let s := match p.place with
      | .peer n x => (sendRemote s a.who a.hoop a.aspace p.entry msgWrite n x p.len a.row 0 part).state
      | .loc l =>
        if l < 0xD000000000 then
          let x := engQuarter a.eng
          let y := some (addrQuarter l)
          writeRun (crossTo s a.who x y p.len) a.who l part.bytes (onWay s x y part).poison
        else if hostUp s l then countPage (writeHost s a.who l part.bytes part.poison) p.page p.len
        else s
    putPieces s a d (at_ + p.len) rest

/-- Does a run of bytes meet a poisoned run? -/
def meetsBad (bad : List (Nat × Nat)) (off n : Nat) : Bool :=
  bad.any (fun p => decide (p.1 < off + n) && decide (off < p.1 + p.2))

/-- The parts of a piece in which poison lies apart: the lines of a quarter store (R611), the words of a scratchpad (R108). A carry block,
and what goes to the host or to another node, is written whole (R240, R245, R258). -/
def badParts (s : State) (p : Piece) : List Piece :=
  let by_ (k l : Nat) := (cut k l p.len).map (fun w => { p with va := p.va + (w.1 - l), len := w.2, place := .loc w.1 })
  match p.place with
  | .loc l => (match region s l with | some .store => by_ 128 l | some .scratch => by_ 64 l | _ => [p])
  | .peer _ _ => [p]

/-- An engine writes bytes at a virtual address, each part poisoned when one of the poisoned runs `bad` meets it; all of them, or nothing
yet. `own` marks the mover that loads the image there. A poisoned page-state word drops the write with POISON (R612). -/
def writeVaBad (s : State) (a : Acc) (va : Nat) (bs : List Byte) (bad : List (Nat × Nat)) (own : Bool) : Out Unit :=
  (translateAll s a 1 (cut 512 va bs.length)).andThen (fun ps s =>
    (piecesReady s a true own ps).andThen (fun _ s =>
      (remoteWritesReady s a ps).andThen (fun _ s =>
        .ok () ((if bad.isEmpty then ps else ps.flatMap (badParts s)).foldl (fun (acc : State × Nat) p =>
          let d : Data := { bytes := (bs.drop acc.2).take p.len, poison := meetsBad bad acc.2 p.len }
          (putPieces acc.1 a d 0 [p], acc.2 + p.len)) (s, 0)).1)))
/-- The same, with data that is clean or poisoned as a whole. -/
def writeVa (s : State) (a : Acc) (va : Nat) (d : Data) (own : Bool) : Out Unit :=
  writeVaBad s a va d.bytes (if d.poison then [(0, d.bytes.length)] else []) own

/-- The place of an aligned access of at most eight bytes, with its checks: for fetches, atomics and picot writes. The right that it needs
and whether it writes go apart: an LR needs the atomic right and only reads (R164). -/
def placeVa (s : State) (a : Acc) (va n kind : Nat) (write : Bool) : Out Piece :=
  (translate s a va kind).andThen (fun t s =>
    let p : Piece := { va := va % 2 ^ 57, len := n, place := t.1, entry := t.2.1, page := t.2.2 }
    (piecesReady s a write false [p]).andThen (fun _ s => .ok p s))

/-! ### Commands -/

/-- Is a run of HBM wholly in memory bound to the hoop, its swap area apart (R289, R316, R427)? -/
def boundRun (s : State) (h a n : Nat) : Bool :=
  let units := List.range ((a + n - 1) / 0x80000000 + 1 - a / 0x80000000)
  decide (0 < n) && decide (a + n ≤ 0xC000000000) && !inSwap s h a n && units.all (fun i =>
    let lo := max a ((a / 0x80000000 + i) * 0x80000000)
    let hi := min (a + n) ((a / 0x80000000 + i + 1) * 0x80000000) - 1
    hoopBindsAddr s h lo && hoopBindsAddr s h hi)

/-- May an own-node target range be mapped for the hoop of its row (R289 code 6)? Windows of lanterns, quarters and
mailboxes belong to a hoop that binds the lantern or holds the quarter (R332). -/
def targetOk (s : State) (h : Option Nat) (a n : Nat) : Bool :=
  let last := a + n - 1
  let steps (base size : Nat) := List.range ((last - base) / size + 1 - (a - base) / size) |>.map
    (fun i => (a - base) / size + i)
  match region s a, region s last with
  | some .host0, some .host0 | some .host1, some .host1 => true
  | some .hbm, some .hbm => (h.map (fun h => boundRun s h a n)).getD false
  | some .store, some .store => (h.map (fun h => (steps 0xC000000000 0x4000000).all (hoopQmask s h))).getD false
  | some .mailbox, some .mailbox => (h.map (fun h => (steps 0xC400000000 0x1000).all (hoopQmask s h))).getD false
  | some .scratch, some .scratch =>
    (h.map (fun h => (steps 0xC800000000 0x200000).all (fun l => lanternHoop s l == some h))).getD false
  | _, _ => false

/-- The first failing check of a commit (R289), 0 when accepted. `ws` are the row's eight words. -/
def commitCode (s : State) (who : Req) (row : Nat) (ws : List Word) : Nat :=
  let w (i hi lo : Nat) := fld (wordAt ws i) hi lo
  let h := rowHoop s row
  let block := (List.range 64).find? (fun h => inBlock s h row)
  let blockOk := match who with
    | .vf n => (match vfHoop s n with | some v => h == some v | none => false)
    | _ => true
  let start := entStart ws
  let len := entLen ws
  let aspace := entAspace ws
  let same := s.rng.rows.filter (fun p => decide (p.1 ≠ row) && decide (entAspace p.2 = aspace)
    && (match block with | some h => inBlock s h p.1 | none => false))
  let overlaps := same.any (fun p => decide (entStart p.2 < start + len) && decide (start < entStart p.2 + entLen p.2))
  let target := entTarget ws
  let node := target / 2 ^ 44
  let loc := target % 2 ^ 44
  let own := decide (node = ownNode s)
  let hostT := match region s loc with | some .host0 | some .host1 => true | _ => decide (0xD000000000 ≤ loc)
  let pst := entPst ws
  let pages := len / 65536
  let reserved := w 0 58 58 ≠ 0 ∨ w 0 47 0 ≠ 0 ∨ w 1 63 57 ≠ 0 ∨ w 1 11 0 ≠ 0 ∨ w 2 63 32 ≠ 0 ∨ w 3 63 52 ≠ 0
    ∨ w 3 11 0 ≠ 0 ∨ w 4 63 44 ≠ 0 ∨ w 4 2 0 ≠ 0 ∨ w 5 47 0 ≠ 0 ∨ w 7 63 0 ≠ 0
    ∨ (entMigratable ws = false ∧ w 4 43 3 ≠ 0)
  if !blockOk then 1
  else if !bit (wordAt ws 0) 63 then 0
  else if reserved then 2
  else if 2 ^ 57 < start + len then 3
  else if overlaps then 4
  else if bit (wordAt ws 0) 60 && !(bit (wordAt ws 0) 62 && bit (wordAt ws 0) 61) then 5
  else if own && !targetOk s h loc len then 6
  else if !own && hostT then 6
  else if entMigratable ws && (decide (start % 65536 ≠ 0) || decide (len % 65536 ≠ 0) || !own || !hostT
      || !(match h with | some h => boundRun s h pst (8 * pages) | none => false)) then 7
  else 0

/-- RANGE_COMMIT: a write of W0 commits the staged words and W0 as one change, or is refused (R288, R289). -/
def rangeCommit (s : State) (who : Req) (row : Nat) (w0 : Word) : State :=
  if 65536 ≤ row then s
  else
    let ws := w0 :: (List.range 7).map (fun i => cell s 0x700001 row (i + 1))
    let code := commitCode s who row ws
    let at_ := match who with
      | .vf n => vfHoop s n
      | _ => some ((rowHoop s row).getD 64)
    let s := match at_ with
      | some r => setReg s 0x700002 r (code * 2 ^ 24 + row)
      | none => s
    if code ≠ 0 then s
    else
      let s := setCell s 0x700001 row 0 w0
      { s with rng := { s.rng with rows := if bit w0 63 then tput s.rng.rows row ws else tdel s.rng.rows row } }
/-- RANGE_COMMIT. -/
def execRangeCommit (who : Req) (row : Nat) (w0 : Word) (s : State) : Host.Outcome State Fault Refusal :=
  .next (gateWrite s who 0x700001 true (fun s => rangeCommit s who row w0))

/-- Does an engine park its faults? The front end does not: its reads end with XLATE_FAULT (R383). -/
def parks (e : Eng) : Bool := match e with | .fe | .host _ => false | _ => true

/-- A walk ends in a fault: the access parks in a replay entry, and its record waits for the ring (R306, R309). Behind an access of its
engine that is parked on the same granule or page it stalls, and takes no entry and writes no record. Without
a free entry the engine stalls: the walk is taken again later, and the stall is counted (R431). -/
def parkAccess (s : State) (x : XReq) (type row : Nat) : State :=
  let rest := dropFirst (fun y => y == x) s.rng.xreqs
  let lk := lookasideOf x.eng
  let ahead := rest.any (fun y => xParked y && decide (y.eng = x.eng) && decide (y.hoop = x.hoop) && decide (y.aspace = x.aspace)
    && decide (y.va / xGranule y = x.va / xGranule y))
  if !parks x.eng then
    { s with rng := { s.rng with xreqs := rest ++ [{ x with phase := .failed .xlateFault }] } }
  else if ahead then { s with rng := { s.rng with xreqs := rest } }
  else if replaySize lk ≤ replayUsed s lk then addCell s 0x810008 7 0 1
  else
    let due := (s.rng.records.filter (fun y => decide (y.hoop = x.hoop))).length
    let late := decide (type ≠ 0) && (frBlocked s x.hoop || decide (frSize s x.hoop ≤ frUsed s x.hoop + due))
    let s := if late then countHub (bump s 0x710005 x.hoop) 1 1 else s
    let r : FaultRec := { type := type, repeated := x.repeated, kind := x.kind, hoop := x.hoop, aspace := x.aspace, ctx := x.ctx,
                          eng := x.eng, va := x.va, entry := if type = 1 then 0 else row, since := wick s }
    { s with rng := { s.rng with
        xreqs := rest ++ [{ x with phase := .parked type }]
        records := if type = 0 then s.rng.records else s.rng.records ++ [r] } }

/-- What a walk finds at an entry: a lookaside entry, a fault type with the entry's row, or a failure; or it waits for the clocks of the
quarter that holds the page-state word of a migratable page (R53, R295, R296, R612). -/
inductive Walk
  | entry (e : LookEntry)
  | fault (type row : Nat)
  | fail (st : Status)
  | wait

/-- Has a page-state word a reserved field that is not 0 (R295)? It is rejected whole, as a table entry (R9; for an access, FORMAT is
DEDUCED, log 169). -/
def pageBad (w : Word) : Bool := bit w 60 || decide (fld w 15 0 ≠ 0)
/-- The walk of one translation (R291 to R296, R612). -/
def walk (s : State) (x : XReq) : Walk × State :=
  match findEntry s x.hoop x.aspace x.va with
  | none => (.fault 1 0, s)
  | some (row, ws) =>
    let start := entStart ws
    let mk (st len target : Nat) (page : Option Nat) : LookEntry :=
      { lk := lookasideOf x.eng, hoop := x.hoop, aspace := x.aspace, row := row, start := st, len := len,
        target := target, rd := bit (wordAt ws 0) 62, wr := bit (wordAt ws 0) 61, atomic := bit (wordAt ws 0) 60,
        countAt := page }
    if !entRight ws x.kind then (.fail .rights, rightsEvent s x.hoop)
    else if !entMigratable ws then (.entry (mk start (entLen ws) (entTarget ws) none), s)
    else
      let i := (x.va - start) / 65536
      let who : Who := { eng := x.eng, hoop := some x.hoop, ctx := some x.ctx, flow := none }
      let pst := entPst ws + 8 * i
      let x' := some (addrQuarter pst)
      let y := engQuarter x.eng
      match needClock s (addrQuarter pst) with
      | .wait s | .fail _ s => (.wait, s)
      | .ok _ s =>
      let r := readRun s who pst 8 0
      let d := onWay r.2 x' y r.1
      let s := crossTo r.2 who x' y 8
      let w := wd (leNat d.bytes)
      let page := start + 65536 * i
      if d.poison then (.fail .poison, s)
      else if pageBad w then (.fail .format, s)
      else
        match fld w 63 62 with
        | 0 => (.fault 2 row, s)
        | 1 => (.entry (mk page 65536 (entTarget ws + 65536 * i) (some (row * 2 ^ 28 + i))), s)
        | 2 =>
          let a := fld w 43 16 * 65536
          if boundRun s x.hoop a 65536 then (.entry (mk page 65536 (ownNode s * 2 ^ 44 + a) none), s)
          else (.fail .rights, s)
        | _ => (.fault 0 row, s)

/-- The replayed translations that wait take up walks while their lookaside has fewer than eight in progress, in the order in which they
were parked (R293, R305). -/
def startWalks (s : State) : State :=
  (List.range s.rng.xreqs.length).foldl (fun s i =>
    match s.rng.xreqs[i]? with
    | some x =>
      if xAgain (lookasideOf x.eng) x && decide (walksOf s (lookasideOf x.eng) < 8) then
        { s with rng := { s.rng with xreqs := s.rng.xreqs.set i { x with phase := .walking false } } }
      else s
    | none => s) s

/-- The walk at place `n` of the list returns; a stale one is repeated (R293, R300). -/
def walkReturns (s : State) (n : Nat) : State :=
  match s.rng.xreqs[n]? with
  | none => s
  | some x =>
    match x.phase with
    | .walking true => { s with rng := { s.rng with xreqs := s.rng.xreqs.set n { x with phase := .walking false } } }
    | .walking false =>
      let r := walk s x
      let s := r.2
      let rest := s.rng.xreqs.eraseIdx n
      match r.1 with
      | .wait => s
      | .fault type row => parkAccess s x type row
      | .fail st => { s with rng := { s.rng with xreqs := rest ++ [{ x with phase := .failed st }] } }
      | .entry e => fillLook { s with rng := { s.rng with xreqs := rest } } e
    | _ => s
/-- WALK_COMPLETE: the n-th translation in progress returns from its walk (R293, R300). Of the replayed ones of a hoop the first parked
returns first (R305). -/
def walkComplete (s : State) (n : Nat) : State :=
  let replayed (h : Nat) (x : XReq) : Bool := xWalking x && x.repeated && decide (x.hoop = h)
  let k := match s.rng.xreqs[n]? with
    | some x => if x.repeated then (s.rng.xreqs.findIdx? (replayed x.hoop)).getD n else n
    | none => n
  startWalks (walkReturns s k)
/-- WALK_COMPLETE. -/
def execWalkComplete (n : Nat) (s : State) : Host.Outcome State Fault Refusal := .next (unlessSafe s (walkComplete s n))

/-- FAULT_RECORD_WRITE: the oldest waiting record of the hoop is written, if the ring has room (R307 to R309). -/
def faultRecordWrite (s : State) (h : Nat) : State :=
  if frBlocked s h then s
  else
    match s.rng.records.find? (fun r => decide (r.hoop = h)) with
    | none => s
    | some r =>
      let w0 := r.type * 2 ^ 60 + b1 r.repeated * 2 ^ 58 + r.kind % 4 * 2 ^ 56 + h % 64 * 2 ^ 50 + r.aspace % 1024 * 2 ^ 40
        + r.ctx % 1024 * 2 ^ 30 + engCode r.eng * 2 ^ 14
      let s := frWrite s h w0 r.va r.entry 0 r.since
      { s with rng := { s.rng with records := dropFirst (fun y => y == r) s.rng.records } }
/-- FAULT_RECORD_WRITE. -/
def execFaultRecordWrite (hoop : Nat) (s : State) : Host.Outcome State Fault Refusal := .next (unlessSafe s (faultRecordWrite s hoop))

/-- Discard a context's parked accesses and waiting records (R309, R311). -/
def dropCtxX (s : State) (ctx : Nat) : State :=
  { s with rng := { s.rng with xreqs := s.rng.xreqs.filter (fun x => decide (x.ctx ≠ ctx)),
                               records := s.rng.records.filter (fun x => decide (x.ctx ≠ ctx)) } }
/-- Discard an engine's translations in progress. -/
def dropEngX (s : State) (eng : Eng) : State :=
  { s with rng := { s.rng with xreqs := s.rng.xreqs.filter (fun x => decide (x.eng ≠ eng)) } }

/-- FAULT_RECORD_TIMEOUT: a record that has waited 8 ms escalates its context to an L1 reset with XLATE_FAULT; the
context's waiting records and parked accesses are discarded (R309, R509). -/
def faultRecordTimeout (s : State) (h : Nat) : State :=
  match s.rng.records.find? (fun r => decide (r.hoop = h) && decide (r.since + 8000000 ≤ wick s)) with
  | none => s
  | some x =>
    let s := dropCtxX s x.ctx
    let r : Reset := { level := 1, target := x.ctx, trigger := 0, cause := .xlateFault, fences := [],
                       start := wick s, phase := 0, dumped := false, logAt := none }
    if s.snuffer.resets.any (fun o => resetContains s o 1 x.ctx) then s else startReset s r
/-- FAULT_RECORD_TIMEOUT. -/
def execFaultRecordTimeout (hoop : Nat) (s : State) : Host.Outcome State Fault Refusal :=
  .next (unlessSafe s (faultRecordTimeout s hoop))

/-- Key of a staged cell. -/
def stagedKey (e row w : Nat) : Nat := cellKey e row w

/-- Apply a staged FR_CONFIG when the ring is empty, disabled or in ERROR (R313); ERROR ends (R310). -/
def frApply (s : State) (h : Nat) : State :=
  match tget s.staged (stagedKey 0x710001 h 0), tget s.staged (stagedKey 0x710001 h 1) with
  | some w0, some w1 =>
    if !frEnabled s h || frError s h || decide (frUsed s h = 0) then
      let s := { s with staged := tdel (tdel s.staged (stagedKey 0x710001 h 0)) (stagedKey 0x710001 h 1) }
      let s := setReg (setCells s 0x710001 h 0 [w0, w1]) 0x710004 h 0
      frShow s h
    else s
  | _, _ => s

/-- The result of a write of a hoop's FR_HEAD row: 4 NOT_PERMITTED. -/
def frHeadCode (s : State) (who : Req) (h : Nat) : Nat := if 64 ≤ h ∨ reqOwns s who h = false then 4 else 0
/-- FR_HEAD: the driver reports consumption (R308, R309). -/
def frHeadWrite (s : State) (who : Req) (h : Nat) (v : Word) : State :=
  let code := frHeadCode s who h
  let s := result s code
  if code ≠ 0 then s else frApply (frShow (setReg s 0x710002 h (fld v 31 0)) h) h
/-- FR_HEAD_WRITE. -/
def execFrHeadWrite (who : Req) (hoop : Nat) (v : Word) (s : State) : Host.Outcome State Fault Refusal :=
  .next (gateWrite s who 0x710002 true (fun s => frHeadWrite s who hoop v))

/-- Is a host-aperture run of `n` bytes at a local address acceptable for an address entry? -/
def apertureOk (s : State) (a n : Nat) : Bool := hostExists s a n

/-- The result of a write of a hoop's FR_CONFIG row: 4 NOT_PERMITTED, 9 RANGE when a field of an enabled ring breaks its
rule. -/
def frConfigCode (s : State) (who : Req) (h : Nat) (w0 w1 : Word) : Nat :=
  let size := fld w1 4 0
  let ok := !bit w1 8 || (decide (6 ≤ size) && decide (size ≤ 16) && decide (w0.toNat % 4096 = 0)
    && apertureOk s w0.toNat (32 * 2 ^ size))
  if 64 ≤ h ∨ reqOwns s who h = false then 4 else if ok then 0 else 9
/-- FR_CONFIG: staged, and in force when the ring is empty, disabled or in ERROR (R310, R313). Reserved bits are ignored
(R8). -/
def frConfigWrite (s : State) (who : Req) (h : Nat) (w0 w1 : Word) : State :=
  let code := frConfigCode s who h w0 w1
  let s := result s code
  let w1 := wd (fld w1 4 0 + fld w1 8 8 * 256)
  if code ≠ 0 then s
  else frApply { s with staged := tput (tput s.staged (stagedKey 0x710001 h 0) w0) (stagedKey 0x710001 h 1) w1 } h
/-- FR_CONFIG_WRITE. -/
def execFrConfigWrite (who : Req) (hoop : Nat) (w0 w1 : Word) (s : State) : Host.Outcome State Fault Refusal :=
  .next (gateWrite s who 0x710001 true (fun s => frConfigWrite s who hoop w0 w1))

/-- Write back one page's count, setting HOT at the threshold; a poisoned word is left alone, and so is one that is malformed or lies in
memory closed to device traffic (R9, R278, R297, R298, R612). -/
def writeBackPage (s : State) (h : Nat) (key bytes : Nat) : State :=
  let row := key / 2 ^ 28
  let i := key % 2 ^ 28
  match tget s.rng.rows row with
  | none => s
  | some ws =>
    let a := entPst ws + 8 * i
    let who : Who := { eng := .fe, hoop := some h, ctx := none, flow := none }
    let x := some (addrQuarter a)
    let r := readRun s who a 8 0
    let d := onWay r.2 x none r.1
    let s := crossTo r.2 who x none 8
    let w := wd (leNat d.bytes)
    if d.poison || !entMigratable ws || pageBad w || deviceClosed s a 8 then s
    else
      let count := min 65535 (fld w 59 44 + bytes / 4096)
      let thr := fld (wordAt ws 5) 63 48
      let hot := decide (thr ≠ 0) && decide (thr ≤ count) && !bit w 61
      let w := setFld w 59 44 count
      let w := if hot then setFld w 61 61 1 else w
      let s := writeRun s who a (leBytes 8 w.toNat) false
      if !hot then s
      else if frBlocked s h || decide (4 * (frSize s h - frUsed s h) < frSize s h) then bump s 0x710006 h
      else frWrite s h (3 * 2 ^ 60 + h * 2 ^ 50 + entAspace ws * 2 ^ 40) (entStart ws + 65536 * i) row count (wick s)

/-- The clocks of the quarter that holds a counted page's page-state word (R53). -/
def pageClock (s : State) (key : Nat) : Out Unit :=
  match tget s.rng.rows (key / 2 ^ 28) with
  | some ws => needClock s (addrQuarter (entPst ws + 8 * (key % 2 ^ 28)))
  | none => .ok () s
/-- HOT_WRITE_BACK: the counts of a hoop's HOST pages go back to their page-state words (R297); one whose quarter's clocks stand still
waits for the next write-back after they run (R53). -/
def hotWriteBack (s : State) (h : Nat) : State :=
  let mine := s.rng.counts.filter (fun p => inBlock s h (p.1 / 2 ^ 28) && decide (4096 ≤ p.2))
  mine.foldl (fun s p =>
    match pageClock s p.1 with
    | .ok _ s =>
      let left := if p.2 % 4096 = 0 then tdel s.rng.counts p.1 else tput s.rng.counts p.1 (p.2 % 4096)
      writeBackPage { s with rng := { s.rng with counts := left } } h p.1 p.2
    | o => o.state) s
/-- HOT_WRITE_BACK. -/
def execHotWriteBack (hoop : Nat) (s : State) : Host.Outcome State Fault Refusal := .next (unlessSafe s (hotWriteBack s hoop))

/-- Write a dropped doorbell into the hub's counter (R299). -/
def invalDropped (s : State) : State := countHub s 0 1

/-- Accept an invalidation: the matching lookaside entries are dropped, walks marked stale, and the outstanding accesses
translated through the entries noted (R300, R301). -/
def acceptInval (s : State) (who : Req) (w : Word) : State :=
  let h := fld w 61 56
  let op := fld w 63 62
  let row := fld w 55 40
  let aspace := fld w 49 40
  let good := decide (op ≠ 0) || inBlock s h row
  let hit (h' aspace' row' : Nat) : Bool := good && decide (h' = h) && (match op with
    | 0 => decide (row' = row)
    | 1 => decide (aspace' = aspace)
    | _ => true)
  let waits := ((outstanding s).filter (fun r => decide (r.entry < 65536) && hit r.hoop r.aspace r.entry)).map (fun r => r.id)
    ++ (s.fab.picots.filter (fun p => p.sender.isNone && hit p.hoop p.aspace p.entry)).map (fun p => p.id)
  let s := dropLook s (fun e => hit e.hoop e.aspace e.row)
  let stale := fun x : XReq =>
    let at_ := ((findEntry s x.hoop x.aspace x.va).map (fun p => p.1)).getD row
    if xWalking x && hit x.hoop x.aspace at_ then { x with phase := .walking true } else x
  let i : Inval := { op := op, hoop := h, entry := row, fence := if bit w 39 then some (fld w 38 25) else none,
                     via := some who, seq := fld w 23 0, waits := waits }
  { s with rng := { s.rng with xreqs := s.rng.xreqs.map stale, invals := s.rng.invals ++ [i] } }

/-- Must a doorbell wait in the host: 256 invalidations are pending, or others wait there already (R303)? -/
def doorbellWaits (s : State) : Bool := decide (256 ≤ s.rng.invals.length) || !s.rng.doorbells.isEmpty
/-- A doorbell waits in the host, and the stall is counted (R303). -/
def holdDoorbell (s : State) (who : Req) (w : Word) : State :=
  let p := match who with | .vf n => vfPort s n | .pf p => p % 2 | .mgmt => 0
  let s := addCell (countP s p 3 1) 0x810008 8 0 1
  { s with rng := { s.rng with doorbells := s.rng.doorbells ++ [(who, w)] } }
/-- Retranslate every parked access of a hoop, in parking order (R305). -/
def replayHoop (s : State) (h : Nat) : State :=
  let again := fun x : XReq => match x.phase with
    | .parked t => if x.hoop = h then { x with phase := .again t, repeated := true } else x
    | _ => x
  startWalks { s with rng := { s.rng with xreqs := s.rng.xreqs.map again } }
/-- The function that rings a held doorbell. -/
def bellWho (b : Bell) : Req := match b with | .sqTail w _ _ | .cqHead w _ _ | .inval w _ => w
/-- Is an earlier posted BAR4 write of a function still to land: held for a quarter's clocks or a lantern's wake, or by a granule remap
(R272)? -/
def bar4Waits (s : State) (who : Req) : Bool :=
  s.clk.held.any (fun p => match p.2 with | .bar4Write w _ _ => decide (w = who) | _ => false)
    || s.darner.queue.any (fun r => r.held.any (fun m => decide (m.eng = .host who)))
/-- Must a doorbell of a function wait for its earlier BAR4 writes, or behind a doorbell of its own that does (R272)? -/
def bellWaits (s : State) (who : Req) : Bool := bar4Waits s who || s.fab.bells.any (fun b => decide (bellWho b = who))
/-- A doorbell waits for the writes before it, or is acted on. -/
def ring (s : State) (b : Bell) (f : State → State) : State :=
  if bellWaits s (bellWho b) then { s with fab := { s.fab with bells := s.fab.bells ++ [b] } } else f s

/-- An invalidation doorbell (R299, R303): through a VF only for its own hoop; it may have to wait in the host. Op 3 is REPLAY (R305). -/
def invalNow (s : State) (who : Req) (w : Word) : State :=
  if !reqOwns s who (fld w 61 56) then invalDropped s
  else if doorbellWaits s then holdDoorbell s who w
  else if fld w 63 62 = 3 then replayHoop s (fld w 61 56)
  else acceptInval s who w
/-- The same, behind the function's BAR4 writes (R272). -/
def invalDoorbell (s : State) (who : Req) (w : Word) : State := ring (wakeUp s) (.inval who w) (fun s => invalNow s who w)
/-- INVAL_ENTRY. -/
def execInvalEntry (who : Req) (w : Word) (s : State) : Host.Outcome State Fault Refusal :=
  .next (invalDoorbell s who (setFld w 63 62 0))
/-- INVAL_ASPACE. -/
def execInvalAspace (who : Req) (w : Word) (s : State) : Host.Outcome State Fault Refusal :=
  .next (invalDoorbell s who (setFld w 63 62 1))
/-- INVAL_HOOP. -/
def execInvalHoop (who : Req) (w : Word) (s : State) : Host.Outcome State Fault Refusal :=
  .next (invalDoorbell s who (setFld w 63 62 2))

/-- REPLAY. -/
def execReplay (who : Req) (w : Word) (s : State) : Host.Outcome State Fault Refusal :=
  .next (invalDoorbell s who (setFld w 63 62 3))

/-- Take doorbells held in the host, in order, while there is room (R303). -/
def serveDoorbells (s : State) : List (Req × Word) → State
  | [] => s
  | d :: rest =>
    if 256 ≤ s.rng.invals.length then { s with rng := { s.rng with doorbells := d :: rest } }
    else serveDoorbells (if fld d.2 63 62 = 3 then replayHoop s (fld d.2 61 56) else acceptInval s d.1 d.2) rest
/-- Take the doorbells held in the host while there is room. -/
def takeDoorbells (s : State) : State := serveDoorbells { s with rng := { s.rng with doorbells := [] } } s.rng.doorbells

/-- Has an access that an invalidation waits for not completed: a request that it names with no answer, or with EPOCH_STALE where its
engine sends it again (R230, R352), a held picot write that it names, or a write of the hoop's
memory that a granule remap holds (R301)? -/
def invalWaits (s : State) (i : Inval) : Bool :=
  s.fab.remotes.any (fun r => i.waits.contains r.id && (match r.answer with
      | none => true
      | some (.epochStale, _, _) => (match r.eng with | .cse _ | .coll _ _ => true | _ => false)
      | _ => false))
    || s.fab.picots.any (fun p => p.sender.isNone && i.waits.contains p.id)
    || s.darner.queue.any (fun r => r.held.any (fun m => decide (addrHoop s m.addr = some i.hoop)))
/-- INVAL_COMPLETE: the hoop's oldest invalidation completes when every access it waits for has (R301, R613). -/
def invalComplete (s : State) (h : Nat) : State :=
  match s.rng.invals.find? (fun i => i.hoop = h) with
  | none => s
  | some i =>
    if invalWaits s i then s
    else
      let s := { s with rng := { s.rng with invals := dropFirst (fun x => x == i) s.rng.invals } }
      let n := (hoop s h).invals + 1
      let s := modHoop s h (fun x => { x with invals := n })
      let s := selCount s none 0x23 1 (some h) none none
      let va := regN s 0x700004 h
      let status := if i.op = 0 ∧ inBlock s h i.entry = false then statusCode .format else 0
      let who : Who := { eng := .fe, hoop := some h, ctx := none, flow := houseFlow s h }
      let s := if va = 0 then s
        else issueConfirm (writeHost s who va (wordBytes [wd (status * 2 ^ 56 + i.seq), wd n, wd (wick s), 0]) false) (hostAddr s va).1 (.inval h)
      let s := setReg s 0x700005 h i.seq
      let s := match i.fence with
        | some f => commandSignal s f n false i.via
        | none => s
      takeDoorbells s
/-- INVAL_COMPLETE. -/
def execInvalComplete (hoop : Nat) (s : State) : Host.Outcome State Fault Refusal := .next (unlessSafe s (invalComplete s hoop))

end Sys2Proof.Machine
end

