-- ==== Sys2Proof/Machine/Flags.lean ====
section
/-! DEFINITION. The statuses and event counts that arithmetic gives: NUMERIC (R91), overflows and NaNs generated (R85),
and what a set of operands and results contributes. -/

namespace Sys2Proof.Machine

/-- One output element before its conversion: the value to convert, the overflows on the way to it, whether the accumulation ended
under case 3 of R91, and whether a NaN stood among its inputs. -/
structure OutElem where
  v : Num
  ovf : Nat
  wrapped : Bool
  nanIn : Bool
  deriving DecidableEq, Repr

/-- A value without history as an output element. -/
def plainElem (v : Num) : OutElem := { v := v, ovf := 0, wrapped := false, nanIn := numIsNan v }

/-- Does a rounding of an exact value overflow: a finite value has become an infinity (R85)? -/
def overOf (exact r : Num) : Nat := match exact, r with | .fin _ _ _, .inf _ => 1 | _, _ => 0

/-- Counts that arithmetic gives: overflows and NaNs made (R85), results under case 3 of R91. -/
structure Tally where
  ovf : Nat
  nans : Nat
  wraps : Nat
  deriving DecidableEq, Repr

/-- Nothing counted. -/
def tallyZero : Tally := { ovf := 0, nans := 0, wraps := 0 }
/-- The sum of two counts. -/
def tallyAdd (a b : Tally) : Tally := { ovf := a.ovf + b.ovf, nans := a.nans + b.nans, wraps := a.wraps + b.wraps }
/-- The sum of counts. -/
def tallySum (ts : List Tally) : Tally := ts.foldl tallyAdd tallyZero
/-- What one operation counts: its inputs, its exact result, and that result rounded. -/
def tallyOf (ins : List Num) (exact r : Num) : Tally :=
  { ovf := overOf exact r, nans := if numIsNan r && !ins.any numIsNan then 1 else 0, wraps := 0 }
/-- An operation that rounds by RNE: its result, and what it counts. -/
def opTally (w : Fmt) (ins : List Num) (exact : Num) : Num × Tally :=
  let r := rne w exact
  (r, tallyOf ins exact r)
/-- The same over a list. -/
def mapTally (f : Num → Num × Tally) (xs : List Num) : List Num × Tally :=
  let ys := xs.map f
  (ys.map (fun y => y.1), tallySum (ys.map (fun y => y.2)))

/-- What FAST accumulation counts (R98). -/
def fastTally (start : Option Num) (addends : List Num) : Tally :=
  ((chunks32 addends).foldl
    (fun (acc : Option Num × Tally) c =>
      let v := opTally .fp32 c (numSum c)
      match acc.1 with
      | none => (some v.1, tallyAdd acc.2 v.2)
      | some a => let r := opTally .fp32 [a, v.1] (numSum [a, v.1]); (some r.1, tallyAdd acc.2 (tallyAdd v.2 r.2)))
    (start, tallyZero)).2

/-- What FP64 accumulation counts (R100). -/
def fp64Tally (addends : List Num) : Tally :=
  (addends.foldl
    (fun (acc : Option Num × Tally) v =>
      match acc.1 with
      | none => (some v, acc.2)
      | some a => let r := opTally .fp64 [a, v] (numSum [a, v]); (some r.1, tallyAdd acc.2 r.2))
    (none, tallyZero)).2

/-- What the rounding of a long accumulator to FP32 counts. -/
def accTally (rnd : Rnd) (l : LongAcc) : Tally :=
  let x := accResult .fp32 l
  { ovf := if convOver .fp32 rnd 0 x then 1 else 0, nans := if numIsNan x && !l.nanSeen then 1 else 0,
    wraps := if accOverflowed l then 1 else 0 }
/-- Count what arithmetic of a quarter gave (R85, R91). -/
def countTally (s : State) (q : Nat) (t : Tally) : State :=
  addCell (countQ (countQ s q 4 t.ovf) q 5 t.nans) 0xB00005 0 0 t.wraps

/-- NaNs made by the conversion of a list of elements, of which `n` overflow in it: a NaN result none of whose inputs is a NaN (R80, R85).
An infinity that E4M3 cannot hold counts, an overflow that it does not saturate, and every element of an MX block that an infinity makes
NaN (R70, R81). -/
def nansMade (f : Fmt) (sat : Bool) (n : Nat) (xs : List OutElem) : Nat :=
  (if f = .e4m3 ∧ sat = false then n else 0) +
  if fmtIsMx f then
    ((chunks32 xs).map (fun b => if b.any (fun e => numIsSpecial e.v) && !b.any (fun e => e.nanIn) then b.length else 0)).sum
  else (xs.filter (fun e => !e.nanIn && (numIsNan e.v || (decide (f = .e4m3) && numIsSpecial e.v)))).length
/-- Elements written under case 3 of R91. -/
def overElems (xs : List OutElem) : Nat := (xs.filter (fun e => e.wrapped)).length

/-- Count what an output of a quarter gave: overflows on the way and in the conversion, `n` of them, and NaNs per quarter (R85),
NUMERIC_EVENTS (R91). -/
def countOut (s : State) (q : Nat) (f : Fmt) (sat : Bool) (n : Nat) (xs : List OutElem) : State :=
  let s := countQ s q 4 (n + (xs.map (fun e => e.ovf)).sum)
  let s := countQ s q 5 (nansMade f sat n xs)
  addCell s 0xB00005 0 0 (overElems xs)

/-- The status an op's output contributes: POISON before NUMERIC (R92, R392). -/
def outStatus (poison : Bool) (xs : List OutElem) : Status :=
  if poison then .poison else if overElems xs = 0 then .ok else .numeric

end Sys2Proof.Machine
end

