-- ==== Sys2Proof/Machine/Operands.lean ====
section
/-! DEFINITION. Every operand form of a tile op: the fields of R116 to R137, the encoding checks made before a strand
begins (R105, R115 to R132, R141, R176), and tiles of numbers in a scratchpad (R63, R68, R124, R128). -/

namespace Sys2Proof.Machine

/-! ### Fields of a tile op (R116) -/

/-- OPCODE. -/
def opCode (ws : List Word) : Nat := fld (wordAt ws 0) 63 56
/-- FMT_A. -/
def opFmtA (ws : List Word) : Nat := fld (wordAt ws 0) 55 52
/-- FMT_B. -/
def opFmtB (ws : List Word) : Nat := fld (wordAt ws 0) 51 48
/-- FMT_OUT. -/
def opFmtOut (ws : List Word) : Nat := fld (wordAt ws 0) 47 44
/-- ROUND. -/
def opRound (ws : List Word) : Nat := fld (wordAt ws 0) 43 41
/-- SAT. -/
def opSat (ws : List Word) : Nat := fld (wordAt ws 0) 40 39
/-- BARRIER. -/
def opBarrier (ws : List Word) : Bool := bit (wordAt ws 0) 38
/-- SR_TAG. -/
def opSrTag (ws : List Word) : Nat := fld (wordAt ws 0) 31 16
/-- A field of PARAM. -/
def opParam (ws : List Word) (hi lo : Nat) : Nat := fld (wordAt ws 0) hi lo
/-- Scope code of WAIT and SIGNAL (R131). -/
def opScope (ws : List Word) : Nat := opParam ws 15 13
/-- Fence of WAIT and SIGNAL. -/
def opFence (ws : List Word) : Nat := fld (wordAt ws 1) 13 0
/-- The format of a code that the checks have accepted. -/
def fmtD (c : Nat) : Fmt := (fmtOfCode c).getD .fp32

/-! ### Tiles -/

/-- A tile in a scratchpad: offset, row pitch in bytes, offset of its scale plane, shape, format. -/
structure Tile where
  off : Nat
  pitch : Nat
  soff : Nat
  rows : Nat
  cols : Nat
  fmt : Fmt
  deriving DecidableEq, Repr

/-- Bytes of a row of elements (R63). -/
def rowBytes (f : Fmt) (n : Nat) : Nat := (fmtBits f * n + 7) / 8
/-- May a row hold this many elements (R63, R68)? -/
def rowCountOk (f : Fmt) (n : Nat) : Bool :=
  (if fmtIsMx f then decide (n % 32 = 0) else true)
    && (match fmtBits f with | 4 => decide (n % 2 = 0) | 6 => decide (n % 4 = 0) | _ => true)

/-- The byte runs of a tile's element plane and scale plane: offset and length. -/
def tileRuns (t : Tile) : List (Nat × Nat) :=
  (List.range t.rows).map (fun r => (t.off + r * t.pitch, rowBytes t.fmt t.cols))
    ++ (if fmtIsMx t.fmt then [(t.soff, t.rows * (t.cols / 32))] else [])
/-- The byte runs of rows of partial slots (R128). -/
def slotRuns (off pitch rows cols : Nat) : List (Nat × Nat) :=
  (List.range rows).map (fun r => (off + r * pitch, 88 * cols))
/-- Do runs stay inside a scratchpad? -/
def runsIn (size : Nat) (runs : List (Nat × Nat)) : Bool := runs.all (fun p => decide (p.1 + p.2 ≤ size))

/-- The codes of `n` elements packed in bytes (R63). -/
def unpackCodes (bits n : Nat) (bs : List Byte) : List Nat :=
  let v := leNat bs
  (List.range n).map (fun i => v / 2 ^ (bits * i) % 2 ^ bits)
/-- Pack element codes into bytes (R63). -/
def packCodes (bits : Nat) (cs : List Nat) : List Byte :=
  let v := cs.foldr (fun c acc => c % 2 ^ bits + 2 ^ bits * acc) 0
  leBytes ((bits * cs.length + 7) / 8) v

/-- Decode the elements of one row; `scales` are the row's scale bytes. -/
def decodeRow (f : Fmt) (scales : List Byte) (codes : List Nat) : List Num :=
  if fmtIsMx f then codes.zipIdx.map (fun p => decodeMx f (scales.getD (p.2 / 32) 0).toNat p.1)
  else codes.map (decodeElem f)

/-- The numbers of a tile in the scratchpad at local address `base`. -/
def readTile (s : State) (base : Nat) (t : Tile) : List (List Num) :=
  (List.range t.rows).map (fun r =>
    let codes := unpackCodes (fmtBits t.fmt) t.cols (rbs s (base + t.off + r * t.pitch) (rowBytes t.fmt t.cols))
    let per := t.cols / 32
    decodeRow t.fmt (if fmtIsMx t.fmt then rbs s (base + t.soff + r * per) per else []) codes)

/-- A vector of `n` FP32 values. -/
def readVec (s : State) (base off n : Nat) : List Num :=
  ((unpackCodes 32 n (rbs s (base + off) (4 * n))).map (decodeElem .fp32))

/-- Element (r, c) of a tile of numbers. -/
def at2 (t : List (List Num)) (r c : Nat) : Num := (t.getD r []).getD c (.zero false)

/-- The bytes of a slot (R128). -/
def slotBytes (l : LongAcc) : List Byte := padTo 88 ((accPack l).flatMap (leBytes 8))

/-- Settings with which an op converts its output: rounding, saturation, SR seed and tag, origin. -/
structure OutSet where
  fmt : Fmt
  rnd : Rnd
  sat : Bool
  seed : Nat
  tag : Nat
  row0 : Nat
  col0 : Nat
  deriving DecidableEq, Repr

/-- Convert one row of values to element codes and scale bytes (R70, R75, R77). -/
def convertRow (o : OutSet) (r : Nat) (xs : List Num) : List Nat × List Byte :=
  let sr := fun c => srValue o.seed o.tag (o.row0 + r) (o.col0 + c)
  if fmtIsMx o.fmt then
    let blocks := chunks32 (xs.zipIdx.map (fun p => (p.1, sr p.2)))
    let enc := blocks.map (encodeMxBlock o.fmt o.rnd)
    (enc.flatMap (fun p => p.2), enc.map (fun p => BitVec.ofNat 8 p.1))
  else (xs.zipIdx.map (fun p => encodeElem o.fmt (convert o.fmt o.rnd o.sat (sr p.2) p.1)), [])

/-- Overflows of that conversion of one row (R85). -/
def convertOvers (o : OutSet) (r : Nat) (xs : List Num) : Nat :=
  let ys := xs.zipIdx.map (fun p => (p.1, srValue o.seed o.tag (o.row0 + r) (o.col0 + p.2)))
  if fmtIsMx o.fmt then ((chunks32 ys).map (mxOvers o.fmt o.rnd)).sum
  else (ys.filter (fun p => convOver o.fmt o.rnd p.2 p.1)).length

/-- Write a tile of values; every word touched is poisoned when `poison` (R108). -/
def writeTile (s : State) (base : Nat) (t : Tile) (o : OutSet) (rows : List (List Num)) (poison : Bool) : State :=
  writeRuns s (rows.zipIdx.flatMap (fun p =>
    let c := convertRow o p.2 p.1
    (base + t.off + p.2 * t.pitch, packCodes (fmtBits t.fmt) c.1)
      :: (if fmtIsMx t.fmt then [(base + t.soff + p.2 * (t.cols / 32), c.2)] else []))) poison

/-- Is any word of the runs poisoned? -/
def runsPoisoned (s : State) (base : Nat) (runs : List (Nat × Nat)) : Bool :=
  runs.any (fun p => decide (0 < p.2) && scratchPoisoned s (base + p.1) p.2)

/-! ### Operand fields of the ops -/

/-- Offset, scale-plane offset and pitch in the layout of W1 of MMA. -/
def planeOf (w : Word) (rows cols : Nat) (f : Fmt) : Tile :=
  { off := fld w 63 43, soff := fld w 42 22, pitch := 16 * fld w 21 10, rows := rows, cols := cols, fmt := f }
/-- M, N and K of W5. -/
def opM (ws : List Word) : Nat := fld (wordAt ws 5) 21 15 + 1
/-- N. -/
def opN (ws : List Word) : Nat := fld (wordAt ws 5) 14 8 + 1
/-- K. -/
def opK (ws : List Word) : Nat := fld (wordAt ws 5) 7 1 + 1
/-- TRANS_A. -/
def opTransA (ws : List Word) : Bool := bit (wordAt ws 0) 12
/-- TRANS_B. -/
def opTransB (ws : List Word) : Bool := bit (wordAt ws 0) 11
/-- HOLD. -/
def opHold (ws : List Word) : Bool := bit (wordAt ws 0) 10
/-- ENGINE. -/
def opEngine (ws : List Word) : Nat := opParam ws 9 8
/-- OUT_PARTIAL of MMA. -/
def opOutPartial (ws : List Word) : Bool := bit (wordAt ws 0) 13
/-- Tile A of an MMA as stored (R122). -/
def mmaA (ws : List Word) : Tile :=
  let f := fmtD (opFmtA ws)
  if opTransA ws then planeOf (wordAt ws 1) (opK ws) (opM ws) f else planeOf (wordAt ws 1) (opM ws) (opK ws) f
/-- Tile B of an MMA as stored. -/
def mmaB (ws : List Word) : Tile :=
  let f := fmtD (opFmtB ws)
  if opTransB ws then planeOf (wordAt ws 2) (opN ws) (opK ws) f else planeOf (wordAt ws 2) (opK ws) (opN ws) f
/-- The FP32 accumulate-into tile. -/
def mmaC (ws : List Word) : Tile :=
  { off := fld (wordAt ws 3) 63 43, pitch := 16 * fld (wordAt ws 3) 21 10, soff := 0, rows := opM ws, cols := opN ws,
    fmt := .fp32 }
/-- The output tile of an MMA, a CONVERT or a BCAST_ADD. -/
def opOut (ws : List Word) : Tile := planeOf (wordAt ws 4) (opM ws) (opN ws) (fmtD (opFmtOut ws))
/-- The source tile of TRANSPOSE, CONVERT and BCAST_ADD (R130). -/
def opSrc (ws : List Word) : Tile := planeOf (wordAt ws 1) (opM ws) (opN ws) (fmtD (opFmtA ws))
/-- BIAS_OFF. -/
def opBiasOff (ws : List Word) : Nat := fld (wordAt ws 5) 63 43
/-- SCALE_OFF. -/
def opScaleOff (ws : List Word) : Nat := fld (wordAt ws 5) 42 22
/-- Length of a vector selected by BIAS or SCALE: 1 per column, 2 per row. -/
def selLen (ws : List Word) (sel : Nat) : Nat := match sel with | 1 => opN ws | 2 => opM ws | _ => 0

/-- Row runs of the LOAD layout in the scratchpad: rows, offset, pitch, bytes (R120). -/
def lsRows (ws : List Word) : Nat := fld (wordAt ws 3) 51 45 + 1
/-- Scratchpad offset of a row. -/
def lsOff (ws : List Word) (r : Nat) : Nat := fld (wordAt ws 2) 31 11 + r * (16 * fld (wordAt ws 3) 63 52)
/-- Row length in bytes. -/
def lsLen (ws : List Word) : Nat := 16 * (fld (wordAt ws 3) 44 39 + 1)
/-- Virtual address of a memory row. -/
def lsVa (ws : List Word) (r : Nat) : Nat := (wordAt ws 1).toNat + r * fld (wordAt ws 2) 63 32
/-- CACHED. -/
def lsCached (ws : List Word) : Bool := bit (wordAt ws 3) 38

/-! ### Chains (R136, R137) -/

/-- COUNT + 1. -/
def chCount (ws : List Word) : Nat := opParam ws 15 13 + 1
/-- OUT_PARTIAL of CHAIN. -/
def chPartial (ws : List Word) : Bool := bit (wordAt ws 0) 12
/-- Rows. -/
def chRows (ws : List Word) : Nat := fld (wordAt ws 3) 30 24 + 1
/-- Columns. -/
def chCols (ws : List Word) : Nat := fld (wordAt ws 3) 23 17 + 1
/-- Primitive `i`, 24 bits of W7:W5. -/
def chPrim (ws : List Word) (i : Nat) : Nat :=
  ((wordAt ws 5).toNat + (wordAt ws 6).toNat * 2 ^ 64 + (wordAt ws 7).toNat * 2 ^ 128) / 2 ^ (24 * i) % 2 ^ 24
/-- POP of a primitive. -/
def prPop (p : Nat) : Nat := p / 2 ^ 18 % 64
/-- DST. -/
def prDst (p : Nat) : Nat := p / 2 ^ 15 % 8
/-- SRC1. -/
def prSrc1 (p : Nat) : Nat := p / 2 ^ 12 % 8
/-- SRC2. -/
def prSrc2 (p : Nat) : Nat := p / 2 ^ 9 % 8
/-- A field of IMM. -/
def prImm (p hi lo : Nat) : Nat := p % 512 / 2 ^ lo % 2 ^ (hi + 1 - lo)
/-- Does the primitive read SRC2? -/
def popTwo (pop : Nat) : Bool := decide (1 ≤ pop ∧ pop ≤ 7) || pop = 0x19 || pop = 0x1A
/-- Does the primitive read SRC1? PSUM reads IN1's slots instead. -/
def popOne (pop : Nat) : Bool := pop ≠ 0x1C
/-- Does the primitive read its destination: MAC adds to it, SCATTER leaves the rest of it? -/
def popReadsDst (pop : Nat) : Bool := pop = 7 || pop = 0x1A
/-- Does a chain compute in FP64 (R138)? -/
def chWide (ws : List Word) : Bool := opFmtA ws = 0xB || opFmtB ws = 0xB || opFmtOut ws = 0xB
/-- Tile IN0. -/
def chIn0 (ws : List Word) : Tile :=
  { off := fld (wordAt ws 1) 63 43, pitch := 16 * fld (wordAt ws 1) 21 10, soff := 0, rows := chRows ws, cols := chCols ws,
    fmt := fmtD (opFmtA ws) }
/-- Tile IN1. -/
def chIn1 (ws : List Word) : Tile :=
  { off := fld (wordAt ws 1) 42 22, pitch := 16 * fld (wordAt ws 2) 21 10, soff := 0, rows := chRows ws, cols := chCols ws,
    fmt := fmtD (opFmtB ws) }
/-- Tile OUT. -/
def chOut (ws : List Word) : Tile :=
  { off := fld (wordAt ws 2) 63 43, pitch := 16 * fld (wordAt ws 3) 42 31, soff := 0, rows := chRows ws, cols := chCols ws,
    fmt := fmtD (opFmtOut ws) }
/-- AUX_OFF. -/
def chAux (ws : List Word) : Nat := fld (wordAt ws 2) 42 22
/-- CONST_OFF. -/
def chConst (ws : List Word) : Nat := fld (wordAt ws 3) 63 43
/-- The primitives of a chain. -/
def chPrims (ws : List Word) : List Nat := (List.range (chCount ws)).map (chPrim ws)
/-- Sets that a PSUM combines. -/
def psSets (p : Nat) : Nat := prImm p 5 0 + 1
/-- Does some primitive read a source? -/
def chReads (ws : List Word) (src : Nat) : Bool :=
  (chPrims ws).any (fun p => (popOne (prPop p) && prSrc1 p = src) || (popTwo (prPop p) && prSrc2 p = src))

/-- The byte runs a chain reads in the scratchpad. -/
def chReadRuns (ws : List Word) : List (Nat × Nat) :=
  let psum := (chPrims ws).filter (fun p => prPop p = 0x1C)
  let auxN := (chPrims ws).filterMap (fun p =>
    if (popOne (prPop p) && prSrc1 p = 7) || (popTwo (prPop p) && prSrc2 p = 7) then
      some (if prImm p 8 8 = 0 then chCols ws else chRows ws) else none)
  let usesConst := chReads ws 6 || (chPrims ws).any (fun p => prPop p = 0x18)
  (if chReads ws 0 then tileRuns (chIn0 ws) else [])
    ++ (if chReads ws 1 then tileRuns (chIn1 ws) else [])
    ++ psum.map (fun p => ((chIn1 ws).off, 88 * psSets p * chRows ws * chCols ws))
    ++ auxN.map (fun n => (chAux ws, 4 * n))
    ++ (if usesConst then [(chConst ws, 128)] else [])
/-- The byte runs a chain writes. One that ends in a reduction is checked against the end of the scratchpad with the whole of its ROWS × COLS
OUT, or its slots, though fewer elements are written (R105; DESIGN CHOICE, log 180). -/
def chWriteRuns (ws : List Word) : List (Nat × Nat) :=
  if chPartial ws then slotRuns (chOut ws).off (chOut ws).pitch (chRows ws) (chCols ws) else tileRuns (chOut ws)

/-! ### Encoding checks (R105, R115 to R132, R141) -/

/-- Are these bits of word `i` all zero? -/
def zeroBits (ws : List Word) (i hi lo : Nat) : Bool := fld (wordAt ws i) hi lo = 0
/-- Are these words zero? -/
def zeroWords (ws : List Word) (is : List Nat) : Bool := is.all (fun i => wordAt ws i = 0)
/-- No format, rounding, SAT or SR tag. -/
def noNumeric (ws : List Word) : Bool :=
  zeroBits ws 0 55 39 && zeroBits ws 0 31 16

/-- ROUND and SAT of an output conversion (R72, R74, R81, R116). -/
def roundOk (ws : List Word) (f : Fmt) : Bool :=
  let r := opRound ws
  decide (r ≠ 5 ∧ r ≠ 6) && (r ≠ 4 || decide (fmtBits f ≤ 8)) && opSat ws ≠ 3
    && (opSat ws = 0 || f = .e4m3 || f = .e5m2)
/-- Offsets that are multiples of 16 (R105). -/
def aligned16 (ns : List Nat) : Bool := ns.all (fun n => n % 16 = 0)

/-- LOAD, STORE and ZERO (R120, R121, R130, R176). CACHED has a meaning for a V-lantern's reads only: in any other op it is an unused
field, and 0 (R117, DEDUCED, log 148). -/
def lsOk (kind size : Nat) (ws : List Word) : Bool :=
  let op := opCode ws
  let rows := lsRows ws
  let pitch := fld (wordAt ws 2) 63 32
  noNumeric ws && opParam ws 15 0 = 0 && zeroBits ws 2 10 0 && zeroBits ws 3 37 0 && zeroWords ws [4, 5, 6, 7]
    && aligned16 [(wordAt ws 1).toNat, pitch, lsOff ws 0] && ((kind = 1 && op = 1) || !lsCached ws)
    && (rows = 1 || decide (lsLen ws ≤ 16 * fld (wordAt ws 3) 63 52))
    && (op ≠ 2 || rows = 1 || decide (lsLen ws ≤ pitch))
    && (op ≠ 7 || (wordAt ws 1 = 0 && pitch = 0 && !lsCached ws))
    && runsIn size ((List.range rows).map (fun r => (lsOff ws r, lsLen ws)))

/-- The operand pairs of MMA (R123). -/
def mmaPair (a b : Fmt) : Bool :=
  let one (a b : Fmt) : Bool := match a, b with
    | .bf16, .bf16 | .fp16, .fp16 | .mxint8, .mxint8 | .int8, .int8 | .int8, .int4 | .e2m1, .e2m1 | .int4, .int4 => true
    | .e4m3, .e4m3 | .e4m3, .e5m2 | .e5m2, .e4m3 | .e5m2, .e5m2 => true
    | .e3m2, .e3m2 | .e3m2, .e2m3 | .e3m2, .e2m1 | .e2m3, .e3m2 | .e2m3, .e2m3 | .e2m3, .e2m1 => true
    | _, _ => false
  one a b || one b a

/-- MMA (R105, R122 to R128). -/
def mmaOk (size : Nat) (det : Bool) (ws : List Word) : Bool :=
  match fmtOfCode (opFmtA ws), fmtOfCode (opFmtB ws), fmtOfCode (opFmtOut ws) with
  | some fa, some fb, some fo =>
    let accIn := opParam ws 15 14
    let bias := opParam ws 7 6
    let scale := opParam ws 5 4
    let act := opParam ws 3 1
    let part := opOutPartial ws
    let out := opOut ws
    let plain := opFmtOut ws = 0 && opRound ws = 0 && opSat ws = 0 && scale = 0 && act = 0 && opSrTag ws = 0
    let reads := tileRuns (mmaA ws) ++ tileRuns (mmaB ws)
      ++ (match accIn with
          | 1 => tileRuns (mmaC ws)
          | 2 => slotRuns (mmaC ws).off (mmaC ws).pitch (opM ws) (opN ws)
          | _ => [])
      ++ [(opBiasOff ws, 4 * selLen ws bias), (opScaleOff ws, 4 * selLen ws scale)]
    let writes := if opHold ws then [] else if part then slotRuns out.off out.pitch out.rows out.cols else tileRuns out
    mmaPair fa fb && fo ≠ .fp64 && accIn ≠ 3 && bias ≠ 3 && scale ≠ 3 && decide (act < 4) && zeroBits ws 0 0 0
      && zeroBits ws 1 9 0 && zeroBits ws 2 9 0 && zeroBits ws 3 42 22 && zeroBits ws 3 9 0 && zeroBits ws 4 9 0
      && zeroBits ws 5 0 0 && zeroWords ws [6]
      && aligned16 [(mmaA ws).off, (mmaA ws).soff, (mmaB ws).off, (mmaB ws).soff, (mmaC ws).off, out.off, out.soff,
                    opBiasOff ws, opScaleOff ws]
      && (fmtIsMx fa || (mmaA ws).soff = 0) && (fmtIsMx fb || (mmaB ws).soff = 0)
      && (!fmtIsMx fa || !opTransA ws) && (!fmtIsMx fb || opTransB ws)
      && rowCountOk fa (mmaA ws).cols && rowCountOk fb (mmaB ws).cols
      && (!(part || accIn = 2) || det)
      && (!opHold ws || (plain && !part && bias = 0))
      && (!part || plain)
      && (fmtIsMx fo || out.soff = 0) && (opHold ws || part || (roundOk ws fo && rowCountOk fo (opN ws)))
      && runsIn size reads && runsIn size writes
  | _, _, _ => false

/-- TRANSPOSE, CONVERT and BCAST_ADD share their unused words and shape (R130). -/
def tileUnitOk (size : Nat) (ws : List Word) : Bool :=
  opFmtB ws = 0 && zeroBits ws 1 9 0 && zeroWords ws [2, 3, 6] && zeroBits ws 4 9 0 && zeroBits ws 5 42 22
    && zeroBits ws 5 7 0 && aligned16 [(opSrc ws).off, (opSrc ws).soff, (opOut ws).off, (opOut ws).soff, opBiasOff ws]
    && runsIn size (tileRuns (opSrc ws))

/-- TRANSPOSE. -/
def transposeOk (size : Nat) (ws : List Word) : Bool :=
  match fmtOfCode (opFmtA ws) with
  | some f =>
    let out : Tile := { opOut ws with rows := opN ws, cols := opM ws }
    tileUnitOk size ws && opFmtOut ws = opFmtA ws && !fmtIsMx f && opRound ws = 0 && opSat ws = 0 && opSrTag ws = 0
      && opParam ws 15 0 = 0 && opBiasOff ws = 0 && (opSrc ws).soff = 0 && out.soff = 0
      && rowCountOk f (opN ws) && rowCountOk f (opM ws) && runsIn size (tileRuns out)
  | none => false

/-- The pairs of R86 that are exact for every input, those into FP64 among them. -/
def exactPair (a b : Fmt) : Bool :=
  b = .fp64 || (match a with
    | .bf16 | .fp16 => b = .fp32
    | .e4m3 | .e5m2 | .int8 => b = .fp32 || b = .bf16 || b = .fp16
    | .int4 => b = .fp32 || b = .bf16 || b = .fp16 || b = .e4m3 || b = .e5m2 || b = .int8
    | _ => false)
/-- CONVERT: the movers' pairs, and on a V-lantern FP64 with every format (R86, R130, R176). Of equal formats it copies, which rounds
nothing, and the exact pairs of R86 round nothing either: SR_TAG is 0 (R117). -/
def convertOk (kind size : Nat) (ws : List Word) : Bool :=
  match fmtOfCode (opFmtA ws), fmtOfCode (opFmtOut ws) with
  | some a, some b =>
    tileUnitOk size ws && (moverPair a b || (kind = 1 && (a = .fp64 || b = .fp64))) && opParam ws 15 0 = 0
      && opBiasOff ws = 0 && roundOk ws b && (!(a = b || exactPair a b) || opSrTag ws = 0) && (fmtIsMx a || (opSrc ws).soff = 0) && (fmtIsMx b || (opOut ws).soff = 0)
      && rowCountOk a (opN ws) && rowCountOk b (opN ws) && runsIn size (tileRuns (opOut ws))
  | _, _ => false

/-- BCAST_ADD (R130). Its sum rounds RNE, so that ROUND is an unused field, and 0 (R73, R117, DEDUCED, log 151). -/
def bcastOk (size : Nat) (ws : List Word) : Bool :=
  match fmtOfCode (opFmtA ws), fmtOfCode (opFmtOut ws) with
  | some a, some b =>
    let n := if opParam ws 15 15 = 0 then opN ws else opM ws
    tileUnitOk size ws && (a = .bf16 || a = .fp16 || a = .fp32 || a = .e4m3 || a = .e5m2) && b ≠ .fp64
      && opParam ws 14 0 = 0 && opRound ws = 0 && roundOk ws b && (opSrc ws).soff = 0 && (fmtIsMx b || (opOut ws).soff = 0)
      && rowCountOk a (opN ws) && rowCountOk b (opN ws) && runsIn size (tileRuns (opOut ws) ++ [(opBiasOff ws, 4 * n)])
  | _, _ => false

/-- ALLOC, WAIT, SIGNAL and INVAL (R131, R132). -/
def controlOk (size : Nat) (ws : List Word) : Bool :=
  noNumeric ws && zeroWords ws [3, 4, 5, 6, 7] &&
    (match opCode ws with
    | 8 =>
      let a := opParam ws 5 0
      let off := fld (wordAt ws 2) 63 43
      opParam ws 14 6 = 0 && decide (6 ≤ a) && decide (a ≤ 21) && wordAt ws 1 ≠ 0 && zeroBits ws 2 42 0
        && aligned16 [off] && runsIn size [(off, 8)]
    | 9 => opParam ws 12 0 = 0 && decide (opScope ws ≤ 4) && zeroBits ws 1 63 14
    | 10 => opParam ws 11 0 = 0 && decide (opScope ws ≤ 4) && zeroBits ws 1 63 14
    | _ => opParam ws 14 0 = 0 && (opParam ws 15 15 = 0 || zeroWords ws [1, 2]))

/-- Is a primitive well formed, with the IMM bits it does not use zero (R117, R137, R139)? `cols` is COLS as a count. A primitive that is
not elementwise has no IMM bits for a CONST or AUX source: those it has for itself serve, and the others stay 0 (DESIGN CHOICE,
log 145). -/
def primOk (cols p : Nat) : Bool :=
  let pop := prPop p
  let useC := (popOne pop && prSrc1 p = 6) || (popTwo pop && prSrc2 p = 6)
  let useA := (popOne pop && prSrc1 p = 7) || (popTwo pop && prSrc2 p = 7)
  let dstOk := prDst p = 0 || decide (2 ≤ prDst p ∧ prDst p ≤ 5)
  let srcOk := (popTwo pop || prSrc2 p = 0) && (popOne pop || prSrc1 p = 0)
  let rest (used : List Nat) := (List.range 9).all (fun i => used.contains i || prImm p i i = 0)
  let immOk :=
    if pop ≤ 0x12 then rest ((if useC then [0, 1, 2, 3, 4] else []) ++ (if useA then [8] else []))
    else match pop with
      | 0x13 =>
        (match fmtOfCode (prImm p 8 5) with
        | some f => rowCountOk f cols && prImm p 4 2 ≠ 5 && prImm p 4 2 ≠ 6 && (prImm p 4 2 ≠ 4 || decide (fmtBits f ≤ 8))
            && prImm p 1 0 ≠ 3 && (prImm p 1 0 = 0 || f = .e4m3 || f = .e5m2)
        | none => false)
      | 0x14 | 0x15 | 0x16 => rest [8]
      | 0x18 => rest [0, 1, 2, 3, 4, 8]
      | 0x1B => rest [7, 8]
      | 0x1C => rest [0, 1, 2, 3, 4, 5]
      | _ => rest []
  decide (1 ≤ pop ∧ pop ≤ 0x1C) && dstOk && srcOk && immOk

/-- Does every primitive read only T registers that an earlier one wrote? SORT with IMM 7 also writes T3 (R141). -/
def chainOrder : List Nat → List Nat → Bool
  | _, [] => true
  | written, p :: rest =>
    let pop := prPop p
    let reads := (if popOne pop then [prSrc1 p] else []) ++ (if popTwo pop then [prSrc2 p] else [])
      ++ (if popReadsDst pop then [prDst p] else [])
    let tOk := reads.all (fun r => !(decide (2 ≤ r ∧ r ≤ 5)) || written.contains r)
    tOk && chainOrder (prDst p :: (if pop = 0x1B ∧ prImm p 7 7 = 1 then [5] else []) ++ written) rest

/-- Does a primitive round its result (R138)? -/
def popRounds (pop : Nat) : Bool := !([5, 6, 8, 9, 0x15, 0x16, 0x19, 0x1A, 0x1B].contains pop)
/-- Does a primitive sum in a long accumulator under DET (R97, R140)? -/
def popSums (pop : Nat) : Bool := [0x14, 0x17, 0x18, 0x1C].contains pop

/-- CHAIN (R136 to R141). A chain that writes partials converts nothing: its SR_TAG is 0 unless an earlier primitive rounds, its ROUND is
0 unless an earlier one rounds a long accumulator (R73, R117). A chain has no scale planes, so its tiles take no MX format (log 22). -/
def chainOk (size : Nat) (det : Bool) (ws : List Word) : Bool :=
  match fmtOfCode (opFmtA ws), fmtOfCode (opFmtB ws), fmtOfCode (opFmtOut ws) with
  | some a, some b, some o =>
    let prims := chPrims ws
    let last := prims.getLastD 0
    let beyondCount := (List.range 8).all (fun i => decide (i < chCount ws) || chPrim ws i = 0)
    let psum := prims.any (fun p => prPop p = 0x1C)
    !fmtIsMx a && !fmtIsMx b && !fmtIsMx o && opParam ws 11 0 = 0 && zeroBits ws 1 9 0 && zeroBits ws 2 9 0
      && zeroBits ws 3 16 0 && beyondCount && prims.all (primOk (chCols ws)) && chainOrder [] prims
      && prims.dropLast.all (fun p => prDst p ≠ 0) && prDst last = 0
      && aligned16 [(chIn0 ws).off, (chIn1 ws).off, (chOut ws).off, chAux ws, chConst ws]
      && (!chReads ws 1 || fld (wordAt ws 2) 21 10 ≠ 0)
      && (!psum || fld (wordAt ws 2) 21 10 = 0)
      && (!chPartial ws || ((prPop last = 0x14 || prPop last = 0x1C) && opFmtOut ws = 0 && det
            && (opRound ws = 0 || prims.dropLast.any (fun p => popSums (prPop p))) && opSat ws = 0
            && (opSrTag ws = 0 || prims.dropLast.any (fun p => popRounds (prPop p)))))
      && (!psum || (det && !chWide ws))
      && roundOk ws o && rowCountOk a (chCols ws) && rowCountOk b (chCols ws) && rowCountOk o (chCols ws)
      && runsIn size (chReadRuns ws) && runsIn size (chWriteRuns ws)
  | _, _, _ => false

/-- May a strand of this kind run the opcode (R119, R176)? -/
def opForKind (kind op : Nat) : Bool :=
  match kind with
  | 0 => [1, 2, 3, 4, 5, 6, 7, 8, 9, 10].contains op
  | 1 => [1, 2, 4, 5, 7, 8, 9, 10, 11, 16].contains op
  | _ => [1, 2, 5, 7, 9, 10].contains op

/-- Every encoding rule of one tile op, for a strand of a kind (0 M, 1 V, 2 a DMA op) in a stitch's resolved mode. -/
def tileOpOk (kind : Nat) (det : Bool) (ws : List Word) : Bool :=
  let size := scratchSize kind
  opForKind kind (opCode ws) && zeroBits ws 0 37 32 &&
    (match opCode ws with
    | 1 | 2 | 7 => lsOk kind size ws
    | 3 => mmaOk size det ws
    | 4 => transposeOk size ws
    | 5 => convertOk kind size ws
    | 6 => bcastOk size ws
    | 8 | 9 | 10 | 11 => controlOk size ws
    | 16 => chainOk size det ws
    | _ => false)

/-- The rule of held accumulations over a strand (R125): `open_` is what each engine holds open. -/
def holdOk : List (Nat × List Nat) → List (List Word) → Bool
  | open_, [] => open_.isEmpty
  | open_, ws :: rest =>
    if opCode ws ≠ 3 then holdOk open_ rest
    else
      let e := opEngine ws
      let key := [opM ws, opN ws, opFmtA ws, opFmtB ws]
      let was := open_.find? (fun p => p.1 = e)
      let ok := match was with | some p => p.2 == key && opParam ws 15 14 = 0 | none => true
      let others := open_.filter (fun p => p.1 ≠ e)
      ok && holdOk (if opHold ws then (e, key) :: others else others) rest

/-- Does an op hold an FP64 reduction (R100, R139)? -/
def fp64Reduces (ws : List Word) : Bool :=
  opCode ws = 16 && chWide ws && (chPrims ws).any (fun p => [0x14, 0x15, 0x16, 0x17, 0x18].contains (prPop p))

/-! ### What an op reads and writes in the scratchpad (R143) -/

/-- Byte runs an op reads. -/
def opReads (ws : List Word) : List (Nat × Nat) :=
  match opCode ws with
  | 2 => (List.range (lsRows ws)).map (fun r => (lsOff ws r, lsLen ws))
  | 3 =>
    tileRuns (mmaA ws) ++ tileRuns (mmaB ws)
      ++ (match opParam ws 15 14 with
          | 1 => tileRuns (mmaC ws)
          | 2 => slotRuns (mmaC ws).off (mmaC ws).pitch (opM ws) (opN ws)
          | _ => [])
      ++ [(opBiasOff ws, 4 * selLen ws (opParam ws 7 6)), (opScaleOff ws, 4 * selLen ws (opParam ws 5 4))]
  | 4 | 5 => tileRuns (opSrc ws)
  | 6 => tileRuns (opSrc ws) ++ [(opBiasOff ws, 4 * (if opParam ws 15 15 = 0 then opN ws else opM ws))]
  | 16 => chReadRuns ws
  | _ => []

/-- Byte runs that an op of an S-lantern's DMA engine writes: LOAD, ZERO and CONVERT (R176). -/
def dmaWrites (ws : List Word) : List (Nat × Nat) :=
  match opCode ws with
  | 1 | 7 => (List.range (lsRows ws)).map (fun r => (lsOff ws r, lsLen ws))
  | 5 => tileRuns (opOut ws)
  | _ => []

/-- Do runs share a byte? -/
def runsMeet (xs ys : List (Nat × Nat)) : Bool :=
  xs.any (fun p => ys.any (fun q => decide (p.1 < q.1 + q.2) && decide (q.1 < p.1 + p.2)))
/-- Must a DMA op wait for an earlier one: it reads what that one writes, or writes what that one reads or writes (R143)? -/
def opsMeet (before ws : List Word) : Bool :=
  runsMeet (opReads ws) (dmaWrites before) || runsMeet (dmaWrites ws) (opReads before ++ dmaWrites before)

end Sys2Proof.Machine
end

