-- ==== Sys2Proof/Machine/Package.lean ====
section
/-! DEFINITION. The commands of the package (R40 to R59, R611) and of the bobbins (R236 to R248): quarter stores, merge
windows, wick time, PLLs, lantern wakes, bobbin accesses, scratchpad windows. A request to a quarter whose PLL is stopped
is held until the PLL locks (R53). -/

namespace Sys2Proof.Machine

/-- A requester outside the engines: device traffic of no hoop. -/
def devWho : Who := { eng := .fe, hoop := none, ctx := none, flow := none }

/-- Hold a request for a quarter's PLL, which starts (R53). -/
def holdReq (s : State) (q : Nat) (r : HeldReq) : State :=
  { s with clk := { s.clk with held := s.clk.held ++ [(q, r)] } }

/-- Answer a refusal. -/
def refuse (s : State) (st : Status) : State := reply s [] false (statusCode st)

/-- Answer a read that returned data. -/
def answerData (r : Data × State) : State := reply r.2 r.1.bytes r.1.poison 0

/-- Read bytes of a quarter store, or hold the read (R41, R42, R53). -/
def quarterStoreRead (s : State) (q off len : Nat) : State :=
  if 4 ≤ q ∨ 0x4000000 < off + len then refuse s .rights
  else
    match needClock s q with
    | .ok _ s => answerData (readRun s devWho (storeBase q + off) len 0)
    | o => holdReq o.state q (.storeRead q off len)
/-- QUARTER_STORE_READ. -/
def execQuarterStoreRead (q off len : Nat) (s : State) : Host.Outcome State Fault Refusal :=
  .next (quarterStoreRead s q off len)

/-- MERGE_WINDOW_EXPIRE: the 64 cycles of a line's window are over (R41). -/
def mergeWindowExpire (s : State) (q line : Nat) : State := closeWindow s (storeBase q + alignDown line 128)
/-- MERGE_WINDOW_EXPIRE. -/
def execMergeWindowExpire (q line : Nat) (s : State) : Host.Outcome State Fault Refusal := .next (unlessSafe s (mergeWindowExpire s q line))

/-- Write bytes of a quarter store, or hold the write (R43, R53, R611). -/
def quarterStoreWrite (s : State) (q off : Nat) (data : List Byte) (poison : Bool) : State :=
  if 4 ≤ q ∨ 0x4000000 < off + data.length then refuse s .rights
  else
    match needClock s q with
    | .ok _ s => reply (writeRun s devWho (storeBase q + off) data poison) [] false 0
    | o => holdReq o.state q (.storeWrite q off data poison)
/-- QUARTER_STORE_WRITE. -/
def execQuarterStoreWrite (q off : Nat) (data : List Byte) (poison : Bool) (s : State) : Host.Outcome State Fault Refusal :=
  .next (quarterStoreWrite s q off data poison)

/-- The clocks' part of WICK_TIME_ADVANCE: one oscillator cycle, 25 ns, while a supply is present (R48, R49). The timestamp counter of a
quarter whose PLL runs counts with it (log 23). At a 1 µs boundary written SEL_CONFIG rows take effect (R562). -/
def wickTick (s : State) : State :=
  if s.power.started then
    let ts := s.clk.ts.zipIdx.map (fun p => if pll s p.2 = .running then p.1 + 25 else p.1)
    let s := { s with clk := { s.clk with wick := s.clk.wick + 25, ts := ts } }
    if s.clk.wick % 1000 = 0 then
      let s := s.tele.selNew.foldl (fun s p => setReg s 0x600002 p.1 p.2.toNat) s
      { s with tele := { s.tele with selNew := [] } }
    else s
  else s
/-- TIMESTAMP_REALIGN: a running quarter's counter takes wick time; it never goes back (R50). -/
def timestampRealign (s : State) (q : Nat) : State :=
  if pll s q = .running then
    { s with clk := { s.clk with ts := s.clk.ts.set q (max (s.clk.ts.getD q 0) s.clk.wick) } }
  else s
/-- TIMESTAMP_REALIGN. -/
def execTimestampRealign (q : Nat) (s : State) : Host.Outcome State Fault Refusal := .next (timestampRealign s q)

/-- Is a lantern of a quarter awake or waking? -/
def lanternUp (x : Lantern) : Bool := match x.power with | .awake | .waking _ => true | _ => false
/-- Is a place in a quarter's store, bobbins, mailbox page or scratchpads? -/
def placeIn (q : Nat) (p : Place) : Bool :=
  match p with
  | .loc a => decide (a < 0xD000000000) && decide (addrQuarter a = q)
  | .peer _ _ => false
/-- Has a quarter work: an awake lantern, an engine at work, a unit scrub or a remap copy, a request outstanding (R52)? -/
def quarterBusy (s : State) (q : Nat) : Bool :=
  s.lan.any (fun p => decide (lanQuarter p.1 = q) && lanternUp p.2)
    || s.movers.any (fun p => decide (p.1 / 16 = q)) || s.moverQ.any (fun p => decide (p.1 = q))
    || s.colls.any (fun p => decide (p.1 / 2 = q))
    || s.slots.any (fun p => decide (p.1 / 64 = q) && !(p.2.reqs.isEmpty && p.2.out.isEmpty && p.2.credits.isEmpty))
    || s.mem.mail.any (fun m => decide (m.1 / 64 = q))
    || s.fab.picots.any (fun p => placeIn q p.place || decide (engQuarter p.eng = some q ∧ p.sender = none))
    || s.scrubs.any (fun p => decide (bobQuarter p.1 = q) && !p.2.isEmpty)
    || s.darner.queue.any (fun r => decide (bobQuarter r.b = q))
    || s.clk.held.any (fun p => decide (p.1 = q))
    || s.mem.merges.any (fun m => decide (addrQuarter m.addr = q))

/-- PLL_STOP: the Mantle stops the PLL of a quarter that has no work (R52). -/
def pllStop (s : State) (q : Nat) : State :=
  if pll s q = .running ∧ quarterBusy s q = false then setPll s q .stopped else s
/-- PLL_STOP. -/
def execPllStop (q : Nat) (s : State) : Host.Outcome State Fault Refusal := .next (pllStop s q)

/-- May the requester's hoop use a lantern's scratchpad window? -/
def reqHoop (s : State) (who : Req) : Option Nat := match who with | .vf n => vfHoop s n | _ => none

/-- The identity of an access through a scratchpad window. -/
def windowWho (s : State) (who : Req) : Who := { devWho with hoop := reqHoop s who }
/-- Is the requester a VF with no hoop? -/
def windowForeign (s : State) (who : Req) : Bool := match who with | .vf v => (vfHoop s v).isNone | _ => false
/-- The access itself, its checks passed. -/
def windowGo (s : State) (w : Who) (at_ n : Nat) (write : Option (List Byte)) : State :=
  match write with
  | some d => reply (writeRun s w at_ d false) [] false 0
  | none => answerData (readRun s w at_ n 0)

/-- SCRATCHPAD_WINDOW_ACCESS: a read or a write of a lantern's window; a gated lantern wakes first (R58, R108, R284). -/
def scratchpadWindowAccess (s : State) (who : Req) (l off : Nat) (write : Option (List Byte)) (len : Nat) : State :=
  let n := (write.map List.length).getD len
  if 1024 ≤ l ∨ 0x200000 < off + n ∨ windowForeign s who = true then refuse s .rights
  else
    match localReady s (windowWho s who) (scratchBase l + off) n write.isSome false with
    | .fail st s => refuse s st
    | .wait s => holdReq s (lanQuarter l) (.window who l off write len)
    | .ok _ s =>
      let s := hostCross s who (if write.isSome then 1 else 0) (windowWho s who).flow n
      windowGo s (windowWho s who) (scratchBase l + off) n write
/-- SCRATCHPAD_WINDOW_ACCESS. -/
def execScratchpadWindowAccess (who : Req) (l off : Nat) (write : Option (List Byte)) (len : Nat) (s : State) :
    Host.Outcome State Fault Refusal := .next (scratchpadWindowAccess s who l off write len)

/-- BOBBIN_READ: bytes of a bobbin with their carry check (R242 to R245, R247). In safe state the bobbins are in self-refresh and serve
nothing (R500, log 170). -/
def bobbinRead (s : State) (b off len : Nat) : State :=
  if 12 ≤ b ∨ 0xFC0000000 < off + len ∨ s.snuffer.safe = true then refuse s .rights
  else
    match needClock s (bobQuarter b) with
    | .ok _ s => answerData (readRun s devWho (b * 0x1000000000 + off) len 0)
    | o => holdReq o.state (bobQuarter b) (.bobbinRead b off len)
/-- BOBBIN_READ. -/
def execBobbinRead (b off len : Nat) (s : State) : Host.Outcome State Fault Refusal := .next (bobbinRead s b off len)

/-- BOBBIN_WRITE: whole blocks are stored with a new check; a part of a block waits at the controller for its merge
(R239, R240). Memory that an image holds is not written (R157). -/
def bobbinWrite (s : State) (b off : Nat) (data : List Byte) (poison : Bool) : State :=
  let a := b * 0x1000000000 + off
  if 12 ≤ b ∨ 0xFC0000000 < off + data.length ∨ s.snuffer.safe = true ∨ imageHolds s a data.length = true then refuse s .rights
  else
    match needClock s (bobQuarter b) with
    | .ok _ s =>
      let s := (cut 512 a data.length).foldl (fun s p =>
        let bs := (data.drop (p.1 - a)).take p.2
        if p.2 = 512 then writeBlock s devWho p.1 bs poison
        else
          let s := clearResv s p.1 p.2
          { s with mem := { s.mem with merges := s.mem.merges ++ [{ addr := p.1, data := bs, poison := poison }] } }) s
      reply s [] false 0
    | o => holdReq o.state (bobQuarter b) (.bobbinWrite b off data poison)
/-- BOBBIN_WRITE. -/
def execBobbinWrite (b off : Nat) (data : List Byte) (poison : Bool) (s : State) : Host.Outcome State Fault Refusal :=
  .next (bobbinWrite s b off data poison)

/-- PARTIAL_BLOCK_MERGE: the oldest partial write waiting at a bobbin's controller is merged (R240, R241). -/
def partialBlockMerge (s : State) (b : Nat) : State :=
  match s.mem.merges.find? (fun m => decide (m.addr / 0x1000000000 = b)) with
  | none => s
  | some m =>
    performMerge { s with mem := { s.mem with merges := dropFirst (fun x => x == m) s.mem.merges } } m
/-- PARTIAL_BLOCK_MERGE. -/
def execPartialBlockMerge (b : Nat) (s : State) : Host.Outcome State Fault Refusal := .next (unlessSafe s (partialBlockMerge s b))

/-! ### BAR4 (R367, R544, R537) -/

/-- Base of a function's BAR4. -/
def bar4Base (s : State) (who : Req) : Nat := regN s 0x900007 (reqIndex who)
/-- Size of a function's BAR4: a power of two from 1 GiB to 1 TiB (R364). -/
def bar4Size (who : Req) : Nat := 2 ^ (30 + Config.bar4Log (reqIndex who) % 11)
/-- The 28 bytes of a progress mark before its CRC (R534). -/
def markBody (m : Mark) : List Byte :=
  leBytes 8 m.seq ++ leBytes 1 m.src ++ leBytes 1 m.dst ++ leBytes 1 m.phase ++ leBytes 1 (b1 m.wipePending) ++ leBytes 8 m.counter
    ++ leBytes 8 m.hash
/-- The 32 bytes of a progress mark, its CRC-32C last (R534). -/
def markBytes (m : Mark) : List Byte := markBody m ++ leBytes 4 (crc32c (markBody m))
/-- A field of a mark. -/
def markFld (bs : List Byte) (i n : Nat) : Nat := leNat ((bs.drop i).take n)
/-- The mark that a copy holds, when the copy is valid: its CRC checks (R534). -/
def parseMark (bs : List Byte) : Option Mark :=
  if bs.length = 32 ∧ markFld bs 28 4 = crc32c (bs.take 28) then
    some { seq := markFld bs 0 8, src := markFld bs 8 1, dst := markFld bs 9 1, phase := markFld bs 10 1,
           wipePending := decide (markFld bs 11 1 % 2 = 1), counter := markFld bs 12 8, hash := markFld bs 20 8 }
  else none
/-- The valid copy with the higher number (R536). -/
def latestMark (s : State) : Option Mark :=
  match parseMark s.keeper.markA, parseMark s.keeper.markB with
  | some a, some b => if a.seq < b.seq then some b else some a
  | some a, none => some a
  | none, b => b
/-- WIPE_PENDING. -/
def wipePending (s : State) : Bool := ((latestMark s).map (fun m => m.wipePending)).getD false
/-- A transition is in progress: the latest mark's phase is below 7 (R536). -/
def transitioning (s : State) : Bool := ((latestMark s).map (fun m => decide (m.phase < 7))).getD false
/-- Write a progress mark: to copy A when its number is even, to copy B when odd (R536). -/
def writeMark (s : State) (m : Mark) : State :=
  if m.seq % 2 = 0 then { s with keeper := { s.keeper with markA := markBytes m } }
  else { s with keeper := { s.keeper with markB := markBytes m } }

/-- Does one BAR4 access of `n` bytes obey R367, R537 and R544? -/
def bar4Ok (s : State) (who : Req) (a n : Nat) : Bool :=
  let last := a + n - 1
  let hbm := decide (a < 0xC000000000)
  let exists_ := decide (last < 0xD000000000) && (region s a).isSome && decide (region s a = region s last)
  let held := hbm && !(usableHbm a && usableHbm last && decide (a / 0x1000000000 = last / 0x1000000000))
  let wiped := wipePending s && hbm
  exists_ && !held && !wiped &&
    (match who with
    | .pf _ | .mgmt => !(s.keeper.conf && hbm)
    | .vf v =>
      match vfHoop s v with
      | none => false
      | some h =>
        match region s a with
        | some .hbm => boundRun s h a n
        | some .store => hoopQmask s h (addrQuarter a) && hoopQmask s h (addrQuarter last)
        | some .mailbox => hoopQmask s h (addrQuarter a) && hoopQmask s h (addrQuarter last)
        | some .scratch => lanternHoop s ((a - 0xC800000000) / 0x200000) == some h
        | _ => false)

/-- The identity of a BAR4 access at memory: the hoop a VF fronts; a PF's is of no hoop. -/
def bar4Who (s : State) (who : Req) : Who :=
  { eng := .host who, hoop := reqHoop s who, ctx := none, flow := (reqHoop s who).bind (houseFlow s) }

/-- Is a posted BAR4 write of a function held at a quarter? A read of that quarter does not pass it. -/
def writeHeldAt (s : State) (who : Req) (q : Nat) : Bool :=
  s.clk.held.any (fun p => decide (p.1 = q) && (match p.2 with | .bar4Write w _ _ => decide (w = who) | _ => false))

/-- Bytes of one swap image of a descriptor's widths (R427). -/
def imageBytes (d : List Word) : Nat :=
  let w (k : Nat) := (descLanterns d k).length
  5242880 * w 0 + 2097152 * w 1 + 1048576 * w 2
/-- Where a context's image lies (R427). -/
def swapImage (s : State) (c : Nat) : Nat :=
  let h := (context s c).hoop
  (cell s 0x800007 h 0).toNat + (context s c).image.getD 0 * imageBytes (hoop s h).desc
/-- Does a run of memory meet an image that is in use? The spec gives an image no layout: its bytes read as free values (log 58). -/
def imageMeets (s : State) (a n : Nat) : Bool :=
  s.ctxs.any (fun p => p.2.image.isSome
    && decide (a < swapImage s p.1 + imageBytes (hoop s p.2.hoop).desc) && decide (swapImage s p.1 < a + n))

/-- BAR4_READ: refused with Unsupported Request under R367, else data, poisoned as the block is (R245). -/
def bar4Read (s : State) (who : Req) (off len : Nat) : State :=
  let s := wakeUp s
  let a := bar4Base s who + off
  if bar4Size who < off + len || !bar4Ok s who a len then refuse s .rights
  else
    match localReady s (bar4Who s who) a len false false with
    | .fail st s => refuse s st
    | .wait s => holdReq s (addrQuarter a) (.bar4Read who off len)
    | .ok _ s =>
      if writeHeldAt s who (addrQuarter a) then holdReq s (addrQuarter a) (.bar4Read who off len)
      else
        let r := readRun (hostCross s who 0 (bar4Who s who).flow len) (bar4Who s who) a len 0
        if imageMeets s a len then (let f := freeBytes len r.2; answerData ({ r.1 with bytes := f.1 }, f.2)) else answerData r
/-- BAR4_READ. -/
def execBar4Read (who : Req) (off len : Nat) (s : State) : Host.Outcome State Fault Refusal := .next (bar4Read s who off len)

/-- BAR4_WRITE: a write that R367 refuses is dropped and counted; an image's destination is not written (R157, R377). -/
def bar4Write (s : State) (who : Req) (off : Nat) (data : List Byte) : State :=
  let s := wakeUp s
  let a := bar4Base s who + off
  if bar4Size who < off + data.length || !bar4Ok s who a data.length then bump s 0x900014 0
  else
    match localReady s (bar4Who s who) a data.length true false with
    | .fail _ s => bump s 0x900014 0
    | .wait s => holdReq s (addrQuarter a) (.bar4Write who off data)
    | .ok _ s => writeRun (hostCross s who 1 (bar4Who s who).flow data.length) (bar4Who s who) a data false
/-- BAR4_WRITE. -/
def execBar4Write (who : Req) (off : Nat) (data : List Byte) (s : State) : Host.Outcome State Fault Refusal :=
  .next (bar4Write s who off data)

/-- A write of a quarter's memory as device traffic, with no answer, such as a telemetry record. It is held for a stopped PLL (R53). -/
def deviceWrite (s : State) (a : Nat) (data : List Byte) : State :=
  if deviceClosed s a data.length then s
  else
    match needClock s (addrQuarter a) with
    | .ok _ s => writeRun s devWho a data false
    | o => holdReq o.state (addrQuarter a) (.device a data)

/-- The identity of a .mem access (R435). -/
def memWho (s : State) (p h : Nat) : Who := { eng := .host (.pf p), hoop := some h, ctx := none, flow := houseFlow s h }
/-- A .mem access to a hoop's memory, which a port's decoder serves: a read outside the rules answers poison, a write is dropped, and
both are counted (R363). It is held for a stopped PLL or a remap's copy (R53, R570); memory that an image holds is not written (R157). -/
def cxlAccess (s : State) (p h a len : Nat) (write : Option (List Byte)) : State :=
  let who := memWho s p h
  match write with
  | none =>
    match localReady s who a len false false with
    | .fail _ s => reply (countP s p 5 1) (List.replicate len 0) true 0
    | .wait s => holdReq s (addrQuarter a) (.cxl p h a len none)
    | .ok _ s => answerData (readRun (hostCross s (.pf p) 0 who.flow len) who a len 0)
  | some d =>
    if s.snuffer.safe || deviceResetting s || keyRetired s who a || imageHolds s a d.length then countP s p 5 1
    else
      match needClock s (addrQuarter a) with
      | .ok _ s =>
        if meetsRemap s a d.length then holdReq s (addrQuarter a) (.cxl p h a len write)
        else writeRun (hostCross s (.pf p) 1 who.flow d.length) who a d false
      | o => holdReq o.state (addrQuarter a) (.cxl p h a len write)

/-- An access of the debug port to memory below the host apertures: refused as any access is, held for a stopped PLL and a gated
lantern (R53, R58, R527). -/
def debugLocal (s : State) (a len : Nat) (write : Option (List Byte)) : State :=
  let n := (write.map List.length).getD len
  match localReady s devWho a n write.isSome false with
  | .fail st s => refuse s st
  | .wait s => holdReq s (addrQuarter a) (.debug a len write)
  | .ok _ s => windowGo s devWho a n write

/-- Perform a request that was held. -/
def performHeld (s : State) (r : HeldReq) : State :=
  match r with
  | .storeRead q off len => quarterStoreRead s q off len
  | .storeWrite q off data poison => quarterStoreWrite s q off data poison
  | .window who l off write len => scratchpadWindowAccess s who l off write len
  | .bobbinRead b off len => bobbinRead s b off len
  | .bobbinWrite b off data poison => bobbinWrite s b off data poison
  | .bar4Read who off len => bar4Read s who off len
  | .bar4Write who off data => bar4Write s who off data
  | .device a data => deviceWrite s a data
  | .cxl p h a len write => cxlAccess s p h a len write
  | .debug a len write => debugLocal s a len write

/-- Deliver the requests held for a quarter, in arrival order. One that must still wait is held again. -/
def deliverHeld (s : State) (q : Nat) : State :=
  let mine := s.clk.held.filter (fun p => decide (p.1 = q))
  mine.foldl (fun s p => performHeld s p.2)
    { s with clk := { s.clk with held := s.clk.held.filter (fun p => decide (p.1 ≠ q)) } }

/-- PLL_LOCK: the clocks run, the timestamp counter stands at wick time again (R50), the wake is counted, and the held requests are
delivered (R53). -/
def pllLock (s : State) (q : Nat) : State :=
  if pll s q = .starting ∧ coreRails s = true then
    let spent := (s.clk.wick - s.clk.since.getD q 0) / 1000
    let s := countQ (countQ (setPll s q .running) q 1 1) q 2 spent
    deliverHeld { s with clk := { s.clk with ts := s.clk.ts.set q (max (s.clk.ts.getD q 0) s.clk.wick) } } q
  else s

/-- The SRAM of a lantern is lost: scratchpad, poison, caches and L1s zeroed (R56, R57). -/
def clearLantern (s : State) (l : Nat) : State :=
  modLantern (clearScratch s l) l (fun x => { x with
    cache := [], engines := [none, none, none, none], chain := [[], [], [], []],
    cores := x.cores.map (fun c => { c with l1 := [], il1 := [] }) })

/-- Complete a re-bind: the hoop is ACTIVE, RESULT is DONE, the count rises (R325, HOOP_STATUS). -/
def rebindDone (s : State) (h : Nat) : State :=
  let s := setRegFld (setRegFld s 0x300003 h 63 60 1) 0x300003 h 59 56 0
  setRegFld s 0x300003 h 31 0 (fld (cell s 0x300003 h 0) 31 0 + 1)

/-- A lantern that joined its hoop at a re-bind is awake; when it was the last, the re-bind is complete (R59, R325). -/
def joinAwake (s : State) (l : Nat) : State :=
  match (List.range 64).find? (fun h => (hoop s h).joining.contains l) with
  | none => s
  | some h =>
    let left := (hoop s h).joining.filter (fun x => decide (x ≠ l))
    let s := modHoop s h (fun x => { x with joining := left })
    if left.isEmpty then rebindDone s h else s

/-- LANTERN_WAKE_DONE: a waking lantern is awake once its quarter's clocks run; after cold gating its scratchpad and
caches are zero (R57 to R59). Held window accesses are then delivered. -/
def lanternWakeDone (s : State) (l : Nat) : State :=
  match (lantern s l).power with
  | .waking fromCold =>
    if !coreRails s then s
    else match needClock s (lanQuarter l) with
    | .ok _ s =>
      let s := if fromCold then clearLantern s l else s
      deliverHeld (joinAwake (modLantern s l (fun x => { x with power := .awake, idleAt := max x.idleAt (wick s) })) l) (lanQuarter l)
    | o => o.state
  | _ => s

/-- Has a lantern nothing to do: no strand on it or in its run list, no DMA op? -/
def lanternIdle (s : State) (l : Nat) : Bool :=
  let x := lantern s l
  x.cur.isNone && x.runList.isEmpty && x.dma.isEmpty

/-- LANTERN_GATE: a bound lantern idle for GATE_AFTER_NS is gated with retention; one bound to no hoop is cold-gated
(R55, R56, R465). -/
def lanternGate (s : State) (l : Nat) : State :=
  let x := lantern s l
  if !(decide (x.power = .awake)) || !lanternIdle s l then s
  else if (lanternHoop s l).isNone then modLantern (clearLantern s l) l (fun x => { x with power := .cold })
  else if x.idleAt + regN s 0x201005 0 ≤ wick s then modLantern s l (fun x => { x with power := .retained })
  else s
/-- LANTERN_GATE. -/
def execLanternGate (l : Nat) (s : State) : Host.Outcome State Fault Refusal := .next (unlessSafe s (lanternGate s l))

end Sys2Proof.Machine
end

