-- ==== Sys2Proof/Machine/Work.lean ====
section
/-! DEFINITION. Work in flight: how an entry completes (R387, R392), what the front end reads for it (R383), when the
engines may run, and the time that strands charge (R419, R421, R433). -/

namespace Sys2Proof.Machine

/-! ### Flights -/

/-- Is an entry in flight in a phase? -/
def inPhase (s : State) (q e : Nat) (ph : Phase) : Bool :=
  match flight s q e with | some f => decide (f.phase = ph) | none => false

/-- May an entry's SIG_FENCE be signalled by its context (R410, R411)? To one that is not VALID the signal is discarded, and the entry
completes as it otherwise would (R613). -/
def sigFenceOk (s : State) (q : Nat) (ws : List Word) : Bool :=
  !entSignals ws || !(fence s (entSigFence ws)).valid || (fenceMay s (entSigFence ws) (queueCtx s q)
    && !(isQf2 (queue s q) && (fence s (entSigFence ws)).alias_))

/-- An entry's work completes: its status is the highest contributed, RIGHTS among them when its SIG_FENCE may not be signalled, and its
record waits its turn, and for a confirming read on each port over which the work wrote host memory (R388, R390, R392, R410). A status
that no lantern contributed leaves ORIGIN 0xFFFF (R387). -/
def finishFlight (s : State) (q e : Nat) (st : Status) : State :=
  match flight s q e with
  | none => s
  | some f =>
    if f.phase = .done ∨ f.phase = .recorded then s
    else
      let st := if sigFenceOk s q f.words then st else statusMax st .rights
      let raised := decide (statusRank f.status < statusRank st)
      let s := modFlight s q e (fun f => { f with
        phase := .done, status := statusMax f.status st, origin := if raised then 0xFFFF else f.origin, doneAt := wick s })
      let s := modQueue s q (fun x => { x with order := x.order ++ [e], moved := wick s })
      showActivity (f.wrote.foldl (fun s p => issueConfirm s p (.work q e)) s) (queueCtx s q)

/-- A part of an entry's work contributes a status; `origin` is a logical lantern ID (R387, R392). -/
def contribute (s : State) (q e : Nat) (st : Status) (origin : Nat) : State :=
  modFlight s q e (fun f =>
    if statusRank f.status < statusRank st then { f with status := st, origin := origin } else f)

/-- Has every strand of a stitch finished? -/
def strandsDone (t : Stitch) : Bool := t.strands.all (fun d => d.finished)
/-- Complete a stitch whose strands have all finished (R147). -/
def stitchCheck (s : State) (q e : Nat) : State :=
  match flight s q e with
  | none => s
  | some f =>
    match f.stitch with
    | some t => if strandsDone t then finishFlight s q e .ok else s
    | none => s

/-- The front end's identity in a read for a queue's entry. -/
def feAcc (s : State) (q cls : Nat) : Acc := accOf s .fe (queueCtx s q) cls q

/-- A front-end read: poison ends the entry with POISON (R383). -/
def feRead (s : State) (a : Acc) (va n : Nat) : Out (List Byte) :=
  (readVa s a va n 0).andThen (fun d s => if d.poison then .fail .poison s else .ok d.bytes s)
/-- A front-end read of words. -/
def feWords (s : State) (a : Acc) (va n : Nat) : Out (List Word) :=
  (feRead s a va (8 * n)).andThen (fun bs s => .ok (toWords bs) s)

/-- The front end's reads for a queue are over: their answers are let go. -/
def feDone (s : State) (q : Nat) : State := dropAnsweredReads s .fe q

/-! ### Accesses that do not park, and picot writes -/

/-- Resolve an address at once, without parking: a fault or a missing right drops the access (R185, R234). -/
def resolveNow (s : State) (a : Acc) (va kind n : Nat) : Out Piece :=
  let v := va % 2 ^ 57
  let x : XReq := { eng := a.eng, hoop := a.hoop, aspace := a.aspace, ctx := a.ctx, va := v, kind := kind, row := a.row,
                    repeated := false, phase := .walking false }
  let w := walk s x
  match w.1 with
  | .entry e =>
    .ok { va := v, len := n, place := placeOf w.2 (e.target + (v - e.start)), entry := e.row, page := e.countAt } w.2
  | .wait => .wait w.2
  | .fault _ _ => .fail .xlateFault w.2
  | .fail st => .fail st w.2

/-- Write bytes at once where that can be done; what cannot be written is dropped. The answer says whether all was. -/
def writeNow (s : State) (a : Acc) (va : Nat) (bs : List Byte) : Bool × State :=
  (cut 512 va bs.length).foldl (fun acc p =>
    match (resolveNow acc.2 a p.1 1 p.2).andThen (fun q s => (piecesReady s a true false [q]).andThen (fun _ s =>
        (remoteWritesReady s a [q]).andThen (fun _ s => .ok q s))) with
    | .ok q s => (acc.1, putPieces s a { bytes := (bs.drop (p.1 - va)).take p.2, poison := false } 0 [q])
    | o => (false, o.state)) (true, s)

/-- Hold a picot write of this node behind its source's earlier writes (R273, R274). When one of those has failed already it is not
written (R275). -/
def holdPicot (s : State) (a : Acc) (p : Piece) (data : List Byte) : State :=
  let mine := sourceOf a.eng
  let w : Picot := { id := s.fab.nextId, eng := a.eng, hoop := a.hoop, ctx := a.ctx, aspace := a.aspace, entry := p.entry, row := a.row,
                     place := p.place, data := data, poison := false, page := p.page, after := writesOf s mine a.hoop,
                     sender := none, tag := 0, epoch := (curBank s).epoch, cls := a.flow % 8, failed := writeFailure s mine a.hoop }
  { s with fab := { s.fab with picots := s.fab.picots ++ [w], nextId := s.fab.nextId + 1 } }
/-- Issue a picot write (R273, R274). It is held here until the source's earlier writes are acknowledged; to a peer it goes at once,
as a PICOT message, when there are none. A message names no earlier writes, so the peer could not hold it behind those that other
eyelets or other nodes have yet to take (log 134). -/
def issuePicot (s : State) (a : Acc) (p : Piece) (data : List Byte) : Out Unit :=
  match p.place with
  | .peer n x =>
    let mine := sourceOf a.eng
    if (writesOf s mine a.hoop).isEmpty && (writeFailure s mine a.hoop).isNone && !remapHeld s mine then
      sendRemote s a.who a.hoop a.aspace p.entry msgPicot n x 8 a.row 0 { bytes := data, poison := false }
    else .ok () (holdPicot s a p data)
  | .loc _ => .ok () (holdPicot s a p data)

/-- An access goes on under a new number: an invalidation that waits for the old one waits for the new one (R301). -/
def carryWaits (s : State) (old new : Nat) : State :=
  let move := fun i : Inval => if i.waits.contains old then { i with waits := i.waits ++ [new] } else i
  { s with rng := { s.rng with invals := s.rng.invals.map move } }
/-- Issue a write that came back EPOCH_STALE once more, under the current epoch (R230, R352). It counts as a new write: a picot write
waits behind the writes issued before it (R275). -/
def reissue (s : State) (a : Acc) (r : Remote) : Out Unit :=
  let s := carryWaits s r.id s.fab.nextId
  if r.msg = msgPicot then
    .ok () (holdPicot (dropRemote s r.id) { a with row := 1 }
      { va := 0, len := 8, place := .peer r.node r.addr, entry := r.entry, page := none } r.data)
  else
    (sendRemote s a.who r.hoop r.aspace r.entry r.msg r.node r.addr r.len 1 0 { bytes := r.data, poison := r.poison }).andThen
      (fun _ s => .ok () (dropRemote s r.id))

/-! ### Contexts and time -/

/-- SHARE of a context as written (R421). -/
def ctxShare (s : State) (c : Nat) : Nat := fld (cell s 0x800001 c 0) 39 24
/-- Words of CONTEXT_USAGE as they stand (R433): lantern and engine times in µs. -/
def showUsage (s : State) (c : Nat) : State :=
  let x := context s c
  let us (i : Nat) := wd (x.charged.getD i 0 / 1000)
  setCells s 0x800004 c 0 [us 0, us 1, us 2, wd (x.engineNs / 1000)]

/-- The next choice of a hoop takes up the SHARE of each of its contexts as written (R421, R434). -/
def takeShares (s : State) (h : Nat) : State :=
  (hoopCtxs s h).foldl (fun s c => modContext s c (fun x => { x with share := ctxShare s c })) s
/-- Charge a lantern's time to a context: its usage, and its virtual time by the SHARE of the last choice (R419, R421, R433). -/
def chargeLantern (s : State) (c kind since : Nat) : State :=
  let t := wick s - since
  let share := (context s c).share
  let s := modContext s c (fun x => { x with
    vtime := if share = 0 then x.vtime else x.vtime + t * 65536 / share
    charged := x.charged.set kind (x.charged.getD kind 0 + t)
    hist := (wick s, t) :: x.hist.filter (fun p => decide (wick s < p.1 + 100000000)) })
  showUsage s c

/-- Charge engine time to a context (R433). -/
def chargeEngine (s : State) (c since : Nat) : State :=
  showUsage (modContext s c (fun x => { x with engineNs := x.engineNs + (wick s - since) })) c

/-! ### Lantern conditions -/

/-- May a lantern issue now: the engines run, it is not fenced off, it is awake, its quarter's clocks run (R52, R53, R58,
R455, R470, R483, R494, R500)? A gated lantern or a stopped PLL is woken. Work that a reset finds in its domain goes on during the
drain allowance (R510); a context that is swapped out starts nothing more (R424), nor a lantern that the debug port has halted (R527). -/
def lanternReady (s : State) (l : Nat) : Out Unit :=
  let leaves := match (lantern s l).cur with
    | some r => (context s r.ctx).leaving && !r.begun
    | none => false
  if !quarterRuns s (lanQuarter l) || (lantern s l).fenced || decide ((lantern s l).run = 1) || leaves then .wait s
  else (needClock s (lanQuarter l)).andThen (fun _ s => wakeLantern s l)

/-- The context, hoop and settings of a running strand: its stitch and strand-table entry. -/
def strandOf (s : State) (r : Running) : Option (Stitch × Strand) :=
  match flight s r.ref.queue r.ref.entry with
  | some f =>
    match f.stitch with
    | some t => (t.strands[r.ref.idx]?).map (fun d => (t, d))
    | none => none
  | none => none

end Sys2Proof.Machine
end

