-- ==== Sys2Proof/Machine/Stitches.lean ====
section
/-! DEFINITION. Stitches and strands (R110 to R115, R142 to R151, R385, R386, R418 to R421): staging, choice, the start and
the end of a strand, and the stop of a stitch. -/

namespace Sys2Proof.Machine

/-! ### Staging (R111 to R115, R385) -/

/-- The numerics defaults that an admission resolves (R96, R102): ACC_MODE_DEFAULT, DET_FORCE, ROUND_DEFAULT,
FP8_SAT_DEFAULT. -/
def numericDefaults (s : State) : List Word :=
  [cell s 0xB00001 0 0, cell s 0xB00002 0 0, cell s 0xB00003 0 0, cell s 0xB00004 0 0]

/-- A variant entry (R112). -/
structure Variant where
  m : Nat
  v : Nat
  sc : Nat
  strands : Nat
  table : Nat
  deriving DecidableEq, Repr

/-- Decode a variant entry. -/
def variantOf (w : Word) : Variant :=
  { m := fld w 63 56, v := fld w 55 49, sc := fld w 48 43, strands := fld w 42 34, table := fld w 31 0 }
/-- Equal widths in all three kinds? -/
def sameWidths (a b : Variant) : Bool := decide (a.m = b.m) && decide (a.v = b.v) && decide (a.sc = b.sc)
/-- The rules of one variant entry (R112, R115). -/
def variantOk (len : Nat) (w : Word) : Bool :=
  let x := variantOf w
  fld w 33 32 = 0 && decide (x.m ≤ 160) && decide (x.v ≤ 64) && decide (x.sc ≤ 32) && decide (1 ≤ x.strands)
    && decide (x.strands ≤ 256) && x.table % 16 = 0 && decide (x.table + 16 * x.strands ≤ len)
/-- Are the widths of a list of variants pairwise different? -/
def variantsDiffer : List Variant → Bool
  | [] => true
  | x :: rest => rest.all (fun y => !sameWidths x y) && variantsDiffer rest

/-- The header's rules (R111, R115). -/
def headerOk (w0 : Word) : Bool :=
  let n := fld w0 55 52
  let len := fld w0 31 0
  fld w0 63 56 = 1 && decide (1 ≤ n) && decide (n ≤ 8) && fld w0 51 50 ≠ 3 && fld w0 46 32 = 0 && len % 64 = 0
    && decide (len ≤ 0x4000000) && decide (16 + 8 * n ≤ len)

/-- Is variant `a` to be preferred to `b`: larger WIDTH_M, then WIDTH_V, then WIDTH_S (R114 step 2)? -/
def variantLess (b a : Variant) : Bool :=
  decide (b.m < a.m) || (decide (b.m = a.m) && (decide (b.v < a.v) || (decide (b.v = a.v) && decide (b.sc < a.sc))))

/-- Select a variant for a hoop's widths: the exact match, else the largest that fits (R114). -/
def selectVariant (vs : List Variant) (m v sc : Nat) : Option (Nat × Variant) :=
  let idx := vs.zipIdx.map (fun p => (p.2, p.1))
  match idx.find? (fun p => decide (p.2.m = m) && decide (p.2.v = v) && decide (p.2.sc = sc)) with
  | some p => some p
  | none =>
    let fits := idx.filter (fun p => decide (p.2.m ≤ m) && decide (p.2.v ≤ v) && decide (p.2.sc ≤ sc))
    fits.foldl (fun best p => match best with
      | none => some p
      | some b => if variantLess b.2 p.2 then some p else some b) none

/-- A strand-table entry (R113). -/
def strandOfWords (w0 w1 : Word) : Strand :=
  { kind := fld w0 63 62, slot := fld w0 61 54, ops := fld w0 53 45, off := fld w0 31 0, entryVa := w1.toNat, first := [],
    started := false, finished := false }
/-- Width of a variant in a kind. -/
def variantWidth (x : Variant) (kind : Nat) : Nat := match kind with | 0 => x.m | 1 => x.v | _ => x.sc
/-- The rules of a strand-table entry (R113, R115). -/
def strandOk (x : Variant) (len : Nat) (w0 w1 : Word) : Bool :=
  let d := strandOfWords w0 w1
  let tile := decide (d.kind < 2)
  d.kind ≠ 3 && fld w0 44 32 = 0 && decide (d.slot < variantWidth x d.kind)
    && (if tile then decide (1 ≤ d.ops) && decide (d.ops ≤ 256) && d.off % 64 = 0 && decide (d.off + 64 * d.ops ≤ len)
          && d.entryVa = 0
        else d.ops = 0 && decide (d.off + 64 ≤ len))
/-- Does no kind and slot pair appear twice? -/
def slotsDiffer : List Strand → Bool
  | [] => true
  | d :: rest => rest.all (fun e => !(decide (e.kind = d.kind) && decide (e.slot = d.slot))) && slotsDiffer rest

/-- The rules of an S argument header (R167), in words. -/
def argOk (ws : List Word) : Bool :=
  let w0 := wordAt ws 0
  let stack := fld w0 63 32
  fld w0 7 0 = 1 && fld w0 15 8 ≠ 0 && fld w0 31 16 = 0 && stack % 16 = 0 && decide (stack ≤ 65536)
    && (wordAt ws 1).toNat % 32 = 0 && [3, 4, 5, 6, 7].all (fun i => wordAt ws i = 0)

/-- Cut a list of words into tile ops of eight. -/
def opsOf (ws : List Word) : List (List Word) := chunksOf 8 ws.length ws

/-- Read and check one strand: its tile ops, or its argument header. Of the ops the first 64 are kept. -/
def stageStrand (s : State) (a : Acc) (va : Nat) (det force : Bool) (d : Strand) : Out Strand :=
  if d.kind < 2 then
    (feWords s a (va + d.off) (8 * d.ops)).andThen (fun ws s =>
      let ops := opsOf ws
      if !(ops.all (tileOpOk d.kind det) && holdOk [] ops) then .fail .format s
      else if force && ops.any fp64Reduces then .fail .format (bump s 0xB00007 0)
      else .ok { d with first := ops.take 64 } s)
  else
    (feWords s a (va + d.off) 8).andThen (fun ws s =>
      if argOk ws then .ok { d with first := [ws] } s else .fail .format s)

/-- Stage the strands of the selected variant. -/
def stageStrands (s : State) (a : Acc) (va : Nat) (det force : Bool) : List Strand → Out (List Strand)
  | [] => .ok [] s
  | d :: rest =>
    (stageStrand s a va det force d).andThen (fun d s =>
      (stageStrands s a va det force rest).andThen (fun ds s => .ok (d :: ds) s))

/-- Stage a stitch: read it, select its variant, check every op of it (R96, R114, R115, R385). -/
def stageStitch (s : State) (q va : Nat) (dflt : List Word) : Out Stitch :=
  let h := queueHoop s q
  (feWords s (feAcc s q (houseClass s h)) va 2).andThen (fun hd s =>
    let w0 := wordAt hd 0
    let len := fld w0 31 0
    let a := feAcc s q (houseClass s h)
    if !headerOk w0 then .fail .format s
    else
      (feWords s a (va + 16) (fld w0 55 52)).andThen (fun tbl s =>
        let vs := tbl.map variantOf
        if !(tbl.all (variantOk len) && variantsDiffer vs) then .fail .format s
        else
          match selectVariant vs (hoopWidth s h 0) (hoopWidth s h 1) (hoopWidth s h 2) with
          | none => .fail .format s
          | some (i, x) =>
            (feWords s a (va + x.table) (2 * x.strands)).andThen (fun st s =>
              let rows := chunksOf 2 st.length st
              let ds := rows.map (fun r => strandOfWords (wordAt r 0) (wordAt r 1))
              let force := decide (wordAt dflt 1 = 1)
              let acc := if fld w0 51 50 = 0 then (wordAt dflt 0).toNat else fld w0 51 50
              let det := force || decide (acc = 2)
              if !(rows.all (fun r => strandOk x len (wordAt r 0) (wordAt r 1)) && slotsDiffer ds) then .fail .format s
              else
                (stageStrands s a va det force ds).andThen (fun ds s =>
                  .ok { va := va, variant := i, widthM := x.m, widthV := x.v, widthS := x.sc, det := det,
                        round := (wordAt dflt 2).toNat, sat := (wordAt dflt 3).toNat, floss := fld w0 49 47,
                        seed := (wordAt hd 1).toNat, strands := ds } s))))

/-- Read `n` rows of a LOAD, from row `r` on; a row with poison is a failure (R386). -/
def prefetchRows (s : State) (a : Acc) (ws : List Word) : Nat → Nat → Out (List Byte)
  | 0, _ => .ok [] s
  | n + 1, r =>
    (feRead s a (lsVa ws r) (lsLen ws)).andThen (fun bs s =>
      (prefetchRows s a ws n (r + 1)).andThen (fun rest s => .ok (bs ++ rest) s))

/-- The first LOAD of a strand that the front end prefetches, with the lantern into whose buffer it goes: of an M or V strand, of at most
32 KiB, the buffer empty (R386). -/
def prefetchOf (s : State) (q : Nat) (d : Strand) : Option (Nat × List Word) :=
  let ws := d.first.getD 0 []
  match hoopLantern s (queueHoop s q) d.kind d.slot with
  | none => none
  | some l =>
    if 2 ≤ d.kind ∨ opCode ws ≠ 1 ∨ 32768 < lsRows ws * lsLen ws ∨ (lantern s l).prefetch.isSome = true then none else some (l, ws)
/-- Prefetch the first LOAD of a strand: its lantern, the strand and the bytes. One that meets a fault, a missing right or poison is
abandoned without effect or record (R386). -/
def prefetchStrand (s : State) (q cls : Nat) (p : Strand × Nat) : Out (List (Nat × Nat × List Byte)) :=
  match prefetchOf s q p.1 with
  | none => .ok [] s
  | some (l, ws) =>
    match prefetchRows s (feAcc s q cls) ws (lsRows ws) 0 with
    | .ok bs s => .ok [(l, p.2, bs)] s
    | .fail _ s => .ok [] s
    | .wait s => .wait s
/-- Prefetch the first LOADs of a stitch's strands; staging waits for the reads of all of them (R386). -/
def prefetches (s : State) (q cls : Nat) (l : List (Strand × Nat)) : Out (List (Nat × Nat × List Byte)) :=
  l.foldl (fun o p =>
    let now := prefetchStrand o.state q cls p
    match o with
    | .ok ps _ => now.andThen (fun x s => .ok (ps ++ x) s)
    | _ => .wait now.state) (.ok [] s)

/-- STITCH: the admitted entry is staged, or completes with the status of what failed (R385). -/
def stitch (s : State) (q e : Nat) : State :=
  match flight s q e with
  | none => s
  | some f =>
    if f.phase ≠ .admitted ∨ fld (wordAt f.words 0) 63 56 ≠ 1 then s
    else
      let o := (stageStitch s q (wordAt f.words 6).toNat f.desc).andThen (fun t s =>
        (prefetches s q t.floss t.strands.zipIdx).andThen (fun ps s => .ok (t, ps) s))
      match o with
      | .wait s => s
      | .fail st s => finishFlight (feDone s q) q e st
      | .ok (t, ps) s =>
        let s := feDone s q
        let s := modFlight s q e (fun f => { f with phase := .staged, detail := t.variant, stitch := some t })
        let s := ps.foldl (fun s p => modLantern s p.1 (fun x => { x with prefetch := some ({ queue := q, entry := e, idx := p.2.1 }, p.2.2) })) s
        showActivity s (queueCtx s q)
/-- STITCH. -/
def execStitch (queue entry : Nat) (s : State) : Host.Outcome State Fault Refusal := .next (stitch s queue entry)

/-! ### Choice (R418 to R420, R425, R430) -/

/-- The lantern that holds a strand's hoop slot now. -/
def strandLantern (s : State) (h : Nat) (r : StrandRef) : Option Nat :=
  match flight s r.queue r.entry with
  | some f =>
    match f.stitch with
    | some t => (t.strands[r.idx]?).bind (fun d => hoopLantern s h d.kind d.slot)
    | none => none
  | none => none

/-- Saved strands of a context that no run list holds yet (R425). -/
def waitingSaved (s : State) (c : Nat) : List Saved :=
  (context s c).saved.filter (fun v => !s.lan.any (fun p => p.2.runList.contains v.running.ref))

/-- Has a context that was swapped in strands that no run list holds yet? They come ahead of any new stitch (R425). -/
def restores (s : State) (c : Nat) : Bool := ctxResident s c && !(waitingSaved s c).isEmpty
/-- May a context's saved strands be placed now? -/
def mayRestore (s : State) (h c : Nat) : Bool :=
  restores s c && (waitingSaved s c).all (fun v => match strandLantern s h v.running.ref with
    | some l => runRoom s l && !lanternResetting s l
    | none => false)

/-- Wake a lantern to which the scheduler issues (R58). -/
def issueTo (s : State) (l : Nat) : State :=
  ((needClock s (lanQuarter l)).andThen (fun _ s => wakeLantern s l)).state

/-- Place the saved strands of a context in their run lists, ahead of any stitch chosen later (R425). One whose slot a retired lantern
holds ends its stitch with RESET_ABORT (R494). -/
def placeSaved (s : State) (h c : Nat) : State :=
  (waitingSaved s c).foldl (fun s v =>
    match strandLantern s h v.running.ref with
    | some l =>
      let r := v.running.ref
      if (lantern s l).retired then
        stitchCheck (stopStitch (contribute s r.queue r.entry .resetAbort 0xFFFF) r.queue r.entry) r.queue r.entry
      else issueTo (modLantern s l (fun x => { x with runList := x.runList ++ [r] })) l
    | none => s) s

/-- Place every strand of a stitch in the run list of its lantern (R418); one that names the slot of a retired lantern
completes with RESET_ABORT (R494). -/
def placeStitch (s : State) (h q e : Nat) : State :=
  match (flight s q e).bind (fun f => f.stitch) with
  | none => s
  | some t =>
    let gone := fun d : Strand => match hoopLantern s h d.kind d.slot with | some l => (lantern s l).retired | none => false
    if t.strands.any gone then finishFlight s q e .resetAbort else
    let s := (t.strands.zipIdx).foldl (fun s p =>
      match hoopLantern s h p.1.kind p.1.slot with
      | some l => issueTo (modLantern s l (fun x => { x with
          runList := x.runList ++ [{ queue := q, entry := e, idx := p.2 }] })) l
      | none => s) s
    modFlight s q e (fun f => { f with phase := .running, moved := wick s })

/-- The context that a current sampler slot names, when its table is in force (R430). -/
def slotContext (s : State) (h : Nat) : Option Nat :=
  match (hoop s h).sampler with
  | none => none
  | some t =>
    let w := t.slots.getD t.cur 0x200000
    if w / 2 ^ 21 % 2 = 1 then none else some (w / 2 ^ 22 % 1024)

/-- The context with the lowest virtual time, ties to the lower number. -/
def lowestV (s : State) (cs : List Nat) : Option Nat :=
  cs.foldl (fun best c => match best with
    | none => some c
    | some b => if (context s c).vtime < (context s b).vtime
        ∨ ((context s c).vtime = (context s b).vtime ∧ c < b) then some c else some b) none

/-- The context from which the scheduler chooses (R419, R430). -/
def chosenContext (s : State) (h : Nat) : Option Nat :=
  let cs := (hoopCtxs s h).filter (fun c => ctxResident s c && !(choosable s c).isEmpty)
  match (slotContext s h).bind (fun c => if cs.contains c then some c else none) with
  | some c => some c
  | none =>
    match lowestV s (cs.filter (fun c => ctxShare s c ≠ 0)) with
    | some c => some c
    | none => lowestV s (cs.filter (fun c => ctxShare s c = 0))

/-- A context's stitch admitted first, ties to the lower queue number (DESIGN CHOICE, log 166). -/
def firstStaged (s : State) (c : Nat) : Option (Nat × Nat) :=
  ((choosable s c).foldl (fun (best : Option (Nat × Nat × Nat)) x => match best with
    | none => some x
    | some b => if x.2.2 < b.2.2 ∨ (x.2.2 = b.2.2 ∧ x.1 < b.1) then some x else some b) none).map (fun x => (x.1, x.2.1))

/-- Does a full run list hold back a staged stitch of a resident context of the hoop (R418, R431)? -/
def roomShort (s : State) (h : Nat) : Bool :=
  (hoopCtxs s h).any (fun c => ctxResident s c && (ctxQueues s c).any (fun q => (queue s q).flights.any (fun f =>
    decide (f.phase = .staged) && (match f.stitch with
      | some t => (stitchNames s h t).any (fun n => match n with | some l => !runRoom s l | none => false)
      | none => false))))
/-- The context from which the scheduler chooses: the resident one for which another was swapped out comes first (R423). -/
def nextContext (s : State) (h : Nat) : Option Nat :=
  match (hoop s h).favored with
  | some c => if ctxResident s c && !(choosable s c).isEmpty then some c else chosenContext s h
  | none => chosenContext s h
/-- STITCH_CHOOSE: saved strands of a context swapped in come first, and no new stitch is chosen before them; else one staged stitch is
chosen, and the SHAREs as written take effect (R418, R419, R421, R423, R425, R430). A choice that full run lists hold back is counted
(R431). -/
def stitchChoose (s : State) (h : Nat) : State :=
  if !enginesRun s then s
  else
    match (hoopCtxs s h).find? (mayRestore s h) with
    | some c => showHoop (placeSaved s h c) h
    | none =>
      if (hoopCtxs s h).any (restores s) then stall s 3
      else
        match nextContext s h with
        | none => if roomShort s h then stall s 3 else s
        | some c =>
          match firstStaged s c with
          | some (q, e) => showHoop (placeStitch (takeShares (modHoop s h (fun x => { x with favored := none })) h) h q e) h
          | none => s
/-- STITCH_CHOOSE. -/
def execStitchChoose (hoop : Nat) (s : State) : Host.Outcome State Fault Refusal := .next (unlessSafe s (stitchChoose s hoop))

/-! ### The start of a strand (R110, R165, R168, R187, R425) -/

/-- Change a strand of a stitch. -/
def modStrand (s : State) (r : StrandRef) (f : Strand → Strand) : State :=
  modFlight s r.queue r.entry (fun x => { x with
    stitch := x.stitch.map (fun t => { t with strands := match t.strands[r.idx]? with
      | some d => t.strands.set r.idx (f d)
      | none => t.strands }) })

/-- A core of an S strand as it enters, or gated (R168). -/
def coreStart (t : Stitch) (d : Strand) (n : Nat) : Core :=
  let arg := d.first.getD 0 []
  if !bit (wordAt arg 0) (8 + n) then coreOff
  else
    let top := 0x01FFFFFFFFF80000 + 524288 - n * fld (wordAt arg 0) 63 32
    let x := (List.replicate 32 (0 : Word)).set 10 (wd (t.va + d.off + 64))
    let x := ((((x.set 11 (wd n)).set 12 (wd d.slot)).set 2 (wd top)).set 3 (wordAt arg 2)).set 1 (wd 0x01FFFFFFFFF7F000)
    { coreOff with on := true, pc := wd d.entryVa, x := x }

/-- The clear of R110 and R165: scratchpad, poison, data cache and the data half of every L1. -/
def strandClear (s : State) (l : Nat) : State :=
  modLantern (clearScratch s l) l (fun x => { x with
    cache := [], cores := x.cores.map (fun c => { c with l1 := [] }) })

/-- Bytes of a lantern's part of an image, by its kind (R424). -/
def strandBytes (kind : Nat) : Nat := match kind with | 0 => 0x500000 | 1 => 0x200000 | _ => 0x100000
/-- Swap traffic between an image and its bobbin, under the hoop's HOUSE_CLASS (R435). -/
def swapTraffic (s : State) (c dir n : Nat) : State :=
  let b := swapImage s c / 0x1000000000
  portArrive (countB s b dir n) b (houseFlow s (context s c).hoop) n
/-- Restore a saved strand to a lantern (R187, R425): scratchpad, poison and what was open; caches start empty. The image is read
under the hoop's HOUSE_CLASS (R435). -/
def restoreStrand (s : State) (l : Nat) (v : Saved) : State :=
  let s := clearScratch (swapTraffic s v.running.ctx 0 (strandBytes (lanKind l))) l
  let base := scratchBase l
  let put := v.scratch.foldl (fun cells p => cput memDefault cells (base + p.1) p.2) s.mem.cells
  let sp := v.poison.foldl (fun sp w => insertNat sp (base + w)) s.mem.scratchPoison
  let s := { s with mem := { s.mem with cells := put, scratchPoison := sp } }
  let c := v.running.ctx
  let s := modContext s c (fun x =>
    let left := x.saved.filter (fun y => decide (y ≠ v))
    { x with saved := left, image := if left.isEmpty then none else x.image })
  modLantern s l (fun x => { x with
    cur := some { v.running with since := wick s }, engines := v.engines, chain := v.chain, cache := [],
    cores := v.cores.map (fun c => { c with l1 := [], il1 := [] }), dma := v.dma })

/-- Begin a strand on a lantern that is ready. -/
def beginStrand (s : State) (l : Nat) (r : StrandRef) (t : Stitch) (d : Strand) : State :=
  let c := queueCtx s r.queue
  let x := lantern s l
  let s := modLantern s l (fun x => { x with runList := x.runList.drop 1 })
  let s := match (context s c).saved.find? (fun v => v.running.ref = r) with
    | some v => restoreStrand s l v
    | none =>
      let s := if x.lastCtx ≠ some c ∨ x.rebound = true then strandClear s l else s
      let run : Running := { ref := r, ctx := c, pos := 0, row := 0, begun := false, pois := false, bad := [], busy := [], waitOp := none, waiting := false,
                             status := .ok, ended := false, since := wick s }
      modLantern s l (fun x => { x with
        cur := some run, engines := [none, none, none, none], chain := [[], [], [], []], dma := [],
        cores := if d.kind = 2 then (List.range 8).map (fun n =>
          { coreStart t d n with il1 := (x.cores.getD n coreOff).il1, l1 := (x.cores.getD n coreOff).l1 }) else [] })
  let s := modLantern s l (fun x => { x with lastCtx := some c, rebound := false })
  let s := modStrand s r (fun d => { d with started := true })
  let s := selCount s (some (lanQuarter l)) 0x05 1 (some (context s c).hoop) (some t.floss) (some c)
  showHoop s (context s c).hoop

/-- The clocks of the quarter that holds a context's image, where the strand is a saved one (R53). -/
def restoreClock (s : State) (r : StrandRef) : Out Unit :=
  let c := queueCtx s r.queue
  if (context s c).saved.any (fun v => v.running.ref = r) then needClock s (addrQuarter (swapImage s c)) else .ok () s
/-- STRAND_START: the lantern begins the next strand of its run list; a context that is being swapped out begins none (R424). -/
def strandStart (s : State) (l : Nat) : State :=
  let x := lantern s l
  match x.cur, x.runList with
  | none, r :: _ =>
    if lanternResetting s l || (context s (queueCtx s r.queue)).leaving then s
    else
      match (lanternReady s l).andThen (fun _ s => restoreClock s r) with
      | .ok _ s =>
        match (flight s r.queue r.entry).bind (fun f => f.stitch) with
        | some t =>
          match t.strands[r.idx]? with
          | some d => beginStrand s l r t d
          | none => s
        | none => modLantern s l (fun x => { x with runList := x.runList.drop 1 })
      | o => o.state
  | _, _ => s
/-- STRAND_START. -/
def execStrandStart (l : Nat) (s : State) : Host.Outcome State Fault Refusal := .next (unlessSafe s (strandStart s l))

/-! ### The end of a strand (R147, R149, R169) -/

/-- Have a lantern's cores and DMA engine ended their part (R169)? -/
def coresEnded (s : State) (l : Nat) : Bool :=
  let x := lantern s l
  x.cores.all (fun c => !c.on || c.ended) && x.dma.isEmpty
    && !(List.range 8).any (fun c => engBusy s (.core l c)) && !engBusy s (.dma l)

/-- Has the strand on a lantern done its last op, or ended early with its ops in progress finished? -/
def strandOver (s : State) (l : Nat) (r : Running) : Bool :=
  match strandOf s r with
  | some (_, d) => r.busy.isEmpty && (if d.kind < 2 then (r.ended && !r.begun) || decide (d.ops ≤ r.pos) else coresEnded s l)
  | none => true

/-- The lantern that made a request of the allocator. -/
def allocLan (r : AllocReq) : Nat := match r with | .opAlloc l _ _ _ _ _ _ _ | .coreAlloc l _ _ _ _ _ _ _ | .coreFree l _ _ _ _ => l
/-- Let go of what a lantern's engines still hold of other nodes, of translations and at the allocator (DESIGN CHOICE, log 173). -/
def releaseLantern (s : State) (l : Nat) : State :=
  let s := { s with allocQ := s.allocQ.filter (fun r => decide (allocLan r ≠ l)) }
  let engs := Eng.lan l :: Eng.dma l :: (List.range 8).map (fun c => Eng.core l c)
  dropPicots (engs.foldl (fun s g => dropEngX (dropEng s g) g) s) (fun e => engs.contains e)

/-- STRAND_COMPLETE: the strand's time is charged, its status contributed, and a stitch whose strands have all finished
completes (R147, R421, R433). A core's reservation is kept: it may outlive the strand (R165; DESIGN CHOICE, log 188). -/
def strandComplete (s : State) (l : Nat) : State :=
  match (lantern s l).cur with
  | none => s
  | some r =>
    if !strandOver s l r then s
    else
      let st := (lantern s l).cores.foldl (fun st c => statusMax st c.status) r.status
      let s := chargeLantern s r.ctx (lanKind l) r.since
      let s := releaseLantern s l
      let s := modLantern s l (fun x => { x with
        cur := none, engines := [none, none, none, none], chain := [[], [], [], []], idleAt := wick s, dma := [],
        prefetch := x.prefetch.bind (fun p => if p.1 = r.ref then none else some p),
        cores := x.cores.map (fun c => { coreOff with l1 := c.l1, il1 := c.il1 }) })
      let s := contribute s r.ref.queue r.ref.entry st l
      let s := modFlight s r.ref.queue r.ref.entry (fun f => { f with moved := max f.moved r.opAt })
      let s := modStrand s r.ref (fun d => { d with finished := true })
      showHoop (stitchCheck s r.ref.queue r.ref.entry) (context s r.ctx).hoop
/-- STRAND_COMPLETE. -/
def execStrandComplete (l : Nat) (s : State) : Host.Outcome State Fault Refusal := .next (unlessSafe s (strandComplete s l))

/-- STITCH_STOP: a stitch one of whose strands ended early has every other strand stopped (R149). -/
def stitchStop (s : State) (q e : Nat) : State :=
  let ended := fun l => match (lantern s l).cur with | some r => r.ended | none => false
  if (stitchLanterns s q e).any ended then stitchCheck (stopStitch s q e) q e else s
/-- STITCH_STOP. -/
def execStitchStop (queue entry : Nat) (s : State) : Host.Outcome State Fault Refusal := .next (unlessSafe s (stitchStop s queue entry))

end Sys2Proof.Machine
end

