-- ==== Sys2Proof/Machine/TileOps.lean ====
section
/-! DEFINITION. The tile operations of M- and V-lanterns (R105 to R149): moving bytes, matrix multiplication, the tile unit,
control ops and their completion. The moves, CONVERT, WAIT and SIGNAL also serve the DMA engine of an S-lantern (R176). -/

namespace Sys2Proof.Machine

/-! ### Moving bytes (R108, R109, R120, R121) -/

/-- The pieces of a LOAD or STORE, rows in order, each inside an aligned run of `k` bytes: virtual address, scratchpad
offset, length. -/
def lsPieces (k : Nat) (ws : List Word) : List (Nat × Nat × Nat) :=
  (List.range (lsRows ws)).flatMap (fun r =>
    (cut k (lsVa ws r) (lsLen ws)).map (fun p => (p.1, lsOff ws r + (p.1 - lsVa ws r), p.2)))

/-- Which bytes of a run read with poison are poisoned: by line in a quarter store, by word in a scratchpad, else all
(R245). -/
def vaBad (s : State) (a : Acc) (va n : Nat) : Bool :=
  match lookHit s a (va % 2 ^ 57) with
  | some e =>
    match placeOf s (e.target + (va % 2 ^ 57 - e.start)) with
    | .loc l =>
      match region s l with
      | some .store => (cut 128 l n).any (fun p => linePoisoned s p.1)
      | some .scratch => scratchPoisoned s l n
      | _ => true
    | .peer _ _ => true
  | none => true

/-- The 64-byte words that a run touches. -/
def wordsOf (a n : Nat) : List Nat := (cut 64 a n).map (fun p => alignDown p.1 64)

/-- Write what was read at `va` into the scratchpad at `at_`, poison where it lies; the words that were poisoned are given. -/
def landBytes (s : State) (a : Acc) (va at_ : Nat) (d : Data) : List Nat × State :=
  if !d.poison then ([], writeScratch s at_ d.bytes false)
  else
    (cut 64 va d.bytes.length).foldl (fun acc p =>
      let bad := vaBad acc.2 a p.1 p.2
      let dst := at_ + (p.1 - va)
      (if bad then acc.1 ++ wordsOf dst p.2 else acc.1, writeScratch acc.2 dst ((d.bytes.drop (p.1 - va)).take p.2) bad)) ([], s)

/-! The data cache (R109). -/

/-- Set of a cache line (log 25). -/
def cacheSet (va : Nat) : Nat := va / 128 % 128
/-- Is this the line of an address? -/
def isLine (a : Acc) (va : Nat) (x : Line) : Bool :=
  decide (x.hoop = a.hoop) && decide (x.aspace = a.aspace) && decide (x.va = va)
/-- Fill a line: a set of 16 ways replaces one that the spec does not name, so a free value chooses (log 26). -/
def fillLine (s : State) (l : Nat) (x : Line) : State :=
  let c := (lantern s l).cache
  let mine := c.filter (fun y => cacheSet y.va = cacheSet x.va)
  if mine.length < 16 then modLantern s l (fun y => { y with cache := c ++ [x] })
  else
    let p := takeFree s
    let victim := mine[p.1.toNat % mine.length]?
    modLantern p.2 l (fun y => { y with cache := dropFirst (fun z => some z == victim) c ++ [x] })
/-- A read of one piece, inside one line, through the data cache. -/
def readCached (s : State) (a : Acc) (l va n : Nat) : Out Data :=
  let line := alignDown (va % 2 ^ 57) 128
  let part (bs : List Byte) := (bs.drop (va % 2 ^ 57 - line)).take n
  match (lantern s l).cache.find? (isLine a line) with
  | some x => .ok { bytes := part x.data, poison := x.poison } s
  | none =>
    (readVa s a line 128 0).andThen (fun d s =>
      let x : Line := { hoop := a.hoop, aspace := a.aspace, va := line, data := d.bytes, poison := d.poison }
      .ok { bytes := part d.bytes, poison := d.poison } (fillLine s l x))
/-- A STORE updates the bytes it covers in a cached line and never clears its poison. -/
def updateLines (a : Acc) (va : Nat) (d : Data) (cache : List Line) : List Line :=
  let v := va % 2 ^ 57
  cache.map (fun x =>
    if x.hoop = a.hoop ∧ x.aspace = a.aspace ∧ x.va < v + d.bytes.length ∧ v < x.va + x.data.length then
      { x with poison := x.poison || d.poison,
               data := x.data.zipIdx.map (fun p =>
                 if v ≤ x.va + p.2 ∧ x.va + p.2 < v + d.bytes.length then d.bytes.getD (x.va + p.2 - v) 0 else p.1) }
    else x)

/-- How far a LOAD or STORE has come: the pieces that are done, whether any of them was poisoned, and the scratchpad words into which a LOAD
has written poison. -/
structure Moved where
  k : Nat
  pois : Bool
  bad : List Nat
  deriving DecidableEq, Repr

/-- Read the remaining pieces of a LOAD; `cache` is the lantern whose data cache serves it. -/
def loadPieces (a : Acc) (base : Nat) (cache : Option Nat) : List (Nat × Nat × Nat) → Moved → State → Moved × Out Unit
  | [], m, s => (m, .ok () s)
  | (va, off, n) :: rest, m, s =>
    let o := match cache with
      | some l => readCached s a l va n
      | none => readVa s a va n 0
    match o with
    | .wait s => (m, .wait s)
    | .fail st s => (m, .fail st s)
    | .ok d s =>
      let r := if cache.isSome then (if d.poison then wordsOf (base + off) n else [], writeScratch s (base + off) d.bytes d.poison)
        else landBytes s a va (base + off) d
      loadPieces a base cache rest { k := m.k + 1, pois := m.pois || d.poison, bad := m.bad ++ r.1 } r.2

/-- The runs of a piece of scratchpad that are poisoned, by words, as offsets into the piece (R108). -/
def scratchBad (s : State) (at_ n : Nat) : List (Nat × Nat) :=
  ((cut 64 at_ n).filter (fun p => scratchPoisoned s p.1 p.2)).map (fun p => (p.1 - at_, p.2))
/-- A STORE of a piece updates the bytes it covers in the cached lines, word by word where some of it is poisoned (R109). -/
def storeLines (a : Acc) (v at_ : Nat) (bs : List Byte) (bad : List (Nat × Nat)) (cache : List Line) : List Line :=
  if bad.isEmpty then updateLines a v { bytes := bs, poison := false } cache
  else (cut 64 at_ bs.length).foldl (fun cache p =>
    let off := p.1 - at_
    updateLines a (v + off) { bytes := (bs.drop off).take p.2, poison := meetsBad bad off p.2 } cache) cache
/-- Write one piece of a STORE from the scratchpad to `v`, each poisoned word as poisoned data (R108); the answer tells poison. -/
def storePart (a : Acc) (cache : Option Nat) (v at_ n : Nat) (s : State) : Out Bool :=
  let bs := rbs s at_ n
  let bad := scratchBad s at_ n
  match writeVaBad s a v bs bad false with
  | .ok _ s =>
    .ok (!bad.isEmpty) (match cache with
      | some l => modLantern s l (fun x => { x with cache := storeLines a v at_ bs bad x.cache })
      | none => s)
  | .wait s => .wait s
  | .fail .poison s => .ok true s
  | .fail st s => .fail st s

/-- Write the remaining pieces of a STORE. A piece that waits is written again whole. -/
def storePieces (a : Acc) (base : Nat) (cache : Option Nat) : List (Nat × Nat × Nat) → Moved → State → Moved × Out Unit
  | [], m, s => (m, .ok () s)
  | (va, off, n) :: rest, m, s =>
    match storePart a cache va (base + off) n s with
    | .wait s => (m, .wait s)
    | .fail st s => (m, .fail st s)
    | .ok bad s => storePieces a base cache rest { m with k := m.k + 1, pois := m.pois || bad } s

/-- The rows of a LOAD, STORE or ZERO as runs of local memory. -/
def lsRuns (base : Nat) (ws : List Word) : List (Nat × Nat) :=
  (List.range (lsRows ws)).map (fun r => (base + lsOff ws r, lsLen ws))

/-- LOAD for an engine whose scratchpad starts at `base`, from where it has come. Words that it covers whole with clean data lose their
poison when it is done (R108). -/
def doLoad (s : State) (a : Acc) (base : Nat) (cache : Option Nat) (ws : List Word) (m : Moved) : Moved × Out Unit :=
  let r := loadPieces a base (if lsCached ws then cache else none)
    ((lsPieces (if lsCached ws then 128 else 512) ws).drop m.k) m s
  (r.1, r.2.andThen (fun _ s => .ok () (clearWhole s (lsRuns base ws) r.1.bad)))
/-- STORE for an engine whose scratchpad starts at `base`, from where it has come. -/
def doStore (s : State) (a : Acc) (base : Nat) (cache : Option Nat) (ws : List Word) (m : Moved) : Moved × Out Unit :=
  storePieces a base cache ((lsPieces 512 ws).drop m.k) m s
/-- ZERO (R130). -/
def doZero (s : State) (base : Nat) (ws : List Word) : State :=
  writeRuns s ((lsRuns base ws).map (fun r => (r.1, List.replicate r.2 0))) false

/-! ### Settings of an op -/

/-- Settings with which an op converts its output (R72, R76, R77, R81, R96). -/
def outSet (t : Stitch) (ws : List Word) (f : Fmt) (origin : Word) : OutSet :=
  { fmt := f, rnd := roundOf t.round (opRound ws) f, sat := satOf t.sat (opSat ws), seed := t.seed, tag := opSrTag ws,
    row0 := fld origin 63 32, col0 := fld origin 31 0 }

/-! ### The tile unit (R130) -/

/-- Rows of element codes of a tile. -/
def readCodes (s : State) (base : Nat) (t : Tile) : List (List Nat) :=
  (List.range t.rows).map (fun r =>
    unpackCodes (fmtBits t.fmt) t.cols (rbs s (base + t.off + r * t.pitch) (rowBytes t.fmt t.cols)))
/-- Rows of element codes as the runs they fill. -/
def codeRuns (base : Nat) (t : Tile) (rows : List (List Nat)) : List (Nat × List Byte) :=
  rows.zipIdx.map (fun p => (base + t.off + p.2 * t.pitch, packCodes (fmtBits t.fmt) p.1))

/-- TRANSPOSE: the source tile's elements with rows and columns exchanged. -/
def doTranspose (s : State) (base : Nat) (ws : List Word) : State × Status :=
  let src := opSrc ws
  let poison := runsPoisoned s base (opReads ws)
  let codes := readCodes s base src
  let out : Tile := { opOut ws with rows := opN ws, cols := opM ws }
  let rows := (List.range (opN ws)).map (fun c => codes.map (fun row => row.getD c 0))
  (writeRuns s (codeRuns base out rows) poison, if poison then .poison else .ok)

/-- Write values through a conversion, and count what it gave (R85, R91). -/
def putValues (s : State) (base q : Nat) (out : Tile) (o : OutSet) (rows : List (List OutElem)) (poison : Bool) :
    State × Status :=
  let vals := rows.map (fun r => r.map (fun e => e.v))
  let s := writeTile s base out o vals poison
  (countOut s q o.fmt o.sat ((vals.zipIdx.map (fun p => convertOvers o p.2 p.1)).sum) rows.flatten, outStatus poison rows.flatten)

/-- CONVERT: every element converted; equal formats are copied, scales included (R86, R87). -/
def doConvert (s : State) (base q : Nat) (t : Stitch) (ws : List Word) : State × Status :=
  let src := opSrc ws
  let out := opOut ws
  let poison := runsPoisoned s base (opReads ws)
  if src.fmt = out.fmt then
    let scales := rbs s (base + src.soff) (src.rows * (src.cols / 32))
    (writeRuns s (codeRuns base out (readCodes s base src) ++ (if fmtIsMx src.fmt then [(base + out.soff, scales)] else [])) poison,
      if poison then .poison else .ok)
  else
    let rows := (readTile s base src).map (fun r => r.map plainElem)
    putValues s base q out (outSet t ws out.fmt (wordAt ws 7)) rows poison

/-- BCAST_ADD: each element plus the row or column vector, exact, rounded once, by RNE: R73 gives the rounding code to no addition
(log 151). -/
def doBcastAdd (s : State) (base q : Nat) (t : Stitch) (ws : List Word) : State × Status :=
  let src := opSrc ws
  let out := opOut ws
  let poison := runsPoisoned s base (opReads ws)
  let byRow := opParam ws 15 15 = 0
  let vec := readVec s base (opBiasOff ws) (if byRow then opN ws else opM ws)
  let rows := (readTile s base src).zipIdx.map (fun r => r.1.zipIdx.map (fun e =>
    let b := vec.getD (if byRow then e.2 else r.2) .nan
    { v := numSum [e.1, b], ovf := 0, wrapped := false, nanIn := numIsNan e.1 || numIsNan b : OutElem }))
  putValues s base q out { outSet t ws out.fmt (wordAt ws 7) with rnd := .rne } rows poison

/-! ### MMA (R122 to R129) -/

/-- The value of a slot that breaks R93: the spec gives none, so it is free (log 27). -/
def freeNum (s : State) : Num × State :=
  let p := takeFree s
  (decodeElem .fp32 (p.1.toNat % 2 ^ 32), p.2)

/-- Read `n` partial slots at the given offsets. -/
def readSlots (base : Nat) : List Nat → State → List LongAcc × State
  | [], s => ([], s)
  | off :: rest, s =>
    let p := match accUnpack ((toWords (rbs s (base + off) 88)).map (fun w => w.toNat)) with
      | some l => (l, s)
      | none => let f := freeNum s; (accAdd accZero f.1, f.2)
    let r := readSlots base rest p.2
    (p.1 :: r.1, r.2)

/-- Offsets of the slots of a tile of partials. -/
def slotOffs (t : Tile) : List Nat :=
  (List.range t.rows).flatMap (fun r => (List.range t.cols).map (fun c => t.off + r * t.pitch + 88 * c))

/-- Write partials into the slots at the given offsets. -/
def putSlots (base : Nat) (poison : Bool) (slots : List (Nat × LongAcc)) (s : State) : State :=
  writeRuns s (slots.map (fun p => (base + p.1, slotBytes p.2))) poison

/-- The activation of an epilogue (R127). -/
def activate (code : Nat) (x : Num) : Num :=
  match code with
  | 1 => fRelu x
  | 2 => fGelu .fp32 x
  | 3 => fSilu .fp32 x
  | _ => x

/-- Does an MMA accumulate exactly: DET, or integer operands in both modes (R97, R99)? -/
def mmaExact (t : Stitch) (ws : List Word) : Bool := t.det || fmtIsInt (fmtD (opFmtA ws))

/-- Products of element (m, n): in ascending K. -/
def mmaProducts (ta tb : Bool) (a b : List (List Num)) (k m n : Nat) : List Num :=
  (List.range k).map (fun i =>
    numMul (if ta then at2 a i m else at2 a m i) (if tb then at2 b n i else at2 b i n))

/-- An MMA's accumulation before its epilogue. -/
def mmaAccumulate (s : State) (l : Nat) (t : Stitch) (ws : List Word) : OpenAcc × State :=
  let base := scratchBase l
  let a := readTile s base (mmaA ws)
  let b := readTile s base (mmaB ws)
  let ta := opTransA ws
  let tb := opTransB ws
  let m := opM ws
  let n := opN ws
  let k := opK ws
  let open_ := ((lantern s l).engines.getD (opEngine ws) none)
  let accIn := opParam ws 15 14
  let c := if accIn = 1 then readTile s base (mmaC ws) else []
  let slots := if accIn = 2 then readSlots base (slotOffs (mmaC ws)) s else ([], s)
  let s := slots.2
  let exact := mmaExact t ws
  let cells := (List.range m).flatMap (fun i => (List.range n).map (fun j => (i, j)))
  let prods := fun (p : Nat × Nat) => mmaProducts ta tb a b k p.1 p.2
  let cAt := fun (p : Nat × Nat) => if accIn = 1 then [at2 c p.1 p.2] else []
  let long := if !exact then [] else cells.zipIdx.map (fun x =>
    let start := match open_ with | some o => o.long.getD x.2 accZero | none => slots.1.getD x.2 accZero
    accAddAll (accAddAll start (cAt x.1)) (prods x.1))
  let fast := if exact then [] else cells.zipIdx.map (fun x =>
    let start := match open_ with | some o => o.fast.getD x.2 none | none => (cAt x.1).head?
    fastSum start (prods x.1))
  let ovf := if exact then 0 else (cells.zipIdx.map (fun x =>
    let start := match open_ with | some o => o.fast.getD x.2 none | none => (cAt x.1).head?
    (fastTally start (prods x.1)).ovf)).sum
  let s := if ovf = 0 then s else countQ s (lanQuarter l) 4 ovf
  let rowNan := (List.range m).map (fun i => (List.range k).any (fun x => numIsNan (if ta then at2 a x i else at2 a i x)))
  let colNan := (List.range n).map (fun j => (List.range k).any (fun x => numIsNan (if tb then at2 b j x else at2 b x j)))
  let nans := cells.zipIdx.map (fun x => rowNan.getD x.1.1 false || colNan.getD x.1.2 false || (cAt x.1).any numIsNan
    || (match open_ with | some o => o.nanIn.getD x.2 false | none => (slots.1.getD x.2 accZero).nanSeen))
  let poison := runsPoisoned s base (opReads ws) || (match open_ with | some o => o.poison | none => false)
  ({ rows := m, cols := n, fmtA := opFmtA ws, fmtB := opFmtB ws, long := long, fast := fast, nanIn := nans,
     poison := poison }, s)

/-- Close an MMA's accumulation: bias, scale, activation and conversion, or partials (R126 to R128). With SCALE or ACT set, an element under
case 3 of R91 goes on as the FP32 NaN, which an INT8 or INT4 output converts to 0 (DESIGN CHOICE, log 150). -/
def mmaClose (s : State) (l : Nat) (t : Stitch) (ws : List Word) (acc : OpenAcc) : State × Status :=
  let base := scratchBase l
  let q := lanQuarter l
  let n := opN ws
  let out := opOut ws
  let bias := opParam ws 7 6
  let scale := opParam ws 5 4
  let act := opParam ws 3 1
  let biasV := readVec s base (opBiasOff ws) (selLen ws bias)
  let scaleV := readVec s base (opScaleOff ws) (selLen ws scale)
  let pick := fun (sel : Nat) (v : List Num) (i : Nat) =>
    match sel with | 1 => v[i % n]? | 2 => v[i / n]? | _ => none
  let exact := mmaExact t ws
  let long := acc.long.zipIdx.map (fun p => match pick bias biasV p.2 with | some b => accAdd p.1 b | none => p.1)
  if opOutPartial ws then
    (putSlots base acc.poison ((slotOffs out).zip long) s, if acc.poison then .poison else .ok)
  else
    let staged := decide (scale ≠ 0) || decide (act ≠ 0)
    let elem := fun i =>
      let b := pick bias biasV i
      let sc := pick scale scaleV i
      let la := long.getD i accZero
      let sum : Num × Nat :=
        if exact then
          if staged then
            let x := accResult .fp32 la
            (rne .fp32 x, overOf x (rne .fp32 x))
          else (accResult out.fmt la, 0)
        else
          let f := (acc.fast.getD i none).getD (.zero false)
          match b with
          | some b => (rne .fp32 (numSum [f, b]), overOf (numSum [f, b]) (rne .fp32 (numSum [f, b])))
          | none => (f, 0)
      let v : Num × Nat := match sc with
        | some x => (rne .fp32 (numMul sum.1 x), sum.2 + overOf (numMul sum.1 x) (rne .fp32 (numMul sum.1 x)))
        | none => sum
      { v := if act = 0 then v.1 else activate act v.1, ovf := v.2, wrapped := exact && accOverflowed la,
        nanIn := acc.nanIn.getD i false || (b.map numIsNan).getD false || (sc.map numIsNan).getD false : OutElem }
    let rows := (List.range (opM ws)).map (fun r => (List.range n).map (fun c => elem (r * n + c)))
    putValues s base q out (outSet t ws out.fmt (wordAt ws 7)) rows acc.poison

/-- Does an open accumulation fit an MMA that continues it (R125)? -/
def mmaFits (x : Lantern) (ws : List Word) : Bool :=
  match x.engines.getD (opEngine ws) none with
  | none => true
  | some o => decide (o.rows = opM ws) && decide (o.cols = opN ws) && decide (o.fmtA = opFmtA ws)
      && decide (o.fmtB = opFmtB ws) && decide (opParam ws 15 14 = 0)

/-- MMA: multiply, accumulate, then hold or write (R122 to R129). -/
def doMma (s : State) (l : Nat) (t : Stitch) (ws : List Word) : State × Status :=
  let p := mmaAccumulate s l t ws
  let e := opEngine ws
  if opHold ws then
    (modLantern p.2 l (fun x => { x with engines := x.engines.set e (some p.1) }), if p.1.poison then .poison else .ok)
  else
    mmaClose (modLantern p.2 l (fun x => { x with engines := x.engines.set e none })) l t ws p.1

/-! ### Issue and completion (R142 to R149) -/

/-- An op that may issue now on a lantern: its running strand, stitch and words. -/
structure Issue where
  run : Running
  st : Stitch
  strand : Strand
  ws : List Word
  deriving DecidableEq, Repr

/-- The access identity of the op a lantern issues. -/
def opAcc (s : State) (l : Nat) (i : Issue) : Acc := accOf s (.lan l) i.run.ctx i.st.floss i.run.pos

/-- The next op of a lantern's strand, when it may issue: no WAIT is open, a BARRIER's and a SIGNAL's earlier ops have
completed. Ops past the first 64 are read from the stitch and checked again (R142, R145, R146, R385). A strand that another of its stitch
has stopped goes on with the LOAD or STORE that it has begun (R149). The check of an op read again looks at its encoding only, not at the
rejection of an FP64 reduction by DET_FORCE, which is the stitch's (R100; DESIGN CHOICE, log 179); one that is read poisoned ends the
strand with POISON (R148; DESIGN CHOICE, log 181). -/
def nextOp (s : State) (l : Nat) : Out Issue :=
  match (lantern s l).cur with
  | none => .wait s
  | some r =>
    match strandOf s r with
    | none => .wait s
    | some (t, d) =>
      if (r.ended = true ∧ r.begun = false) ∨ r.waiting ∨ r.waitOp.isSome ∨ 2 ≤ d.kind ∨ d.ops ≤ r.pos then .wait s
      else
        (lanternReady s l).andThen (fun _ s =>
          let got : Out (List Word) := match d.first[r.pos]? with
            | some ws => .ok ws s
            | none =>
              (readVa s (accOf s (.lan l) r.ctx t.floss r.pos) (t.va + d.off + 64 * r.pos) 64 0).andThen (fun b s =>
                let ws := toWords b.bytes
                let s := modLantern s l (fun x => { x with cur := x.cur.map (fun r => { r with opWord := wordAt ws 0 }) })
                if b.poison then .fail .poison s else if tileOpOk d.kind t.det ws then .ok ws s else .fail .format s)
          got.andThen (fun ws s =>
            if (opBarrier ws || opCode ws = 10) && !r.busy.isEmpty then .wait s
            else .ok { run := r, st := t, strand := d, ws := ws } s))

/-- The op at a lantern's position has issued; its status joins the strand's (R92, R392). -/
def issued (s : State) (l : Nat) (st : Status) : State :=
  modLantern s l (fun x => { x with run := min x.run 1, cur := x.cur.map (fun r => { r with
    busy := r.busy ++ [r.pos], pos := r.pos + 1, row := 0, begun := false, pois := false, bad := [], status := statusMax r.status st }) })

/-- Keep how far the op at a lantern's position has come: it has begun, be it that its first piece still waits (R149). -/
def keepRow (s : State) (l : Nat) (m : Moved) : State :=
  modLantern s l (fun x => { x with cur := x.cur.map (fun r => { r with row := m.k, begun := true, pois := m.pois, bad := m.bad }) })
/-- How far the op at the position of a running strand has come. -/
def movedOf (r : Running) : Moved := { k := r.row, pois := r.pois, bad := r.bad }

/-- The op fails and ends its strand (R148). -/
def opFails (s : State) (l : Nat) (st : Status) : State := endStrand (issued s l .ok) l st

/-- Issue the next op of a lantern when its opcode is `code`. -/
def issueOp (s : State) (l code : Nat) (f : State → Issue → State) : State :=
  match nextOp s l with
  | .wait s => s
  | .fail st s => opFails s l st
  | .ok i s => if opCode i.ws = code then f s i else s

/-- An op done at its issue. -/
def atOnce (l : Nat) (p : State × Status) : State := issued p.1 l p.2

/-- An op done piece by piece. -/
def byPieces (l : Nat) (p : Moved × Out Unit) : State :=
  match p.2 with
  | .wait s => keepRow s l p.1
  | .fail st s => opFails s l st
  | .ok _ s => issued s l (if p.1.pois then .poison else .ok)

/-- The prefetched bytes of a strand's first LOAD (R386). -/
def prefetched (s : State) (l : Nat) (i : Issue) : Option (List Byte) :=
  match (lantern s l).prefetch with
  | some (r, bs) => if r = i.run.ref ∧ i.run.pos = 0 then some bs else none
  | none => none

/-- LOAD. -/
def load (s : State) (l : Nat) : State :=
  issueOp s l 1 (fun s i =>
    match prefetched s l i with
    | some bs =>
      let n := lsLen i.ws
      let s := writeRuns s ((List.range (lsRows i.ws)).map (fun r => (scratchBase l + lsOff i.ws r, (bs.drop (r * n)).take n))) false
      issued (modLantern s l (fun x => { x with prefetch := none })) l .ok
    | none => byPieces l (doLoad s (opAcc s l i) (scratchBase l) (some l) i.ws (movedOf i.run)))
/-- LOAD. -/
def execLoad (l : Nat) (s : State) : Host.Outcome State Fault Refusal := .next (load s l)

/-- STORE; a V-lantern's updates its cached lines (R109). -/
def store (s : State) (l : Nat) : State :=
  issueOp s l 2 (fun s i => byPieces l (doStore s (opAcc s l i) (scratchBase l) (some l) i.ws (movedOf i.run)))
/-- STORE. -/
def execStore (l : Nat) (s : State) : Host.Outcome State Fault Refusal := .next (store s l)

/-- MMA. A re-read op that does not fit the open accumulation fails its check (R125, R385). -/
def mma (s : State) (l : Nat) : State :=
  issueOp s l 3 (fun s i =>
    if mmaFits (lantern s l) i.ws then atOnce l (doMma s l i.st i.ws) else opFails s l .format)
/-- MMA. -/
def execMma (l : Nat) (s : State) : Host.Outcome State Fault Refusal := .next (mma s l)

/-- TRANSPOSE. -/
def transpose (s : State) (l : Nat) : State := issueOp s l 4 (fun s i => atOnce l (doTranspose s (scratchBase l) i.ws))
/-- TRANSPOSE. -/
def execTranspose (l : Nat) (s : State) : Host.Outcome State Fault Refusal := .next (transpose s l)

/-- CONVERT. -/
def convertOp (s : State) (l : Nat) : State :=
  issueOp s l 5 (fun s i => atOnce l (doConvert s (scratchBase l) (lanQuarter l) i.st i.ws))
/-- CONVERT. -/
def execConvert (l : Nat) (s : State) : Host.Outcome State Fault Refusal := .next (convertOp s l)

/-- BCAST_ADD. -/
def bcastAdd (s : State) (l : Nat) : State :=
  issueOp s l 6 (fun s i => atOnce l (doBcastAdd s (scratchBase l) (lanQuarter l) i.st i.ws))
/-- BCAST_ADD. -/
def execBcastAdd (l : Nat) (s : State) : Host.Outcome State Fault Refusal := .next (bcastAdd s l)

/-- ZERO. -/
def zero (s : State) (l : Nat) : State := issueOp s l 7 (fun s i => issued (doZero s (scratchBase l) i.ws) l .ok)
/-- ZERO. -/
def execZero (l : Nat) (s : State) : Host.Outcome State Fault Refusal := .next (zero s l)

/-- ALLOC: the request joins the allocator's queue; no later op starts until its result is written (R132, R416). -/
def alloc (s : State) (l : Nat) : State :=
  issueOp s l 8 (fun s i =>
    let q : AllocReq := .opAlloc l i.run.pos (context s i.run.ctx).hoop i.run.ctx (wordAt i.ws 1).toNat (opParam i.ws 5 0)
      (fld (wordAt i.ws 2) 63 43) (decide (opParam i.ws 15 15 = 1))
    let s := issued { s with allocQ := s.allocQ ++ [q] } l .ok
    modLantern s l (fun x => { x with cur := x.cur.map (fun r => { r with waitOp := some i.run.pos }) }))
/-- ALLOC. -/
def execAlloc (l : Nat) (s : State) : Host.Outcome State Fault Refusal := .next (alloc s l)

/-- What a wait on a fence finds: it may not be used, it is met, it carries ERROR, or it must be waited for (R406, R407,
R410, R411). -/
inductive WaitNow
  | denied | met | error | later
  deriving DecidableEq, Repr

/-- The wait of a context for a value. -/
def waitNow (s : State) (f ctx v : Nat) : WaitNow :=
  let x := fence s f
  if !fenceMay s f ctx || x.alias_ then .denied
  else if x.error then .error
  else if waitMet x.value v false then .met
  else .later

/-- WAIT: complete at once, or hold the strand until the fence is signalled (R131, R146, R148). -/
def wait (s : State) (l : Nat) : State :=
  issueOp s l 9 (fun s i =>
    let f := opFence i.ws
    let v := (wordAt i.ws 2).toNat
    let hold (s : State) (w : Bool) := modLantern (issued s l .ok) l (fun x => { x with cur := x.cur.map (fun r =>
      { r with waitOp := some i.run.pos, waiting := w }) })
    match waitNow s f i.run.ctx v with
    | .denied => opFails s l .rights
    | .met => hold s false
    | .error => endStrand (hold s false) l .fenceError
    | .later =>
      let s := addWait (hold s true) { fence := f, who := .lan l, value := v, qf2 := false }
      showHoop s (context s i.run.ctx).hoop)
/-- WAIT. -/
def execWait (l : Nat) (s : State) : Host.Outcome State Fault Refusal := .next (wait s l)

/-- SIGNAL: its earlier ops have completed; the fence is signalled, or the signal forwarded (R131, R146, R411). -/
def signal (s : State) (l : Nat) : State :=
  issueOp s l 10 (fun s i =>
    let f := opFence i.ws
    let a := opAcc s l i
    if !fenceMay s f i.run.ctx then opFails s l .rights
    else
      match engineSignal (issued s l .ok) a.who a.hoop f (wordAt i.ws 2).toNat (decide (opParam i.ws 12 12 = 1)) a.row with
      | .ok _ s => s
      | .wait _ => s
      | .fail st s => endStrand s l st)
/-- SIGNAL. -/
def execSignal (l : Nat) (s : State) : Host.Outcome State Fault Refusal := .next (signal s l)

/-- INVAL: lines of the data cache are invalidated (R109, R131). -/
def inval (s : State) (l : Nat) : State :=
  issueOp s l 11 (fun s i =>
    let a := opAcc s l i
    let va := (wordAt i.ws 1).toNat % 2 ^ 57
    let n := (wordAt i.ws 2).toNat
    let hit := fun x : Line => decide (opParam i.ws 15 15 = 1)
      || (decide (0 < n) && decide (x.hoop = a.hoop) && decide (x.aspace = a.aspace) && decide (x.va < va + n) && decide (va < x.va + 128))
    issued (modLantern s l (fun x => { x with cache := x.cache.filter (fun y => !hit y) })) l .ok)
/-- INVAL. -/
def execInval (l : Nat) (s : State) : Host.Outcome State Fault Refusal := .next (inval s l)

/-- TILE_OP_COMPLETE: an issued op whose writes are all acknowledged completes; a failing answer ends the strand (R142,
R145, R148). A WAIT or ALLOC completes once it is released. -/
def tileOpComplete (s : State) (l op : Nat) : State :=
  match (lantern s l).cur with
  | none => s
  | some r =>
    let mine := s.fab.remotes.filter (fun x => decide (x.eng = .lan l) && decide (x.row = op))
    if !r.busy.contains op || (r.waitOp == some op && (r.waiting || s.allocQ.any (fun q => match q with
        | .opAlloc l' o _ _ _ _ _ _ => decide (l' = l) && decide (o = op)
        | _ => false))) || mine.any (fun x => x.answer.isNone) || remapHeld s (fun e => decide (e = .lan l)) then s
    else
      let bad := (mine.filterMap (fun x => match x.answer with
        | some (.ok, _, _) => none
        | some (st, _, _) => some st
        | none => none)).foldl statusMax .ok
      let s := dropAnswered s (.lan l) op
      let s := modLantern s l (fun x => { x with cur := x.cur.map (fun r => { r with
        busy := r.busy.filter (fun i => i ≠ op), waitOp := if r.waitOp = some op then none else r.waitOp }) })
      let s := progressed s l
      let c := r.ctx
      let fl := (strandOf s r).map (fun p => p.1.floss)
      let s := selCount s (some (lanQuarter l)) 0x04 1 (some (context s c).hoop) fl (some c)
      if bad = .ok then s else endStrand s l bad
/-- TILE_OP_COMPLETE. -/
def execTileOpComplete (l op : Nat) (s : State) : Host.Outcome State Fault Refusal := .next (unlessSafe s (tileOpComplete s l op))

end Sys2Proof.Machine
end

