-- ==== Sys2Proof/Machine/Chain.lean ====
section
/-! DEFINITION. Op chains of a V-lantern (R136 to R141): the primitives over tiles of working-format values, and CHAIN. -/

namespace Sys2Proof.Machine

/-- A tile of values, by rows. -/
abbrev Vals := List (List Num)

/-- What a chain works with: its format, mode, the rounding of a long accumulator, the inputs, the T registers, the partial sets at IN1, what
its arithmetic counts, GATHER indices out of range and SCATTER elements dropped. -/
structure ChainEnv where
  w : Fmt
  det : Bool
  rnd : Rnd
  rows : Nat
  cols : Nat
  in0 : Vals
  in1 : Vals
  out : Vals
  t : List Vals
  consts : List Num
  auxRow : List Num
  auxCol : List Num
  sets : List (List LongAcc)
  tally : Tally
  gathers : Nat
  scatters : Nat
  deriving DecidableEq, Repr

/-- How a primitive leaves its result: a whole tile, only column 0, or only row 0. -/
inductive Shape
  | whole | col0 | row0
  deriving DecidableEq, Repr

/-- A tile with one value everywhere. -/
def fillTile (rows cols : Nat) (v : Num) : Vals := List.replicate rows (List.replicate cols v)

/-- The values a source names (R137). CONST entries and AUX vectors are broadcast. A primitive that is not elementwise takes the entry and
the direction in the IMM bits where the elementwise ones have them (DESIGN CHOICE, log 145). -/
def srcVals (e : ChainEnv) (p sel : Nat) : Vals :=
  match sel with
  | 0 => e.in0
  | 1 => e.in1
  | 6 => fillTile e.rows e.cols (e.consts.getD (prImm p 4 0) .nan)
  | 7 =>
    if prImm p 8 8 = 0 then List.replicate e.rows (e.auxRow.take e.cols)
    else (List.range e.rows).map (fun r => List.replicate e.cols (e.auxCol.getD r .nan))
  | k => e.t.getD (k - 2) []

/-- Apply a function of one value elementwise. -/
def map1 (f : Num → Num) (a : Vals) : Vals := a.map (fun r => r.map f)
/-- Apply a function of two values elementwise. -/
def map2 (f : Num → Num → Num) (a b : Vals) : Vals := List.zipWith (List.zipWith f) a b

/-- Columns of a tile. -/
def columns (cols : Nat) (a : Vals) : List (List Num) := (List.range cols).map (fun c => a.map (fun r => r.getD c .nan))

/-- A long accumulator rounded to the working format by the rounding code (R73, R91). -/
def accRound (e : ChainEnv) (l : LongAcc) : Num := convert .fp32 e.rnd false 0 (accResult .fp32 l)

/-- Sum of a reduction and what it counts: FP64 in order, DET exactly and rounded by ROUND, FAST in chunks (R73, R97, R98, R100, R140,
log 144). -/
def reduceSum (e : ChainEnv) (xs : List Num) : Num × Tally :=
  if e.w = .fp64 then ((fp64Sum none xs).getD (.zero false), fp64Tally xs)
  else if e.det then
    let l := accAddAll accZero xs
    (accRound e l, accTally e.rnd l)
  else ((fastSum none xs).getD (.zero false), fastTally none xs)

/-- The largest of a list: a NaN among it gives the NaN. -/
def maxAll (xs : List Num) : Num := match xs with | [] => .nan | x :: rest => rest.foldl fMax x
/-- The smallest of a list. -/
def minAll (xs : List Num) : Num := match xs with | [] => .nan | x :: rest => rest.foldl fMin x

/-- Softmax of one row (R140). -/
def softmaxRow (e : ChainEnv) (xs : List Num) : List Num × Tally :=
  let m := maxAll xs
  let ds := mapTally (fun x => opTally e.w [x, m] (numSum [x, numNeg m])) xs
  let ex := ds.1.map (fExp e.w)
  let s := reduceSum e ex
  let ys := mapTally (fun y => opTally e.w [y, s.1] (numDiv y s.1)) ex
  (ys.1, tallyAdd ds.2 (tallyAdd s.2 ys.2))

/-- A count as a value. -/
def numNat (n : Nat) : Num := numMk false n 1

/-- The mean of a list: its RSUM over its length. -/
def meanOf (e : ChainEnv) (xs : List Num) : Num × Tally :=
  let s := reduceSum e xs
  let n := numNat xs.length
  let q := opTally e.w [s.1, n] (numDiv s.1 n)
  (q.1, tallyAdd s.2 q.2)
/-- The values of a row over the root of the mean of their squares plus epsilon. -/
def scaleRow (e : ChainEnv) (eps : Num) (xs : List Num) : List Num × Tally :=
  let sq := mapTally (fun x => opTally e.w [x] (numMul x x)) xs
  let v := meanOf e sq.1
  let z := opTally e.w [v.1, eps] (numSum [v.1, eps])
  let k := fRsqrt e.w z.1
  let ys := mapTally (fun x => opTally e.w [x, k] (numMul x k)) xs
  (ys.1, tallySum [sq.2, v.2, z.2, tallyOf [z.1] z.1 k, ys.2])
/-- Normalisation of one row (R140): each step rounded as its primitive. -/
def normRow (e : ChainEnv) (rms : Bool) (eps : Num) (xs : List Num) : List Num × Tally :=
  if rms then scaleRow e eps xs
  else
    let mu := meanOf e xs
    let ds := mapTally (fun x => opTally e.w [x, mu.1] (numSum [x, numNeg mu.1])) xs
    let ys := scaleRow e eps ds.1
    (ys.1, tallySum [mu.2, ds.2, ys.2])

/-- The column an index value names: an integral value from 0 below the column count. Whether −0 is negative the spec does not say: here it
names column 0 (DESIGN CHOICE, log 147). -/
def indexOf (cols : Nat) (x : Num) : Option Nat :=
  match x with
  | .zero _ => if 0 < cols then some 0 else none
  | .fin false n d => if n % d = 0 ∧ n / d < cols then some (n / d) else none
  | _ => none

/-- Is value `x` placed before `y` by SORT: numbers before NaN, in the direction chosen? -/
def sortBefore (desc : Bool) (x y : Num) : Bool :=
  if numIsNan y then true else if numIsNan x then false else if desc then numLe y x else numLe x y

/-- Insert into a sorted list behind its equals: the order kept is that of insertion. -/
def insertSorted (desc : Bool) (p : Num × Nat) : List (Num × Nat) → List (Num × Nat)
  | [] => [p]
  | q :: rest => if sortBefore desc q.1 p.1 then q :: insertSorted desc p rest else p :: q :: rest
/-- Sort a row, with the source column of each value (R140). -/
def sortRow (desc : Bool) (xs : List Num) : List (Num × Nat) :=
  (xs.zipIdx).foldl (fun acc p => insertSorted desc p acc) []

/-- Round to a format and widen back (CVT): microscaling formats by blocks along the row. -/
def cvtRow (o : OutSet) (r : Nat) (xs : List Num) : List Num :=
  let c := convertRow o r xs
  decodeRow o.fmt c.2 c.1

/-- The exact value of ADD, SUB, MUL or DIV. -/
def binExact (pop : Nat) (x y : Num) : Num :=
  match pop with
  | 1 => numSum [x, y]
  | 2 => numSum [x, numNeg y]
  | 3 => numMul x y
  | _ => numDiv x y
/-- Elementwise value of a primitive with two sources. -/
def binVal (w : Fmt) (pop : Nat) (x y : Num) : Num :=
  match pop with
  | 5 => fMax x y
  | 6 => fMin x y
  | k => rne w (binExact k x y)
/-- What it counts. -/
def binTally (w : Fmt) (pop : Nat) (x y : Num) : Tally :=
  if 5 ≤ pop then tallyZero else tallyOf [x, y] (binExact pop x y) (binVal w pop x y)

/-- Elementwise value of a unary primitive. -/
def unVal (w : Fmt) (pop : Nat) (x : Num) : Num :=
  match pop with
  | 0x08 => numNeg x
  | 0x09 => numAbs x
  | 0x0A => rne w (numDiv (.fin false 1 1) x)
  | 0x0B => fSqrt w x
  | 0x0C => fRsqrt w x
  | 0x0D => fExp w x
  | 0x0E => fLog w x
  | 0x0F => fTanh w x
  | 0x10 => fSigmoid w x
  | 0x11 => fGelu w x
  | _ => fSilu w x

/-- The lists that a reduction reduces: the rows, or the columns. -/
def redGroups (e : ChainEnv) (p : Nat) (a : Vals) : List (List Num) := if prImm p 8 8 = 0 then a else columns e.cols a
/-- Its results, one a list: along rows into column 0, along columns into row 0. -/
def redPut (p : Nat) (xs : List Num) : Vals × Shape :=
  if prImm p 8 8 = 0 then (xs.map (fun x => [x]), .col0) else ([xs], .row0)

/-- The partial sets of a PSUM, as many as it names, combined (R94, R140): by rows. -/
def psumRows (e : ChainEnv) (p : Nat) : List (List LongAcc) :=
  let sum := match e.sets.take (psSets p) with
    | [] => []
    | x :: rest => rest.foldl (fun acc y => List.zipWith accCombine acc y) x
  chunksOf e.cols sum.length sum

/-- Add to what a chain has counted. -/
def addTally (e : ChainEnv) (t : Tally) : ChainEnv := { e with tally := tallyAdd e.tally t }

/-- One primitive: its result, how much of the tile it covers, the column indices of a SORT, and the new counts. `d` is
its destination as it stands. -/
def primVals (e : ChainEnv) (t : Stitch) (ws : List Word) (p : Nat) (d : Vals) : Vals × Shape × Option Vals × ChainEnv :=
  let pop := prPop p
  let a := srcVals e p (prSrc1 p)
  let b := srcVals e p (prSrc2 p)
  let plain (v : Vals) (n : Tally) : Vals × Shape × Option Vals × ChainEnv := (v, .whole, none, addTally e n)
  let byRow (f : List Num → List Num × Tally) : Vals × Shape × Option Vals × ChainEnv :=
    let rows := a.map f
    plain (rows.map (fun r => r.1)) (tallySum (rows.map (fun r => r.2)))
  if pop ≤ 6 then plain (map2 (binVal e.w pop) a b) (tallySum (List.zipWith (binTally e.w pop) a.flatten b.flatten))
  else if pop = 7 then
    let xs := d.flatten.zip (a.flatten.zip b.flatten)
    plain (List.zipWith (List.zipWith (fun z xy => rne e.w (numSum [z, xy]))) d (map2 numMul a b))
      (tallySum (xs.map (fun x => (opTally e.w [x.1, x.2.1, x.2.2] (numSum [x.1, numMul x.2.1 x.2.2])).2)))
  else if pop ≤ 0x12 then
    plain (map1 (unVal e.w pop) a) (tallySum (a.flatten.map (fun x => tallyOf [x] x (unVal e.w pop x))))
  else
    match pop with
    | 0x13 =>
      let f := fmtD (prImm p 8 5)
      let g := wordAt ws 4
      let o : OutSet := { fmt := f, rnd := roundOf t.round (prImm p 4 2) f, sat := satOf t.sat (prImm p 1 0), seed := t.seed,
                          tag := opSrTag ws, row0 := fld g 63 32, col0 := fld g 31 0 }
      plain (a.zipIdx.map (fun r => cvtRow o r.2 r.1))
        { ovf := (a.zipIdx.map (fun r => convertOvers o r.2 r.1)).sum, nans := nansMade f o.sat (a.zipIdx.map (fun r => convertOvers o r.2 r.1)).sum (a.flatten.map plainElem), wraps := 0 }
    | 0x14 =>
      let rs := (redGroups e p a).map (reduceSum e)
      let r := redPut p (rs.map (fun x => x.1))
      (r.1, r.2, none, addTally e (tallySum (rs.map (fun x => x.2))))
    | 0x15 => let r := redPut p ((redGroups e p a).map maxAll); (r.1, r.2, none, e)
    | 0x16 => let r := redPut p ((redGroups e p a).map minAll); (r.1, r.2, none, e)
    | 0x17 => byRow (softmaxRow e)
    | 0x18 => byRow (normRow e (decide (prImm p 8 8 = 1)) (e.consts.getD (prImm p 4 0) .nan))
    | 0x19 =>
      let rows := List.zipWith (fun xs is => is.map (fun i => (indexOf e.cols i).map (fun k => xs.getD k .nan))) a b
      let bad := (rows.map (fun r => (r.filter (fun v => v.isNone)).length)).sum
      (rows.map (fun r => r.map (fun v => v.getD .nan)), .whole, none, { e with gathers := e.gathers + bad })
    | 0x1A =>
      let put (row xs is : List Num) : List Num × Nat :=
        (xs.zip is).foldl (fun acc p => match indexOf e.cols p.2 with
          | some k => (acc.1.set k p.1, acc.2)
          | none => (acc.1, acc.2 + 1)) (row, 0)
      let rows := (d.zip (a.zip b)).map (fun x => put x.1 x.2.1 x.2.2)
      (rows.map (fun r => r.1), .whole, none, { e with scatters := e.scatters + (rows.map (fun r => r.2)).sum })
    | 0x1B =>
      let rows := a.map (sortRow (decide (prImm p 8 8 = 1)))
      let idx := rows.map (fun r => r.map (fun x => numNat x.2))
      (rows.map (fun r => r.map (fun x => x.1)), .whole, if prImm p 7 7 = 1 then some idx else none, e)
    | _ =>
      let sum := psumRows e p
      plain (sum.map (fun r => r.map (accRound e))) (tallySum (sum.flatten.map (accTally e.rnd)))

/-- Lay a reduced result over a tile: the rest stays. -/
def overlay (sh : Shape) (v d : Vals) : Vals :=
  match sh with
  | .whole => v
  | .col0 => List.zipWith (fun (x row : List Num) => x.headD .nan :: row.drop 1) v d
  | .row0 => v.headD [] :: d.drop 1

/-- A tile of free values: what a T register holds before a chain writes it (log 28). -/
def freeTile (w : Fmt) (rows cols : Nat) (s : State) : Vals × State :=
  let n := rows * cols
  let v := (List.range rows).map (fun r => (List.range cols).map (fun c =>
    decodeElem w ((Config.freeValue (s.free + r * cols + c)).toNat % 2 ^ fmtBits w)))
  (v, { s with free := s.free + n })

/-- Free tiles for the T registers that a chain's primitives leave partly unwritten: those whose first write is a
reduction. A SORT that writes its values and its indices to T3 leaves T3 free. -/
def freeT (w : Fmt) (rows cols : Nat) (ps : List Nat) (s : State) : List Vals × State :=
  let needs := fun k => match ps.find? (fun p => prDst p = k + 2 || (k = 3 && prPop p = 0x1B && prImm p 7 7 = 1)) with
    | some p => decide (prDst p = k + 2 ∧ 0x14 ≤ prPop p ∧ prPop p ≤ 0x16)
        || ps.any (fun p => k = 3 && prPop p = 0x1B && prImm p 7 7 = 1 && prDst p = 5)
    | none => false
  (List.range 4).foldl (fun acc k =>
    if needs k then let f := freeTile w rows cols acc.2; (acc.1 ++ [f.1], f.2) else (acc.1 ++ [[]], acc.2)) ([], s)

/-- Run the primitives before the last: each writes a T register. -/
def runPrims (t : Stitch) (ws : List Word) : List Nat → ChainEnv → List Vals → ChainEnv
  | [], e, _ => e
  | p :: rest, e, free =>
    let k := prDst p - 2
    let old := if (e.t.getD k []).isEmpty then free.getD k [] else e.t.getD k []
    let r := primVals e t ws p old
    let e := r.2.2.2
    let tt := e.t.set k (overlay r.2.1 r.1 old)
    let tt := match r.2.2.1 with
      | some idx => tt.set 3 (if k = 3 then free.getD 3 [] else idx)
      | none => tt
    runPrims t ws rest { e with t := tt } free

/-- The partial sets that a chain's PSUMs read at IN1, set 0 first (R140): as many as the one that reads most. -/
def psumSets (s : State) (base : Nat) (ws : List Word) : List (List LongAcc) × State :=
  let n := ((chPrims ws).filter (fun p => prPop p = 0x1C)).foldl (fun m p => max m (psSets p)) 0
  let k := chRows ws * chCols ws
  let r := readSlots base ((List.range (n * k)).map (fun i => (chIn1 ws).off + 88 * i)) s
  (chunksOf k r.1.length r.1, r.2)

/-- The codes of a row with only its first element changed. -/
def putFirst (s : State) (base : Nat) (out : Tile) (r code : Nat) (poison : Bool) : State :=
  let bits := fmtBits out.fmt
  let at_ := base + out.off + r * out.pitch
  let n := if bits = 4 then 2 else 1
  let old := unpackCodes bits n (rbs s at_ (rowBytes out.fmt n))
  writeScratch s at_ (packCodes bits (code :: old.drop 1)) poison

/-- Write a chain's result to OUT: whole rows, row 0, or the first element of each row. -/
def putChain (s : State) (base : Nat) (out : Tile) (o : OutSet) (sh : Shape) (v : Vals) (poison : Bool) : State :=
  match sh with
  | .col0 => v.zipIdx.foldl (fun s p => putFirst s base out p.2 ((convertRow o p.2 p.1).1.headD 0) poison) s
  | _ => writeTile s base out o v poison

/-- The columns that each row's indices of a SCATTER name. -/
def scatterNames (e : ChainEnv) (p : Nat) : List (List Nat) := (srcVals e p (prSrc2 p)).map (fun is => is.filterMap (indexOf e.cols))

/-- Give the elements of OUT that no index of a SCATTER names the codes they had in `before`: they are unchanged (R139). In an MX format a
block none of whose elements is named keeps its scale too. -/
def keepUnnamed (before s : State) (base : Nat) (out : Tile) (named : List (List Nat)) (poison : Bool) : State :=
  let per := if fmtIsMx out.fmt then 32 else 1
  let keep := fun (r k : Nat) => !(named.getD r []).any (fun c => decide (c / per = k))
  let mix := fun (a b : List (List Nat)) (n : Nat) =>
    (a.zip b).zipIdx.map (fun p => (p.1.1.zip p.1.2).zipIdx.map (fun x => if keep p.2 (x.2 / n) then x.1.1 else x.1.2))
  let s := writeRuns s (codeRuns base out (mix (readCodes before base out) (readCodes s base out) per)) poison
  if per = 1 then s
  else
    let scales := fun (t : State) => (List.range out.rows).map (fun r =>
      (rbs t (base + out.soff + r * (out.cols / 32)) (out.cols / 32)).map (fun b => b.toNat))
    writeRuns s [(base + out.soff, (mix (scales before) (scales s) 1).flatten.map (BitVec.ofNat 8))] poison

/-- The offsets of the partial slots that a final RSUM or PSUM writes. -/
def partialOffs (out : Tile) (sh : Shape) : List Nat :=
  match sh with
  | .col0 => (List.range out.rows).map (fun r => out.off + r * out.pitch)
  | .row0 => (List.range out.cols).map (fun c => out.off + 88 * c)
  | .whole => slotOffs out

/-- The rounding of a long accumulator in a chain: the op's code, with RNE where it resolves to SR, as FP32 is wider than 8 bits (R73, R91,
R118, log 144). -/
def chainRnd (t : Stitch) (ws : List Word) : Rnd := match roundOf t.round (opRound ws) .fp32 with | .sr => .rne | m => m

/-- The partial that a final RSUM writes for one list: its exact sum; an FP64 sum, which R100 forms in FP64, as the FP32 value nearest to it
(DESIGN CHOICE, log 152). -/
def sumPartial (e : ChainEnv) (xs : List Num) : LongAcc :=
  if e.w = .fp64 then accAdd accZero (rne .fp32 (reduceSum e xs).1) else accAddAll accZero xs

/-- Count what a chain's primitives gave; its status (R85, R91, R139). -/
def countChain (s : State) (q : Nat) (e : ChainEnv) (poison : Bool) : State × Status :=
  (countTally (countQ (countQ s q 6 e.gathers) q 7 e.scatters) q e.tally, if poison then .poison else if e.tally.wraps = 0 then .ok else .numeric)

/-- CHAIN: inputs are converted to the working format, the primitives run in order, and the last one's result is
converted to OUT, or written as partials (R136 to R141). -/
def doChain (s : State) (l : Nat) (t : Stitch) (ws : List Word) : State × Status :=
  let base := scratchBase l
  let q := lanQuarter l
  let w : Fmt := if chWide ws then .fp64 else .fp32
  let rows := chRows ws
  let cols := chCols ws
  let prims := chPrims ws
  let last := prims.getLastD 0
  let out := chOut ws
  let toW (v : Vals) := map1 (rne w) v
  let sets := psumSets s base ws
  let free := freeT w rows cols prims.dropLast sets.2
  let s := free.2
  let in0 := if chReads ws 0 then toW (readTile s base (chIn0 ws)) else []
  let in1 := if chReads ws 1 then toW (readTile s base (chIn1 ws)) else []
  let old := if popReadsDst (prPop last) then toW (readTile s base out) else []
  let e : ChainEnv :=
    { w := w, det := t.det, rnd := chainRnd t ws, rows := rows, cols := cols, in0 := in0, in1 := in1, out := old, t := [[], [], [], []],
      consts := (readVec s base (chConst ws) 32).map (rne w), auxRow := (readVec s base (chAux ws) cols).map (rne w),
      auxCol := (readVec s base (chAux ws) rows).map (rne w), sets := sets.1, tally := tallyZero, gathers := 0, scatters := 0 }
  let e := runPrims t ws prims.dropLast e free.1
  let r := primVals e t ws last old
  let done := r.2.2.2
  let regs := match r.2.2.1 with | some idx => e.t.set 3 idx | none => e.t
  let poison := runsPoisoned s base (chReadRuns ws)
    || (popReadsDst (prPop last) && runsPoisoned s base (tileRuns out))
  let s := modLantern s l (fun x => { x with chain := regs })
  if chPartial ws then
    let accs := if prPop last = 0x1C then (psumRows e last).flatten
      else (redGroups e last (srcVals e last (prSrc1 last))).map (sumPartial e)
    countChain (putSlots base poison ((partialOffs out r.2.1).zip accs) s) q e poison
  else
    let o := outSet t ws out.fmt (wordAt ws 4)
    let put := putChain s base out o r.2.1 r.1 poison
    let s := if prPop last = 0x1A then keepUnnamed s put base out (scatterNames e last) poison else put
    let s := countOut s q out.fmt o.sat ((r.1.zipIdx.map (fun p => convertOvers o p.2 p.1)).sum) (r.1.flatten.map plainElem)
    countChain s q done poison

/-- CHAIN. -/
def chainOp (s : State) (l : Nat) : State := issueOp s l 16 (fun s i => atOnce l (doChain s l i.st i.ws))
/-- CHAIN. -/
def execChain (l : Nat) (s : State) : Host.Outcome State Fault Refusal := .next (chainOp s l)

end Sys2Proof.Machine
end

