-- ==== Sys2Proof/WellFormed.lean ====
section
/-! DEFINITION. Which commands are well formed: every operand lies in the range that the spec gives what it names. A command that
is not well formed names nothing of the block; its meaning is still total. -/

namespace Sys2Proof.WellFormed

/-- A quarter (R16). -/
def quarterOk (q : Nat) : Bool := decide (q < 4)
/-- A host port (R354). -/
def portOk (p : Nat) : Bool := decide (p < 2)
/-- A hoop of the node (R322). -/
def hoopOk (h : Nat) : Bool := decide (h < 64)
/-- A register number of an S core (R159). -/
def regOk (r : Nat) : Bool := decide (r < 32)
/-- A logical lantern: 40 M, 16 V and 8 S in each quarter (R24, R27). -/
def lanternOk (l : Nat) : Bool :=
  decide (l < 1024) && decide (l % 64 < (match l / 64 % 4 with | 0 => 40 | 1 => 16 | 2 => 8 | _ => 0))
/-- A requester (R586). -/
def reqOk (who : Req) : Bool :=
  match who with
  | .pf p => portOk p
  | .vf n => decide (n < 64)
  | .mgmt => true
/-- An engine of R260 or the front end. -/
def engOk (e : Eng) : Bool :=
  match e with
  | .lan l | .dma l => lanternOk l
  | .core l c => lanternOk l && decide (c < 8)
  | .mover q i => quarterOk q && decide (i < 16)
  | .coll q i => quarterOk q && decide (i < 2)
  | .cse n => decide (n < 256)
  | .fe => true
  | .host who => reqOk who
/-- A link of R249. -/
def linkOk (k : LinkId) : Bool :=
  match k with
  | .mesh q | .hub q => quarterOk q
  | .bridge d => decide (d < 8)
/-- What a confirming read follows (R390). -/
def confirmOk (c : Confirm) : Bool :=
  match c with
  | .ring q => decide (q < 4096)
  | .work q e => decide (q < 4096) && decide (e < 65536)
  | .faults h | .inval h | .save h => hoopOk h
  | .dump | .dumpExport => true
/-- A fault as R489 reports it. -/
def faultOk (f : FaultInfo) : Bool :=
  decide (f.cls < 28) && decide (f.access < 8) && decide (f.masterKind < 16) && decide (f.master < 65536)
    && (match f.hoop with | some h => hoopOk h | none => true) && (match f.ctx with | some c => decide (c < 1024) | none => true)
/-- The target of a reset level: a context, an engine, a hoop, or the device (R506). -/
def targetOk (level t : Nat) : Bool :=
  match level with
  | 1 => decide (t < 1024)
  | 2 => lanternOk t || (decide (2 ^ 14 ≤ t) && decide (t < 2 ^ 14 + 1024))
  | 3 => hoopOk t
  | _ => decide (t = 0)
/-- The header fields of a message fit their widths, and LENGTH is that of the data (R593). -/
def msgOk (m : SdpMsg) : Bool :=
  decide (m.session < 2 ^ 32) && decide (m.seq < 2 ^ 32) && decide (m.index < 65536) && decide (m.sub < 256)
    && decide (m.flags < 256) && decide (m.first < 2 ^ 32) && decide (m.count < 65536) && decide (m.result < 256)
    && decide (m.reserved < 256) && decide (m.length = m.data.length)
/-- Is an access of BAR0 or BAR2 one of BAR_ACCESS_DROP's: of 1 to 8 bytes inside the BAR, and no write that is a doorbell of its own? -/
def dropOk (bar off len : Nat) (isRead : Bool) : Bool :=
  (bar == 0 || bar == 2) && decide (1 ≤ len) && decide (len ≤ 8) && decide (off + len ≤ (if bar = 0 then 0x4000000 else 0x1000000))
    && (isRead || bar == 0 || !(decide (off % 8 = 0) && decide (off % 4096 < 16) && (len == 4 || len == 8)))
/-- An access on the debug port (R539). -/
def debugOk (a : DebugAcc) : Bool :=
  match a with
  | .readLocal addr len => decide (addr + len ≤ 2 ^ 40)
  | .writeLocal addr data => decide (addr + data.length ≤ 2 ^ 40)
  | .readState l => lanternOk l
  | .control l run => lanternOk l && decide (run < 3)
  | .scan => true
/-- Is a word an integer instruction of RV64I or of its M extension: LUI, AUIPC, JAL, JALR, a branch, OP-IMM, OP, OP-IMM-32 or OP-32? -/
def intWordOk (w : Nat) : Bool :=
  let f3 := w / 4096 % 8
  let f7 := w / 2 ^ 25
  let some_ (ks : List Nat) (k : Nat) := ks.contains k
  match w % 128 with
  | 0x37 | 0x17 | 0x6F => true
  | 0x67 => f3 = 0
  | 0x63 => some_ [0, 1, 4, 5, 6, 7] f3
  | 0x13 => if f3 = 1 then f7 / 2 = 0 else if f3 = 5 then f7 / 2 = 0 || f7 / 2 = 16 else true
  | 0x33 => f7 = 0 || f7 = 1 || (f7 = 32 && (f3 = 0 || f3 = 5))
  | 0x1B => if f3 = 0 then true else if f3 = 1 then f7 = 0 else if f3 = 5 then f7 = 0 || f7 = 32 else false
  | 0x3B => (f7 = 0 && some_ [0, 1, 5] f3) || (f7 = 1 && some_ [0, 4, 5, 6, 7] f3) || (f7 = 32 && (f3 = 0 || f3 = 5))
  | _ => false
/-- An instruction of an S core names registers it has and sizes of 1 to 8 bytes (R159, R161). -/
def coreOpOk (o : CoreOp) : Bool :=
  let size := fun n : Nat => [1, 2, 4, 8].contains n
  match o with
  | .load rd rs1 _ n _ => regOk rd && regOk rs1 && size n
  | .store rs1 rs2 _ n => regOk rs1 && regOk rs2 && size n
  | .loadF rd rs1 _ n => regOk rd && regOk rs1 && size n
  | .storeF rs1 rs2 _ n => regOk rs1 && regOk rs2 && size n
  | .loadV rd _ => regOk rd
  | .storeV rs _ => regOk rs
  | .fence p q => decide (p < 4) && decide (q < 4)
  | .csr w => decide (w.toNat % 128 = 0x73) && decide (w.toNat / 4096 % 4 ≠ 0)
  | .int w => intWordOk w.toNat
  | .wrs _ => true
  | .setX rd _ f | .setF rd _ f => regOk rd && decide (f < 32)
  | .setV rd vs f _ => regOk rd && decide (rd + vs.length ≤ 32) && decide (f < 32)
  | .setVl rd _ _ | .jump rd _ => regOk rd
  | .custom _ => true

end Sys2Proof.WellFormed

namespace Sys2Proof

open WellFormed

/-- Is the command well formed? -/
def Instr.wf (i : Instr) : Bool :=
  match i with
  | .quarterStoreRead q off len => quarterOk q && decide (off + len ≤ 0x4000000)
  | .mergeWindowExpire q line => quarterOk q && decide (line < 0x4000000)
  | .quarterStoreWrite q off data _ => quarterOk q && decide (off + data.length ≤ 0x4000000)
  | .pllStop q => quarterOk q
  | .pllLock q => quarterOk q
  | .lanternWakeDone l => lanternOk l
  | .lanternGate l => lanternOk l
  | .stitch queue entry => decide (queue < 4096) && decide (entry < 65536)
  | .stitchChoose hoop => hoopOk hoop
  | .strandStart l => lanternOk l
  | .load l => lanternOk l
  | .store l => lanternOk l
  | .mma l => lanternOk l
  | .transpose l => lanternOk l
  | .convert l => lanternOk l
  | .bcastAdd l => lanternOk l
  | .zero l => lanternOk l
  | .alloc l => lanternOk l
  | .wait l => lanternOk l
  | .signal l => lanternOk l
  | .inval l => lanternOk l
  | .chain l => lanternOk l
  | .tileOpComplete l op => lanternOk l && decide (op < 65536)
  | .strandComplete l => lanternOk l
  | .stitchStop queue entry => decide (queue < 4096) && decide (entry < 65536)
  | .xwait l c rd rs1 rs2 _ => lanternOk l && decide (c < 8) && regOk rd && regOk rs1 && regOk rs2
  | .xsignal l c rs1 rs2 _ => lanternOk l && decide (c < 8) && regOk rs1 && regOk rs2
  | .xfread l c rd rs1 => lanternOk l && decide (c < 8) && regOk rd && regOk rs1
  | .xtile l c rd rs1 => lanternOk l && decide (c < 8) && regOk rd && regOk rs1
  | .xtsync l c rd rs1 => lanternOk l && decide (c < 8) && regOk rd && regOk rs1
  | .xpicot l c rs1 rs2 => lanternOk l && decide (c < 8) && regOk rs1 && regOk rs2
  | .xcinv l c rs1 rs2 _ => lanternOk l && decide (c < 8) && regOk rs1 && regOk rs2
  | .xdrain l c => lanternOk l && decide (c < 8)
  | .xalloc l c rd rs1 rs2 _ => lanternOk l && decide (c < 8) && regOk rd && regOk rs1 && regOk rs2
  | .xfree l c rs1 => lanternOk l && decide (c < 8) && regOk rs1
  | .xexit l c rs1 => lanternOk l && decide (c < 8) && regOk rs1
  | .cboInval l c rs1 => lanternOk l && decide (c < 8) && regOk rs1
  | .cboClean l c rs1 => lanternOk l && decide (c < 8) && regOk rs1
  | .cboFlush l c rs1 => lanternOk l && decide (c < 8) && regOk rs1
  | .cboZero l c rs1 => lanternOk l && decide (c < 8) && regOk rs1
  | .amo l c _ _ _ _ rd rs1 rs2 => lanternOk l && decide (c < 8) && regOk rd && regOk rs1 && regOk rs2
  | .lr l c _ _ _ rd rs1 => lanternOk l && decide (c < 8) && regOk rd && regOk rs1
  | .sc l c _ _ _ rd rs1 rs2 => lanternOk l && decide (c < 8) && regOk rd && regOk rs1 && regOk rs2
  | .wrsStoTimeout l c => lanternOk l && decide (c < 8)
  | .coreException l c cause _ => lanternOk l && decide (c < 8) && decide (cause < 64)
  | .dmaOpStart l => lanternOk l
  | .dmaOpComplete l core _ => lanternOk l && decide (core < 8)
  | .slotOpen queue entry => decide (queue < 4096) && decide (entry < 65536)
  | .slotClose queue entry => decide (queue < 4096) && decide (entry < 65536)
  | .cseRequestStart slot => decide (slot < 256)
  | .csePassStart slot => decide (slot < 256)
  | .csePassEnd slot => decide (slot < 256)
  | .query slot _ => decide (slot < 256)
  | .partialMsg slot _ => decide (slot < 256)
  | .max slot _ => decide (slot < 256)
  | .gmax slot _ => decide (slot < 256)
  | .credit slot _ => decide (slot < 256)
  | .fail slot _ => decide (slot < 256)
  | .mailboxAccessDrop q => quarterOk q
  | .ringTimeout slot => decide (slot < 256)
  | .bobbinRead b off len => decide (b < 12) && decide (off + len ≤ 0xFC0000000)
  | .bobbinWrite b off data _ => decide (b < 12) && decide (off + data.length ≤ 0xFC0000000)
  | .partialBlockMerge b => decide (b < 12)
  | .linkCrcError link _ => linkOk link
  | .move queue entry => decide (queue < 4096) && decide (entry < 65536)
  | .moverDispatch q => quarterOk q
  | .copy q m => quarterOk q && decide (m < 16)
  | .gather q m => quarterOk q && decide (m < 16)
  | .scatter q m => quarterOk q && decide (m < 16)
  | .fill q m => quarterOk q && decide (m < 16)
  | .moverDescriptorComplete q m => quarterOk q && decide (m < 16)
  | .scratchpadWindowAccess who l off d len => reqOk who && lanternOk l && (match d with | some x => decide (x.length = len) | none => true) && decide (off + len ≤ 0x200000)
  | .rangeCommit who row _ => reqOk who && decide (row < 65536)
  | .walkComplete _ => true
  | .faultRecordWrite hoop => hoopOk hoop
  | .faultRecordTimeout hoop => hoopOk hoop
  | .frHeadWrite who hoop _ => reqOk who && hoopOk hoop
  | .frConfigWrite who hoop _ _ => reqOk who && hoopOk hoop
  | .hotWriteBack hoop => hoopOk hoop
  | .invalEntry who _ => reqOk who
  | .invalAspace who _ => reqOk who
  | .invalHoop who _ => reqOk who
  | .replay who _ => reqOk who
  | .invalComplete hoop => hoopOk hoop
  | .hoopCreate who _ => reqOk who
  | .hoopRebind who _ => reqOk who
  | .rebindApply hoop => hoopOk hoop
  | .hoopDestroy who _ => reqOk who
  | .destroyDone hoop => hoopOk hoop
  | .hoopCancel who _ => reqOk who
  | .unitScrubDone b => decide (b < 12)
  | .retiredLanternRemove hoop => hoopOk hoop
  | .nodeIdWrite who _ => reqOk who
  | .epochStage who _ => reqOk who
  | .epochOpen who _ => reqOk who
  | .epochCommit who _ => reqOk who
  | .epochAbandon who _ => reqOk who
  | .remoteTimeout node => decide (node < 256)
  | .markLost who _ => reqOk who
  | .elpRead eye => decide (eye < 8)
  | .elpWrite eye => decide (eye < 8)
  | .elpPicot eye => decide (eye < 8)
  | .elpFence eye => decide (eye < 8)
  | .elpReadData eye => decide (eye < 8)
  | .elpAck eye => decide (eye < 8)
  | .flitData eye flit => decide (eye < 8) && decide (flit.length = 256)
  | .flitIdle eye flit => decide (eye < 8) && decide (flit.length = 256)
  | .flitNak eye flit => decide (eye < 8) && decide (flit.length = 256)
  | .ctrlHello eye version node _ window _ _ => decide (eye < 8) && decide (version < 256) && decide (node < 256) && decide (window < 65536)
  | .ctrlSpareRequest eye lane => decide (eye < 8) && decide (lane < 9)
  | .ctrlSpareSwitch eye _ => decide (eye < 8)
  | .laneFailing eye lane => decide (eye < 8) && decide (lane < 9)
  | .spareTrained eye => decide (eye < 8)
  | .retrainTimeout eye => decide (eye < 8)
  | .eyeletEnable who eye _ => reqOk who && decide (eye < 8)
  | .eyeletTrained eye _ => decide (eye < 8)
  | .collective queue entry => decide (queue < 4096) && decide (entry < 65536)
  | .allReduce q m => quarterOk q && decide (m < 2)
  | .reduceScatter q m => quarterOk q && decide (m < 2)
  | .allGather q m => quarterOk q && decide (m < 2)
  | .collectiveInFlag q m => quarterOk q && decide (m < 2)
  | .collectiveFreeFlag q m => quarterOk q && decide (m < 2)
  | .collectiveAbortFlag q m _ => quarterOk q && decide (m < 2)
  | .collectiveTimeout q m => quarterOk q && decide (m < 2)
  | .flrVf n => decide (n < 64)
  | .flrPf port => portOk port
  | .perst port => portOk port
  | .perstRelease port => portOk port
  | .cxlMemRead port dec _ len => portOk port && decide (dec < 4) && decide (len = 64)
  | .cxlMemWrite port dec _ data => portOk port && decide (dec < 4) && decide (data.length = 64)
  | .bar4Read who _ len => reqOk who && decide (1 ≤ len)
  | .bar4Write who _ data => reqOk who && decide (1 ≤ data.length)
  | .fenceWindowRead who g => reqOk who && decide (g < 16384)
  | .queueCreate who _ => reqOk who
  | .destroyDrain who _ => reqOk who
  | .destroyAbort who _ => reqOk who
  | .queueDestroyDone queue => decide (queue < 4096)
  | .queueResume who _ => reqOk who
  | .sqTailWrite who queue _ => reqOk who && decide (queue < 4096)
  | .cqHeadWrite who queue _ => reqOk who && decide (queue < 4096)
  | .entryRead queue => decide (queue < 4096)
  | .entryAdmit queue => decide (queue < 4096)
  | .seam queue entry => decide (queue < 4096) && decide (entry < 65536)
  | .fence queue entry => decide (queue < 4096) && decide (entry < 65536)
  | .imageLoad queue entry => decide (queue < 4096) && decide (entry < 65536)
  | .imageLoadDone queue entry => decide (queue < 4096) && decide (entry < 65536)
  | .imageUnload queue entry => decide (queue < 4096) && decide (entry < 65536)
  | .completionRecordWrite queue => decide (queue < 4096)
  | .confirmingReadDone what _ => confirmOk what
  | .hostReadError eng access => engOk eng && decide (access.queue < 4096)
  | .contextCreate who _ => reqOk who
  | .contextTeardown who _ => reqOk who
  | .teardownDone ctx => decide (ctx < 1024)
  | .fenceAlloc who _ => reqOk who
  | .fenceFree who _ => reqOk who
  | .fenceReset who _ => reqOk who
  | .fenceSignal g _ _ via => decide (g < 16384) && (match via with | some who => reqOk who | none => true)
  | .objectCreate who _ => reqOk who
  | .objectRef who _ => reqOk who
  | .objectUnref who _ => reqOk who
  | .heapConfigWrite who hoop _ _ _ _ => reqOk who && hoopOk hoop
  | .contextStuck ctx => decide (ctx < 1024)
  | .swapOut ctx => decide (ctx < 1024)
  | .swapIn ctx => decide (ctx < 1024)
  | .swapAreaWrite who hoop _ _ => reqOk who && hoopOk hoop
  | .samplerControlWrite who hoop _ _ => reqOk who && hoopOk hoop
  | .samplerPeriod hoop => hoopOk hoop
  | .samplerSlot hoop => hoopOk hoop
  | .portServe port => decide (port < 32)
  | .powerReqActive who => reqOk who
  | .powerReqDrowse who => reqOk who
  | .powerReqWickOnly who => reqOk who
  | .opStepDone q => quarterOk q
  | .railSample currents => decide (currents.length = 14)
  | .activityInterval activity => decide (activity.length = 4)
  | .capStep _ => true
  | .sensorRead temps => decide (temps.length = 272)
  | .thermalStep q => quarterOk q
  | .stackTempRead temps => decide (temps.length = 12)
  | .faultLatch f => faultOk f
  | .fenceReactionDone cls failed => decide (cls < 28) && failed.all (fun p => decide (p < 1024))
  | .graceExpiry cls => decide (cls < 28)
  | .statusWordWrite who _ => reqOk who
  | .inject who _ _ => reqOk who
  | .stitchWatchdog queue entry => decide (queue < 4096) && decide (entry < 65536)
  | .queueNoprogress queue => decide (queue < 4096)
  | .lanternHeartbeat l => lanternOk l
  | .resetL1 who _ => reqOk who
  | .resetL2 who _ => reqOk who
  | .resetL3 who _ => reqOk who
  | .resetL4Warm who _ => reqOk who
  | .resetL4Cold who _ => reqOk who
  | .resetL5 who _ => reqOk who
  | .drainAllowanceEnd level target => decide (1 ≤ level ∧ level ≤ 6) && targetOk level target
  | .selfCheckDone target _ => targetOk 2 target
  | .resetOverrun level target => decide (1 ≤ level ∧ level ≤ 6) && targetOk level target
  | .dumpRelease who _ => reqOk who
  | .dumpExport who _ => reqOk who
  | .dumpExportDone _ => true
  | .transitionFactoryTest who _ => reqOk who
  | .transitionProvisioned who _ => reqOk who
  | .transitionMission who _ => reqOk who
  | .transitionFieldReturn who _ => reqOk who
  | .transitionScrap who _ => reqOk who
  | .signedWrite who _ => reqOk who
  | .debugToken who _ => reqOk who
  | .enter who _ => reqOk who
  | .change who _ => reqOk who
  | .exit who _ => reqOk who
  | .quiesce who _ => reqOk who
  | .quiescedReached hoop => hoopOk hoop
  | .quiesceTimeout hoop => hoopOk hoop
  | .instanceResume who _ => reqOk who
  | .freeze who _ => reqOk who
  | .save who _ => reqOk who
  | .restore who _ => reqOk who
  | .selConfigWrite who row _ => reqOk who && decide (row < 272)
  | .windowUsWrite who _ => reqOk who
  | .peakReset who _ => reqOk who
  | .dumpHeadWrite who _ => reqOk who
  | .dumpConfigWrite who _ _ _ _ => reqOk who
  | .hbmCorrectedError b off => decide (b < 12) && decide (off < 0xFC0000000)
  | .granuleRemap b off => decide (b < 12) && decide (off < 0xFC0000000)
  | .remapCopyDone b => decide (b < 12)
  | .sessionOpen _ _ m => msgOk m
  | .sessionClose m => msgOk m
  | .read who m => reqOk who && msgOk m
  | .write who m => reqOk who && msgOk m
  | .describe who m => reqOk who && msgOk m
  | .nop who m => reqOk who && msgOk m
  | .seqRepeat session => decide (session < 2 ^ 32)
  | .mbControlGo who _ op m => reqOk who && decide (op < 256) && msgOk m
  | .apertureAccess who _ _ d len => reqOk who && (d.isNone || decide (len = 4 ∨ len = 8))
  | .sessionTimeout session => decide (session < 2 ^ 32)
  | .registerWrite who index sub row ws => reqOk who && decide (index < 65536) && decide (sub < 256) && decide (row < 65536) && !ws.isEmpty
  | .supplyApplied _ => true
  | .hubSelfCheckDone _ => true
  | .coreInstruction l c _ op => lanternOk l && decide (c < 8) && coreOpOk op
  | .mainLow _ => true
  | .hostLinkTrained port width speed _ _ => portOk port && [2, 4, 8, 16].contains width && decide (1 ≤ speed ∧ speed ≤ 3)
  | .hdmDecoderCommit port dec _ _ ways gran => portOk port && decide (dec < 4) && [1, 2, 4, 8].contains ways && [256, 512, 1024, 2048, 4096, 8192, 16384].contains gran
  | .debugPortAccess acc => debugOk acc
  | .resetEnd level target => decide (1 ≤ level ∧ level ≤ 6) && targetOk level target
  | .barAccessDrop access isRead => reqOk access.who && dropOk access.bar access.off access.len isRead
  | .timestampRealign q => quarterOk q
  | .getVersion who => reqOk who
  | .getCapabilities who => reqOk who
  | .negotiateAlgorithms who => reqOk who
  | .getDigests who => reqOk who
  | .getCertificate who => reqOk who
  | .challenge who nonce => reqOk who && decide (nonce < 2 ^ 256)
  | .getMeasurements who => reqOk who
  | .keyExchange who => reqOk who
  | .finish who => reqOk who
  | .blobStagingTimeout index sub => decide (index < 65536) && decide (sub < 256)
  | .setEndpointId eid => decide (8 ≤ eid ∧ eid < 255)
  | .neighbourDiscovery target => decide (target < 2 ^ 128)
  | .icmpv6Echo _ => true
  | .tdispRequest n _ => decide (n < 64)
  | .ideStreamSetup port stream selective => portOk port && (!selective || decide (stream < 4))
  | .wickTimeAdvance => true
  | .hbmZeroDone => true
  | .picotWriteLand => true
  | .epochDrainTimeout => true
  | .allocatorRequest => true
  | .flossWindowEnd => true
  | .mainLost => true
  | .backupStopped => true
  | .mainQualified => true
  | .holdUpExhausted => true
  | .auxOutOfRange => true
  | .drowseWake => true
  | .pwrcycTimeout => true
  | .transitionPhaseDone => true
  | .debugTokenExpire => true
  | .keyEpochDrained => true
  | .keyScrubDone => true
  | .bwWindowEnd => true
  | .dumpPeriod => true
  | .sdpMessageDrop => true
  | .mainApplied => true
  | .auxInRange => true
  | .auxLost => true

end Sys2Proof
end

