-- ==== Sys2Proof/Machine/Scalar.lean ====
section
/-! DEFINITION. Scalar lanterns (R158 to R187): the cores' accesses and L1s, ordinary instructions, Xetp, cache operations,
atomics, exceptions, and the DMA engine. -/

namespace Sys2Proof.Machine

/-! ### Exceptions (R184, R185) -/

/-- The status of an exception cause (R184). -/
def causeStatus (cause : Nat) : Option Status :=
  match cause with
  | 1 | 5 | 7 => some .rights
  | 2 | 4 | 6 => some .format
  | 3 | 8 => some .aborted
  | _ => none

/-- The identity of a core's accesses. -/
def coreAcc (s : State) (l c : Nat) : Acc :=
  match (lantern s l).cur with
  | some r => accOf s (.core l c) r.ctx (((strandOf s r).map (fun p => p.1.floss)).getD 0) 0
  | none => accOf s (.core l c) 1024 0 0

/-- The row that marks a trap record's write among a core's requests. -/
def trapRow : Nat := 2 ^ 64
/-- A trap record is dropped and counted (R185, R431). -/
def trapDropped (s : State) (l : Nat) : State := countQ s (lanQuarter l) 8 1
/-- The trap record of an exception (R185). -/
def trapRecord (s : State) (l c : Nat) (cause : Nat) (st : Status) (tval : Word) : List Byte :=
  leBytes 8 (core s l c).pc.toNat ++ leBytes 8 tval.toNat ++ leBytes 2 cause ++ [BitVec.ofNat 8 (statusCode st)]
    ++ [BitVec.ofNat 8 c] ++ leBytes 4 0 ++ leBytes 8 (wick s)

/-- Write a trap record, or drop it and count it. The lantern writes it, so that an address in the local aperture is translated as any other
is (R161, R185; DESIGN CHOICE, log 187). A record whose place's clocks or lantern must wake waits. -/
def writeTrap (s : State) (l c trapVa : Nat) (bs : List Byte) : Out Unit :=
  let a := { coreAcc s l c with row := trapRow }
  let o := (resolveNow s a (trapVa + 32 * c) 1 32).andThen (fun p s => (piecesReady s a true false [p]).andThen (fun _ s =>
    (remoteWritesReady s a [p]).andThen (fun _ s => .ok () (putPieces s a { bytes := bs, poison := false } 0 [p]))))
  match o with
  | .fail _ s => .ok () (trapDropped s l)
  | o => o

/-- A core takes an exception: its trap record is written, and the strand ends with the cause's status. -/
def coreTrap (s : State) (l c cause : Nat) (tval : Word) : State :=
  match causeStatus cause, (lantern s l).cur with
  | some st, some r =>
    let trapVa := match strandOf s r with
      | some (_, d) => (wordAt (d.first.getD 0 []) 1).toNat
      | none => 0
    if trapVa = 0 then endStrand s l st
    else
      match writeTrap s l c trapVa (trapRecord s l c cause st tval) with
      | .ok _ s => endStrand s l st
      | o => o.state
  | _, _ => s

/-- May a core execute: started, its part not over, its strand running? -/
def coreLive (s : State) (l c : Nat) : Bool :=
  let k := core s l c
  enginesRun s && k.on && !k.ended && (match (lantern s l).cur with | some r => !r.ended | none => false)

/-- CORE_EXCEPTION: a synchronous exception ends the strand (R184, R185). -/
def coreException (s : State) (l c cause : Nat) (tval : Word) : State :=
  if coreLive s l c then coreTrap s l c cause tval else s
/-- CORE_EXCEPTION. -/
def execCoreException (l c cause : Nat) (tval : Word) (s : State) : Host.Outcome State Fault Refusal :=
  .next (coreException s l c cause tval)

/-! ### Fetching and issuing (R157, R162, R184) -/

/-- The exit address (R168). -/
def exitAddr : Word := 0x01FFFFFFFFF7F000
/-- First address of the local aperture (R161). -/
def apertureBase : Nat := 0x01FFFFFFFFF80000

/-- Does a local address lie in an S code section of an image loaded by the hoop (R157)? -/
def inCode (s : State) (h a : Nat) : Bool :=
  (hoop s h).images.any (fun i => !i.loading && i.code.any (fun p => decide (p.1 ≤ a) && decide (a < p.1 + p.2)))

/-- Enter a line in a cache of 512 lines: a full one replaces a line that the spec does not name (R163), chosen by a free
value (log 26). -/
def enterL1 {α : Type} [DecidableEq α] (s : State) (lines : List α) (x : α) : List α × State :=
  if lines.length < 512 then (lines ++ [x], s)
  else
    let p := takeFree s
    let victim := lines[p.1.toNat % lines.length]?
    (dropFirst (fun z => decide (some z = victim)) lines ++ [x], p.2)

/-- The bytes of an aligned 64-byte line, from its start, that lie in S code of the hoop's images: a section begins on a multiple of 64
of an image whose destination is 4 KiB aligned (R154, R377). -/
def codeBytes (s : State) (h m : Nat) : Nat := ((List.range 64).takeWhile (fun i => inCode s h (m + i))).length
/-- Fetch two bytes of an instruction: from the instruction L1, or from a loaded S code section through it (R157, R166). -/
def fetchPart (s : State) (l c va : Nat) : Out Unit :=
  let k := core s l c
  let a := coreAcc s l c
  let line := alignDown va 64
  match k.il1.find? (fun x => decide (x.1 = a.hoop) && decide (x.2.1 = a.aspace) && decide (x.2.2.1 = line)) with
  | some x => if va % 64 + 2 ≤ x.2.2.2 then .ok () s else .fail .rights s
  | none =>
    (placeVa s a va 2 3 false).andThen (fun p s =>
      match p.place with
      | .loc m =>
        let n := codeBytes s a.hoop (alignDown m 64)
        if va % 64 + 2 ≤ n then
          let r := takePiece s a 3 { p with va := line, len := n, place := .loc (alignDown m 64) }
          if r.1.poison then .fail .poison r.2
          else
            let e := enterL1 r.2 k.il1 (a.hoop, a.aspace, line, n)
            .ok () (modCore e.2 l c (fun k => { k with il1 := e.1 }))
        else .fail .rights s
      | .peer _ _ => .fail .rights s)
/-- The fetch of a core's next instruction of `len` bytes; on a failure the address of the part that failed goes with it. -/
def fetch (s : State) (l c len : Nat) : Word × Out Unit :=
  let pc := (core s l c).pc
  match fetchPart s l c (pc.toNat % 2 ^ 57) with
  | .ok _ s => if len ≤ 2 then (pc, .ok () s) else (pc + 2, fetchPart s l c ((pc + 2).toNat % 2 ^ 57))
  | o => (pc, o)

/-- A stalled WRS whose reservation is gone has ended (R160). -/
def wrsOver (s : State) (l c : Nat) : Bool :=
  match (core s l c).stall with
  | .wrs _ => !s.mem.resv.any (fun r => decide (r.l = l) && decide (r.c = c))
  | _ => false

/-- x[r] of a core. -/
def xr (s : State) (l c r : Nat) : Word := (core s l c).x.getD r 0

/-- A core's part ends with a status; any other value than OK and ABORTED ends the strand with FORMAT (R169, R182). -/
def coreExit (s : State) (l c : Nat) (v : Word) : State :=
  if v = 0 ∨ v = 1 then
    modCore (retire s l c 4 id) l c (fun k => { k with ended := true, status := if v = 1 then .aborted else .ok })
  else endStrand s l .format

/-- Issue one instruction of a core, `len` bytes long: it is live, not stalled, its lantern ready and its instruction fetched. A fetch at the exit address
acts as XEXIT with a0 (R169); one that lacks a right or lies outside loaded code is an access fault (R184); other failures end the
strand. -/
def coreStep (s : State) (l c len : Nat) (f : State → State) : State :=
  if !coreLive s l c then s
  else
    match lanternReady s l with
    | .wait s => s
    | .fail _ s => s
    | .ok _ s =>
      let s := if wrsOver s l c then retire s l c 4 id else s
      if (core s l c).stall ≠ .none then s
      else if (core s l c).pc = exitAddr then coreExit s l c (xr s l c 10)
      else
        match fetch s l c len with
        | (_, .ok _ s) => f s
        | (_, .wait s) => s
        | (va, .fail .rights s) => coreTrap s l c 1 va
        | (_, .fail st s) => endStrand s l st

/-! ### A core's loads and stores (R161 to R163, R246, R612) -/

/-- The part of an access inside the local aperture, and its offset there. -/
def inAperture (va : Nat) : Bool := decide (apertureBase ≤ va % 2 ^ 57)
/-- Local address of an aperture address. -/
def apertureAt (l va : Nat) : Nat := scratchBase l + (va % 2 ^ 57 - apertureBase)

/-- Pieces of a core access: none crosses a 64-byte line, nor the edge of the aperture, itself a multiple of 64. -/
def corePieces (va n : Nat) : List (Nat × Nat) := cut 64 va n

/-- Read one piece: from the scratchpad, behind the core's own held writes of the row (R261), from the core's data L1, or from memory through it. -/
def readPiece (s : State) (l c va n : Nat) : Out Data :=
  if inAperture va then
    let at_ := apertureAt l va
    if rowHeld s (.core l c) (.loc at_) n then .wait s
    else .ok { bytes := rbs s at_ n, poison := scratchPoisoned s at_ n } s
  else
    let a := coreAcc s l c
    let line := alignDown (va % 2 ^ 57) 64
    let part (x : Line) : Data := { bytes := (x.data.drop (va % 2 ^ 57 - line)).take n, poison := x.poison }
    match (core s l c).l1.find? (isLine a line) with
    | some x => .ok (part x) s
    | none =>
      (readVa s a line 64 0).andThen (fun d s =>
        let x : Line := { hoop := a.hoop, aspace := a.aspace, va := line, data := d.bytes, poison := d.poison }
        let e := enterL1 s (core s l c).l1 x
        .ok (part x) (modCore e.2 l c (fun k => { k with l1 := e.1 })))

/-- Read a run of bytes. -/
def coreRead (s : State) (l c va n : Nat) : Out Data :=
  (corePieces va n).foldl (fun (o : Out Data) p => o.andThen (fun d s =>
    (readPiece s l c p.1 p.2).andThen (fun e s =>
      .ok { bytes := d.bytes ++ e.bytes, poison := d.poison || e.poison } s))) (.ok { bytes := [], poison := false } s)

/-- The identity of a core's stores to the 64-byte line of an address: their row tells the line apart. -/
def storeAcc (s : State) (l c va : Nat) : Acc := { coreAcc s l c with row := va % 2 ^ 57 / 64 + 1 }
/-- Has a core stores to the 64-byte line of an address that are not acknowledged? Of a write that a granule remap holds only the
offset in its 4 KiB page is compared. -/
def lineBusy (s : State) (l c va : Nat) : Bool :=
  let row := va % 2 ^ 57 / 64 + 1
  (outstanding s).any (fun r => decide (r.eng = .core l c) && decide (r.msg ≠ msgRead) && decide (r.row = row))
    || s.fab.picots.any (fun p => p.sender.isNone && decide (p.eng = .core l c) && decide (p.row = row))
    || s.darner.queue.any (fun r => r.held.any (fun m => decide (m.eng = .core l c) && decide (m.addr % 4096 / 64 = va % 4096 / 64)))

/-- Write one piece: to the scratchpad, or through the L1 to memory. -/
def writePiece (s : State) (l c va : Nat) (bs : List Byte) : Out Unit :=
  if inAperture va then
    let at_ := apertureAt l va
    if rowHeld s (.core l c) (.loc at_) bs.length then .wait s else .ok () (writeScratch s at_ bs false)
  else
    let a := storeAcc s l c va
    let d : Data := { bytes := bs, poison := false }
    (writeVa s a va d false).andThen (fun _ s =>
      .ok () (modCore s l c (fun k => { k with l1 := updateLines a va d k.l1 })))

/-- Write a run of bytes. -/
def coreWrite (s : State) (l c va : Nat) (bs : List Byte) : Out Unit :=
  (corePieces va bs.length).foldl (fun (o : Out Unit) p => o.andThen (fun _ s =>
    writePiece s l c p.1 ((bs.drop (p.1 - va)).take p.2))) (.ok () s)

/-- Finish a core access: a missing right is an access fault of the given cause, other failures end the strand. -/
def coreDone {α : Type} (o : Out α) (l c cause va : Nat) (f : α → State → State) : State :=
  match o with
  | .ok v s => f v s
  | .wait s => s
  | .fail .rights s => coreTrap s l c cause (wd va)
  | .fail st s => endStrand s l st

/-- Finish a load: poisoned data ends the strand with POISON (R246). -/
def loadDone (s : State) (l c va n : Nat) (f : List Byte → State → State) : State :=
  coreDone (coreRead s l c va n) l c 5 va (fun d s => if d.poison then endStrand s l .poison else f d.bytes s)

/-- The address of an access: x[rs1] + off, its upper seven bits ignored (R159). -/
def coreAddr (s : State) (l c rs1 : Nat) (off : Int) : Nat := ((xr s l c rs1).toNat + (off % 2 ^ 64).toNat) % 2 ^ 57

/-- A loaded value, sign-extended when `signed`. -/
def extend (bs : List Byte) (signed : Bool) : Word :=
  let v := leNat bs
  let bits := 8 * bs.length
  if signed ∧ bits < 64 ∧ v / 2 ^ (bits - 1) = 1 then wd (v + (2 ^ 64 - 2 ^ bits)) else wd v
/-- A value loaded into an f register: the bits above it are ones. -/
def nanBox (bs : List Byte) : Word := wd (leNat bs + (2 ^ 64 - 2 ^ (8 * bs.length)) % 2 ^ 64)

/-! ### CSRs (R159, R160, R183) -/

/-- Bytes of the register group from v[r] on. -/
def vBytes (k : Core) (r : Nat) : List Byte := (k.v.drop r).flatMap (fun v => leBytes 32 v.toNat)
/-- Put bytes into the register group from v[r] on, at byte `at_`. -/
def putV (r at_ : Nat) (bs : List Byte) (k : Core) : Core :=
  let old := vBytes k r
  let all := old.take at_ ++ bs ++ old.drop (at_ + bs.length)
  { k with v := k.v.take r ++ (chunksOf 32 all.length all).map (fun b => BitVec.ofNat 256 (leNat b)) }

/-- Read a CSR; none where it is illegal. The cycle CSR counts core cycles, whose number the model does not hold: it moves
on by a free value (log 29). The profile's other counters, hpmcounter3 to hpmcounter31, can be read; the spec names no event for them,
so their values are free (log 137). -/
def csrValue (s : State) (l c csr : Nat) : Option Word × State :=
  let k := core s l c
  let x := (lantern s l).cur.bind (fun r => (strandOf s r).map (fun p => (r, p.1, p.2)))
  let strandWord (f : Running × Stitch × Strand → Nat) : Option Word × State := (x.map (fun y => wd (f y)), s)
  match csr with
  | 0x001 => (some (wd (k.fcsr.toNat % 32)), s)
  | 0x002 => (some (wd (k.fcsr.toNat / 32 % 8)), s)
  | 0x003 => (some k.fcsr, s)
  | 0x008 => (some k.vstart, s)
  | 0x009 => (some (wd (k.vcsr.toNat % 2)), s)
  | 0x00A => (some (wd (k.vcsr.toNat / 2 % 4)), s)
  | 0x00F => (some k.vcsr, s)
  | 0xC00 =>
    let p := takeFree s
    let n := (k.cycle + p.1.toNat) % 2 ^ 64
    (some (wd n), modCore p.2 l c (fun k => { k with cycle := n }))
  | 0xC01 => (some (wd (s.clk.ts.getD (lanQuarter l) 0)), s)
  | 0xC02 => (some (wd k.instret), s)
  | 0xC20 => (some k.vl, s)
  | 0xC21 => (some k.vtype, s)
  | 0xC22 => (some 32, s)
  | 0xCC0 => (some (wd c), s)
  | 0xCC1 => strandWord (fun y => y.2.2.slot)
  | 0xCC2 => strandWord (fun y => y.2.1.widthM % 256 + y.2.1.widthV % 256 * 256 + y.2.1.widthS % 256 * 65536)
  | 0xCC3 => (some (wd l), s)
  | 0xCC4 => strandWord (fun y => y.1.ctx)
  | 0xCC5 => strandWord (fun y => y.2.1.seed)
  | 0xCC6 => strandWord (fun y => y.2.1.va + y.2.2.off)
  | _ => if 0xC03 ≤ csr ∧ csr ≤ 0xC1F then (let p := takeFree s; (some p.1, p.2)) else (none, s)

/-- Write a CSR; none where it is illegal, read-only ones included. -/
def csrPut (csr : Nat) (v : Word) (k : Core) : Option Core :=
  let n := v.toNat
  let fc := k.fcsr.toNat
  let vc := k.vcsr.toNat
  match csr with
  | 0x001 => some { k with fcsr := wd (fc / 32 * 32 + n % 32) }
  | 0x002 => some { k with fcsr := wd (fc % 32 + n % 8 * 32) }
  | 0x003 => some { k with fcsr := wd (n % 256) }
  | 0x008 => some { k with vstart := wd (n % 256) }
  | 0x009 => some { k with vcsr := wd (vc / 2 * 2 + n % 2) }
  | 0x00A => some { k with vcsr := wd (vc % 2 + n % 4 * 2) }
  | 0x00F => some { k with vcsr := wd (n % 8) }
  | _ => none

/-- A CSR instruction by its word (R159, R183): CSRRW, CSRRS and CSRRC with x[rs1] or with its number as the operand. One that names no
CSR, or writes a read-only one, is illegal, with its bits as the trap value (R184, R185). CSRRS and CSRRC of x0 or 0 write nothing. -/
def csrOp (s : State) (l c len w : Nat) : State :=
  let csr := w / 2 ^ 20
  let rs1 := w / 2 ^ 15 % 32
  let f3 := w / 2 ^ 12 % 8
  let src : Word := if 4 ≤ f3 then wd rs1 else xr s l c rs1
  let v := csrValue s l c csr
  match v.1 with
  | none => coreTrap s l c 2 (wd w)
  | some old =>
    let new : Word := match f3 % 4 with | 1 => src | 2 => old ||| src | _ => old &&& ~~~src
    let put := setX (w / 2 ^ 7 % 32) old
    if f3 % 4 = 0 then coreTrap s l c 2 (wd w)
    else if f3 % 4 ≠ 1 ∧ rs1 = 0 then retire v.2 l c len put
    else
      match csrPut csr new (core v.2 l c) with
      | some _ => retire v.2 l c len (fun k => put ((csrPut csr new k).getD k))
      | none => coreTrap s l c 2 (wd w)

/-! ### Integer instructions (R159) -/

/-- Sign-extend the low `n` bits of a number. -/
def sext (n v : Nat) : Word := wd (if v / 2 ^ (n - 1) % 2 = 1 then v % 2 ^ n + (2 ^ 64 - 2 ^ n) else v % 2 ^ n)
/-- The M extension's results on words of `n` bits, as RISC-V defines them: division by zero and overflow included. -/
def mulDiv (n : Nat) (f3 : Nat) (a b : BitVec n) : BitVec n :=
  match f3 with
  | 0 => a * b
  | 1 => BitVec.ofInt n (a.toInt * b.toInt / 2 ^ n)
  | 2 => BitVec.ofInt n (a.toInt * b.toNat / 2 ^ n)
  | 3 => BitVec.ofNat n (a.toNat * b.toNat / 2 ^ n)
  | 4 => if b = 0 then BitVec.allOnes n else BitVec.ofInt n (Int.tdiv a.toInt b.toInt)
  | 5 => if b = 0 then BitVec.allOnes n else BitVec.ofNat n (a.toNat / b.toNat)
  | 6 => if b = 0 then a else BitVec.ofInt n (Int.tmod a.toInt b.toInt)
  | _ => if b = 0 then a else BitVec.ofNat n (a.toNat % b.toNat)
/-- The base integer results on words of `n` bits; `alt` selects SUB and SRA. -/
def aluOp (n f3 : Nat) (alt : Bool) (a b : BitVec n) : BitVec n :=
  let k := b.toNat % n
  match f3 with
  | 0 => if alt then a - b else a + b
  | 1 => a <<< k
  | 2 => if a.toInt < b.toInt then 1 else 0
  | 3 => if a.toNat < b.toNat then 1 else 0
  | 4 => a ^^^ b
  | 5 => if alt then a.sshiftRight k else a >>> k
  | 6 => a ||| b
  | _ => a &&& b
/-- Is a branch taken? -/
def taken (f3 : Nat) (a b : Word) : Bool :=
  match f3 with
  | 0 => a = b
  | 1 => a ≠ b
  | 4 => decide (a.toInt < b.toInt)
  | 5 => decide (b.toInt ≤ a.toInt)
  | 6 => decide (a.toNat < b.toNat)
  | _ => decide (b.toNat ≤ a.toNat)
/-- The immediates of a branch and of JAL. -/
def immB (w : Nat) : Word :=
  sext 13 (w / 2 ^ 31 % 2 * 2 ^ 12 + w / 2 ^ 7 % 2 * 2 ^ 11 + w / 2 ^ 25 % 64 * 2 ^ 5 + w / 2 ^ 8 % 16 * 2)
/-- The immediate of JAL. -/
def immJ (w : Nat) : Word :=
  sext 21 (w / 2 ^ 31 % 2 * 2 ^ 20 + w / 2 ^ 12 % 256 * 2 ^ 12 + w / 2 ^ 20 % 2 * 2 ^ 11 + w / 2 ^ 21 % 1024 * 2)
/-- What an integer instruction gives: the value for x[rd], none for a branch, and the next pc (R159; the results are those of the RISC-V
specifications, PRESUMED, log 14). -/
def intResult (k : Core) (w : Nat) : Option Word × Word :=
  let rs1 := k.x.getD (w / 2 ^ 15 % 32) 0
  let rs2 := k.x.getD (w / 2 ^ 20 % 32) 0
  let f3 := w / 2 ^ 12 % 8
  let f7 := w / 2 ^ 25
  let immI := sext 12 (w / 2 ^ 20)
  let immU := sext 32 (w / 2 ^ 12 * 2 ^ 12)
  let next := k.pc + 4
  let low (v : Word) : BitVec 32 := v.setWidth 32
  match w % 128 with
  | 0x37 => (some immU, next)
  | 0x17 => (some (k.pc + immU), next)
  | 0x6F => (some next, k.pc + immJ w)
  | 0x67 => (some next, (rs1 + immI) &&& ~~~1)
  | 0x63 => (none, if taken f3 rs1 rs2 then k.pc + immB w else next)
  | 0x13 => (some (aluOp 64 f3 (f3 = 5 && f7 / 2 = 16) rs1 immI), next)
  | 0x1B => (some ((aluOp 32 f3 (f3 = 5 && f7 = 32) (low rs1) (low immI)).signExtend 64), next)
  | 0x33 => (some (if f7 = 1 then mulDiv 64 f3 rs1 rs2 else aluOp 64 f3 (f7 = 32) rs1 rs2), next)
  | _ => (some ((if f7 = 1 then mulDiv 32 f3 (low rs1) (low rs2) else aluOp 32 f3 (f7 = 32) (low rs1) (low rs2)).signExtend 64), next)
/-- An integer instruction by its word; any other word is an illegal instruction here. -/
def intOp (s : State) (l c w : Nat) : State :=
  if !WellFormed.intWordOk w then coreTrap s l c 2 (wd w)
  else
    retire s l c 4 (fun k =>
      let r := intResult k w
      let k := match r.1 with | some v => setX (w / 2 ^ 7 % 32) v k | none => k
      { k with pc := r.2 - 4 })

/-! ### Ordinary instructions (R159 to R163) -/

/-- Accrue floating-point flags. -/
def accrue (flags : Nat) (k : Core) : Core := { k with fcsr := k.fcsr ||| wd (flags % 32) }

/-- Is a word of the custom-0 or custom-1 major opcode an Xetp instruction (R170, R171)? -/
def xetpOk (w : Nat) : Bool :=
  let f (hi lo : Nat) := w / 2 ^ lo % 2 ^ (hi + 1 - lo)
  let fn := f 14 12
  let rd := decide (f 11 7 = 0)
  let rs1 := decide (f 19 15 = 0)
  let rs2 := decide (f 24 20 = 0)
  let flag := decide (f 27 27 = 0)
  f 31 28 = 0 && f 26 25 = 0 &&
    (match f 6 0, fn with
    | 0x0B, 0 => true
    | 0x0B, 1 => rd
    | 0x0B, 2 | 0x0B, 3 | 0x0B, 4 => rs2 && flag
    | 0x0B, 5 => rd && flag
    | 0x0B, 6 => rd
    | 0x0B, 7 => rd && rs1 && rs2 && flag
    | 0x2B, 0 => true
    | 0x2B, 1 | 0x2B, 2 => rd && rs2 && flag
    | _, _ => false)

/-- A vector load's parts, in order. -/
def loadParts (l c rd len : Nat) : List (Word × Nat × Nat) → State → State
  | [], s => retire s l c len id
  | (a, n, at_) :: rest, s =>
    let va := a.toNat % 2 ^ 57
    coreDone (coreRead s l c va n) l c 5 va (fun d s =>
      if d.poison then endStrand s l .poison
      else loadParts l c rd len rest (modCore s l c (putV rd at_ d.bytes)))

/-- A vector store's parts, in order. -/
def storeParts' (l c rs len : Nat) : List (Word × Nat × Nat) → State → State
  | [], s => retire s l c len id
  | (a, n, at_) :: rest, s =>
    let va := a.toNat % 2 ^ 57
    coreDone (coreWrite s l c va (((vBytes (core s l c) rs).drop at_).take n)) l c 7 va (fun _ s =>
      storeParts' l c rs len rest s)

/-- WRS_STO_TIMEOUT: a WRS.STO wait ends after 1 µs (R160). -/
def wrsStoTimeout (s : State) (l c : Nat) : State :=
  match (core s l c).stall with
  | .wrs true => if coreLive s l c then retire s l c 4 id else s
  | _ => s
/-- WRS_STO_TIMEOUT. -/
def execWrsStoTimeout (l c : Nat) (s : State) : Host.Outcome State Fault Refusal := .next (unlessSafe s (wrsStoTimeout s l c))

/-! ### Fences (R171 to R175) -/

/-- The fence that rs1 names, when its reserved bits are 0 and its scope code is not reserved (R171). -/
def xFence (w : Word) : Option Nat :=
  if fld w 15 14 = 0 ∧ fld w 63 19 = 0 ∧ fld w 18 16 ≤ 4 then some (fld w 13 0) else none

/-- The context of the strand a lantern runs. -/
def lanCtx (s : State) (l : Nat) : Nat := ((lantern s l).cur.map (fun r => r.ctx)).getD 1024

/-- XWAIT (R172). -/
def xwaitOp (s : State) (l c rd rs1 rs2 : Nat) (tryFlag : Bool) : State :=
  match xFence (xr s l c rs1) with
  | none => endStrand s l .format
  | some f =>
    let v := (xr s l c rs2).toNat
    match waitNow s f (lanCtx s l) v with
    | .denied => endStrand s l .rights
    | .met => coreRet s l c rd 0
    | .error => if tryFlag then coreRet s l c rd 1 else endStrand s l .fenceError
    | .later =>
      let s := modCore s l c (fun k => { k with stall := .fence f rd tryFlag })
      showActivity (addWait s { fence := f, who := .core l c, value := v, qf2 := false }) (lanCtx s l)
/-- The same, issued. -/
def xwait (s : State) (l c rd rs1 rs2 : Nat) (tryFlag : Bool) : State := coreStep s l c 4 (fun s => xwaitOp s l c rd rs1 rs2 tryFlag)
/-- XWAIT. -/
def execXwait (l c rd rs1 rs2 : Nat) (tryFlag : Bool) (s : State) : Host.Outcome State Fault Refusal :=
  .next (xwait s l c rd rs1 rs2 tryFlag)

/-- Have a core's earlier stores, AMOs and DMA ops completed? -/
def coreQuiet (s : State) (l c : Nat) : Bool :=
  !engBusy s (.core l c) && !(lantern s l).dma.any (fun d => decide (d.core = c))

/-- Has a core writes to this node's memory that have not landed: picot writes held here, or writes that a granule remap holds? A release at
DEVICE scope waits for them (R265, R266, R270). -/
def releaseWaits (s : State) (l c : Nat) : Bool :=
  let here (p : Place) := match p with | .loc a => decide (a < 0xD000000000) | .peer _ _ => false
  s.fab.picots.any (fun p => p.sender.isNone && decide (p.eng = .core l c) && here p.place) || remapHeld s (fun e => decide (e = .core l c))

/-- Send a signal to an alias fence, and take its answer when it has come (R411). -/
def aliasAnswered (s : State) (a : Acc) (f v : Nat) (err : Bool) : Out Unit :=
  let x := fence s f
  match findRemote s a.eng msgFence x.aliasNode x.aliasFence 8 a.row with
  | some r =>
    match r.answer with
    | none => .wait s
    | some (.ok, _, _) => .ok () (dropRemote s r.id)
    | some (st, _, _) => .fail st (dropRemote s r.id)
  | none =>
    match aliasSignal s a.who a.hoop f v err a.row with
    | .ok _ s => .wait s
    | .wait s => .wait s
    | .fail st s => .fail st s

/-- XSIGNAL: after the core's earlier work, the fence is signalled; a signal to an alias fence completes when its ACK
returns (R173, R175, R411). -/
def xsignalOp (s : State) (l c rs1 rs2 : Nat) (error : Bool) : State :=
  match xFence (xr s l c rs1) with
  | none => endStrand s l .format
  | some f =>
    let a := coreAcc s l c
    let v := (xr s l c rs2).toNat
    let sent := (findRemote s a.eng msgFence (fence s f).aliasNode (fence s f).aliasFence 8 a.row).isSome
    if !fenceMay s f (lanCtx s l) then endStrand s l .rights
    else if !sent && !coreQuiet s l c then s
    else if (fence s f).alias_ then
      match aliasAnswered s a f v error with
      | .ok _ s => retire s l c 4 id
      | .wait s => s
      | .fail st s => endStrand s l st
    else retire (signalLocal s f v error false) l c 4 id
/-- The same, issued. -/
def xsignal (s : State) (l c rs1 rs2 : Nat) (error : Bool) : State := coreStep s l c 4 (fun s => xsignalOp s l c rs1 rs2 error)
/-- XSIGNAL. -/
def execXsignal (l c rs1 rs2 : Nat) (error : Bool) (s : State) : Host.Outcome State Fault Refusal :=
  .next (xsignal s l c rs1 rs2 error)

/-- XFREAD (R174). Of an alias fence it returns the VALUE that stands at this node (R411; DESIGN CHOICE, log 186). -/
def xfreadOp (s : State) (l c rd rs1 : Nat) : State :=
  match xFence (xr s l c rs1) with
  | none => endStrand s l .format
  | some f => if fenceMay s f (lanCtx s l) then coreRet s l c rd (wd (fence s f).value) else endStrand s l .rights
/-- The same, issued. -/
def xfread (s : State) (l c rd rs1 : Nat) : State := coreStep s l c 4 (fun s => xfreadOp s l c rd rs1)
/-- XFREAD. -/
def execXfread (l c rd rs1 : Nat) (s : State) : Host.Outcome State Fault Refusal := .next (xfread s l c rd rs1)

/-! ### The DMA engine (R176 to R178) -/

/-- XTILE: 64 bytes are read and submitted as a DMA op; its ticket goes to rd. With 32 ops queued it stalls (R176). -/
def xtileOp (s : State) (l c rd rs1 : Nat) : State :=
  let va := (xr s l c rs1).toNat % 2 ^ 57
  let det := (((lantern s l).cur.bind (strandOf s)).map (fun p => p.1.det)).getD false
  if va % 64 ≠ 0 then endStrand s l .format
  else if 32 ≤ (lantern s l).dma.length then s
  else
    loadDone s l c va 64 (fun bs s =>
      let ws := toWords bs
      if !tileOpOk 2 det ws then endStrand s l .format
      else
        let n := (core s l c).tickets + 1
        let d : DmaOp := { core := c, ticket := n, op := ws, running := false, issued := false, waiting := false,
                           row := 0, poison := false, bad := [] }
        let s := modLantern s l (fun x => { x with dma := x.dma ++ [d] })
        coreRet (modCore s l c (fun k => { k with tickets := n })) l c rd (wd n))
/-- The same, issued. -/
def xtile (s : State) (l c rd rs1 : Nat) : State := coreStep s l c 4 (fun s => xtileOp s l c rd rs1)
/-- XTILE. -/
def execXtile (l c rd rs1 : Nat) (s : State) : Host.Outcome State Fault Refusal := .next (xtile s l c rd rs1)

/-- XTSYNC: the core's ops up to the ticket have completed; rd tells poison (R178). -/
def xtsyncOp (s : State) (l c rd rs1 : Nat) : State :=
  let n := (xr s l c rs1).toNat
  let k := core s l c
  if k.tickets < n then endStrand s l .format
  else if (lantern s l).dma.any (fun d => decide (d.core = c) && decide (d.ticket ≤ n)) then s
  else coreRet s l c rd (if k.poisoned.any (fun t => decide (t ≤ n)) then 5 else 0)
/-- The same, issued. -/
def xtsync (s : State) (l c rd rs1 : Nat) : State := coreStep s l c 4 (fun s => xtsyncOp s l c rd rs1)
/-- XTSYNC. -/
def execXtsync (l c rd rs1 : Nat) (s : State) : Host.Outcome State Fault Refusal := .next (unlessSafe s (xtsync s l c rd rs1))

/-- Change a DMA op. -/
def modDma (s : State) (l c ticket : Nat) (f : DmaOp → DmaOp) : State :=
  modLantern s l (fun x => { x with
    dma := x.dma.map (fun d => if d.core = c ∧ d.ticket = ticket then f d else d) })
/-- The number that marks a DMA op's requests. -/
def dmaRow (d : DmaOp) : Nat := d.ticket * 8 + d.core % 8

/-- The 128-byte rows of memory that a LOAD or a STORE touches, as their places in a 4 KiB page: two virtual rows of one physical row agree
in that. -/
def memRows (ws : List Word) : List Nat :=
  if opCode ws = 1 ∨ opCode ws = 2 then
    (List.range (lsRows ws)).flatMap (fun r => (cut 128 (lsVa ws r) (lsLen ws)).map (fun p => p.1 / 128 % 32))
  else []
/-- May two ops, one of them a STORE, touch a common memory row? -/
def rowsShared (a b : List Word) : Bool :=
  (opCode a = 2 || opCode b = 2) && (memRows a).any (fun r => (memRows b).contains r)
/-- May the DMA engine start this op: fewer than four others in progress, earlier ops of its core complete for a BARRIER, every earlier op
complete for a SIGNAL, no WAIT open before it (R145, R146, R177), and none before it, not done with the scratchpad yet, that reads what it
writes or writes what it reads or writes there (R143), or that a LOAD or a STORE shares a memory row with, of which one is written
(R261)? `before` are the earlier ops. -/
def dmaMay (before : List DmaOp) (d : DmaOp) : Bool :=
  decide (before.length < 4)
    && (!opBarrier d.op || before.all (fun e => decide (e.core ≠ d.core)))
    && (opCode d.op ≠ 10 || before.isEmpty) && before.all (fun e => opCode e.op ≠ 9 && (e.issued || !(opsMeet e.op d.op || rowsShared e.op d.op)))

/-- Perform a DMA op, as far as it goes: how far that is, and what it found. -/
def dmaPerform (s : State) (l : Nat) (t : Stitch) (a : Acc) (d : DmaOp) : Moved × Out Unit :=
  let base := scratchBase l
  let ws := d.op
  let m : Moved := { k := d.row, pois := d.poison, bad := d.bad }
  match opCode ws with
  | 1 => doLoad s a base none ws m
  | 2 => doStore s a base none ws m
  | 5 => let r := doConvert s base (lanQuarter l) t ws; ({ m with pois := decide (r.2 = .poison) }, .ok () r.1)
  | 7 => (m, .ok () (doZero s base ws))
  | 9 =>
    (m, match waitNow s (opFence ws) a.ctx (wordAt ws 2).toNat with
      | .denied => .fail .rights s
      | .met => .ok () s
      | .error => .fail .fenceError s
      | .later =>
        let w : Wait := { fence := opFence ws, who := .dma l d.core d.ticket, value := (wordAt ws 2).toNat, qf2 := false }
        .ok () (modDma (addWait s w) l d.core d.ticket (fun x => { x with waiting := true })))
  | _ =>
    (m, if !fenceMay s (opFence ws) a.ctx then .fail .rights s
      else engineSignal s a.who a.hoop (opFence ws) (wordAt ws 2).toNat (decide (opParam ws 12 12 = 1)) a.row)

/-- The DMA engine works on one op, as far as it goes (R148, R177). -/
def dmaWork (s : State) (l : Nat) (r : Running) (t : Stitch) (d : DmaOp) : State :=
  let a := accOf s (.dma l) r.ctx t.floss (dmaRow d)
  let s := modDma s l d.core d.ticket (fun x => { x with running := true })
  let p := dmaPerform s l t a d
  let st (b : Bool) (s : State) := modLantern s l (fun x => { x with cur := x.cur.map (fun r => { r with
    status := statusMax r.status (if b then .poison else .ok) }) })
  let keep (s : State) := modDma s l d.core d.ticket (fun x => { x with row := p.1.k, poison := p.1.pois, bad := p.1.bad })
  match p.2 with
  | .wait s => keep s
  | .ok _ s => st p.1.pois (modDma (keep s) l d.core d.ticket (fun x => { x with issued := true }))
  | .fail e s => endStrand (modDma s l d.core d.ticket (fun x => { x with issued := true })) l e

/-- DMA_OP_START: the engine starts its next op in acceptance order; while that may not start, it goes on with the ops in progress that
wait for memory (R177). After the strand's end only those finish (R186). -/
def dmaOpStart (s : State) (l : Nat) : State :=
  match (lantern s l).cur with
  | none => s
  | some r =>
    let ops := (lantern s l).dma
    let before := ops.takeWhile (fun d => d.running)
    let open_ := ops.filter (fun d => d.running && !d.issued)
    match strandOf s r, lanternReady s l with
    | some (t, _), .ok _ s =>
      match (ops.drop before.length).head? with
      | some d => if dmaMay before d && !r.ended then dmaWork s l r t d else open_.foldl (fun s d => dmaWork s l r t d) s
      | none => open_.foldl (fun s d => dmaWork s l r t d) s
    | some _, o => if ops.all (fun d => d.issued) then s else o.state
    | none, _ => s
/-- DMA_OP_START. -/
def execDmaOpStart (l : Nat) (s : State) : Host.Outcome State Fault Refusal := .next (unlessSafe s (dmaOpStart s l))

/-- DMA_OP_COMPLETE: an op whose writes are acknowledged leaves the queue; a failing answer ends the strand (R148, R178).
-/
def dmaOpComplete (s : State) (l c ticket : Nat) : State :=
  match (lantern s l).dma.find? (fun d => decide (d.core = c) && decide (d.ticket = ticket)) with
  | none => s
  | some d =>
    let mine := s.fab.remotes.filter (fun x => decide (x.eng = .dma l) && decide (x.row = dmaRow d))
    if !d.issued || d.waiting || mine.any (fun x => x.answer.isNone) || remapHeld s (fun e => decide (e = .dma l)) then s
    else
      let bad := (mine.filterMap (fun x => match x.answer with
        | some (.ok, _, _) => none
        | some (st, _, _) => some st
        | none => none)).foldl statusMax .ok
      let s := dropAnswered s (.dma l) (dmaRow d)
      let s := modLantern s l (fun x => { x with
        dma := x.dma.filter (fun e => !(decide (e.core = c) && decide (e.ticket = ticket))) })
      let s := if d.poison then modCore s l c (fun k => { k with poisoned := k.poisoned ++ [ticket] }) else s
      if bad = .ok then s else endStrand s l bad
/-- DMA_OP_COMPLETE. -/
def execDmaOpComplete (l core ticket : Nat) (s : State) : Host.Outcome State Fault Refusal :=
  .next (unlessSafe s (dmaOpComplete s l core ticket))

/-! ### Picot writes, cache operations, heap, exit (R179 to R182) -/

/-- XPICOT: a picot write of the core's lantern is issued (R179, R273, R274). It leaves a line of the core's L1 that it covers as it is (R163,
R276; DESIGN CHOICE, log 182). -/
def xpicotOp (s : State) (l c rs1 rs2 : Nat) : State :=
  let va := (xr s l c rs1).toNat % 2 ^ 57
  if va % 8 ≠ 0 then coreTrap s l c 6 (wd va)
  else if inAperture va then coreTrap s l c 7 (wd va)
  else
    let a := storeAcc s l c va
    coreDone (placeVa s a va 8 1 true) l c 7 va (fun p s =>
      match issuePicot s a p (leBytes 8 (xr s l c rs2).toNat) with
      | .ok _ s => retire s l c 4 id
      | .wait s => s
      | .fail st s => endStrand s l st)
/-- The same, issued. -/
def xpicot (s : State) (l c rs1 rs2 : Nat) : State := coreStep s l c 4 (fun s => xpicotOp s l c rs1 rs2)
/-- XPICOT. -/
def execXpicot (l c rs1 rs2 : Nat) (s : State) : Host.Outcome State Fault Refusal := .next (xpicot s l c rs1 rs2)

/-- Drop the data-L1 lines of a core that a run overlaps. -/
def dropL1 (s : State) (l c : Nat) (a : Acc) (va n : Nat) : State :=
  modCore s l c (fun k => { k with l1 := k.l1.filter (fun x =>
    !(decide (x.hoop = a.hoop) && decide (x.aspace = a.aspace) && decide (x.va < va + n) && decide (va < x.va + 64))) })

/-- XCINV: lines of this core, or of all eight (R180). -/
def xcinvOp (s : State) (l c rs1 rs2 : Nat) (allCores : Bool) : State :=
  let va := (xr s l c rs1).toNat % 2 ^ 57
  let n := (xr s l c rs2).toNat
  let a := coreAcc s l c
  let one (s : State) (k : Nat) := if n = 0 then modCore s l k (fun x => { x with l1 := [] }) else dropL1 s l k a va n
  retire ((if allCores then List.range 8 else [c]).foldl one s) l c 4 id
/-- The same, issued. -/
def xcinv (s : State) (l c rs1 rs2 : Nat) (allCores : Bool) : State := coreStep s l c 4 (fun s => xcinvOp s l c rs1 rs2 allCores)
/-- XCINV. -/
def execXcinv (l c rs1 rs2 : Nat) (allCores : Bool) (s : State) : Host.Outcome State Fault Refusal :=
  .next (xcinv s l c rs1 rs2 allCores)

/-- XDRAIN: the core's stores and AMOs are acknowledged (R180). -/
def xdrainOp (s : State) (l c : Nat) : State := if engBusy s (.core l c) then s else retire s l c 4 id
/-- The same, issued. -/
def xdrain (s : State) (l c : Nat) : State := coreStep s l c 4 (fun s => xdrainOp s l c)
/-- XDRAIN. -/
def execXdrain (l c : Nat) (s : State) : Host.Outcome State Fault Refusal := .next (xdrain s l c)

/-- XALLOC: the request joins the allocator's queue, and the core stalls for its answer (R181, R416). -/
def xallocOp (s : State) (l c rd rs1 rs2 : Nat) (soft : Bool) : State :=
  let size := (xr s l c rs1).toNat
  let al := (xr s l c rs2).toNat
  if 21 < al ∨ size = 0 then endStrand s l .format
  else
    let x := lanCtx s l
    let q : AllocReq := .coreAlloc l c (context s x).hoop x size (max 6 al) rd soft
    modCore { s with allocQ := s.allocQ ++ [q] } l c (fun k => { k with stall := .alloc })
/-- The same, issued. -/
def xalloc (s : State) (l c rd rs1 rs2 : Nat) (soft : Bool) : State := coreStep s l c 4 (fun s => xallocOp s l c rd rs1 rs2 soft)
/-- XALLOC. -/
def execXalloc (l c rd rs1 rs2 : Nat) (soft : Bool) (s : State) : Host.Outcome State Fault Refusal :=
  .next (xalloc s l c rd rs1 rs2 soft)

/-- XFREE: the request joins the allocator's queue (R181, R417). -/
def xfreeOp (s : State) (l c rs1 : Nat) : State :=
  let x := lanCtx s l
  let q : AllocReq := .coreFree l c (context s x).hoop x (xr s l c rs1).toNat
  modCore { s with allocQ := s.allocQ ++ [q] } l c (fun k => { k with stall := .alloc })
/-- The same, issued. -/
def xfree (s : State) (l c rs1 : Nat) : State := coreStep s l c 4 (fun s => xfreeOp s l c rs1)
/-- XFREE. -/
def execXfree (l c rs1 : Nat) (s : State) : Host.Outcome State Fault Refusal := .next (xfree s l c rs1)

/-- XEXIT; a fetch at the exit address acts as XEXIT with a0 (R169, R182). -/
def xexit (s : State) (l c rs1 : Nat) : State := coreStep s l c 4 (fun s => coreExit s l c (xr s l c rs1))
/-- XEXIT. -/
def execXexit (l c rs1 : Nat) (s : State) : Host.Outcome State Fault Refusal := .next (xexit s l c rs1)

/-- CBO.INVAL: the line leaves the core's data L1 (R180). -/
def cboInval (s : State) (l c rs1 : Nat) : State :=
  coreStep s l c 4 (fun s =>
    retire (dropL1 s l c (coreAcc s l c) (alignDown ((xr s l c rs1).toNat % 2 ^ 57) 64) 64) l c 4 id)
/-- CBO_INVAL. -/
def execCboInval (l c rs1 : Nat) (s : State) : Host.Outcome State Fault Refusal := .next (cboInval s l c rs1)

/-- CBO.CLEAN: the L1 is written through, so it waits for the core's stores to the line to be acknowledged (R180, log 30). -/
def cboClean (s : State) (l c rs1 : Nat) : State :=
  coreStep s l c 4 (fun s => if lineBusy s l c (xr s l c rs1).toNat then s else retire s l c 4 id)
/-- CBO_CLEAN. -/
def execCboClean (l c rs1 : Nat) (s : State) : Host.Outcome State Fault Refusal := .next (cboClean s l c rs1)

/-- CBO.FLUSH: as CBO.CLEAN, and the line is invalidated (R180). -/
def cboFlush (s : State) (l c rs1 : Nat) : State :=
  coreStep s l c 4 (fun s =>
    if lineBusy s l c (xr s l c rs1).toNat then s
    else retire (dropL1 s l c (coreAcc s l c) (alignDown ((xr s l c rs1).toNat % 2 ^ 57) 64) 64) l c 4 id)
/-- CBO_FLUSH. -/
def execCboFlush (l c rs1 : Nat) (s : State) : Host.Outcome State Fault Refusal := .next (cboFlush s l c rs1)

/-- CBO.ZERO: 64 zero bytes are written through to memory (R180). -/
def cboZero (s : State) (l c rs1 : Nat) : State :=
  coreStep s l c 4 (fun s =>
    let va := alignDown ((xr s l c rs1).toNat % 2 ^ 57) 64
    coreDone (coreWrite s l c va (List.replicate 64 0)) l c 7 va (fun _ s => retire s l c 4 id))
/-- CBO_ZERO. -/
def execCboZero (l c rs1 : Nat) (s : State) : Host.Outcome State Fault Refusal := .next (cboZero s l c rs1)

/-! ### Atomics (R164) -/

/-- The new value of an AMO on `bits`-bit words. -/
def amoValue (op : AmoOp) (bits old src : Nat) : Nat :=
  let m := 2 ^ bits
  let a := old % m
  let b := src % m
  let neg (x : Nat) := decide (m / 2 ≤ x)
  let lt (x y : Nat) : Bool := if neg x == neg y then decide (x < y) else neg x
  match op with
  | .swap => b
  | .add => (a + b) % m
  | .xor => a ^^^ b
  | .and => a &&& b
  | .or => a ||| b
  | .min => if lt b a then b else a
  | .max => if lt a b then b else a
  | .minu => min a b
  | .maxu => max a b

/-- The home of an atomic access: a local address below the host apertures. Host and peer addresses are refused. A release waits for the
core's earlier writes of this node's memory (R270), and in the scratchpad the access waits behind the core's own held writes of the row
(R261). -/
def atomicHome (s : State) (l c va n : Nat) (write rl : Bool) : Out Nat :=
  if rl && releaseWaits s l c then .wait s
  else if inAperture va then
    if rowHeld s (.core l c) (.loc (apertureAt l va)) n then .wait s else .ok (apertureAt l va) s
  else
    (placeVa s (coreAcc s l c) va n 2 write).andThen (fun p s =>
      match p.place with
      | .loc a => if a < 0xD000000000 then .ok a s else .fail .rights s
      | .peer _ _ => .fail .rights s)

/-- Read at an atomic's home. The home reads its word as it serves any read: where the home is a slice of a quarter store, a merge
window may answer, and a read of the array opens one (R41 to R43, log 138). What comes back crosses from the home's quarter. -/
def homeRead (s : State) (l c va home n : Nat) : Data × State :=
  if inAperture va then ({ bytes := rbs s home n, poison := scratchPoisoned s home n }, s)
  else
    let a := coreAcc s l c
    let r := readRun s a.who home n 2
    let x := some (addrQuarter home)
    let y := engQuarter a.eng
    (onWay r.2 x y r.1, crossTo r.2 a.who x y n)

/-- Write at an atomic's home, which the operand crosses to; the core's copy of the line is invalidated. -/
def homeWrite (s : State) (l c va home : Nat) (bs : List Byte) (poison : Bool) : State :=
  if inAperture va then writeScratch s home bs poison
  else
    let a := coreAcc s l c
    let x := engQuarter a.eng
    let y := some (addrQuarter home)
    let bad := poison || linkPoison s x y
    dropL1 (writeRun (crossTo s a.who x y bs.length) a.who home bs bad) l c a (alignDown va 64) 64

/-- AMO: performed at its home; the old value goes to rd (R164). -/
def amo (s : State) (l c : Nat) (op : AmoOp) (double rl : Bool) (rd rs1 rs2 : Nat) : State :=
  coreStep s l c 4 (fun s =>
    let va := (xr s l c rs1).toNat % 2 ^ 57
    let n := if double then 8 else 4
    if va % n ≠ 0 then coreTrap s l c 6 (wd va)
    else
      coreDone (atomicHome s l c va n true rl) l c 7 va (fun home s =>
        let r := homeRead s l c va home n
        let new := amoValue op (8 * n) (leNat r.1.bytes) (xr s l c rs2).toNat
        let s := homeWrite r.2 l c va home (leBytes n new) r.1.poison
        if r.1.poison then endStrand s l .poison else coreRet s l c rd (extend r.1.bytes true)))
/-- AMO. rl is a release at DEVICE scope; aq orders nothing further, since a core's later accesses are performed later. -/
def execAmo (l c : Nat) (op : AmoOp) (double aq rl : Bool) (rd rs1 rs2 : Nat) (s : State) :
    Host.Outcome State Fault Refusal :=
  match aq with
  | _ => .next (amo s l c op double rl rd rs1 rs2)

/-- LR: read from the home, which keeps the reservation of the 128-byte row (R164). -/
def lr (s : State) (l c : Nat) (double rl : Bool) (rd rs1 : Nat) : State :=
  coreStep s l c 4 (fun s =>
    let va := (xr s l c rs1).toNat % 2 ^ 57
    let n := if double then 8 else 4
    if va % n ≠ 0 then coreTrap s l c 4 (wd va)
    else
      coreDone (atomicHome s l c va n false rl) l c 5 va (fun home s =>
        let r := homeRead s l c va home n
        let s := r.2
        let others := s.mem.resv.filter (fun x => !(decide (x.l = l) && decide (x.c = c)))
        let s := { s with mem := { s.mem with resv := others ++ [{ l := l, c := c, row := alignDown home 128 }] } }
        if r.1.poison then endStrand s l .poison else coreRet s l c rd (extend r.1.bytes true)))
/-- LR. -/
def execLr (l c : Nat) (double aq rl : Bool) (rd rs1 : Nat) (s : State) : Host.Outcome State Fault Refusal :=
  match aq with
  | _ => .next (lr s l c double rl rd rs1)

/-- SC: stores only while the core's reservation of the row stands; rd tells (R164). -/
def sc (s : State) (l c : Nat) (double rl : Bool) (rd rs1 rs2 : Nat) : State :=
  coreStep s l c 4 (fun s =>
    let va := (xr s l c rs1).toNat % 2 ^ 57
    let n := if double then 8 else 4
    if va % n ≠ 0 then coreTrap s l c 6 (wd va)
    else
      coreDone (atomicHome s l c va n true rl) l c 7 va (fun home s =>
        let held := s.mem.resv.any (fun x => decide (x.l = l) && decide (x.c = c) && decide (x.row = alignDown home 128))
        let s := if held then homeWrite s l c va home (leBytes n (xr s l c rs2).toNat) false else s
        let rest := s.mem.resv.filter (fun x => !(decide (x.l = l) && decide (x.c = c)))
        coreRet { s with mem := { s.mem with resv := rest } } l c rd (if held then 0 else 1)))
/-- SC. -/
def execSc (l c : Nat) (double aq rl : Bool) (rd rs1 rs2 : Nat) (s : State) : Host.Outcome State Fault Refusal :=
  match aq with
  | _ => .next (sc s l c double rl rd rs1 rs2)

/-! ### Instructions by their words (R170, R171), and the rest -/

/-- A word of the custom-0 or custom-1 major opcode: the Xetp instruction it encodes, or an illegal one (R170, R171). -/
def xetp (s : State) (l c w : Nat) : State :=
  let f (hi lo : Nat) := w / 2 ^ lo % 2 ^ (hi + 1 - lo)
  let rd := f 11 7
  let rs1 := f 19 15
  let rs2 := f 24 20
  let flag := decide (f 27 27 = 1)
  if !xetpOk w then coreTrap s l c 2 (wd w)
  else
    match f 6 0, f 14 12 with
    | 0x0B, 0 => xwaitOp s l c rd rs1 rs2 flag
    | 0x0B, 1 => xsignalOp s l c rs1 rs2 flag
    | 0x0B, 2 => xfreadOp s l c rd rs1
    | 0x0B, 3 => xtileOp s l c rd rs1
    | 0x0B, 4 => xtsyncOp s l c rd rs1
    | 0x0B, 5 => xpicotOp s l c rs1 rs2
    | 0x0B, 6 => xcinvOp s l c rs1 rs2 flag
    | 0x0B, 7 => xdrainOp s l c
    | 0x2B, 0 => xallocOp s l c rd rs1 rs2 flag
    | 0x2B, 1 => xfreeOp s l c rs1
    | 0x2B, 2 => coreExit s l c (xr s l c rs1)
    | _, _ => coreTrap s l c 2 (wd w)

/-- One ordinary instruction of a core, `len` bytes long. -/
def coreOp (s : State) (l c len : Nat) (op : CoreOp) : State :=
  match op with
  | .load rd rs1 off size signed =>
    loadDone s l c (coreAddr s l c rs1 off) size (fun bs s => retire s l c len (setX rd (extend bs signed)))
  | .store rs1 rs2 off size =>
    let va := coreAddr s l c rs1 off
    coreDone (coreWrite s l c va (leBytes size (xr s l c rs2).toNat)) l c 7 va (fun _ s => retire s l c len id)
  | .loadF rd rs1 off size =>
    loadDone s l c (coreAddr s l c rs1 off) size (fun bs s =>
      retire s l c len (fun k => { k with f := k.f.set rd (nanBox bs) }))
  | .storeF rs1 rs2 off size =>
    let va := coreAddr s l c rs1 off
    coreDone (coreWrite s l c va (leBytes size ((core s l c).f.getD rs2 0).toNat)) l c 7 va (fun _ s => retire s l c len id)
  | .loadV rd parts => loadParts l c rd len parts s
  | .storeV rs parts => storeParts' l c rs len parts s
  | .fence pred _ => if decide (pred % 4 ≠ 0) && releaseWaits s l c then s else retire s l c len id
  | .csr w => csrOp s l c len w.toNat
  | .int w => intOp s l c w.toNat
  | .wrs sto =>
    if s.mem.resv.any (fun r => decide (r.l = l) && decide (r.c = c)) then
      modCore s l c (fun k => { k with stall := .wrs sto })
    else retire s l c len id
  | .setX rd v flags => retire s l c len (fun k => accrue flags (setX rd v k))
  | .setF rd v flags => retire s l c len (fun k => accrue flags { k with f := k.f.set rd v })
  | .setV rd vs flags sat =>
    retire s l c len (fun k => accrue flags { k with
      v := (k.v.take rd ++ vs ++ k.v.drop (rd + vs.length)).take 32
      vcsr := if sat then k.vcsr ||| 1 else k.vcsr })
  | .setVl rd vl vtype => retire s l c len (fun k => setX rd vl { k with vl := vl, vtype := vtype, vstart := 0 })
  | .jump rd target =>
    retire s l c len (fun k => { setX rd (k.pc + wd len) k with pc := target - wd len })
  | .custom w => xetp s l c w.toNat

/-- CORE_INSTRUCTION: `short` marks a 16-bit instruction. -/
def coreInstruction (s : State) (l c : Nat) (short : Bool) (op : CoreOp) : State :=
  coreStep s l c (if short then 2 else 4) (fun s => coreOp s l c (if short then 2 else 4) op)
/-- CORE_INSTRUCTION. -/
def execCoreInstruction (l c : Nat) (short : Bool) (op : CoreOp) (s : State) : Host.Outcome State Fault Refusal :=
  .next (unlessSafe s (coreInstruction s l c short op))

end Sys2Proof.Machine
end

