-- ==== Sys2Proof/Machine/Cse.lean ====
section
/-! DEFINITION. The context stream engine (R188 to R234): slot descriptors and requests, passes over KV pages, ring messages
and credits, merges and finalisation, closes and failures. -/

namespace Sys2Proof.Machine

/-! ### Geometry (R192, R195, R198) -/

/-- Ring size N. -/
def csN (d : List Word) : Nat := fld (wordAt d 0) 55 50 + 1
/-- Position. -/
def csPos (d : List Word) : Nat := fld (wordAt d 0) 49 44
/-- Layers per group G. -/
def csG (d : List Word) : Nat := fld (wordAt d 0) 43 40 + 1
/-- KV heads H. -/
def csH (d : List Word) : Nat := fld (wordAt d 0) 39 35 + 1
/-- Head dimension D. -/
def csD (d : List Word) : Nat := 32 * (fld (wordAt d 0) 34 32 + 1)
/-- K format. -/
def csFmtK (d : List Word) : Fmt := fmtD (fld (wordAt d 0) 31 28)
/-- V format. -/
def csFmtV (d : List Word) : Fmt := fmtD (fld (wordAt d 0) 27 24)
/-- Layers of the model. -/
def csLayers (d : List Word) : Nat := fld (wordAt d 0) 23 16 + 1
/-- Largest row count of a request. -/
def csRows (d : List Word) : Nat := fld (wordAt d 0) 15 9 + 1
/-- Bytes of an element. -/
def elemBytes (f : Fmt) : Nat := fmtBits f / 8
/-- Bytes of a head block (R192). -/
def headBlock (d : List Word) : Nat := 16 * csD d * (elemBytes (csFmtK d) + elemBytes (csFmtV d))
/-- A size rounded up to whole 4 KiB. -/
def up4k (n : Nat) : Nat := (n + 4095) / 4096 * 4096
/-- Bytes of a query buffer. -/
def qBufSize (d : List Word) : Nat := up4k (64 + 8 * csRows d + 2 * csH d * csRows d * csD d)
/-- Bytes of a partial buffer. -/
def pBufSize (d : List Word) : Nat := up4k (64 + 88 * csH d * csRows d * (csD d + 1))
/-- Offset in a work area of buffer `b` of a kind: 0 query, 1 partial receive buffer, 2 local partial buffer (R198). -/
def bufOff (d : List Word) (kind b : Nat) : Nat :=
  match kind with
  | 0 => b * qBufSize d
  | 1 => 2 * qBufSize d + b * pBufSize d
  | _ => 2 * qBufSize d + (2 + b) * pBufSize d
/-- A fence field of W3. -/
def csCountFence (d : List Word) : Nat := fld (wordAt d 3) 63 50
/-- REQ_FENCE. -/
def csReqFence (d : List Word) : Nat := fld (wordAt d 3) 49 36
/-- DONE_FENCE. -/
def csDoneFence (d : List Word) : Nat := fld (wordAt d 3) 35 22

/-- The checks of a slot descriptor that give FORMAT (R192, R195, R197). -/
def slotDescOk (d : List Word) : Bool :=
  let w0 := wordAt d 0
  let n := csN d
  let kv := fun c : Nat => decide (1 ≤ c ∧ c ≤ 4)
  let timeout := fld (wordAt d 4) 31 0
  let depth := fld (wordAt d 3) 21 19
  fld w0 63 56 = 1 && decide (csPos d < n) && kv (fld w0 31 28) && kv (fld w0 27 24) && fld w0 5 0 = 0
    && (wordAt d 1).toNat % 64 = 0 && fld (wordAt d 3) 18 0 = 0 && decide (1 ≤ depth ∧ depth ≤ 6)
    && fld (wordAt d 4) 63 32 ≠ 0 && (if n = 1 then timeout = 0 else decide (1000 ≤ timeout ∧ timeout ≤ 60000000))
    && (wordAt d 5).toNat % 64 = 0 && (wordAt d 6).toNat % 4096 = 0 && (wordAt d 7).toNat % 32 = 0
    && (if n = 1 then [8, 9, 10].all (fun i => wordAt d i = 0) else [8, 9, 10].all (fun i => wordAt d i ≠ 0))
    && fld (wordAt d 11) 47 0 = 0 && [12, 13, 14, 15].all (fun i => wordAt d i = 0)

/-! ### Slots -/

/-- A slot that is FREE. -/
def slotFree : Slot :=
  { state := 0, hoop := 0, ctx := 0, aspace := 0, desc := [], qFree := [], pFree := [], credits := [], next := 1,
    lastDone := 0, reqs := [], reason := .ok, origin := 0, discarded := 0, heard := 0, out := [] }
/-- The slot record. -/
def slot (s : State) (n : Nat) : Slot := (tget s.slots n).getD slotFree
/-- Change a slot that is not FREE. -/
def modSlot (s : State) (n : Nat) (f : Slot → Slot) : State :=
  match tget s.slots n with
  | some x => { s with slots := tput s.slots n (f x) }
  | none => s
/-- Change request `i` of a slot. -/
def modReq (s : State) (n i : Nat) (f : SlotReq → SlotReq) : State :=
  modSlot s n (fun x => { x with reqs := match x.reqs[i]? with
    | some r => x.reqs.set i (f r)
    | none => x.reqs })

/-- The access identity of a slot. -/
def slotAcc (n : Nat) (x : Slot) : Acc :=
  { eng := .cse n, hoop := x.hoop, ctx := x.ctx, aspace := x.aspace, flow := x.hoop * 8 + fld (wordAt x.desc 0) 8 6,
    row := 0 }

/-- The access identity of a write of a slot that is no ring write: its record or an entry word, or the output of request `num` (R205, R231,
R234). The row tells the answers apart. -/
def ownWrite (n : Nat) (x : Slot) (num : Option Nat) : Acc :=
  { slotAcc n x with row := match num with | none => 2 | some k => 3 + k }

/-- What a slot has yet to write or send, added to. -/
def slotOwes (s : State) (n : Nat) (os : List SlotOut) : State := modSlot s n (fun x => { x with out := x.out ++ os })
/-- A slot's status record, of a STATE and a REASON (R234). -/
def recordBytes (s : State) (x : Slot) (state : Nat) (reason : Status) : List Byte :=
  let code := if state = 2 then statusCode reason else 0
  let w0 := wd (state * 2 ^ 56 + code * 2 ^ 48 + x.origin % 64 * 2 ^ 42 + x.lastDone % 2 ^ 24)
  wordBytes [w0, wd (wick s), wd (x.discarded % 2 ^ 32 * 2 ^ 32), 0]

/-- Register the slot's wait for its next request (R200, R404). -/
def armSlot (s : State) (n : Nat) : State :=
  let x := slot s n
  let f := csReqFence x.desc
  let rest := { s with waits := s.waits.filter (fun w => decide (w.who ≠ .slot n)) }
  if x.state = 1 && decide ((fence s f).value < x.next) then
    addWait rest { fence := f, who := .slot n, value := x.next, qf2 := false }
  else rest

/-! ### Failure and close (R228, R231 to R234) -/

/-- A mailbox word (R214). -/
def mailboxWord (x : Slot) (ty buf pool status home dir num : Nat) : Nat :=
  ty * 2 ^ 60 + buf % 2 * 2 ^ 59 + pool % 2 * 2 ^ 58 + status % 256 * 2 ^ 50 + home % 64 * 2 ^ 44 + dir % 2 * 2 ^ 43
    + fld (wordAt x.desc 11) 63 48 * 2 ^ 24 + num % 2 ^ 24

/-- W6 and W7 of request entry `num` (R201): its address, and W7 for a status and a start. -/
def entryW6 (x : Slot) (num : Nat) : Nat := (wordAt x.desc 5).toNat + 64 * ((num - 1) % 2 ^ fld (wordAt x.desc 3) 21 19) + 48
/-- W7 of a request entry. -/
def entryW7 (s : State) (num started : Nat) (st : Status) : List Byte :=
  leBytes 8 (statusCode st * 2 ^ 56 + num % 2 ^ 24 * 2 ^ 32 + min ((wick s - started) / 1000) (2 ^ 32 - 1))

/-- Send a FAIL word (R216, R232); its REQ_NUM is 0 (DESIGN CHOICE, log 184). -/
def failSend (s : State) (n : Nat) (x : Slot) (down : Bool) (reason : Status) (origin : Nat) : Out Unit :=
  let a := slotAcc n x
  (placeVa s a (wordAt x.desc (if down then 9 else 10)).toNat 8 1 true).andThen (fun p s =>
    issuePicot s a p (leBytes 8 (mailboxWord x 6 0 0 (statusCode reason) origin (if down then 0 else 1) 0)))

/-- Do one thing a slot has yet to write or send. DONE_FENCE is signalled once the slot's writes to other nodes are answered. -/
def outStep (s : State) (n : Nat) (x : Slot) (o : SlotOut) : Out Unit :=
  let a := ownWrite n x none
  match o with
  | .fail down reason origin => failSend s n x down reason origin
  | .w7 num started st => writeVa s a (entryW6 x num + 8) { bytes := entryW7 s num started st, poison := false } false
  | .record state reason => writeVa s a (wordAt x.desc 7).toNat { bytes := recordBytes s x state reason, poison := false } false
  | .signal =>
    let f := csDoneFence x.desc
    if (outstanding s).any (fun r => decide (r.eng = a.eng) && decide (r.msg = msgWrite)) then .wait s
    else if fenceMay s f x.ctx then engineSignal s a.who x.hoop f 0 true 0 else .ok () s
/-- May a thing be done now: in the order of R228 and R232; only the FAIL words to the two neighbours do not wait for each other? -/
def outNow (out : List SlotOut) (i : Nat) : Bool :=
  let word := fun o : SlotOut => match o with | .fail _ _ _ => true | _ => false
  match out[i]? with
  | some o => decide (i = 0) || (word o && (out.take i).all word)
  | none => false
/-- The first of some things that need not wait is done; what fails is not done again (R234). -/
def outFirst (s : State) (n : Nat) : List (SlotOut × Nat) → Out Unit
  | [] => .wait s
  | (o, i) :: rest =>
    let gone := fun s : State => modSlot s n (fun x => { x with out := x.out.eraseIdx i })
    match outStep s n (slot s n) o with
    | .ok _ s | .fail _ s => .ok () (gone s)
    | .wait s => outFirst s n rest
/-- Do what a slot has yet to write or send, as far as it can be done. -/
def pumpOut : Nat → State → Nat → State
  | 0, s, _ => s
  | fuel + 1, s, n =>
    let out := (slot s n).out
    match outFirst s n (out.zipIdx.filter (fun p => outNow out p.2)) with
    | .ok _ s => pumpOut fuel s n
    | .wait s | .fail _ s => s
/-- The same, for all that is there. -/
def payOut (s : State) (n : Nat) : State := pumpOut ((slot s n).out.length + 1) s n

/-- Abandon a slot's requests and the messages it holds: each request of its own that started gets W7, and DONE_FENCE is error-signalled
when there was one (R228, R232). `always` error-signals it in any case. Ring words that it holds are never written. -/
def dropReqs (s : State) (n : Nat) (st : Status) (always : Bool) : State :=
  let x := slot s n
  let mine := x.reqs.filter (fun r => r.own)
  let words := (s.mem.mail.filter (fun m => decide (m.1 = n))).length
  let held := (x.reqs.map (fun r => b1 r.partIn.isSome + b1 r.maxIn.isSome)).sum
  let s := { s with mem := { s.mem with mail := s.mem.mail.filter (fun m => decide (m.1 ≠ n)) } }
  let s := modSlot s n (fun x => { x with
    reqs := [], discarded := x.discarded + x.reqs.length + held + words, credits := []
    out := x.out ++ mine.map (fun r => .w7 r.num r.started st) ++ (if always || !mine.isEmpty then [.signal] else []) })
  dropPicots (dropEngX s (.cse n)) (fun e => decide (e = .cse n))
/-- What a slot has to send before all else: FAIL words (R232, R233). -/
def slotOwesFirst (s : State) (n : Nat) (os : List SlotOut) : State := modSlot s n (fun x => { x with out := os ++ x.out })
/-- Words that stand in the mailbox of a slot that is not OPEN are dropped and counted (R221, R228). -/
def dropMail (s : State) (n : Nat) : State :=
  let k := (s.mem.mail.filter (fun m => decide (m.1 = n))).length
  countQ { s with mem := { s.mem with mail := s.mem.mail.filter (fun m => decide (m.1 ≠ n)) } } (n / 64) 10 k

/-- A slot fails (R232). `from_` holds the direction of the FAIL that caused it, if one did, and whether it travels on (R233). -/
def slotFail (s : State) (n : Nat) (reason : Status) (origin : Nat) (from_ : Option (Bool × Bool)) : State :=
  let x := slot s n
  if x.state ≠ 1 then s
  else
    let s := modSlot s n (fun x => { x with state := 2, reason := reason, origin := origin })
    let s := { s with waits := s.waits.filter (fun w => decide (w.who ≠ .slot n)) }
    let s := match from_ with
      | some (down, goes) => if goes then slotOwesFirst s n [.fail down reason origin] else s
      | none => if csN x.desc = 1 then s else slotOwesFirst s n [.fail true reason origin, .fail false reason origin]
    payOut (slotOwes (dropReqs s n reason true) n [.record 2 reason]) n

/-- Close a slot: abandon its requests, tell its neighbours, write the record (R228). -/
def closeSlot (s : State) (n : Nat) : State :=
  let x := slot s n
  if x.state = 0 ∨ x.state = 3 then payOut s n
  else
    let s := { s with waits := s.waits.filter (fun w => decide (w.who ≠ .slot n)) }
    let s := dropReqs s n .aborted false
    let at_ := csPos x.desc
    let s := if 1 < csN x.desc ∧ x.state = 1 then slotOwes s n [.fail true .aborted at_, .fail false .aborted at_] else s
    payOut (slotOwes (modSlot s n (fun x => { x with state := 3 })) n [.record 3 .ok]) n
/-- Has a slot nothing more to write or send, and nothing unacknowledged (R228)? -/
def slotQuiet (s : State) (n : Nat) : Bool := (slot s n).out.isEmpty && !engBusy s (.cse n)

/-- A slot is FREE. -/
def freeSlot (s : State) (n : Nat) : State :=
  let s := dropMail (dropPicots (dropEngX (dropEng s (.cse n)) (.cse n)) (fun e => decide (e = .cse n))) n
  { s with slots := tdel s.slots n, waits := s.waits.filter (fun w => decide (w.who ≠ .slot n)) }

/-- Why a slot fails when a ring write of it does (R231). -/
def ringReason (st : Status) : Status := match st with | .rights => .rights | _ => .peerLost
/-- A ring write has come back with a failure: one that is EPOCH_STALE is issued once more, when it can be; any other fails the slot
(R230, R231). -/
def ringFailed (s : State) (n : Nat) (st : Status) (fresh : Bool) (again : State → Out Unit) : State :=
  if st = .epochStale ∧ fresh = true then
    match again s with
    | .ok _ s | .wait s => s
    | .fail st s => slotFail s n (ringReason st) (csPos (slot s n).desc) none
  else slotFail s n (ringReason st) (csPos (slot s n).desc) none

/-- SLOT_OPEN: the admitted entry's descriptor, copied at admission, is checked, and the slot becomes OPEN once the clocks of its quarter run
(R53, R195, R197, R199). -/
def slotOpen (s : State) (q e : Nat) : State :=
  match flight s q e with
  | none => s
  | some f =>
    if f.phase ≠ .admitted ∨ fld (wordAt f.words 0) 63 56 ≠ 5 then s
    else
      let n := fld (wordAt f.words 0) 7 0
      let c := queueCtx s q
      let d := f.desc
      let fences := [csCountFence d, csReqFence d, csDoneFence d]
      if !slotDescOk d then finishFlight s q e .format
      else if (slot s n).state ≠ 0 || !descSlot (hoop s (queueHoop s q)).desc n || !fences.all (fun g => fenceMay s g c) then
        finishFlight s q e .rights
      else
      match needClock s (n / 64) with
      | .wait s | .fail _ s => s
      | .ok _ s =>
        let s := dropMail s n
        let x : Slot := { slotFree with state := 1, hoop := queueHoop s q, ctx := c, aspace := (context s c).aspace,
                                        desc := d, qFree := [0, 1], pFree := [0, 1], heard := wick s,
                                        out := [.record 1 .ok] }
        let s := { s with slots := tput s.slots n x }
        finishFlight (armSlot (pumpOut 2 s n) n) q e .ok
/-- SLOT_OPEN. -/
def execSlotOpen (queue entry : Nat) (s : State) : Host.Outcome State Fault Refusal := .next (slotOpen s queue entry)

/-- SLOT_CLOSE: the slot closes, and is FREE once its ring writes are acknowledged; the completion carries the reason
when the slot had FAILED (R228, R229). -/
def slotClose (s : State) (q e : Nat) : State :=
  match flight s q e with
  | none => s
  | some f =>
    if f.phase ≠ .admitted ∨ fld (wordAt f.words 0) 63 56 ≠ 6 then s
    else
      let n := fld (wordAt f.words 0) 7 0
      let x := slot s n
      if x.state = 0 ∨ x.ctx ≠ queueCtx s q then finishFlight s q e .rights
      else
      match needClock s (n / 64) with
      | .wait s | .fail _ s => s
      | .ok _ s =>
        let s := closeSlot s n
        if !slotQuiet s n then s
        else
          let st := if x.reason = .ok then .ok else x.reason
          finishFlight (freeSlot s n) q e st
/-- SLOT_CLOSE. -/
def execSlotClose (queue entry : Nat) (s : State) : Host.Outcome State Fault Refusal := .next (slotClose s queue entry)

/-! ### Bytes with poison -/

/-- Read bytes, with the runs of them that are poisoned. -/
def readBad (s : State) (a : Acc) (va n : Nat) : Out (List Byte × List (Nat × Nat)) :=
  (cut 512 va n).foldl (fun (o : Out (List Byte × List (Nat × Nat))) p => o.andThen (fun r s =>
    (readVa s a p.1 p.2 0).andThen (fun d s =>
      let bad := if d.poison then
          ((cut 64 p.1 p.2).filter (fun w => vaBad s a w.1 w.2)).map (fun w => (w.1 - va, w.2))
        else []
      .ok (r.1 ++ d.bytes, r.2 ++ bad) s))) (.ok ([], []) s)

/-! ### Requests (R200 to R205) -/

/-- Rows of a request. -/
def rqRows (r : SlotReq) : Nat := fld r.w0 46 40 + 1
/-- Layer of a request. -/
def rqLayer (r : SlotReq) : Nat := fld r.w0 39 32
/-- Does a request run in DET? -/
def rqDet (r : SlotReq) : Bool := fld r.w0 63 62 = 2
/-- Position of a row. -/
def rqPosition (r : SlotReq) (i : Nat) : Nat := leNat ((r.body.drop (8 * i)).take 8)
/-- Byte offset in the body of the query row of head `h` and row `i`. -/
def rqRowOff (d : List Word) (r : SlotReq) (h i : Nat) : Nat :=
  8 * rqRows r + (h * rqRows r + i) * csD d * elemBytes (fmtD (fld r.w0 59 56))
/-- The query row of a head and row, and whether it or its position is poisoned. -/
def rqRow (d : List Word) (r : SlotReq) (h i : Nat) : List Num × Bool :=
  let f := fmtD (fld r.w0 59 56)
  let n := csD d * elemBytes f
  let off := rqRowOff d r h i
  ((unpackCodes (fmtBits f) (csD d) ((r.body.drop off).take n)).map (decodeElem f),
    meetsBad r.badBody off n || meetsBad r.badBody (8 * i) 8)
/-- Has the member's own work on a request ended? -/
def passDone (r : SlotReq) : Bool := if rqDet r then decide (2 ≤ r.pass) else decide (1 ≤ r.pass)

/-- The checks of a request entry (R201, R204). -/
def entryOk (d : List Word) (ws : List Word) : Bool :=
  let w0 := wordAt ws 0
  let w4 := wordAt ws 4
  let fq := fld w0 59 56
  let fo := fld w0 55 52
  let rnd := fld w0 51 49
  let win := fld w4 63 32
  let fk := fld (wordAt d 0) 31 28
  fld w0 63 62 ≠ 3 && fld w0 61 60 ≠ 3 && decide (fo ≤ 4) && rnd ≠ 4 && rnd ≠ 5 && rnd ≠ 6 && fld w0 48 47 ≠ 3
    && (fld w0 48 47 = 0 || fo = 3 || fo = 4)
    && (match fk with | 1 => fq = 1 | 2 => fq = 2 | _ => fq = 3 || fq = 4)
    && decide (fld w0 46 40 < csRows d) && decide (fld w0 39 32 < csLayers d) && (wordAt ws 2).toNat % 8 = 0
    && (if fld w0 61 60 = 2 then win ≠ 0 else win = 0) && fld w4 31 3 = 0 && decide (fld w4 2 0 ≤ 4) && wordAt ws 5 = 0

/-- W0 with ACC, ROUND and SAT resolved by the home (R203). -/
def resolveW0 (s : State) (w0 : Word) : Word :=
  let acc := if cell s 0xB00002 0 0 = 1 then 2 else if fld w0 63 62 = 0 then (cell s 0xB00001 0 0).toNat else fld w0 63 62
  let rnd := match roundOf (cell s 0xB00003 0 0).toNat (fld w0 51 49) .fp32 with
    | .rtz => 1 | .rup => 2 | .rdn => 3 | _ => 0
  let fo := fld w0 55 52
  let sat := if fo = 3 ∨ fo = 4 then (if satOf (cell s 0xB00004 0 0).toNat (fld w0 48 47) then 1 else 2) else 0
  setFld (setFld (setFld w0 63 62 acc) 51 49 rnd) 48 47 sat

/-- An empty partial (R206). -/
def emptyPart (d : List Word) : Partial :=
  { m := .inf true, l := .zero false, o := List.replicate (csD d) (.zero false), long := [], bad := false,
    badO := List.replicate (csD d) false }

/-- A request as a member takes it up. -/
def newReq (s : State) (d : List Word) (home num : Nat) (own : Bool) (w0 w4 : Word) (out : Nat) (body : List Byte)
    (bad : List (Nat × Nat)) (buf : Nat) : SlotReq :=
  { home := home, num := num, own := own, w0 := w0, w4 := w4, out := out, body := body, badBody := bad, buf := buf, freed := own,
    started := wick s, forwarded := false, loading := false, pass := 0, passing := false, count := 0, block := 0,
    parts := List.replicate (csH d * (fld w0 46 40 + 1)) (emptyPart d), maxIn := none, maxSent := false, gmax := none,
    gmaxSent := false, partIn := none, merged := false, partSent := false, status := .ok, chain := .ok, outDone := false,
    w7 := false, part := 0 }

/-! ### Sending (R215 to R217) -/

/-- The bytes of partials: FAST values, or DET slots, with the poisoned runs (R215). -/
def partBytes (det : Bool) (ps : List Partial) : List Byte × List (Nat × Nat) :=
  let f32 (x : Num) := leBytes 4 (encodeElem .fp32 x)
  ps.foldl (fun acc p =>
    let at_ := acc.1.length
    let step := if det then 88 else 4
    let first := if det then 88 else 8
    let bs := if det then p.long.flatMap slotBytes else f32 p.m ++ f32 p.l ++ p.o.flatMap f32
    let bad := (if p.bad then [(at_, bs.length)] else [])
      ++ (p.badO.zipIdx.filter (fun b => b.1)).map (fun b => (at_ + first + step * b.2, step))
    (acc.1 ++ bs, acc.2 ++ bad)) ([], [])

/-- Does a slot await a message from upstream or a credit from downstream (R231)? A member awaits the partial of every request it
forwards, a home what it has sent round the ring, and a buffer in use its credit. -/
def slotAwaits (x : Slot) : Bool :=
  x.reqs.any (fun r => if r.own then (r.maxSent && r.gmax.isNone) || (r.partSent && r.partIn.isNone && !r.outDone)
    else !r.merged && r.partIn.isNone)
    || decide (x.qFree.length < 2) || decide (x.pFree.length < 2)

/-- Send a ring message downstream in a free buffer of its pool: the payload, then the word as a picot write (R216). -/
def ringSend (s : State) (n : Nat) (x : Slot) (ty pool : Nat) (r : SlotReq) (hdr : List Word) (body : List Byte)
    (bad : List (Nat × Nat)) (st : Status) : Out Unit :=
  match (if pool = 0 then x.qFree else x.pFree) with
  | [] => .wait s
  | b :: rest =>
    let a := slotAcc n x
    let d := x.desc
    let w1 := wd (r.num % 2 ^ 24 * 2 ^ 40 + r.home % 64 * 2 ^ 34)
    let head := wordBytes [wordAt hdr 0, w1, wordAt hdr 1, wordAt hdr 2, 0, 0, 0, 0]
    let bad := bad.map (fun p => (p.1 + 64, p.2))
    (placeVa s a (wordAt d 9).toNat 8 1 true).andThen (fun p s0 =>
      (writeVaBad s0 a ((wordAt d 8).toNat + bufOff d pool b) (head ++ body) bad false).andThen (fun _ s =>
        match issuePicot s a p (leBytes 8 (mailboxWord x ty b pool (statusCode st) r.home 0 r.num)) with
        | .ok _ s => .ok () (modSlot s n (fun x =>
            let x := if slotAwaits x then x else { x with heard := wick s }
            if pool = 0 then { x with qFree := rest } else { x with pFree := rest }))
        | .wait _ => .wait s0
        | .fail e s => .fail e s))

/-- Send a CREDIT upstream; its HOME, STATUS and REQ_NUM are 0 (DESIGN CHOICE, log 183). -/
def creditSend (s : State) (n : Nat) (x : Slot) (pool buf : Nat) : Out Unit :=
  let a := slotAcc n x
  (placeVa s a (wordAt x.desc 10).toNat 8 1 true).andThen (fun p s =>
    (issuePicot s a p (leBytes 8 (mailboxWord x 5 buf pool 0 0 0 0))).andThen (fun _ s =>
      .ok () (modSlot s n (fun x => { x with credits := dropFirst (fun c => c == (pool, buf)) x.credits }))))

/-- The maxima of a request's partials, with their poison. -/
def ownMaxima (r : SlotReq) : List (Num × Bool) := r.parts.map (fun p => (p.m, p.bad))
/-- The larger of two lists of maxima, element by element. -/
def maxPair (a b : List (Num × Bool)) : List (Num × Bool) := List.zipWith (fun x y => (fMax x.1 y.1, x.2 || y.2)) a b
/-- Bytes of maxima, with the poisoned runs. -/
def maxBytes (ms : List (Num × Bool)) : List Byte × List (Nat × Nat) :=
  (ms.flatMap (fun p => leBytes 4 (encodeElem .fp32 p.1)),
    (ms.zipIdx.filter (fun p => p.1.2)).map (fun p => (4 * p.2, 4)))

/-! ### Merge and finalisation (R222 to R225) -/

/-- Is a value −∞? -/
def isNegInf (x : Num) : Bool := numIsInf true x

/-- A sum of two FP32 values, rounded by RNE, and a product (R210, R222): each with what it counts (R85). -/
def addT (x y : Num) : Num × Tally := opTally .fp32 [x, y] (numSum [x, y])
/-- A product, rounded by RNE. -/
def mulT (x y : Num) : Num × Tally := opTally .fp32 [x, y] (numMul x y)
/-- exp of a difference, which rounds to FP32 first. -/
def expT (x m : Num) : Num × Tally := let d := addT x (numNeg m); (fExp .fp32 d.1, d.2)
/-- x × cx + y × cy. -/
def mixT (x cx y cy : Num) : Num × Tally :=
  let a := mulT x cx
  let b := mulT y cy
  let r := addT a.1 b.1
  (r.1, tallySum [a.2, b.2, r.2])

/-- FAST merge of the partial from upstream and the member's own (R222), and what it counts (R85). -/
def mergeFast (a b : Partial) : Partial × Tally :=
  let bad := a.bad || b.bad
  let badO := List.zipWith or a.badO b.badO
  if isNegInf a.m then ({ b with bad := bad, badO := badO }, tallyZero)
  else if isNegInf b.m then ({ a with bad := bad, badO := badO }, tallyZero)
  else
    let m := fMax a.m b.m
    let ca := expT a.m m
    let cb := expT b.m m
    let l := mixT a.l ca.1 b.l cb.1
    let o := List.zipWith (fun x y => mixT x ca.1 y cb.1) a.o b.o
    ({ m := m, l := l.1, o := o.map (fun x => x.1), long := [], bad := bad, badO := badO },
      tallyAdd (tallySum [ca.2, cb.2, l.2]) (tallySum (o.map (fun x => x.2))))
/-- DET combine (R94). -/
def mergeDet (a b : Partial) : Partial × Tally :=
  ({ b with long := List.zipWith accCombine a.long b.long, bad := a.bad || b.bad, badO := List.zipWith or a.badO b.badO }, tallyZero)

/-- The output values of one head and row before their conversion, each with its poison, and whether it stands under case 3 of R91: its
own long accumulator, or L, which every element of the row is divided by (R223, R224); and what the arithmetic counts (R85). `m` is the
ring's maximum in DET. -/
def finalRow (det : Bool) (m : Num) (p : Partial) : List (Num × Bool × Bool) × Tally :=
  let div := fun x y : Num => opTally .fp32 [x, y] (numDiv x y)
  let nans := if det then isNegInf m else isNegInf p.m
  let made : Tally := { ovf := 0, nans := 1, wraps := 0 }
  if det then
    let round := fun l : LongAcc => rne .fp32 (accResult .fp32 l)
    let first := p.long.headD accZero
    let lv := round first
    let os := (p.long.drop 1).map (fun o =>
      if nans then ((.nan : Num), false, made)
      else let y := div (round o) lv; (y.1, accOverflowed first || accOverflowed o, tallyAdd { accTally .rne o with wraps := 0 } y.2))
    (os.zipIdx.map (fun o => (o.1.1, p.bad || p.badO.getD o.2 false, o.1.2.1)),
      tallyAdd (if nans then tallyZero else { accTally .rne first with wraps := 0 }) (tallySum (os.map (fun o => o.2.2))))
  else
    let os := p.o.map (fun o => if nans then ((.nan : Num), made) else div o p.l)
    (os.zipIdx.map (fun o => (o.1.1, p.bad || p.badO.getD o.2 false, false)), tallySum (os.map (fun o => o.2)))

/-- Write a finished request's output (R202, R205); on failure its status joins and no output counts as written. -/
def writeOutput (s : State) (n i : Nat) (x : Slot) (r : SlotReq) (ps : List Partial) : Out Unit :=
  let det := rqDet r
  let f := fmtD (fld r.w0 55 52)
  let ms := (r.gmax.getD []).map (fun p => p.1)
  let outs := ps.zipIdx.map (fun p => finalRow det (ms.getD p.2 .nan) p.1)
  let vals := outs.flatMap (fun o => o.1)
  let wrapped := vals.any (fun v => v.2.2)
  let rnd := roundOf 0 (fld r.w0 51 49) f
  let sat := decide (fld r.w0 48 47 = 1)
  let k := elemBytes f
  let bytes := vals.flatMap (fun v => leBytes k (encodeElem f (convert f rnd sat 0 v.1)))
  let bad := (vals.zipIdx.filter (fun v => v.1.2.1)).map (fun v => (k * v.2, k))
  let st := statusMax (statusMax r.status r.chain)
    (statusMax (if wrapped then .numeric else .ok) (if bad.isEmpty then .ok else .poison))
  let done (s : State) (st : Status) : Out Unit := .ok () (modReq s n i (fun r => { r with outDone := true, chain := st }))
  if !statusGood st then done s st
  else
    match writeVaBad s (ownWrite n x (some r.num)) r.out bytes bad false with
    | .wait s => .wait s
    | .fail e s => done s (statusMax st e)
    | .ok _ s =>
      let elems := vals.map (fun v => { plainElem v.1 with wrapped := v.2.2 })
      let s := countTally s (n / 64) (tallySum (outs.map (fun o => o.2)))
      done (countOut s (n / 64) f sat (vals.filter (fun v => convOver f rnd 0 v.1)).length elems) st
/-- Write W6 and W7 of the home's oldest request once its output is written, and what it wrote to other nodes is answered (R205). An entry
that cannot be written is left. -/
def writeEntry (s : State) (n i : Nat) (x : Slot) (r : SlotReq) : Out Unit :=
  if (outstanding s).any (fun o => decide (o.eng = .cse n) && decide (o.row = 3 + r.num)) then .wait s
  else
  let bytes := leBytes 8 (wick s) ++ entryW7 s r.num r.started r.chain
  match writeVa s (ownWrite n x none) (entryW6 x r.num) { bytes := bytes, poison := false } false with
  | .wait s => .wait s
  | .ok _ s | .fail _ s => .ok () (modReq s n i (fun r => { r with w7 := true }))
/-- Complete the home's oldest request: DONE_FENCE is signalled once everything written before has landed, which is a release at any
SCOPE (R205, R266). -/
def completeReq (s : State) (n : Nat) (x : Slot) (r : SlotReq) : Out Unit :=
  let a := slotAcc n x
  let f := csDoneFence x.desc
  if engBusy s (.cse n) then .wait s
  else
    match (if fenceMay s f x.ctx then engineSignal s a.who a.hoop f r.num false 0 else .ok () (signalDropped s)) with
    | .wait s => .wait s
    | .fail _ s | .ok _ s =>
      .ok () (modSlot (chargeEngine s x.ctx r.started) n (fun x => { x with
        lastDone := r.num, reqs := x.reqs.filter (fun y => !(y.own && decide (y.num = r.num))) }))

/-! ### What a slot does next (R213, R217 to R220) -/

/-- Things a slot may do, each with whether it may now. -/
abbrev Acts := List (Bool × (State → Out Unit))
/-- An act that marks request `i` when it is done. -/
def marking (n i : Nat) (o : State → Out Unit) (f : SlotReq → SlotReq) : State → Out Unit :=
  fun s => (o s).andThen (fun _ s => .ok () (modReq s n i f))
/-- A buffer of a pool is free: a CREDIT is to be sent for it. -/
def owesCredit (n pool b : Nat) (s : State) : State := modSlot s n (fun x => { x with credits := x.credits ++ [(pool, b)] })

/-- What a slot may do for a request it forwards. -/
def transitActs (n i : Nat) (x : Slot) (r : SlotReq) : Acts :=
  let d := x.desc
  let det := rqDet r
  let last := decide ((csPos d + 1) % csN d = r.home)
  let st := statusMax r.chain r.status
  let here : State → Out Unit := fun s => .ok () s
  [(!r.forwarded && last, marking n i here (fun r => { r with forwarded := true })),
   (!r.forwarded && !last && !x.qFree.isEmpty,
     marking n i (fun s => ringSend s n x 1 0 r [r.w0, setFld (wordAt d 0) 49 44 0, r.w4] r.body r.badBody r.chain)
       (fun r => { r with forwarded := true })),
   (r.forwarded && passDone r && !r.freed, marking n i (fun s => .ok () (owesCredit n 0 r.buf s)) (fun r => { r with freed := true })),
   (det && r.maxIn.isSome && decide (1 ≤ r.pass) && !r.maxSent && !x.pFree.isEmpty,
     let p := r.maxIn.getD (0, [])
     let m := maxBytes (maxPair p.2 (ownMaxima r))
     marking n i (fun s => (ringSend s n x 3 1 r [0, 0, 0] m.1 m.2 st).andThen (fun _ s => .ok () (owesCredit n 1 p.1 s)))
       (fun r => { r with maxSent := true, maxIn := none })),
   (det && r.gmax.isSome && !r.gmaxSent && last, marking n i here (fun r => { r with gmaxSent := true })),
   (det && r.gmax.isSome && !r.gmaxSent && !last && !x.pFree.isEmpty,
     let m := maxBytes (r.gmax.getD [])
     marking n i (fun s => ringSend s n x 4 1 r [0, 0, 0] m.1 m.2 st) (fun r => { r with gmaxSent := true })),
   (r.partIn.isSome && passDone r && !r.merged,
     let p := r.partIn.getD (0, [])
     let both := List.zipWith (if det then mergeDet else mergeFast) p.2 r.parts
     marking n i (fun s => .ok () (owesCredit n 1 p.1 (countTally s (n / 64) (tallySum (both.map (fun b => b.2)))))) (fun r => { r with
       parts := both.map (fun b => b.1), merged := true, partIn := none })),
   (r.merged && !r.partSent && !x.pFree.isEmpty,
     let p := partBytes det r.parts
     marking n i (fun s => ringSend s n x 2 1 r [0, 0, 0] p.1 p.2 st) (fun r => { r with partSent := true })),
   (r.partSent && r.freed, fun s => .ok () (modSlot s n (fun x => { x with reqs := x.reqs.eraseIdx i })))]

/-- What a home may do for a request of its own. `first` marks its oldest. -/
def homeActs (n i : Nat) (x : Slot) (r : SlotReq) (first : Bool) : Acts :=
  let det := rqDet r
  let alone := decide (csN x.desc = 1)
  let two := decide (2 ≤ x.pFree.length)
  let st := statusMax r.chain r.status
  let going := !r.outDone
  [(r.outDone && first && !r.w7, fun s => writeEntry s n i x r),
   (r.outDone && first && r.w7, fun s => completeReq s n x r),
   (going && det && decide (1 ≤ r.pass) && alone && r.gmax.isNone,
     marking n i (fun s => .ok () s) (fun r => { r with gmax := some (ownMaxima r) })),
   (going && alone && passDone r && first, fun s => writeOutput s n i x r r.parts),
   (going && det && decide (1 ≤ r.pass) && !alone && !r.maxSent && two,
     let m := maxBytes (ownMaxima r)
     marking n i (fun s => ringSend s n x 3 1 r [0, 0, 0] m.1 m.2 r.status) (fun r => { r with maxSent := true })),
   (going && det && r.maxIn.isSome,
     let p := r.maxIn.getD (0, [])
     marking n i (fun s => .ok () (owesCredit n 1 p.1 s)) (fun r => { r with gmax := some p.2, maxIn := none })),
   (going && det && r.gmax.isSome && !alone && !r.gmaxSent && two,
     let m := maxBytes (r.gmax.getD [])
     marking n i (fun s => ringSend s n x 4 1 r [0, 0, 0] m.1 m.2 st) (fun r => { r with gmaxSent := true })),
   (going && passDone r && !alone && !r.partSent && two,
     let p := partBytes det r.parts
     marking n i (fun s => ringSend s n x 2 1 r [0, 0, 0] p.1 p.2 st) (fun r => { r with partSent := true })),
   (going && r.partIn.isSome && r.partSent && first,
     let p := r.partIn.getD (0, [])
     fun s => (writeOutput s n i x r p.2).andThen (fun _ s => .ok () (modReq (owesCredit n 1 p.1 s) n i (fun r => { r with
       partIn := none }))))]

/-- What an open slot may do next: return a credit, or work on its requests in the order it took them up. -/
def slotActs (s : State) (n : Nat) : List (State → Out Unit) :=
  let x := slot s n
  if x.state ≠ 1 then []
  else
    let firstOwn := (x.reqs.find? (fun r => r.own)).map (fun r => r.num)
    let credits : Acts := (x.credits.take 1).map (fun c => (true, fun s => creditSend s n x c.1 c.2))
    let acts := x.reqs.zipIdx.flatMap (fun p =>
      if p.1.own then homeActs n p.2 x p.1 (decide (firstOwn = some p.1.num)) else transitActs n p.2 x p.1)
    ((credits ++ acts).filter (fun a => a.1)).map (fun a => a.2)

/-- The first of some acts that need not wait. -/
def firstAct (s : State) : List (State → Out Unit) → Out Unit
  | [] => .wait s
  | f :: rest =>
    match f s with
    | .wait s => firstAct s rest
    | o => o

/-- Take the answers to a slot's writes; those that were answered well are let go. A ring write that fails is issued again, or fails the
slot (R230, R231); one to be issued again that cannot be yet keeps the later ones waiting. The failure of an output is its request's (R205),
a record or an entry that cannot be written is left (R234), and a signal that was not accepted is counted (R411). A slot that is no longer
OPEN sends only its FAIL words again (R228, R232). -/
def takeAnswers (n : Nat) : List Remote → State → State
  | [], s => s
  | r :: rest, s =>
    match r.answer with
    | none | some (.ok, _, _) => takeAnswers n rest (dropRemote s r.id)
    | some (st, _, _) =>
      let away := dropRemote s r.id
      if r.msg = msgFence then takeAnswers n rest (countHub away 6 1)
      else if r.row = 2 then takeAnswers n rest away
      else if 3 ≤ r.row then
        takeAnswers n rest (modSlot away n (fun x => { x with reqs := x.reqs.map (fun y =>
          if y.own ∧ y.num + 3 = r.row then { y with chain := statusMax y.chain st } else y) }))
      else if (slot s n).state ≠ 1 ∧ r.msg ≠ msgPicot then takeAnswers n rest away
      else if st = .epochStale ∧ r.row = 0 then
        match reissue s (slotAcc n (slot s n)) r with
        | .ok _ s => takeAnswers n rest s
        | .wait s => s
        | .fail st s => takeAnswers n rest (slotFail (dropRemote s r.id) n (ringReason st) (csPos (slot s n).desc) none)
      else takeAnswers n rest (slotFail away n (ringReason st) (csPos (slot s n).desc) none)
/-- Take the answers that have come to a slot's writes. -/
def slotAnswers (s : State) (n : Nat) : State :=
  takeAnswers n (s.fab.remotes.filter (fun r => decide (r.eng = .cse n) && decide (r.msg ≠ msgRead) && r.answer.isSome)) s

/-- Do everything a slot may do now. -/
def pumpSlot : Nat → State → Nat → State
  | 0, s, _ => s
  | fuel + 1, s, n =>
    match firstAct s (slotActs s n) with
    | .ok _ s => pumpSlot fuel s n
    | .wait s => s
    | .fail st s => slotFail s n (ringReason st) (csPos (slot s n).desc) none
/-- Take answers, then do what may be done. -/
def runSlot (s : State) (n : Nat) : State :=
  let s := slotAnswers s n
  payOut (pumpSlot (16 * ((slot s n).reqs.length + 1)) s n) n

/-- A request that fails at its home before its query is sent completes there (R204). -/
def failAtHome (s : State) (n i : Nat) (st : Status) : State :=
  modReq s n i (fun r => { r with loading := false, outDone := true, chain := st, freed := true })

/-- A started request reads its entry, resolves it, reads positions and query, and sends QUERY; what must wait goes on when the command
comes again (R200, R203, R217, R219). -/
def loadReq (s : State) (n i : Nat) (x : Slot) (r : SlotReq) : State :=
  let d := x.desc
  let a := slotAcc n x
  match readVa s a ((wordAt d 5).toNat + 64 * ((r.num - 1) % 2 ^ fld (wordAt d 3) 21 19)) 64 0 with
  | .wait s => s
  | .fail st s => failAtHome s n i st
  | .ok e s =>
    let ws := toWords e.bytes
    let w0 := resolveW0 s (wordAt ws 0)
    let rows := fld w0 46 40 + 1
    let qn := csH d * rows * csD d * elemBytes (fmtD (fld w0 59 56))
    if e.poison then failAtHome s n i .poison
    else if !entryOk d ws then failAtHome s n i .format
    else
      let body := (readBad s a (wordAt ws 2).toNat (8 * rows)).andThen (fun p s =>
        (readBad s a (wordAt ws 1).toNat qn).andThen (fun q s =>
          .ok (p.1 ++ q.1, p.2 ++ q.2.map (fun b => (b.1 + 8 * rows, b.2))) s))
      match body with
      | .wait s => s
      | .fail st s => failAtHome s n i st
      | .ok b s =>
        let fresh := newReq s d (csPos d) r.num true w0 (wordAt ws 4) (wordAt ws 3).toNat b.1 b.2 0
        let r := { fresh with started := r.started, forwarded := true, status := if b.2.isEmpty then .ok else .poison }
        let ready := fun s : State => modReq s n i (fun _ => r)
        if csN d = 1 then ready s
        else if (slot s n).qFree.length < 2 then s
        else
          match ringSend s n x 1 0 r [w0, setFld (wordAt d 0) 49 44 0, wordAt ws 4] b.1 b.2 r.status with
          | .ok _ s => ready s
          | .wait s => s
          | .fail st s => slotFail s n (ringReason st) (csPos d) none

/-- CSE_REQUEST_START: the home starts its next request once REQ_FENCE reaches its number, or goes on reading the one it has started; in a
ring it needs two query credits (R200, R217), the hoop must be RUNNING (R554), and its CSE in no reset (R510). A request released by an
error-signalled fence completes with FENCE_ERROR (R391). -/
def cseRequestStart (s : State) (n : Nat) : State :=
  let s := runSlot s n
  let x := slot s n
  let g := fence s (csReqFence x.desc)
  let d := x.desc
  let bare := { newReq s d (csPos d) x.next true 0 0 0 [] [] 0 with loading := true }
  if x.state ≠ 1 || !quarterRuns s (n / 64) then s
  else
    match x.reqs.zipIdx.find? (fun p => p.1.loading) with
    | some (r, i) =>
      match needClock s (n / 64) with
      | .wait s | .fail _ s => s
      | .ok _ s => runSlot (loadReq s n i x r) n
    | none =>
      if decide ((hoop s x.hoop).inst ≠ .running) || engineResetting s (engCode (.cse (64 * (n / 64)))) || decide (g.value < x.next)
          || (decide (1 < csN d) && decide (x.qFree.length < 2)) then s
      else
        match needClock s (n / 64) with
        | .wait s | .fail _ s => s
        | .ok _ s =>
          let s := armSlot (modSlot s n (fun x => { x with reqs := x.reqs ++ [bare], next := x.next + 1 })) n
          if g.error then runSlot (failAtHome s n x.reqs.length .fenceError) n
          else runSlot (loadReq s n x.reqs.length (slot s n) bare) n
/-- CSE_REQUEST_START. -/
def execCseRequestStart (slot : Nat) (s : State) : Host.Outcome State Fault Refusal := .next (unlessSafe s (cseRequestStart s slot))

/-! ### Passes (R206 to R213) -/

/-- Does a request wait for a pass: its first, once its query has been sent on (R218), or in DET its second once M is known, which a member
has sent on first (R220)? In a ring of one there is nobody to send it to. -/
def wantsPass (alone : Bool) (r : SlotReq) : Bool :=
  !r.passing && !r.outDone && r.forwarded && (r.pass = 0 || (rqDet r && r.pass = 1 && r.gmax.isSome && (alone || r.gmaxSent)))
/-- Local partial buffers in use: a request holds one from its first pass until its partial is sent (R198, R218). -/
def partsHeld (x : Slot) : List Nat :=
  (x.reqs.filter (fun r => (r.passing || decide (1 ≤ r.pass)) && !r.partSent && !r.outDone)).map (fun r => r.part)

/-- CSE_PASS_START: the next pass begins, transit queries before the slot's own, once the quarter's clocks run; COUNT_FENCE is read (R53, R206,
R213, R218). -/
def csePassStart (s : State) (n : Nat) : State :=
  let s := runSlot s n
  let x := slot s n
  let part := (List.range 2).find? (fun k => !(partsHeld x).contains k)
  let may := fun r : SlotReq => wantsPass (decide (csN x.desc = 1)) r && (part.isSome || decide (r.pass = 1))
  let idx := x.reqs.zipIdx
  let pick := match idx.find? (fun p => may p.1 && !p.1.own) with
    | some p => some p
    | none => idx.find? (fun p => may p.1)
  if x.state ≠ 1 || !quarterRuns s (n / 64) || x.reqs.any (fun r => r.passing) then s
  else
    match pick, needClock s (n / 64) with
    | none, _ => s
    | _, .wait s | _, .fail _ s => s
    | some (r, i), .ok _ s =>
      let g := fence s (csCountFence x.desc)
      let fresh := r.parts.map (fun p => { p with long := List.replicate (csD x.desc + 1) accZero })
      let begin_ := fun r : SlotReq => { r with
        passing := true, block := 0, parts := if r.pass = 1 then fresh else r.parts, part := if r.pass = 1 then r.part else part.getD 0 }
      if r.pass = 1 then modReq s n i begin_
      else if g.error then modReq s n i (fun r => { begin_ r with count := 0, status := statusMax r.status .fenceError })
      else if 16 * fld (wordAt x.desc 4) 63 32 < g.value then
        modReq s n i (fun r => { begin_ r with count := 0, status := statusMax r.status .format })
      else modReq s n i (fun r => { begin_ r with count := g.value })
/-- CSE_PASS_START. -/
def execCsePassStart (slot : Nat) (s : State) : Host.Outcome State Fault Refusal := .next (unlessSafe s (csePassStart s slot))

/-- Translate a run that must lie on this node (R209). A poisoned page-state word makes the bytes that it governs poisoned (R612): the read
finds that. -/
def localRun (s : State) (a : Acc) (va n : Nat) : Out Unit :=
  (cut 512 va n).foldl (fun (o : Out Unit) c => o.andThen (fun _ s =>
    match translateAll s a 0 [c] with
    | .fail .poison s => .ok () s
    | .fail st s => .fail st s
    | .wait s => .wait s
    | .ok ps s =>
      if ps.any (fun p => match p.place with | .peer _ _ => true | .loc _ => false) then .fail .rights s else .ok () s)) (.ok () s)

/-- A plane of one head block: 16 rows of D values, each row with the poison of its bytes, and of each value. -/
def planeRows (f : Fmt) (dim : Nat) (bs : List Byte) (bad : List (Nat × Nat)) : List (List Num × List Bool) :=
  let k := elemBytes f
  (List.range 16).map (fun j =>
    let off := j * dim * k
    ((unpackCodes (fmtBits f) dim ((bs.drop off).take (dim * k))).map (decodeElem f),
      (List.range dim).map (fun i => meetsBad bad (off + i * k) k)))

/-- The score of a query row against a key row, scaled (R208), and what it counts (R85). -/
def score (det : Bool) (scale : Num) (q k : List Num) : Num × Tally :=
  let prods := List.zipWith numMul q k
  let acc := accAddAll accZero prods
  let dot := if det then (rne .fp32 (accResult .fp32 acc), accTally .rne acc)
    else ((fastSum none prods).getD (.zero false), fastTally none prods)
  let r := mulT dot.1 scale
  (r.1, tallyAdd { dot.2 with wraps := 0 } r.2)

/-- Is the key at position `k` visible to a row at position `t` (R207)? -/
def keyVisible (w0 w4 : Word) (t k : Nat) : Bool :=
  match fld w0 61 60 with
  | 0 => true
  | 1 => decide (k ≤ t)
  | _ => decide (t < k + fld w4 63 32) && decide (k ≤ t)

/-- The scores of one row against the keys of a block, `none` where absent or invisible, and what they count. -/
def blockScores (d : List Word) (r : SlotReq) (h i b : Nat) (ks : List (List Num × List Bool)) :
    List (Option (Num × Bool)) × Tally :=
  let q := rqRow d r h i
  let base := (wordAt d 2).toNat + 16 * b
  let scale := decodeElem .fp32 (fld r.w0 31 0)
  let out := ks.zipIdx.map (fun k =>
    if 16 * b + k.2 < r.count ∧ keyVisible r.w0 r.w4 (rqPosition r i) (base + k.2) = true then
      let v := score (rqDet r) scale q.1 k.1.1
      (some (v.1, q.2 || k.1.2.any id), v.2)
    else (none, tallyZero))
  (out.map (fun o => o.1), tallySum (out.map (fun o => o.2)))

/-- Column `i` of V for the keys that count, with poison. -/
def vColumn (vs : List (List Num × List Bool)) (i : Nat) : List (Num × Bool) :=
  vs.map (fun v => (v.1.getD i (.zero false), v.2.getD i false))

/-- FAST update of a partial by one block (R210), and what it counts (R85). Every V value of the block enters the sums, an absent or invisible
key's with e = 0, so the poison of each reaches them (R209). -/
def fastBlock (dim : Nat) (sc : List (Option (Num × Bool))) (vs : List (List Num × List Bool)) (p : Partial) : Partial × Tally :=
  let vals := sc.map (fun x => match x with | some v => v.1 | none => .inf true)
  let bad := p.bad || sc.any (fun x => match x with | some v => v.2 | none => false)
  let mb := vals.foldl fMax p.m
  if isNegInf mb then ({ p with bad := bad, badO := if bad then p.badO.map (fun _ => true) else p.badO }, tallyZero)
  else
    let sum := fun xs : List Num => opTally .fp32 xs (numSum xs)
    let keep := fun (x c : Num) (terms : List Num) =>
      let a := mulT x c
      let b := sum terms
      let r := addT a.1 b.1
      (r.1, tallySum [a.2, b.2, r.2])
    let c := expT p.m mb
    let es := mapTally (fun x => expT x mb) vals
    let l := keep p.l c.1 es.1
    let o := (List.range dim).map (fun i =>
      let terms := List.zipWith (fun e v => mulT e v.1) es.1 (vColumn vs i)
      let r := keep (p.o.getD i (.zero false)) c.1 (terms.map (fun t => t.1))
      (r.1, tallyAdd (tallySum (terms.map (fun t => t.2))) r.2))
    ({ m := mb, l := l.1, o := o.map (fun x => x.1), long := [], bad := bad,
       badO := (List.range dim).map (fun i => bad || p.badO.getD i false || (vColumn vs i).any (fun v => v.2)) },
      tallyAdd (tallySum [c.2, es.2, l.2]) (tallySum (o.map (fun x => x.2))))

/-- DET pass 1: the local maximum (R211). -/
def maxBlock (sc : List (Option (Num × Bool))) (p : Partial) : Partial :=
  sc.foldl (fun p x => match x with | some v => { p with m := fMax p.m v.1, bad := p.bad || v.2 } | none => p) p

/-- DET pass 2: exact sums of e and e × v (R211), and what the subtractions count (R85). -/
def detBlock (dim : Nat) (m : Num × Bool) (sc : List (Option (Num × Bool))) (vs : List (List Num × List Bool))
    (p : Partial) : Partial × Tally :=
  (sc.zip vs).foldl (fun acc y =>
    match y.1 with
    | none => acc
    | some s =>
      let p := acc.1
      let e := expT s.1 m.1
      let bad := p.bad || s.2 || m.2
      ({ p with
         long := accAdd (p.long.headD accZero) e.1 :: (p.long.drop 1).zipIdx.map (fun l =>
           accAdd l.1 (numMul e.1 (y.2.1.getD l.2 (.zero false))))
         bad := bad
         badO := (List.range dim).map (fun i => bad || p.badO.getD i false || y.2.2.getD i false) }, tallyAdd acc.2 e.2)) (p, tallyZero)

/-- One head of a block: read its planes and update the partials of its rows. -/
def passHead (s : State) (a : Acc) (d : List Word) (r : SlotReq) (page b h : Nat) : Out SlotReq :=
  let dim := csD d
  let kf := csFmtK d
  let vf_ := csFmtV d
  let kn := 16 * dim * elemBytes kf
  let va := page + (rqLayer r % csG d * csH d + h) * headBlock d
  let only := rqDet r && r.pass = 0
  (localRun s a va (headBlock d)).andThen (fun _ s =>
    (readBad s a va kn).andThen (fun k s =>
      (if only then .ok ([], []) s else readBad s a (va + kn) (16 * dim * elemBytes vf_)).andThen (fun v s =>
        let ks := planeRows kf dim k.1 k.2
        let vs := planeRows vf_ dim v.1 v.2
        let upd := fun (p : Partial) (i : Nat) =>
          let sc := blockScores d r h i b ks
          let u := if only then (maxBlock sc.1 p, tallyZero)
            else if rqDet r then detBlock dim ((r.gmax.getD []).getD (h * rqRows r + i) (.nan, false)) sc.1 vs p
            else fastBlock dim sc.1 vs p
          (u.1, tallyAdd sc.2 u.2)
        let parts := r.parts.zipIdx.map (fun p =>
          if p.2 / rqRows r = h then upd p.1 (p.2 % rqRows r) else (p.1, tallyZero))
        .ok { r with parts := parts.map (fun p => p.1) } (match a.eng with
          | .cse n => countTally s (n / 64) (tallySum (parts.map (fun p => p.2)))
          | _ => s))))

/-- One token block: its entry is read afresh, then its heads (R194, R209). An entry that is poisoned, which is no KV bytes, ends the pass with
POISON, and every partial of the member is poisoned (DESIGN CHOICE, log 185). -/
def passBlock (s : State) (a : Acc) (d : List Word) (r : SlotReq) : Out SlotReq :=
  let groups := (csLayers d + csG d - 1) / csG d
  let va := (wordAt d 1).toNat + 8 * (r.block * groups + rqLayer r / csG d)
  (readVa s a va 8 0).andThen (fun e s =>
    let w := wd (leNat e.bytes)
    if e.poison then .fail .poison s
    else if !bit w 63 || fld w 62 57 ≠ 0 || fld w 5 0 ≠ 0 then .fail .format s
    else
      (List.range (csH d)).foldl (fun (o : Out SlotReq) h => o.andThen (fun r s =>
        passHead s a d r (fld w 56 6 * 64) r.block h)) (.ok r s))

/-- The blocks of a pass from where it stands; a block that must wait has changed nothing. -/
def passBlocks (a : Acc) (d : List Word) : Nat → SlotReq → State → SlotReq × Out Unit
  | 0, r, s => (r, .ok () s)
  | fuel + 1, r, s =>
    if (r.count + 15) / 16 ≤ r.block then (r, .ok () s)
    else
      match passBlock s a d r with
      | .wait s => (r, .wait s)
      | .fail st s => (r, .fail st s)
      | .ok r s => passBlocks a d fuel { r with block := r.block + 1 } s

/-- A member's partials, once its passes are over, stand in its local partial buffer, laid out as a PARTIAL's body behind the room of a
header (R198, log 136). -/
def saveParts (s : State) (n : Nat) (x : Slot) (r : SlotReq) : Out Unit :=
  if !passDone { r with pass := r.pass + 1 } then .ok () s
  else
    let p := partBytes (rqDet r) r.parts
    writeVaBad s (slotAcc n x) ((wordAt x.desc 6).toNat + bufOff x.desc 2 r.part + 64) p.1 p.2 false

/-- CSE_PASS_END: the pass runs over its blocks and ends; what fails is contributed (R209 to R213). -/
def csePassEnd (s : State) (n : Nat) : State :=
  let x := slot s n
  match x.reqs.zipIdx.find? (fun p => p.1.passing) with
  | none => runSlot s n
  | some (r, i) =>
    if x.state ≠ 1 || !quarterRuns s (n / 64) then s
    else
      match needClock s (n / 64) with
      | .wait s | .fail _ s => s
      | .ok _ s =>
        let p := passBlocks (slotAcc n x) x.desc ((r.count + 15) / 16 + 1) r s
        let over_ (s : State) (st : Status) :=
          let bad := p.1.parts.any (fun y => y.bad || y.badO.any id)
          runSlot (modReq s n i (fun _ => { p.1 with
            passing := false, pass := r.pass + 1,
            status := statusMax p.1.status (statusMax st (if bad then .poison else .ok)) })) n
        match p.2.andThen (fun _ s => saveParts s n x p.1) with
        | .wait s => modReq s n i (fun _ => p.1)
        | .ok _ s => over_ s .ok
        | .fail .poison s =>
          runSlot (modReq s n i (fun _ => { p.1 with
            passing := false, pass := r.pass + 1, status := statusMax p.1.status .poison,
            parts := p.1.parts.map (fun y => { y with bad := true, badO := y.badO.map (fun _ => true) }) })) n
        | .fail st s => over_ s st
/-- CSE_PASS_END. -/
def execCsePassEnd (slot : Nat) (s : State) : Host.Outcome State Fault Refusal := .next (unlessSafe s (csePassEnd s slot))

/-! ### Mailbox words (R214 to R221) -/

/-- Drop a message and count it (R221). -/
def dropWord (s : State) (n : Nat) : State :=
  modSlot (countQ s (n / 64) 10 1) n (fun x => { x with discarded := x.discarded + 1 })

/-- The pool a message type uses; none for CREDIT and FAIL. -/
def typePool (ty : Nat) : Option Nat := match ty with | 1 => some 0 | 2 | 3 | 4 => some 1 | _ => none

/-- The slot fails with FORMAT on a word or header (R221). -/
def badWord (s : State) (n : Nat) : State := slotFail s n .format (csPos (slot s n).desc) none

/-- A mailbox word is taken, or dropped because its SEQ_ID differs or the slot is not OPEN, or fails the slot (R221), as a poisoned one
does (R231). What
the word asks is `f`; a word that must wait stays in the list of landed words. -/
def takeWord (s : State) (n : Nat) (ty : Nat) (w : Word) (f : State → Slot → Out Unit) : State :=
  let x := slot s n
  let mine := fun p : Nat × Word × Bool => decide (p.1 = n) && decide (p.2.1 = w)
  let away (s : State) := { s with mem := { s.mem with mail := dropFirst mine s.mem.mail } }
  let bad := ((s.mem.mail.find? mine).map (fun p => p.2.2)).getD false
  let known := decide (1 ≤ fld w 63 60 ∧ fld w 63 60 ≤ 6)
  if known && decide (fld w 63 60 ≠ ty) then s
  else if x.state = 1 ∧ bad = true then slotFail (away s) n .poison (csPos x.desc) none
  else if x.state ≠ 1 || decide (fld w 39 24 ≠ fld (wordAt x.desc 11) 63 48) then dropWord (away s) n
  else if !known || decide (csN x.desc ≤ fld w 49 44)
      || (match typePool ty with | some p => decide (fld w 58 58 ≠ p) | none => false) then badWord (away s) n
  else
    match f (modSlot (away s) n (fun x => { x with heard := wick s })) x with
    | .ok _ s => runSlot s n
    | .wait u => { u with mem := { u.mem with mail := s.mem.mail } }
    | .fail st s => slotFail s n st (csPos x.desc) none

/-- Read a payload: its header, which must not be poisoned, and a body of `len` bytes (R215, R231). -/
def readPayload (s : State) (n : Nat) (x : Slot) (pool b len : Nat) : Out (List Word × List Byte × List (Nat × Nat)) :=
  let va := (wordAt x.desc 6).toNat + bufOff x.desc pool b
  (readVa s (slotAcc n x) va 64 0).andThen (fun h s =>
    if h.poison then .fail .poison s
    else (readBad s (slotAcc n x) (va + 64) len).andThen (fun p s => .ok (toWords h.bytes, p.1, p.2) s))

/-- QUERY: the member takes up the request; it is forwarded before its pass (R218 to R220). -/
def query (s : State) (n : Nat) (w : Word) : State :=
  takeWord s n 1 w (fun s x =>
    let d := x.desc
    let b := fld w 59 59
    (readPayload s n x 0 b 0).andThen (fun h s =>
      let w0 := wordAt h.1 0
      let rows := fld w0 46 40 + 1
      let len := 8 * rows + csH d * rows * csD d * elemBytes (fmtD (fld w0 59 56))
      if wordAt h.1 2 ≠ setFld (wordAt d 0) 49 44 0 then .fail .format s
      else
        (readPayload s n x 0 b len).andThen (fun p s =>
          let r := { newReq s d (fld w 49 44) (fld w 23 0) false w0 (wordAt h.1 3) 0 p.2.1 p.2.2 b with
                     chain := statusOf (fld w 57 50) }
          .ok () (modSlot s n (fun x => { x with reqs := x.reqs ++ [r] })))))
/-- QUERY. -/
def execQuery (slot : Nat) (word : Word) (s : State) : Host.Outcome State Fault Refusal := .next (query s slot word)

/-- The request a PARTIAL, MAX or GMAX names. -/
def namedReq (x : Slot) (w : Word) : Option (SlotReq × Nat) :=
  x.reqs.zipIdx.find? (fun p => decide (p.1.home = fld w 49 44) && decide (p.1.num % 2 ^ 24 = fld w 23 0) && !p.1.outDone)

/-- FP32 values of a body, with poison. -/
def bodyVals (bs : List Byte) (bad : List (Nat × Nat)) : List (Num × Bool) :=
  (unpackCodes 32 (bs.length / 4) bs).zipIdx.map (fun p => (decodeElem .fp32 p.1, meetsBad bad (4 * p.2) 4))

/-- The partials of a body (R215). A slot that breaks R93 holds a value the spec does not give: a free one (log 27). -/
def bodyParts (s : State) (det : Bool) (dim k : Nat) (bs : List Byte) (bad : List (Nat × Nat)) : List Partial × State :=
  let one := if det then 88 * (dim + 1) else 8 + 4 * dim
  (List.range k).foldl (fun acc j =>
    let off := j * one
    if det then
      let r := (List.range (dim + 1)).foldl (fun (x : List LongAcc × State) i =>
        match accUnpack ((toWords ((bs.drop (off + 88 * i)).take 88)).map (fun w => w.toNat)) with
        | some l => (x.1 ++ [l], x.2)
        | none => let f := freeNum x.2; (x.1 ++ [accAdd accZero f.1], f.2)) ([], acc.2)
      let p : Partial := { m := .inf true, l := .zero false, o := [], long := r.1, bad := meetsBad bad off 88,
                           badO := (List.range dim).map (fun i => meetsBad bad (off + 88 * (i + 1)) 88) }
      (acc.1 ++ [p], r.2)
    else
      let v := bodyVals ((bs.drop off).take one) (bad.map (fun p => (p.1 - off, p.1 + p.2 - off - (p.1 - off))))
      let p : Partial := { m := (v.getD 0 (.nan, false)).1, l := (v.getD 1 (.nan, false)).1,
                           o := (v.drop 2).map (fun y => y.1), long := [],
                           bad := (v.take 2).any (fun y => y.2), badO := (v.drop 2).map (fun y => y.2) }
      (acc.1 ++ [p], acc.2)) ([], s)

/-- PARTIAL: held until the member's pass has ended, then merged and sent on; at the home it is the ring's (R219, R220). -/
def partialWord (s : State) (n : Nat) (w : Word) : State :=
  takeWord s n 2 w (fun s x =>
    match namedReq x w with
    | none => .fail .format s
    | some (r, i) =>
      let k := csH x.desc * rqRows r
      let det := rqDet r
      let one := if det then 88 * (csD x.desc + 1) else 8 + 4 * csD x.desc
      (readPayload s n x 1 (fld w 59 59) (k * one)).andThen (fun p s =>
        let b := bodyParts s det (csD x.desc) k p.2.1 p.2.2
        .ok () (modReq b.2 n i (fun r => { r with
          partIn := some (fld w 59 59, b.1), chain := statusMax r.chain (statusOf (fld w 57 50)) }))))
/-- PARTIAL. -/
def execPartialMsg (slot : Nat) (word : Word) (s : State) : Host.Outcome State Fault Refusal :=
  .next (partialWord s slot word)

/-- MAX: held until pass 1 has ended, then the larger is sent on; the home takes M and sends GMAX (R220). -/
def maxWord (s : State) (n : Nat) (w : Word) : State :=
  takeWord s n 3 w (fun s x =>
    match namedReq x w with
    | none => .fail .format s
    | some (r, i) =>
      (readPayload s n x 1 (fld w 59 59) (4 * (csH x.desc * rqRows r))).andThen (fun p s =>
        .ok () (modReq s n i (fun r => { r with
          maxIn := some (fld w 59 59, bodyVals p.2.1 p.2.2), chain := statusMax r.chain (statusOf (fld w 57 50)) }))))
/-- MAX. -/
def execMax (slot : Nat) (word : Word) (s : State) : Host.Outcome State Fault Refusal := .next (maxWord s slot word)

/-- GMAX: M is taken, its buffer freed, and it is forwarded before pass 2 (R218, R220). -/
def gmaxWord (s : State) (n : Nat) (w : Word) : State :=
  takeWord s n 4 w (fun s x =>
    match namedReq x w with
    | none => .fail .format s
    | some (r, i) =>
      (readPayload s n x 1 (fld w 59 59) (4 * (csH x.desc * rqRows r))).andThen (fun p s =>
        let s := modSlot s n (fun x => { x with credits := x.credits ++ [(1, fld w 59 59)] })
        .ok () (modReq s n i (fun r => { r with
          gmax := some (bodyVals p.2.1 p.2.2), chain := statusMax r.chain (statusOf (fld w 57 50)) }))))
/-- GMAX. -/
def execGmax (slot : Nat) (word : Word) (s : State) : Host.Outcome State Fault Refusal := .next (gmaxWord s slot word)

/-- CREDIT: the downstream buffer it names is free again (R217). -/
def creditWord (s : State) (n : Nat) (w : Word) : State :=
  takeWord s n 5 w (fun s _ =>
    let b := fld w 59 59
    .ok () (modSlot s n (fun x =>
      if fld w 58 58 = 0 then { x with qFree := insertNat x.qFree b } else { x with pFree := insertNat x.pFree b })))
/-- CREDIT. -/
def execCredit (slot : Nat) (word : Word) (s : State) : Host.Outcome State Fault Refusal := .next (creditWord s slot word)

/-- FAIL: the slot fails with the word's reason and forwards it the same way, unless the next member is where the failure
began (R233). -/
def failWord (s : State) (n : Nat) (w : Word) : State :=
  takeWord s n 6 w (fun s x =>
    let d := x.desc
    let down := decide (fld w 43 43 = 0)
    let origin := fld w 49 44
    let next := if down then (csPos d + 1) % csN d else (csPos d + csN d - 1) % csN d
    let reason := statusOf (fld w 57 50)
    .ok () (slotFail s n reason origin (some (down, decide (next ≠ origin)))))
/-- FAIL. -/
def execFail (slot : Nat) (word : Word) (s : State) : Host.Outcome State Fault Refusal := .next (failWord s slot word)

/-- MAILBOX_ACCESS_DROP: an access other than an aligned 8-byte picot write is dropped and counted (R196). -/
def execMailboxAccessDrop (q : Nat) (s : State) : Host.Outcome State Fault Refusal := .next (countQ s q 9 1)

/-- RING_TIMEOUT: a slot that has heard nothing for RING_TIMEOUT while it awaited a message or a credit fails with TIMEOUT
(R231). -/
def ringTimeout (s : State) (n : Nat) : State :=
  let x := slot s n
  if x.state = 1 ∧ 1 < csN x.desc ∧ slotAwaits x = true ∧ x.heard + 1000 * fld (wordAt x.desc 4) 31 0 ≤ wick s then
    slotFail s n .timeout (csPos x.desc) none
  else s
/-- RING_TIMEOUT. -/
def execRingTimeout (slot : Nat) (s : State) : Host.Outcome State Fault Refusal := .next (unlessSafe s (ringTimeout s slot))

end Sys2Proof.Machine
end

