-- ==== Sys2Proof/Machine/Mover.lean ====
section
/-! DEFINITION. The data movers (R250 to R259): descriptors and their checks, COPY, GATHER, SCATTER and FILL, carried
blocks (R242), flags and completion; link guards (R249) and the zeroing of bobbins (R248). -/

namespace Sys2Proof.Machine

/-! ### Fields of a descriptor (R252) -/

/-- OPCODE. -/
def mvOp (d : List Word) : Nat := fld (wordAt d 0) 63 56
/-- FMT_SRC. -/
def mvSrc (d : List Word) : Fmt := fmtD (fld (wordAt d 0) 55 52)
/-- FMT_DST. -/
def mvDst (d : List Word) : Fmt := fmtD (fld (wordAt d 0) 51 48)
/-- ROWS. -/
def mvRows (d : List Word) : Nat := fld (wordAt d 3) 63 32
/-- ROW_ELEMS. -/
def mvElems (d : List Word) : Nat := fld (wordAt d 3) 31 0
/-- SRC_PITCH. -/
def mvSrcPitch (d : List Word) : Nat := (wordAt d 4).toNat
/-- DST_PITCH. -/
def mvDstPitch (d : List Word) : Nat := (wordAt d 5).toNat
/-- Bytes of a source row. -/
def mvSrcBytes (d : List Word) : Nat := rowBytes (mvSrc d) (mvElems d)
/-- Bytes of a destination row. -/
def mvDstBytes (d : List Word) : Nat := rowBytes (mvDst d) (mvElems d)
/-- Scale bytes of a row. -/
def mvScales (f : Fmt) (d : List Word) : Nat := if fmtIsMx f then mvElems d / 32 else 0
/-- Are the destination rows contiguous (R258)? -/
def mvContiguous (d : List Word) : Bool := mvOp d ≠ 3 && (mvRows d = 1 || mvDstPitch d = mvDstBytes d)

/-- May a format's row hold the descriptor's elements (R63, R68)? -/
def mvRowOk (f : Fmt) (d : List Word) : Bool := rowCountOk f (mvElems d)

/-- The checks of a mover descriptor (R252, R254). FILL reads no source, so its source and rounding fields are unused. -/
def mvOk (d : List Word) : Bool :=
  let w0 := wordAt d 0
  let op := mvOp d
  let fs := fld w0 55 52
  let fd := fld w0 51 48
  let round := fld w0 47 45
  let sat := fld w0 44 43
  let fill := decide (op = 4)
  let indexed := decide (op = 2) || decide (op = 3)
  let sp := mvSrcPitch d
  decide (1 ≤ op ∧ op ≤ 4) && fld w0 39 32 = 0 && fld w0 15 0 = 0 && wordAt d 14 = 0 && wordAt d 15 = 0
    && (fmtOfCode fs).isSome && (fmtOfCode fd).isSome && moverPair (mvSrc d) (mvDst d)
    && decide (0 < mvRows d) && decide (0 < mvElems d) && mvRowOk (mvSrc d) d && mvRowOk (mvDst d) d
    && (mvRows d = 1 || decide (mvDstBytes d ≤ mvDstPitch d))
    && (fill || (if sp = 0 then op = 1 else mvRows d = 1 || decide (mvSrcBytes d ≤ sp)))
    && (!fill || (!fmtIsMx (mvDst d) && fs = fd && mvDstBytes d % 8 = 0))
    && round ≠ 5 && round ≠ 6 && (round ≠ 4 || decide (fmtBits (mvDst d) ≤ 8))
    && sat ≠ 3 && (sat = 0 || mvDst d = .e4m3 || mvDst d = .e5m2)
    && ((fld w0 31 16 = 0 && wordAt d 10 = 0) || round = 4 || round = 7)
    && (if fill then [1, 4, 6, 9, 10].all (fun i => wordAt d i = 0) && round = 0 && sat = 0 && fld w0 31 16 = 0
        else wordAt d 13 = 0)
    && (indexed || wordAt d 8 = 0)
    && (fill || decide (wordAt d 6 ≠ 0) == fmtIsMx (mvSrc d)) && (decide (wordAt d 7 ≠ 0) == fmtIsMx (mvDst d))
    && (wordAt d 8).toNat % 4 = 0 && (wordAt d 11).toNat % 8 = 0

/-! ### Jobs -/

/-- Key of mover `m` of quarter `q`. -/
def mvKey (q m : Nat) : Nat := q * 16 + m
/-- The job of a mover. -/
def mvJob (s : State) (q m : Nat) : Option MoverJob := tget s.movers (mvKey q m)
/-- Change the job of a mover. -/
def modJob (s : State) (q m : Nat) (f : MoverJob → MoverJob) : State :=
  match mvJob s q m with
  | some j => { s with movers := tput s.movers (mvKey q m) (f j) }
  | none => s

/-- The mover's identity in its accesses; an image's source is read for the front end, which does not park (R383). -/
def mvAcc (q m : Nat) (j : MoverJob) : Acc :=
  { eng := .mover q m, hoop := j.hoop, ctx := j.ctx, aspace := j.aspace,
    flow := j.hoop * 8 + fld (wordAt j.desc 0) 42 40, row := 0 }
/-- The identity with which a job reads its source. -/
def mvReadAcc (q m : Nat) (j : MoverJob) : Acc :=
  if j.work = 1 then { mvAcc q m j with eng := .fe, row := 4096 + mvKey q m } else mvAcc q m j

/-- Was entry (q, e) admitted before entry (q', e')? At the same time, by queue number, and within a queue by its order (log 139). -/
def admittedBefore (s : State) (q e q' e' : Nat) : Bool :=
  let at_ (q e : Nat) := ((flight s q e).map (fun f => f.start)).getD 0
  let place (q e : Nat) := ((queue s q).flights.findIdx? (fun f => decide (f.entry = e))).getD 0
  decide (at_ q e < at_ q' e') || (decide (at_ q e = at_ q' e')
    && (decide (q < q') || (decide (q = q') && decide (place q e < place q' e'))))
/-- Enter a job into the list of waiting descriptors, which is in admission order (R250). -/
def waitForMover (s : State) (quarter : Nat) (j : MoverJob) : State :=
  let before (p : Nat × MoverJob) : Bool := !admittedBefore s j.queue j.entry p.2.queue p.2.entry
  { s with moverQ := s.moverQ.takeWhile before ++ (quarter, j) :: s.moverQ.dropWhile before }
/-- Is a MOVE entry for a quarter that was admitted before a waiting job still to be handed over? -/
def moveAhead (s : State) (quarter : Nat) (j : MoverJob) : Bool :=
  s.queues.any (fun p => p.2.flights.any (fun f => decide (f.phase = .admitted) && decide (fld (wordAt f.words 0) 63 56 = 3)
    && decide (fld (wordAt f.words 0) 1 0 = quarter) && admittedBefore s p.1 f.entry j.queue j.entry))

/-- MOVE: the admitted descriptor is checked and waits for a mover of its quarter (R250, R254, R255). -/
def move (s : State) (q e : Nat) : State :=
  match flight s q e with
  | none => s
  | some f =>
    if f.phase ≠ .admitted ∨ fld (wordAt f.words 0) 63 56 ≠ 3 then s
    else if !mvOk f.desc then finishFlight s q e .format
    else
      let j : MoverJob := { queue := q, entry := e, work := 0, desc := f.desc.take 16, hoop := queueHoop s q,
                            ctx := queueCtx s q, aspace := (context s (queueCtx s q)).aspace, rows := [], put := 0,
                            round := (wordAt f.desc 18).toNat, sat := (wordAt f.desc 19).toNat, status := .ok,
                            flagSent := false, finished := false, since := wick s, key := (activeEpoch s).getD 0 }
      let s := modFlight s q e (fun f => { f with phase := .running })
      waitForMover s (fld (wordAt f.words 0) 1 0) j
/-- MOVE. -/
def execMove (queue entry : Nat) (s : State) : Host.Outcome State Fault Refusal := .next (move s queue entry)

/-- MOVER_DISPATCH: the quarter's first waiting descriptor, in admission order, goes to its lowest-numbered idle mover; a retired mover
is never chosen (R250, R494). -/
def moverDispatch (s : State) (q : Nat) : State :=
  let idle := (List.range 16).find? (fun m => (mvJob s q m).isNone && !s.darner.deadEngines.contains (engCode (.mover q m)))
  match idle, s.moverQ.find? (fun p => p.1 = q) with
  | some m, some p =>
    if !quarterRuns s q || engineResetting s (engCode (.mover q m)) || moveAhead s q p.2 then s
    else
      match needClock s q with
      | .ok _ s => { s with movers := tput s.movers (mvKey q m) { p.2 with since := wick s },
                            moverQ := dropFirst (fun x => x == p) s.moverQ }
      | o => o.state
  | _, _ => s
/-- MOVER_DISPATCH. -/
def execMoverDispatch (q : Nat) (s : State) : Host.Outcome State Fault Refusal := .next (unlessSafe s (moverDispatch s q))

/-- A job ends with a status; what it has already moved stays (R259). -/
def mvFail (s : State) (q m : Nat) (st : Status) : State :=
  modJob s q m (fun j => { j with status := statusMax j.status st, finished := true })

/-! ### Carried blocks (R242) -/

/-- Does a descriptor carry whole blocks: an exact COPY whose every row is a run of whole carry blocks? -/
def mvCarries (j : MoverJob) : Bool :=
  let d := j.desc
  let whole (va pitch : Nat) := va % 512 = 0 && (mvRows d = 1 || pitch % 512 = 0)
  j.work = 0 && mvOp d = 1 && mvSrc d = mvDst d && mvSrcBytes d % 512 = 0
    && whole (wordAt d 1).toNat (mvSrcPitch d) && whole (wordAt d 2).toNat (mvDstPitch d)

/-- The local HBM block that a piece lies in, if it does. -/
def hbmPlace (p : Piece) : Option Nat :=
  match p.place with
  | .loc a => if usableHbm a then some a else none
  | .peer _ _ => none

/-- Copy one block between bobbins with its check unchanged. A poisoned block stays poisoned; a mismatch goes with it. A remap of the
destination's granule holds the write with its check (R570). The answer says whether the block was poisoned. -/
def carryBlock (s : State) (who : Who) (src dst : Nat) : Bool × State :=
  let cls := who.flow.map (fun f => f % 8)
  if injected s src 2 then
    let r := readBlock s who src 512 0
    (r.1.poison, writeBlock r.2 who dst r.1.bytes r.1.poison)
  else
    let s := flushMerges (flushMerges s src) dst
    let bs := hbmBytes s src 512
    let bad := decide (blockState s src = .poisoned)
    let check := if bad then notCheck (crc32c bs) else storedCheck s src
    let s := countRemapped (countRemapped (clearResv s dst 512) src) dst
    let s := selCount s (some (addrQuarter src)) 0x08 512 who.hoop cls who.ctx
    let s := selCount s (some (addrQuarter dst)) 0x08 512 who.hoop cls who.ctx
    let s := portArrive (countB s (src / 0x1000000000) 0 512) (src / 0x1000000000) who.flow 512
    let s := portArrive (countB s (dst / 0x1000000000) 1 512) (dst / 0x1000000000) who.flow 512
    let s := if bad then countQ s (addrQuarter src) 11 1 else s
    (bad, if remapping s dst then holdWrite s who dst bs bad (some check) else storeCarried s dst bs check)

/-- Count the bytes a mover moved (0x09 of R561). -/
def mvCount (s : State) (q : Nat) (j : MoverJob) (n : Nat) : State :=
  selCount s (some q) 0x09 n (some j.hoop) (some (fld (wordAt j.desc 0) 42 40)) (some j.ctx)

/-- What a job moves is poisoned: its status says so. -/
def mvMark (s : State) (q m : Nat) (bad : Bool) : State :=
  if bad then modJob s q m (fun j => { j with status := statusMax j.status .poison }) else s

/-- Carry one block between two bobbins of this node, by way of the mover; one that a link delivers poisoned lands poisoned (R249). -/
def carryLocal (s : State) (q m : Nat) (a : Acc) (x y : Nat) : State :=
  let lost := linkPoison s (some (addrQuarter x)) (some q) || linkPoison s (some q) (some (addrQuarter y))
  let c := carryBlock s a.who x y
  let s := crossTo c.2 a.who (some (addrQuarter x)) (some q) 512
  let s := crossTo s a.who (some q) (some (addrQuarter y)) 512
  let s := if lost then sealBlock s y true else s
  mvMark s q m (c.1 || lost)

/-- The source ranges of a COPY: its rows, and their scales (R253). -/
def mvCopySources (d : List Word) : List (Nat × Nat) :=
  let n := mvScales (mvSrc d) d
  let rows := if mvSrcPitch d = 0 then 1 else mvRows d
  (List.range rows).map (fun r => ((wordAt d 1).toNat + r * mvSrcPitch d, mvSrcBytes d))
    ++ (if n = 0 then [] else [((wordAt d 6).toNat, rows * n)])
/-- Source and destination of block `k` of a carrying descriptor. -/
def mvBlock (d : List Word) (k : Nat) : Nat × Nat :=
  let per := mvSrcBytes d / 512
  ((wordAt d 1).toNat + k / per * mvSrcPitch d + k % per * 512, (wordAt d 2).toNat + k / per * mvDstPitch d + k % per * 512)
/-- Does the destination of block `k` lie in the source? Its bytes are undefined (R256). -/
def mvUndefined (d : List Word) (k : Nat) : Bool := runsMeet (mvCopySources d) [((mvBlock d k).2, 512)]
/-- The order in which a carrying descriptor's blocks move: those whose destination lies in the source last, so that the source is read as it
stands (R256). -/
def mvOrder (d : List Word) : List Nat :=
  let ks := List.range (mvRows d * (mvSrcBytes d / 512))
  ks.filter (fun k => !mvUndefined d k) ++ ks.filter (mvUndefined d)
/-- A block whose destination lies in the source is written with free values; it is poisoned where the source, or what it held, was (R256,
R258). -/
def openLocal (s : State) (q m : Nat) (a : Acc) (x y : Nat) : State :=
  let bad := decide (blockState s x = .poisoned) || decide (blockState s y = .poisoned)
  let b := freeBytes 512 s
  let s := crossTo b.2 a.who (some (addrQuarter x)) (some q) 512
  let s := crossTo s a.who (some q) (some (addrQuarter y)) 512
  mvMark (writeRun s a.who y b.1 bad) q m bad

/-- Move block `k` of a carrying descriptor: carried when both ends lie in bobbins of this node, else read and written. Where the
page-state word of the source is poisoned the block is delivered poisoned; where that of the destination is, it is dropped (R612). -/
def carryStep (s : State) (q m : Nat) (j : MoverJob) (k : Nat) : Out Unit :=
  let d := j.desc
  let a := mvAcc q m j
  let src := (mvBlock d k).1
  let dst := (mvBlock d k).2
  let from_ : Out (List Piece) := match translateAll s a 0 [(src, 512)] with
    | .fail .poison s => .ok [] s
    | o => o
  from_.andThen (fun ps s =>
    match translateAll s a 1 [(dst, 512)] with
    | .fail .poison s => .ok () (mvMark s q m true)
    | .fail st s => .fail st s
    | .wait s => .wait s
    | .ok pd s =>
      (piecesReady s a true false pd).andThen (fun _ s =>
        match ps.head?.bind hbmPlace, pd.head?.bind hbmPlace with
        | some x, some y => (piecesReady s a false false ps).andThen (fun _ s =>
            .ok () (if mvUndefined d k then openLocal s q m a x y else carryLocal s q m a x y))
        | _, _ =>
          (remoteWritesReady s a pd).andThen (fun _ s =>
            let got : Out Data := if ps.isEmpty then .ok { bytes := List.replicate 512 0, poison := true } s else readVa s a src 512 0
            got.andThen (fun b s =>
              let c := if mvUndefined d k then freeBytes 512 s else (b.bytes, s)
              .ok () (mvMark (putPieces c.2 a { bytes := c.1, poison := b.poison } 0 pd) q m b.poison)))))

/-! ### Rows (R253, R255) -/

/-- Convert one row, byte for byte when the formats are equal; overflows and NaNs made are counted (R85). -/
def mvConvert (j : MoverJob) (dst : Nat) (data scales : List Byte) : List Byte × List Byte × Nat × Nat :=
  let d := j.desc
  let f := mvDst d
  if mvSrc d = f then (data, scales, 0, 0)
  else
    let w0 := wordAt d 0
    let o : OutSet := { fmt := f, rnd := roundOf j.round (fld w0 47 45) f, sat := satOf j.sat (fld w0 44 43),
                        seed := (wordAt d 10).toNat, tag := fld w0 31 16, row0 := fld (wordAt d 9) 63 32,
                        col0 := fld (wordAt d 9) 31 0 }
    let xs := decodeRow (mvSrc d) scales (unpackCodes (fmtBits (mvSrc d)) (mvElems d) data)
    let c := convertRow o dst xs
    (packCodes (fmtBits f) c.1, c.2, convertOvers o dst xs, nansMade f o.sat (convertOvers o dst xs) (xs.map plainElem))

/-- Read a row's index (R253): its row index and whether it was poisoned. -/
def mvIndex (s : State) (a : Acc) (d : List Word) (r : Nat) : Out (Nat × Bool) :=
  if mvOp d = 2 ∨ mvOp d = 3 then
    (readVa s a ((wordAt d 8).toNat + 4 * r) 4 0).andThen (fun b s => .ok (leNat b.bytes, b.poison) s)
  else .ok (r, false) s

/-- Read and convert row `r` (R253); of a row whose elements are carried, its scales only. -/
def mvReadRow (s : State) (q m : Nat) (j : MoverJob) (carried : Bool) (r : Nat) : Out MoverRow :=
  let d := j.desc
  let a := mvReadAcc q m j
  (mvIndex s a d r).andThen (fun ix s =>
    let from_ := if mvOp d = 2 then ix.1 else if mvOp d = 1 ∧ mvSrcPitch d = 0 then 0 else r
    let dst := if mvOp d = 3 then ix.1 else r
    if mvOp d = 4 then
      .ok { src := 0, dst := dst, data := (List.replicate (mvDstBytes d / 8) (leBytes 8 (wordAt d 13).toNat)).flatten,
            scales := [], bad := false } s
    else
      let va := (wordAt d 1).toNat + from_ * mvSrcPitch d
      let n := mvScales (mvSrc d) d
      (if carried then Out.ok ({ bytes := [], poison := false } : Data) s else readVa s a va (mvSrcBytes d) 0).andThen (fun b s =>
        (if n = 0 then Out.ok ({ bytes := [], poison := false } : Data) s
          else readVa s a ((wordAt d 6).toNat + from_ * n) n 0).andThen (fun sc s =>
            let c := if carried then ([], sc.bytes, 0, 0) else mvConvert j dst b.bytes sc.bytes
            let s := if c.2.2 = (0, 0) then s else countQ (countQ s q 4 c.2.2.1) q 5 c.2.2.2
            .ok { src := va, dst := dst, data := c.1, scales := c.2.1, bad := b.poison || sc.poison || ix.2 } s)))

/-- Read the rows that are not read yet. -/
def mvReadRows (q m : Nat) (carried : Bool) : Nat → State → Out Unit
  | 0, s => .ok () s
  | n + 1, s =>
    match mvJob s q m with
    | none => .ok () s
    | some j =>
      (mvReadRow s q m j carried j.rows.length).andThen (fun row s =>
        let s := modJob s q m (fun j => { j with rows := j.rows ++ [row],
                                                 status := if row.bad then statusMax j.status .poison else j.status })
        mvReadRows q m carried n s)

/-! ### Writes (R256, R258) -/

/-- One write of a descriptor: address, bytes, and its poisoned runs. -/
structure MoverWrite where
  va : Nat
  data : List Byte
  bad : List (Nat × Nat)
  deriving DecidableEq, Repr

/-- A run as writes, one per aligned carry block (R258). -/
def runWrites (va : Nat) (data : List Byte) (bad : List (Nat × Nat)) : List MoverWrite :=
  (cut 512 va data.length).map (fun p =>
    let off := p.1 - va
    { va := p.1, data := (data.drop off).take p.2,
      bad := (bad.filter (fun b => decide (b.1 < off + p.2) && decide (off < b.1 + b.2))).map (fun b => (b.1 - off, b.1 + b.2 - off - (b.1 - off))) })

/-- The writes of the rows that were read: the two planes as runs when they are contiguous, else row by row (R258). -/
def mvWrites (j : MoverJob) : List MoverWrite :=
  let d := j.desc
  let n := mvScales (mvDst d) d
  let dst := (wordAt d 2).toNat
  let sdst := (wordAt d 7).toNat
  let all (b : Bool) (len : Nat) := if b then [(0, len)] else []
  if mvContiguous d then
    let k := mvDstBytes d
    let marks (step : Nat) := (j.rows.zipIdx.filter (fun p => p.1.bad)).map (fun p => (p.2 * step, step))
    runWrites dst (j.rows.flatMap (fun r => r.data)) (marks k)
      ++ runWrites sdst (j.rows.flatMap (fun r => r.scales)) (marks n)
  else
    j.rows.flatMap (fun r =>
      runWrites (dst + r.dst * mvDstPitch d) r.data (all r.bad r.data.length)
        ++ runWrites (sdst + r.dst * n) r.scales (all r.bad r.scales.length))

/-- The address ranges that a descriptor has read: of each row, and of its scales (R253, R256). -/
def mvRanges (j : MoverJob) : List (Nat × Nat) :=
  let d := j.desc
  let n := mvScales (mvSrc d) d
  let scales := fun r : MoverRow => (r.src - (wordAt d 1).toNat) / mvSrcPitch d
  if mvOp d = 4 then []
  else j.rows.map (fun r => (r.src, mvSrcBytes d))
    ++ (if n = 0 then [] else j.rows.map (fun r => ((wordAt d 6).toNat + scales r * n, n)))

/-- Bytes of a write that lie in a source range are undefined (R256): free values take their place. -/
def mvOpen (ranges : List (Nat × Nat)) (va : Nat) : List Byte → State → List Byte × State
  | [], s => ([], s)
  | b :: rest, s =>
    let hit := ranges.any (fun p => decide (p.1 ≤ va) && decide (va < p.1 + p.2))
    let p := if hit then (let f := takeFree s; (f.1.setWidth 8, f.2)) else (b, s)
    let r := mvOpen ranges (va + 1) rest p.2
    (p.1 :: r.1, r.2)

/-- Issue the writes that are not issued yet. -/
def mvPut (q m : Nat) (j : MoverJob) (own : Bool) : List MoverWrite → State → Out Unit
  | [], s => .ok () s
  | w :: rest, s =>
    let b := mvOpen (mvRanges j) w.va w.data s
    match writeVaBad b.2 (mvAcc q m j) w.va b.1 w.bad own with
    | .wait t => .wait { t with free := s.free }
    | .fail .poison s =>
      mvPut q m j own rest (modJob s q m (fun j => { j with put := j.put + 1, status := statusMax j.status .poison }))
    | .fail st s => .fail st s
    | .ok _ s => mvPut q m j own rest (mvCount (modJob s q m (fun j => { j with put := j.put + 1 })) q j w.data.length)

/-- Issue the flag as a picot write behind every other write (R257). -/
def mvFlag (s : State) (q m : Nat) (j : MoverJob) : Out Unit :=
  if wordAt j.desc 11 = 0 ∨ j.flagSent = true then .ok () s
  else
    let a := mvAcc q m j
    (placeVa s a (wordAt j.desc 11).toNat 8 1 true).andThen (fun p s =>
      (issuePicot s a p (leBytes 8 (wordAt j.desc 12).toNat)).andThen (fun _ s =>
        .ok () (modJob s q m (fun j => { j with flagSent := true }))))

/-- Carry the blocks that are not moved yet. -/
def mvCarry (q m : Nat) (j : MoverJob) : Nat → State → Out Unit
  | 0, s => .ok () s
  | n + 1, s =>
    match mvJob s q m with
    | none => .ok () s
    | some x => (carryStep s q m j ((mvOrder j.desc).getD x.put 0)).andThen (fun _ s =>
        mvCarry q m j n (mvCount (modJob s q m (fun j => { j with put := j.put + 1 })) q j 512))

/-- Run a descriptor as far as it goes: read and convert its rows, write them, write the flag (R253 to R259). -/
def mvRun (s : State) (q m op : Nat) : State :=
  match mvJob s q m with
  | none => s
  | some j =>
    let d := j.desc
    if mvOp d ≠ op ∨ j.finished = true ∨ quarterRuns s q = false then s
    else
      let carried := mvCarries j && !s.keeper.conf
      let blocks := if carried then mvRows d * (mvSrcBytes d / 512) else 0
      let o := (needClock s q).andThen (fun _ s =>
        let plain := carried && !fmtIsMx (mvSrc d)
        (if plain then .ok () s else mvReadRows q m carried (mvRows d - j.rows.length) s).andThen (fun _ s =>
          (mvCarry q m j (blocks - j.put) s).andThen (fun _ s =>
            if plain then .ok () s
            else
              match mvJob s q m with
              | none => .ok () s
              | some j =>
                if j.work = 1 && decide (j.status = .poison) then .fail .poison s
                else mvPut q m j (decide (j.work = 1)) ((mvWrites j).drop (j.put - blocks)) s)))
      match o.andThen (fun _ s => match engFailure s (.mover q m) with
          | some st => .fail st s
          | none => mvFlag s q m ((mvJob s q m).getD j)) with
      | .wait s => s
      | .fail st s => mvFail s q m st
      | .ok _ s => modJob s q m (fun j => { j with finished := true })

/-- COPY. -/
def copy (s : State) (q m : Nat) : State := mvRun s q m 1
/-- COPY. -/
def execCopy (q m : Nat) (s : State) : Host.Outcome State Fault Refusal := .next (copy s q m)
/-- GATHER. -/
def gather (s : State) (q m : Nat) : State := mvRun s q m 2
/-- GATHER. -/
def execGather (q m : Nat) (s : State) : Host.Outcome State Fault Refusal := .next (gather s q m)
/-- SCATTER. -/
def scatter (s : State) (q m : Nat) : State := mvRun s q m 3
/-- SCATTER. -/
def execScatter (q m : Nat) (s : State) : Host.Outcome State Fault Refusal := .next (scatter s q m)
/-- FILL. -/
def fill (s : State) (q m : Nat) : State := mvRun s q m 4
/-- FILL. -/
def execFill (q m : Nat) (s : State) : Host.Outcome State Fault Refusal := .next (fill s q m)

/-- Take a mover off its job: its translations and answers are let go. -/
def freeMover (s : State) (q m : Nat) : State :=
  let s := dropEngX (dropEng s (.mover q m)) (.mover q m)
  let s := dropAnsweredReads s .fe (4096 + mvKey q m)
  dropPicots { s with movers := tdel s.movers (mvKey q m) } (fun e => decide (e = .mover q m))

/-- MOVER_DESCRIPTOR_COMPLETE: every write of a descriptor that has ended is acknowledged; its entry completes with the
status, and the engine's time is charged (R257, R259, R433). An image load goes on with IMAGE_LOAD_DONE. -/
def moverDescriptorComplete (s : State) (q m : Nat) : State :=
  match mvJob s q m with
  | none => s
  | some j =>
    if !j.finished || engBusy s (.mover q m) then s
    else
      let st := statusMax j.status ((engFailure s (.mover q m)).getD .ok)
      let s := chargeEngine (freeMover s q m) j.ctx j.since
      if j.work = 1 then contribute (modFlight s j.queue j.entry (fun f => { f with aux := 2 })) j.queue j.entry st 0xFFFF
      else finishFlight s j.queue j.entry st
/-- MOVER_DESCRIPTOR_COMPLETE. -/
def execMoverDescriptorComplete (q m : Nat) (s : State) : Host.Outcome State Fault Refusal :=
  .next (unlessSafe s (moverDescriptorComplete s q m))

/-! ### Link guards and zeroing (R248, R249) -/

/-- A number for a link: meshes 0 to 3, bridge directions 4 to 11, hub links 12 to 15. -/
def linkIndex (k : LinkId) : Nat :=
  match k with | .mesh q => q % 4 | .bridge d => 4 + d % 8 | .hub q => 12 + q % 4

/-- LINK_CRC_ERROR: a block is re-sent and counted; after 8 failed re-sends class 5 latches and the block arrives poisoned
(R249). -/
def linkCrcError (s : State) (k : LinkId) (resends : Nat) : State :=
  let n := min 8 resends
  let s := match k with
    | .mesh q => countQ s (q % 4) 14 n
    | .bridge d => addCell s 0x600001 (16 + d % 8) 1 n
    | .hub _ => s
  if resends < 8 then s
  else
    let s := { s with mem := { s.mem with badLinks := if s.mem.badLinks.contains k then s.mem.badLinks else s.mem.badLinks ++ [k] } }
    latch s { cls := 5, access := 4, addr := none, masterKind := 15, master := 0, hoop := none, ctx := none,
              detail := wd (linkIndex k) }
/-- LINK_CRC_ERROR. -/
def execLinkCrcError (link : LinkId) (resends : Nat) (s : State) : Host.Outcome State Fault Refusal :=
  .next (linkCrcError s link resends)

/-- Is a local address the content or the check of a usable block, or held for a remapped granule? -/
def zeroable (s : State) (a : Nat) : Bool :=
  decide (a < 0xC000000000) && (decide (a % 0x1000000000 < 0xFDF800000)
    || s.darner.remaps.any (fun p => decide (p.2 ≤ a) && decide (a < p.2 + 8192)))

/-- Every usable block holds zeros with a good check. -/
def zeroHbm (s : State) : State :=
  { s with mem := { s.mem with cells := s.mem.cells.filter (fun p => !zeroable s p.1), merges := [], corruptNext := [] } }

/-- The held-back regions are zeroed too, and a mark with WIPE_PENDING clear follows (R537). -/
def endWipe (s : State) : State :=
  match latestMark s with
  | none => s
  | some m =>
    if m.wipePending then
      let s := { s with mem := { s.mem with cells := s.mem.cells.filter (fun p => decide (0xC000000000 ≤ p.1)) } }
      writeMark s { m with seq := m.seq + 1, wipePending := false }
    else s

/-- The zeros of R248 are device traffic at every bobbin (R435). -/
def scrubTraffic (s : State) : State :=
  (List.range 12).foldl (fun s b => portArrive (countB s b 1 0xFDF800000) b none 0xFDF800000) s

/-- HBM_ZERO_DONE: the controllers have written zeros with good checks to every usable block (R248), and a pending wipe ends
(R537); at power-up Jeotte is then in GATED (R603). In self-refresh the bobbins write nothing. -/
def hbmZeroDone (s : State) : State :=
  if s.mem.zeroed ∨ s.power.step < 5 ∨ s.power.backup = true ∨ s.power.sleep ≠ 0 ∨ s.snuffer.safe = true then s
  else
    let s := endWipe (scrubTraffic (zeroHbm s))
    let s := { s with mem := { s.mem with zeroed := true } }
    if s.power.step = 5 then { s with power := { s.power with step := 6, ready := true } } else s
/-- HBM_ZERO_DONE. -/
def execHbmZeroDone (s : State) : Host.Outcome State Fault Refusal := .next (hbmZeroDone s)

end Sys2Proof.Machine
end

