-- ==== Sys2Proof/Machine/Collective.lean ====
section
/-! DEFINITION. The collective engines (R347 to R352): descriptors and their checks, the steps round the ring, combining,
flags, aborts and completion; and picot writes that wait to land (R273 to R276). -/

namespace Sys2Proof.Machine

/-! ### Fields of a descriptor (R347) -/

/-- OPCODE: 1 ALL_REDUCE, 2 REDUCE_SCATTER, 3 ALL_GATHER. -/
def clOp (d : List Word) : Nat := fld (wordAt d 0) 63 56
/-- FMT_IN. -/
def clIn (d : List Word) : Fmt := fmtD (fld (wordAt d 0) 55 52)
/-- FMT_OUT. -/
def clOut (d : List Word) : Fmt := fmtD (fld (wordAt d 0) 51 48)
/-- RED: 0 SUM, 1 MAX, 2 MIN. -/
def clRed (d : List Word) : Nat := fld (wordAt d 0) 45 44
/-- N. -/
def clN (d : List Word) : Nat := fld (wordAt d 0) 35 30 + 1
/-- This member's position p. -/
def clPos (d : List Word) : Nat := fld (wordAt d 0) 29 24
/-- C = E ÷ N (R348). -/
def clC (d : List Word) : Nat := (wordAt d 1).toNat / clN d
/-- COLL_ID. -/
def clId (d : List Word) : Nat := fld (wordAt d 0) 15 0
/-- Bytes of a chunk of elements of a format. -/
def clBytes (f : Fmt) (d : List Word) : Nat := rowBytes f (clC d)

/-- CBUF (R348): 64 + C × s rounded up to 4,096, s the largest transport size. -/
def clBuf (d : List Word) (det : Bool) : Nat :=
  let c := clC d
  let most := if clOp d = 3 then clBytes (clOut d) d
    else if clRed d ≠ 0 then clBytes (clIn d) d
    else
      let sum := c * (if det then 88 else 4)
      if clOp d = 1 then max sum (clBytes (clOut d) d) else sum
  up4k (64 + most)

/-- The checks of a descriptor (R347). A vector of an INT4 format whose share for a member is odd, which splits a byte, is rejected too
(R63; DESIGN CHOICE, log 190). -/
def clOk (d : List Word) : Bool :=
  let w0 := wordAt d 0
  let op := clOp d
  let fi := fmtOfCode (fld w0 55 52)
  let fo := fmtOfCode (fld w0 51 48)
  let acc := fld w0 47 46
  let red := clRed d
  let round := fld w0 43 41
  let sat := fld w0 40 39
  let e := (wordAt d 1).toNat
  let n := clN d
  let plain := decide (op = 3) || decide (red = 1) || decide (red = 2)
  let mx := fmtIsMx (clIn d) || fmtIsMx (clOut d)
  decide (1 ≤ op ∧ op ≤ 3) && fi.isSome && fo.isSome && decide (clIn d ≠ .fp64) && decide (clOut d ≠ .fp64)
    && acc ≠ 3 && red ≠ 3 && round ≠ 4 && round ≠ 5 && round ≠ 6 && sat ≠ 3
    && (sat = 0 || clOut d = .e4m3 || clOut d = .e5m2)
    && (!plain || (decide (clIn d = clOut d) && acc = 0)) && (op ≠ 3 || red = 0)
    && decide (clPos d < n) && fld w0 23 16 = 0 && e % (if mx then 32 * n else n) = 0
    && rowCountOk (clIn d) (clC d) && rowCountOk (clOut d) (clC d)
    && (wordAt d 4).toNat % 4096 = 0
    && decide (1000 ≤ fld (wordAt d 7) 63 32) && decide (fld (wordAt d 7) 63 32 ≤ 60000000) && fld (wordAt d 7) 31 0 = 0
    && [8, 9, 10, 11, 12, 13, 14, 15].all (fun i => wordAt d i = 0)

/-! ### Jobs -/

/-- Key of collective engine `m` of quarter `q`. -/
def clKey (q m : Nat) : Nat := q * 2 + m
/-- The job of an engine. -/
def clJob (s : State) (q m : Nat) : Option CollJob := tget s.colls (clKey q m)
/-- Change the job of an engine. -/
def modColl (s : State) (q m : Nat) (f : CollJob → CollJob) : State :=
  match clJob s q m with
  | some j => { s with colls := tput s.colls (clKey q m) (f j) }
  | none => s

/-- The engine's identity in its accesses. -/
def clAcc (q m : Nat) (j : CollJob) : Acc :=
  { eng := .coll q m, hoop := j.hoop, ctx := j.ctx, aspace := j.aspace,
    flow := j.hoop * 8 + fld (wordAt j.desc 0) 38 36, row := 0 }

/-- COLLECTIVE: the admitted descriptor is checked and given to the lower-numbered idle engine of its quarter; a retired
engine is never chosen (R320, R347, R494). -/
def collective (s : State) (q e : Nat) : State :=
  match flight s q e with
  | none => s
  | some f =>
    if f.phase ≠ .admitted ∨ fld (wordAt f.words 0) 63 56 ≠ 4 then s
    else if hoopRole s (queueHoop s q) = 1 ∨ clOk f.desc = false then finishFlight s q e .format
    else
      let k := fld (wordAt f.words 0) 1 0
      let idle := (List.range 2).find? (fun m => (clJob s k m).isNone && !s.darner.deadEngines.contains (engCode (.coll k m))
        && !engineResetting s (engCode (.coll k m)))
      match idle with
      | none => s
      | some m =>
        let acc := fld (wordAt f.desc 0) 47 46
        let mode := if acc = 0 then (wordAt f.desc 16).toNat else acc
        let j : CollJob := {
          queue := q, entry := e, desc := f.desc.take 16, hoop := queueHoop s q, ctx := queueCtx s q,
          aspace := (context s (queueCtx s q)).aspace, det := decide (wordAt f.desc 17 = 1) || decide (mode = 2),
          round := (wordAt f.desc 18).toNat, sat := (wordAt f.desc 19).toNat, begun := false, next := 0, ready := false,
          load := [], badLoad := [], seen := 0, inCount := 0, freeCount := 0, freeOut := none, finished := false,
          status := .ok, stop := none, tellDown := false, tellUp := false, heard := wick s, since := wick s }
        let s := modFlight s q e (fun f => { f with phase := .running })
        { s with colls := tput s.colls (clKey k m) j }
/-- COLLECTIVE. -/
def execCollective (queue entry : Nat) (s : State) : Host.Outcome State Fault Refusal :=
  .next (collective s queue entry)

/-! ### Elements and payloads (R348, R351) -/

/-- A chunk of elements: codes, values, and whether each is poisoned. -/
structure Chunk where
  codes : List Nat
  vals : List Num
  bad : List Bool
  deriving DecidableEq, Repr

/-- Poison of each of `n` elements of `bits` bits. -/
def elemBads (bits n : Nat) (bad : List (Nat × Nat)) : List Bool :=
  (List.range n).map (fun i => meetsBad bad (bits * i / 8) ((bits * (i + 1) + 7) / 8 - bits * i / 8))

/-- Decode a chunk. The spec gives an MX vector of a collective no scale plane: its scale bytes are free values. -/
def decodeChunk (f : Fmt) (n : Nat) (bs : List Byte) (bad : List (Nat × Nat)) (s : State) : Chunk × State :=
  let codes := unpackCodes (fmtBits f) n bs
  let scales := if fmtIsMx f then freeBytes (n / 32) s else ([], s)
  ({ codes := codes, vals := decodeRow f scales.1 codes, bad := elemBads (fmtBits f) n bad }, scales.2)

/-- The poisoned runs of a packed chunk. -/
def packBad (bits : Nat) (bad : List Bool) : List (Nat × Nat) :=
  (bad.zipIdx.filter (fun p => p.1)).map (fun p => (bits * p.2 / 8, (bits * (p.2 + 1) + 7) / 8 - bits * p.2 / 8))

/-- This member's own input of chunk `c`. -/
def clInput (s : State) (a : Acc) (d : List Word) (c : Nat) : Out Chunk :=
  let f := clIn d
  let at_ := if clOp d = 3 then 0 else c * clBytes f d
  (readBad s a ((wordAt d 2).toNat + at_) (clBytes f d)).andThen (fun r s =>
    let x := decodeChunk f (clC d) r.1 r.2 s
    .ok x.1 x.2)

/-- What a member holds of a chunk while it is reduced: long accumulators, FP32 values, or exact codes. -/
inductive Part
  | long (xs : List LongAcc) (bad : List Bool)
  | fast (xs : List Num) (bad : List Bool)
  | exact (codes : List Nat) (vals : List Num) (bad : List Bool)
  deriving DecidableEq, Repr

/-- The first sender's part of a chunk: its input alone (R350, R351); and what its conversion to FP32 counts (R85). -/
def partFirst (j : CollJob) (c : Chunk) : Part × Tally :=
  if clRed j.desc ≠ 0 then (.exact c.codes c.vals c.bad, tallyZero)
  else if j.det then (.long (c.vals.map (accAdd accZero)) c.bad, tallyZero)
  else let r := mapTally (fun v => opTally .fp32 [v] v) c.vals; (.fast r.1 c.bad, r.2)

/-- Combine a received part with the own input (R94, R351); and what the additions count (R85). -/
def partAdd (j : CollJob) (p : Part) (c : Chunk) : Part × Tally :=
  match p with
  | .long xs bad => (.long (List.zipWith accAdd xs c.vals) (List.zipWith or bad c.bad), tallyZero)
  | .fast xs bad =>
    let r := List.zipWith addT xs c.vals
    (.fast (r.map (fun x => x.1)) (List.zipWith or bad c.bad), tallySum (r.map (fun x => x.2)))
  | .exact codes vals bad =>
    let pick := if clRed j.desc = 1 then fMax else fMin
    let both := (codes.zip vals).zip (c.codes.zip c.vals)
    let out := both.map (fun p =>
      let v := pick p.1.2 p.2.2
      (if numIsNan v then canonicalNan (clIn j.desc) else if v = p.1.2 then p.1.1 else p.2.1, v))
    (.exact (out.map (fun p => p.1)) (out.map (fun p => p.2)) (List.zipWith or bad c.bad), tallyZero)

/-- The bytes of parts laid end to end, with their poisoned runs. -/
def joinParts (xs : List (List Byte × Bool)) : List Byte × List (Nat × Nat) :=
  xs.foldl (fun acc x => (acc.1 ++ x.1, if x.2 then acc.2 ++ [(acc.1.length, x.1.length)] else acc.2)) ([], [])

/-- The transport form of a part (R93, R348). -/
def partSend (d : List Word) (p : Part) : List Byte × List (Nat × Nat) :=
  match p with
  | .long xs bad => joinParts ((xs.zip bad).map (fun x => ((accPack x.1).flatMap (leBytes 8), x.2)))
  | .fast xs bad => joinParts ((xs.zip bad).map (fun x => (leBytes 4 (encodeElem .fp32 x.1), x.2)))
  | .exact codes _ bad => (packCodes (fmtBits (clIn d)) codes, packBad (fmtBits (clIn d)) bad)

/-- Take `n` compressed long accumulators from words; none where one breaks R93. -/
def takeAccs : Nat → List Nat → Nat → List (Nat × Nat) → Option (List LongAcc × List Bool)
  | 0, _, _, _ => some ([], [])
  | n + 1, ws, at_, bad =>
    match ws with
    | [] => none
    | h :: rest =>
      let k := if h / 2 ^ 12 % 2 = 1 then 0 else h / 2 ^ 8 % 16 + 1 - h / 2 ^ 4 % 16
      if rest.length < k then none
      else
        match accUnpack (h :: rest.take k), takeAccs n (rest.drop k) (at_ + 8 * (k + 1)) bad with
        | some x, some (xs, bs) => some (x :: xs, meetsBad bad at_ (8 * (k + 1)) :: bs)
        | _, _ => none

/-- Read a received part; none where its bytes do not hold one. Of a DET partial that breaks R93 the spec says nothing: it counts as no part,
and the member aborts with FORMAT (DESIGN CHOICE, log 140). -/
def partRead (j : CollJob) (bs : List Byte) (bad : List (Nat × Nat)) (s : State) : Option Part × State :=
  let d := j.desc
  let n := clC d
  if clRed d ≠ 0 then
    let x := decodeChunk (clIn d) n bs bad s
    (if bs.length = clBytes (clIn d) d then some (.exact x.1.codes x.1.vals x.1.bad) else none, x.2)
  else if j.det then
    ((takeAccs n ((chunksOf 8 bs.length bs).map leNat) 0 bad).map (fun x => .long x.1 x.2), s)
  else
    let x := decodeChunk .fp32 n bs bad s
    (if bs.length = 4 * n then some (.fast x.1.vals x.1.bad) else none, x.2)

/-- Convert final values to FMT_OUT, and count what overflows. Rounding that resolves to SR has no seed in the descriptor: each element's random
number is a free value. Scale bytes of an MX output have no place and are dropped. -/
def clConvert (f : Fmt) (rnd : Rnd) (sat : Bool) (xs : List Num) (s : State) : (List Nat × Nat) × State :=
  let r := if rnd = .sr then freeBytes (2 * xs.length) s else ([], s)
  let rs (i : Nat) : Nat := leNat ((r.1.drop (2 * i)).take 2)
  let ys := xs.zipIdx.map (fun p => (p.1, rs p.2))
  if fmtIsMx f then
    (((chunks32 ys).flatMap (fun b => (encodeMxBlock f rnd b).2), ((chunks32 ys).map (mxOvers f rnd)).sum), r.2)
  else ((ys.map (fun p => encodeElem f (convert f rnd sat p.2 p.1)), (ys.filter (fun p => convOver f rnd p.2 p.1)).length), r.2)

/-- Form the final chunk of a part: its bytes in FMT_OUT, poisoned runs and status; overflows, NaNs and NUMERIC elements are
counted (R85, R91, R351). A MAX or MIN chunk is its codes; in a ring of one nothing is combined, and the codes of the input pass as they are,
a NaN's among them (DESIGN CHOICE, log 141). -/
def clFinal (s : State) (q : Nat) (j : CollJob) (p : Part) : (List Byte × List (Nat × Nat) × Status) × State :=
  let f := clOut j.desc
  let w0 := wordAt j.desc 0
  let finish (xs : List OutElem) (bad : List Bool) :=
    let c := clConvert f (roundOf j.round (fld w0 43 41) f) (satOf j.sat (fld w0 40 39)) (xs.map (fun e => e.v)) s
    ((packCodes (fmtBits f) c.1.1, packBad (fmtBits f) bad, outStatus (bad.any id) xs), countOut c.2 q f (satOf j.sat (fld w0 40 39)) c.1.2 xs)
  match p with
  | .long xs bad =>
    finish (xs.map (fun l => { v := accResult f l, ovf := 0, wrapped := accOverflowed l, nanIn := l.nanSeen })) bad
  | .fast xs bad => finish (xs.map plainElem) bad
  | .exact codes _ bad =>
    ((packCodes (fmtBits f) codes, packBad (fmtBits f) bad, if bad.any id then .poison else .ok), s)

/-! ### Steps (R350) -/

/-- IN_FLAG's count as it is taken: the steps an opcode omits count as run. -/
def effIn (d : List Word) (c : Nat) : Nat := if clOp d = 3 then max c (clN d - 1) else c
/-- FREE_FLAG's count as it is taken. -/
def effFree (d : List Word) (c : Nat) : Nat :=
  let n := clN d
  if clOp d = 3 then max c (n - 1) else if clOp d = 2 ∧ n - 1 ≤ c ∧ c < 2 * n - 2 then 2 * n - 2 else c
/-- The step after `t`. -/
def stepAfter (d : List Word) (t : Nat) : Nat :=
  let n := clN d
  if clOp d = 2 ∧ n - 1 ≤ t ∧ t < 2 * n - 1 then 2 * n - 1
  else if clOp d = 3 ∧ t < n then n
  else t + 1

/-- A member ends early with a reason; `side` is the direction the abort came from: 0 none, 1 upstream, 2 downstream. Flags of progress that
it holds are not written any more. A member that has stopped already forwards nothing (R352). -/
def collAbort (s : State) (q m : Nat) (st : Status) (side : Nat) : State :=
  match clJob s q m with
  | none => s
  | some j =>
    if j.stop.isSome then s
    else modColl (dropPicots s (fun e => decide (e = .coll q m))) q m (fun j => { j with
      stop := some st, ready := false, freeOut := none, status := statusMax j.status st,
      tellDown := decide (side ≠ 2) && decide (1 < clN j.desc), tellUp := decide (side ≠ 1) && decide (1 < clN j.desc) })

/-- A flag word (R349). -/
def flagWord (kind status id count : Nat) : Nat :=
  kind * 2 ^ 60 + status % 256 * 2 ^ 52 + id % 65536 * 2 ^ 32 + count % 2 ^ 32

/-- Write a flag as a picot write behind the engine's earlier writes (R349). -/
def clFlag (s : State) (q m : Nat) (j : CollJob) (va w : Nat) : Out Unit :=
  let a := clAcc q m j
  (placeVa s a va 8 1 true).andThen (fun p s => issuePicot s a p (leBytes 8 w))

/-- Write an ABORT flag (R352). -/
def clAbortFlag (s : State) (q m : Nat) (j : CollJob) (va : Nat) (st : Status) : Out Unit :=
  clFlag s q m j va (flagWord 2 (statusCode st) (clId j.desc) 0)

/-- Write bytes of the own output. -/
def clStore (s : State) (q m : Nat) (j : CollJob) (at_ : Nat) (bs : List Byte) (bad : List (Nat × Nat)) : Out Unit :=
  writeVaBad s (clAcc q m j) ((wordAt j.desc 3).toNat + at_) bs bad false

/-- Set the payload of the next step. -/
def setLoad (s : State) (q m t : Nat) (bs : List Byte) (bad : List (Nat × Nat)) (st : Status) : State :=
  modColl s q m (fun j => { j with next := t, ready := true, load := bs, badLoad := bad, status := statusMax j.status st })

/-- The status that poison in a chunk contributes. -/
def badStatus (bad : List (Nat × Nat)) : Status := if bad.isEmpty then .ok else .poison

/-- Finalise chunk p: write it, and make it the payload of the first all-gather step where there is one. -/
def clFinalise (s : State) (q m : Nat) (j : CollJob) (p : Part) : Out Unit :=
  let d := j.desc
  let r := clFinal s q j p
  let n := clN d
  let at_ := if clOp d = 2 then 0 else clPos d * clBytes (clOut d) d
  (clStore r.2 q m j at_ r.1.1 r.1.2.1).andThen (fun _ s =>
    let st := r.1.2.2
    .ok () (if n = 1 then modColl s q m (fun j => { j with finished := true, status := statusMax j.status st })
      else if clOp d = 2 then
        modColl s q m (fun j => { j with next := 2 * n - 1, ready := decide (clPos d = 0), load := [], badLoad := [],
                                         status := statusMax j.status st })
      else setLoad s q m n r.1.1 r.1.2.1 st))

/-- A member begins: its first reduce-scatter payload, its own chunk of an ALL_GATHER, or the whole of a ring of one. -/
def clBegin (s : State) (q m : Nat) (j : CollJob) : Out Unit :=
  let d := j.desc
  let n := clN d
  let p := clPos d
  let c := if clOp d = 3 ∨ n = 1 then p else (p + n - 1) % n
  (clInput s (clAcc q m j) d c).andThen (fun x s =>
    let go (s : State) := modColl s q m (fun j => { j with begun := true, heard := wick s })
    if clOp d = 3 then
      (clFinalise s q m j (.exact x.codes x.vals x.bad)).andThen (fun _ s => .ok () (go s))
    else if n = 1 then (clFinalise s q m j (partFirst j x).1).andThen (fun _ s => .ok () (go (countTally s q (partFirst j x).2)))
    else
      let b := partSend d (partFirst j x).1
      .ok () (go (setLoad (countTally s q (partFirst j x).2) q m 1 b.1 b.2 (badStatus b.2))))

/-- Send the ready step into the downstream buffer, then IN_FLAG (R350). -/
def clSend (s : State) (q m : Nat) (j : CollJob) : Out Unit :=
  let d := j.desc
  let a := clAcc q m j
  let t := j.next
  let down := (wordAt d 5).toNat
  let buf := down + 4096 + t % 2 * clBuf d j.det
  let head := wordBytes [wd t, wd j.load.length]
  (placeVa s a down 8 1 true).andThen (fun p s0 =>
    (writeVaBad s0 a buf head [] false).andThen (fun _ s1 =>
      (writeVaBad s1 a (buf + 64) j.load j.badLoad false).andThen (fun _ s =>
        match issuePicot s a p (leBytes 8 (flagWord 1 0 (clId d) t)) with
        | .wait _ => .wait s0
        | .fail st s => .fail st s
        | .ok _ s =>
          let last := decide (t = 2 * clN d)
          .ok () (modColl s q m (fun j => { j with ready := false, load := [], badLoad := [], finished := last,
                                                   next := if last then t else stepAfter d t })))))

/-- Read the received step's buffer. -/
def clReceived (s : State) (q m : Nat) (j : CollJob) (t : Nat) : Out (List Byte × List (Nat × Nat)) :=
  let d := j.desc
  let a := clAcc q m j
  let buf := (wordAt d 4).toNat + 4096 + t % 2 * clBuf d j.det
  (readBad s a buf 16).andThen (fun h s =>
    let n := leNat ((h.1.drop 8).take 8)
    if leNat (h.1.take 8) ≠ t ∨ clBuf d j.det < 64 + n then .fail .format s
    else readBad s a (buf + 64) n)

/-- Work through received step `t` (R350, R351). -/
def clConsume (s : State) (q m : Nat) (j : CollJob) (t : Nat) : Out Unit :=
  let d := j.desc
  let n := clN d
  let p := clPos d
  let took (s : State) := modColl s q m (fun j => { j with seen := t, freeOut := some t })
  if t = 2 * n then
    .ok () (took (if p = n - 1 then modColl s q m (fun j => { j with finished := true })
      else setLoad s q m t [] [] .ok))
  else if t = 2 * n - 1 then .ok () (took (setLoad s q m (if p = 0 then 2 * n else t) [] [] .ok))
  else
    (clReceived s q m j t).andThen (fun r s =>
      if t ≤ n - 1 then
        let w := partRead j r.1 r.2 s
        match w.1 with
        | none => .fail .format w.2
        | some x =>
          (clInput w.2 (clAcc q m j) d ((p + 2 * n - t - 1) % n)).andThen (fun own s =>
            let y := partAdd j x own
            if t = n - 1 then (clFinalise s q m j y.1).andThen (fun _ s => .ok () (took (countTally s q y.2)))
            else
              let b := partSend d y.1
              .ok () (took (setLoad (countTally s q y.2) q m (t + 1) b.1 b.2 (badStatus b.2))))
      else
        let c := (p + 2 * n - 1 - (t - n)) % n
        (clStore s q m j (c * clBytes (clOut d) d) r.1 r.2).andThen (fun _ s =>
          let st := badStatus r.2
          .ok () (took (if t < 2 * n - 2 then setLoad s q m (t + 1) r.1 r.2 st
            else if p = 0 then setLoad s q m (2 * n - 1) [] [] st
            else modColl s q m (fun j => { j with next := 2 * n - 1, status := statusMax j.status st })))))

/-- The next received step of a member. -/
def clNextIn (j : CollJob) : Nat := stepAfter j.desc j.seen

/-- Let go of an engine's job. -/
def freeColl (s : State) (q m : Nat) : State :=
  let s := dropEngX (dropEng s (.coll q m)) (.coll q m)
  dropPicots { s with colls := tdel s.colls (clKey q m) } (fun e => decide (e = .coll q m))

/-- Complete a member's entry, charging the engine's time (R350, R352, R433). -/
def clEnd (s : State) (q m : Nat) (j : CollJob) (st : Status) : State :=
  finishFlight (chargeEngine (freeColl s q m) j.ctx j.since) j.queue j.entry st

/-- What an engine does next; none when it waits. -/
def clAct (s : State) (q m : Nat) (j : CollJob) : Option (Out Unit) :=
  let d := j.desc
  let told (f : CollJob → CollJob) (o : Out Unit) : Option (Out Unit) := match o with
    | .wait s => some (.wait s)
    | .ok _ s | .fail _ s => some (.ok () (modColl s q m f))
  match j.stop with
  | some st =>
    if j.tellDown then
      told (fun j => { j with tellDown := false }) (clAbortFlag s q m j (wordAt d 5).toNat st)
    else if j.tellUp then told (fun j => { j with tellUp := false }) (clAbortFlag s q m j ((wordAt d 6).toNat + 8) st)
    else if engBusy s (.coll q m) then none
    else some (.ok () (clEnd s q m j st))
  | none =>
    if !j.begun then some (clBegin s q m j)
    else
      match j.freeOut with
      | some t =>
        some ((clFlag s q m j ((wordAt d 6).toNat + 8) (flagWord 1 0 (clId d) t)).andThen (fun _ s =>
          .ok () (modColl s q m (fun j => { j with freeOut := none }))))
      | none =>
        if j.ready then (if j.next ≤ effFree d j.freeCount + 2 then some (clSend s q m j) else none)
        else if j.finished then
          (if engBusy s (.coll q m) then none else some (.ok () (clEnd s q m j j.status)))
        else if clNextIn j ≤ effIn d j.inCount then some (clConsume s q m j (clNextIn j))
        else none

/-- Take answers to an engine's writes, in order: one that is EPOCH_STALE is issued once more, and keeps the later ones waiting while it cannot
be; another failure aborts. A member that has stopped issues only its ABORT flags again (R352). -/
def takeCollAnswers (q m : Nat) : List Remote → State → State
  | [], s => s
  | r :: rest, s =>
    let away := dropRemote s r.id
    let abort := decide (r.msg = msgPicot) && decide (leNat r.data / 2 ^ 60 = 2)
    match r.answer, clJob s q m with
    | some (.epochStale, _, _), some j =>
      if j.stop.isSome && !abort then takeCollAnswers q m rest away
      else if r.row = 0 then
        match reissue s (clAcc q m j) r with
        | .ok _ s => takeCollAnswers q m rest s
        | .wait s => s
        | .fail st _ => takeCollAnswers q m rest (collAbort away q m st 0)
      else takeCollAnswers q m rest (collAbort away q m .epochStale 0)
    | none, _ | some (.ok, _, _), _ => takeCollAnswers q m rest away
    | some (st, _, _), _ => takeCollAnswers q m rest (collAbort away q m st 0)
/-- Take the answers that have come to an engine's writes. -/
def clAnswers (s : State) (q m : Nat) : State :=
  takeCollAnswers q m (s.fab.remotes.filter (fun r => decide (r.eng = .coll q m) && decide (r.msg ≠ msgRead) && r.answer.isSome)) s

/-- Does a member wait on one of its flags: for FREE_FLAG before it sends, or for IN_FLAG before it goes on (R350, R352)? -/
def clAwaits (j : CollJob) : Bool :=
  j.begun && j.stop.isNone && j.freeOut.isNone
    && (if j.ready then !decide (j.next ≤ effFree j.desc j.freeCount + 2)
        else !j.finished && !decide (clNextIn j ≤ effIn j.desc j.inCount))

/-- Do everything an engine may do now; whatever it does starts its wait on the flags anew. -/
def pumpColl : Nat → State → Nat → Nat → State
  | 0, s, _, _ => s
  | fuel + 1, s, q, m =>
    match clJob s q m with
    | none => s
    | some j =>
      match clAct s q m j with
      | none => s
      | some (.ok _ s) => pumpColl fuel (modColl s q m (fun j => { j with heard := wick s })) q m
      | some (.wait s) => s
      | some (.fail st s) => pumpColl fuel (collAbort s q m st 0) q m
/-- Take answers, then run: at most four acts for each of 2N steps, and the end. -/
def runColl (s : State) (q m : Nat) : State :=
  if !quarterRuns s q then s
  else
    match needClock s q with
    | .ok _ s => pumpColl 1040 (clAnswers s q m) q m
    | o => o.state

/-- Run an engine whose job has an opcode. -/
def collRun (s : State) (q m op : Nat) : State :=
  match clJob s q m with
  | some j => if clOp j.desc = op then runColl s q m else s
  | none => s
/-- ALL_REDUCE. -/
def execAllReduce (q m : Nat) (s : State) : Host.Outcome State Fault Refusal := .next (collRun s q m 1)
/-- REDUCE_SCATTER. -/
def execReduceScatter (q m : Nat) (s : State) : Host.Outcome State Fault Refusal := .next (collRun s q m 2)
/-- ALL_GATHER. -/
def execAllGather (q m : Nat) (s : State) : Host.Outcome State Fault Refusal := .next (collRun s q m 3)

/-! ### Flags (R349, R350, R352) -/

/-- Read a flag of the own work area: IN_FLAG at 0, FREE_FLAG at 8. A poisoned flag, one of another collective, or one with
a reserved encoding or bit is none. -/
def clReadFlag (s : State) (q m : Nat) (j : CollJob) (off : Nat) : Out (Option Word) :=
  (readVa s (clAcc q m j) ((wordAt j.desc 4).toNat + off) 8 0).andThen (fun d s =>
    let w := wd (leNat d.bytes)
    let good := !d.poison && (fld w 63 60 = 1 || fld w 63 60 = 2) && fld w 51 48 = 0 && fld w 47 32 = clId j.desc
    .ok (if good then some w else none) s)

/-- An engine reads one of its flags and takes what it finds there. -/
def flagSeen (s : State) (q m off : Nat) (f : CollJob → Word → State → State) : State :=
  match clJob s q m with
  | none => s
  | some j =>
    if j.stop.isSome || j.finished || clN j.desc = 1 || !quarterRuns s q then s
    else
      match (needClock s q).andThen (fun _ s => clReadFlag s q m j off) with
      | .wait s => s
      | .fail st s => runColl (collAbort s q m st 0) q m
      | .ok none s => s
      | .ok (some w) s => f j w s

/-- COLLECTIVE_IN_FLAG: IN_FLAG shows steps delivered by the upstream member (R350). -/
def collInFlag (s : State) (q m : Nat) : State :=
  flagSeen s q m 0 (fun j w s =>
    if fld w 63 60 = 1 ∧ j.inCount < fld w 31 0 then
      runColl (modColl s q m (fun j => { j with inCount := fld w 31 0, heard := wick s })) q m
    else runColl s q m)
/-- COLLECTIVE_IN_FLAG. -/
def execCollectiveInFlag (q m : Nat) (s : State) : Host.Outcome State Fault Refusal := .next (collInFlag s q m)

/-- COLLECTIVE_FREE_FLAG: FREE_FLAG shows steps consumed by the downstream member (R350). -/
def collFreeFlag (s : State) (q m : Nat) : State :=
  flagSeen s q m 8 (fun j w s =>
    if fld w 63 60 = 1 ∧ j.freeCount < fld w 31 0 then
      runColl (modColl s q m (fun j => { j with freeCount := fld w 31 0, heard := wick s })) q m
    else runColl s q m)
/-- COLLECTIVE_FREE_FLAG. -/
def execCollectiveFreeFlag (q m : Nat) (s : State) : Host.Outcome State Fault Refusal := .next (collFreeFlag s q m)

/-- COLLECTIVE_ABORT_FLAG: a flag shows ABORT; the member stops and tells its other side (R352). -/
def collAbortFlag (s : State) (q m : Nat) (fromUp : Bool) : State :=
  flagSeen s q m (if fromUp then 0 else 8) (fun _ w s =>
    if fld w 63 60 = 2 then runColl (collAbort s q m (statusOf (fld w 59 52)) (if fromUp then 1 else 2)) q m else s)
/-- COLLECTIVE_ABORT_FLAG. -/
def execCollectiveAbortFlag (q m : Nat) (fromUp : Bool) (s : State) : Host.Outcome State Fault Refusal :=
  .next (collAbortFlag s q m fromUp)

/-- COLLECTIVE_TIMEOUT: neither flag has changed for TIMEOUT_US while the member waits on one (R352). -/
def collTimeout (s : State) (q m : Nat) : State :=
  match clJob s q m with
  | none => s
  | some j =>
    if clAwaits j && decide (j.heard + 1000 * fld (wordAt j.desc 7) 63 32 ≤ wick s) then
      runColl (collAbort s q m .peerLost 0) q m
    else s
/-- COLLECTIVE_TIMEOUT. -/
def execCollectiveTimeout (q m : Nat) (s : State) : Host.Outcome State Fault Refusal := .next (unlessSafe s (collTimeout s q m))

/-! ### Picot writes that land (R273 to R276) -/

/-- Send a response (R341): a READ_DATA or an ACK, with the tag, the class and the FHID of its request. To a LOST peer, or
over an eyelet that is not UP, it is discarded (R337, R338). -/
def respond (s : State) (e node msg epoch cls tag status fhid off : Nat) (poison : Bool) (data : List Byte) : State :=
  if !eyeUp s e || bit (bankRoute (curBank s) node) 62 then s
  else
    let flow := (bankOfEpoch s epoch).bind (fun b => (bankHoopOf b fhid).map (fun h => h * 8 + cls % 8))
    let bytes := msgBytes msg epoch cls poison (max 1 data.length) tag status (ownNode s) fhid 0 off data
    let s := if data.isEmpty then s else portArrive s (20 + e) flow data.length
    sendMsg s e { response := true, bytes := bytes }

/-- Take a picot write's failure to its source (R275). A ring write, or a flag of a collective, that comes back EPOCH_STALE is issued once
more (R230, R352); so is a FAIL word or an ABORT flag that an earlier write of its source stopped (log 135). -/
def picotFailed (s : State) (p : Picot) (st : Status) : State :=
  let s := failPicots s p.id st
  let again := fun (s : State) (a : Acc) =>
    let s := carryWaits s p.id s.fab.nextId
    holdPicot s a { va := 0, len := 8, place := p.place, entry := p.entry, page := p.page } p.data
  match p.eng with
  | .core l _ => endStrand s l st
  | .mover q m => modJob s q m (fun j => { j with status := statusMax j.status st })
  | .cse n =>
    if p.failed.isSome ∧ (slot s n).state ≠ 1 then again s { slotAcc n (slot s n) with row := p.row }
    else ringFailed s n st (decide (p.row = 0)) (fun s => .ok () (again s { slotAcc n (slot s n) with row := 1 }))
  | .coll q m =>
    match clJob s q m with
    | none => s
    | some j =>
      if p.failed.isSome ∧ j.stop.isSome then again s { clAcc q m j with row := p.row }
      else if st = .epochStale ∧ p.row = 0 then again s { clAcc q m j with row := 1 }
      else runColl (collAbort s q m st 0) q m
  | _ => s

/-- Land a picot write whose earlier writes have: at a peer it goes out as a PICOT message, a mailbox page takes the word as a ring
message (R214), other memory the bytes. A lantern or a PLL that stands still is started first (R53, R58); the data crosses what lies
between (R36), from the quarter of its engine or of the eyelet it came over. -/
def landPicot (s : State) (p : Picot) : Out Unit :=
  let who : Who := { eng := p.eng, hoop := some p.hoop, ctx := if p.sender.isNone then some p.ctx else none,
                     flow := some (p.hoop * 8 + p.cls) }
  let x := match p.sender with | some (_, _, e) => some (e / 2) | none => engQuarter p.eng
  match p.place with
  | .peer n a => sendAs s p.id who p.hoop p.aspace p.entry msgPicot n a 8 p.row 0 { bytes := p.data, poison := p.poison }
  | .loc a =>
    match region s a with
    | some .host0 | some .host1 =>
      let d := onWay s x none { bytes := p.data, poison := p.poison }
      .ok () (if hostUp s a then countPage (writeHost (crossTo s who x none 8) who a d.bytes d.poison) p.page 8 else s)
    | r =>
      (localOpen s who a 8 true (ownWindow s p.eng a)).andThen (fun _ s =>
        let y := some (addrQuarter a)
        let d := onWay s x y { bytes := p.data, poison := p.poison }
        let s := crossTo s who x y 8
        let n := (a - 0xC400000000) / 0x1000 * 64 + a % 0x1000 / 8
        .ok () (if r ≠ some .mailbox then writeRun s who a d.bytes d.poison
          else if a % 8 = 0 ∧ a % 0x1000 < 512 then
            { s with mem := { s.mem with mail := s.mem.mail ++ [(n, wd (leNat d.bytes), d.poison)] } }
          else countQ s (addrQuarter a) 9 1))

/-- Does a WRITE of a node and FHID that arrived before a picot write still wait here (R274)? -/
def earlierWrite (s : State) (node fhid num : Nat) : Bool :=
  s.fab.eyes.any (fun y => y.rxMsgs.any (fun m =>
    let w0 := wd (leNat (m.bytes.take 8))
    decide (m.num < num) && fld w0 63 60 = msgWrite && fld w0 23 16 = node && fld w0 15 0 = fhid))

/-- Are the writes that a picot write is ordered behind over, or has one of them failed (R274, R275)? A slot or a collective engine whose
earlier write is to be issued once more issues that first (R230, R352). -/
def picotDue (s : State) (p : Picot) : Bool :=
  match p.sender, p.failed with
  | some (node, fhid, _), _ => !earlierWrite s node fhid p.id
  | none, some _ => (writeFailure s (fun e => decide (e = p.eng)) p.hoop).isNone || (match p.eng with | .cse _ | .coll _ _ => false | _ => true)
  | none, none => !((outstanding s).any (fun r => p.after.contains r.id))
    && !(s.fab.picots.any (fun q => q.sender.isNone && p.after.contains q.id)) && !remapHeld s (sourceOf p.eng)

/-- A picot write is over with a status: a peer gets its ACK, a source here goes on or takes the failure (R274, R275). -/
def picotDone (s : State) (p : Picot) (st : Status) : State :=
  let s := { s with fab := { s.fab with picots := dropFirst (fun x => x == p) s.fab.picots } }
  match p.sender with
  | some (node, fhid, e) => epochCheck (respond s e node 9 p.epoch p.cls p.tag (statusCode st) fhid 0 false [])
  | none =>
    match st, p.eng, p.place with
    | .ok, .coll q m, .loc _ => runColl s q m
    | .ok, .cse n, .loc _ => runSlot s n
    | .ok, _, _ => s
    | st, _, _ => picotFailed s p st

/-- The first of the picot writes in hand that need not wait lands, or fails. -/
def landFirst (s : State) : List Picot → State
  | [] => s
  | p :: rest =>
    match p.failed with
    | some st => picotDone s p st
    | none =>
      match landPicot s p with
      | .ok _ s => picotDone s p .ok
      | .fail st s => picotDone s p st
      | .wait s => landFirst s rest

/-- PICOT_WRITE_LAND: the first held picot write whose source's earlier writes have landed, and whose place is ready, is written, or
fails because one of those could not land (R274, R275). -/
def picotWriteLand (s : State) : State := landFirst s (s.fab.picots.filter (picotDue s))
/-- PICOT_WRITE_LAND. -/
def execPicotWriteLand (s : State) : Host.Outcome State Fault Refusal := .next (unlessSafe s (picotWriteLand s))

end Sys2Proof.Machine
end

