-- ==== Sys2Proof/Machine/Floss.lean ====
section
/-! DEFINITION. Floss classes and bandwidth regulation (R435 to R450): guarantees, ratings, admission, the choice of the
next request at a port, and the end of a window. -/

namespace Sys2Proof.Machine

/-! ### Guarantees and ratings (R438 to R440) -/

/-- Flow number of device traffic. -/
def deviceFlow : Nat := 512

/-- Word `w` of a class's floss row, from a hoop's table in force. -/
def flossWord (t : Table Word) (cls w : Nat) : Word := (tget t (cls * 2 + w)).getD 0

/-- The two ends of a bridge port. -/
def bridgeEnds (p : Nat) : Nat × Nat := ((p - 12) / 2, ((p - 12) / 2 + 1) % 4)

/-- A flow's guarantee on a port in MB/s, for a descriptor, floss rows and the host ports whose functions front the hoop (R439). -/
def guarantee (d : List Word) (t : Table Word) (fronts : Nat → Bool) (p cls : Nat) : Nat :=
  let w0 := flossWord t cls 0
  let w1 := flossWord t cls 1
  if p < 12 then
    let u := popCount (wordAt d (5 + p / 2)) (32 * (p % 2) + 31) (32 * (p % 2))
    fld w0 63 54 * u * 72000 / 1000
  else if p < 20 then
    let e := bridgeEnds p
    if bit (wordAt d 0) (50 + e.1) || bit (wordAt d 0) (50 + e.2) then fld w1 63 40 else 0
  else if p < 28 then
    let k := p - 20
    fld w0 53 44 * popCount (wordAt d 11) (8 * k + 7) (8 * k) * 50000 / 1000
  else if fronts ((p - 28) / 2) then fld w1 39 16 else 0

/-- The sum of a hoop's guarantees on a port. -/
def guaranteeSum (d : List Word) (t : Table Word) (fronts : Nat → Bool) (p : Nat) : Nat :=
  ((List.range 8).map (guarantee d t fronts p)).foldl (· + ·) 0

/-- HBM4 channels of a bobbin that are retired (R572). -/
def retiredChannels (s : State) (b : Nat) : Nat := popCount (cell s 0xA00007 b 0) 31 0

/-- Usable rate of a host port in MB/s (R355): speed code 1, 2 or 3 of MAX_SPEED, by width. -/
def hostRate (s : State) (i : Nat) : Nat :=
  let x := port s i
  if !x.trained then 0
  else (match x.speed with | 3 => 113000 | 2 => 59000 | _ => 29000) * x.width / 16

/-- A port's current rating in MB/s (R440). An eyelet that retrains is not DOWN and keeps its rating; one that has agreed on no version, in its
first training or in HELLO_FAIL, has none (DEDUCED, log 162). -/
def rating (s : State) (p : Nat) : Nat :=
  if p < 12 then
    let c := retiredChannels s p
    let r := if 3 ≤ c then 0 else 2304000 * (32 - c) / 32
    if s.power.hotStack.getD p false then r / 2 else r
  else if p < 20 then 5760000
  else if p < 28 then
    let y := eyelet s (p - 20)
    let r := if y.version = 1 then 200000 else if s.keeper.conf then 373300 else 400000
    match y.state with
    | 1 => if !y.retrain then 0 else if y.activeLanes = 4 then r / 2 else r
    | 2 => r
    | 3 => r / 2
    | _ => 0
  else hostRate s ((p - 28) / 2)

/-- The sum S of the guarantees in force on a port (R447). -/
def portSum (s : State) (p : Nat) : Nat :=
  (s.hoops.map (fun h => if hoopLive s h.1 then guaranteeSum h.2.desc h.2.floss (hoopAtPort s h.1) p else 0)).foldl (· + ·) 0

/-! ### Throttle reasons (R479) -/

/-- The operating point below which OP_CEILING holds a quarter: the value in force since the last 10 µs step (R468, R485). -/
def opCeiling (s : State) (q : Nat) : Nat := s.power.ceiling.getD q 0
/-- The active throttle reasons of a quarter, bit n for code n (R479). -/
def throttleBits (s : State) (q : Nat) : Nat :=
  let p := s.power
  let hot := ((List.range 3).any (fun i => p.hot95.getD (3 * q + i) false))
  b1 (decide (opCeiling s q < p.capOp.getD q 0)) + 2 * b1 (p.slow.getD q false || p.slowMem.getD q false || p.held.getD q false) + 4 * b1 (p.wait.getD q false)
    + 8 * b1 (decide (opCeiling s q < p.thermOp.getD q 0) || hot) + 16 * b1 p.backup + 32 * b1 p.capGutter
    + 64 * b1 (decide (s.keeper.step ≠ 0) && decide (opCeiling s q < regN s 0x220003 0))
    + 128 * b1 (decide (p.thermG.getD q 64 < 64))
/-- Each reason's time up to now: it runs while the reason is active in any quarter. -/
def throttleNs (s : State) (n : Nat) : Nat :=
  s.power.thrNs.getD n 0 + (if (List.range 4).any (fun q => throttleBits s q / 2 ^ n % 2 = 1) then wick s - s.power.thrAt else 0)
/-- Count the throttle reasons' time up to now. -/
def tickThrottle (s : State) : State :=
  { s with power := { s.power with thrNs := (List.range 8).map (throttleNs s), thrAt := wick s } }

/-! ### Admission (R441, R442) -/

/-- The floss rows of a hoop as written. -/
def flossRows (s : State) (h : Nat) : Table Word :=
  (List.range 16).map (fun i => (i, cell s 0x400001 (8 * h + i / 2) (i % 2)))
/-- HOUSE_CLASS of a hoop as written. -/
def houseRow (s : State) (h : Nat) : Word := cell s 0x400002 h 0

/-- Do floss rows obey the ranges of R438 and the sums of R441? -/
def flossRowsOk (t : Table Word) : Bool :=
  let w (c hi lo : Nat) := fld (flossWord t c 0) hi lo
  let sum (hi lo : Nat) := ((List.range 8).map (fun c => w c hi lo)).foldl (· + ·) 0
  (List.range 8).all (fun c => decide (w c 63 54 ≤ 1000) && decide (w c 53 44 ≤ 1000)
    && (w c 31 0 = 0 || (decide (100 ≤ w c 31 0) && decide (w c 31 0 ≤ 1000000))))
  && decide (sum 63 54 ≤ 1000) && decide (sum 53 44 ≤ 1000)

/-- Are a hoop's guarantees admitted with a descriptor, beside those of the other live hoops (R441)? -/
def flossAdmits (s : State) (h : Nat) (d : List Word) : Bool :=
  let t := flossRows s h
  let others := s.hoops.filter (fun o => decide (o.1 ≠ h) && hoopLive s o.1)
  flossRowsOk t && (List.range 32).all (fun p =>
    let rest := (others.map (fun o => guaranteeSum o.2.desc o.2.floss (hoopAtPort s o.1) p)).foldl (· + ·) 0
    decide (rest + guaranteeSum d t (hoopAtPort s h) p ≤ rating s p))

/-! ### Arbitration (R443 to R445) -/

/-- f of a port as PORT_STATE shows it; before the first window end it is 65,536. -/
def portScale (s : State) (p : Nat) : Nat :=
  let w := cell s 0x400003 p 0
  if w = 0 then 65536 else fld w 16 0

/-- Bytes that a port served to a flow in the last eight windows: the present window is not among them. -/
def servedEight (s : State) (p flow : Nat) : Nat :=
  (((tget s.floss.served (p * 1024 + flow)).getD []).drop 1).foldl (· + ·) 0

/-- The flow's guarantee in force on a port (R439). -/
def flowGuarantee (s : State) (p flow : Nat) : Nat :=
  let h := flow / 8
  if hoopLive s h then guarantee (hoop s h).desc (hoop s h).floss (hoopAtPort s h) p (flow % 8) else 0
/-- The same as scaled (R447). -/
def scaledGuarantee (s : State) (p flow : Nat) : Nat := flowGuarantee s p flow * portScale s p / 65536

/-- Is a flow within budget (R443)? -/
def withinBudget (s : State) (p flow : Nat) : Bool :=
  decide (flowGuarantee s p flow ≠ 0) && decide (servedEight s p flow ≤ 8 * scaledGuarantee s p flow)

/-- Cap of device traffic on a port in MB/s (R444). -/
def deviceCap (p : Nat) : Nat := if p < 12 then 153600 else if p < 20 then 240000 else 0

/-- LAT_TARGET_NS of a flow. -/
def latTarget (s : State) (flow : Nat) : Nat := fld (flossWord (hoop s (flow / 8)).floss (flow % 8) 0) 31 0

/-- Number of a request's flow. -/
def reqFlow (r : PortReq) : Nat := r.flow.getD deviceFlow

/-- Priority of a waiting request (R444). -/
def priority (s : State) (r : PortReq) : Nat :=
  let p := r.port
  let f := reqFlow r
  let starve := 1000 * regN s 0x400006 0
  let first := (s.floss.waiting.filter (fun x => x.port = p && x.flow == r.flow)).foldl (fun a x => min a x.arrived) r.arrived
  let a := wick s - first
  let base := fld (flossWord (hoop s (f / 8)).floss (f % 8) 0) 43 41
  let l := latTarget s f
  if starve < wick s - r.arrived then 17
  else
    match r.flow with
    | none => if servedEight s p deviceFlow ≤ 8 * deviceCap p then 16 else 0
    | some _ =>
      if withinBudget s p f then
        if l ≠ 0 ∧ 3 * l ≤ 4 * a then min 15 (base + 8)
        else if l ≠ 0 ∧ l ≤ 2 * a then min 15 (base + 4)
        else base
      else 0

/-- Is request `a` served before `b`: higher priority, longer wait, lower hoop, lower class; device traffic last (R445)? -/
def servedFirst (s : State) (a b : PortReq) : Bool :=
  let pa := priority s a
  let pb := priority s b
  decide (pb < pa) || (decide (pa = pb) && (decide (a.arrived < b.arrived)
    || (decide (a.arrived = b.arrived) && decide (reqFlow a < reqFlow b))))

/-- The request that a port serves next: among equals the one that came first in its list. -/
def nextServed (s : State) (p : Nat) : Option PortReq :=
  (s.floss.waiting.filter (fun r => r.port = p)).foldl (fun best r => match best with
    | none => some r
    | some b => if servedFirst s r b then some r else some b) none

/-- Count a request's service in FLOSS_COUNTERS (R450). -/
def countServed (s : State) (r : PortReq) : State :=
  match r.flow with
  | none => s
  | some f =>
    let row := r.port * 512 + f
    let wait := wick s - r.arrived
    let l := latTarget s f
    let late := decide (l ≠ 0) && decide (l < wait)
    let s := addCell (addCell (addCell s 0x400005 row 0 r.bytes) 0x400005 row 1 1) 0x400005 row 2 wait
    if late then
      let w := cell s 0x400005 row 3
      setCell s 0x400005 row 3 (setFld w 31 0 (min (2 ^ 32 - 1) (fld w 31 0 + 1)))
    else s

/-- PORT_SERVE: the port serves one waiting request, counting its bytes (R443 to R446, R563); a bobbin's port starts none while its quarter's VHBM
has reached a limit (R470). -/
def portServe (s : State) (p : Nat) : State :=
  if p < 12 ∧ s.power.slowMem.getD (p / 3) false = true then s
  else
  match nextServed s p with
  | none => s
  | some r =>
    let k := p * 1024 + reqFlow r
    let h := (tget s.floss.served k).getD []
    let h' := (h.headD 0 + r.bytes) :: h.drop 1
    let s := { s with floss := { waiting := dropFirst (fun x => x == r) s.floss.waiting, served := tput s.floss.served k h' } }
    let s := { s with tele := { s.tele with bytes := tput s.tele.bytes p ((tget s.tele.bytes p).getD 0 + r.bytes) } }
    countServed s r
/-- PORT_SERVE. -/
def execPortServe (port : Nat) (s : State) : Host.Outcome State Fault Refusal := .next (portServe s port)

/-! ### The end of a window (R443, R447, R448) -/

/-- Show a port's rating, sum and scale; a scale that falls from 65,536 is a shortfall (R447, R448). -/
def portWindow (s : State) (p : Nat) : State :=
  let r := rating s p
  let sum := portSum s p
  let f := if r < sum then 65536 * r / sum else 65536
  let s := if f < 65536 ∧ portScale s p = 65536 then bump s 0x400004 p else s
  setReg s 0x400003 p (r % 2 ^ 23 * 2 ^ 41 + sum % 2 ^ 24 * 2 ^ 17 + f)

/-- Count a microsecond over budget for a flow that is over (R450). -/
def countOver (s : State) (k : Nat) : State :=
  let p := k / 1024
  let f := k % 1024
  if f = deviceFlow ∨ withinBudget s p f = true then s
  else
    let row := p * 512 + f
    let w := cell s 0x400005 row 3
    setCell s 0x400005 row 3 (setFld w 63 32 (min (2 ^ 32 - 1) (fld w 63 32 + 1)))

/-- The flows whose budget is taken at a window's end, port by port: those of the live hoops, and any other that was served. -/
def budgetFlows (s : State) : List Nat :=
  let live := s.hoops.filter (fun h => hoopLive s h.1)
  (List.range 32).flatMap (fun p => live.flatMap (fun h => (List.range 8).map (fun c => p * 1024 + h.1 * 8 + c)))
    ++ (s.floss.served.map (fun x => x.1)).filter (fun k => k % 1024 = deviceFlow || !hoopLive s (k % 1024 / 8))

/-- FLOSS_WINDOW_END: each port's byte counts move on by one window, its guarantees are scaled, and a written STARVE_US
comes into force (R443, R447 to R450). -/
def flossWindowEnd (s : State) : State :=
  let s := takeStaged s [0x400006]
  let moved := s.floss.served.map (fun x => (x.1, 0 :: x.2.take 8))
  let moved := moved.filter (fun x => x.2.any (fun n => decide (n ≠ 0)))
  let s := { s with floss := { s.floss with served := moved } }
  let s := (List.range 32).foldl portWindow s
  (budgetFlows s).foldl countOver s
/-- FLOSS_WINDOW_END. -/
def execFlossWindowEnd (s : State) : Host.Outcome State Fault Refusal := .next (unlessSafe s (flossWindowEnd s))

end Sys2Proof.Machine
end

