-- ==== Sys2Proof/Machine/Eyelet.lean ====
section
/-! DEFINITION. Eyelets (R336 to R346): what a flit brings, the messages of peers and their answers (R332, R341), lost peers
and links that go down, bring-up, retraining and the spare lane. -/

namespace Sys2Proof.Machine

/-! ### Answers to this node's requests -/

/-- A request of this node is answered. A core's write is done with: its failure ends the strand. A signal that the front
end forwarded is done with: a status other than OK is counted (R411). A collective engine or a sequence slot goes on at once; other
engines take their answers when they next run. -/
def answerRemote (s : State) (r : Remote) (st : Status) (bs : List Byte) (poison : Bool) : State :=
  let set := fun x : Remote => if x.id = r.id then { x with answer := some (st, bs, poison) } else x
  let s := { s with fab := { s.fab with remotes := s.fab.remotes.map set } }
  let s := if st = .ok ∨ r.msg = msgRead then s else failPicots s r.id st
  let s := match r.eng with
    | .core l _ =>
      if r.msg = msgWrite ∨ r.msg = msgPicot then
        let s := dropRemote s r.id
        if st = .ok then s else if r.row = trapRow then trapDropped s l else endStrand s l st
      else s
    | .fe | .host _ =>
      if r.msg = msgRead then s
      else
        let s := dropRemote s r.id
        if r.msg = msgFence ∧ st ≠ .ok then countHub s 6 1 else s
    | .coll q m => runColl s q m
    | .cse n => runSlot s n
    | _ => s
  epochCheck s

/-- Complete outstanding requests with a status; read data is poisoned zeros (R245, R337). -/
def completeRemotes (s : State) (p : Remote → Bool) (st : Status) : State :=
  ((outstanding s).filter p).foldl (fun s r =>
    answerRemote s r st (if r.msg = msgRead then List.replicate r.len 0 else []) (decide (r.msg = msgRead))) s

/-! ### Lost peers (R336, R337) -/

/-- Set LOST in the route rows of a node in every live bank. -/
def setLost (s : State) (n : Nat) : State :=
  let mark := fun b : Bank => if b.state = .empty then b
    else { b with routes := tput b.routes n (setFld (bankRoute b n) 62 62 1) }
  let rows := s.fab.lostRows.filter (fun p => decide (p.2 ≠ n)) ++ [(0, n), (1, n)]
  { s with fab := { s.fab with banks := s.fab.banks.map mark, lostRows := rows } }

/-- Is a node LOST in the CURRENT bank? -/
def isLost (s : State) (n : Nat) : Bool := bit (bankRoute (curBank s) n) 62

/-- Mark a peer LOST: its requests complete with PEER_LOST and class 12 latches (R337). -/
def markLost (s : State) (n : Nat) : State :=
  if isLost s n then completeRemotes s (fun r => decide (r.node = n)) .peerLost
  else
    let eyes := (List.range 8).filter (fun k => bit (bankRoute (curBank s) n) (54 + k))
    let s := completeRemotes (setLost s n) (fun r => decide (r.node = n)) .peerLost
    latch s { cls := 12, access := 4, addr := none, masterKind := if eyes.isEmpty then 15 else 2, master := eyes.headD 0,
              hoop := none, ctx := none, detail := wd n }

/-- REMOTE_TIMEOUT: a request to a node has gone unanswered for REMOTE_TIMEOUT_US (R336). -/
def remoteTimeout (s : State) (n : Nat) : State :=
  if (outstanding s).any (fun r => decide (r.node = n) && decide (r.sent + r.limit ≤ wick s)) then markLost s n else s
/-- REMOTE_TIMEOUT. -/
def execRemoteTimeout (node : Nat) (s : State) : Host.Outcome State Fault Refusal := .next (unlessSafe s (remoteTimeout s node))

/-- MARK_LOST: the manager names a lost node (R336). -/
def execMarkLost (who : Req) (v : Word) (s : State) : Host.Outcome State Fault Refusal :=
  .next (gateWrite s who 0x310007 false (fun s => if isManager who then result (markLost s (fld v 7 0)) 0 else result s 4))

/-- Is an eyelet UP, or retraining to be UP again (R343)? -/
def eyeHolds (s : State) (e : Nat) : Bool :=
  let y := eyelet s e
  eyeUp s e || (decide (y.state = 1) && y.retrain)
/-- Has a route row lost its peer: it is VALID, not yet LOST, and none of the EYELETS it names is UP (R336)? One that retrains does not
count as lost until the retrain has failed (DEDUCED, log 161). -/
def rowLost (s : State) (row : Word) : Bool :=
  let eyes := (List.range 8).filter (fun k => bit row (54 + k))
  bit row 63 && !bit row 62 && !eyes.isEmpty && !eyes.any (eyeHolds s)

/-- An eyelet goes DOWN: its unanswered requests complete with PEER_LOST, and peers that no eyelet reaches any more are
LOST (R336, R338). What was received whole is still served, without an answer. -/
def eyeDown (s : State) (e : Nat) : State :=
  let y := eyelet s e
  if y.state = 0 then s
  else
    let s := modEyelet s e (fun y => { Eyelet.down with rxMsgs := y.rxMsgs, out := y.out })
    let s := completeRemotes s (fun r => decide (r.eye = e)) .peerLost
    let gone := fun n : Nat =>
      let row := bankRoute (curBank s) n
      bit row (54 + e) && rowLost s row
    ((List.range 256).filter gone).foldl markLost s

/-! ### Messages (R332, R341) -/

/-- A message as received. -/
structure Msg where
  msg : Nat
  epoch : Nat
  cls : Nat
  poison : Bool
  len : Nat
  tag : Nat
  status : Nat
  src : Nat
  fhid : Nat
  addr : Nat
  w1 : Word
  data : List Byte
  deriving DecidableEq, Repr

/-- The unanswered request that a response names. -/
def respondedTo (s : State) (e tag : Nat) (read : Bool) : Option Remote :=
  (outstanding s).find? (fun r => decide (r.eye = e) && decide (r.tag = tag) && decide (r.msg = msgRead) == read)

/-- Where the data of a message begins in its first data unit, and how many bytes it has. -/
def msgData (s : State) (e : Nat) (w0 w1 : Word) : Nat × Nat :=
  let len := fld w0 52 44 + 1
  match fld w0 63 60 with
  | 2 => (fld w1 3 0, len)
  | 3 => (fld w1 3 0, 8)
  | 4 => (0, 8)
  | 8 => (((respondedTo s e (fld w0 43 32) true).map (fun r => r.addr % 16)).getD 0, len)
  | _ => (0, 0)

/-- Bytes of the message whose header begins a byte string. -/
def msgSize (s : State) (e : Nat) (bs : List Byte) : Nat :=
  let d := msgData s e (wd (leNat (bs.take 8))) (wd (leNat ((bs.drop 8).take 8)))
  16 + (if d.2 = 0 then 0 else (d.1 + d.2 + 15) / 16 * 16)

/-- Read a message's fields and data. -/
def parseMsg (s : State) (e : Nat) (bs : List Byte) : Msg :=
  let w0 := wd (leNat (bs.take 8))
  let w1 := wd (leNat ((bs.drop 8).take 8))
  let d := msgData s e w0 w1
  { msg := fld w0 63 60, epoch := fld w0 59 57, cls := fld w0 56 54, poison := bit w0 53, len := fld w0 52 44 + 1,
    tag := fld w0 43 32, status := fld w0 31 24, src := fld w0 23 16, fhid := fld w0 15 0, addr := fld w1 51 0, w1 := w1,
    data := (bs.drop (16 + d.1)).take d.2 }

/-- Is a message code defined, and are the reserved fields zero (R341)? -/
def msgOk (m : Msg) : Bool := [1, 2, 3, 4, 8, 9].contains m.msg && fld m.w1 63 52 = 0
/-- Is a message a response? -/
def isResponse (m : Msg) : Bool := m.msg = 8 || m.msg = 9

/-- Return the credit of a received message. -/
def giveCredit (s : State) (e : Nat) (response : Bool) : State :=
  modEyelet s e (fun y => if response then { y with rspReturn := y.rspReturn + 1 } else { y with reqReturn := y.reqReturn + 1 })

/-- A whole message has arrived: it waits to be served, or is answered with FORMAT and counted (R341). -/
def arriveMsg (s : State) (e key : Nat) (bs : List Byte) : State :=
  let m := parseMsg s e bs
  if msgOk m then
    let s := modEyelet s e (fun y => { y with rxMsgs := y.rxMsgs ++ [{ num := s.fab.nextId, key := key, bytes := bs }] })
    { s with fab := { s.fab with nextId := s.fab.nextId + 1 } }
  else
    let s := giveCredit (countE s e 9 1) e (isResponse m)
    if isResponse m then
      match respondedTo s e m.tag (decide (m.msg = 8)) with
      | some r => answerRemote s r .format (List.replicate (if m.msg = 8 then r.len else 0) 0) (decide (m.msg = 8))
      | none => s
    else if m.msg = 1 then
      respond s e m.src 8 m.epoch m.cls m.tag (statusCode .format) m.fhid (m.addr % 16) true (List.replicate m.len 0)
    else respond s e m.src 9 m.epoch m.cls m.tag (statusCode .format) m.fhid 0 false []

/-- Take whole messages from the bytes received; a header of zeros is the padding of a flit (log 20). -/
def takeMsgs (e key : Nat) : Nat → State → State
  | 0, s => s
  | n + 1, s =>
    let bs := (eyelet s e).rxBytes
    if bs.length < 16 then s
    else if (bs.take 16).all (fun b => decide (b = 0)) then modEyelet s e (fun y => { y with rxBytes := [] })
    else
      let k := msgSize s e bs
      if bs.length < k then s
      else
        let s := modEyelet s e (fun y => { y with rxBytes := bs.drop k })
        takeMsgs e key n (arriveMsg s e key (bs.take k))

/-- The first waiting request or response of an eyelet, when it is of the given code. -/
def headMsg (s : State) (e code : Nat) : Option (RxMsg × Msg) :=
  let all := (eyelet s e).rxMsgs.map (fun m => (m, parseMsg s e m.bytes))
  match all.find? (fun m => isResponse m.2 == decide (8 ≤ code)) with
  | some m => if m.2.msg = code then some m else none
  | none => none

/-- A message has been served. -/
def serveDone (s : State) (e : Nat) (rx : RxMsg) (response : Bool) : State :=
  let s := modEyelet s e (fun y => { y with rxMsgs := dropFirst (fun m => m == rx) y.rxMsgs })
  epochCheck (giveCredit s e response)

/-- May a hoop's memory be reached at a local address by a peer (R332)? -/
def peerReaches (s : State) (h a n : Nat) : Bool :=
  let last := a + n - 1
  match region s a, region s last with
  | some .hbm, some .hbm => hoopBindsAddr s h a && hoopBindsAddr s h last && !inSwap s h a n
  | some .store, some .store => hoopQmask s h (addrQuarter a) && hoopQmask s h (addrQuarter last)
  | some .mailbox, some .mailbox => hoopQmask s h (addrQuarter a) && hoopQmask s h (addrQuarter last)
  | some .scratch, some .scratch => lanternHoop s ((a - 0xC800000000) / 0x200000) == some h
      && lanternHoop s ((last - 0xC800000000) / 0x200000) == some h
  | _, _ => false

/-- The hoop a request acts for, or the status of the first check that fails (R332). -/
def requestHoop (s : State) (m : Msg) : Except Status (Bank × Nat) :=
  match bankOfEpoch s m.epoch with
  | none => .error .epochStale
  | some b =>
    match bankHoopOf b m.fhid with
    | none => .error .epochStale
    | some h => if (bankPeers b h).contains m.src then .ok (b, h) else .error .rights

/-- The checks of a memory request (R332, R510): its hoop and local address. -/
def memoryRequest (s : State) (m : Msg) (n : Nat) : Except Status (Nat × Nat) :=
  match requestHoop s m with
  | .error st => .error st
  | .ok (_, h) =>
    let a := m.addr % 2 ^ 44
    if m.addr / 2 ^ 44 ≠ ownNode s || !peerReaches s h a n then .error .rights
    else if hoopResetting s h then .error .resetAbort
    else .ok (h, a)

/-- On whose behalf a peer's request is served (R436). -/
def peerWho (s : State) (h key : Nat) (m : Msg) : Who :=
  { eng := .fe, hoop := some h, ctx := none, flow := some (h * 8 + m.cls), key := if s.keeper.conf then some key else none }

/-- Must a received message wait behind a picot write that came before it, of the same node and hoop, to a row it touches (R261, R262)?
Such a row's accesses of one engine all come over one eyelet (R331). -/
def behindPicot (s : State) (rx : RxMsg) (m : Msg) (a n : Nat) : Bool :=
  s.fab.picots.any (fun p => (match p.sender with
    | some (node, fhid, _) => decide (node = m.src) && decide (fhid = m.fhid)
    | none => false) && decide (p.id < rx.num) && picotMeets p (.loc a) n)

/-- ELP_READ: the eyelet's first request is a READ; it is answered with its data (R332, R341, R245). -/
def elpRead (s : State) (e : Nat) : State :=
  match headMsg s e 1 with
  | none => s
  | some (rx, m) =>
    let answer (s : State) (st : Status) (poison : Bool) (d : List Byte) :=
      respond (serveDone s e rx false) e m.src 8 m.epoch m.cls m.tag (statusCode st) m.fhid (m.addr % 16) poison d
    match memoryRequest s m m.len with
    | .error st => answer s st true (List.replicate m.len 0)
    | .ok (h, a) =>
      let who := peerWho s h rx.key m
      if behindPicot s rx m a m.len then s
      else match localReady s who a m.len false false with
      | .wait s => s
      | .fail st s => answer s st true (List.replicate m.len 0)
      | .ok _ s =>
        let r := readRun s who a m.len 0
        let d := onWay r.2 (some (addrQuarter a)) (some (e / 2)) r.1
        answer (crossTo r.2 who (some (addrQuarter a)) (some (e / 2)) m.len) .ok d.poison d.bytes
/-- ELP_READ. -/
def execElpRead (eye : Nat) (s : State) : Host.Outcome State Fault Refusal := .next (elpRead s eye)

/-- ELP_WRITE: the eyelet's first request is a WRITE; it lands and is acknowledged (R239, R332, R341). -/
def elpWrite (s : State) (e : Nat) : State :=
  match headMsg s e 2 with
  | none => s
  | some (rx, m) =>
    let answer (s : State) (st : Status) :=
      respond (serveDone s e rx false) e m.src 9 m.epoch m.cls m.tag (statusCode st) m.fhid 0 false []
    match memoryRequest s m m.data.length with
    | .error st => answer s st
    | .ok (h, a) =>
      let who := peerWho s h rx.key m
      if behindPicot s rx m a m.data.length then s
      else match localReady s who a m.data.length true false with
      | .wait s => s
      | .fail st s => answer s st
      | .ok _ s =>
        let d := onWay s (some (e / 2)) (some (addrQuarter a)) { bytes := m.data, poison := m.poison }
        let s := crossTo s who (some (e / 2)) (some (addrQuarter a)) m.data.length
        answer (writeRun s who a d.bytes d.poison) .ok
/-- ELP_WRITE. -/
def execElpWrite (eye : Nat) (s : State) : Host.Outcome State Fault Refusal := .next (elpWrite s eye)

/-- Picot writes of peers held at this node. -/
def heldPicots (s : State) : Nat := (s.fab.picots.filter (fun p => p.sender.isSome)).length

/-- ELP_PICOT: the eyelet's first request is a PICOT; it is held until it may land. With all 64 places full it stays, and
the stall is counted (R274, R276, R332). -/
def elpPicot (s : State) (e : Nat) : State :=
  match headMsg s e 3 with
  | none => s
  | some (rx, m) =>
    match memoryRequest s m 8 with
    | .error st =>
      respond (serveDone s e rx false) e m.src 9 m.epoch m.cls m.tag (statusCode st) m.fhid 0 false []
    | .ok (h, a) =>
      if 64 ≤ heldPicots s then addCell (countHub s 2 1) 0x810008 9 0 1
      else
        let p : Picot := { id := rx.num, eng := .fe, hoop := h, ctx := 1024, aspace := 0, entry := 65536, row := 0, place := .loc a,
                           data := m.data, poison := m.poison, page := none, after := [], sender := some (m.src, m.fhid, e), tag := m.tag, epoch := m.epoch, cls := m.cls, failed := none }
        serveDone { s with fab := { s.fab with picots := s.fab.picots ++ [p] } } e rx false
/-- ELP_PICOT. -/
def execElpPicot (eye : Nat) (s : State) : Host.Outcome State Fault Refusal := .next (elpPicot s eye)

/-- ELP_FENCE: the eyelet's first request is a FENCE; the fence named accepts the signal, or it is answered with RIGHTS
(R332, R410, R411). -/
def elpFence (s : State) (e : Nat) : State :=
  match headMsg s e 4 with
  | none => s
  | some (rx, m) =>
    let answer (s : State) (st : Status) :=
      respond (serveDone s e rx false) e m.src 9 m.epoch m.cls m.tag (statusCode st) m.fhid 0 false []
    match requestHoop s m with
    | .error st => answer s st
    | .ok (b, _) =>
      let f := m.addr % 16384
      let x := fence s f
      if !x.valid || !x.remote || decide (bankFhid b x.hoop ≠ m.fhid) then answer s .rights
      else
        let err := decide (m.status = 2)
        let s := if x.alias_ then feAlias s f (leNat m.data) err else signalLocal s f (leNat m.data) err false
        answer s .ok
/-- ELP_FENCE. -/
def execElpFence (eye : Nat) (s : State) : Host.Outcome State Fault Refusal := .next (elpFence s eye)

/-- ELP_READ_DATA: the eyelet's first response is a READ_DATA; its request takes the data and the status (R341, R245). -/
def elpReadData (s : State) (e : Nat) : State :=
  match headMsg s e 8 with
  | none => s
  | some (rx, m) =>
    let s' := serveDone s e rx true
    match respondedTo s e m.tag true with
    | some r => answerRemote s' r (statusOf m.status) m.data m.poison
    | none => s'
/-- ELP_READ_DATA. -/
def execElpReadData (eye : Nat) (s : State) : Host.Outcome State Fault Refusal := .next (elpReadData s eye)

/-- ELP_ACK: the eyelet's first response is an ACK; its WRITE, PICOT or FENCE completes with the status (R341). -/
def elpAck (s : State) (e : Nat) : State :=
  match headMsg s e 9 with
  | none => s
  | some (rx, m) =>
    let s' := serveDone s e rx true
    match respondedTo s e m.tag false with
    | some r => retryAliases (answerRemote s' r (statusOf m.status) [] false)
    | none => s'
/-- ELP_ACK. -/
def execElpAck (eye : Nat) (s : State) : Host.Outcome State Fault Refusal := .next (elpAck s eye)

/-! ### Flits (R340, R342, R343) -/

/-- Does a flit's CRC hold? -/
def flitGood (flit : List Byte) : Bool :=
  decide (flit.length = 256) && decide (leNat (flit.drop 252) = crc32 (flit.take 252))
/-- Bits of a flit's header. -/
def flitFld (flit : List Byte) (hi lo : Nat) : Nat := leNat (flit.take 12) / 2 ^ lo % 2 ^ (hi + 1 - lo)

/-- The flits after an acknowledged SEQ; all of them when it is not among them. -/
def dropAcked (ack : Nat) (replay : List (Nat × List Byte)) : List (Nat × List Byte) :=
  if replay.any (fun p => decide (p.1 = ack)) then (replay.dropWhile (fun p => decide (p.1 ≠ ack))).drop 1 else replay

/-- Take a header's acknowledgement and credits, and send what may go now. -/
def takeHeader (s : State) (e : Nat) (flit : List Byte) : State :=
  let left := dropAcked (flitFld flit 79 68) (eyelet s e).replay
  let s := modEyelet s e (fun y => { y with
    resends := y.resends.drop (y.replay.length - left.length), replay := left,
    reqCredits := y.reqCredits + flitFld flit 67 60, rspCredits := y.rspCredits + flitFld flit 59 52 })
  pumpEye s e

/-- A flit is discarded: a NAK carries the last good SEQ (R343). -/
def sendNak (s : State) (e : Nat) : State := sendBare s e 2

/-- The body of a DATA flit in the clear; none when its key epoch has no key, its tag fails, or it comes unencrypted in
confidential mode (R340, R542, R551). -/
def flitBody (s : State) (flit : List Byte) : Option (List Byte) :=
  let enc := decide (flitFld flit 49 49 = 1)
  let key := flitFld flit 51 50
  let body := (flit.drop 12).take 240
  if enc then
    match s.keeper.keys.getD key .empty with
    | .active | .draining => Config.openBody (eyeKey s key) (flitFld flit 91 80) body
    | _ => none
  else if s.keeper.conf then none else some body

/-- FLIT_DATA: a DATA flit is checked, acknowledged later by its SEQ, and its messages taken; one under a key epoch that
holds no key is dropped and counted (R343, R551). -/
def flitData (s : State) (e : Nat) (flit : List Byte) : State :=
  if !eyeUp s e then s
  else
    let s := countE s e 1 1
    if !flitGood flit then sendNak (countE s e 4 1) e
    else if flitFld flit 91 80 ≠ (eyelet s e).rxNext then sendNak s e
    else
      let s := modEyelet (takeHeader s e flit) e (fun y => { y with rxNext := (y.rxNext + 1) % 4096 })
      match flitBody s flit with
      | none => modEyelet (bump s 0x110013 0) e (fun y => { y with rxBytes := [] })
      | some body =>
        let first := flitFld flit 48 45
        let rest := if (eyelet s e).rxBytes.isEmpty then (if first = 15 then [] else body.drop (16 * first)) else body
        let s := modEyelet s e (fun y => { y with rxBytes := y.rxBytes ++ rest })
        takeMsgs e (flitFld flit 51 50) 16 s
/-- FLIT_DATA. -/
def execFlitData (eye : Nat) (flit : List Byte) (s : State) : Host.Outcome State Fault Refusal :=
  .next (flitData s eye flit)

/-- FLIT_IDLE: acknowledgement and credits are taken; a SEQ beyond the next expected shows a lost flit (R340, R343). -/
def flitIdle (s : State) (e : Nat) (flit : List Byte) : State :=
  if !eyeUp s e then s
  else
    let s := countE s e 1 1
    if !flitGood flit then sendNak (countE s e 4 1) e
    else
      let s := takeHeader s e flit
      if flitFld flit 91 80 ≠ (eyelet s e).rxNext then sendNak s e else s
/-- FLIT_IDLE. -/
def execFlitIdle (eye : Nat) (flit : List Byte) (s : State) : Host.Outcome State Fault Refusal :=
  .next (flitIdle s eye flit)

/-- An eyelet retrains; the replay buffer is kept (R343). -/
def startRetrain (s : State) (e : Nat) : State :=
  modEyelet (countE s e 8 1) e (fun y => { y with state := 1, retrain := true, since := wick s, resends := y.resends.map (fun _ => 0) })

/-- Send every unacknowledged flit again. -/
def resendAll (s : State) (e : Nat) : State :=
  let r := (eyelet s e).replay
  let s := countE (countE s e 3 r.length) e 0 r.length
  modEyelet s e (fun y => { y with out := y.out ++ r.map (fun p => p.2) })

/-- FLIT_NAK: the sender resends from ACK + 1; a SEQ resent 8 times without acknowledgement makes the eyelet retrain
(R343). -/
def flitNak (s : State) (e : Nat) (flit : List Byte) : State :=
  if !eyeUp s e then s
  else
    let s := countE s e 1 1
    if !flitGood flit then sendNak (countE s e 4 1) e
    else
      let s := takeHeader s e flit
      if (eyelet s e).replay.isEmpty then s
      else if (eyelet s e).resends.any (fun n => decide (8 ≤ n)) then startRetrain s e
      else modEyelet (resendAll s e) e (fun y => { y with resends := y.resends.map (fun n => n + 1) })
/-- FLIT_NAK. -/
def execFlitNak (eye : Nat) (flit : List Byte) (s : State) : Host.Outcome State Fault Refusal := .next (flitNak s eye flit)

/-- A CTRL flit has been received in order. -/
def tookCtrl (s : State) (e : Nat) : State :=
  modEyelet (countE s e 1 1) e (fun y => { y with rxNext := (y.rxNext + 1) % 4096 })

/-! ### Bring-up (R346) -/

/-- The result of a write of an EYELET_CONFIG row: 4 NOT_PERMITTED, 9 RANGE. -/
def eyeletCode (who : Req) (e : Nat) (w : Word) : Nat :=
  if !isManager who || decide (8 ≤ e) then 4
  else if bit w 0 && !(fld w 2 1 = 1 || fld w 2 1 = 2) then 9
  else 0
/-- EYELET_ENABLE: EYELET_CONFIG is written. ENABLE acts at once, the rest at the next bring-up. -/
def eyeletEnable (s : State) (who : Req) (e : Nat) (w : Word) : State :=
  let w := wd (fld w 3 0 + fld w 31 16 * 2 ^ 16)
  let code := eyeletCode who e w
  let s := result s code
  if code ≠ 0 then s
  else
    let s := setCell s 0x320001 e 0 w
    if !bit w 0 then eyeDown s e
    else if (eyelet s e).state = 0 then
      modEyelet s e (fun y => { Eyelet.down with state := 1, cfg := w, since := wick s, rxMsgs := y.rxMsgs, out := y.out })
    else s
/-- EYELET_ENABLE. -/
def execEyeletEnable (who : Req) (eye : Nat) (w : Word) (s : State) : Host.Outcome State Fault Refusal :=
  .next (gateWrite s who 0x320001 false (fun s => eyeletEnable s who eye w))

/-- EYELET_TRAINED: after a retrain the link is UP or DEGRADED and resends; at bring-up the version is set by FEC lock and
HELLO is sent. In confidential mode v1 is held in HELLO_FAIL (R343, R345, R346, R542). -/
def eyeletTrained (s : State) (e : Nat) (fecLock : Bool) : State :=
  let y := eyelet s e
  if y.state ≠ 1 then s
  else if y.retrain then
    let up := if y.activeLanes = 4 then 3 else 2
    let s := resendAll (modEyelet s e (fun y => { y with state := up, retrain := false })) e
    pumpEye s e
  else
    let v := if fecLock then min 2 (fld y.cfg 2 1) else 1
    if s.keeper.conf && decide (v < 2) then modEyelet s e (fun y => { y with state := 4, version := v })
    else sendCtrl (modEyelet s e (fun y => { y with version := v, activeLanes := 8 })) e
/-- EYELET_TRAINED. -/
def execEyeletTrained (eye : Nat) (fecLock : Bool) (s : State) : Host.Outcome State Fault Refusal :=
  .next (eyeletTrained s eye fecLock)

/-- CTRL_HELLO: the versions are compared and the link is UP, its IDLE flits carrying the initial credits, or HELLO_FAIL
(R314, R342, R346). -/
def ctrlHello (s : State) (e version node : Nat) (nodeValid : Bool) : State :=
  let y := eyelet s e
  if y.state ≠ 1 ∨ y.retrain = true ∨ y.version = 0 then s
  else
    let v := min y.version version
    let valid := bit (cell s 0x310001 0 0) 15
    let fails := decide (node % 256 = ownNode s) || !valid || !nodeValid || decide (v = 0) || (s.keeper.conf && decide (v < 2))
    if fails then modEyelet s e (fun y => { y with state := 4 })
    else
      let s := tookCtrl s e
      let s := modEyelet s e (fun y => { y with state := 2, version := v, peer := node % 256 })
      let s := modEyelet s e (fun y => { y with reqReturn := 1024, rspReturn := 1024 })
      (List.range 5).foldl (fun s _ => sendBare s e 0) s
/-- CTRL_HELLO. The peer's windows are its own; its credits come in its IDLE flits. -/
def execCtrlHello (eye version node : Nat) (nodeValid : Bool) (_window _reqCredits _rspCredits : Nat) (s : State) :
    Host.Outcome State Fault Refusal := .next (ctrlHello s eye version node nodeValid)

/-- RETRAIN_TIMEOUT: a retrain that has not reached UP within 20 ms takes the eyelet DOWN (R343). -/
def retrainTimeout (s : State) (e : Nat) : State :=
  let y := eyelet s e
  if y.state = 1 ∧ y.retrain = true ∧ y.since + 20000000 ≤ wick s then eyeDown s e else s
/-- RETRAIN_TIMEOUT. -/
def execRetrainTimeout (eye : Nat) (s : State) : Host.Outcome State Fault Refusal := .next (unlessSafe s (retrainTimeout s eye))

/-! ### Lanes (R344, R345, R574) -/

/-- Append a record to the repair log (R574). -/
def repairRecord (s : State) (kind action cls unit spare addr : Nat) : State :=
  let n := regN s 0xA0000B 0
  let w0 := wd (kind * 2 ^ 60 + action * 2 ^ 56 + cls % 64 * 2 ^ 50 + unit % 2 ^ 16 * 2 ^ 34 + spare % 2 ^ 16 * 2 ^ 18)
  let s := setCells s 0xA0000A (n % 1024) 0 [w0, wd addr, wd (wick s), wd (n % 2 ^ 32 * 2 ^ 32)]
  bump s 0xA0000B 0

/-- A fault of an eyelet. -/
def eyeFault (cls e detail : Nat) : FaultInfo :=
  { cls := cls, access := 4, addr := none, masterKind := 2, master := e, hoop := none, ctx := none, detail := wd detail }

/-- Count an error of a physical lane: seven bits each, saturating (R559). -/
def laneError (s : State) (e lane : Nat) : State :=
  let w := cell s 0x600001 (24 + e) 10
  let n := fld w (7 * lane + 6) (7 * lane)
  setCell s 0x600001 (24 + e) 10 (setFld w (7 * lane + 6) (7 * lane) (min 127 (n + 1)))

/-- The link retrains at four logical lanes on the four best physical ones, good lanes first (R345). -/
def degrade (s : State) (e : Nat) : State :=
  let bad := (eyelet s e).failing
  let good := (List.range 9).filter (fun k => !bad.contains k)
  let best := (good ++ bad).take 4
  let s := modEyelet s e (fun y => { y with activeLanes := 4, rxMap := best, rxAsked := none })
  startRetrain (latch s (eyeFault 12 e 0)) e

/-- LANE_FAILING: the receiver asks for the spare, or degrades the link when there is none (R344, R345). -/
def laneFailing (s : State) (e lane : Nat) : State :=
  let y := eyelet s e
  if !eyeUp s e || decide (9 ≤ lane) || y.failing.contains lane then s
  else
    let s := laneError (modEyelet s e (fun y => { y with failing := y.failing ++ [lane] })) e lane
    if !y.rxMap.contains lane then s
    else if bit y.cfg 3 && !y.rxSpare && y.rxAsked.isNone && !y.failing.contains 8 then
      sendCtrl (modEyelet s e (fun y => { y with rxAsked := some lane })) e
    else degrade s e
/-- LANE_FAILING. -/
def execLaneFailing (eye lane : Nat) (s : State) : Host.Outcome State Fault Refusal := .next (laneFailing s eye lane)

/-- The spare lane is in use in a direction (0 transmit, 1 receive): class 13 latches and the Darner records it. -/
def spareUsed (s : State) (e dir lane : Nat) : State :=
  latch (repairRecord s 5 1 13 (e * 32 + dir * 16 + lane) 0xFFFF 0) (eyeFault 13 e (dir * 16 + lane))

/-- SPARE_TRAINED: this receiver has trained on lane 8; it names the boundary and both ends switch (R344). -/
def spareTrained (s : State) (e : Nat) : State :=
  match (eyelet s e).rxAsked with
  | none => s
  | some lane =>
    let s := sendCtrl s e
    let map := (eyelet s e).rxMap.map (fun k => if k = lane then 8 else k)
    let s := modEyelet s e (fun y => { y with rxMap := map, rxSpare := true, rxAsked := none })
    spareUsed s e 1 lane
/-- SPARE_TRAINED. -/
def execSpareTrained (eye : Nat) (s : State) : Host.Outcome State Fault Refusal := .next (spareTrained s eye)

/-- CTRL_SPARE_REQUEST: the peer asks for the spare; the logical lane is driven on both (R344). -/
def ctrlSpareRequest (s : State) (e lane : Nat) : State :=
  if !eyeUp s e then s else modEyelet (tookCtrl s e) e (fun y => { y with txAsked := some lane })
/-- CTRL_SPARE_REQUEST. -/
def execCtrlSpareRequest (eye lane : Nat) (s : State) : Host.Outcome State Fault Refusal :=
  .next (ctrlSpareRequest s eye lane)

/-- CTRL_SPARE_SWITCH: at the boundary named, this sender drives the lane on the spare alone (R344). -/
def ctrlSpareSwitch (s : State) (e : Nat) : State :=
  match (eyelet s e).txAsked with
  | none => s
  | some lane =>
    let s := modEyelet (tookCtrl s e) e (fun y => { y with
      txMap := y.txMap.map (fun k => if k = lane then 8 else k), txSpare := true, txAsked := none })
    spareUsed s e 0 lane
/-- CTRL_SPARE_SWITCH. No flit is lost at the boundary, whichever it is. -/
def execCtrlSpareSwitch (eye _boundary : Nat) (s : State) : Host.Outcome State Fault Refusal :=
  .next (ctrlSpareSwitch s eye)

end Sys2Proof.Machine
end

