-- ==== Sys2Proof/Machine/Hoops.lean ====
section
/-! DEFINITION. Hoops (R316 to R327), the node's identity (R314) and map epochs (R333 to R335): what HOOP_COMMAND and
EPOCH_COMMAND check and do, re-binds at seams, scrubs, and the release of a hoop. -/

namespace Sys2Proof.Machine

/-! ### Seams (R150) -/

/-- Is a queue at a seam: every entry before has completed and the next one is a SEAM (R150)? -/
def atSeam (x : Queue) : Bool :=
  queueQuiet x && (match x.entries with | e :: _ => entryOp e.2 = 2 | [] => false)
/-- Has a queue nothing submitted that has not completed? -/
def queueEmpty (x : Queue) : Bool := queueQuiet x && x.entries.isEmpty && decide (x.tail = x.admitted)
/-- Is every queue of a hoop at a seam or empty (R150)? -/
def hoopAtSeam (s : State) (h : Nat) : Bool :=
  (hoopQueues s h).all (fun q => atSeam (queue s q) || queueEmpty (queue s q))

/-! ### What a command checks (R322) -/

/-- Write RESULT of HOOP_STATUS. -/
def hoopResult (s : State) (h code : Nat) : State := setRegFld s 0x300003 h 59 56 code
/-- Write STATE of HOOP_STATUS. -/
def setHoopState (s : State) (h st : Nat) : State := setRegFld s 0x300003 h 63 60 st
/-- Write the widths of HOOP_STATUS from the descriptor in force. -/
def showWidths (s : State) (h : Nat) : State :=
  let w (k : Nat) := hoopWidth s h k
  setRegFld (setRegFld (setRegFld s 0x300003 h 55 48 (w 0)) 0x300003 h 47 40 (w 1)) 0x300003 h 39 32 (w 2)

/-- The descriptor row of a hoop as written. -/
def hoopRow (s : State) (h : Nat) : List Word := rowWords s 0x300001 h 16
/-- First range row and number of range rows of a descriptor. -/
def descRange (d : List Word) : Nat × Nat := (fld (wordAt d 0) 47 32, 64 * (fld (wordAt d 0) 31 26 + 1))
/-- QMASK bit of a descriptor. -/
def descQ (d : List Word) (q : Nat) : Bool := bit (wordAt d 0) (50 + q)

/-- Resources of quarter `q` that a descriptor names: lanterns, channel units, lanes, sequence slots. -/
def namesQuarter (d : List Word) (q : Nat) : Bool :=
  let unit (b : Nat) := fld (wordAt d (5 + b / 2)) (32 * (b % 2) + 31) (32 * (b % 2))
  let lanes (k : Nat) := fld (wordAt d 11) (8 * k + 7) (8 * k)
  wordAt d (1 + q) ≠ 0 || [3 * q, 3 * q + 1, 3 * q + 2].any (fun b => unit b ≠ 0)
    || [2 * q, 2 * q + 1].any (fun k => lanes k ≠ 0) || wordAt d (12 + q) ≠ 0

/-- Code 2, FORMAT: the fields of a descriptor (R317, R320, R322). -/
def descFormatOk (d : List Word) : Bool :=
  let w0 := wordAt d 0
  let r := descRange d
  fld w0 63 56 = 1 && decide (fld w0 55 54 < 2) && fld w0 49 48 = 0 && fld w0 25 0 = 0 && r.1 % 64 = 0
    && decide (r.1 + r.2 ≤ 65536) && (List.range 4).all (fun q => descQ d q || !namesQuarter d q)
    && (fld w0 55 54 = 0 || [1, 2, 3, 4, 12, 13, 14, 15].all (fun i => wordAt d i = 0))

/-- Do two descriptors share a lantern, a channel unit or a sequence slot? -/
def descsShare (a b : List Word) : Bool :=
  [1, 2, 3, 4, 5, 6, 7, 8, 9, 10, 12, 13, 14, 15].any (fun i => wordAt a i &&& wordAt b i ≠ 0)
/-- Do two descriptors' range blocks overlap? -/
def rangesShare (a b : List Word) : Bool :=
  let x := descRange a
  let y := descRange b
  decide (x.1 < y.1 + y.2) && decide (y.1 < x.1 + x.2)

/-- Every channel unit, as bobbin × 32 + unit. -/
def allUnits : List Nat := List.range 384
/-- Does a descriptor bind a unit? -/
def descHasUnit (d : List Word) (u : Nat) : Bool := descUnit d (u / 32) (u % 32)

/-- May a unit not be bound: scrubbing, taken by retired channels, a life-cycle transition not committed, or under a key epoch that is
not ACTIVE (R324, R536, R549, R572)? -/
def unitBusy (s : State) (u : Nat) : Bool :=
  let c := retiredChannels s (u / 32)
  ((tget s.scrubs (u / 32)).getD []).contains (u % 32) || decide (3 ≤ c) || (decide (31 - c ≤ u % 32) && decide (u % 32 ≤ 30))
    || transitioning s || (s.keeper.conf && decide (activeEpoch s ≠ some (unitTag s u)))

/-- Code 3, IN_USE: what a descriptor names belongs to another hoop, is added by another hoop's pending re-bind, is retired
or may not be bound (R322, R568). What the hoop holds already is its own. No hoop is bound before the bobbins' zeroing has ended
(R248, log 132). -/
def descInUse (s : State) (h : Nat) (d old : List Word) : Bool :=
  let others := s.hoops.filter (fun p => decide (p.1 ≠ h) && decide (hoopState s p.1 ≠ 0))
  let clash (o : List Word) := descsShare d o || rangesShare d o
  others.any (fun p => clash p.2.desc || (match p.2.pending with | some o => descsShare d o | none => false))
    || allLanterns.any (fun l => descBinds d l && (lantern s l).retired)
    || !s.mem.zeroed || allUnits.any (fun u => descHasUnit d u && !descHasUnit old u && unitBusy s u)

/-- Channel units that a re-bind removes. -/
def removedUnits (old new : List Word) : List Nat := allUnits.filter (fun u => descHasUnit old u && !descHasUnit new u)

/-- Does a run of local HBM meet a channel unit? -/
def runMeets (a n u : Nat) : Bool :=
  let lo := u / 32 * 0x1000000000 + u % 32 * 0x80000000
  decide (a < lo + 0x80000000) && decide (lo < a + n)

/-- Code 5, PINNED: a re-bind takes an open slot, a unit that a valid range entry targets, or a unit of the heap (R230,
R322, R415). -/
def rebindPinned (s : State) (h : Nat) (old new : List Word) : Bool :=
  let gone := removedUnits old new
  let openSlots := (s.slots.filter (fun p => decide (p.2.hoop = h) && (p.2.state = 1 || p.2.state = 2))).map (fun p => p.1)
  let targets := s.rng.rows.filter (fun p => inBlock s h p.1 && decide (entTarget p.2 / 2 ^ 44 = ownNode s))
  let heapOn := bit (cell s 0x810006 h 3) 0
  let heapAt := (cell s 0x810006 h 1).toNat
  let heapLen := (cell s 0x810006 h 2).toNat
  openSlots.any (fun n => !descSlot new n || !descQ new (n / 64))
    || targets.any (fun p => gone.any (runMeets (entTarget p.2 % 2 ^ 44) (entLen p.2)))
    || (heapOn && gone.any (runMeets heapAt heapLen))

/-- Is a re-bind's instance state in its way: QUIESCING, QUIESCED or FROZEN (R554)? -/
def instBusy (s : State) (h : Nat) : Bool := decide ((hoop s h).inst ≠ .running)

/-- The result of CREATE's or REBIND's checks: 0 when it may go on (R322, R427, R441, R554). -/
def bindCode (s : State) (h : Nat) (rebind : Bool) : Nat :=
  let d := hoopRow s h
  let st := hoopState s h
  let old := if st = 0 then [] else (hoop s h).desc
  let formatOk := descFormatOk d && (!rebind || st = 0 || (decide (descRange d = descRange old)
    && (decide (regN s 0x800007 h = 0) && decide ((cell s 0x800007 h 1).toNat = 0)
      || decide ((cell s 0x800007 h 1).toNat * imageBytes d ≤ (hoop s h).swapBytes))))
  if !formatOk then 2
  else if descInUse s h d old then 3
  else if !flossAdmits s h d then 4
  else if rebind && rebindPinned s h old d then 5
  else if rebind then (if st ≠ 1 ∨ instBusy s h = true then 6 else 0)
  else if st ≠ 0 then 6
  else 0

/-! ### Binding and releasing (R59, R110, R294, R318, R323, R324) -/

/-- Empty a lantern's lookaside (R294). -/
def dropLookaside (s : State) (l : Nat) : State := dropLook s (fun e => decide (e.lk = l))
/-- Cold-gate a lantern that leaves its hoop: its contents are lost and its lookaside is emptied (R56, R294, R324). -/
def releaseLan (s : State) (l : Nat) : State :=
  let s := clearLantern (dropLookaside s l) l
  modLantern s l (fun x => { x with power := .cold, lastCtx := none, rebound := false, runList := [], cur := none,
                                    prefetch := none, dma := [], cores := [] })

/-- Hand a channel unit to its bobbin's scrub, in ascending unit number (R324). The scrub needs the clocks of the quarter: a stopped PLL starts
(R53). -/
def scrubUnit (s : State) (u : Nat) : State :=
  let b := u / 32
  let q := insertNat ((tget s.scrubs b).getD []) (u % 32)
  let s := (needClock { s with scrubs := tput s.scrubs b q } (bobQuarter b)).state
  setCell s 0x300004 b 0 (cell s 0x300004 b 0 ||| wd (2 ^ (u % 32)))

/-- Index of a lantern in its kind under a descriptor. -/
def slotIn (d : List Word) (l : Nat) : Option Nat := (descLanterns d (lanKind l)).findIdx? (fun x => x = l)

/-- Put a new descriptor in force for a bound hoop: leaving lanterns are cold-gated, leaving units scrubbed, lanterns whose
slot number changes count as re-bound (R110, R294, R318, R324). -/
def bindDesc (s : State) (h : Nat) (new : List Word) : State :=
  let old := (hoop s h).desc
  let leaving := allLanterns.filter (fun l => descBinds old l && !descBinds new l)
  let moved := allLanterns.filter (fun l => descBinds old l && descBinds new l && decide (slotIn old l ≠ slotIn new l))
  let s := leaving.foldl releaseLan s
  let s := (removedUnits old new).foldl scrubUnit s
  let s := moved.foldl (fun s l => modLantern (dropLookaside s l) l (fun x => { x with rebound := true })) s
  showWidths (modHoop s h (fun x => { x with desc := new })) h

/-- A lantern joins a hoop: it counts as re-bound and shows nothing of another. -/
def joinLan (s : State) (l : Nat) : State :=
  modLantern s l (fun x => { x with rebound := true, lastCtx := none })

/-- The swap area of a hoop that is created: its SWAP_AREA row as it stands, with images of the new descriptor's size; the row returns to 0
where that area does not lie in the hoop's units (R427; DESIGN CHOICE, log 176). -/
def takeSwapArea (s : State) (h : Nat) : State :=
  let n := (cell s 0x800007 h 1).toNat * imageBytes (hoop s h).desc
  if boundRun s h (cell s 0x800007 h 0).toNat n then modHoop s h (fun x => { x with swapBytes := n }) else setCells s 0x800007 h 0 [0, 0]
/-- HOOP_CREATE's effect: the resources are bound, the hoop is ACTIVE (R323, R442). -/
def createHoop (s : State) (h : Nat) : State :=
  let d := hoopRow s h
  let s := takeSwapArea (setHoop s h { hoopFree with desc := d, floss := flossRows s h, house := houseRow s h }) h
  let s := (allLanterns.filter (descBinds d)).foldl joinLan s
  let s := setCell s 0x300003 h 0 (wd (2 ^ 60))
  showWidths s h

/-- The checks that all four commands make: a manager writes, reserved bits are 0 (R321, R322). -/
def hoopCommand (s : State) (who : Req) (w : Word) : State :=
  let h := fld w 59 54
  let op := fld w 63 60
  let st := hoopState s h
  if !isManager who then result s 4
  else if op = 0 ∨ 4 < op ∨ fld w 53 0 ≠ 0 then hoopResult s h 2
  else
    match op with
    | 1 =>
      let code := bindCode s h false
      if code ≠ 0 then hoopResult s h code else createHoop s h
    | 2 =>
      let code := bindCode s h true
      if code ≠ 0 then hoopResult s h code
      else
        let s := modHoop s h (fun x => { x with
          pending := some (hoopRow s h), flossNew := flossRows s h, houseNew := houseRow s h })
        hoopResult (setHoopState s h 2) h 1
    | 3 =>
      if st ≠ 1 ∨ (hoopCtxs s h).isEmpty = false ∨ fhidLive s h = true then hoopResult s h 6
      else hoopResult (setHoopState s h 3) h 0
    | _ =>
      if st ≠ 2 ∨ (hoop s h).pending.isNone = true then hoopResult s h 6
      else
        let s := modHoop s h (fun x => { x with pending := none, flossNew := [], houseNew := 0 })
        hoopResult (setHoopState s h 1) h 7

/-- HOOP_CREATE. -/
def execHoopCreate (who : Req) (w : Word) (s : State) : Host.Outcome State Fault Refusal :=
  .next (gateWrite s who 0x300002 false (fun s => hoopCommand s who (setFld w 63 60 1)))
/-- HOOP_REBIND. -/
def execHoopRebind (who : Req) (w : Word) (s : State) : Host.Outcome State Fault Refusal :=
  .next (gateWrite s who 0x300002 false (fun s => hoopCommand s who (setFld w 63 60 2)))
/-- HOOP_DESTROY. -/
def execHoopDestroy (who : Req) (w : Word) (s : State) : Host.Outcome State Fault Refusal :=
  .next (gateWrite s who 0x300002 false (fun s => hoopCommand s who (setFld w 63 60 3)))
/-- HOOP_CANCEL. -/
def execHoopCancel (who : Req) (w : Word) (s : State) : Host.Outcome State Fault Refusal :=
  .next (gateWrite s who 0x300002 false (fun s => hoopCommand s who (setFld w 63 60 4)))

/-- REBIND_APPLY: with every queue of the hoop at a seam or empty, the pending descriptor comes into force, with its floss
settings. Joining lanterns wake cold; when none does, the re-bind is complete at once (R59, R150, R325, R442). -/
def rebindApply (s : State) (h : Nat) : State :=
  match (hoop s h).pending with
  | none => s
  | some d =>
    if hoopState s h ≠ 2 ∨ hoopAtSeam s h = false then s
    else
      let join := allLanterns.filter (fun l => descBinds d l && !descBinds (hoop s h).desc l)
      let s := bindDesc s h d
      let s := modHoop s h (fun x => { x with pending := none, floss := x.flossNew, house := x.houseNew, flossNew := [],
                                              houseNew := 0, joining := join })
      let s := join.foldl (fun s l => modLantern (joinLan s l) l (fun x => { x with power := .waking true })) s
      if join.isEmpty then rebindDone s h else s
/-- REBIND_APPLY. -/
def execRebindApply (hoop : Nat) (s : State) : Host.Outcome State Fault Refusal := .next (unlessSafe s (rebindApply s hoop))

/-- Invalidate every row of a hoop's range block (R327, R512). -/
def clearRanges (s : State) (h : Nat) : State :=
  let mine := s.rng.rows.filter (fun p => inBlock s h p.1)
  let s := mine.foldl (fun s p => setRegFld s 0x700001 p.1 63 63 0) s
  { s with rng := { s.rng with rows := s.rng.rows.filter (fun p => !inBlock s h p.1) } }

/-- DESTROY_DONE: everything the hoop held is released, its units go to their scrubs, and it is FREE (R294, R327). -/
def destroyDone (s : State) (h : Nat) : State :=
  if hoopState s h ≠ 3 then s
  else
    let d := (hoop s h).desc
    let s := (allLanterns.filter (descBinds d)).foldl releaseLan s
    let s := dropLook (clearRanges s h) (fun e => decide (e.hoop = h))
    let s := (allUnits.filter (descHasUnit d)).foldl scrubUnit s
    let s := { s with slots := s.slots.filter (fun p => decide (p.2.hoop ≠ h)), hoops := tdel s.hoops h }
    let s := { s with rng := { s.rng with xreqs := s.rng.xreqs.filter (fun x => decide (x.hoop ≠ h)), records := s.rng.records.filter (fun x => decide (x.hoop ≠ h)) } }
    setHoopState (showWidths s h) h 0
/-- DESTROY_DONE. -/
def execDestroyDone (hoop : Nat) (s : State) : Host.Outcome State Fault Refusal := .next (unlessSafe s (destroyDone s hoop))

/-- Zero a run of usable HBM with good checks, with what is held elsewhere for its remapped granules. -/
def zeroRun (s : State) (lo n : Nat) : State :=
  let clo := checkAddr lo
  let places := (s.darner.remaps.filter (fun p => decide (lo ≤ p.1) && decide (p.1 < lo + n))).map (fun p => p.2)
  let gone := fun a : Nat => (decide (lo ≤ a) && decide (a < lo + n)) || (decide (clo ≤ a) && decide (a < clo + 4 * (n / 512)))
    || places.any (fun p => decide (p ≤ a) && decide (a < p + 8192))
  { s with mem := { s.mem with
      cells := s.mem.cells.filter (fun p => !gone p.1)
      merges := s.mem.merges.filter (fun m => !(decide (lo ≤ m.addr) && decide (m.addr < lo + n))) } }

/-- UNIT_SCRUB_DONE: once the quarter's clocks run (R53), the first unit waiting at a bobbin holds zeros with good checks (R324); in confidential mode it is then
tagged with the ACTIVE key epoch, under which it was written (R549). -/
def unitScrubDone (s : State) (b : Nat) : State :=
  match (tget s.scrubs b).getD [] with
  | [] => s
  | j :: rest =>
    match needClock s (bobQuarter b) with
    | .wait s | .fail _ s => s
    | .ok _ s =>
    let n := if j = 31 then 0x40000000 else 0x80000000
    let s := zeroRun s (b * 0x1000000000 + j * 0x80000000) n
    let s := portArrive s b none n
    let s := { s with scrubs := if rest.isEmpty then tdel s.scrubs b else tput s.scrubs b rest }
    let s := match s.keeper.conf, activeEpoch s with
      | true, some e => { s with keeper := { s.keeper with tags := cput (fun _ => 0) s.keeper.tags (b * 32 + j) e } }
      | _, _ => s
    setRegFld s 0x300004 b j j 0
/-- UNIT_SCRUB_DONE. -/
def execUnitScrubDone (b : Nat) (s : State) : Host.Outcome State Fault Refusal := .next (unlessSafe s (unitScrubDone s b))

/-- A descriptor without its retired lanterns. -/
def dropRetired (s : State) (d : List Word) : List Word :=
  (allLanterns.filter (fun l => descBinds d l && (lantern s l).retired)).foldl (fun d l =>
    let base := match lanKind l with | 0 => 0 | 1 => 40 | _ => 56
    let i := base + lanIndex l
    d.set (1 + lanQuarter l) (setFld (wordAt d (1 + lanQuarter l)) i i 0)) d

/-- RETIRED_LANTERN_REMOVE: at the hoop's seam its retired lanterns leave it; RESULT and the re-bind count stay (R494). -/
def retiredLanternRemove (s : State) (h : Nat) : State :=
  let x := hoop s h
  let d := dropRetired s x.desc
  if !hoopLive s h || decide (d = x.desc) || !hoopAtSeam s h then s
  else
    let left := x.joining.filter (fun l => !descBinds d l)
    let s := bindDesc s h d
    left.foldl joinAwake (modHoop s h (fun x => { x with pending := x.pending.map (dropRetired s) }))
/-- RETIRED_LANTERN_REMOVE. -/
def execRetiredLanternRemove (hoop : Nat) (s : State) : Host.Outcome State Fault Refusal :=
  .next (unlessSafe s (retiredLanternRemove s hoop))

/-! ### The node's identity (R314) -/

/-- Has any hoop row of either bank an FHID, as written or in force? -/
def anyFhid (s : State) : Bool :=
  (List.range 2).any (fun b => (List.range 64).any (fun h =>
    fld (cell s 0x310002 (512 * b + 256 + 4 * h) 0) 63 48 ≠ 0 || bankFhid (bank s b) h ≠ 0))
/-- May NODE_ID be written (R353)? -/
def nodeIdOk (s : State) : Bool := (List.range 8).all (fun e => (eyelet s e).state = 0) && !anyFhid s
/-- NODE_ID_WRITE: refused while an eyelet is not DOWN or a hoop row has an FHID (R314, R353). -/
def nodeIdWrite (s : State) (who : Req) (v : Word) : State :=
  if !isManager who then result s 4
  else if !nodeIdOk s then result s 10
  else setReg s 0x310001 0 (fld v 15 15 * 2 ^ 15 + fld v 7 0)
/-- NODE_ID_WRITE. -/
def execNodeIdWrite (who : Req) (v : Word) (s : State) : Host.Outcome State Fault Refusal :=
  .next (gateWrite s who 0x310001 false (fun s => nodeIdWrite s who v))

/-! ### Map epochs (R333, R334) -/

/-- The routes of a bank as written; LOST as kept since each row was written (R328). -/
def writtenRoutes (s : State) (b : Nat) : Table Word :=
  (List.range 256).filterMap (fun n =>
    let w := cell s 0x310002 (512 * b + n) 0
    let w := setFld w 62 62 (b1 (s.fab.lostRows.contains (b, n)))
    if w = 0 then none else some (n, w))
/-- The hoop rows of a bank as written. -/
def writtenHoops (s : State) (b : Nat) : Table (List Word) :=
  (List.range 64).filterMap (fun h =>
    let ws := (List.range 4).map (fun i => cell s 0x310002 (512 * b + 256 + 4 * h + i) 0)
    if ws = [0, 0, 0, 0] then none else some (h, ws))

/-- EPOCH_STAGE's effect: the EMPTY bank takes the rows as written and an epoch (R333). -/
def stageBank (s : State) (e : Nat) : State :=
  match bankIn s .empty with
  | none => s
  | some i =>
    let b : Bank := { state := .staged, epoch := e, routes := writtenRoutes s i, hoops := writtenHoops s i }
    modBank s i (fun _ => b)
/-- The STAGED bank is CURRENT, the old one DRAINING (R333). -/
def openStaged (s : State) : State :=
  match bankIn s .staged, bankIn s .current with
  | some i, some c =>
    let s := modBank (modBank s i (fun b => { b with state := .current })) c (fun b => { b with state := .draining })
    epochCheck { s with fab := { s.fab with drained := false, openAt := wick s, drainMs := regN s 0x310005 0 } }
  | _, _ => s
/-- EPOCH_OPEN's effect: the banks turn, and peers that no eyelet of their new rows reaches are LOST (R333, R336). -/
def openBank (s : State) : State :=
  if (bankIn s .staged).isSome && (bankIn s .current).isSome then
    let s := openStaged s
    ((List.range 256).filter (fun n => rowLost s (bankRoute (curBank s) n))).foldl markLost s
  else s
/-- EPOCH_COMMIT's effect: the drained bank is EMPTY (R333). -/
def commitBank (s : State) : State :=
  match bankIn s .draining with
  | some i =>
    if s.fab.drained then
      let s := modBank s i (fun _ => bankEmpty)
      { s with fab := { s.fab with drained := false } }
    else s
  | none => s
/-- EPOCH_ABANDON's effect: a STAGED bank is EMPTY (R333). -/
def abandonBank (s : State) : State :=
  match bankIn s .staged with
  | some i => modBank s i (fun _ => bankEmpty)
  | none => s

/-- EPOCH_COMMAND: a command that its phase refuses changes nothing (R333, R353). -/
def epochCommand (s : State) (who : Req) (w : Word) : State :=
  if !isManager who then result s 4
  else
    match fld w 31 28 with
    | 1 => stageBank s (fld w 2 0)
    | 2 => openBank s
    | 3 => commitBank s
    | 4 => abandonBank s
    | _ => s
/-- EPOCH_STAGE. -/
def execEpochStage (who : Req) (w : Word) (s : State) : Host.Outcome State Fault Refusal :=
  .next (gateWrite s who 0x310003 false (fun s => epochCommand s who (setFld w 31 28 1)))
/-- EPOCH_OPEN. -/
def execEpochOpen (who : Req) (w : Word) (s : State) : Host.Outcome State Fault Refusal :=
  .next (gateWrite s who 0x310003 false (fun s => epochCommand s who (setFld w 31 28 2)))
/-- EPOCH_COMMIT. -/
def execEpochCommit (who : Req) (w : Word) (s : State) : Host.Outcome State Fault Refusal :=
  .next (gateWrite s who 0x310003 false (fun s => epochCommand s who (setFld w 31 28 3)))
/-- EPOCH_ABANDON. -/
def execEpochAbandon (who : Req) (w : Word) (s : State) : Host.Outcome State Fault Refusal :=
  .next (gateWrite s who 0x310003 false (fun s => epochCommand s who (setFld w 31 28 4)))

/-- Answer EPOCH_STALE to every request of an epoch that waits at an eyelet, without effect (R334). -/
def staleMessages (s : State) (epoch k : Nat) : State :=
  let mine := (eyelet s k).rxMsgs.filter (fun p =>
    let w0 := wd (leNat (p.bytes.take 8))
    decide (fld w0 63 60 < 8) && decide (fld w0 59 57 = epoch))
  mine.foldl (fun s p =>
    let m := parseMsg s k p.bytes
    let read := decide (m.msg = 1)
    respond (serveDone s k p false) k m.src (if read then 8 else 9) m.epoch m.cls m.tag (statusCode .epochStale)
      m.fhid (if read then m.addr % 16 else 0) read (if read then List.replicate m.len 0 else [])) s

/-- Answer EPOCH_STALE to every picot write of a peer that is held under an epoch (R334). -/
def stalePicots (s : State) (epoch : Nat) : State :=
  let mine := fun p : Picot => p.sender.isSome && decide (p.epoch = epoch)
  let held := s.fab.picots.filter mine
  let s := { s with fab := { s.fab with picots := s.fab.picots.filter (fun p => !mine p) } }
  held.foldl (fun s p => match p.sender with
    | some (node, fhid, e) => respond s e node 9 p.epoch p.cls p.tag (statusCode .epochStale) fhid 0 false []
    | none => s) s

/-- EPOCH_DRAIN_TIMEOUT: EPOCH_DRAIN_MS after OPEN every remaining old request, issued or received, is EPOCH_STALE, and the
node shows DRAINED (R334). -/
def epochDrainTimeout (s : State) : State :=
  match bankIn s .draining with
  | none => s
  | some i =>
    if s.fab.drained || decide (wick s < s.fab.openAt + 1000000 * s.fab.drainMs) then s
    else
      let e := (bank s i).epoch
      let s := completeRemotes s (fun r => decide (r.epoch = e)) .epochStale
      let s := (List.range 8).foldl (fun s k => staleMessages s e k) s
      epochCheck (stalePicots s e)
/-- EPOCH_DRAIN_TIMEOUT. -/
def execEpochDrainTimeout (s : State) : Host.Outcome State Fault Refusal := .next (unlessSafe s (epochDrainTimeout s))

end Sys2Proof.Machine
end

