-- ==== Sys2Proof/Machine/Queue.lean ====
section
/-! DEFINITION. Queues (R368 to R395): commands, doorbells, the reading and the admission of entries, SEAM, FENCE and kernel
images, completion records, and the stop of a queue's work. -/

namespace Sys2Proof.Machine

/-! ### Fields (R368, R374 to R376) -/

/-- Entries of the submission ring. -/
def sqSize (x : Queue) : Nat := 2 ^ fld (wordAt x.row 0) 38 34
/-- Entries the front end has read (SQ_HEAD). -/
def sqHead (x : Queue) : Nat := (x.admitted + x.entries.length) % 2 ^ 32

/-- A QUEUE_TABLE row's rules (R368). -/
def queueRowOk (ws : List Word) : Bool :=
  let w0 := wordAt ws 0
  let size (n : Nat) := decide (4 ≤ n) && decide (n ≤ 16)
  fld w0 63 56 = 1 && size (fld w0 38 34) && size (fld w0 33 29) && fld w0 28 0 = 0
    && (wordAt ws 1).toNat % 4096 = 0 && (wordAt ws 2).toNat % 4096 = 0 && [3, 4, 5, 6, 7].all (fun i => wordAt ws i = 0)

/-- A QF2 entry in the words of QF3; word 15 is 1 when a reserved field is not 0. -/
def widenEntry (ws : List Word) : List Word :=
  let w (i : Nat) := wordAt ws i
  let bad := fld (w 1) 31 14 ≠ 0 ∨ fld (w 2) 31 14 ≠ 0 ∨ fld (w 3) 63 32 ≠ 0 ∨ w 7 ≠ 0
  [w 0, wd (fld (w 3) 31 0), wd (fld (w 1) 13 0), wd (fld (w 1) 63 32), wd (fld (w 2) 13 0), wd (fld (w 2) 63 32),
    w 4, w 5, w 6, 0, 0, 0, 0, 0, 0, if bad then 1 else 0]

/-- The rules of an entry (R9, R374 to R376), and those of a memory-role hoop (R320). -/
def entryRulesOk (role : Nat) (qf2 : Bool) (ws : List Word) : Bool :=
  let w0 := wordAt ws 0
  let op := entryOp ws
  let param := fld w0 31 0
  let noArgs := decide (ent ws 6 = 0) && decide (ent ws 7 = 0) && decide (ent ws 8 = 0)
  let arg0 := decide (ent ws 7 = 0) && decide (ent ws 8 = 0)
  fld w0 46 32 = 0 && decide (fld w0 53 51 ≤ 4) && decide (fld w0 49 47 ≤ 4)
    && fld (wordAt ws 2) 63 14 = 0 && fld (wordAt ws 4) 63 14 = 0
    && [9, 10, 11, 12, 13, 14, 15].all (fun i => wordAt ws i = 0)
    && (!qf2 || (op ≠ 4 && op ≠ 5 && op ≠ 6)) && (role = 0 || (op ≠ 1 && op ≠ 4 && op ≠ 5))
    && (match op with
      | 1 => param = 0 && ent ws 6 % 64 = 0 && arg0
      | 2 | 7 => param = 0 && noArgs
      | 3 | 4 => param < 4 && ent ws 6 % 128 = 0 && arg0
      | 5 => param < 256 && ent ws 6 % 128 = 0 && arg0
      | 6 => param < 256 && noArgs
      | 8 => param = 0 && ent ws 6 % 64 = 0 && ent ws 7 % 4096 = 0 && ent ws 8 % 64 = 0
      | 9 => param < 16 && noArgs
      | _ => false)

/-! ### The state of a queue -/

/-- Was an entry given up without being admitted (R395)? -/
def givenUp (f : Flight) : Bool := decide (f.aux = 9)
/-- Show IN_FLIGHT, of the admitted entries, and SQ_HEAD in QUEUE_STATUS (R396). -/
def showQueue (s : State) (q : Nat) : State :=
  let x := queue s q
  setRegFld (setRegFld s 0x900012 q 40 32 (x.flights.filter (fun f => !givenUp f)).length) 0x900012 q 31 0 (sqHead x)
/-- Write RESULT of QUEUE_STATUS. -/
def queueResult (s : State) (q code : Nat) : State := setRegFld s 0x900012 q 59 56 code
/-- Write STATE of QUEUE_STATUS. -/
def setQueueState (s : State) (q st : Nat) : State := setRegFld s 0x900012 q 63 60 st
/-- A queue enters ERROR with a cause, and no record is held any more; a queue that is being destroyed keeps DESTROYING (R372, R382,
R394, R395). Entries whose ring cannot be read during a destroy never complete; they count as dropped records (DESIGN CHOICE, log 177). -/
def queueError (s : State) (q cause : Nat) : State :=
  let s := setReg (setRegFld s 0x900012 q 55 52 cause) 0x900013 q 0
  if queueState s q = 4 then
    let lost := decide (cause = 2)
    let unread := sub32 (queue s q).tail (sqHead (queue s q))
    let s := modQueue s q (fun x => { x with destroy := x.destroy.map (fun d => { d with was := 2, lost := d.lost || lost }) })
    if lost then addCell s 0x900015 q 0 unread else s
  else setQueueState s q 3

/-- Does a queue lie in the requester's block (R369, R396)? -/
def ownsQueue (s : State) (who : Req) (q : Nat) : Bool :=
  match who with
  | .vf n => decide ((vf s n).first ≤ q) && decide (q < (vf s n).first + (vf s n).count)
  | _ => true
/-- Drop a doorbell access, counted (R365, R371, R395). -/
def dropDoorbell (s : State) : State := bump s 0x900014 0

/-! ### Stopping work (R149, R352, R395, R432) -/

/-- Drop an image that is loading for an entry: its hold is released (R377). -/
def dropImage (s : State) (q e : Nat) : State :=
  let gone := fun i : Image => i.loading && decide (i.queue = q) && decide (i.entry = e)
  { s with hoops := s.hoops.map (fun p => (p.1, { p.2 with images := p.2.images.filter (fun i => !gone i) })) }

/-- Stop an entry in flight with a status: a stitch's strands, a mover after its current row, a collective member, an image
load. An entry of another kind completes as it otherwise would. -/
def stopEntry (s : State) (q : Nat) (st : Status) (e : Nat) : State :=
  match flight s q e with
  | none => s
  | some f =>
    if f.phase = .done ∨ f.phase = .recorded then s
    else
      match entryOp f.words with
      | 1 =>
        match f.stitch with
        | none => finishFlight s q e st
        | some _ => stitchCheck (stopStitch (contribute s q e st 0xFFFF) q e) q e
      | 3 | 8 =>
        let waiting := fun p : Nat × MoverJob => decide (p.2.queue = q) && decide (p.2.entry = e)
        let s := dropImage s q e
        let s := contribute s q e st 0xFFFF
        if f.phase = .admitted ∨ s.moverQ.any waiting = true then
          finishFlight { s with moverQ := s.moverQ.filter (fun p => !waiting p) } q e st
        else
          (s.movers.filter (fun p => decide (p.2.queue = q) && decide (p.2.entry = e))).foldl
            (fun s p => mvFail s (p.1 / 16) (p.1 % 16) st) s
      | 4 =>
        if f.phase = .admitted then finishFlight s q e st
        else
          (s.colls.filter (fun p => decide (p.2.queue = q) && decide (p.2.entry = e))).foldl
            (fun s p => runColl (collAbort s (p.1 / 2) (p.1 % 2) st 0) (p.1 / 2) (p.1 % 2)) s
      | _ => s

/-- Give up the admission wait of a queue. -/
def dropQueueWait (s : State) (q : Nat) : State :=
  let s := { s with waits := s.waits.filter (fun w => match w.who with | .entry q' _ => decide (q' ≠ q) | _ => true) }
  modQueue s q (fun x => { x with waiting := false, waitDone := none })

/-- Entries read and not admitted complete with QUEUE_DESTROYED without being run (R395). -/
def giveUpEntries (s : State) (q : Nat) : State :=
  let x := queue s q
  x.entries.foldl (fun s e =>
    let f : Flight := { entry := e.1, words := e.2, desc := [], phase := .done, status := .queueDestroyed, origin := 0xFFFF,
                        detail := 0, start := wick s, doneAt := wick s, stitch := none, aux := 9, waitOn := [], wrote := [] }
    modQueue s q (fun x => { x with flights := x.flights ++ [f], order := x.order ++ [e.1],
                                    admitted := (x.admitted + 1) % 2 ^ 32 }))
    (modQueue s q (fun x => { x with entries := [] }))

/-- Stop a queue's intake and its work, each stopped entry with a status (R395, R432, R512). -/
def abortQueue (s : State) (q : Nat) (st : Status) : State :=
  let s := giveUpEntries (dropQueueWait s q) q
  (queue s q).flights.foldl (fun s f => stopEntry s q st f.entry) s

/-! ### Commands (R369, R370, R393, R395) -/

/-- May a context be named by a new queue: RESIDENT or SWAPPED, of the hoop? -/
def ctxServes (s : State) (c h : Nat) : Bool :=
  (ctxState s c = 1 || ctxState s c = 2) && decide ((context s c).hoop = h)

/-- A completed entry's SIG_FENCE is signalled, with an error unless its status is OK, POISON or NUMERIC (R389, R411,
R613). A fence that the context may not use is left alone. -/
def signalEntry (s : State) (q : Nat) (f : Flight) : State :=
  let n := entSigFence f.words
  if !entSignals f.words then s
  else if (fence s n).valid && !fenceMay s n (queueCtx s q) then signalDropped s
  else
    let qf2 := isQf2 (queue s q)
    if qf2 && (fence s n).alias_ && (fence s n).valid then signalDropped s
    else entrySignal s n (ent f.words 5) (!statusGood f.status) qf2

/-- An entry's record is done with: it leaves the queue and its fence is signalled. -/
def endEntry (s : State) (q : Nat) (f : Flight) : State :=
  let s := modQueue s q (fun x => { x with order := x.order.drop 1,
                                           flights := x.flights.filter (fun y => decide (y.entry ≠ f.entry)) })
  showActivity (showQueue (signalEntry s q f) q) (queueCtx s q)

/-- The oldest completed entry whose record is not written. -/
def nextRecord (s : State) (q : Nat) : Option Flight :=
  (queue s q).order.head?.bind (fun e => flight s q e)

/-- Begin to destroy a queue. A record held under R393 is discarded and counted, and its entry's fence is signalled (R395). -/
def beginDestroy (s : State) (q : Nat) (d : Destroy) : State :=
  let st := queueState s q
  let d := { d with tail := (queue s q).tail, was := if st = 2 then 1 else if st = 3 then 2 else 0 }
  let s := setQueueState (modQueue s q (fun x => { x with destroy := some d })) q 4
  let s := if st = 2 then
      let s := setReg (bump s 0x900015 q) 0x900013 q 0
      match nextRecord s q with
      | some f => endEntry s q f
      | none => s
    else s
  showQueue s q

/-- The four words of a record (R387). -/
def recordWords (x : Queue) (status op entry tag time elapsed origin detail : Nat) : List Word :=
  let phase := (x.written / cqSize x + 1) % 2
  [wd (status * 2 ^ 56 + op * 2 ^ 48 + phase * 2 ^ 47 + entry % 2 ^ 32), wd tag, wd time,
    wd (min elapsed (2 ^ 32 - 1) * 2 ^ 32 + origin % 65536 * 2 ^ 16 + detail % 256 * 2 ^ 8)]
/-- The address of a queue's next record. -/
def recordVa (x : Queue) : Nat := ent x.row 2 + 32 * (x.written % cqSize x)
/-- The host port over which an access reaches the host memory of this node at an address, where it does. -/
def hostPortAt (s : State) (a : Acc) (va : Nat) : Option Nat :=
  match lookHit s a (va % 2 ^ 57) with
  | some e =>
    match placeOf s (e.target + (va % 2 ^ 57 - e.start)) with
    | .loc l => if region s l = some .host0 ∨ region s l = some .host1 then some (hostAddr s l).1 else none
    | .peer _ _ => none
  | none => none
/-- The host interface issues the confirming read behind a group of writes at an address, when they went to host memory (R390). -/
def confirmAt (s : State) (a : Acc) (va : Nat) (c : Confirm) : State :=
  match hostPortAt s a va with
  | some p => issueConfirm s p c
  | none => s
/-- Write a record: W1 to W3, then W0 (R388). A record in host memory is followed by a confirming read; each record is a group of its own
(R390; DESIGN CHOICE, log 174). -/
def putRecord (s : State) (q : Nat) (ws : List Word) : Out Unit :=
  let x := queue s q
  let a := feAcc s q (houseClass s (queueHoop s q))
  (writeVa s a (recordVa x) { bytes := wordBytes ws, poison := false } false).andThen (fun _ s =>
    let s := modQueue (confirmAt s a (recordVa x) (.ring q)) q (fun x => { x with written := (x.written + 1) % 2 ^ 32 })
    .ok () (selCount s none 0x21 1 (some (queueHoop s q)) none (some (queueCtx s q))))
/-- The record of a completed entry. -/
def flightRecord (x : Queue) (f : Flight) : List Word :=
  recordWords x (statusCode f.status) (entryOp f.words) f.entry (ent f.words 1) f.doneAt ((f.doneAt - f.start) / 1000) f.origin
    f.detail

/-- A RESUME's retry waits for its translation, or has been made. -/
def setResuming (s : State) (q : Nat) (b : Bool) : State := modQueue s q (fun x => { x with resuming := b })
/-- RESUME: the held record is tried again (R393). A retry that waits for its translation is made when COMPLETION_RECORD_WRITE next
finds it answered. -/
def resumeQueue (s : State) (q : Nat) : State :=
  match nextRecord s q with
  | none => setReg (setQueueState (setResuming s q false) q 1) 0x900013 q 0
  | some f =>
    match putRecord s q (flightRecord (queue s q) f) with
    | .ok _ s => endEntry (setReg (setQueueState (setResuming s q false) q 1) 0x900013 q 0) q f
    | .wait s => setResuming s q true
    | .fail _ s => setResuming s q false

/-- The result of QUEUE_COMMAND's checks (R370). -/
def queueCode (s : State) (who : Req) (w : Word) : Nat :=
  let q := fld w 11 0
  let op := fld w 63 60
  let st := queueState s q
  let row := if op = 1 ∨ st = 0 then rowWords s 0x900010 q 8 else (queue s q).row
  let h := fld (wordAt row 0) 54 49
  let blocked := !ownsQueue s who q || (match who with
    | .vf n => vfHoop s n != some h
    | _ => false)
  if op = 0 ∨ 4 < op ∨ ((op = 1 ∨ op = 4) ∧ bit w 59 = true) ∨ fld w 58 46 ≠ 0 ∨ fld w 31 12 ≠ 0 ∨ (op = 1 ∧ queueRowOk row = false) then 1
  else if blocked then 2
  else if (op = 1 ∧ st ≠ 0) ∨ ((op = 2 ∨ op = 3) ∧ (st = 0 ∨ st = 4)) ∨ (op = 4 ∧ st ≠ 2) then 3
  else if op = 1 ∧ ctxServes s (fld (wordAt row 0) 48 39) h = false then 4
  else 0

/-- QUEUE_COMMAND (R369, R370). -/
def queueCommand (s : State) (who : Req) (w : Word) : State :=
  let q := fld w 11 0
  let op := fld w 63 60
  let code := queueCode s who w
  let s := queueResult s q code
  if code ≠ 0 then s
  else
    match op with
    | 1 =>
      let s := setQueue s q { queueFree with row := rowWords s 0x900010 q 8 }
      setCell s 0x900012 q 0 (wd (2 ^ 60))
    | 4 => resumeQueue s q
    | _ =>
      let f := if bit w 59 then some (fld w 45 32) else none
      let s := beginDestroy s q { abort := decide (op = 3), fence := f, via := some who, tail := 0, was := 0, silent := false, lost := false }
      if op = 3 then showQueue (abortQueue s q .queueDestroyed) q else s

/-- QUEUE_CREATE. -/
def execQueueCreate (who : Req) (w : Word) (s : State) : Host.Outcome State Fault Refusal :=
  .next (gateWrite s who 0x900011 true (fun s => queueCommand s who (setFld w 63 60 1)))
/-- DESTROY_DRAIN. -/
def execDestroyDrain (who : Req) (w : Word) (s : State) : Host.Outcome State Fault Refusal :=
  .next (gateWrite s who 0x900011 true (fun s => queueCommand s who (setFld w 63 60 2)))
/-- DESTROY_ABORT. -/
def execDestroyAbort (who : Req) (w : Word) (s : State) : Host.Outcome State Fault Refusal :=
  .next (gateWrite s who 0x900011 true (fun s => queueCommand s who (setFld w 63 60 3)))
/-- QUEUE_RESUME. -/
def execQueueResume (who : Req) (w : Word) (s : State) : Host.Outcome State Fault Refusal :=
  .next (gateWrite s who 0x900011 true (fun s => queueCommand s who (setFld w 63 60 4)))

/-- Are the entries of a queue that the front end has not read lost to a ring that cannot be read (R382, R395)? -/
def ringLost (x : Queue) : Bool := match x.destroy with | some d => d.lost | none => false
/-- Are the records of a queue that is being destroyed dropped: was it in ERROR (R395)? -/
def recordsDropped (x : Queue) : Bool := match x.destroy with | some d => decide (d.was = 2) | none => false
/-- Has every engine that held work of a queue reported, and every record been dealt with? -/
def queueDrained (x : Queue) : Bool :=
  x.flights.isEmpty && x.entries.isEmpty && (ringLost x || decide (x.tail = x.admitted))
/-- The confirming reads behind a queue's writes are answered to nobody (R390). -/
def dropConfirms (s : State) (q : Nat) : State :=
  let mine := fun c : Confirm × Nat => match c.1 with | .ring q' => decide (q' = q) | .work q' _ => decide (q' = q) | _ => false
  { s with fab := { s.fab with confirms := s.fab.confirms.filter (fun c => !mine c) } }

/-- A queue becomes FREE. -/
def freeQueue (s : State) (q : Nat) : State :=
  let s := dropQueueWait (feDone (showQueue (dropConfirms s q) q) q) q
  setReg (setQueueState { s with queues := tdel s.queues q } q 0) 0x900013 q 0

/-- QUEUE_DESTROY_DONE: the destroy record is written, the fence signalled, and the queue is FREE (R395, R613). -/
def queueDestroyDone (s : State) (q : Nat) : State :=
  let x := queue s q
  match x.destroy with
  | none => s
  | some d =>
    if queueState s q ≠ 4 ∨ queueDrained x = false ∨ d.silent = true then s
    else
      let ctx := queueCtx s q
      let o := if d.was = 0 then putRecord s q (recordWords x 0 0xFF d.tail 0 (wick s) 0 0xFFFF 0) else .ok () s
      match o with
      | .wait s => s
      | .ok _ s | .fail _ s =>
        let s := freeQueue s q
        let s := match d.fence with | some f => namedSignal s f d.via | none => s
        showActivity s ctx
/-- QUEUE_DESTROY_DONE. -/
def execQueueDestroyDone (queue : Nat) (s : State) : Host.Outcome State Fault Refusal := .next (unlessSafe s (queueDestroyDone s queue))

/-! ### Doorbells (R371 to R373) -/

/-- A write of SQ_TAIL is acted on: the entries up to the new tail are submitted, or the queue enters ERROR (R372). -/
def sqTailNow (s : State) (who : Req) (q : Nat) (v : Word) : State :=
  let x := queue s q
  let st := queueState s q
  let t := fld v 31 0
  if !ownsQueue s who q || st = 0 || st = 4 then dropDoorbell s
  else if t = x.tail then s
  else if sub32 t x.tail ≤ sqSize x - sub32 x.tail (sqHead x) then
    showActivity (modQueue s q (fun x => { x with tail := t })) (queueCtx s q)
  else queueError s q 1
/-- SQ_TAIL_WRITE: acted on after the function's earlier BAR4 writes have landed (R272). -/
def sqTailWrite (s : State) (who : Req) (q : Nat) (v : Word) : State :=
  ring (wakeUp s) (.sqTail who q v) (fun s => sqTailNow s who q v)
/-- SQ_TAIL_WRITE. -/
def execSqTailWrite (who : Req) (queue : Nat) (v : Word) (s : State) : Host.Outcome State Fault Refusal :=
  .next (sqTailWrite s who queue v)

/-- A write of CQ_HEAD is acted on: consumed records are reported; a value beyond the records written is ignored and counted
(R373; DEDUCED, log 164: in DOORBELL_DROPS). -/
def cqHeadNow (s : State) (who : Req) (q : Nat) (v : Word) : State :=
  let x := queue s q
  let st := queueState s q
  let h := fld v 31 0
  if !ownsQueue s who q || st = 0 || st = 4 then dropDoorbell s
  else if sub32 h x.cqHead ≤ sub32 x.written x.cqHead then
    showActivity (modQueue s q (fun x => { x with cqHead := h })) (queueCtx s q)
  else dropDoorbell s
/-- CQ_HEAD_WRITE: acted on after the function's earlier BAR4 writes have landed (R272). -/
def cqHeadWrite (s : State) (who : Req) (q : Nat) (v : Word) : State :=
  ring (wakeUp s) (.cqHead who q v) (fun s => cqHeadNow s who q v)
/-- CQ_HEAD_WRITE. -/
def execCqHeadWrite (who : Req) (queue : Nat) (v : Word) (s : State) : Host.Outcome State Fault Refusal :=
  .next (cqHeadWrite s who queue v)

/-- Act on one held doorbell. -/
def actBell (s : State) (b : Bell) : State :=
  match b with
  | .sqTail who q v => sqTailNow s who q v
  | .cqHead who q v => cqHeadNow s who q v
  | .inval who w => invalNow s who w
/-- Act on held doorbells, each function's in order, whose BAR4 writes have landed (R272). -/
def serveBells (s : State) : State :=
  s.fab.bells.foldl (fun s b => ring s b (fun s => actBell s b)) { s with fab := { s.fab with bells := [] } }

/-- PLL_LOCK. -/
def execPllLock (q : Nat) (s : State) : Host.Outcome State Fault Refusal := .next (serveBells (pllLock s q))
/-- LANTERN_WAKE_DONE. -/
def execLanternWakeDone (l : Nat) (s : State) : Host.Outcome State Fault Refusal :=
  .next (unlessSafe s (serveBells (lanternWakeDone s l)))

/-! ### Reading and admitting entries (R379 to R383) -/

/-- ENTRY_READ: the front end reads the next submitted entry of a queue; a ring that cannot be read puts the queue in ERROR
(R379, R382). -/
def entryRead (s : State) (q : Nat) : State :=
  let x := queue s q
  let st := queueState s q
  let k := sqHead x
  let size := if isQf2 x then 64 else 128
  if !(st = 1 || (st = 4 && !ringLost x)) || decide (k = x.tail) || !queueRuns s q then s
  else
    match feWords s (feAcc s q (houseClass s (queueHoop s q))) (ent x.row 1 + size * (k % sqSize x)) (size / 8) with
    | .wait s => s
    | .fail _ s => queueError (feDone s q) q 2
    | .ok ws s =>
      let ws := if isQf2 x then widenEntry ws else ws
      showQueue (modQueue (feDone s q) q (fun x => { x with entries := x.entries ++ [(k, ws)] })) q
/-- ENTRY_READ. -/
def execEntryRead (queue : Nat) (s : State) : Host.Outcome State Fault Refusal := .next (unlessSafe s (entryRead s queue))

/-- What an entry's wait says (R379, R380, R407, R408, R410, R411). -/
inductive Gate
  | pass | hold (s : State)
  | refuse (st : Status)

/-- The admission wait of the front entry; registered when it is not satisfied. -/
def entryGate (s : State) (q k : Nat) (ws : List Word) : Gate :=
  let x := queue s q
  let n := entWaitFence ws
  let f := fence s n
  let qf2 := isQf2 x
  if !entWaits ws then .pass
  else
    match x.waitDone with
    | some true => .refuse .fenceError
    | some false => .pass
    | none =>
      if x.waiting then .hold s
      else if !fenceMay s n (queueCtx s q) || f.alias_ then .refuse .rights
      else if f.error then .refuse .fenceError
      else if waitMet f.value (ent ws 3) qf2 then .pass
      else
        let w : Wait := { fence := n, who := .entry q k, value := if qf2 then ent ws 3 % 2 ^ 32 else ent ws 3, qf2 := qf2 }
        .hold (modQueue (addWait s w) q (fun x => { x with waiting := true }))

/-- Admit the front entry: it is in flight, with what the front end copied for it. -/
def admitEntry (s : State) (q k : Nat) (ws desc : List Word) (waitOn : List Nat) : State :=
  let f : Flight := { entry := k, words := ws, desc := desc, phase := .admitted, status := .ok, origin := 0xFFFF, detail := 0,
                      start := wick s, doneAt := 0, stitch := none, aux := 0, waitOn := waitOn, wrote := [], moved := wick s }
  let s := modQueue s q (fun x => { x with
    entries := x.entries.drop 1, flights := x.flights ++ [f], admitted := (x.admitted + 1) % 2 ^ 32, waiting := false,
    waitDone := none, moved := wick s })
  let s := selCount s none 0x20 1 (some (queueHoop s q)) none (some (queueCtx s q))
  showActivity (showQueue (feDone s q) q) (queueCtx s q)

/-- A number for a strand. -/
def refNum (r : StrandRef) : Nat := (r.queue * 2 ^ 32 + r.entry) * 512 + r.idx
/-- The S strands of a hoop that run now, those of swapped contexts among them (R378, R424). -/
def runningS (s : State) (h : Nat) : List Nat :=
  s.lan.filterMap (fun p => match p.2.cur with
    | some r => if lanKind p.1 = 2 ∧ (context s r.ctx).hoop = h then some (refNum r.ref) else none
    | none => none)
  ++ (hoopCtxs s h).flatMap (fun c => ((context s c).saved.filter (fun v => decide (lanKind v.l = 2))).map (fun v => refNum v.running.ref))

/-- Join neighbouring local runs. -/
def joinRuns : List (Nat × Nat) → List (Nat × Nat)
  | [] => []
  | (a, n) :: rest =>
    match joinRuns rest with
    | (b, m) :: more => if a + n = b then (a, n + m) :: more else (a, n) :: (b, m) :: more
    | [] => [(a, n)]

/-- Add a piece of an image's destination, an address and a length, to the local runs: the context may read and write it, and it lies in
memory bound to the hoop; RIGHTS otherwise. -/
def imagePiece (a : Acc) (runs : List (Nat × Nat)) (p : Nat × Nat) (s : State) : Out (List (Nat × Nat)) :=
  (resolveNow s a p.1 1 p.2).andThen (fun x s => (resolveNow s a p.1 0 p.2).andThen (fun _ s =>
    match x.place with
    | .loc l => if boundRun s a.hoop l p.2 then .ok (runs ++ [(l, p.2)]) s else .fail .rights s
    | .peer _ _ => .fail .rights s))
/-- The local runs of an image's destination. -/
def imageDest (s : State) (q va n : Nat) : Out (List (Nat × Nat)) :=
  let a := feAcc s q (houseClass s (queueHoop s q))
  ((cut 4096 va n).foldl (fun (o : Out (List (Nat × Nat))) p => o.andThen (fun runs s => imagePiece a runs p s)) (.ok [] s)).andThen
    (fun runs s => .ok (joinRuns runs) s)

/-- Admit an IMAGE_LOAD: from here on its destination is held, an image that is loading. The destination must lie in memory bound to the
hoop that the context may read and write, and no image may hold it already; RIGHTS otherwise (R377). -/
def admitImage (s : State) (q k : Nat) (ws : List Word) : State :=
  if ent ws 8 = 0 then finishFlight (admitEntry s q k ws [] []) q k .format
  else
    match imageDest s q (ent ws 7) (ent ws 8) with
    | .wait s => s
    | .fail _ s => finishFlight (admitEntry s q k ws [] []) q k .rights
    | .ok parts s =>
      let s := admitEntry s q k ws [] []
      if parts.any (fun p => imageHolds s p.1 p.2) then finishFlight s q k .rights
      else
        let i : Image := { queue := q, entry := k, handle := 0, loading := true, parts := parts, code := [] }
        modHoop s (queueHoop s q) (fun x => { x with images := x.images ++ [i] })

/-- Admit the front entry, copying the descriptor that it names; an entry whose descriptor cannot be read completes without
being run (R379, R383). -/
def admitFront (s : State) (q k : Nat) (ws : List Word) : State :=
  let op := entryOp ws
  if op = 8 then admitImage s q k ws else
  let copied : Bool := op == 3 || op == 4 || op == 5
  let o := if copied then feWords s (feAcc s q (houseClass s (queueHoop s q))) (ent ws 6) 16 else .ok [] s
  match o with
  | .wait s => s
  | .fail st s => finishFlight (admitEntry s q k ws [] []) q k st
  | .ok d s =>
    let desc := if op = 3 ∨ op = 4 then d ++ numericDefaults s else if op = 1 then numericDefaults s else d
    let s := admitEntry s q k ws desc (if op = 9 then runningS s (queueHoop s q) else [])
    if op = 7 ∧ entWaits ws = false ∧ entSignals ws = false then finishFlight s q k .ok else s

/-- ENTRY_ADMIT: the front entry of a queue is admitted when its conditions hold (R379 to R383); in a DESTROY_ABORT it is
given up (R395). -/
def entryAdmit (s : State) (q : Nat) : State :=
  let x := queue s q
  let st := queueState s q
  match x.entries with
  | [] => s
  | (k, ws) :: _ =>
    let abort := match x.destroy with | some d => d.abort | none => false
    if !(st = 1 || st = 4) then s
    else if abort then showQueue (giveUpEntries s q) q
    else
      let a := admissible s q ws
      if !a.1 then a.2
      else if !entryRulesOk (hoopRole s (queueHoop s q)) (isQf2 x) ws then
        finishFlight (admitEntry s q k ws [] []) q k .format
      else
        match entryGate s q k ws with
        | .hold s => s
        | .refuse st => finishFlight (admitEntry s q k ws [] []) q k st
        | .pass => admitFront s q k ws
/-- ENTRY_ADMIT. -/
def execEntryAdmit (queue : Nat) (s : State) : Host.Outcome State Fault Refusal := .next (unlessSafe s (entryAdmit s queue))

/-- Complete an admitted entry of an opcode that does nothing more. -/
def completeOp (s : State) (q e op : Nat) : State :=
  match flight s q e with
  | some f => if f.phase = .admitted ∧ entryOp f.words = op then finishFlight s q e .ok else s
  | none => s
/-- SEAM: an admitted SEAM completes; every entry before it has (R150). -/
def execSeam (queue entry : Nat) (s : State) : Host.Outcome State Fault Refusal := .next (completeOp s queue entry 2)
/-- FENCE: an admitted FENCE completes; its wait is over and its signal follows its record (R376). -/
def execFence (queue entry : Nat) (s : State) : Host.Outcome State Fault Refusal := .next (completeOp s queue entry 7)

/-! ### Kernel images (R153 to R157, R166, R377, R378) -/

/-- The descriptor with which a mover copies an image byte for byte. -/
def imageDesc (cls src dst n : Nat) : List Word :=
  let rows := if n < 2 ^ 32 then 1 else n / 64
  let len := if n < 2 ^ 32 then n else 64
  [wd (2 ^ 56 + 9 * 2 ^ 52 + 9 * 2 ^ 48 + cls % 8 * 2 ^ 40), wd src, wd dst, wd (rows * 2 ^ 32 + len), wd len, wd len,
    0, 0, 0, 0, 0, 0, 0, 0, 0, 0]

/-- The image that an entry loads. -/
def loadingImage (s : State) (h q e : Nat) : Option Image :=
  (hoop s h).images.find? (fun i => i.loading && decide (i.queue = q) && decide (i.entry = e))
/-- IMAGE_LOAD: a mover of the quarter that holds the destination copies the image (R377). -/
def imageLoad (s : State) (q e : Nat) : State :=
  match flight s q e, loadingImage s (queueHoop s q) q e with
  | some f, some i =>
    if f.phase ≠ .admitted ∨ entryOp f.words ≠ 8 then s
    else
      let h := queueHoop s q
      let j : MoverJob := { queue := q, entry := e, work := 1,
                            desc := imageDesc (houseClass s h) (ent f.words 6) (ent f.words 7) (ent f.words 8), hoop := h,
                            ctx := queueCtx s q, aspace := (context s (queueCtx s q)).aspace, rows := [], put := 0,
                            round := 0, sat := 0, status := .ok, flagSent := false, finished := false,
                            since := wick s, key := (activeEpoch s).getD 0 }
      let s := modFlight s q e (fun f => { f with phase := .running, aux := 1 })
      waitForMover s (addrQuarter (i.parts.headD (0, 0)).1) j
  | _, _ => s
/-- IMAGE_LOAD. -/
def execImageLoad (queue entry : Nat) (s : State) : Host.Outcome State Fault Refusal := .next (imageLoad s queue entry)

/-- A little-endian field of an image. -/
def imgFld (bs : List Byte) (at_ n : Nat) : Nat := leNat ((bs.drop at_).take n)
/-- Entries of an image's section table (R154), as byte strings. -/
def imgSections (bs : List Byte) : List (List Byte) :=
  (List.range (min 64 (imgFld bs 20 4))).map (fun i => (bs.drop (64 + 32 * i)).take 32)
/-- Bytes of an image's signatures (R155). -/
def sigBytes (scheme : Nat) : Nat := if scheme = 1 then 96 + 4627 else 96

/-- The rules of the section table (R154). The table itself lies within SIGNED_LENGTH, which the rule asks of the sections only (DESIGN
CHOICE, log 178). -/
def sectionsOk (bs : List Byte) : Bool :=
  let n := imgFld bs 20 4
  let signed := imgFld bs 24 8
  let ss := imgSections bs
  let span (x : List Byte) : Nat × Nat := (imgFld x 8 8, imgFld x 16 8)
  let one := fun x : List Byte =>
    let kind := imgFld x 0 1
    let tile := kind = 1 || kind = 2
    decide (1 ≤ kind ∧ kind ≤ 6) && (tile || imgFld x 1 3 = 0) && imgFld x 4 4 = 0 && imgFld x 24 8 = 0
      && (span x).1 % 64 = 0 && decide ((span x).1 + (span x).2 ≤ signed) && (!tile || (span x).2 % 64 = 0)
  let rec apart : List (Nat × Nat) → Bool
    | [] => true
    | p :: rest => rest.all (fun o => decide (p.1 + p.2 ≤ o.1) || decide (o.1 + o.2 ≤ p.1)) && apart rest
  decide (1 ≤ n ∧ n ≤ 64) && decide (64 + 32 * n ≤ signed) && ss.all one && apart (ss.map span)

/-- An op of an image as its template is checked: the address of a LOAD or a STORE is filled in later, so it is checked as 0 (R156 step 6). -/
def templateOp (ws : List Word) : List Word := if opCode ws = 1 ∨ opCode ws = 2 then ws.set 1 0 else ws
/-- Do the tile ops of the strand sections pass the checks that do not depend on the stitch or on addresses (R156 step 6)? -/
def imageOpsOk (bs : List Byte) : Bool :=
  (imgSections bs).all (fun x =>
    let kind := imgFld x 0 1
    if kind = 1 ∨ kind = 2 then
      (opsOf (toWords ((bs.drop (imgFld x 8 8)).take (imgFld x 16 8)))).all (fun ws =>
        tileOpOk (kind - 1) false (templateOp ws) || tileOpOk (kind - 1) true (templateOp ws))
    else true)

/-- Is an image signed under the owner's image key, to the signature policy, and not below the lowest version (R156 steps 4
and 5)? -/
def imageTrusted (s : State) (bs : List Byte) : Bool :=
  let scheme := imgFld bs 7 1
  let signed := imgFld bs 24 8
  Config.signatureOk scheme (bs.take signed) ((bs.drop signed).take (sigBytes scheme)) (leNat s.keeper.imageKey)
    && !(regN s 0x11000B 0 = 1 && scheme ≠ 1) && decide (regN s 0x11000A 0 ≤ imgFld bs 32 8)

/-- Validate an image (R156): OK, or the status of the first failure. -/
def validateImage (s : State) (bs : List Byte) : Status :=
  let scheme := imgFld bs 7 1
  let signed := imgFld bs 24 8
  if imgFld bs 0 4 ≠ 0x4B494D47 ∨ imgFld bs 4 2 ≠ 1 ∨ imgFld bs 16 4 ≠ 0x4160 ∨ 1 < scheme ∨ imgFld bs 40 24 ≠ 0
      ∨ signed % 64 ≠ 0 ∨ bs.length < signed + sigBytes scheme then .format
  else if 0x11 < imgFld bs 6 1 then .format
  else if !sectionsOk bs then .format
  else if !imageTrusted s bs then .rights
  else if !imageOpsOk bs then .format
  else .ok

/-- The local runs of bytes `off` to `off + n` of a destination. -/
def partRuns (off n : Nat) : List (Nat × Nat) → List (Nat × Nat)
  | [] => []
  | (a, len) :: rest =>
    if n = 0 then []
    else if len ≤ off then partRuns (off - len) n rest
    else
      let k := min n (len - off)
      (a + off, k) :: partRuns 0 (n - k) rest

/-- The bytes of local runs in order, and whether any is poisoned. -/
def readParts (s : State) (who : Who) (parts : List (Nat × Nat)) : (List Byte × Bool) × State :=
  parts.foldl (fun (acc : (List Byte × Bool) × State) p =>
    let d := readRun acc.2 who p.1 p.2 0
    ((acc.1.1 ++ d.1.bytes, acc.1.2 || d.1.poison), d.2)) (([], false), s)
/-- Where an image's S code sections lie, of the runs that hold it (R157). -/
def imageCode (bs : List Byte) (parts : List (Nat × Nat)) : List (Nat × Nat) :=
  (imgSections bs).flatMap (fun x => if imgFld x 0 1 = 3 then partRuns (imgFld x 8 8) (imgFld x 16 8) parts else [])

/-- IMAGE_LOAD_DONE: the copy is validated; the image is loaded under the lowest free handle, or its hold is released (R156,
R157, R377). A load beyond 16 images is copied and validated first: ALLOC_FAIL comes last (DESIGN CHOICE, log 149). -/
def imageLoadDone (s : State) (q e : Nat) : State :=
  match flight s q e with
  | none => s
  | some f =>
    let h := queueHoop s q
    if entryOp f.words ≠ 8 ∨ f.phase ≠ .running ∨ f.aux ≠ 2 then s
    else
      match loadingImage s h q e with
      | none => finishFlight s q e f.status
      | some i =>
        let who : Who := { eng := .fe, hoop := some h, ctx := some (queueCtx s q), flow := houseFlow s h }
        let r := readParts s who i.parts
        let s := r.2
        let used := ((hoop s h).images.filter (fun x => !x.loading)).map (fun x => x.handle)
        let st := if f.status ≠ .ok then f.status else if r.1.2 then .poison else validateImage s r.1.1
        match st, (List.range 16).find? (fun k => !used.contains k) with
        | .ok, some k =>
          let code := imageCode r.1.1 i.parts
          let done := fun x : Image => if x = i then { x with loading := false, handle := k, code := code } else x
          let s := modHoop s h (fun x => { x with images := x.images.map done })
          finishFlight (modFlight s q e (fun f => { f with detail := k })) q e .ok
        | .ok, none => finishFlight (dropImage s q e) q e .allocFail
        | st, _ => finishFlight (dropImage s q e) q e st
/-- IMAGE_LOAD_DONE. -/
def execImageLoadDone (queue entry : Nat) (s : State) : Host.Outcome State Fault Refusal :=
  .next (unlessSafe s (imageLoadDone s queue entry))

/-- IMAGE_UNLOAD: when the S strands that ran at its admission have completed, the instruction L1s of the hoop's S cores are
invalidated and the image's range is released (R166, R378). -/
def imageUnload (s : State) (q e : Nat) : State :=
  match flight s q e with
  | none => s
  | some f =>
    let h := queueHoop s q
    let k := fld (wordAt f.words 0) 3 0
    if f.phase ≠ .admitted ∨ entryOp f.words ≠ 9 then s
    else if !(hoop s h).images.any (fun i => !i.loading && decide (i.handle = k)) then finishFlight s q e .format
    else if f.waitOn.any (fun r => (runningS s h).contains r) then s
    else
      let s := (descLanterns (hoop s h).desc 2).foldl (fun s l => modLantern s l (fun x => { x with
        cores := x.cores.map (fun c => { c with il1 := [] }) })) s
      let s := modHoop s h (fun x => { x with images := x.images.filter (fun i => i.loading || decide (i.handle ≠ k)) })
      finishFlight s q e .ok
/-- IMAGE_UNLOAD. -/
def execImageUnload (queue entry : Nat) (s : State) : Host.Outcome State Fault Refusal :=
  .next (imageUnload s queue entry)

/-! ### Completion records (R387 to R389, R393, R394) -/

/-- Drop a record: it is counted, and its fence signalled (R394, R395). -/
def dropRecord (s : State) (q : Nat) (f : Flight) : State := endEntry (bump s 0x900015 q) q f

/-- COMPLETION_RECORD_WRITE: the oldest completed entry's record is written and its fence signalled; a record that faults is
held, or dropped where the queue is ending (R388, R389, R393 to R395, R432). It waits for the confirming reads behind the entry's own
host writes (R390); a retry that a RESUME left waiting is made here (R393). -/
def completionRecordWrite (s : State) (q : Nat) : State :=
  let x := queue s q
  let st := queueState s q
  match nextRecord s q with
  | none => s
  | some f =>
    if st = 2 then (if x.resuming then resumeQueue s q else s)
    else if st = 0 ∨ s.fab.confirms.any (fun c => decide (c.1 = .work q f.entry)) = true then s
    else if st = 3 ∨ recordsDropped x = true then dropRecord s q f
    else
      match putRecord s q (flightRecord x f) with
      | .ok _ s => endEntry s q f
      | .wait s => s
      | .fail _ s =>
        if st = 4 then dropRecord s q f
        else setReg (setQueueState s q 2) 0x900013 q (recordVa x)
/-- COMPLETION_RECORD_WRITE. -/
def execCompletionRecordWrite (queue : Nat) (s : State) : Host.Outcome State Fault Refusal :=
  .next (unlessSafe s (completionRecordWrite s queue))

/-- A confirming read behind the host writes of an entry's work fails: the entry is UNDELIVERABLE, and no picot write of the work that
is still held behind them is made (R275, R390). -/
def workUndelivered (s : State) (q e : Nat) : State :=
  let mark := fun p : Picot => if workOf s p.eng = some (q, e) ∧ p.sender.isNone ∧ p.failed.isNone then { p with failed := some .undeliverable } else p
  let s := { s with fab := { s.fab with picots := s.fab.picots.map mark } }
  contribute s q e .undeliverable 0xFFFF

/-- The oldest stitch of a queue that is being read completes with RIGHTS (R383, R615). -/
def stitchRefused (s : State) (q : Nat) : State :=
  match (queue s q).flights.find? (fun f => decide (f.phase = .admitted) && decide (entryOp f.words = 1)) with
  | some f => finishFlight s q f.entry .rights
  | none => s
/-- A front-end read of host memory is refused: the queue whose entry it was to read is in ERROR (R382); a stitch or a descriptor gives
RIGHTS (R383, R615). -/
def feReadError (s : State) (q : Nat) (fetch : Bool) (va : Nat) : State :=
  let x := queue s q
  let st := queueState s q
  if fetch then (if (st = 1 ∨ st = 4) ∧ ringLost x = false ∧ sqHead x ≠ x.tail then queueError (feDone s q) q 2 else s)
  else
    let names := fun ws : List Word => (entryOp ws = 3 || entryOp ws = 4 || entryOp ws = 5) && decide (ent ws 6 ≤ va) && decide (va < ent ws 6 + 128)
    match x.entries with
    | (k, ws) :: _ =>
      if names ws then finishFlight (admitEntry s q k ws [] []) q k .rights
      else stitchRefused s q
    | [] => stitchRefused s q
/-- HOST_READ_ERROR: an engine's read of host memory is refused; it is as an access that lacks its right, counted at the port
(R184, R382, R383, R615). `fetch` tells a core's fetch from its load, and the front end's read of an entry from its other reads. -/
def hostReadError (s : State) (eng : Eng) (q : Nat) (fetch : Bool) (va : Word) : State :=
  let p := hoopPort s (match eng with
    | .lan l | .core l _ | .dma l => (lanternHoop s l).getD 64
    | .mover a m => ((mvJob s a m).map (fun j => j.hoop)).getD 64
    | .coll a m => ((clJob s a m).map (fun j => j.hoop)).getD 64
    | .cse n => (slot s n).hoop
    | _ => queueHoop s q)
  let s := countP s p 7 1
  match eng with
  | .lan l | .dma l => endStrand s l .rights
  | .core l c => coreException s l c (if fetch then 1 else 5) va
  | .mover a m => mvFail s a m .rights
  | .coll a m => runColl (collAbort s a m .rights 0) a m
  | .cse n =>
    match (slot s n).reqs.findIdx? (fun r => r.passing) with
    | some i => modReq s n i (fun r => { r with status := statusMax r.status .rights })
    | none => slotFail s n .rights (csPos (slot s n).desc) none
  | .fe | .host _ => feReadError s q fetch va.toNat
/-- HOST_READ_ERROR. -/
def execHostReadError (eng : Eng) (access : HostRead) (s : State) : Host.Outcome State Fault Refusal :=
  .next (unlessSafe s (hostReadError s eng access.queue access.fetch access.va))

end Sys2Proof.Machine
end

