-- ==== Sys2Proof/Machine/Objects.lean ====
section
/-! DEFINITION. Objects and scheduling (R397 to R432, R613): the commands of contexts, fences and memory objects, the
allocator, swapping, the sampler, and teardown. -/

namespace Sys2Proof.Machine

/-! ### Quotas (R398) -/

/-- Is a hoop's quota of a kind reached: contexts in bits 15:0, fences in 31:16, objects in 63:32; 0 is no limit? -/
def quotaFull (s : State) (h hi lo used : Nat) : Bool :=
  let q := fld (cell s 0x810007 h 0) hi lo
  decide (q ≠ 0) && decide (q ≤ used)
/-- Valid fences of a hoop. -/
def hoopFences (s : State) (h : Nat) : Nat := (s.fences.filter (fun p => p.2.valid && decide (p.2.hoop = h))).length
/-- Live objects of a hoop. -/
def hoopObjs (s : State) (h : Nat) : Nat := (s.objs.filter (fun p => p.2.valid && decide (p.2.hoop = h))).length

/-! ### Memory objects and references (R412, R413) -/

/-- An object ends: VALID clears, and FREE_FENCE is signalled (R413, R613). -/
def endObj (s : State) (o : Nat) : State :=
  let x := obj s o
  let s := setObj s o { x with valid := false, refs := 0 }
  if x.freeFenceEn then commandSignal s x.freeFence x.freeValue false x.via else s
/-- Remove one reference of a context to an object. -/
def unref (s : State) (c o : Nat) : State :=
  let s := modContext s c (fun x => { x with refs := dropFirst (fun r => r = o) x.refs })
  let x := obj s o
  if x.refs ≤ 1 then endObj s o else setObj s o { x with refs := x.refs - 1 }

/-- Make a HEAP object: its row shows its hoop, its owner and its run (R412, R416). -/
def makeHeapObj (s : State) (o h c base len : Nat) : State :=
  let s := setCells s 0x810004 o 0 [wd (h * 2 ^ 56 + c * 2 ^ 46), wd base, wd len, 0]
  setObj s o { objNone with valid := true, heap := true, hoop := h, owner := c, refs := 1, base := base, length := len }

/-- Write RESULT of an object. -/
def objResult (s : State) (o code : Nat) : State := setObj s o { obj s o with result := code }
/-- Does a context accept commands: RESIDENT or SWAPPED? -/
def ctxServing (s : State) (c : Nat) : Bool := ctxState s c = 1 || ctxState s c = 2

/-- The result of OBJECT_COMMAND's checks (R398, R412, R413). The context whose reference comes or goes must be one that
accepts commands. -/
def objectCode (s : State) (who : Req) (w : Word) : Nat :=
  let op := fld w 63 60
  let o := fld w 17 0
  let x := obj s o
  let w0 := cell s 0x810004 o 0
  let h := if op = 1 then fld w0 61 56 else x.hoop
  let c := fld w 29 20
  let holder := if op = 1 then fld w0 55 46 else c
  let foreign := !reqOwns s who h || (!isManager who && !(ctxLive s c && decide ((context s c).hoop = h)))
  if op = 0 ∨ 3 < op ∨ fld w 59 30 ≠ 0 ∨ fld w 19 18 ≠ 0 ∨ (op = 1 ∧ fld (cell s 0x810004 o 1) 63 44 ≠ 0)
      ∨ (op ≠ 1 ∧ x.valid = true ∧ x.heap = true) then 1
  else if foreign then 2
  else if (op = 1 ∧ x.valid = true) ∨ (op ≠ 1 ∧ x.valid = false) ∨ ctxServing s holder = false
      ∨ (op = 3 ∧ (context s c).refs.contains o = false) then 3
  else if (op ≠ 3 ∧ 8192 ≤ (context s holder).refs.length) ∨ (op = 2 ∧ 65535 ≤ x.refs)
      ∨ (op = 1 ∧ quotaFull s h 63 32 (hoopObjs s h) = true) then 4
  else 0

/-- OBJECT_COMMAND (R413). -/
def objectCommand (s : State) (who : Req) (w : Word) : State :=
  let o := fld w 17 0
  let c := fld w 29 20
  let code := objectCode s who w
  let s := objResult s o code
  if code ≠ 0 then s
  else
    match fld w 63 60 with
    | 1 =>
      let w0 := cell s 0x810004 o 0
      let x : Obj := { valid := true, heap := false, hoop := fld w0 61 56, owner := fld w0 55 46, freeFence := fld w0 45 32,
                       freeFenceEn := bit w0 31, result := 0, refs := 1, base := (cell s 0x810004 o 1).toNat,
                       length := (cell s 0x810004 o 2).toNat, freeValue := (cell s 0x810004 o 3).toNat, via := some who }
      modContext (setObj s o x) x.owner (fun y => { y with refs := y.refs ++ [o] })
    | 2 =>
      let x := obj s o
      modContext (setObj s o { x with refs := x.refs + 1 }) c (fun y => { y with refs := y.refs ++ [o] })
    | _ => unref s c o
/-- OBJECT_CREATE. -/
def execObjectCreate (who : Req) (w : Word) (s : State) : Host.Outcome State Fault Refusal :=
  .next (gateWrite s who 0x810005 true (fun s => objectCommand s who (setFld w 63 60 1)))
/-- OBJECT_REF. -/
def execObjectRef (who : Req) (w : Word) (s : State) : Host.Outcome State Fault Refusal :=
  .next (gateWrite s who 0x810005 true (fun s => objectCommand s who (setFld w 63 60 2)))
/-- OBJECT_UNREF. -/
def execObjectUnref (who : Req) (w : Word) (s : State) : Host.Outcome State Fault Refusal :=
  .next (gateWrite s who 0x810005 true (fun s => objectCommand s who (setFld w 63 60 3)))

/-! ### Fences (R403 to R406) -/

/-- Write RESULT of a fence. -/
def fenceResult (s : State) (f code : Nat) : State := setFence s f { fence s f with result := code }
/-- The fence that a row's staged fields make. -/
def stagedFence (s : State) (f : Nat) : Fence :=
  let w := cell s 0x810002 f 0
  { valid := true, error := false, orphan := false, use := fld w 60 59, remote := bit w 58, alias_ := bit w 57,
    hoop := fld w 56 51, owner := fld w 50 41, aliasNode := fld w 40 33, aliasFence := fld w 32 19, result := 0,
    value := (cell s 0x810002 f 3).toNat, discards := 0, init := (cell s 0x810002 f 3).toNat }

/-- The result of FENCE_COMMAND's checks (R398, R403, R404). -/
def fenceCode (s : State) (who : Req) (w : Word) : Nat :=
  let op := fld w 63 60
  let f := fld w 13 0
  let x := fence s f
  let new := stagedFence s f
  let h := if op = 1 then new.hoop else x.hoop
  if op = 0 ∨ 3 < op ∨ fld w 59 14 ≠ 0 ∨ (op = 1 ∧ (new.use = 3 ∨ new.init = allOnes)) then 1
  else if !reqOwns s who h then 2
  else if (op = 1 ∧ x.valid = true) ∨ (op ≠ 1 ∧ (x.valid = false ∨ s.waits.any (fun y => decide (y.fence = f)) = true)) then 3
  else if op = 1 ∧ quotaFull s h 31 16 (hoopFences s h) = true then 4
  else 0

/-- FENCE_COMMAND (R404). -/
def fenceCommand (s : State) (who : Req) (w : Word) : State :=
  let f := fld w 13 0
  let code := fenceCode s who w
  let s := fenceResult s f code
  if code ≠ 0 then s
  else
    let x := fence s f
    match fld w 63 60 with
    | 1 => setFence s f (stagedFence s f)
    | 2 => setFence s f { x with valid := false }
    | _ => setFence s f { x with value := x.init, error := false }
/-- FENCE_ALLOC. -/
def execFenceAlloc (who : Req) (w : Word) (s : State) : Host.Outcome State Fault Refusal :=
  .next (gateWrite s who 0x810003 true (fun s => fenceCommand s who (setFld w 63 60 1)))
/-- FENCE_FREE. -/
def execFenceFree (who : Req) (w : Word) (s : State) : Host.Outcome State Fault Refusal :=
  .next (gateWrite s who 0x810003 true (fun s => fenceCommand s who (setFld w 63 60 2)))
/-- FENCE_RESET. -/
def execFenceReset (who : Req) (w : Word) (s : State) : Host.Outcome State Fault Refusal :=
  .next (gateWrite s who 0x810003 true (fun s => fenceCommand s who (setFld w 63 60 3)))

/-- FENCE_SIGNAL: a signal reaches the fence unit (R405 to R411, R613). -/
def execFenceSignal (fence : Nat) (value : Word) (error : Bool) (via : Option Req) (s : State) :
    Host.Outcome State Fault Refusal := .next (commandSignal s fence value.toNat error via)

/-! ### The allocator (R415 to R417) -/

/-- HEAP_VA, HEAP_LOCAL, HEAP_SIZE and ENABLE of a hoop. -/
def heapRow (s : State) (h : Nat) : Nat × Nat × Nat × Bool :=
  let w (i : Nat) := cell s 0x810006 h i
  ((w 0).toNat, (w 1).toNat, (w 2).toNat, bit (w 3) 0)
/-- Live HEAP objects of a hoop, by slot. -/
def heapObjs (s : State) (h : Nat) : Table Obj := s.objs.filter (fun p => p.2.valid && p.2.heap && decide (p.2.hoop = h))

/-- The lowest offset of a free run of `n` bytes on a multiple of `al` (R416). -/
def heapFit (used : List (Nat × Nat)) (size n al : Nat) : Option Nat :=
  let up (k : Nat) := (k + al - 1) / al * al
  let starts := 0 :: used.map (fun p => up (p.1 + p.2))
  let fits := fun o : Nat => decide (o + n ≤ size) && used.all (fun p => decide (o + n ≤ p.1) || decide (p.1 + p.2 ≤ o))
  (starts.filter fits).foldl (fun best o => match best with
    | none => some o
    | some b => some (min b o)) none

/-- A free object slot; which one the allocator takes is free. -/
def freeObj (s : State) : Option Nat × State :=
  let v := takeFree s
  let k := v.1.toNat % 262144
  if !(obj s k).valid then (some k, v.2) else ((List.range 262144).find? (fun o => !(obj s o).valid), v.2)

/-- Bytes in live HEAP objects of a context. -/
def heapBytes (s : State) (c : Nat) : Nat :=
  ((s.objs.filter (fun p => p.2.valid && p.2.heap && decide (p.2.owner = c))).map (fun p => p.2.length)).foldl (· + ·) 0
/-- Show HEAP_BYTES and HEAP_PEAK (R433). -/
def showHeap (s : State) (c : Nat) : State :=
  let n := heapBytes s c
  setCells s 0x800004 c 4 [wd n, wd (max n (cell s 0x800004 c 5).toNat)]

/-- Allocate bytes for a context (R416): the address, or none. -/
def heapAlloc (s : State) (h c size al : Nat) : Option Nat × State :=
  let s := countHub s 3 1
  let r := heapRow s h
  let n := (size + 63) / 64 * 64
  let used := (heapObjs s h).map (fun p => (p.2.base - r.2.1, p.2.length))
  let fail (s : State) : Option Nat × State := (none, countHub s 4 1)
  if !r.2.2.2 ∨ quotaFull s h 63 32 (hoopObjs s h) = true then fail s
  else
    match heapFit used r.2.2.1 n (2 ^ max 6 al) with
    | none => fail s
    | some off =>
      match freeObj s with
      | (none, s) => fail s
      | (some o, s) =>
        (some (r.1 + off), showHeap (makeHeapObj s o h c (r.2.1 + off) n) c)

/-- End the HEAP object that starts at an address (R417). -/
def heapFree (s : State) (h addr : Nat) : Option State :=
  let r := heapRow s h
  match (heapObjs s h).find? (fun p => decide (addr = r.1 + (p.2.base - r.2.1))) with
  | none => none
  | some p => some (showHeap (endObj s p.1) p.2.owner)

/-- ALLOCATOR_REQUEST: the oldest request is served, and its op or core answered (R132, R181, R416, R417). -/
def allocatorRequest (s : State) : State :=
  match s.allocQ with
  | [] => s
  | r :: rest =>
    let s := { s with allocQ := rest }
    match r with
    | .opAlloc l op h c size al off soft =>
      let here := match (lantern s l).cur with
        | some k => decide (k.ctx = c) && k.busy.contains op
        | none => false
      if !here then s
      else
        let a := heapAlloc s h c size al
        let s := writeScratch a.2 (scratchBase l + off) (leBytes 8 (a.1.getD 0)) false
        if a.1.isNone && !soft then endStrand s l .allocFail else s
    | .coreAlloc l c h ctx size al rd soft =>
      let a := heapAlloc s h ctx size al
      if (core s l c).stall ≠ .alloc then s
      else if a.1.isNone && !soft then endStrand a.2 l .allocFail
      else coreRet a.2 l c rd (wd (a.1.getD 0))
    | .coreFree l c h _ addr =>
      if (core s l c).stall ≠ .alloc then s
      else
        match heapFree (countHub s 3 1) h addr with
        | some s => retire s l c 4 id
        | none => endStrand (countHub s 3 1) l .format
/-- ALLOCATOR_REQUEST. -/
def execAllocatorRequest (s : State) : Host.Outcome State Fault Refusal := .next (unlessSafe s (allocatorRequest s))

/-- Does a run of local addresses lie wholly in the bound memory of channel units bound to a hoop (R415)? -/
def unitRun (s : State) (h a n : Nat) : Bool :=
  decide (a + n ≤ 0xC000000000) && (cut 0x40000000 a n).all (fun p =>
    hoopBindsAddr s h p.1 && hoopBindsAddr s h (p.1 + p.2 - 1))

/-- The result of a write of a HEAP_CONFIG row (R415): 4 NOT_PERMITTED, 9 RANGE, 10 STATE. -/
def heapConfigCode (s : State) (who : Req) (h : Nat) (ws : List Word) : Nat :=
  let w (i : Nat) := (wordAt ws i).toNat
  if 64 ≤ h ∨ reqOwns s who h = false then 4
  else if w 0 % 0x200000 ≠ 0 ∨ w 2 % 0x200000 ≠ 0 ∨ (bit (wordAt ws 3) 0 = true ∧ unitRun s h (w 1) (w 2) = false) then 9
  else if (heapObjs s h).isEmpty then 0
  else 10
/-- HEAP_CONFIG_WRITE. -/
def heapConfigWrite (s : State) (who : Req) (h : Nat) (ws : List Word) : State :=
  let code := heapConfigCode s who h ws
  let s := result s code
  if code ≠ 0 then s
  else setCells s 0x810006 h 0 [wordAt ws 0, wordAt ws 1, wordAt ws 2, wd (fld (wordAt ws 3) 0 0)]
/-- HEAP_CONFIG_WRITE. -/
def execHeapConfigWrite (who : Req) (hoop : Nat) (w0 w1 w2 w3 : Word) (s : State) : Host.Outcome State Fault Refusal :=
  .next (gateWrite s who 0x810006 true (fun s => heapConfigWrite s who hoop [w0, w1, w2, w3]))

/-! ### Residency and swapping (R402, R420, R423 to R427) -/

/-- Write STATE of CONTEXT_STATUS. -/
def setCtxState (s : State) (c st : Nat) : State := setRegFld s 0x800003 c 63 60 st
/-- Resident contexts of a hoop. -/
def residents (s : State) (h : Nat) : List Nat := (hoopCtxs s h).filter (ctxResident s)
/-- Does the hoop's sampler table in force name a context (R429)? -/
def isPinned (s : State) (c : Nat) : Bool :=
  match (hoop s (context s c).hoop).sampler with
  | none => false
  | some t => t.slots.any (fun w => decide (w / 2 ^ 21 % 2 = 0) && decide (w / 2 ^ 22 % 1024 = c))

/-- Is a context's swap image in use? -/
def imageUsed (x : Context) : Bool := x.image.isSome && (x.leaving || !x.saved.isEmpty)
/-- The lowest free image of a hoop's swap area. -/
def freeImage (s : State) (h : Nat) : Option Nat :=
  let used := (s.ctxs.filter (fun p => decide (p.2.hoop = h) && imageUsed p.2)).filterMap (fun p => p.2.image)
  (List.range (cell s 0x800007 h 1).toNat).find? (fun k => !used.contains k)
/-- Count in SCHED_COUNTERS: 0 swap-outs, 1 swap-ins, 2 idle replacements, 3 swap stalls. -/
def schedCount (s : State) (h i : Nat) : State := addCell s 0x800008 h i 1

/-- A context becomes SWAPPED without a save or after one. -/
def leaveResidence (s : State) (c : Nat) : State := setRegFld (setCtxState s c 2) 0x800003 c 59 56 0
/-- A context becomes RESIDENT (R420, R425). -/
def takeResidence (s : State) (c : Nat) : State :=
  let h := (context s c).hoop
  let s := modHoop s h (fun x => { x with stuck := x.stuck.filter (fun o => decide (o ≠ c)) })
  let s := modContext (setCtxState s c 1) c (fun x => { x with since := wick s })
  showActivity (raiseV s c) c

/-- The context that has been in its activity longest among some, ties to the lower number. -/
def longest (s : State) (cs : List Nat) : Option Nat :=
  cs.foldl (fun best c => match best with
    | none => some c
    | some b => if (context s c).since < (context s b).since then some c else some b) none

/-- Begin the swap-out of a BLOCKED context, or count a stall when there is no image (R423, R424). -/
def beginLeave (s : State) (h c : Nat) : State :=
  match freeImage s h with
  | none => schedCount s h 3
  | some k => modContext s c (fun x => { x with image := some k, leaving := true })

/-- Could the entry at the front of some queue of a SWAPPED context be admitted if it were RESIDENT? -/
def couldAdmit (s : State) (c : Nat) : Bool :=
  let s := setCtxState s c 1
  (ctxQueues s c).any (frontAdmissible s)
/-- Is a fence wait of a saved strand satisfied now? -/
def savedMet (s : State) (c : Nat) : Bool :=
  (context s c).saved.any (fun v => v.waits.any (fun w => waitMet (fence s w.1).value w.2 false))

/-- Contexts of a hoop that may be taken: resident, not pinned. -/
def takeable (s : State) (h : Nat) : List Nat := (residents s h).filter (fun c => !isPinned s c)
/-- Serve the SWAPPED context that became stuck first (R423). -/
def serveStuck (s : State) (h : Nat) : State :=
  match (hoop s h).stuck with
  | [] => s
  | c :: _ =>
    if (hoopCtxs s h).any (fun o => (context s o).leaving) then s
    else
      let idle := (takeable s h).filter (fun o => activity s o = 0 && (ctxLanterns s o).isEmpty)
      match longest s idle with
      | some v => takeResidence (schedCount (leaveResidence s v) h 2) c
      | none =>
        match longest s ((takeable s h).filter (fun o => activity s o = 3)) with
        | some v => beginLeave s h v
        | none => s

/-- The stitch of a resident context that would be chosen next: the one admitted first. -/
def nextStaged (s : State) (c : Nat) : Option Flight :=
  let all := (ctxQueues s c).flatMap (fun q => (queue s q).flights.filter (fun f => decide (f.phase = .staged)))
  all.foldl (fun best f => match best with
    | none => some f
    | some b => if f.start < b.start then some f else some b) none
/-- The BLOCKED contexts that hold a lantern without room that a stitch needs, for as long as SWAP_AFTER_US. -/
def holders (s : State) (h : Nat) (f : Flight) : List Nat :=
  let names := (f.stitch.map (fun t => (stitchNames s h t).filterMap id)).getD []
  let after := 1000 * regN s 0x800009 0
  let cs := names.filterMap (fun l => if runRoom s l then none else (lantern s l).cur.map (fun r => r.ctx))
  (takeable s h).filter (fun o => cs.contains o && activity s o = 3
    && decide (max f.start (context s o).since + after ≤ wick s))

/-- CONTEXT_STUCK: a stuck context is helped, if it is stuck (R423). -/
def contextStuck (s : State) (c : Nat) : State :=
  let h := (context s c).hoop
  if ctxState s c = 2 then
    let rs := residents s h
    if decide (16 ≤ rs.length) && rs.all (fun o => activity s o = 3 || activity s o = 0)
        && (couldAdmit s c || savedMet s c) then
      let s := if (hoop s h).stuck.contains c then s else modHoop s h (fun x => { x with stuck := x.stuck ++ [c] })
      serveStuck s h
    else s
  else if ctxState s c = 1 then
    match nextStaged s c with
    | none => s
    | some f =>
      if (hoopCtxs s h).any (fun o => (context s o).leaving) then s
      else
        match longest s ((holders s h f).filter (fun o => decide (o ≠ c))) with
        | some v =>
          let s := beginLeave s h v
          if (context s v).leaving then modHoop s h (fun x => { x with favored := some c }) else s
        | none => s
  else s
/-- CONTEXT_STUCK. -/
def execContextStuck (ctx : Nat) (s : State) : Host.Outcome State Fault Refusal := .next (unlessSafe s (contextStuck s ctx))

/-- Has a lantern no op in progress but waits, its writes acknowledged (R424 step 2)? -/
def lanternStill (s : State) (l : Nat) (r : Running) : Bool :=
  let x := lantern s l
  let tile := !r.begun && r.busy.all (fun i => r.waiting && r.waitOp == some i)
  let cores := x.cores.all (fun c => !c.on || decide (c.stall ≠ .alloc)) && x.dma.all (fun d => !d.running || d.waiting)
  let quiet := !engBusy s (.lan l) && !engBusy s (.dma l) && !(List.range 8).any (fun c => engBusy s (.core l c))
  tile && cores && quiet

/-- The fence waits registered by a lantern. -/
def lanternWaits (s : State) (l : Nat) : List (Nat × Nat) :=
  (s.waits.filter (fun w => match w.who with
    | .lan o => decide (o = l)
    | .core o _ => decide (o = l)
    | .dma o _ _ => decide (o = l)
    | _ => false)).map (fun w => (w.fence, w.value))

/-- The state of a lantern that goes into an image; an abandoned wait is to run again (R187, R424, R425). -/
def saveLantern (s : State) (l : Nat) (r : Running) : Saved :=
  let x := lantern s l
  let base := scratchBase l
  let inside := fun a : Nat => decide (base ≤ a) && decide (a < base + scratchSize (lanKind l))
  let run : Running := if r.waiting then { r with busy := [], waitOp := none, waiting := false, pos := r.waitOp.getD r.pos }
    else { r with busy := [], waitOp := none }
  let unstall := fun c : Core => match c.stall with
    | .fence _ _ _ => { c with stall := .none }
    | _ => c
  { l := l, running := run,
    scratch := (s.mem.cells.filter (fun p => inside p.1)).map (fun p => (p.1 - base, p.2)),
    poison := (s.mem.scratchPoison.filter inside).map (fun a => a - base),
    engines := x.engines, chain := x.chain, cores := x.cores.map unstall,
    dma := x.dma.map (fun d => if d.waiting then { d with running := false, issued := false, waiting := false } else d),
    waits := lanternWaits s l }

/-- Save one lantern of a context and release it (R419, R421, R424). -/
def swapLantern (s : State) (c l : Nat) (r : Running) : State :=
  let v := saveLantern s l r
  let s := releaseLantern (dropWaits s l) l
  let s := chargeLantern s c (lanKind l) r.since
  let s := modContext s c (fun x => { x with saved := x.saved ++ [v] })
  modLantern s l (fun x => { x with
    cur := none, engines := [none, none, none, none], chain := [[], [], [], []], idleAt := wick s, dma := [],
    cores := x.cores.map (fun k => { coreOff with l1 := k.l1, il1 := k.il1 }) })

/-- SWAP_OUT: a context whose swap-out has begun, its ops in progress done, is saved and becomes SWAPPED (R424); one that a sampler table
has come to name stays (R429). The image is written under the hoop's HOUSE_CLASS (R435), behind its quarter's clocks (R53). -/
def swapOut (s : State) (c : Nat) : State :=
  let x := context s c
  let h := x.hoop
  let ls := ctxLanterns s c
  if !x.leaving || ctxState s c ≠ 1 then s
  else if isPinned s c then modContext s c (fun x => { x with leaving := false, image := if x.saved.isEmpty then none else x.image })
  else if !ls.all (fun p => lanternStill s p.1 p.2.2) then s
  else
    match needClock s (addrQuarter (swapImage s c)) with
    | .ok _ s =>
      let s := swapTraffic s c 1 ((ls.map (fun p => strandBytes (lanKind p.1))).sum)
      let s := ls.foldl (fun s p => swapLantern s c p.1 p.2.2) s
      let s := modContext s c (fun x => { x with leaving := false })
      let w7 := cell s 0x800004 c 7
      let s := setCell s 0x800004 c 7 (setFld w7 31 0 (fld w7 31 0 + 1))
      showHoop (schedCount (leaveResidence s c) h 0) h
    | o => o.state
/-- SWAP_OUT. -/
def execSwapOut (ctx : Nat) (s : State) : Host.Outcome State Fault Refusal := .next (unlessSafe s (swapOut s ctx))

/-- SWAP_IN: a SWAPPED context becomes RESIDENT when its hoop has room, stuck ones first and in order; its saved strands
are placed at the next choice (R423, R425). -/
def swapIn (s : State) (c : Nat) : State :=
  let h := (context s c).hoop
  let turn := match (hoop s h).stuck with | o :: _ => decide (o = c) | [] => true
  if ctxState s c = 2 ∧ (residents s h).length < 16 ∧ turn = true then schedCount (takeResidence s c) h 1 else s
/-- SWAP_IN. -/
def execSwapIn (ctx : Nat) (s : State) : Host.Outcome State Fault Refusal := .next (unlessSafe s (swapIn s ctx))

/-- The result of a write of a SWAP_AREA row (R427): 4 NOT_PERMITTED, 9 RANGE, 10 STATE. -/
def swapAreaCode (s : State) (who : Req) (h : Nat) (ws : List Word) : Nat :=
  let a := (wordAt ws 0).toNat
  let n := (wordAt ws 1).toNat
  if 64 ≤ h ∨ reqOwns s who h = false then 4
  else if a % 0x100000 ≠ 0 ∨ 1008 < n ∨ (0 < n ∧ unitRun s h a (n * imageBytes (hoop s h).desc) = false) then 9
  else if (hoopCtxs s h).any (fun c => imageUsed (context s c)) then 10
  else 0
/-- SWAP_AREA_WRITE. -/
def swapAreaWrite (s : State) (who : Req) (h : Nat) (ws : List Word) : State :=
  let code := swapAreaCode s who h ws
  let s := result s code
  if code ≠ 0 then s
  else
    let n := (wordAt ws 1).toNat
    let s := setCells s 0x800007 h 0 [wordAt ws 0, wordAt ws 1]
    if hoopState s h = 0 then s else modHoop s h (fun x => { x with swapBytes := n * imageBytes x.desc })
/-- SWAP_AREA_WRITE. -/
def execSwapAreaWrite (who : Req) (hoop : Nat) (w0 w1 : Word) (s : State) : Host.Outcome State Fault Refusal :=
  .next (gateWrite s who 0x800007 true (fun s => swapAreaWrite s who hoop [w0, w1]))

/-! ### The sampler (R428 to R430) -/

/-- The slots of a table as written. -/
def samplerSlots (s : State) (first count : Nat) : List Nat :=
  (List.range count).map (fun i => (cell s 0x800005 (first + i) 0).toNat)
/-- The context that a slot names. -/
def slotNames (w : Nat) : Option Nat := if w / 2 ^ 21 % 2 = 1 then none else some (w / 2 ^ 22 % 1024)
/-- Remove repeats. -/
def distinct : List Nat → List Nat
  | [] => []
  | x :: rest => if rest.contains x then distinct rest else x :: distinct rest
/-- The rules of a table's slots (R428, R429), the contexts apart. -/
def slotsOk (slots : List Nat) : Bool :=
  let d := slots.map (fun w => w % 2 ^ 17)
  !slots.isEmpty && slots.all (fun w => decide (w / 2 ^ 17 % 16 = 0)) && d.all (fun n => decide (1 ≤ n) && decide (n ≤ 100000)) && decide (d.foldl (· + ·) 0 ≤ 100000)
    && decide ((distinct (slots.filterMap slotNames)).length ≤ 8)
/-- Is a context a live one of a hoop? -/
def ctxOf (s : State) (h c : Nat) : Bool := ctxLive s c && decide ((context s c).hoop = h)

/-- The result of a write of a SAMPLER_CONTROL row: ENABLE in bit 63, FIRST in 24:16, COUNT in 9:0 of W0; START in W1. -/
def samplerCode (s : State) (who : Req) (h : Nat) (ws : List Word) : Nat :=
  let w0 := wordAt ws 0
  let slots := samplerSlots s (fld w0 24 16) (fld w0 9 0)
  if 64 ≤ h ∨ reqOwns s who h = false then 4
  else if 512 < fld w0 24 16 + fld w0 9 0
      ∨ ((bit w0 63 || !slots.isEmpty) = true ∧ (slotsOk slots && (slots.filterMap slotNames).all (ctxOf s h)) = false) then 9
  else 0
/-- SAMPLER_CONTROL_WRITE: staged, with the time of the write, for the next period boundary (R429). -/
def samplerControlWrite (s : State) (who : Req) (h : Nat) (ws : List Word) : State :=
  let code := samplerCode s who h ws
  let s := result s code
  if code ≠ 0 then s
  else
    let w0 := wordAt ws 0
    let w0 := wd (fld w0 63 63 * 2 ^ 63 + fld w0 24 16 * 2 ^ 16 + fld w0 9 0)
    let s := setCells s 0x800006 h 0 [w0, wordAt ws 1]
    if hoopState s h = 0 then s else modHoop s h (fun x => { x with samplerNew := some [w0, wordAt ws 1, wd (wick s)] })
/-- SAMPLER_CONTROL_WRITE. -/
def execSamplerControlWrite (who : Req) (hoop : Nat) (w0 w1 : Word) (s : State) : Host.Outcome State Fault Refusal :=
  .next (gateWrite s who 0x800006 true (fun s => samplerControlWrite s who hoop [w0, w1]))

/-- Show PINNED for every context of a hoop. -/
def showPinned (s : State) (h : Nat) : State :=
  (hoopCtxs s h).foldl (fun s c => setRegFld s 0x800003 c 51 51 (b1 (isPinned s c))) s
/-- A slot that names a context that is FREE acts as OPEN (R432). -/
def openSlot (s : State) (w : Nat) : Nat :=
  match slotNames w with
  | some c => if ctxLive s c then w else w + 2 ^ 21
  | none => w
/-- Bring pinned contexts that are SWAPPED in, ahead of those that are stuck (R429). -/
def bringPinned (s : State) (h : Nat) : State :=
  ((hoopCtxs s h).filter (fun c => isPinned s c && ctxState s c = 2)).foldl (fun s c =>
    if (residents s h).length < 16 then schedCount (takeResidence s c) h 1
    else
      serveStuck (modHoop s h (fun x => { x with stuck := c :: x.stuck.filter (fun o => decide (o ≠ c)) })) h) s

/-- The time that slots take, in ns: units of 10 µs (R428). -/
def slotsTime (slots : List Nat) : Nat := 10000 * (slots.map (fun w => w % 2 ^ 17)).sum
/-- The period of a table that the time lies in begins at START + k times the period (R429). -/
def periodBegan (s : State) (start : Nat) (slots : List Nat) : Nat :=
  start + (wick s - start) / slotsTime slots * slotsTime slots
/-- Has a period boundary come: the end of the period of the table in force, or with none in force the first boundary of the written
one, START + k times its period, from the write on (R429)? -/
def periodOver (s : State) (h : Nat) (ws : List Word) (slots : List Nat) : Bool :=
  match (hoop s h).sampler with
  | some t => decide (t.began + slotsTime t.slots ≤ wick s)
  | none => !bit (wordAt ws 0) 63 || decide ((wordAt ws 2).toNat ≤ periodBegan s (wordAt ws 1).toNat slots)
/-- The table in force begins its next period (R429). -/
def nextPeriod (s : State) (t : Sampler) : Sampler := { t with cur := 0, began := periodBegan s t.start t.slots }

/-- SAMPLER_PERIOD: at a period boundary the staged control row and the table's slots come into force, when START has come; slots that
break R428 leave the old table (R429). Before the boundary it changes nothing. -/
def samplerPeriod (s : State) (h : Nat) : State :=
  let x := hoop s h
  let row := match x.samplerNew with
    | some ws => some ws
    | none => x.sampler.map (fun t : Sampler => [wd (2 ^ 63 + t.first * 2 ^ 16 + t.count), wd t.start])
  match row with
  | none => s
  | some ws =>
    let w0 := wordAt ws 0
    let start := (wordAt ws 1).toNat
    let kept := x.sampler.map (nextPeriod s)
    let slots := (samplerSlots s (fld w0 24 16) (fld w0 9 0)).map (openSlot s)
    if periodOver s h ws slots = false then s
    else if bit w0 63 = true ∧ wick s < start then
      if x.sampler.isNone then s else modHoop s h (fun x => { x with sampler := kept })
    else
      let first := fld w0 24 16
      let count := fld w0 9 0
      let table : Sampler := { first := first, count := count, start := start, began := periodBegan s start slots, slots := slots, cur := 0 }
      let new := if !bit w0 63 then none else if slotsOk slots && (slots.filterMap slotNames).all (ctxOf s h) then some table else kept
      let s := modHoop s h (fun x => { x with sampler := new, samplerNew := none })
      showPinned (bringPinned s h) h
/-- SAMPLER_PERIOD. -/
def execSamplerPeriod (hoop : Nat) (s : State) : Host.Outcome State Fault Refusal := .next (unlessSafe s (samplerPeriod s hoop))

/-- Has the current slot of a table run its DURATION (R428)? -/
def slotOver (s : State) (t : Sampler) : Bool := decide (t.began + slotsTime (t.slots.take (t.cur + 1)) ≤ wick s)
/-- SAMPLER_SLOT: when the current slot is over, the next slot of the period begins; the scheduler's next choices follow it (R430). -/
def samplerSlot (s : State) (h : Nat) : State :=
  match (hoop s h).sampler with
  | none => s
  | some t =>
    if slotOver s t && decide (t.cur + 1 < t.slots.length) then
      modHoop s h (fun x => { x with sampler := some { t with cur := t.cur + 1 } })
    else s
/-- SAMPLER_SLOT. -/
def execSamplerSlot (hoop : Nat) (s : State) : Host.Outcome State Fault Refusal :=
  .next (unlessSafe s (samplerSlot s hoop))

/-! ### Contexts (R399 to R402, R432) -/

/-- Write RESULT of CONTEXT_STATUS. -/
def ctxResult (s : State) (c code : Nat) : State := setRegFld s 0x800003 c 55 52 code

/-- The result of CONTEXT_COMMAND's checks (R398 to R401). -/
def contextCode (s : State) (who : Req) (w : Word) : Nat :=
  let op := fld w 63 60
  let c := fld w 9 0
  let row := rowWords s 0x800001 c 2
  let w0 := wordAt row 0
  let st := ctxState s c
  let h := if op = 2 ∧ st ≠ 0 then (context s c).hoop else fld w0 55 50
  let f := fence s (fld w 45 32)
  if op = 0 ∨ 2 < op ∨ (op = 1 ∧ bit w 59 = true) ∨ fld w 58 46 ≠ 0 ∨ fld w 31 10 ≠ 0 ∨ (op = 1 ∧ (fld w0 63 56 ≠ 1 ∨ fld w0 23 0 ≠ 0))
      ∨ (op = 2 ∧ bit w 59 = true ∧ f.valid = true ∧ f.owner = c) then 1
  else if !reqOwns s who h then 2
  else if (op = 1 ∧ st ≠ 0) ∨ (op = 2 ∧ (st = 0 ∨ st = 3)) then 3
  else if op = 1 ∧ hoopState s h ≠ 1 then 4
  else if op = 1 ∧ quotaFull s h 15 0 (hoopCtxs s h).length = true then 5
  else 0

/-- CREATE's effect: the context is RESIDENT when the hoop has fewer than 16, its usage is cleared (R402, R420, R433). -/
def createContext (s : State) (c : Nat) : State :=
  let w0 := cell s 0x800001 c 0
  let h := fld w0 55 50
  let room := decide ((residents s h).length < 16)
  let s := setContext s c { ctxFree with hoop := h, aspace := fld w0 49 40, share := fld w0 39 24, since := wick s }
  let s := setCells s 0x800004 c 0 [0, 0, 0, 0, 0, 0, 0, 0]
  let s := setCell s 0x800003 c 0 (wd (if room then 2 ^ 60 else 2 * 2 ^ 60))
  if room then raiseV s c else s

/-- Sequence slots of a context. -/
def ctxSlots (s : State) (c : Nat) : List Nat := (s.slots.filter (fun p => decide (p.2.ctx = c))).map (fun p => p.1)

/-- Stop everything a context has in flight (R432 steps 1 and 2): its queues end without a destroy record, its slots close,
its saved images and parked accesses are discarded. Each stopped entry takes a status. -/
def stopContext (s : State) (c : Nat) (st : Status) : State :=
  let s := (ctxQueues s c).foldl (fun s q =>
    let s := if queueState s q = 4 then modQueue s q (fun x => { x with
        destroy := x.destroy.map (fun d => { d with abort := true, silent := true }) })
      else beginDestroy s q { abort := true, fence := none, via := none, tail := 0, was := 0, silent := true, lost := false }
    showQueue (abortQueue s q st) q) s
  let s := (ctxSlots s c).foldl closeSlot s
  let s := dropCtxX s c
  modContext s c (fun x => { x with saved := [], image := none, leaving := false })

/-- TEARDOWN begins (R432). -/
def beginTeardown (s : State) (c : Nat) (st : Status) (f : Option (Nat × Option Req)) : State :=
  let h := (context s c).hoop
  let s := setRegFld (setCtxState s c 3) 0x800003 c 59 56 0
  let s := modContext s c (fun x => { x with tearFence := f })
  let s := modHoop s h (fun x => { x with stuck := x.stuck.filter (fun o => decide (o ≠ c)) })
  stopContext s c st

/-- CONTEXT_COMMAND (R400, R401). -/
def contextCommand (s : State) (who : Req) (w : Word) : State :=
  let c := fld w 9 0
  let code := contextCode s who w
  let s := ctxResult s c code
  if code ≠ 0 then s
  else if fld w 63 60 = 1 then createContext s c
  else beginTeardown s c .aborted (if bit w 59 then some (fld w 45 32, some who) else none)
/-- CONTEXT_CREATE. -/
def execContextCreate (who : Req) (w : Word) (s : State) : Host.Outcome State Fault Refusal :=
  .next (gateWrite s who 0x800002 true (fun s => contextCommand s who (setFld w 63 60 1)))
/-- CONTEXT_TEARDOWN. -/
def execContextTeardown (who : Req) (w : Word) (s : State) : Host.Outcome State Fault Refusal :=
  .next (gateWrite s who 0x800002 true (fun s => contextCommand s who (setFld w 63 60 2)))

/-- Has all work of a context come to its end: records dealt with, lanterns, engines and slots at rest? -/
def ctxStopped (s : State) (c : Nat) : Bool :=
  (ctxQueues s c).all (fun q => queueDrained (queue s q)) && (ctxLanterns s c).isEmpty
    && !s.movers.any (fun p => decide (p.2.ctx = c)) && !s.moverQ.any (fun p => decide (p.2.ctx = c))
    && !s.colls.any (fun p => decide (p.2.ctx = c)) && (ctxSlots s c).all (slotQuiet s)
    && !(outstanding s).any (fun r => decide (r.ctx = c))

/-- Free a queue that ends without a destroy record; a fence that an earlier DESTROY named is signalled. -/
def freeSilent (s : State) (q : Nat) : State :=
  let f := (queue s q).destroy.bind (fun d => d.fence.map (fun f => (f, d.via)))
  let s := freeQueue s q
  match f with | some f => namedSignal s f.1 f.2 | none => s

/-- Steps 3 to 5 of a teardown: the context's fences are error-signalled, its references and HEAP objects end (R432). -/
def dropHoldings (s : State) (c : Nat) : State :=
  let mine := (s.fences.filter (fun p => p.2.valid && decide (p.2.owner = c))).map (fun p => p.1)
  let s := mine.foldl (fun s f =>
    let s := commandSignal s f allOnes true none
    setFence s f { fence s f with orphan := true }) s
  let s := (context s c).refs.foldl (fun s o => unref s c o) s
  let heaps := (s.objs.filter (fun p => p.2.valid && p.2.heap && decide (p.2.owner = c))).map (fun p => p.1)
  showHeap (heaps.foldl endObj s) c

/-- No lantern's last strand is taken for one of a context that comes to bear this number (R110). -/
def forgetCtx (s : State) (c : Nat) : State :=
  { s with lan := s.lan.map (fun p => (p.1, if p.2.lastCtx = some c then { p.2 with lastCtx := none } else p.2)) }
/-- The address that a thing which a slot has yet to write or send goes to. -/
def outVa (x : Slot) (o : SlotOut) : Option Nat :=
  match o with
  | .fail down _ _ => some (wordAt x.desc (if down then 9 else 10)).toNat
  | .w7 num _ _ => some (entryW6 x num + 8)
  | .record _ _ => some (wordAt x.desc 7).toNat
  | .signal => none
/-- Has a slot's access for one of those things parked? -/
def outParked (s : State) (n : Nat) (o : SlotOut) : Bool :=
  match outVa (slot s n) o with
  | some va => s.rng.xreqs.any (fun y => xParked y && xCovers y (slotAcc n (slot s n)) (va % 2 ^ 57))
  | none => false
/-- A closing slot of a context that is torn down does what it has yet to do; an access of it that parks is discarded, as the context's
parked accesses are, and the rest follows (R228, R229, R432). -/
def endSlotFuel : Nat → State → Nat → State
  | 0, s, _ => s
  | fuel + 1, s, n =>
    let s := payOut s n
    match (slot s n).out.findIdx? (outParked s n) with
    | some i => endSlotFuel fuel (modSlot (dropEngX s (.cse n)) n (fun x => { x with out := x.out.eraseIdx i })) n
    | none => s
/-- The same, for all that the slot has. -/
def endSlot (s : State) (n : Nat) : State := endSlotFuel ((slot s n).out.length + 1) s n
/-- TEARDOWN_DONE: with its work at rest the queues and slots are FREE, what it held is released, and the context is FREE
(R432). -/
def teardownDone (s : State) (c : Nat) : State :=
  let s := if ctxState s c = 3 then (ctxSlots s c).foldl endSlot s else s
  let byReset := s.snuffer.resets.any (fun r => decide (r.phase ≠ 0) && decide (3 ≤ r.level) && resetContains s r 1 c)
  if ctxState s c ≠ 3 || !ctxStopped s c || byReset then s
  else
    let x := context s c
    let h := x.hoop
    let s := (ctxQueues s c).foldl freeSilent s
    let s := (ctxSlots s c).foldl freeSlot s
    let s := dropHoldings s c
    let s := modHoop s h (fun y => { y with sampler := y.sampler.map (fun t =>
      { t with slots := t.slots.map (fun w => if slotNames w = some c then w + 2 ^ 21 else w) }) })
    let s := setCell (forgetCtx { s with ctxs := tdel s.ctxs c } c) 0x800003 c 0 0
    match x.tearFence with
    | some f => namedSignal s f.1 f.2
    | none => s
/-- TEARDOWN_DONE. -/
def execTeardownDone (ctx : Nat) (s : State) : Host.Outcome State Fault Refusal := .next (unlessSafe s (teardownDone s ctx))

end Sys2Proof.Machine
end

