-- ==== Sys2Proof/Machine/Reset.lean ====
section
/-! DEFINITION. Hang detectors (R505), the reset ladder (R506 to R517) and the crash dump (R518 to R524). -/

namespace Sys2Proof.Machine

/-! ### Views (R339, R396, R403) -/

/-- EYELET_STATE of an eyelet: the receive lane map, peer, spare, lanes, version and link. -/
def eyeletState (s : State) (e : Nat) : Nat :=
  let y := eyelet s e
  let map := (y.rxMap.take 8).zipIdx.map (fun p => p.1 % 16 * 2 ^ (24 + 4 * p.2))
  map.foldl (· + ·) 0 + y.peer % 256 * 2 ^ 16 + b1 (y.rxSpare || y.txSpare) * 2 ^ 10 + y.activeLanes % 16 * 2 ^ 6
    + y.version % 4 * 2 ^ 4 + y.state % 16
/-- LINK_STATE of a host port. -/
def linkState (s : State) (p : Nat) : Nat :=
  let x := port s p
  if x.trained then
    b1 (x.ideLink || !x.ideSel.isEmpty) * 2 ^ 12 + b1 x.cxl * 2 ^ 11 + b1 x.flit * 2 ^ 10 + x.width % 64 * 2 ^ 4 + x.speed % 4
  else 0
/-- A FENCE_TABLE row as it reads: RW fields as written, RO fields as they stand (R403). -/
def fenceRow (s : State) (f : Nat) : List Word :=
  let x := fence s f
  let rw := cell s 0x810002 f 0
  [wd (b1 x.valid * 2 ^ 63 + b1 x.error * 2 ^ 62 + b1 x.orphan * 2 ^ 61 + fld rw 60 19 * 2 ^ 19 + x.result % 8 * 2 ^ 16),
    wd x.value, wd x.discards, cell s 0x810002 f 3]

/-! ### The crash dump (R518 to R524) -/

/-- Lay byte strings out at rising offsets, with zeros between them and up to `total`. -/
def fillParts : Nat → Nat → List (Nat × List Byte) → List Byte
  | pos, total, [] => List.replicate (total - pos) 0
  | pos, total, (at_, bs) :: rest => List.replicate (at_ - pos) 0 ++ bs ++ fillParts (max pos at_ + bs.length) total rest
/-- A record of fields (value, bytes), padded to a size. -/
def dumpRecord (size : Nat) (fields : List (Nat × Nat)) : List Byte := padTo size (fields.flatMap (fun p => leBytes p.2 p.1))
/-- A free value of the dump. -/
def dumpFree (s : State) (k : Nat) : Nat := (Config.freeValue (s.free + k)).toNat

/-- Requests and translations of an engine. -/
def tagsOf (s : State) (own : Eng → Bool) : Nat :=
  ((outstanding s).filter (fun r => own r.eng)).length + (s.rng.xreqs.filter (fun x => own x.eng)).length
/-- Is an engine part of a lantern? -/
def engOnLan (l : Nat) (e : Eng) : Bool :=
  match e with
  | .lan o | .core o _ | .dma o => decide (o = l)
  | _ => false
/-- Logical lanterns in the order of the summary: by quarter, then M, V and S. -/
def dumpLanterns : List Nat :=
  (List.range 4).flatMap (fun q => (List.range 3).flatMap (fun k => (List.range (kindCount k)).map (lanId q k)))

/-- A lantern's record (R520). The op in progress is the oldest that has issued and not completed, else the one at the strand's position; of
ops past the first 64 the lantern keeps the word it read last. The age of its heartbeat is free: heartbeats are not modelled (log 191). -/
def lanternRecord (s : State) (l k : Nat) : List Byte :=
  let x := lantern s l
  let code := if x.fenced || lanternResetting s l then 3 else
    match x.power with | .cold | .waking true => 0 | .retained | .waking false => 1 | .awake => 2
  let r := x.cur
  let ref : StrandRef := (r.map (fun r => r.ref)).getD { queue := 0, entry := 0, idx := 0 }
  let at_ := (r.map (fun r => r.busy.foldl min r.pos)).getD 0
  let op := match r with
    | some r => match strandOf s r with
      | some (_, d) => (if at_ < 64 then wordAt (d.first.getD at_ []) 0 else r.opWord).toNat
      | none => 0
    | none => 0
  dumpRecord 64 [(physId s l, 2), (code, 1), ((lanternHoop s l).getD 0, 1), ((r.map (fun r => r.ctx)).getD 0, 2),
    (ref.queue, 2), (ref.entry, 4), (at_, 2), (tagsOf s (engOnLan l), 2), (replayUsed s l, 1),
    (0, 3), (op, 8), (x.opDone, 8), (dumpFree s k, 4)]

/-- A quarter engine's record (R520); its state code is free. -/
def engineRecord (s : State) (q i k : Nat) : List Byte :=
  let e : Eng := if i < 16 then .mover q i else if i < 18 then .coll q (i - 16) else .cse (64 * q)
  let own (o : Eng) : Bool := match e, o with
    | .cse a, .cse b => decide (a / 64 = b / 64)
    | a, b => decide (a = b)
  let (h, c, qu, en, done) : Nat × Nat × Nat × Nat × Nat :=
    if i < 16 then match mvJob s q i with
      | some j => (j.hoop, j.ctx, j.queue, j.entry, j.put)
      | none => (0, 0, 0, 0, 0)
    else if i < 18 then match clJob s q (i - 16) with
      | some j => (j.hoop, j.ctx, j.queue, j.entry, j.next)
      | none => (0, 0, 0, 0, 0)
    else (0, 0, 0, 0, 0)
  dumpRecord 32 [(engCode e, 2), (dumpFree s k, 1), (h, 1), (c, 2), (qu, 2), (en, 4), (done, 4), (tagsOf s own, 2)]

/-- Fences with a registered waiter, ascending. -/
def waitedFences (s : State) : List Nat := s.waits.foldl (fun fs w => insertNat fs w.fence) []
/-- A waited fence's record (R520). -/
def waitedRecord (s : State) (f : Nat) : List Byte :=
  let x := fence s f
  let n := (s.waits.filter (fun w => decide (w.fence = f))).length
  dumpRecord 16 [(f, 2), (b1 x.error + 2 * b1 x.orphan + 4 * (x.use % 4), 1), (min n 255, 1), (0, 4), (x.value, 8)]

/-- A port's record (R520): eyelets, then the host ports, whose requests outstanding are their confirming reads, and whose replay and CRC
counts are free. -/
def portRecord (s : State) (p : Nat) : List Byte :=
  if p < 8 then
    let n := ((outstanding s).filter (fun r => decide (r.eye = p))).length
    let count (i : Nat) := (cell s 0x600001 (24 + p) i).toNat
    dumpRecord 64 [(eyeletState s p, 8), (n, 4), (n, 4), (count 3, 8), (count 4, 8)]
  else
    let n := (s.fab.confirms.filter (fun c => decide (c.2 = p - 8))).length
    dumpRecord 64 [(linkState s (p - 8), 8), (n, 4), (min n (hostTags s (p - 8)), 4), (dumpFree s (600 + 2 * p), 8), (dumpFree s (601 + 2 * p), 8)]

/-- The hoop of a first-error capture. -/
def capturedHoop (s : State) : Option Nat :=
  let w := cell s 0x500002 0 1
  if bit (cell s 0x500002 0 0) 63 && bit w 37 then some (fld w 43 38) else none
/-- The scratchpads that go into an image, with their offsets: the captured hoop's, until the region is full (R521). -/
def imagePads (s : State) : List (Nat × Nat) :=
  match capturedHoop s with
  | none => []
  | some h =>
    let ls := allLanterns.filter (descBinds (hoop s h).desc)
    let go := ls.foldl (fun (acc : Nat × List (Nat × Nat)) l =>
      let n := scratchSize (lanKind l)
      if acc.1 + n ≤ 0x10000000 then (acc.1 + n, acc.2 ++ [(l, acc.1)]) else (0x10000000, acc.2)) (0x1000000, [])
    go.2

/-- The sections of a summary after its header (R520); confidential mode keeps the Beacon's (R524). -/
def summarySections (s : State) : List (Nat × List Byte) :=
  let words (e row n : Nat) := wordBytes (rowWords s e row n)
  let beacon := words 0x500002 0 4 ++ leBytes 8 (regN s 0x500003 0)
    ++ (List.range 28).flatMap (fun c => leBytes 4 (regN s 0x500004 c))
  let hoops := (List.range 64).flatMap (fun h => dumpRecord 32 [(regN s 0x300003 h, 8), (regN s 0x710003 h, 4),
    (regN s 0x710004 h, 1), (0, 3), (regN s 0x700005 h, 4), ((s.rng.invals.filter (fun i => decide (i.hoop = h))).length, 4)])
  let ctxs := (List.range 1024).flatMap (fun c => dumpRecord 16 [(regN s 0x800003 c, 8), ((context s c).vtime, 8)])
  let queues := (List.range 4096).flatMap (fun q => dumpRecord 16 [(regN s 0x900012 q, 8), ((queue s q).tail, 4),
    ((queue s q).written, 4)])
  let lans := dumpLanterns.zipIdx.flatMap (fun p => lanternRecord s p.1 p.2)
  let engs := (List.range 76).flatMap (fun i => engineRecord s (i / 19) (i % 19) (512 + i))
  let slots := (List.range 256).flatMap (fun n =>
    let x := slot s n
    dumpRecord 16 [(n, 1), (x.state, 1), (statusCode x.reason, 1), (0, 1), (x.lastDone, 4), (x.reqs.length, 2),
      ((s.mem.mail.filter (fun m => decide (m.1 = n))).length, 2)])
  let fences := ((waitedFences s).take 4096).flatMap (waitedRecord s)
  let ports := (List.range 10).flatMap (portRecord s)
  let log := (List.range 512).flatMap (fun r => words 0x500007 r 8)
  if s.keeper.conf then [(0x40, beacon)]
  else [(0x40, beacon), (0x400, hoops), (0xC00, ctxs), (0x4C00, queues), (0x14C00, lans), (0x18C00, engs), (0x19C00, slots),
    (0x1AC00, fences), (0x2AC00, ports), (0x2B000, log)]

/-- The bytes of a summary (R520). -/
def summaryBytes (s : State) (level trigger seq start pads : Nat) : List Byte :=
  let header (crc : Nat) := dumpRecord 64 [(0x44554D50, 4), (1, 2), (level, 1), (trigger, 1), (seq, 8), (start, 8), (wick s, 8),
    (regN s 0x500001 0, 8), (if s.keeper.conf then 3 else 0x7FF, 4), (pads, 4), (crc, 4)]
  let body := summarySections s
  let whole (crc : Nat) := fillParts 0 0x40000 ((0, header crc) :: body)
  whole (crc32c (whole 0))

/-- The nonzero bytes of a byte string, at their offsets from `base`. -/
def sparse (base : Nat) (bs : List Byte) : List Host.Cell := (bs.zipIdx.filter (fun p => p.1 ≠ 0)).map (fun p => (base + p.2, p.1))

/-- The base of the crash-dump image (R521). -/
def imageBase : Nat := 0xFF0000000
/-- Put bytes of the image that the spec lays out: the summary, FENCE_TABLE, the queues' rows and the scratchpads; the
contents of its other sections have no layout, and are left as they are (R521). -/
def writeImage (s : State) (summary : List Byte) : State :=
  let inRun := fun lo n a : Nat => decide (imageBase + lo ≤ a) && decide (a < imageBase + lo + n)
  let pads := imagePads s
  let old := s.mem.cells.filter (fun p => !(inRun 0 0x100000 p.1 || inRun 0x100000 0x80000 p.1
    || pads.any (fun l => inRun l.2 (scratchSize (lanKind l.1)) p.1)))
  let fences := (List.range 16384).flatMap (fun f => sparse (imageBase + 0x100000 + 32 * f) (wordBytes (fenceRow s f)))
  let rows := s.queues.flatMap (fun p => sparse (imageBase + 0x180000 + 128 * p.1) (wordBytes (rowWords s 0x900010 p.1 8)))
  let scr := pads.flatMap (fun l =>
    let lo := scratchBase l.1
    (s.mem.cells.filter (fun p => decide (lo ≤ p.1) && decide (p.1 < lo + scratchSize (lanKind l.1)))).map (fun p =>
      (imageBase + l.2 + (p.1 - lo), p.2)))
  let new := sparse imageBase summary ++ fences ++ rows ++ scr
  let cells := new.foldl (fun c p => cput memDefault c p.1 p.2) old
  portArrive { s with mem := { s.mem with cells := cells } } 0 none 0x10000000

/-- Would a dump be skipped: DUMP_HOLD keeps the summary that stands (R519)? -/
def dumpHeld (s : State) : Bool := decide (regN s 0x520002 0 = 1) && bit (cell s 0x520003 0 0) 63
/-- Take a crash dump with a level code and a trigger (R518 to R524); 7 is safe state, which has no image. The answer says
whether one was taken. The dump is one step, so that its image is complete at once, and nothing sees STATE DUMPING (R521, R525; DESIGN
CHOICE, log 192). -/
def takeDump (s : State) (level trigger start : Nat) : Bool × State :=
  let st := cell s 0x520003 0 0
  if dumpHeld s then
    (false, setRegFld s 0x520003 0 47 32 (fld st 47 32 + 1))
  else
    let seq := fld st 31 0 + 1
    let image := decide (level ≠ 7) && !s.keeper.conf
    let pads := if image then (imagePads s).length else 0
    let bytes := summaryBytes s level trigger seq start pads
    let s := { s with snuffer := { s.snuffer with summary := sparse 0 bytes }, free := s.free + 1024 }
    let s := setCell s 0x520003 0 0 (wd (2 ^ 63 + b1 image * 2 ^ 62 + fld st 61 60 * 2 ^ 60 + fld st 47 32 * 2 ^ 32 + seq % 2 ^ 32))
    (true, if image then writeImage s bytes else s)

/-- The dump before a reset, when DUMP_LEVELS selected its code as the reset began (R11, R518, R525). -/
def resetDump (s : State) (r : Reset) : Bool × State :=
  if r.dumpSel then takeDump s r.level r.trigger r.start else (false, s)
/-- The image of that dump goes to bobbin B0: the clocks of quarter 0 must run for it (R53, R521). -/
def dumpReady (s : State) (r : Reset) : Out Unit :=
  if r.dumpSel && !dumpHeld s && !s.keeper.conf && !s.snuffer.safe && decide (r.level ≠ 7) then needClock s 0 else .ok () s

/-- DUMP_RELEASE (R519). -/
def dumpRelease (s : State) (who : Req) (v : Word) : State :=
  if !isManager who then result s 4
  else
    let s := result s 0
    if bit v 0 then setRegFld s 0x520003 0 63 62 0 else s
/-- DUMP_RELEASE. -/
def execDumpRelease (who : Req) (v : Word) (s : State) : Host.Outcome State Fault Refusal :=
  .next (gateWrite s who 0x520005 false (fun s => dumpRelease s who v))

/-! ### Lists of resets -/

/-- A running reset. -/
def findReset (s : State) (level target : Nat) : Option Reset :=
  s.snuffer.resets.find? (fun r => decide (r.level = level) && decide (r.target = target))
/-- Change a running reset. -/
def modReset (s : State) (level target : Nat) (f : Reset → Reset) : State :=
  { s with snuffer := { s.snuffer with resets := s.snuffer.resets.map (fun r =>
      if r.level = level ∧ r.target = target then f r else r) } }

/-- Write a row of RESET_LOG; its result status is 0, or TIMEOUT for an overrun. -/
def logReset (s : State) (r : Reset) (status : Nat) : State :=
  let row := s.snuffer.logged % 64
  let s := { s with snuffer := { s.snuffer with logged := s.snuffer.logged + 1 } }
  setCells s 0x510003 row 0 [wd (r.level + r.trigger * 2 ^ 8 + status * 2 ^ 16 + r.target * 2 ^ 32), wd r.start, wd (wick s), 0]

/-- Show the running resets in RESET_STATUS. -/
def showResets (s : State) : State :=
  match s.snuffer.resets.getLast? with
  | none => setRegFld s 0x510002 0 59 52 (if s.snuffer.safe then 64 else 0)
  | some r => setRegFld s 0x510002 0 59 52 ((if r.phase = 0 then 1 else 3) * 16 + r.level)

/-- A reset ends: it is logged and counted, its fences are signalled, a waiting escalation of its domain starts (R507, R517,
R613). -/
def endReset (s : State) (r : Reset) : State :=
  let s := { s with snuffer := { s.snuffer with resets := s.snuffer.resets.filter (fun o =>
    !(decide (o.level = r.level) && decide (o.target = r.target))) } }
  let s := logReset s r 0
  let s := setRegFld s 0x510002 0 31 0 (fld (cell s 0x510002 0 0) 31 0 + 1)
  let s := completeLogs s r
  let s := r.fences.foldl (fun s f => namedSignal s f.1 f.2) s
  let ready := s.snuffer.waiting.filter (fun o => !s.snuffer.resets.any (fun k => resetContains s k o.level o.target))
  let s := { s with snuffer := { s.snuffer with waiting := s.snuffer.waiting.filter (fun o => !ready.contains o) } }
  showResets (ready.foldl (fun s o => startReset s { o with start := wick s }) s)

/-! ### Ending work by force (R510) -/

/-- A strand that its lantern holds or has yet to start ends with a status. -/
def killStrand (s : State) (l : Nat) (r : StrandRef) (st : Status) : State :=
  let s := contribute s r.queue r.entry st l
  let s := modStrand s r (fun d => { d with started := true, finished := true })
  stitchCheck (stopStitch s r.queue r.entry) r.queue r.entry

/-- Every strand of a lantern ends with a status; its outstanding accesses are let go (R510). -/
def killLantern (s : State) (l : Nat) (st : Status) : State :=
  let x := lantern s l
  let s := completeRemotes s (fun r => engOnLan l r.eng) .resetAbort
  let s := releaseLantern (dropWaits s l) l
  let s := { s with allocQ := s.allocQ.filter (fun q => match q with
    | .opAlloc o _ _ _ _ _ _ _ | .coreAlloc o _ _ _ _ _ _ _ | .coreFree o _ _ _ _ => decide (o ≠ l)) }
  let s := match x.cur with | some r => chargeLantern s r.ctx (lanKind l) r.since | none => s
  let s := modLantern s l (fun x => { x with
    cur := none, runList := [], prefetch := none, dma := [], idleAt := wick s,
    engines := [none, none, none, none], chain := [[], [], [], []],
    cores := x.cores.map (fun k => { coreOff with l1 := k.l1, il1 := k.il1 }) })
  let refs := (match x.cur with | some r => [r.ref] | none => []) ++ x.runList
  refs.foldl (fun s r => killStrand s l r st) s

/-- The job of a mover ends with a status at once. -/
def killMover (s : State) (q m : Nat) (st : Status) : State :=
  match mvJob s q m with
  | none => s
  | some j =>
    let s := completeRemotes s (fun r => decide (r.eng = .mover q m)) .resetAbort
    let s := freeMover s q m
    finishFlight (dropImage s j.queue j.entry) j.queue j.entry (statusMax j.status st)

/-- The collective member of an engine ends with a status at once, its neighbours told where that can be done (R352). -/
def killColl (s : State) (q m : Nat) (st : Status) : State :=
  match clJob s q m with
  | none => s
  | some j =>
    let s := runColl (collAbort s q m st 0) q m
    let s := completeRemotes s (fun r => decide (r.eng = .coll q m)) .resetAbort
    finishFlight (freeColl s q m) j.queue j.entry st

/-- Everything a context has in flight ends with a status at once (R510, R512). -/
def killContext (s : State) (c : Nat) (st : Status) : State :=
  let s := (ctxQueues s c).foldl (fun s q => (queue s q).flights.foldl (fun s f => stopEntry s q st f.entry)
    (dropQueueWait s q)) s
  let s := (ctxLanterns s c).foldl (fun s p => killLantern s p.1 st) s
  let s := (s.movers.filter (fun p => decide (p.2.ctx = c))).foldl (fun s p => killMover s (p.1 / 16) (p.1 % 16) st) s
  let s := (s.colls.filter (fun p => decide (p.2.ctx = c))).foldl (fun s p => killColl s (p.1 / 2) (p.1 % 2) st) s
  let s := (ctxSlots s c).foldl closeSlot s
  let s := completeRemotes s (fun r => decide (r.ctx = c)) .resetAbort
  let s := (ctxSlots s c).foldl freeSlot s
  let s := dropCtxX s c
  let s := modContext s c (fun x => { x with saved := [], image := none, leaving := false })
  (ctxQueues s c).foldl (fun s q => (queue s q).flights.foldl (fun s f => finishFlight s q f.entry st) s) s

/-! ### L1 (R509) -/

/-- Stop a context's work in place: its entries in flight stop with the cause, saved images and parked accesses are
discarded, its slots fail. Admission goes on when the reset ends. -/
def stopForL1 (s : State) (c : Nat) (st : Status) : State :=
  let held := (ctxLanterns s c).map (fun p => p.1)
  let s := (ctxQueues s c).foldl (fun s q => (queue s q).flights.foldl (fun s f => stopEntry s q st f.entry) s) s
  let s := dropCtxX s c
  let s := modContext s c (fun x => { x with saved := [], image := none, leaving := false })
  let s := (ctxSlots s c).foldl (fun s n => slotFail s n st (csPos (slot s n).desc) none) s
  held.foldl (fun s l => modLantern s l (fun x => { x with rebound := true })) s

/-- Have the entries that an L1 stops all ended? -/
def l1Quiet (s : State) (c : Nat) : Bool :=
  (ctxLanterns s c).isEmpty && (ctxQueues s c).all (fun q => (queue s q).flights.all (fun f =>
    decide (f.phase = .done) || !([1, 3, 4, 8].contains (entryOp f.words))))

/-- The stop of an L1, once. -/
def runL1 (s : State) (c : Nat) : State :=
  match findReset s 1 c with
  | none => s
  | some r =>
    if r.phase ≠ 0 then s
    else
      match dumpReady s r with
      | .ok _ s =>
        let d := resetDump s r
        showResets (stopForL1 (modReset d.2 1 c (fun r => { r with phase := 1, dumped := d.1 })) c r.cause)
      | o => o.state

/-- The end of an L1: the lanterns that held the context's strands are cleared (R110, R509). -/
def endL1 (s : State) (r : Reset) : State :=
  let ls := (allLanterns.filter (fun l => (lantern s l).rebound && decide ((lantern s l).lastCtx = some r.target)))
  endReset (ls.foldl strandClear s) r

/-! ### RESET_REQUEST (R507, R508, R517) -/

/-- The movers, collective engines and CSE of a quarter, by the code of R307. -/
def engineCodeOk (c : Nat) : Bool :=
  let kind := c / 2 ^ 6 % 4
  let i := c % 64
  kind = 0 && decide (i < 16) || kind = 1 && decide (i < 2) || kind = 2 && i = 0

/-- Does TARGET fit LEVEL? -/
def resetTargetOk (level t : Nat) : Bool :=
  match level with
  | 1 => decide (t < 1024)
  | 2 => if t < 2 ^ 14 then lanOk t else decide (t < 2 ^ 14 + 2 ^ 10) && engineCodeOk (t % 2 ^ 10)
  | 3 => decide (t < 64)
  | _ => t = 0

/-- RESULT of a request (R508). -/
def resetCode (s : State) (who : Req) (w : Word) : Nat :=
  let level := fld w 63 60
  let t := fld w 15 0
  let f := fence s (fld w 58 45)
  let owned := bit w 59 && f.valid && (match level with
    | 1 => decide (f.owner = t)
    | 3 => decide (f.hoop = t)
    | _ => false)
  let cause := fld w 44 42
  let mayVf (h : Nat) : Bool := match level with
    | 1 => ctxOf s h t
    | 2 => decide (t < 2 ^ 14) && descBinds (hoop s h).desc t
    | 3 => decide (t = h)
    | _ => false
  let blocked := match who with
    | .vf n => (match vfHoop s n with | some h => !mayVf h | none => true)
    | _ => false
  if level = 0 ∨ 6 < level ∨ fld w 41 16 ≠ 0 ∨ (3 < level ∧ bit w 59 = true) ∨ (level = 1 ∧ 2 < cause)
      ∨ (level ≠ 1 ∧ cause ≠ 0) ∨ resetTargetOk level t = false ∨ owned = true then 1
  else if blocked then 2
  else if s.snuffer.resets.any (fun o => resetContains s o level t && decide (level ≤ o.level)) then 3
  else 0

/-- The cause status of a requested L1. -/
def causeOf (c : Nat) : Status := match c with | 1 => .timeout | 2 => .xlateFault | _ => .aborted

/-- An L5 takes its dump, enters safe state and asks for the power cycle (R503, R514). -/
def startL5 (s : State) (r : Reset) : State :=
  let d := resetDump s r
  let s := safeState d.2
  let s := { s with snuffer := { s.snuffer with resets := [{ r with phase := 1, dumped := d.1 }], pwrcyc := true } }
  setRegFld s 0x510002 0 59 52 (5 * 16 + 6)

/-- RESET_REQUEST (R507, R508, R517); in safe state only a cold L4 or an L5 is accepted (R500). -/
def resetRequest (s : State) (who : Req) (w : Word) : State :=
  let level := fld w 63 60
  let t := fld w 15 0
  let code := resetCode s who w
  let fs := if bit w 59 then [(fld w 58 45, some who)] else []
  if s.snuffer.safe && decide (level < 5) then result s 10
  else
    let s := result (setRegFld s 0x510002 0 63 60 code) 0
    if code = 3 then
      match s.snuffer.resets.find? (fun o => resetContains s o level t && decide (level ≤ o.level)) with
      | some o => modReset s o.level o.target (fun r => { r with fences := r.fences ++ fs })
      | none => s
    else if code ≠ 0 then s
    else
      let r : Reset := { level := level, target := t, trigger := 0, cause := causeOf (fld w 44 42), fences := fs, start := wick s,
                         phase := 0, dumped := false, logAt := none, dumpSel := bit (cell s 0x520001 0 0) level }
      if level = 6 then
        match dumpReady s r with
        | .ok _ s => startL5 s r
        | o => startReset o.state r
      else
        let s := startReset s r
        if level = 1 then runL1 s t else s
/-- RESET_L1. -/
def execResetL1 (who : Req) (w : Word) (s : State) : Host.Outcome State Fault Refusal :=
  .next (resetRequest s who (setFld w 63 60 1))
/-- RESET_L2. -/
def execResetL2 (who : Req) (w : Word) (s : State) : Host.Outcome State Fault Refusal :=
  .next (resetRequest s who (setFld w 63 60 2))
/-- RESET_L3. -/
def execResetL3 (who : Req) (w : Word) (s : State) : Host.Outcome State Fault Refusal :=
  .next (resetRequest s who (setFld w 63 60 3))
/-- RESET_L4_WARM. -/
def execResetL4Warm (who : Req) (w : Word) (s : State) : Host.Outcome State Fault Refusal :=
  .next (resetRequest s who (setFld w 63 60 4))
/-- RESET_L4_COLD. -/
def execResetL4Cold (who : Req) (w : Word) (s : State) : Host.Outcome State Fault Refusal :=
  .next (resetRequest s who (setFld w 63 60 5))
/-- RESET_L5. -/
def execResetL5 (who : Req) (w : Word) (s : State) : Host.Outcome State Fault Refusal :=
  .next (resetRequest s who (setFld w 63 60 6))

/-! ### L2 and L3 (R510 to R512) -/

/-- The engine of an L2 is stopped and its logic reset (R510, R511). A lantern is cold-gated by it: a re-bind that it joins no longer
waits for its wake (R59, log 133). -/
def stopEngine (s : State) (t : Nat) : State :=
  if t < 2 ^ 14 then
    let s := clearLantern (killLantern s t .resetAbort) t
    joinAwake (modLantern s t (fun x => { x with power := .cold, lastCtx := none, cores := [] })) t
  else
    let q := t / 2 ^ 8 % 4
    let i := t % 64
    match t / 2 ^ 6 % 4 with
    | 0 => killMover s q i .resetAbort
    | 1 => killColl s q i .resetAbort
    | _ => (s.slots.filter (fun p => decide (p.1 / 64 = q))).foldl (fun s p =>
        slotFail s p.1 .resetAbort (csPos p.2.desc) none) s

/-- Every piece of work of a hoop ends with RESET_ABORT; its contexts are torn down (R512 steps 2 and 3). Entries not
admitted go with their queues. -/
def stopHoop (s : State) (h : Nat) : State :=
  let s := (hoopCtxs s h).foldl (fun s c =>
    let s := setRegFld (setCtxState s c 3) 0x800003 c 59 56 0
    let s := (ctxQueues s c).foldl (fun s q =>
      let s := if queueState s q = 4 then s
        else beginDestroy s q { abort := true, fence := none, via := none, tail := 0, was := 0, silent := true, lost := false }
      modQueue s q (fun x => { x with entries := [], destroy := x.destroy.map (fun d => { d with abort := true, silent := true }) })) s
    killContext s c .resetAbort) s
  completeRemotes s (fun r => decide (r.hoop = h)) .resetAbort

/-- Zero words of a row. -/
def zeroRow (s : State) (e row n : Nat) : State := setCells s e row 0 (List.replicate n 0)

/-- The end of an L3's clearing (R512 steps 2 to 7). The lanterns are cold, so a re-bind that waits for joiners to wake is complete (log
133). -/
def clearHoop (s : State) (h : Nat) : State :=
  let cs := hoopCtxs s h
  let qs := cs.flatMap (ctxQueues s)
  let s := qs.foldl freeSilent s
  let s := cs.foldl (fun s c =>
    let f := (context s c).tearFence
    let s := dropHoldings s c
    let s := setCell { s with ctxs := tdel s.ctxs c } 0x800003 c 0 0
    match f with | some f => namedSignal s f.1 f.2 | none => s) s
  let fs := (s.fences.filter (fun p => p.2.valid && decide (p.2.hoop = h))).map (fun p => p.1)
  let s := fs.foldl (fun s f =>
    let s := commandSignal s f allOnes true none
    { s with fences := tdel s.fences f, waits := s.waits.filter (fun w => decide (w.fence ≠ f)) }) s
  let os := (s.objs.filter (fun p => p.2.valid && decide (p.2.hoop = h))).map (fun p => p.1)
  let s := os.foldl (fun s o => { s with objs := tdel s.objs o }) s
  let s := dropLook (clearRanges s h) (fun e => decide (e.hoop = h))
  let w0 := cell s 0x800006 h 0
  let s := (List.range (fld w0 9 0)).foldl (fun s i => zeroRow s 0x800005 (fld w0 24 16 + i) 1) s
  let s := zeroRow (zeroRow (zeroRow (zeroRow (zeroRow s 0x710001 h 2) 0x700004 h 1) 0x810006 h 4) 0x800007 h 2) 0x800006 h 2
  let s := zeroRow (zeroRow s 0x710002 h 1) 0x710003 h 1
  let s := { s with staged := tdel (tdel s.staged (stagedKey 0x710001 h 0)) (stagedKey 0x710001 h 1),
                    rng := { s.rng with xreqs := s.rng.xreqs.filter (fun x => decide (x.hoop ≠ h)), records := s.rng.records.filter (fun x => decide (x.hoop ≠ h)) } }
  let s := setReg s 0x710004 h 3
  let s := if hoopState s h = 0 then s else modHoop s h (fun x => { x with
    sampler := none, samplerNew := none, swapBytes := 0, stuck := [], favored := none })
  let s := qs.foldl (fun s q => zeroRow s 0x900010 q 8) s
  let s := cs.foldl (fun s c => zeroRow (zeroRow s 0x800001 c 2) 0x800004 c 8) s
  let s := fs.foldl (fun s f => zeroRow s 0x810002 f 4) s
  let s := os.foldl (fun s o => zeroRow s 0x810004 o 4) s
  let s := (allLanterns.filter (descBinds (hoop s h).desc)).foldl releaseLan s
  (hoop s h).joining.foldl joinAwake s

/-- Are the records of a hoop's queues all dealt with? -/
def hoopQuiet (s : State) (h : Nat) : Bool := (hoopQueues s h).all (fun q => (queue s q).flights.isEmpty)

/-! ### L4 (R513, R515, R546) -/

/-- The hoops that hold anything. -/
def allHoops (s : State) : List Nat := (List.range 64).filter (fun h => hoopState s h ≠ 0)
/-- Every quarter store is zero, with nothing held for it. -/
def zeroStores (s : State) : State :=
  { s with mem := { s.mem with
      cells := s.mem.cells.filter (fun p => !(decide (0xC000000000 ≤ p.1) && decide (p.1 < 0xC010000000)))
      storePoison := [], windows := [], resv := [], mail := [] } }

/-- Entries whose change class is RESET: the values written to them come into force (R11, R513). -/
def resetEntries : List Nat := [0x700006, 0x700008, 0x900001, 0x900002, 0x900004, 0x120001]
/-- Apply the staged values of those entries. -/
def applyResetClass (s : State) : State := takeStaged s resetEntries
/-- LIVE entries whose written value waits for a moment of its own (R11): STARVE_US for the next window's end (R450), THROTTLE_C for the next
sensor read, RAIL_LIMITS for the next 1 µs window (R485). -/
def heldEntries : List Nat := [0x400006, 0x210001, 0x202001]

/-- The Mantle as it starts: every quarter at OP0 and full issue, no limiter holding. -/
def mantleReset (s : State) : State :=
  let s := tickThrottle s
  let p := { s.power with op := [0, 0, 0, 0], g := [64, 64, 64, 64], capOp := [0, 0, 0, 0], capG := 64 }
  let p := { p with thermOp := [0, 0, 0, 0], thermG := [64, 64, 64, 64], slow := [false, false, false, false] }
  let p := { p with trip := [false, false, false, false], hotStack := List.replicate 12 false, activity := [0, 0, 0, 0],
                        wait := [false, false, false, false], hot95 := List.replicate 12 false }
  { s with power := { p with capGutter := false } }

/-- A warm L4: every hoop as by an L3, the stores zeroed, the hub blocks as they start (R513). In confidential mode the HBM
key is made anew and usable HBM is to be zeroed (R546). -/
def clearWarm (s : State) : State :=
  let s := (allHoops s).foldl clearHoop s
  let s := allLanterns.foldl releaseLan s
  let s := zeroStores s
  let s := { s with fences := [], waits := [], objs := [], allocQ := [], movers := [], moverQ := [], colls := [], slots := [] }
  let s := { s with queues := [], ctxs := [], clk := { s.clk with held := [] } }
  let s := { s with rng := { s.rng with look := [], xreqs := [], records := [], invals := [], doorbells := [], counts := [] } }
  let s := { s with fab := { s.fab with picots := [], aliases := [], bells := [], confirms := [] } }
  let s := applyResetClass (mantleReset s)
  if s.keeper.conf then
    { s with mem := { s.mem with zeroed := false }, keeper := { s.keeper with generation := s.keeper.generation + 1 } }
  else s

/-- Dictionary cells whose values a cold L4 keeps (R513, R515): the Beacon's word, capture and log, the dump status, the
Keeper's entries, the Darner map and repair log. -/
def keptCell (k : Nat) : Bool :=
  let e := k / 2 ^ 24
  [0x500001, 0x500002, 0x500003, 0x500004, 0x500007, 0x500008, 0x520003, 0xA00007, 0xA00008, 0xA00009,
    0xA0000A, 0xA0000B].contains e || (decide (e / 2 ^ 8 = 0x1100) && decide (e % 2 ^ 8 < 0x14))

/-- The fabric with nothing live. -/
def fabricReset (s : State) : State :=
  { s with fab := { s.fab with
      banks := [{ state := .current, epoch := 0, routes := [], hoops := [] }, bankEmpty], drained := false, openAt := 0,
      drainMs := 4, lostRows := [], remotes := [], picots := [], aliases := [], bells := [], confirms := [],
      eyes := List.replicate 8 Eyelet.down } }

/-- Confidential mode ends with every key destroyed (R546). -/
def endConf (s : State) : State :=
  { s with keeper := { s.keeper with conf := false, tenant := 0, keys := [.empty, .empty, .empty, .empty],
                                     eyeletKey := [none, none, none, none], step := 0, drainAt := 0, ending := false, tags := [] } }

/-- A cold L4 retires the channels that are retire-pending, each with a record of ACTION 4 (R572, R574). -/
def retireChannels (s : State) : State :=
  (List.range 12).foldl (fun s b =>
    let w := cell s 0xA00007 b 0
    let due := (List.range 32).filter (fun c => bit w (32 + c))
    let s := setCell s 0xA00007 b 0 (wd (fld w 31 0 ||| fld w 63 32))
    due.foldl (fun s c => repairRecord s 4 4 7 (b * 32 + c) 0xFFFF 0) s) s

/-- The cold L4's part of the dictionary: what the wick store does not hold, and what is staged, is gone. -/
def coldCells (s : State) : State :=
  { s with regs := s.regs.filter (fun p => keptCell p.1), staged := [], hoops := [], scrubs := [], vfs := [] }
/-- Its part of the ports, telemetry, regulation and management server. -/
def coldUnits (s : State) : State :=
  let ports := s.ports.map (fun p => { Port.reset with perst := p.perst, ready := p.ready })
  let tele : Telemetry := { selNew := [], bytes := [], windowNew := none, written := 0, staged := [], lost := 0, error := false,
                            seq := 0, dumpAt := 0, windowFrom := wick s, ringed := [] }
  let server : Server := { s.server with sessions := [], mailboxes := [], stagings := [] }
  { s with ports := ports, tele := tele, floss := { waiting := [], served := [] }, server := server }
/-- Its part of the bobbins, which wait for their zeroing, and of the Mantle's throttling. -/
def coldMantle (s : State) : State :=
  { s with mem := { s.mem with zeroed := false }, power := { s.power with thrNs := List.replicate 8 0, thrAt := wick s, ceiling := [0, 0, 0, 0] } }
/-- Its part of the Snuffer: safe state ends. -/
def coldSnuffer (s : State) : State :=
  { s with snuffer := { s.snuffer with timers := [], fencing := [], safe := false, pwrcyc := false, logged := 0 } }
/-- What a cold L4 does after a warm one (R513, R515, R546, R572). -/
def clearCold (s : State) : State :=
  endConf (coldSnuffer (coldMantle (coldUnits (coldCells (retireChannels (fabricReset s))))))

/-- Stop everything on the device (R510, R513). -/
def stopDevice (s : State) : State :=
  let s := (allHoops s).foldl stopHoop s
  completeRemotes s (fun _ => true) .resetAbort

/-! ### The events of a reset (R510 to R517) -/

/-- DRAIN_ALLOWANCE_END (of an L5 for a fault, the dump and the stop that it begins with): a dump is taken when selected, and what work the domain still holds ends with RESET_ABORT (R510,
R518). -/
def drainAllowanceEnd (s : State) (level target : Nat) : State :=
  match findReset s level target with
  | none => s
  | some r =>
    if level < 2 ∨ r.phase ≠ 0 ∨ wick s < r.start + r.allowance then s
    else
      match dumpReady s r with
      | .wait s | .fail _ s => s
      | .ok _ s =>
      if level = 6 then startL5 s r
      else
      let d := resetDump s r
      let s := modReset d.2 level target (fun r => { r with phase := 1, dumped := d.1 })
      let s := match level with
        | 2 => stopEngine s target
        | 3 => stopHoop s target
        | _ => stopDevice s
      showResets s
/-- DRAIN_ALLOWANCE_END. -/
def execDrainAllowanceEnd (level target : Nat) (s : State) : Host.Outcome State Fault Refusal :=
  .next (drainAllowanceEnd s level target)

/-- The class and master of an engine whose self-check fails (R487, R490, R511). -/
def engineFault (s : State) (t : Nat) : FaultInfo :=
  let f : FaultInfo := { cls := 1, access := 4, addr := none, masterKind := 0, master := 0, hoop := none, ctx := none, detail := 0 }
  if t < 2 ^ 14 then { f with cls := 1 + lanKind t, master := physId s t, hoop := lanternHoop s t }
  else { f with cls := (match t / 2 ^ 6 % 4 with | 0 => 8 | 1 => 26 | _ => 25), masterKind := 1, master := t % 2 ^ 10 }

/-- SELF_CHECK_DONE: an engine that passes returns to service, be it that an earlier self-check failed; one that fails latches its class
(R511). -/
def selfCheckDone (s : State) (t : Nat) (pass : Bool) : State :=
  match findReset s 2 t with
  | none => s
  | some r =>
    if r.phase ≠ 1 then s
    else
      let s := modReset s 2 t (fun r => { r with phase := 2 })
      if pass then (if t < 2 ^ 14 then modLantern s t (fun x => { x with fenced := false }) else s)
      else latch (if t < 2 ^ 14 then modLantern s t (fun x => { x with fenced := true }) else s) (engineFault s t)
/-- SELF_CHECK_DONE. -/
def execSelfCheckDone (target : Nat) (pass : Bool) (s : State) : Host.Outcome State Fault Refusal :=
  .next (selfCheckDone s target pass)

/-- RESET_END: the reset clears its domain once the work's records are dealt with, and ends when that is done; a cold L4, and a
warm one in confidential mode, wait for the zeroing of usable HBM (R506 to R513). -/
def resetEnd (s : State) (level target : Nat) : State :=
  match findReset s level target with
  | none => s
  | some r =>
    match level with
    | 1 =>
      let s := runL1 s target
      match findReset s 1 target with
      | some r => if l1Quiet s target then endL1 s r else s
      | none => s
    | 2 => if r.phase = 2 then endReset s r else s
    | 3 => if r.phase = 1 ∧ hoopQuiet s target = true then endReset (clearHoop s target) r else s
    | 4 =>
      if r.phase = 1 ∧ (allHoops s).all (hoopQuiet s) = true then
        let s := clearWarm s
        if s.mem.zeroed then endReset s r else modReset s 4 0 (fun r => { r with phase := 2 })
      else if r.phase = 2 ∧ s.mem.zeroed = true then endReset s r
      else s
    | 5 =>
      if r.phase = 1 ∧ (s.snuffer.safe || (allHoops s).all (hoopQuiet s)) = true then
        showResets (modReset (clearCold (clearWarm s)) 5 0 (fun r => { r with phase := 2 }))
      else if r.phase = 2 ∧ s.mem.zeroed = true then endReset s r
      else s
    | _ => s
/-- RESET_END. -/
def execResetEnd (level target : Nat) (s : State) : Host.Outcome State Fault Refusal := .next (resetEnd s level target)

/-- The bound of a level in ns (R506). -/
def resetBound (level : Nat) : Nat :=
  match level with | 1 => 1000000 | 2 => 5000000 | 3 => 50000000 | 4 => 2000000000 | _ => 20000000000

/-- The next level on the domain that contains a reset's (R516). -/
def nextLevel (s : State) (r : Reset) : Nat × Nat :=
  match r.level with
  | 1 => (3, (context s r.target).hoop)
  | 2 => match (if r.target < 2 ^ 14 then lanternHoop s r.target else none) with
    | some h => (3, h)
    | none => (4, 0)
  | 3 => (4, 0)
  | _ => (5, 0)

/-- The bound of a reset in progress: waits for requests to other nodes do not count, except in an L3 requested under R360 (R506). -/
def boundOf (r : Reset) : Nat := resetBound r.level + (if r.level = 3 ∧ r.trigger = 4 then 0 else r.waited)
/-- RESET_OVERRUN: a reset past its bound is logged, and the next level runs on the domain that contains it; a cold L4 past its
bound ends in safe state with PWRCYC_REQ_N asserted (R501, R516). -/
def resetOverrun (s : State) (level target : Nat) : State :=
  match findReset s level target with
  | none => s
  | some r =>
    if 5 < level ∨ wick s < r.start + boundOf r then s
    else
      let s := logReset s r (statusCode .timeout)
      if level = 5 then
        let s := safeState s
        { s with snuffer := { s.snuffer with pwrcyc := true } }
      else
        let n := nextLevel s r
        let o : Reset := { r with level := n.1, target := n.2, trigger := 5, start := wick s, phase := 0, dumped := false }
        let s := { s with snuffer := { s.snuffer with resets := s.snuffer.resets.filter (fun x => decide (x ≠ r)) } }
        if s.snuffer.resets.any (fun x => resetContains s x o.level o.target) then showResets s else startReset s o
/-- RESET_OVERRUN. -/
def execResetOverrun (level target : Nat) (s : State) : Host.Outcome State Fault Refusal :=
  .next (resetOverrun s level target)

/-- PWRCYC_TIMEOUT: MAIN has not been lost within 10 s of the request; the wait is counted (R503). -/
def pwrcycTimeout (s : State) : State :=
  match findReset s 6 0 with
  | none => s
  | some r =>
    if !s.snuffer.pwrcyc || decide (r.phase = 2) || decide (wick s < r.start + 10000000000) then s
    else
      let n := fld (cell s 0x510002 0 0) 47 32 + 1
      let s := safeState s
      setRegFld { s with snuffer := { s.snuffer with resets := [{ r with phase := 2 }] } } 0x510002 0 47 32 n
/-- PWRCYC_TIMEOUT. -/
def execPwrcycTimeout (s : State) : Host.Outcome State Fault Refusal := .next (pwrcycTimeout s)

/-! ### The Beacon's commands (R486 to R500, R504) -/

/-- What an uncorrectable error leaves poisoned where the fault names an address of this node: the word of a scratchpad (classes 1 to 3), the
line of a quarter store (class 4), the block of a bobbin (classes 6 and 9) (R243, R247, R249). -/
def faultPoison (s : State) (f : FaultInfo) : State :=
  match f.addr with
  | none => s
  | some g =>
    let a := g % 2 ^ 44
    if g / 2 ^ 44 ≠ ownNode s then s
    else match f.cls, region s a with
      | 1, some .scratch | 2, some .scratch | 3, some .scratch => poisonWords s a 1
      | 4, some .store => { s with mem := { s.mem with storePoison := insertNat s.mem.storePoison (alignDown a 128) } }
      | 6, some .hbm | 9, some .hbm =>
        if usableHbm a then countB (sealBlock s a true) (a / 0x1000000000) (if f.cls = 6 then 4 else 5) 1 else s
      | _, _ => s
/-- The open slots of the CSE whose error latches class 25 fail with ABORTED (R231). -/
def cseFault (s : State) (f : FaultInfo) : State :=
  let hit (n : Nat) (x : Slot) : Bool := decide (x.state = 1) && decide (n / 64 = f.master / 2 ^ 8 % 4)
  if f.cls = 25 ∧ f.masterKind = 1 then
    (s.slots.filter (fun p => hit p.1 p.2)).foldl (fun s p => slotFail s p.1 .aborted (csPos p.2.desc) none) s
  else s
/-- A block's error pin: the fault is latched; one of the Beacon itself ends in safe state with a summary (R489, R500). -/
def errorPin (s : State) (f : FaultInfo) : State :=
  let s := cseFault (latch s f) f
  if f.cls = 0 then (takeDump s 7 6 (wick s)).2 else s
/-- FAULT_LATCH: a block's error, with what it leaves poisoned (R249, R489, R500). -/
def faultLatch (s : State) (f : FaultInfo) : State := errorPin (faultPoison s f) f
/-- FAULT_LATCH. -/
def execFaultLatch (f : FaultInfo) (s : State) : Host.Outcome State Fault Refusal := .next (faultLatch s f)

/-- A class's bit clears: its timer stops, its current level is LEVEL (R493, R495). -/
def clearClass (s : State) (c : Nat) : State :=
  let s := { s with snuffer := { s.snuffer with timers := tdel s.snuffer.timers c } }
  let x := cell s 0x500006 c 0
  setCell s 0x500006 c 0 (wd (classLevel s c * 2 ^ 28 + fld x 26 16 * 2 ^ 16))
/-- Clear bits of the status word; when it becomes 0 the capture re-arms (R486, R491). -/
def clearBits (s : State) (bits : Nat) : State :=
  let w := statusWord s
  let gone := (List.range 28).filter (fun c => bit w c && bit (wd bits) c)
  let left := w &&& ~~~(wd bits)
  let s := gone.foldl clearClass (setCell s 0x500001 0 0 left)
  if left = 0 ∧ w ≠ 0 then
    let s := setCell (setRegFld s 0x500002 0 63 63 0) 0x500003 0 0 0
    (List.range 28).foldl (fun s c => setReg s 0x500004 c 0) s
  else s
/-- STATUS_WORD_WRITE. -/
def statusWordWrite (s : State) (who : Req) (v : Word) : State :=
  if !isManager who then result s 4
  else if s.snuffer.safe then result s 10
  else result (clearBits s v.toNat) 0
/-- STATUS_WORD_WRITE. -/
def execStatusWordWrite (who : Req) (v : Word) (s : State) : Host.Outcome State Fault Refusal :=
  .next (gateWrite s who 0x500001 false (fun s => statusWordWrite s who v))

/-- GRACE_EXPIRY: the class's timer expires, GRACE_MS after the latch; a level of 0 is counted, any other resets and rises (R495, R496). -/
def graceExpiry (s : State) (c : Nat) : State :=
  match tget s.snuffer.timers c with
  | none => s
  | some (f, n, start) =>
    if wick s < start + 1000000 * fld (cell s 0x500006 c 0) 15 0 then s else
    let s := { s with snuffer := { s.snuffer with timers := tdel s.snuffer.timers c } }
    let s := setRegFld (setRegFld s 0x500006 c 27 27 0) 0x500006 c 15 0 0
    if currentLevel s c = 0 then
      setRegFld s 0x500006 c 26 16 (min 2047 (fld (cell s 0x500006 c 0) 26 16 + 1))
    else raiseLevel (faultResets s f 1 n) c
/-- GRACE_EXPIRY. -/
def execGraceExpiry (cls : Nat) (s : State) : Host.Outcome State Fault Refusal := .next (graceExpiry s cls)

/-- The result of a write of INJECT (R504, R527, R544). -/
def injectCode (s : State) (who : Req) (w0 : Word) : Nat :=
  let mode := fld w0 35 32
  let cls := fld w0 61 56
  if !isManager who then 4
  else if 27 < cls ∨ 1 < mode ∨ (mode = 1 ∧ cls ≠ 6 ∧ cls ≠ 9) then 9
  else if s.keeper.lc ≠ 1 ∨ s.keeper.conf = true ∨ s.snuffer.safe = true then 10
  else 0
/-- The fault of an asserted error pin. Where the class's unit is a slice or an HBM row it is the one that W1's address names (DEDUCED,
log 163). -/
def pinFault (w0 w1 : Word) : FaultInfo :=
  let cls := fld w0 61 56
  { cls := cls, access := 4, addr := if [4, 6, 7, 9].contains cls then some (fld w1 51 0) else none, masterKind := fld w0 55 52,
    master := fld w0 51 36, hoop := none, ctx := none, detail := wd (2 ^ 63) }
/-- INJECT: a unit's error pin is asserted once, or the next write of a block is corrupted. -/
def inject (s : State) (who : Req) (w0 w1 : Word) : State :=
  let code := injectCode s who w0
  let s := result s code
  if code ≠ 0 then s
  else if fld w0 35 32 = 0 then errorPin s (pinFault w0 w1)
  else setInjected s (w1.toNat % 2 ^ 44) (if fld w0 61 56 = 9 then 0 else 1)
/-- INJECT. -/
def execInject (who : Req) (w0 w1 : Word) (s : State) : Host.Outcome State Fault Refusal :=
  .next (gateWrite s who 0x500009 false (fun s => inject s who w0 w1))

/-! ### Hang detectors (R505) -/

/-- Latch class 27 for a detector and count its expiry. -/
def hang (s : State) (code q kind master : Nat) (h c : Option Nat) : State :=
  let s := bump s 0x510008 (code - 1)
  latch s { cls := 27, access := 4, addr := none, masterKind := kind, master := master, hoop := h, ctx := c,
            detail := wd (code + q * 2 ^ 16) }

/-- Is a lantern's strand stalled in WAIT, XWAIT or a parked translation (R505)? -/
def laneStalled (s : State) (l : Nat) : Bool :=
  let x := lantern s l
  match x.cur with
  | none => false
  | some r => strandStalled x r || s.rng.xreqs.any (fun q => engOnLan l q.eng && xParked q)

/-- Is every unfinished strand of a stitch stalled, so that its time does not count (R505)? -/
def stitchStalled (s : State) (q e : Nat) (f : Flight) : Bool :=
  let running := stitchLanterns s q e
  let left := (f.stitch.map (fun x => x.strands.filter (fun d => !d.finished))).getD []
  decide (left.length ≤ running.length) && running.all (laneStalled s)

/-- When a stitch last made progress: an op of it completed, or a core of it retired an instruction, those of saved strands among them
(R505). -/
def stitchProgress (s : State) (q e : Nat) (f : Flight) : Nat :=
  let mine := fun r : Running => decide (r.ref.queue = q) && decide (r.ref.entry = e)
  let here := s.lan.filterMap (fun p => p.2.cur.bind (fun r => if mine r then some r.opAt else none))
  let saved := (context s (queueCtx s q)).saved.filterMap (fun v => if mine v.running then some v.running.opAt else none)
  (here ++ saved).foldl max f.moved
/-- Does the present time not count for a stitch: it has not been chosen yet, its context is swapped out, every unfinished strand is
stalled, or the device is in backup operation (R505)? -/
def stitchHeld (s : State) (q : Nat) (f : Flight) : Bool :=
  s.power.backup || f.phase != .running || ctxState s (queueCtx s q) != 1 || stitchStalled s q f.entry f
/-- Does a queue hold a submitted entry that has not completed (R505)? -/
def queueOwes (x : Queue) : Bool := !queueQuiet x || !x.entries.isEmpty || decide (x.tail ≠ sqHead x)
/-- Does the present time not count for a queue: it owes nothing, it is UNDELIVERABLE, its hoop does not run, or the device is in backup
operation (R505)? -/
def queueHeld (s : State) (q : Nat) (x : Queue) : Bool :=
  s.power.backup || decide (queueState s q = 2) || (hoop s (fld (wordAt x.row 0) 54 49)).inst != .running || !queueOwes x
/-- Does a reset's domain wait for a request to another node whose own time is not over (R506)? -/
def resetWaits (s : State) (r : Reset) : Bool :=
  (outstanding s).any (fun x => decide (wick s < x.sent + x.limit) && (match r.level with
    | 1 => decide (x.ctx = r.target)
    | 2 => decide (engCode x.eng = r.target) || (decide (r.target < 2 ^ 14) && engOnLan r.target x.eng)
    | 3 => decide (x.hoop = r.target)
    | _ => true))
/-- An oscillator cycle that does not count moves the start of what it would be counted in (R505, R506; log 193). -/
def holdTimers (s : State) : State :=
  let queues := s.queues.map (fun p =>
    let flights := p.2.flights.map (fun f =>
      if entryOp f.words = 1 ∧ stitchHeld s p.1 f = true then { f with moved := stitchProgress s p.1 f.entry f + 25 } else f)
    (p.1, { p.2 with flights := flights, moved := if queueHeld s p.1 p.2 then p.2.moved + 25 else p.2.moved }))
  let resets := s.snuffer.resets.map (fun r => if resetWaits s r then { r with waited := r.waited + 25 } else r)
  { s with queues := queues, snuffer := { s.snuffer with resets := resets } }
/-- WICK_TIME_ADVANCE: one oscillator cycle while a supply is present (R48, R49); what a cycle does not count for is told by the state it finds
(R505, R506). -/
def wickTimeAdvance (s : State) : State := wickTick (if s.power.started then holdTimers s else s)
/-- WICK_TIME_ADVANCE. -/
def execWickTimeAdvance (s : State) : Host.Outcome State Fault Refusal := .next (wickTimeAdvance s)

/-- The lantern of the oldest unfinished op among some: the one whose op began first, as its strand started or its last op completed. -/
def oldestOp (s : State) (ls : List Nat) : Nat :=
  let began := fun l : Nat => ((lantern s l).cur.map (fun r => max r.since r.opAt)).getD (2 ^ 64)
  ls.foldl (fun a l => if began l < began a then l else a) (ls.headD 0)
/-- STITCH_WATCHDOG: a stitch without progress stops with TIMEOUT. -/
def stitchWatchdog (s : State) (q e : Nat) : State :=
  match flight s q e with
  | none => s
  | some f =>
    let queued := s.lan.filter (fun p => p.2.runList.any (fun r => decide (r.queue = q) && decide (r.entry = e)))
    let ls := stitchLanterns s q e ++ queued.map (fun p => p.1)
    let late := decide (stitchProgress s q e f + 1000000 * regN s 0x510005 0 ≤ wick s)
    if entryOp f.words ≠ 1 ∨ regN s 0x510005 0 = 0 ∨ f.phase ≠ .running ∨ ls.isEmpty = true ∨ late = false
        ∨ s.power.backup = true ∨ stitchStalled s q e f = true then s
    else
      let l := oldestOp s ls
      let s := hang s 1 q 0 (physId s l) (some (queueHoop s q)) (some (queueCtx s q))
      stitchCheck (stopStitch (contribute s q e .timeout l) q e) q e
/-- STITCH_WATCHDOG. -/
def execStitchWatchdog (queue entry : Nat) (s : State) : Host.Outcome State Fault Refusal :=
  .next (unlessSafe s (stitchWatchdog s queue entry))

/-- QUEUE_NOPROGRESS: a queue without progress has its entries in flight and the one held at admission ended with TIMEOUT. -/
def queueNoprogress (s : State) (q : Nat) : State :=
  let x := queue s q
  let late := decide (x.moved + 1000000 * regN s 0x510006 0 ≤ wick s)
  if queueState s q ≠ 1 ∨ regN s 0x510006 0 = 0 ∨ queueOwes x = false ∨ late = false ∨ (hoop s (queueHoop s q)).inst ≠ .running
      ∨ s.power.backup = true then s
  else
    let s := hang s 2 q 15 0 (some (queueHoop s q)) (some (queueCtx s q))
    let s := (queue s q).flights.foldl (fun s f => stopEntry s q .timeout f.entry) s
    match (queue s q).entries with
    | (k, ws) :: _ => finishFlight (admitEntry (dropQueueWait s q) q k ws [] []) q k .timeout
    | [] => s
/-- QUEUE_NOPROGRESS. -/
def execQueueNoprogress (queue : Nat) (s : State) : Host.Outcome State Fault Refusal := .next (unlessSafe s (queueNoprogress s queue))

/-- LANTERN_HEARTBEAT: a lantern that has sent no heartbeat for HEARTBEAT_US gets an L2, and its stitch completes with TIMEOUT. That none came
is what the command says: heartbeats are not modelled (log 191). -/
def lanternHeartbeat (s : State) (l : Nat) : State :=
  let x := lantern s l
  if x.power ≠ .awake ∨ x.fenced = true ∨ s.snuffer.resets.any (fun o => resetContains s o 2 l) = true
      ∨ pll s (lanQuarter l) ≠ .running then s
  else
    let s := hang s 3 0 0 (physId s l) (lanternHoop s l) (x.cur.map (fun r => r.ctx))
    let s := match x.cur with
      | none => s
      | some r =>
        let s := chargeLantern s r.ctx (lanKind l) r.since
        killStrand (modLantern (dropWaits s l) l (fun x => { x with cur := none })) l r.ref .timeout
    startReset s { level := 2, target := l, trigger := 3, cause := .aborted, fences := [], start := wick s, phase := 0,
                   dumped := false, logAt := none }
/-- LANTERN_HEARTBEAT. -/
def execLanternHeartbeat (l : Nat) (s : State) : Host.Outcome State Fault Refusal := .next (unlessSafe s (lanternHeartbeat s l))

end Sys2Proof.Machine
end

