-- ==== Sys2Proof/Machine/Keeper.lean ====
section
/-! DEFINITION. The Keeper (R526 to R552): signed requests, life-cycle transitions and their progress marks, signed writes,
debug tokens, confidential mode and its key epochs, and the SPDM messages. -/

namespace Sys2Proof.Machine

/-! ### Signed requests (R530, R531) -/

/-- A request's fields (R530). -/
structure Request where
  type : Nat
  scheme : Nat
  uid : Nat
  counter : Nat
  target : Nat
  signer : Nat
  epoch : Nat
  notAfter : Nat
  payload : List Byte
  deriving DecidableEq, Repr

/-- Payload length field of a request. -/
def reqPayloadLen (bs : List Byte) : Nat := imgFld bs 40 4
/-- The fields of a request. -/
def parseRequest (bs : List Byte) : Request :=
  { type := imgFld bs 6 1, scheme := imgFld bs 7 1, uid := imgFld bs 8 8, counter := imgFld bs 16 8, target := imgFld bs 24 2,
    signer := imgFld bs 26 1, epoch := imgFld bs 28 4, notAfter := imgFld bs 32 8,
    payload := (bs.drop 64).take (reqPayloadLen bs) }

/-- A request that ends a token: it needs no signature (R540). -/
def endsToken (r : Request) : Bool := decide (r.type = 2) && decide (r.target = 0)

/-- The RWS entries (index and sub-index) and their sizes in bytes. -/
def rwsSize (e : Nat) : Option Nat :=
  match e with
  | 0x110009 => some 4 | 0x11000A => some 8 | 0x11000B => some 1 | 0x120008 => some 1 | 0x520006 => some 8
  | 0xB00002 => some 1 | _ => none
/-- The entry a TYPE 3 payload names (R532). -/
def rwsEntry (p : List Byte) : Nat := imgFld p 0 2 * 256 + imgFld p 2 1

/-- Is an ECDSA P-384 key field of an owner payload a SEC1 uncompressed point, 97 bytes from 0x04 on, padded with zeros to 104 (R533)? -/
def keyFieldOk (p : List Byte) (off : Nat) : Bool := decide (imgFld p off 1 = 4) && decide (imgFld p (off + 97) 7 = 0)
/-- Does a payload keep its TYPE's layout (R532, R533, R539, R541)? -/
def payloadOk (s : State) (r : Request) : Bool :=
  let p := r.payload
  match r.type with
  | 1 =>
    if r.target = 3 ∧ s.keeper.lc = 2 then
      let flags := imgFld p 0 8
      decide (flags < 4) && decide (flags % 2 = 0 ∨ flags / 2 = 1) && decide (p.length = if flags / 2 = 1 then 5408 else 224)
        && keyFieldOk p 16 && keyFieldOk p 120
    else p.isEmpty
  | 2 => p.isEmpty && decide (r.target < 8) && decide (r.notAfter ≠ 0)
  | 3 =>
    (match rwsSize (rwsEntry p) with
    | none => false
    | some n => decide (p.length = 8 + alignDown (n + 7) 8) && decide (imgFld p 3 5 = 0) && decide (leNat (p.drop (8 + n)) = 0))
  | 4 =>
    let op := imgFld p 0 1
    decide (p.length = 160) && decide (1 ≤ op ∧ op ≤ 3) && decide (imgFld p 1 7 = 0) && decide (imgFld p 12 4 = 0) &&
      (if op = 3 then decide (leNat (p.drop 8) = 0) else (Config.unwrapKey (p.drop 16)).isSome)
  | _ => false

/-- Code 1: does a request written to the entry of TYPE `t` keep its format (R530, R531)? TARGET is a reserved field in TYPE 3 and 4, where it
is 0 (R9; DEDUCED, log 199). -/
def requestFormatOk (s : State) (bs : List Byte) (t : Nat) : Bool :=
  let r := parseRequest bs
  let n := reqPayloadLen bs
  let sig := if endsToken r then 0 else sigBytes r.scheme
  decide (imgFld bs 0 4 = 0x5351524B) && decide (imgFld bs 4 2 = 1) && decide (r.type = t) && decide (r.scheme ≤ 1)
    && decide (n % 8 = 0 ∧ n ≤ 65536) && decide (64 + n + sig ≤ bs.length) && decide (imgFld bs 27 1 = 0) && decide (imgFld bs 44 20 = 0)
    && decide (r.type < 3 ∨ r.target = 0) && payloadOk s r

/-- The transitions of R528. -/
def transitionListed (src dst : Nat) : Bool :=
  [(0, 1), (1, 2), (2, 3), (3, 4), (4, 2)].contains (src, dst) || (decide (src ≠ 5) && decide (dst = 5))

/-- The signer the present state asks for: 0 vendor, 1 owner; none when the state gives the right to nobody (R527, R528, R532,
R541). -/
def signerOf (s : State) (type : Nat) : Option Nat :=
  let lc := s.keeper.lc
  match type with
  | 1 => if lc = 5 then none else some (if lc = 3 then 1 else 0)
  | 2 => if lc = 3 then some 1 else if lc = 2 ∨ lc = 4 then some 0 else none
  | 3 => if lc = 5 then none else some (if lc = 3 then 1 else 0)
  | _ => some 1

/-- Is a right of R527 open or granted: bit 0 debug, 1 readback, 2 scan? -/
def readoutOk (s : State) (right : Nat) : Bool :=
  let lc := s.keeper.lc
  let tok := match s.keeper.token with
    | some t => decide (t.rights / 2 ^ right % 2 = 1)
        && decide (some t.signer = signerOf s 2) && !tokenOver s t
    | none => false
  !s.keeper.conf && !wipePending s &&
    (decide (lc ≤ 1) || (decide (lc ≠ 5) && (decide (right ≠ 2) || decide (lc = 4)) && tok))

/-- Does an RWS entry take a value (R523, R527, R557)? -/
def rwsValueOk (s : State) (e v : Nat) : Bool :=
  match e with
  | 0x110009 => decide (60 ≤ v ∧ v ≤ 604800)
  | 0x11000A => decide (regN s 0x11000A 0 ≤ v)
  | 0x11000B => decide (v ≤ 1 ∧ regN s 0x11000B 0 ≤ v)
  | 0x520006 => decide (v % 4096 = 0) && hostExists s v 0x10000000 && readoutOk s 1
  | _ => decide (v ≤ 1)

/-- Code 8: is the request allowed in the present state and mode (R528, R532, R539)? -/
def requestAllowed (s : State) (r : Request) : Bool :=
  let lc := s.keeper.lc
  match r.type with
  | 1 => transitionListed lc r.target
  | 2 =>
    endsToken r || ((signerOf s 2).isSome && !s.keeper.conf && decide (r.target < 4 ∨ lc = 4)
      && decide (r.notAfter ≤ wick s + 1000000000 * regN s 0x110009 0))
  | 3 => decide (lc ≠ 5) && rwsValueOk s (rwsEntry r.payload) (leNat ((r.payload.drop 8)))
  | _ => decide (lc = 3)

/-- Does COUNTER keep its rule (R530)? -/
def counterOk (s : State) (r : Request) : Bool :=
  match r.type with
  | 1 => decide (r.counter = regN s 0x110005 0 + 1)
  | 2 => decide (r.counter = 0)
  | _ => decide (regN s 0x110006 0 < r.counter)

/-- Code 9's own preconditions of a confidential-mode command (R541). -/
def confBusy (s : State) (op : Nat) : Bool :=
  (List.range 1024).any (ctxLive s) || decide (s.keeper.step ≠ 0) || (decide (op = 1) && s.keeper.conf)
    || (decide (op ≠ 1) && !s.keeper.conf)

/-- The result of R531's checks, in their order. A WICK_EPOCH that is not 0 in a request without NOT_AFTER differs from what R530 gives it, and
is EXPIRED (DEDUCED, log 199). -/
def requestCode (s : State) (bs : List Byte) (type : Nat) : Nat :=
  let r := parseRequest bs
  let signed := 64 + reqPayloadLen bs
  let key := if r.signer = 0 then Config.vendorKey else leNat s.keeper.ctrlKey
  let free := endsToken r
  if !requestFormatOk s bs type then 1
  else if r.uid ≠ Config.uid.toNat then 2
  else if !free && (match signerOf s type with | some g => decide (g ≠ r.signer) | none => false) then 3
  else if !free && decide (r.scheme = 0) && decide (regN s 0x11000B 0 = 1) then 4
  else if !free && !Config.signatureOk r.scheme (bs.take signed) ((bs.drop signed).take (sigBytes r.scheme)) key then 5
  else if (r.notAfter ≠ 0 ∧ r.notAfter < wick s) ∨ r.epoch ≠ (if r.notAfter = 0 then 0 else regN s 0x11000D 0) then 6
  else if !counterOk s r then 7
  else if !requestAllowed s r then 8
  else if transitioning s ∨ (r.type = 4 ∧ confBusy s (imgFld r.payload 0 1) = true) then 9
  else 0

/-- Show a request's result and TYPE in LC_STATUS. -/
def lcStatus (s : State) (bs : List Byte) (code : Nat) : State := setReg s 0x110003 0 (code + 256 * imgFld bs 6 1)
/-- Check a request, show its result, and perform it when nothing refuses it. -/
def signedRequest (s : State) (bs : List Byte) (type : Nat) (f : State → Request → State) : State :=
  let code := requestCode s bs type
  let s := result (lcStatus s bs code) 0
  if code = 0 then f s (parseRequest bs) else s

/-! ### Transitions (R528, R529, R533 to R538) -/

/-- Does a transition need a phase (R528, R535)? -/
def phaseNeeded (src dst phase : Nat) : Bool :=
  match phase with
  | 3 | 4 => decide (dst ≠ 1)
  | 5 => decide (src = 2 ∧ dst = 3)
  | 6 => decide (dst = 5)
  | _ => decide (phase ≤ 7)
/-- The phase that follows. -/
def nextPhase (src dst phase : Nat) : Nat :=
  ((List.range 8).find? (fun p => decide (phase < p) && phaseNeeded src dst p)).getD 7
/-- The device runs on AUX: the bobbins are in self-refresh or have no power (R537). -/
def onAux (s : State) : Bool := s.power.backup || decide (s.power.step < 5)

/-- The state in force under a mark (R536). -/
def markState (m : Mark) : Nat := if m.phase = 7 ∨ (m.dst = 5 ∧ m.phase = 6) then m.dst else m.src

/-- Write the mark of a phase, and the state in force with it; RESET starts the cold L4 of R529 when the device runs. -/
def enterPhase (s : State) (m : Mark) : State :=
  let s := writeMark s m
  let s := { s with keeper := { s.keeper with lc := markState m } }
  if m.phase = 2 ∧ 5 ≤ s.power.step then
    startReset s { level := 5, target := 0, trigger := 0, cause := .resetAbort, fences := [], start := wick s, phase := 0,
                   dumped := false, logAt := none }
  else s

/-- A transition is accepted: its payload is staged, the counter rises, and a debug token ends (R531, R535, R540). -/
def acceptTransition (s : State) (r : Request) (hash : Nat) : State :=
  let n := regN s 0x110005 0 + 1
  let seq := ((latestMark s).map (fun m => m.seq + 1)).getD 0
  let m : Mark := { seq := seq, src := s.keeper.lc, dst := r.target, phase := 1, wipePending := wipePending s, counter := n,
                    hash := hash % 2 ^ 64 }
  let s := setReg s 0x110005 0 n
  let s := { s with keeper := { s.keeper with staging := r.payload, token := none } }
  enterPhase s m

/-- LC_REQUEST (R528 to R531): in SCRAP the entry takes no write. REQ_HASH is the first 8 bytes of the SHA-384. -/
def lcRequest (s : State) (who : Req) (bs : List Byte) : State :=
  gateWrite s who 0x110002 true (fun s =>
    if s.keeper.lc = 5 then result s 10
    else signedRequest s bs 1 (fun s r => acceptTransition s r (Config.sha384 bs)))
/-- TRANSITION_FACTORY_TEST. -/
def execTransitionFactoryTest (who : Req) (request : List Byte) (s : State) : Host.Outcome State Fault Refusal :=
  .next (lcRequest s who request)
/-- TRANSITION_PROVISIONED. -/
def execTransitionProvisioned (who : Req) (request : List Byte) (s : State) : Host.Outcome State Fault Refusal :=
  .next (lcRequest s who request)
/-- TRANSITION_MISSION. -/
def execTransitionMission (who : Req) (request : List Byte) (s : State) : Host.Outcome State Fault Refusal :=
  .next (lcRequest s who request)
/-- TRANSITION_FIELD_RETURN. -/
def execTransitionFieldReturn (who : Req) (request : List Byte) (s : State) : Host.Outcome State Fault Refusal :=
  .next (lcRequest s who request)
/-- TRANSITION_SCRAP. -/
def execTransitionScrap (who : Req) (request : List Byte) (s : State) : Host.Outcome State Fault Refusal :=
  .next (lcRequest s who request)

/-- Every SRAM is cleared: scratchpads, caches, quarter stores (R528, R537). -/
def clearSrams (s : State) : State :=
  let s := zeroStores s
  let s := { s with mem := { s.mem with cells := s.mem.cells.filter (fun p => decide (p.1 < 0xC000000000)), scratchPoison := [] } }
  { s with lan := s.lan.map (fun p => (p.1, { p.2 with cache := [], cores := [], chain := [[], [], [], []] })) }
/-- WIPE_DATA: usable HBM, the held-back regions and every SRAM hold zeros, and no dump image is valid any more; on AUX the HBM waits for
MAIN (R528, R537, DEDUCED, log 165). -/
def wipeData (s : State) : State :=
  let s := setRegFld (clearSrams s) 0x520003 0 62 62 0
  if onAux s then { s with mem := { s.mem with zeroed := false } }
  else { s with mem := { s.mem with cells := [], merges := [], corruptNext := [], zeroed := true } }

/-- The owner area: keys, policy, token, confidential mode, tenant keys (R528). -/
def wipeOwner (s : State) : State :=
  let s := endConf s
  let s := { s with keeper := { s.keeper with ctrlKey := [], imageKey := [], token := none } }
  setReg (setReg (setReg s 0x11000A 0 0) 0x11000B 0 0) 0x110009 0 28800
/-- WIPE_WICK: the crash-dump summary, valid no more (log 165), the error log but from MISSION to FIELD_RETURN, the owner area, and in SCRAP the Darner
map (R528). -/
def wipeWick (s : State) (m : Mark) : State :=
  let s := setRegFld { s with snuffer := { s.snuffer with summary := [] } } 0x520003 0 63 63 0
  let s := if m.src = 3 ∧ m.dst = 4 then s
    else { s with regs := s.regs.filter (fun p => decide (p.1 / 2 ^ 24 ≠ 0x500007)) }
  let s := wipeOwner s
  if m.dst = 5 then
    let s := { s with darner := { deadPhys := [], remaps := [], retired := [], queue := [], ces := [], chanRemaps := [],
                                  deadEngines := [] } }
    { s with regs := s.regs.filter (fun p => !([0xA00007, 0xA00008].contains (p.1 / 2 ^ 24))),
             lan := s.lan.map (fun p => (p.1, { p.2 with phys := p.1 % 64, retired := false })) }
  else s

/-- INSTALL: the owner keys and policy of the staged payload (R533). -/
def installOwner (s : State) : State :=
  let p := s.keeper.staging
  let flags := imgFld p 0 8
  let s := { s with keeper := { s.keeper with
      ctrlKey := (p.drop 16).take 104 ++ (p.drop 224).take 2592
      imageKey := (p.drop 120).take 104 ++ (p.drop 2816).take 2592
      staging := [] } }
  setReg (setReg s 0x11000A 0 (imgFld p 8 8)) 0x11000B 0 (flags % 2)

/-- A phase's work; RESET's is the reset that runs. -/
def phaseWork (s : State) (m : Mark) : State :=
  match m.phase with
  | 3 => wipeData s
  | 4 => wipeWick s m
  | 5 => installOwner s
  | 6 => { s with keeper := { s.keeper with trims := false } }
  | _ => s

/-- The cold L4 of RESET, or none when it is over. On AUX it ends once its domain is cleared: the zeroing waits for MAIN. -/
def resetRuns (s : State) : Option Reset := findReset s 5 0

/-- TRANSITION_PHASE_DONE: the phase's work is done and the next phase's mark is written; the transition ends with the mark of
COMMITTED (R529, R535 to R537). -/
def transitionPhaseDone (s : State) : State :=
  match latestMark s with
  | none => s
  | some m =>
    if 7 ≤ m.phase then s
    else
      let go (s : State) : State :=
        let s := phaseWork s m
        let next := nextPhase m.src m.dst m.phase
        let pending := m.wipePending || (decide (next = 3) && onAux s)
        enterPhase s { m with seq := m.seq + 1, phase := next, wipePending := pending }
      match m.phase, resetRuns s with
      | 2, some r => if onAux s ∧ r.phase = 2 then go (endReset s r) else s
      | _, _ => go s
/-- TRANSITION_PHASE_DONE. -/
def execTransitionPhaseDone (s : State) : Host.Outcome State Fault Refusal := .next (transitionPhaseDone s)

/-- At a start of the wick domain the marks tell the state, BLANK without any, and a transition goes on at its phase (R536). -/
def resumeMarks (s : State) : State :=
  match latestMark s with
  | none => { s with keeper := { s.keeper with lc := 0 } }
  | some m => { s with keeper := { s.keeper with lc := markState m } }

/-! ### Crash-dump export (R523) and signed writes (R532) -/

/-- DUMP_EXPORT takes an address: the export runs (R523). -/
def startExport (s : State) (a : Nat) : State :=
  let s := setReg s 0x520006 0 a
  setRegFld { s with snuffer := { s.snuffer with exportTo := some a } } 0x520003 0 61 60 1
/-- An RWS entry takes a value. -/
def rwsApply (s : State) (e v : Nat) : State := if e = 0x520006 then startExport s v else setReg s e 0 v

/-- May an RWS entry be written plainly (R532): only in BLANK and FACTORY_TEST? -/
def rwsPlain (s : State) : Bool := decide (s.keeper.lc ≤ 1)
/-- A plain write of an RWS entry: SIGNED where R532 refuses it, RANGE or STATE where the entry refuses the value. -/
def rwsWriteCode (s : State) (e v : Nat) : Nat :=
  if !rwsPlain s then 7
  else if e = 0x520006 ∧ readoutOk s 1 = false then 10
  else if !rwsValueOk s e v then 9
  else 0

/-- SIGNED_WRITE (R532). -/
def signedWrite (s : State) (who : Req) (bs : List Byte) : State :=
  gateWrite s who 0x11000E true (fun s =>
    signedRequest s bs 3 (fun s r =>
      rwsApply (setReg s 0x110006 0 r.counter) (rwsEntry r.payload) (leNat (r.payload.drop 8))))
/-- SIGNED_WRITE. -/
def execSignedWrite (who : Req) (request : List Byte) (s : State) : Host.Outcome State Fault Refusal :=
  .next (signedWrite s who request)

/-- DUMP_EXPORT written plainly: the write of R523 where the state permits one without a signature (R532). -/
def dumpExport (s : State) (who : Req) (v : Word) : State :=
  gateWrite s who 0x520006 false (fun s =>
    if !isManager who then result s 4
    else
      let code := rwsWriteCode s 0x520006 v.toNat
      if code = 0 then result (startExport s v.toNat) 0 else result s code)
/-- DUMP_EXPORT. -/
def execDumpExport (who : Req) (v : Word) (s : State) : Host.Outcome State Fault Refusal := .next (dumpExport s who v)

/-- The bytes of the image that differ from 0, at their places from `to_` on. -/
def imageCells (s : State) (to_ : Nat) : List Host.Cell :=
  (s.mem.cells.filter (fun p => decide (imageBase ≤ p.1) && decide (p.1 < imageBase + 0x10000000))).map
    (fun p => (to_ + (p.1 - imageBase), p.2))

/-- DUMP_EXPORT_DONE: the image has been copied to the host as device traffic, and the confirming read behind it is issued, which ends the
export; or the copy failed (R390, R523). -/
def dumpExportDone (s : State) (ok : Bool) : State :=
  match s.snuffer.exportTo with
  | none => s
  | some a =>
    let s := { s with snuffer := { s.snuffer with exportTo := none } }
    if ok ∧ hostUp s a = true then
      let h := hostAddr s a
      let to_ := hostKey h.1 h.2
      let s := portArrive (countP s h.1 0 0x10000000) (28 + 2 * h.1) none 0x10000000
      let kept := s.hostMem.filter (fun p => !(decide (to_ ≤ p.1) && decide (p.1 < to_ + 0x10000000)))
      let merged := (imageCells s to_).foldl (fun t p => tput t p.1 p.2) kept
      issueConfirm { s with hostMem := merged } h.1 .dumpExport
    else setRegFld s 0x520003 0 61 60 3
/-- DUMP_EXPORT_DONE. -/
def execDumpExportDone (ok : Bool) (s : State) : Host.Outcome State Fault Refusal := .next (dumpExportDone s ok)

/-! ### Debug tokens (R539, R540) -/

/-- DEBUG_TOKEN: a new token replaces the old one; TARGET 0 ends it (R539, R540). -/
def debugToken (s : State) (who : Req) (bs : List Byte) : State :=
  gateWrite s who 0x110007 true (fun s =>
    signedRequest s bs 2 (fun s r =>
      let t : Option Token := if endsToken r then none
        else some { rights := r.target, signer := r.signer, notAfter := r.notAfter, epoch := r.epoch }
      { s with keeper := { s.keeper with token := t } }))
/-- DEBUG_TOKEN. -/
def execDebugToken (who : Req) (request : List Byte) (s : State) : Host.Outcome State Fault Refusal :=
  .next (debugToken s who request)

/-- DEBUG_TOKEN_EXPIRE. -/
def debugTokenExpire (s : State) : State :=
  match s.keeper.token with
  | some t => if tokenOver s t then { s with keeper := { s.keeper with token := none } } else s
  | none => s
/-- DEBUG_TOKEN_EXPIRE. -/
def execDebugTokenExpire (s : State) : Host.Outcome State Fault Refusal := .next (debugTokenExpire s)

/-! ### Confidential mode (R541 to R552) -/

/-- Selectable counters' values clear, and staged dumps are discarded and counted as lost (R562, R567). -/
def clearSelValues (s : State) : State := { s with regs := s.regs.filter (fun p => decide (p.1 / 2 ^ 24 ≠ 0x600003)) }
/-- Staged dump records are discarded (R567). -/
def dropStagedDumps (s : State) : State :=
  { s with tele := { s.tele with lost := s.tele.lost + s.tele.staged.length, staged := [] } }

/-- Make an epoch ACTIVE with an eyelet key (R548, R550); its HBM key is one more the Keeper has generated. -/
def openEpoch (s : State) (e : Nat) (key : Option Nat) : State :=
  { s with keeper := { s.keeper with
      keys := s.keeper.keys.set e .active, eyeletKey := s.keeper.eyeletKey.set e key, generation := s.keeper.generation + 1 } }

/-- ENTER: epoch 0 is ACTIVE, every unit is handed to the scrub under it, readout ends (R544, R548, R549). -/
def confEnter (s : State) (p : List Byte) : State :=
  let k := { s.keeper with conf := true, tenant := imgFld p 8 4, keys := [.empty, .empty, .empty, .empty],
                           eyeletKey := [none, none, none, none], token := none, tags := [] }
  let s := openEpoch { s with keeper := k } 0 (Config.unwrapKey (p.drop 16))
  dropStagedDumps (clearSelValues (allUnits.foldl scrubUnit s))

/-- CHANGE or EXIT begins: the next epoch is ACTIVE and the old one drains (R550); TENANT_OP takes the value
written for this change (R480, R485). -/
def confChange (s : State) (p : List Byte) (exit_ : Bool) : State :=
  let e := (activeEpoch s).getD 0
  let s := takeStaged (tickThrottle s) [0x220003]
  let s := { s with keeper := { s.keeper with keys := s.keeper.keys.set e .draining, step := 2, drainAt := wick s, ending := exit_ } }
  let s := openEpoch s ((e + 1) % 4) (if exit_ then none else Config.unwrapKey (p.drop 16))
  if exit_ then s else { s with keeper := { s.keeper with tenant := imgFld p 8 4 } }

/-- CONF_COMMAND (R541): the entry takes writes only in MISSION. -/
def confCommand (s : State) (who : Req) (bs : List Byte) : State :=
  gateWrite s who 0x110010 true (fun s =>
    if s.keeper.lc ≠ 3 then result s 10
    else signedRequest s bs 4 (fun s r =>
      let s := setReg s 0x110006 0 r.counter
      match imgFld r.payload 0 1 with
      | 1 => confEnter s r.payload
      | op => confChange s r.payload (decide (op = 3))))
/-- ENTER. -/
def execEnter (who : Req) (cmd : List Byte) (s : State) : Host.Outcome State Fault Refusal := .next (confCommand s who cmd)
/-- CHANGE. -/
def execChange (who : Req) (cmd : List Byte) (s : State) : Host.Outcome State Fault Refusal := .next (confCommand s who cmd)
/-- EXIT. -/
def execExit (who : Req) (cmd : List Byte) (s : State) : Host.Outcome State Fault Refusal := .next (confCommand s who cmd)

/-- The epoch in a state. -/
def epochIn (s : State) (k : KeyState) : Option Nat := (List.range 4).find? (fun e => s.keeper.keys.getD e .empty = k)
/-- KEY_DRAIN: mover descriptors of an epoch, requests of it outstanding at the eyelets, and at the host ports; a host
access of this model is answered in its own step, so the last is 0. -/
def keyDrain (s : State) (e : Nat) : List Nat :=
  [(s.movers.filter (fun p => decide (p.2.key = e))).length + (s.moverQ.filter (fun p => decide (p.2.key = e))).length,
   ((outstanding s).filter (fun r => decide (r.key = e))).length, 0]

/-- KEY_EPOCH_DRAINED: the drain counters are 0 or 10 ms have passed. The epoch's keys are destroyed, what it still has
outstanding completes with KEY_RETIRED, and the scrub starts (R550, R551). -/
def keyEpochDrained (s : State) : State :=
  match s.keeper.step, epochIn s .draining with
  | 2, some e =>
    if (keyDrain s e).any (fun n => decide (n ≠ 0)) && decide (wick s < s.keeper.drainAt + 10000000) then s
    else
      let k := { s.keeper with keys := s.keeper.keys.set e .destroyed, eyeletKey := s.keeper.eyeletKey.set e none, step := 4 }
      let s := { s with keeper := k }
      let s := completeRemotes s (fun r => decide (r.key = e)) .keyRetired
      let old := s.movers.filter (fun p => decide (p.2.key = e))
      let s := old.foldl (fun s p => killMover s (p.1 / 16) (p.1 % 16) .keyRetired) s
      let late := s.moverQ.filter (fun p => decide (p.2.key = e))
      late.foldl (fun s p => stopEntry s p.2.queue .keyRetired p.2.entry) s
  | _, _ => s
/-- KEY_EPOCH_DRAINED. -/
def execKeyEpochDrained (s : State) : Host.Outcome State Fault Refusal := .next (keyEpochDrained s)

/-- KEY_SCRUB_DONE: every unit tagged with the destroyed epoch holds zeros, written as device traffic (R435), under the ACTIVE one and carries
its tag; the
epoch is EMPTY again, and after EXIT the mode is off (R550, R552). -/
def keyScrubDone (s : State) : State :=
  match s.keeper.step, epochIn s .destroyed, activeEpoch s with
  | 4, some e, some a =>
    let s := tickThrottle s
    let units := allUnits.filter (fun u => decide (unitTag s u = e))
    let s := units.foldl (fun s u =>
      let n := if u % 32 = 31 then 0x40000000 else 0x80000000
      let s := zeroRun s (u / 32 * 0x1000000000 + u % 32 * 0x80000000) n
      let s := portArrive (countB s (u / 32) 1 n) (u / 32) none n
      { s with keeper := { s.keeper with tags := cput (fun _ => 0) s.keeper.tags u a } }) s
    let k := { s.keeper with keys := s.keeper.keys.set e .empty, step := 0, ending := false }
    if s.keeper.ending then clearSelValues { s with keeper := { k with conf := false, tenant := 0 } }
    else { s with keeper := k }
  | _, _, _ => s
/-- KEY_SCRUB_DONE. -/
def execKeyScrubDone (s : State) : Host.Outcome State Fault Refusal := .next (keyScrubDone s)

/-! ### SPDM (R547) -/

/-- An SPDM response whose bytes the SPDM specification lays out: free bytes. -/
def spdmFree (s : State) (n : Nat) : State :=
  let d := freeBytes n s
  reply d.2 d.1 false 0
/-- GET_VERSION. -/
def execGetVersion (_who : Req) (s : State) : Host.Outcome State Fault Refusal := .next (spdmFree s 8)
/-- GET_CAPABILITIES. -/
def execGetCapabilities (_who : Req) (s : State) : Host.Outcome State Fault Refusal := .next (spdmFree s 20)
/-- NEGOTIATE_ALGORITHMS. -/
def execNegotiateAlgorithms (_who : Req) (s : State) : Host.Outcome State Fault Refusal := .next (spdmFree s 52)

/-- The identity chain of slot 0. -/
def certChain : List Byte := (List.range Config.certificateLength).map Config.certificate
/-- GET_DIGESTS: the digest of slot 0's chain. -/
def execGetDigests (_who : Req) (s : State) : Host.Outcome State Fault Refusal :=
  .next (reply s (leBytes 48 (Config.sha384 certChain)) false 0)
/-- GET_CERTIFICATE: slot 0's chain. -/
def execGetCertificate (_who : Req) (s : State) : Host.Outcome State Fault Refusal := .next (reply s certChain false 0)
/-- CHALLENGE: the answer holds a digest, a nonce of the unit and a signature, all free. -/
def execChallenge (_who : Req) (_nonce : Nat) (s : State) : Host.Outcome State Fault Refusal := .next (spdmFree s 240)

/-- The hoop that a requesting function fronts. -/
def attestHoop (s : State) (who : Req) : Option Nat := match who with | .vf n => vfHoop s n | _ => none
/-- The measurements of R547, index 3 to 8, as bytes of this model's layout; 1 and 2 are free digests. -/
def measurements (s : State) (who : Req) : List Byte :=
  let lc := leBytes 1 0x11 ++ leBytes 8 Config.uid.toNat ++ leBytes 1 s.keeper.lc ++ leBytes 8 (regN s 0x110005 0)
  let keys := leBytes 48 (Config.sha384 (s.keeper.ctrlKey ++ s.keeper.imageKey)) ++ leBytes 1 (regN s 0x11000B 0)
  let conf := leBytes 1 (b1 s.keeper.conf) ++ leBytes 4 s.keeper.tenant ++ leBytes 1 ((activeEpoch s).getD 0)
    ++ leBytes 1 (regN s 0xB00002 0)
  let ide := match who with
    | .vf n =>
      let p := port s (vfPort s n)
      leBytes 1 (b1 p.ideLink) ++ leBytes 1 (b1 (!p.ideSel.isEmpty))
        ++ leBytes 1 (match (vf s n).tdisp with | .unlocked => 0 | .locked => 1 | .run => 2 | .error => 3)
    | .pf p => leBytes 1 (b1 (port s p).ideLink) ++ leBytes 2 (b1 (!(port s p).ideSel.isEmpty))
    | .mgmt => leBytes 3 0
  let hoopPart := match attestHoop s who with
    | none => []
    | some h =>
      (hoop s h).images.flatMap (fun i => leBytes 48 (Config.sha384 (i.parts.flatMap (fun p => rbs s p.1 p.2)))
        ++ leBytes 8 (leNat (rbs s ((i.parts.headD (0, 0)).1 + 32) 8)))
      ++ wordBytes (hoop s h).desc ++ wordBytes (bankRow (curBank s) h)
  lc ++ keys ++ conf ++ ide ++ hoopPart
/-- GET_MEASUREMENTS. -/
def getMeasurements (s : State) (who : Req) : State :=
  let d := freeBytes 96 s
  reply d.2 (d.1 ++ measurements s who) false 0
/-- GET_MEASUREMENTS. -/
def execGetMeasurements (who : Req) (s : State) : Host.Outcome State Fault Refusal := .next (getMeasurements s who)

/-- KEY_EXCHANGE: a session opens and waits for FINISH. -/
def keyExchange (s : State) (who : Req) : State :=
  let s := { s with keeper := { s.keeper with opening := s.keeper.opening.filter (fun r => decide (r ≠ who)) ++ [who] } }
  spdmFree s 240
/-- KEY_EXCHANGE. -/
def execKeyExchange (who : Req) (s : State) : Host.Outcome State Fault Refusal := .next (keyExchange s who)
/-- FINISH: the requester's session is secured; without a KEY_EXCHANGE it is refused. -/
def finish (s : State) (who : Req) : State :=
  if s.keeper.opening.contains who then
    let k := { s.keeper with opening := s.keeper.opening.filter (fun r => decide (r ≠ who)),
                             sessions := s.keeper.sessions.filter (fun r => decide (r ≠ who)) ++ [who] }
    spdmFree { s with keeper := k } 4
  else reply s [] false 1
/-- FINISH. -/
def execFinish (who : Req) (s : State) : Host.Outcome State Fault Refusal := .next (finish s who)

end Sys2Proof.Machine
end

