-- ==== Sys2Proof/Machine/HostPort.lean ====
section
/-! DEFINITION. The host ports (R354 to R367, R390): Function Level Resets, PERSTn, link training, CXL .mem, the fence window,
TDISP and IDE, confirming reads, and the debug port (R527, R539). -/

namespace Sys2Proof.Machine

/-! ### Resets from a port (R360, R508, R604, R605) -/

/-- Request a reset for a port event: one that a running reset's domain contains at its level or above adds nothing
(R508, R517). -/
def portReset (s : State) (level target : Nat) : State :=
  if s.snuffer.resets.any (fun o => resetContains s o level target && decide (level ≤ o.level)) then s
  else startReset s { level := level, target := target, trigger := 4, cause := .resetAbort, fences := [], start := wick s,
                      phase := 0, dumped := false, logAt := none }

/-- A VF's rows of VF_HOOP and VF_QUEUE_BLOCK as written. -/
def writtenVf (s : State) (n : Nat) : Vf :=
  let h := cell s 0x900005 n 0
  let b := cell s 0x900006 n 0
  { hoop := if bit h 15 then some (fld h 5 0) else none, first := fld b 27 16, count := 64 * fld b 6 0, tdisp := .unlocked }

/-- FLR_VF: an L3 of the hoop the VF fronted; the VF's rows come into force. A VF that takes an FLR exists, so its port's
VF Enable is set (R360, R396). -/
def flrVf (s : State) (n : Nat) : State :=
  if vfSplit s + regN s 0x900004 1 ≤ n then s
  else
    let p := vfPort s n
    let s := match vfHoop s n with
      | some h => if vfEnabled s n && hoopLive s h then portReset s 3 h else s
      | none => s
    let s := modPort s p (fun x => { x with vfEnable := true })
    let s := modVf s n (fun _ => writtenVf s n)
    { s with server := { s.server with mailboxes := tdel s.server.mailboxes n } }
/-- FLR_VF. -/
def execFlrVf (n : Nat) (s : State) : Host.Outcome State Fault Refusal := .next (flrVf s n)

/-- The hoops that a port's PF and VFs front (R359). -/
def portHoops (s : State) (p : Nat) : List Nat := (List.range 64).filter (fun h => hoopLive s h && hoopAtPort s h p)

/-- FLR_PF: VF Enable clears, and every hoop that the PF or its VFs fronted has an L3 (R360). -/
def flrPf (s : State) (p : Nat) : State :=
  if 2 ≤ p then s
  else
    let hs := portHoops s p
    let s := modPort s p (fun x => { x with vfEnable := false })
    let vfs := (List.range 64).filter (fun n => decide (vfPort s n = p))
    let s := vfs.foldl (fun s n => modVf s n (fun v => { v with tdisp := .unlocked })) s
    let s := { s with server := { s.server with mailboxes := tdel s.server.mailboxes (64 + p) } }
    hs.foldl (fun s h => portReset s 3 h) s
/-- FLR_PF. -/
def execFlrPf (port : Nat) (s : State) : Host.Outcome State Fault Refusal := .next (flrPf s port)

/-- A Fundamental Reset takes effect: of H0 a cold L4; of H1 in two-port mode an L3 of its hoops, and H1 trains anew (R508). -/
def perstNow (s : State) (p : Nat) : State :=
  if p = 0 then portReset s 5 0
  else if regN s 0x900001 0 = 1 then
    let hs := portHoops s 1
    let s := modPort s 1 (fun x => { Port.reset with perst := x.perst, ready := x.ready })
    hs.foldl (fun s h => portReset s 3 h) s
  else s
/-- Are PERSTn edges only recorded: during power-up and backup operation (R604, R605)? -/
def perstHeld (s : State) : Bool := s.power.backup || decide (s.power.step < 6)
/-- Record an edge: port p asserted as p, released as p + 2. -/
def recordPerst (s : State) (k : Nat) : State :=
  { s with snuffer := { s.snuffer with perstPending := s.snuffer.perstPending ++ [k] } }

/-- PERST: PERSTn_N of a port is asserted (R508, R604, R605). -/
def perst (s : State) (p : Nat) : State :=
  if 2 ≤ p ∨ (port s p).perst = true then s
  else if perstHeld s then recordPerst (modPort s p (fun x => { x with perst := true })) p
  else perstNow (modPort s p (fun x => { x with perst := true, trained := false })) p
/-- PERST. -/
def execPerst (port : Nat) (s : State) : Host.Outcome State Fault Refusal := .next (perst s port)

/-- PERST_RELEASE: the port may train once the hub is ready; in backup operation the release is recorded (R604, R605). -/
def perstRelease (s : State) (p : Nat) : State :=
  if 2 ≤ p ∨ (port s p).perst = false then s
  else
    let s := modPort s p (fun x => { x with perst := false })
    if s.power.backup then recordPerst s (p + 2) else s
/-- PERST_RELEASE. -/
def execPerstRelease (port : Nat) (s : State) : Host.Outcome State Fault Refusal := .next (perstRelease s port)

/-- The recorded edges take effect, in their order. -/
def takePerst (s : State) : State :=
  let ks := s.snuffer.perstPending
  let s := { s with snuffer := { s.snuffer with perstPending := [] } }
  ks.foldl (fun s k => if k < 2 then perstNow (modPort s k (fun x => { x with trained := false })) k else s) s

/-- HOST_LINK_TRAINED: a port comes up at a width, speed and protocol that PORT_MODE, MAX_SPEED and R362 allow (R354, R604). -/
def hostLinkTrained (s : State) (p width speed : Nat) (flit cxl : Bool) : State :=
  let mode := regN s 0x900001 0
  let widths := if mode = 1 then [8, 4, 2] else [16, 8, 4]
  if 2 ≤ p ∨ (p = 1 ∧ mode ≠ 1) ∨ (port s p).perst = true ∨ (port s p).ready = false ∨ s.power.step < 5
      ∨ widths.contains width = false ∨ speed = 0 ∨ 3 < speed ∨ regN s 0x900002 0 < speed ∨ flit ≠ decide (speed = 3)
      ∨ (cxl = true ∧ speed < 2) then s
  else modPort s p (fun x => { x with trained := true, width := width, speed := speed, flit := flit, cxl := cxl })
/-- HOST_LINK_TRAINED. -/
def execHostLinkTrained (port width speed : Nat) (flitMode cxl : Bool) (s : State) : Host.Outcome State Fault Refusal :=
  .next (hostLinkTrained s port width speed flitMode cxl)

/-! ### CXL .mem (R362, R363) -/

/-- A decoder that is not committed. -/
def decoderNone : Decoder := { hoop := none, base := 0, size := 0, ways := 1, gran := 256 }
/-- Decoder d of a port. -/
def decoder (s : State) (p d : Nat) : Decoder := (port s p).decoders.getD d decoderNone

/-- HDM_DECODER_COMMIT: the decoder serves the hoop that its row of CXL_HDM_HOOP names (R362, R363). -/
def hdmDecoderCommit (s : State) (p d base size ways gran : Nat) : State :=
  let row := cell s 0x900008 (4 * p + d) 0
  if 2 ≤ p ∨ 4 ≤ d ∨ (port s p).cxl = false ∨ [1, 2, 4, 8].contains ways = false
      ∨ [256, 512, 1024, 2048, 4096, 8192, 16384].contains gran = false then s
  else
    let x : Decoder := { hoop := if bit row 7 then some (fld row 5 0) else none, base := base, size := size, ways := ways, gran := gran }
    modPort s p (fun y => { y with decoders := (y.decoders ++ List.replicate (4 - y.decoders.length) decoderNone).set d x })
/-- HDM_DECODER_COMMIT. -/
def execHdmDecoderCommit (port dec base size ways gran : Nat) (s : State) : Host.Outcome State Fault Refusal :=
  .next (hdmDecoderCommit s port dec base size ways gran)

/-- The bound memory of a hoop as local runs in ascending order: unit 31 of a bobbin has 1 GiB of usable memory. -/
def boundRuns (s : State) (h : Nat) : List (Nat × Nat) :=
  (allUnits.filter (descHasUnit (hoop s h).desc)).map
    (fun u => (u / 32 * 0x1000000000 + u % 32 * 0x80000000, if u % 32 = 31 then 0x40000000 else 0x80000000))
/-- The local address of byte `dpa` of a list of runs. -/
def runAddr : List (Nat × Nat) → Nat → Option Nat
  | [], _ => none
  | (a, n) :: rest, dpa => if dpa < n then some (a + dpa) else runAddr rest (dpa - n)
/-- The local run of a .mem access: its hoop is live, in memory role and bound there, and the run lies in one unit's bytes. -/
def memRun (s : State) (p d dpa len : Nat) : Option (Nat × Nat) :=
  match (decoder s p d).hoop with
  | none => none
  | some h =>
    if hoopLive s h && decide (hoopRole s h = 1) && (port s p).cxl && decide (0 < len) then
      match runAddr (boundRuns s h) dpa, runAddr (boundRuns s h) (dpa + len - 1) with
      | some a, some b => if b = a + len - 1 then some (h, a) else none
      | _, _ => none
    else none
/-- CXL_MEM_READ: the hoop's memory, or poison outside it, counted (R363). -/
def cxlMemRead (s : State) (p d dpa len : Nat) : State :=
  match memRun s p d dpa len with
  | none => reply (countP s p 5 1) (List.replicate len 0) true 0
  | some (h, a) => cxlAccess s p h a len none
/-- CXL_MEM_READ. -/
def execCxlMemRead (port dec dpa len : Nat) (s : State) : Host.Outcome State Fault Refusal :=
  .next (cxlMemRead s port dec dpa len)

/-- CXL_MEM_WRITE: performed in the hoop's memory, or dropped and counted (R363); memory that an image holds is not written (R157). -/
def cxlMemWrite (s : State) (p d dpa : Nat) (data : List Byte) : State :=
  match memRun s p d dpa data.length with
  | none => countP s p 5 1
  | some (h, a) => cxlAccess s p h a data.length (some data)
/-- CXL_MEM_WRITE. -/
def execCxlMemWrite (port dec dpa : Nat) (data : List Byte) (s : State) : Host.Outcome State Fault Refusal :=
  .next (cxlMemWrite s port dec dpa data)

/-! ### The fence window and BAR drops (R365, R366) -/

/-- May the contexts of the requester's hoop use a fence (R366, R410)? -/
def windowFence (s : State) (who : Req) (f : Nat) : Bool :=
  let x := fence s f
  match who with
  | .vf n =>
    (match vfHoop s n with
    | some h => x.valid && (match x.use with
      | 0 => ctxOf s h x.owner
      | 1 => decide (x.hoop = h)
      | _ => decide (x.use = 2))
    | none => false)
  | _ => true
/-- FENCE_WINDOW_READ: the fence's value, 0 of an alias (R411); 0, counted, for a VF that may not use it (R366). Its 8 bytes cross the port
(R437). -/
def fenceWindowRead (s : State) (who : Req) (f : Nat) : State :=
  if 16384 ≤ f then reply s (leBytes 8 0) false 0
  else
  let s := hostCross s who 0 none 8
  if windowFence s who f then reply s (leBytes 8 (if (fence s f).alias_ then 0 else (fence s f).value)) false 0
  else reply (countP s (reqPort s who) 6 1) (leBytes 8 0) false 0
/-- FENCE_WINDOW_READ. -/
def execFenceWindowRead (who : Req) (fence : Nat) (s : State) : Host.Outcome State Fault Refusal :=
  .next (fenceWindowRead s who fence)

/-- A word of a queue's doorbell page as it reads (R371). -/
def doorbellWord (s : State) (q i : Nat) : Nat :=
  match i with
  | 0 => (queue s q).tail
  | 1 => (queue s q).cqHead
  | 2 => sqHead (queue s q)
  | _ => (cell s 0x900012 q 0).toNat
/-- A dropped access of BAR0 (R299, R365, R590): in the dictionary window it is counted, and so is a write to a reserved offset; a write to the
broadcast-invalidation page is counted in the hub's row of COUNTERS. Whether a read of that page, or an access of the fence window that is
no read of a fence, is counted the spec does not say: a read is not, a write is (DESIGN CHOICE, log 142). -/
def bar0Drop (s : State) (off : Nat) (isRead : Bool) : State :=
  if off < 0x2000000 then dropDoorbell s
  else if isRead then s
  else if off < 0x2001000 then invalDropped s
  else dropDoorbell s
/-- BAR_ACCESS_DROP: an access of BAR0 or BAR2 that is no command of its own. It is dropped and counted as its page asks, and a read answers 0;
an aligned read of a word of a doorbell page that the function owns is answered (R365, R371). -/
def barAccessDrop (s : State) (who : Req) (bar off len : Nat) (isRead : Bool) : State :=
  let q := off / 4096
  let at_ := off % 4096
  if bar = 0 then reply (bar0Drop s off isRead) (List.replicate (if isRead then len else 0) 0) false 0
  else if isRead ∧ (len = 4 ∨ len = 8) ∧ at_ % 8 = 0 ∧ at_ < 32 ∧ ownsQueue s who q = true then
    reply s (leBytes len (doorbellWord s q (at_ / 8))) false 0
  else reply (dropDoorbell s) (List.replicate (if isRead then len else 0) 0) false 0
/-- BAR_ACCESS_DROP. -/
def execBarAccessDrop (access : BarAccess) (isRead : Bool) (s : State) : Host.Outcome State Fault Refusal :=
  .next (barAccessDrop s access.who access.bar access.off access.len isRead)

/-! ### TDISP and IDE (R361, R542) -/

/-- IDE_STREAM_SETUP: a link stream, or one of four selective streams. -/
def ideStreamSetup (s : State) (p stream : Nat) (selective : Bool) : State :=
  if 2 ≤ p ∨ (port s p).trained = false ∨ (selective = true ∧ 4 ≤ stream) then s
  else if selective then modPort s p (fun x => { x with ideSel := insertNat x.ideSel stream })
  else modPort s p (fun x => { x with ideLink := true })
/-- IDE_STREAM_SETUP. -/
def execIdeStreamSetup (port stream : Nat) (selective : Bool) (s : State) : Host.Outcome State Fault Refusal :=
  .next (ideStreamSetup s port stream selective)

/-- TDISP_REQUEST: LOCK from CONFIG_UNLOCKED, START from CONFIG_LOCKED, STOP from any state; in confidential mode START needs a
selective IDE stream on the port (R361, R542). -/
def tdispRequest (s : State) (n : Nat) (r : TdispReq) : State :=
  if !vfEnabled s n then reply s [] false 1
  else
    let set (t : Tdisp) : State := reply (modVf s n (fun v => { v with tdisp := t })) [] false 0
    match r, (vf s n).tdisp with
    | .lock, .unlocked => set .locked
    | .start, .locked => if s.keeper.conf && (port s (vfPort s n)).ideSel.isEmpty then reply s [] false 1 else set .run
    | .stop, _ => set .unlocked
    | _, _ => reply s [] false 1
/-- TDISP_REQUEST. -/
def execTdispRequest (n : Nat) (r : TdispReq) (s : State) : Host.Outcome State Fault Refusal := .next (tdispRequest s n r)

/-! ### Confirming reads (R390) -/

/-- The outcome of a confirming read over a port. On Unsupported Request or Completer Abort every write it follows is taken as failed, and
counted there; dump records taken as failed, and those written after them, go back to the staging ring (R304, R310, R390, R394, R566). -/
def confirmed (s : State) (what : Confirm) (p : Nat) (ok : Bool) : State :=
  if ok then
    match what with
    | .dump => { s with tele := { s.tele with ringed := s.tele.ringed.drop 1 } }
    | .dumpExport => setRegFld s 0x520003 0 61 60 2
    | _ => s
  else
    let s := countP s p 4 1
    match what with
    | .ring q => if queueState s q = 1 ∨ queueState s q = 2 ∨ queueState s q = 4 then queueError s q 3 else s
    | .work q e => workUndelivered s q e
    | .faults h => setReg s 0x710004 h 2
    | .inval _ => bump s 0x700007 0
    | .dump =>
      let t := s.tele
      let s := { s with fab := { s.fab with confirms := s.fab.confirms.filter (fun c => decide (c.1 ≠ Confirm.dump)) } }
      { s with tele := { t with error := true, staged := t.ringed ++ t.staged, ringed := [], written := t.written - t.ringed.length } }
    | .save h => setRegFld s 0x110019 h 3 0 11
    | .dumpExport => setRegFld s 0x520003 0 61 60 3
/-- CONFIRMING_READ_DONE: the oldest outstanding confirming read of its kind returns; with none outstanding nothing happens (R390). -/
def confirmingReadDone (s : State) (what : Confirm) (ok : Bool) : State :=
  match s.fab.confirms.find? (fun c => decide (c.1 = what)) with
  | none => s
  | some c =>
    confirmed { s with fab := { s.fab with confirms := dropFirst (fun x => decide (x.1 = what)) s.fab.confirms } } what c.2 ok
/-- CONFIRMING_READ_DONE. -/
def execConfirmingReadDone (what : Confirm) (ok : Bool) (s : State) : Host.Outcome State Fault Refusal :=
  .next (unlessSafe s (confirmingReadDone s what ok))

/-! ### The debug port (R527, R539, R540) -/

/-- The right an access of the debug port needs: 0 debug, 1 readback of memory, 2 scan. -/
def debugRight (a : DebugAcc) : Nat := match a with | .readLocal _ _ => 1 | .scan => 2 | _ => 0
/-- Is an access allowed now? A token that has ended gives no rights; a memory read needs DEBUG and READBACK. -/
def debugOk (s : State) (a : DebugAcc) : Bool :=
  let s := debugTokenExpire s
  match a with
  | .readLocal _ _ => readoutOk s 0 && readoutOk s 1
  | _ => readoutOk s (debugRight a)

/-- Does every byte of a debug access exist, in one range of R282? -/
def debugExists (s : State) (a n : Nat) : Bool := (region s a).isSome && decide (region s a = region s (a + n - 1))
/-- Is a scratchpad run backed, where the access is to one (R284)? -/
def debugBacked (s : State) (a n : Nat) : Bool := decide (region s a ≠ some .scratch) || windowOk s none a n

/-- DEBUG_PORT_ACCESS: performed as device traffic, or refused; run control halts a lantern, lets it run, or lets it issue one op or
instruction (R527; DESIGN CHOICE, log 198). Scan chains are not described (R527). -/
def execDebugPortAccess (acc : DebugAcc) (s : State) : Host.Outcome State Fault Refusal :=
  if !debugOk s acc then .next (refuse (debugTokenExpire s) .rights)
  else
    match acc with
    | .scan => .refused .scanChainNotDescribed
    | .readLocal a n =>
      if !debugExists s a n then .fault .nonexistentLocal
      else if !debugBacked s a n then .next (refuse s .rights)
      else if 0xD000000000 ≤ a then .next (answerData (readHost s devWho a n))
      else .next (debugLocal s a n none)
    | .writeLocal a data =>
      if !debugExists s a data.length then .fault .nonexistentLocal
      else if !debugBacked s a data.length then .next (refuse s .rights)
      else if 0xD000000000 ≤ a then .next (reply (writeHost s devWho a data false) [] false 0)
      else .next (debugLocal s a 0 (some data))
    | .readState l => .next (reply s (leBytes 8 (match (lantern s l).cur with | some r => r.pos | none => 0)) false 0)
    | .control l run => .next (reply (modLantern s l (fun x => { x with run := run % 3 })) [] false 0)

end Sys2Proof.Machine
end

