-- ==== Sys2Proof/Machine/Power.lean ====
section
/-! DEFINITION. Supplies, power states, operating points and the Mantle's limiters (R451 to R485), power-up and power-down
(R602 to R606). -/

namespace Sys2Proof.Machine

/-! ### Supplies (R451 to R460, R602 to R606) -/

/-- The dictionary cells whose values the wick store holds (R489, R531, R557, R573, R574, and the counts since manufacture). -/
def wickCell (k : Nat) : Bool :=
  [0x500001, 0x500002, 0x500003, 0x500004, 0x500008, 0x110005, 0x110006, 0x110009, 0x11000A, 0x11000B, 0x11000D, 0xA00007, 0xA00008,
    0xA0000A, 0xA0000B].contains (k / 2 ^ 24)
/-- Only the dump number stays of DUMP_STATUS. -/
def wickCells (s : State) : Table Word :=
  let t := s.regs.filter (fun p => wickCell p.1)
  cput cellDefault t (cellKey 0x520003 0 0) (wd (fld (cell s 0x520003 0 0) 31 0))

/-- Both supplies are gone: only the wick store survives, beside the host's own memory and pins (R459, R603). -/
def powerOff (s : State) : State :=
  let k := s.keeper
  let keeper : Keeper := { State.reset.keeper with
    markA := k.markA, markB := k.markB, lc := k.lc, staging := k.staging, ctrlKey := k.ctrlKey, imageKey := k.imageKey,
    trims := k.trims, generation := k.generation }
  let darner : Darner := { s.darner with queue := [], ces := [] }
  let lan := s.lan.map (fun p => (p.1, { Lantern.reset p.1 with phys := p.2.phys, retired := p.2.retired }))
  let power : PowerUnit := { State.reset.power with
    mainPresent := false, mainOk := false, auxOk := false, started := false, ready := false, step := 0 }
  let ports := s.ports.map (fun p : Port => { Port.reset with perst := p.perst, ready := false })
  let s0 : State := { State.reset with pending := s.pending, free := s.free, hostMem := s.hostMem, hostPoison := s.hostPoison, regs := wickCells s }
  { s0 with keeper := keeper, darner := darner, lan := lan, power := power, ports := ports,
            mem := { State.reset.mem with zeroed := false } }

/-- Is backup operation possible: Jeotte is powered up and AUX is in range (R455, R605)? -/
def canBackUp (s : State) : Bool := s.power.ready && s.power.auxOk && decide (s.power.step = 6)

/-- The rails are down: power-up goes on from step 3 when MAIN next enters its range (R605). -/
def railsDown (s : State) (main : Bool) : State :=
  let p := { s.power with mainPresent := main, mainOk := false, ready := false, step := min s.power.step (if main then 3 else 2) }
  let ports := s.ports.map (fun p : Port => { Port.reset with perst := p.perst, ready := false })
  let mem := { s.mem with zeroed := false }
  { s with power := p, ports := ports, mem := mem }

/-- MAIN_LOST (R453, R455, R459, R605): with AUX in range the switch-over is at step 3, counted, and class 19 is latched: steps 1 and 2 pass
within the command (log 194). Without AUX the hold-up bank carries on. Before step 6, and in WICK_ONLY, only the rails go down. -/
def mainLost (s : State) : State :=
  if !s.power.mainPresent then s
  else
  let s := { s with power := { s.power with mainLow := false } }
  if s.power.backup then { s with power := { s.power with mainPresent := false, mainOk := false } }
  else if s.power.step < 6 ∨ s.power.sleep = 3 then
    if s.power.auxOk then railsDown s false else powerOff s
  else if canBackUp s then
    let s := tickThrottle s
    let s := { s with power := { s.power with mainPresent := false, mainOk := false, backup := true, backupStep := 3 } }
    let s := setRegFld s 0x200004 0 31 0 (fld (cell s 0x200004 0 0) 31 0 + 1)
    latch s (hubFault 19 0)
  else { s with power := { s.power with mainPresent := false, mainOk := false } }
/-- MAIN_LOST. -/
def execMainLost (s : State) : Host.Outcome State Fault Refusal := .next (mainLost s)

/-- The engines' rails are off: lanterns keep what retention keeps, PLLs stop, eyelets go DOWN (R455 steps 5 and 6, R461). A quarter's
activity goes on falling by no more than 64 an interval (R474). A cold
wake that was under way begins anew at the lantern's next use; a lantern that joins its hoop at a re-bind goes on waking when the
rails return (R55, R59). -/
def engineRailsOff (s : State) : State :=
  let s := (List.range 8).foldl eyeDown s
  let joins := fun l : Nat => s.hoops.any (fun p => p.2.joining.contains l)
  let gate := fun (l : Nat) (x : Lantern) =>
    match x.power with
    | .awake | .waking false => { x with power := .retained }
    | .waking true => if joins l then x else { x with power := .cold }
    | _ => x
  let s := { s with lan := s.lan.map (fun p : Nat × Lantern => (p.1, gate p.1 p.2)) }
  { s with clk := { s.clk with pll := [.stopped, .stopped, .stopped, .stopped] } }

/-- A power cycle loses the held-back regions of HBM; they read as memory that nothing has written (R515). -/
def loseHeldBack (s : State) : State :=
  { s with mem := { s.mem with cells := s.mem.cells.filter (fun p => decide (0xC000000000 ≤ p.1) || usableHbm p.1) } }

/-- A requested power cycle ends as MAIN is qualified: PWRCYC_REQ_N is released, the L5 is logged and its records are completed, and the
held-back regions are lost (R492, R503, R515). A cold L4 follows. -/
def endPowerCycle (s : State) : State :=
  let s := match findReset s 6 0 with
    | some r => completeLogs (logReset s r 0) r
    | none => s
  loseHeldBack { s with snuffer := { s.snuffer with pwrcyc := false } }

/-- Does a quarter hold work: a strand on a lantern or in its run list, a mover or collective member, a mover's job that waits, or a request
in its CSE (R458, R476)? -/
def quarterWorks (s : State) (q : Nat) : Bool :=
  s.lan.any (fun p => decide (lanQuarter p.1 = q) && (p.2.cur.isSome || !p.2.runList.isEmpty))
    || s.movers.any (fun p => decide (p.1 / 16 = q)) || s.moverQ.any (fun p => decide (p.1 = q))
    || s.colls.any (fun p => decide (p.1 / 2 = q)) || s.slots.any (fun p => decide (p.1 / 64 = q) && !p.2.reqs.isEmpty)

/-- Backup operation ends: rails return to MAIN, held strands and admission go on at OP7, eyelets come up, recorded PERSTn edges
take effect, and a requested power cycle performs its cold L4 (R458, R503, R605). -/
def leaveBackup (s : State) : State :=
  let s := tickThrottle s
  let s := { s with power := { s.power with backup := false, backupStep := 0, sleep := 0 } }
  let pll := (List.range 4).map (fun q => if quarterBusy s q || quarterWorks s q then Pll.starting else Pll.stopped)
  let s := { s with clk := { s.clk with pll := pll, since := [wick s, wick s, wick s, wick s] } }
  let s := takePerst (bringUpEyes s)
  if s.snuffer.pwrcyc then
    startReset (endPowerCycle s)
      { level := 5, target := 0, trigger := 0, cause := .resetAbort, fences := [], start := wick s, phase := 0, dumped := false,
        logAt := none }
  else s

/-- The switch-over goes on from step 4 as far as it can: step 5 when the outstanding accesses are complete, VOPT off and the eyelets DOWN;
step 6 when the Mantle has brought every quarter to OP7 and its activity to 0, a step at a time, VCORE off (R455, R467, R474). When MAIN is
qualified already, backup operation ends at once (R458). -/
def backupSettle (s : State) : State :=
  let s := if s.power.backupStep = 4 ∧ (outstanding s).isEmpty then
      let s := (List.range 8).foldl eyeDown s
      { s with power := { s.power with backupStep := 5 } }
    else s
  if s.power.backupStep = 5 ∧ s.power.op = [7, 7, 7, 7] ∧ s.power.activity = [0, 0, 0, 0] then
    let s := engineRailsOff s
    let s := { s with power := { s.power with backupStep := 6 } }
    if s.power.mainOk then leaveBackup s else s
  else s
/-- BACKUP_STOPPED: every engine has stopped, step 4 of the switch-over; steps 5 and 6 follow as their conditions come true (R455). -/
def backupStopped (s : State) : State :=
  if !s.power.backup || decide (6 ≤ s.power.backupStep) then s
  else backupSettle (if s.power.backupStep < 4 then { s with power := { s.power with backupStep := 4 } } else s)
/-- BACKUP_STOPPED. -/
def execBackupStopped (s : State) : Host.Outcome State Fault Refusal := .next (backupStopped s)

/-- MAIN_QUALIFIED: MAIN has stayed in range for 10 ms: backup operation that has reached step 6 ends, or power-up goes on, with a cold L4 when
a power cycle was asked for (R453, R458, R503, R603). -/
def mainQualified (s : State) : State :=
  if !s.power.started || s.power.mainOk then s
  else
    let s := { s with power := { s.power with mainPresent := true, mainOk := true, mainLow := false } }
    if s.power.backup then (if s.power.backupStep = 6 then leaveBackup s else s)
    else
      let s := if s.snuffer.pwrcyc then clearCold (clearWarm (endPowerCycle s)) else s
      if s.power.sleep = 3 then s
      else if s.power.step < 4 then { s with power := { s.power with step := 4 } }
      else s
/-- MAIN_QUALIFIED. -/
def execMainQualified (s : State) : Host.Outcome State Fault Refusal := .next (mainQualified s)

/-- HOLD_UP_EXHAUSTED: with MAIN lost and no switch-over made, Jeotte reaches OFF, be it that AUX has come into range since (R459). -/
def holdUpExhausted (s : State) : State :=
  if s.power.mainPresent || (s.power.auxOk && (s.power.backup || !s.power.ready)) then s else powerOff s
/-- HOLD_UP_EXHAUSTED. -/
def execHoldUpExhausted (s : State) : Host.Outcome State Fault Refusal := .next (holdUpExhausted s)

/-- AUX_OUT_OF_RANGE: AUX_LOW shows and the event is counted; Jeotte runs on (R460). -/
def auxOutOfRange (s : State) : State :=
  if s.power.started && s.power.mainPresent then
    { s with power := { s.power with auxOk := false, auxLows := s.power.auxLows + b1 s.power.auxOk } }
  else s
/-- AUX_OUT_OF_RANGE. -/
def execAuxOutOfRange (s : State) : Host.Outcome State Fault Refusal := .next (auxOutOfRange s)

/-- AUX_IN_RANGE: AUX_LOW clears, and a switch-over is possible (R460). -/
def auxInRange (s : State) : State := if s.power.started then { s with power := { s.power with auxOk := true } } else s
/-- AUX_IN_RANGE. -/
def execAuxInRange (s : State) : Host.Outcome State Fault Refusal := .next (auxInRange s)

/-- AUX_LOST: AUX goes while MAIN is lost: Jeotte reaches OFF (R606). -/
def auxLost (s : State) : State := if !s.power.started || s.power.mainPresent then s else powerOff s
/-- AUX_LOST. -/
def execAuxLost (s : State) : Host.Outcome State Fault Refusal := .next (auxLost s)

/-- SUPPLY_APPLIED: the first supply is in range: the wick domain starts at wick time 0, WICK_EPOCH rises, a debug token is gone,
and the marks tell the life-cycle state (R49, R531, R536, R540, R603 steps 1 to 3). -/
def supplyApplied (s : State) (main : Bool) : State :=
  if s.power.started then s
  else
    let p := { s.power with started := true, mainPresent := main, auxOk := !main, step := if main then 3 else 2 }
    let s := { s with power := p, clk := { s.clk with wick := 0 } }
    let s := setReg s 0x11000D 0 ((regN s 0x11000D 0 + 1) % 2 ^ 32)
    resumeMarks { s with keeper := { s.keeper with token := none } }
/-- SUPPLY_APPLIED. -/
def execSupplyApplied (main : Bool) (s : State) : Host.Outcome State Fault Refusal := .next (supplyApplied s main)

/-- MAIN_APPLIED: MAIN enters its range while the wick domain runs; the hold-up bank charges (R603 step 3, R605). -/
def mainApplied (s : State) : State :=
  if !s.power.started || s.power.mainPresent then s
  else { s with power := { s.power with mainPresent := true, step := if s.power.step < 3 then 3 else s.power.step } }
/-- MAIN_APPLIED. -/
def execMainApplied (s : State) : Host.Outcome State Fault Refusal := .next (mainApplied s)

/-- MAIN_LOW: MAIN moves into or out of the band from 38 V to 40 V (R453). -/
def mainLow (s : State) (low : Bool) : State :=
  if s.power.mainPresent then { s with power := { s.power with mainLow := low } } else s
/-- MAIN_LOW. -/
def execMainLow (low : Bool) (s : State) : Host.Outcome State Fault Refusal := .next (mainLow s low)

/-- HUB_SELF_CHECK_DONE: the hub runs, the ports may train, and the bobbins' zeroing begins (R603 step 5, R604). -/
def hubSelfCheckDone (s : State) (ok : Bool) : State :=
  if !ok || decide (s.power.step ≠ 4) then s
  else
    let s := { s with power := { s.power with step := 5 }, mem := { s.mem with zeroed := false } }
    { s with ports := s.ports.map (fun p => { p with ready := true }) }
/-- HUB_SELF_CHECK_DONE. -/
def execHubSelfCheckDone (ok : Bool) (s : State) : Host.Outcome State Fault Refusal := .next (hubSelfCheckDone s ok)

/-! ### Power states (R461 to R464) -/

/-- Show the result of a power-state request. -/
def powerResult (s : State) (code : Nat) : State := setRegFld s 0x200002 0 11 8 code
/-- The refusal of a request for DROWSE or WICK_ONLY, in the order of R462. -/
def powerReqCode (s : State) (who : Req) (wickReq : Bool) : Nat :=
  if s.queues.any (fun p => decide (queueState s p.1 ≠ 0) && !p.2.flights.isEmpty) then 1
  else if (List.range 64).any (fhidLive s) then 2
  else if s.power.backup then 3
  else if wickReq && decide (who ≠ .mgmt) then 4
  else 0

/-- DROWSE: VCORE, VOPT and every PLL off (R461). -/
def enterDrowse (s : State) : State :=
  let s := engineRailsOff s
  { s with power := { s.power with sleep := 2 } }
/-- WICK_ONLY: only the wick domain and the management port run; SRAM and bobbin contents are lost (R461). -/
def enterWickOnly (s : State) : State :=
  let s := engineRailsOff s
  let ports := s.ports.map (fun p : Port => { Port.reset with perst := p.perst, ready := false })
  { s with power := { s.power with sleep := 3, ready := false }, ports := ports,
           mem := { State.reset.mem with zeroed := false } }

/-- POWER_STATE_REQ of ACTIVE, DROWSE or WICK_ONLY. Leaving WICK_ONLY is a cold L4 and steps 3 to 6 of R603 (R462 to
R464); safe state is not left so (R500, R501). -/
def powerReq (s : State) (who : Req) (target : Nat) : State :=
  if !isManager who then result s 4
  else if target = 0 then
    if s.power.backup || s.snuffer.safe then result s 10
    else if s.power.sleep = 3 then
      let s := clearCold (clearWarm s)
      let step := if s.power.mainOk then 4 else if s.power.mainPresent then 3 else 2
      result (powerResult { s with power := { s.power with sleep := 0, step := step } } 0) 0
    else result (powerResult s 0) 0
  else
    let code := powerReqCode s who (decide (target = 3))
    let s := result (powerResult s code) 0
    if code ≠ 0 ∨ s.power.sleep = 3 then s
    else if target = 2 then enterDrowse s else enterWickOnly s
/-- POWER_REQ_ACTIVE. -/
def execPowerReqActive (who : Req) (s : State) : Host.Outcome State Fault Refusal :=
  .next (gateWrite s who 0x200003 false (fun s => powerReq s who 0))
/-- POWER_REQ_DROWSE. -/
def execPowerReqDrowse (who : Req) (s : State) : Host.Outcome State Fault Refusal :=
  .next (gateWrite s who 0x200003 false (fun s => powerReq s who 2))
/-- POWER_REQ_WICK_ONLY. -/
def execPowerReqWickOnly (who : Req) (s : State) : Host.Outcome State Fault Refusal :=
  .next (gateWrite s who 0x200003 false (fun s => powerReq s who 3))

/-- DROWSE_WAKE: a DROWSE entered by request is left (R463). -/
def execDrowseWake (s : State) : Host.Outcome State Fault Refusal := .next (wakeUp s)

/-! ### Operating points and limiters (R466 to R481) -/

/-- The lowest of the points that the limiters demand of a quarter, as its number (R468, R480, R481). -/
def opTarget (s : State) (q : Nat) : Nat :=
  let tenant := if s.keeper.step ≠ 0 then regN s 0x220003 0 else 0
  if s.power.backup then 7
  else min 7 (max (max (opCeiling s q) tenant) (max (s.power.capOp.getD q 0) (s.power.thermOp.getD q 0)))

/-- OP_STEP_DONE: a quarter moves one step toward the point the limiters demand (R467); the last step to OP7 lets a switch-over go on
(R455). -/
def opStepDone (s : State) (q : Nat) : State :=
  let now := s.power.op.getD q 0
  let goal := opTarget s q
  if !coreRails s || decide (now = goal) then s
  else backupSettle { s with power := { s.power with op := s.power.op.set q (if now < goal then now + 1 else now - 1) } }
/-- OP_STEP_DONE. -/
def execOpStepDone (q : Nat) (s : State) : Host.Outcome State Fault Refusal := .next (opStepDone s q)

/-- The average of a rail's newest `n` samples. -/
def railAvg (xs : List Nat) (n : Nat) : Nat :=
  let ys := xs.take n
  if ys.isEmpty then 0 else ys.foldl (· + ·) 0 / ys.length
/-- A rail's averages over 1 ms, 20 µs and 1 µs of 50 ns samples (R469, R470). -/
def railWindows (xs : List Nat) : List Nat := [railAvg xs 20000, railAvg xs 400, railAvg xs 20]
/-- The limits of a rail in force: 1 ms, 20 µs, 1 µs. -/
def railLimits (s : State) (r : Nat) : List Nat :=
  let w := cell s 0x202001 r 0
  [fld w 31 0, fld w 63 32, fld (cell s 0x202001 r 1) 31 0]
/-- Has a rail reached one of its limits? -/
def railHot (s : State) (r : Nat) : Bool :=
  ((railWindows (s.power.rails.getD r [])).zip (railLimits s r)).any (fun p => decide (p.2 ≤ p.1))

/-- Limits written to RAIL_LIMITS come into force with the next 1 µs window, at the first of its 20 samples (R11, R470, R485). -/
def takeLimits (s : State) : State := if wick s % 1000 < 50 then takeStaged s [0x202001] else s
/-- RAIL_SAMPLE: the averages of the 14 rails are shown, the samples of the last 100 ms are kept for confidential mode (R549); a quarter whose VCORE or VSRAM has reached a limit withholds issue, one whose VHBM
has, the request starts at its memory ports (R469, R470). -/
def railSample (s : State) (currents : List Nat) : State :=
  if currents.length ≠ 14 then s
  else
    let s := takeLimits (tickThrottle s)
    let rails := (List.range 14).map (fun r => (currents.getD r 0 :: s.power.rails.getD r []).take 2000000)
    let s := { s with power := { s.power with rails := rails } }
    let slow := (List.range 4).map (fun q => railHot s q || railHot s (4 + q))
    let slowMem := (List.range 4).map (fun q => railHot s (8 + q))
    let s := { s with power := { s.power with slow := slow, slowMem := slowMem } }
    (List.range 14).foldl (fun s r =>
      let a := railWindows (rails.getD r [])
      setCells s 0x202002 r 0 [wd (a.getD 0 0 % 2 ^ 32 * 2 ^ 32), wd (a.getD 1 0 % 2 ^ 32 + a.getD 2 0 % 2 ^ 32 * 2 ^ 32)]) s
/-- RAIL_SAMPLE. -/
def execRailSample (currents : List Nat) (s : State) : Host.Outcome State Fault Refusal := .next (railSample s currents)

/-- One 250 ns step of a quarter's activity toward what its work asks for (R472). -/
def activityStep (now ask : Nat) : Nat := if now < ask then min ask (now + 64) else max ask (now - 64)
/-- What a quarter's work may ask for: nothing in backup operation, after a trip, or with the rails off (R455, R474, R483). -/
def activityAsk (s : State) (q ask : Nat) : Nat :=
  if !coreRails s || s.power.backup || s.power.trip.getD q false || s.snuffer.safe then 0 else min ask 1024
/-- One 250 ns step of g, by at most 4 (R476). -/
def gStep (now goal : Nat) : Nat := if now < goal then min goal (now + 4) else max goal (now - 4)

/-- Can every rail of a quarter absorb the largest rise that R472 permits: no window's average goes beyond its limit by it (R470)? What a rise
of 64 draws on a rail is free. -/
def railHeadroom (s : State) (q : Nat) : Bool :=
  [q, 4 + q, 8 + q].all (fun r =>
    ((railWindows (s.power.rails.getD r [])).zip (railLimits s r)).all (fun p => decide (p.1 + Config.railRise r ≤ p.2)))
/-- ACTIVITY_INTERVAL: each quarter's activity and g move; no activity rises that a rail cannot absorb (R470); excess waits, and a fall that is too fast runs taper cycles, whose
number is free (R472 to R476). -/
def activityInterval (s : State) (ask : List Nat) : State :=
  let s := tickThrottle s
  let now (q : Nat) := s.power.activity.getD q 0
  let wants := (List.range 4).map (fun q => activityAsk s q (ask.getD q 0))
  let held := (List.range 4).map (fun q => decide (now q < wants.getD q 0) && !railHeadroom s q)
  let asks := (List.range 4).map (fun q => if held.getD q false then now q else wants.getD q 0)
  let next := (List.range 4).map (fun q => activityStep (now q) (asks.getD q 0))
  let wait := (List.range 4).map (fun q => decide (now q + 64 < asks.getD q 0))
  let g := (List.range 4).map (fun q => gStep (s.power.g.getD q 64) (min s.power.capG (s.power.thermG.getD q 64)))
  let taper := (List.range 4).filter (fun q => decide (asks.getD q 0 + 64 < now q))
  let s := { s with power := { s.power with activity := next, wait := wait, g := g, held := held } }
  backupSettle (taper.foldl (fun s q =>
    let v := takeFree s
    countQ v.2 q 3 v.1.toNat) s)
/-- ACTIVITY_INTERVAL. -/
def execActivityInterval (activity : List Nat) (s : State) : Host.Outcome State Fault Refusal :=
  .next (activityInterval s activity)

/-- The quarters among `qs` whose point is best by `better`, of several those with the highest measured VCORE power, by the average of the last
1 µs when `power` says so (R468; DEDUCED, log 195); of several still, the choice is free. -/
def pickQuarter (s : State) (qs : List Nat) (key : Nat → Nat) (power : Bool) : Option Nat × State :=
  let best := qs.foldl (fun m q => min m (key q)) 64
  let first := qs.filter (fun q => decide (key q = best))
  let draw := fun q : Nat => railAvg (s.power.rails.getD q []) 20
  let most := first.foldl (fun m q => max m (draw q)) 0
  let ties := if power then first.filter (fun q => decide (draw q = most)) else first
  let v := takeFree s
  (ties[v.1.toNat % (max 1 ties.length)]?, v.2)

/-- OP_CEILING comes into force at the 10 µs step (R11, R485). -/
def takeCeiling (s : State) : State :=
  { s with power := { s.power with ceiling := (List.range 4).map (fun q => fld (cell s 0x201002 q 0) 2 0) } }
/-- The largest g, 1 to 64, such that the fixed draw and g ÷ 64 of the variable draw do not exceed the cap (R477); draws in mW. -/
def gutterG (cap fixed variable_ : Nat) : Nat :=
  (List.range 64).foldl (fun g i => if 64 * fixed + (i + 1) * variable_ ≤ 64 * cap then i + 1 else g) 1
/-- CAP_STEP: the predicted draw against CAP_WATTS (R475 to R477), with the fixed and the variable draw as measured. Over the cap, a quarter
steps down, the highest point first; with every working quarter at OP7, gutter mode takes the largest g below 64 that keeps the cap. Under
it, g rises first, then the lowest point. -/
def capStep (s : State) (mw fixed variable_ : Nat) : State :=
  let s := takeCeiling (tickThrottle s)
  let p := s.power
  let op (q : Nat) := p.op.getD q 0
  let cap := 1000 * regN s 0x201001 0
  if cap < mw then
    let down := (List.range 4).filter (fun q => quarterWorks s q && decide (op q < 7))
    if down.isEmpty then
      { s with power := { p with capG := min (min 63 p.capG) (gutterG cap fixed variable_), capGutter := true } }
    else
      match pickQuarter s down op true with
      | (some q, s) => { s with power := { p with capOp := p.capOp.set q (op q + 1) } }
      | (none, s) => s
  else if p.capG < 64 then
    let g := max p.capG (gutterG cap fixed variable_)
    { s with power := { p with capG := g, capGutter := decide (g < 64) } }
  else
    let up := (List.range 4).filter (fun q => decide (0 < p.capOp.getD q 0))
    match pickQuarter s up (fun q => 8 - op q) false with
    | (some q, s) => { s with power := { p with capOp := p.capOp.set q (p.capOp.getD q 0 - 1) } }
    | (none, s) => s
/-- CAP_STEP. -/
def execCapStep (draw : Draw) (s : State) : Host.Outcome State Fault Refusal :=
  .next (capStep s draw.predicted draw.fixed draw.vary)

/-! ### Temperature (R482 to R484) -/

/-- A reading in 0.1 °C as an I32. -/
def i32 (t : Int) : Word := wd ((t % 2 ^ 32).toNat)
/-- An I32 cell as a number. -/
def ofI32 (w : Word) : Int := if fld w 31 31 = 1 then (fld w 31 0 : Int) - 2 ^ 32 else (fld w 31 0 : Int)
/-- THROTTLE_C in 0.1 °C. -/
def throttleT (s : State) : Int := 10 * (regN s 0x210001 0 : Int)
/-- The hottest reading of a quarter, or of the hub as number 4 (R482). -/
def hottest (s : State) (q : Nat) : Int := ofI32 (cell s 0x210002 q 0)

/-- Quarters trip: issue is withheld and class 20 is latched for those that had not (R483). -/
def tripQuarters (s : State) (qs : List Nat) : State :=
  let fresh := qs.filter (fun q => !s.power.trip.getD q false)
  if fresh.isEmpty then s
  else
    let s := { s with power := { s.power with trip := (List.range 4).map (fun q => s.power.trip.getD q false || qs.contains q) } }
    latch s (hubFault 20 (wd (fresh.foldl (fun a q => a + 2 ^ q) 0)))

/-- A THROTTLE_C that was written comes into force at the next sensor read (R11, R485). -/
def takeThrottleC (s : State) : State := takeStaged s [0x210001]
/-- SENSOR_READ: 64 readings of each quarter and 16 of the hub; the hottest are shown, 105 °C trips, and a tripped quarter goes
on below THROTTLE_C − 2 °C (R482, R483). -/
def sensorRead (s : State) (temps : List Int) : State :=
  if temps.length ≠ 272 then s
  else
    let s := takeThrottleC s
    let group (q : Nat) := (temps.drop (64 * q)).take 64
    let top (q : Nat) := (group q).foldl max ((group q).headD 0)
    let s := temps.zipIdx.foldl (fun s p => setCell s 0x210005 p.2 0 (i32 p.1)) s
    let s := (List.range 5).foldl (fun s q => setCell s 0x210002 q 0 (i32 (top q))) s
    let cool := (List.range 4).map (fun q => s.power.trip.getD q false && !decide (top q < throttleT s - 20))
    let s := { s with power := { s.power with trip := cool } }
    tripQuarters s ((List.range 4).filter (fun q => decide (1050 ≤ top q) || decide (1050 ≤ top 4)))
/-- SENSOR_READ. -/
def execSensorRead (temps : List Int) (s : State) : Host.Outcome State Fault Refusal := .next (sensorRead s temps)

/-- THERMAL_STEP: at THROTTLE_C a quarter steps down a point, and at OP7 its g falls by 4; below THROTTLE_C − 2 °C one step is
reversed, g first (R482). -/
def thermalStep (s : State) (q : Nat) : State :=
  let s := tickThrottle s
  let p := s.power
  let h := hottest s q
  let op := p.op.getD q 0
  let g := p.thermG.getD q 64
  let point := p.thermOp.getD q 0
  if throttleT s ≤ h then
    if op < 7 then { s with power := { p with thermOp := p.thermOp.set q (op + 1) } }
    else { s with power := { p with thermG := p.thermG.set q (max 1 (g - 4)) } }
  else if h < throttleT s - 20 then
    if g < 64 then { s with power := { p with thermG := p.thermG.set q (min 64 (g + 4)) } }
    else { s with power := { p with thermOp := p.thermOp.set q (point - 1) } }
  else s
/-- THERMAL_STEP. -/
def execThermalStep (q : Nat) (s : State) : Host.Outcome State Fault Refusal := .next (thermalStep s q)

/-- STACK_TEMP_READ: above HBM_HOT_C a bobbin refreshes at twice the rate, at 95 °C it is served in half of the cycles, at 105 °C
its quarter trips (R484). -/
def stackTempRead (s : State) (temps : List Int) : State :=
  if temps.length ≠ 12 then s
  else
    let s := tickThrottle s
    let s := temps.zipIdx.foldl (fun s p => setCell s 0x210004 p.2 0 (i32 p.1)) s
    let hot := temps.map (fun t => decide (10 * (regN s 0x210003 0 : Int) < t))
    let s := { s with power := { s.power with hotStack := hot, hot95 := temps.map (fun t => decide (950 ≤ t)) } }
    tripQuarters s ((List.range 4).filter (fun q => (List.range 3).any (fun i => decide (1050 ≤ temps.getD (3 * q + i) 0))))
/-- STACK_TEMP_READ. -/
def execStackTempRead (temps : List Int) (s : State) : Host.Outcome State Fault Refusal := .next (stackTempRead s temps)

end Sys2Proof.Machine
end

