-- ==== Sys2Proof/Machine/Telemetry.lean ====
section
/-! DEFINITION. Telemetry and repair (R558 to R575) and the end of a FENCE reaction (R494). -/

namespace Sys2Proof.Machine

/-! ### Selectable counters and windowed bandwidth (R560 to R563) -/

/-- May a SEL_CONFIG row hold a value: quarter events 0x01 to 0x0A in quarter rows, hub events 0x20 to 0x24 in hub rows (R561)?
The Default, 0, with ENABLE clear may be written back. -/
def selRowOk (row : Nat) (v : Word) : Bool :=
  let ev := fld v 59 52
  (decide (ev = 0) && !bit v 63)
    || (if row < 256 then decide (1 ≤ ev) && decide (ev ≤ 0x0A) else decide (0x20 ≤ ev) && decide (ev ≤ 0x24))
/-- Result of a SEL_CONFIG write. -/
def selConfigCode (who : Req) (row : Nat) (v : Word) : Nat :=
  if !isManager who then 4 else if 272 ≤ row then 8 else if !selRowOk row v then 9 else 0
/-- SEL_CONFIG_WRITE: the row's value clears, and the row takes effect at the next 1 µs boundary (R562). -/
def selConfigWrite (s : State) (who : Req) (row : Nat) (v : Word) : State :=
  let code := selConfigCode who row v
  if code ≠ 0 then result s code
  else
    let s := setReg s 0x600003 row 0
    result { s with tele := { s.tele with selNew := tput s.tele.selNew row (setFld v 32 0 0) } } 0
/-- SEL_CONFIG_WRITE. -/
def execSelConfigWrite (who : Req) (row : Nat) (v : Word) (s : State) : Host.Outcome State Fault Refusal :=
  .next (gateWrite s who 0x600002 false (fun s => selConfigWrite s who row v))

/-- PEAK and WINDOWS of every port clear (R563). -/
def clearPeaks (s : State) : State := (List.range 32).foldl (fun s p => setCell (setCell s 0x600005 p 1 0) 0x600005 p 3 0) s
/-- Result of a WINDOW_US write. -/
def windowUsCode (who : Req) (v : Word) : Nat :=
  if !isManager who then 4 else if v.toNat < 10 ∨ 1000000 < v.toNat then 9 else 0
/-- WINDOW_US_WRITE (R563). -/
def windowUsWrite (s : State) (who : Req) (v : Word) : State :=
  let code := windowUsCode who v
  if code ≠ 0 then result s code
  else
    let s := clearPeaks s
    result { s with tele := { s.tele with windowNew := some v.toNat } } 0
/-- WINDOW_US_WRITE. -/
def execWindowUsWrite (who : Req) (v : Word) (s : State) : Host.Outcome State Fault Refusal :=
  .next (gateWrite s who 0x600004 false (fun s => windowUsWrite s who v))

/-- PEAK_RESET: a write of 1 clears PEAK and WINDOWS of every port (R563). -/
def peakReset (s : State) (who : Req) (v : Word) : State :=
  if !isManager who then result s 4
  else if 1 < v.toNat then result s 9
  else result (if v.toNat = 1 then clearPeaks s else s) 0
/-- PEAK_RESET. -/
def execPeakReset (who : Req) (v : Word) (s : State) : Host.Outcome State Fault Refusal :=
  .next (gateWrite s who 0x600006 false (fun s => peakReset s who v))

/-- BW_WINDOW_END: at a multiple of WINDOW_US each port's LAST, PEAK, END and WINDOWS are updated; a window that was not counted from its
start is not complete. A new WINDOW_US takes effect at the next multiple of it (R563). -/
def bwWindowEnd (s : State) : State :=
  match s.tele.windowNew with
  | some n =>
    if wick s % (1000 * n) = 0 then
      setReg { s with tele := { s.tele with windowNew := none, bytes := [], windowFrom := wick s } } 0x600004 0 n
    else s
  | none =>
    let w := 1000 * regN s 0x600004 0
    let end_ := alignDown (wick s) w
    let go (s : State) : State := { s with tele := { s.tele with bytes := [], windowFrom := end_ } }
    if end_ ≤ s.tele.windowFrom then s
    else if end_ < s.tele.windowFrom + w then go s
    else
      go ((List.range 32).foldl (fun s p =>
        let n := (tget s.tele.bytes p).getD 0
        let peak := max n (cell s 0x600005 p 1).toNat
        setCells s 0x600005 p 0 [wd n, wd peak, wd end_, wd ((cell s 0x600005 p 3).toNat + 1)]) s)
/-- BW_WINDOW_END. -/
def execBwWindowEnd (s : State) : Host.Outcome State Fault Refusal := .next (bwWindowEnd s)

/-! ### Periodic dumps (R564 to R567) -/

/-- DUMP_CONFIG in force. -/
def dumpCfg (s : State) : List Word := rowWords s 0x600007 0 2
/-- ENABLE, MASK, SIZE_LOG2 and PERIOD_US of a configuration. -/
def dumpOn (c : List Word) : Bool := decide (fld (wordAt c 1) 55 48 = 1)
def dumpMask (c : List Word) : Nat := fld (wordAt c 1) 47 40
def dumpRing (c : List Word) : Nat := 2 ^ fld (wordAt c 1) 39 32
def dumpPeriodUs (c : List Word) : Nat := fld (wordAt c 1) 31 0

/-- OP_CURRENT as it reads: point in 2:0, g in 14:8. -/
def opCurrent (s : State) (q : Nat) : Nat := s.power.op.getD q 0 + 256 * s.power.g.getD q 64
/-- A PORT_STATE row as it reads: rating, sum, scale as the last window's end left them (R447, R450). -/
def portState (s : State) (p : Nat) : Word := cell s 0x400003 p 0

/-- The sections a mask selects, in bit order (R564). -/
def dumpSections (s : State) (mask : Nat) : List Word :=
  let on (i : Nat) (ws : List Word) := if mask / 2 ^ i % 2 = 1 then ws else []
  on 0 ((List.range 35).flatMap (fun r => rowWords s 0x600001 r 16))
    ++ on 1 ((List.range 272).map (fun r => cell s 0x600003 r 0))
    ++ on 2 ((List.range 32).flatMap (fun r => rowWords s 0x600005 r 4))
    ++ on 3 ((List.range 8).map (fun i => wd (throttleNs s i / 1000))
        ++ [wd ((List.range 4).foldl (fun a q => a + opCurrent s q * 2 ^ (16 * q)) 0)])
    ++ on 4 ((List.range 32).map (portState s))
/-- Words of a record with its header, padded to a multiple of 64 bytes. -/
def recordLen (s : State) (mask : Nat) : Nat := 8 * ((8 + (dumpSections s mask).length + 7) / 8)
/-- The record of now; W0's PHASE and W3 are filled in when it is written. -/
def dumpRecordOf (s : State) (c : List Word) : List Word :=
  let body := dumpSections s (dumpMask c)
  let w0 := wd (2 ^ 48 + dumpMask c * 2 ^ 40 + s.tele.seq % 2 ^ 32)
  let ws := [w0, wd (wick s), wd (wick s), 0, 0, 0, 0, 0] ++ body
  ws ++ List.replicate (recordLen s (dumpMask c) - ws.length) 0

/-- Has the ring room: records written minus DUMP_HEAD is less than its size (R566)? -/
def dumpRoom (s : State) : Bool :=
  decide ((s.tele.written + 2 ^ 32 - regN s 0x600008 0 % 2 ^ 32) % 2 ^ 32 < dumpRing (dumpCfg s))
/-- Write a record into the ring as device traffic; a stopped quarter holds it (R53). One that goes to the host is kept until the
confirming read behind it has come back; each record is a group of its own (R390, R566; log 174). Memory that is lent to a host, or that an
image holds, is not written: the record counts as one whose confirming read failed (R157, R278; DESIGN CHOICE, log 197). -/
def putRecordRing (s : State) (ws : List Word) : State :=
  let c := dumpCfg s
  let n := s.tele.written
  let phase := (n / dumpRing c + 1) % 2
  let ws := (ws.set 0 (setFld (wordAt ws 0) 63 63 phase)).set 3 (wd (s.tele.lost % 2 ^ 32 * 2 ^ 32 + s.tele.staged.length % 2 ^ 32))
  let a := (wordAt c 0).toNat + 8 * ws.length * (n % dumpRing c)
  let bs := wordBytes ws
  if 0xD000000000 ≤ a then
    let s := { s with tele := { s.tele with written := n + 1, ringed := s.tele.ringed ++ [ws] } }
    issueConfirm (writeHost s devWho a bs false) (hostAddr s a).1 .dump
  else if deviceClosed s a bs.length then { s with tele := { s.tele with error := true, staged := ws :: s.tele.staged } }
  else deviceWrite { s with tele := { s.tele with written := n + 1 } } a bs
/-- Staged records go to the ring in SEQ order while there is room. -/
def drainStaged : Nat → State → State
  | 0, s => s
  | fuel + 1, s =>
    match s.tele.staged with
    | [] => s
    | ws :: rest =>
      if dumpRoom s && !s.tele.error then drainStaged fuel (putRecordRing { s with tele := { s.tele with staged := rest } } ws)
      else s
/-- Bytes of the staging ring (R566). -/
def stagingBytes : Nat := 768 * 2 ^ 20

/-- A new DUMP_CONFIG comes into force: ERROR is over, and with ENABLE newly set the record counts start again. -/
def applyDumpConfig (s : State) : State :=
  match tget s.staged (stagedKey 0x600007 0 0), tget s.staged (stagedKey 0x600007 0 1) with
  | none, none => s
  | a, b =>
    let old := dumpOn (dumpCfg s)
    let s := setCells s 0x600007 0 0 [a.getD 0, b.getD 0]
    let s := { s with staged := tdel (tdel s.staged (stagedKey 0x600007 0 0)) (stagedKey 0x600007 0 1) }
    let s := { s with tele := { s.tele with error := false } }
    if dumpOn (dumpCfg s) && !old then
      { s with tele := { s.tele with written := 0, staged := [], lost := 0, seq := 0, dumpAt := wick s,
                                     ringed := [] } }
    else s

/-- DUMP_PERIOD: a written configuration comes into force at the period; with ENABLE set, a record is sampled and goes to the
ring, to the staging ring when the ring is full or in ERROR, or is lost (R564 to R567). -/
def dumpPeriod (s : State) : State :=
  let due := !dumpOn (dumpCfg s) || decide (s.tele.dumpAt + 1000 * dumpPeriodUs (dumpCfg s) ≤ wick s)
  if !due then s
  else
    let s := applyDumpConfig s
    let c := dumpCfg s
    if !dumpOn c || s.keeper.conf then s
    else
      let ws := dumpRecordOf s c
      let s := { s with tele := { s.tele with seq := s.tele.seq + 1, dumpAt := wick s } }
      let s := drainStaged s.tele.staged.length s
      if s.tele.staged.isEmpty && dumpRoom s && !s.tele.error then putRecordRing s ws
      else if (s.tele.staged.length + 1) * 8 * ws.length ≤ stagingBytes then
        { s with tele := { s.tele with staged := s.tele.staged ++ [ws] } }
      else { s with tele := { s.tele with lost := s.tele.lost + 1 } }
/-- DUMP_PERIOD. -/
def execDumpPeriod (s : State) : Host.Outcome State Fault Refusal := .next (dumpPeriod s)

/-- DUMP_HEAD_WRITE: ring space is free, and staged records are written (R566). -/
def dumpHeadWrite (s : State) (who : Req) (v : Word) : State :=
  if !isManager who then result s 4
  else
    let s := setReg s 0x600008 0 (fld v 31 0)
    result (if dumpOn (dumpCfg s) && !s.keeper.conf then drainStaged s.tele.staged.length s else s) 0
/-- DUMP_HEAD_WRITE. -/
def execDumpHeadWrite (who : Req) (v : Word) (s : State) : Host.Outcome State Fault Refusal :=
  .next (gateWrite s who 0x600008 false (fun s => dumpHeadWrite s who v))

/-- Result of a DUMP_CONFIG write; with ENABLE clear the other fields are free (R564, R575). -/
def dumpConfigCode (s : State) (who : Req) (w0 w1 : Word) : Nat :=
  let c := [w0, w1]
  let size := fld w1 39 32
  let a := w0.toNat
  let n := 8 * recordLen s (dumpMask c) * dumpRing c
  if !isManager who then 4
  else if 1 < fld w1 55 48 then 9
  else if dumpOn c && (decide (dumpPeriodUs c < 100 ∨ 60000000 < dumpPeriodUs c) || decide (size < 4 ∨ 16 < size) || decide (a % 4096 ≠ 0)
      || decide (31 < dumpMask c)
      || !(hostExists s a n || (usableHbm a && usableHbm (a + n - 1) && decide (a / 0x1000000000 = (a + n - 1) / 0x1000000000)))) then 9
  else 0
/-- DUMP_CONFIG_WRITE: in force at the next period (R575). -/
def dumpConfigWrite (s : State) (who : Req) (w0 w1 : Word) : State :=
  let code := dumpConfigCode s who w0 w1
  if code ≠ 0 then result s code
  else
    result { s with staged := tput (tput s.staged (stagedKey 0x600007 0 0) w0) (stagedKey 0x600007 0 1) (setFld w1 63 56 0) } 0
/-- DUMP_CONFIG_WRITE. -/
def execDumpConfigWrite (who : Req) (w0 w1 _w2 _w3 : Word) (s : State) : Host.Outcome State Fault Refusal :=
  .next (gateWrite s who 0x600007 false (fun s => dumpConfigWrite s who w0 w1))

/-- DUMP_STATE as it reads (R564, R566, R575). -/
def dumpState (s : State) : Word :=
  let c := dumpCfg s
  let st := if !dumpOn c then 3 else if s.tele.error then 2 else if !dumpRoom s then 1 else 0
  wd (st * 2 ^ 62 + 8 * recordLen s (dumpMask c) % 2 ^ 22 * 2 ^ 40 + s.tele.staged.length % 2 ^ 40)

/-! ### HBM granules and channels (R570 to R572) -/

/-- The local address that a fabric physical address names on this node. -/
def faultLocal (addr : Nat) : Nat := addr % 2 ^ 44
/-- The granule of a local HBM address; a reserve place stands for the granule that is held there (R570). -/
def granuleOf (s : State) (a : Nat) : Nat :=
  let g := alignDown a 8192
  match s.darner.remaps.find? (fun p => decide (p.2 = g)) with
  | some p => p.1
  | none => g
/-- Start and places of a bobbin's retirement reserve (R236). -/
def reserveOf (b : Nat) : Nat × Nat := (b * 0x1000000000 + 0xFE0000000, (if b % 3 = 0 then 256 else 384) * 128)
/-- Is a reserve place free? -/
def placeFree (s : State) (p : Nat) : Bool :=
  !s.darner.remaps.any (fun r => decide (r.2 = p)) && !s.darner.queue.any (fun r => decide (r.place = p))
/-- The first free reserve place of a bobbin. -/
def freePlace (s : State) (b : Nat) : Option Nat :=
  let r := reserveOf b
  ((List.range r.2).map (fun i => r.1 + 8192 * i)).find? (placeFree s)
/-- A place for a granule: in its bobbin's reserve, else in that of another bobbin of the quarter, lowest first (R570). -/
def findPlace (s : State) (b : Nat) : Option Nat :=
  let q := b / 3
  (b :: ([3 * q, 3 * q + 1, 3 * q + 2].filter (fun x => decide (x ≠ b)))).findSome? (freePlace s)
/-- Remap-table entries of a bobbin in use. -/
def remapsOf (s : State) (b : Nat) : Nat := (s.darner.remaps.filter (fun p => decide (p.1 / 0x1000000000 = b))).length

/-- Is a FENCE reaction one for an HBM granule of a bobbin that the Darner has not dealt with? -/
def wantsRemap (s : State) (b : Nat) (f : Fencing) : Bool :=
  [6, 7, 9].contains f.cls && decide (f.done = 0) && decide (granuleOf s (faultLocal f.addr) / 0x1000000000 = b)
/-- Mark the first reaction that `p` names. -/
def markFencing (s : State) (p : Fencing → Bool) (v : Nat) : State :=
  let rec go : List Fencing → List Fencing
    | [] => []
    | f :: rest => if p f then { f with done := v } :: rest else f :: go rest
  { s with snuffer := { s.snuffer with fencing := go s.snuffer.fencing } }
/-- DARNER_POLICY allows a kind of substitution (R569)? -/
def policyBit (s : State) (i : Nat) : Bool := bit (cell s 0xA00001 0 0) i
/-- The channel of a bobbin that an address lies in (R22). -/
def channelOf (a : Nat) : Nat := a / 256 % 32

/-- A granule is retired: held poisoned from now on, and class 23 is latched (R570). -/
def retireGranule (s : State) (b g cls addr : Nat) : State :=
  let s := { s with darner := { s.darner with retired := insertNat s.darner.retired g } }
  let s := repairRecord s 3 2 cls (b * 32 + channelOf addr) 0xFFFF (g % 0x1000000000)
  latch s (hubFault 23 (wd g))

/-- GRANULE_REMAP: with the bobbin's clocks running (R53), the Darner starts on the granule of a bobbin's first FENCE reaction that waits for it; without a free
place, a table entry or the policy's leave the granule is retired (R494, R569, R570). -/
def granuleRemap (s : State) (b off : Nat) : State :=
  match s.snuffer.fencing.find? (wantsRemap s b) with
  | none => s
  | some f =>
    let a := faultLocal f.addr
    let g := granuleOf s a
    if s.darner.queue.any (fun r => decide (r.b = b)) ∨ g ≠ alignDown (b * 0x1000000000 + off) 8192 then s
    else
      match needClock s (bobQuarter b) with
      | .wait s | .fail _ s => s
      | .ok _ s =>
      match (if policyBit s 2 && decide (remapsOf s b < 8192 ∨ (tget s.darner.remaps g).isSome) then findPlace s b else none) with
      | some p => { s with darner := { s.darner with queue := s.darner.queue ++ [{ b := b, granule := g, place := p, held := [] }] } }
      | none => retireGranule (markFencing s (wantsRemap s b) 2) b g f.cls a
/-- GRANULE_REMAP. -/
def execGranuleRemap (b off : Nat) (s : State) : Host.Outcome State Fault Refusal := .next (unlessSafe s (granuleRemap s b off))

/-- Count a remap at its channel: at CHANNEL_RETIRE_AT the channel becomes retire-pending (R572). -/
def countChannel (s : State) (b c cls : Nat) : State :=
  let k := 32 * b + c
  let n := (tget s.darner.chanRemaps k).getD 0 + 1
  let s := { s with darner := { s.darner with chanRemaps := tput s.darner.chanRemaps k n } }
  let w := cell s 0xA00007 b 0
  if regN s 0xA00005 0 ≤ n ∧ policyBit s 3 = true ∧ bit w c = false ∧ bit w (32 + c) = false then
    repairRecord (setCell s 0xA00007 b 0 (setFld w (32 + c) (32 + c) 1)) 4 3 cls k 0xFFFF 0
  else s

/-- A remap's copy ends: its content stands at the new place, checks and poison with it, the mapping is entered, and the writes held are
performed there (R570), with the requests that waited for the copy. -/
def endRemap (s : State) (b : Nat) (r : Remap) : State :=
    let f := s.snuffer.fencing.find? (wantsRemap s b)
    let bs := hbmBytes s r.granule 8192
    let s := portArrive (portArrive s b none 8192) (r.place / 0x1000000000) none 8192
    let s := wbs s r.place bs
    let d := { s.darner with remaps := tput s.darner.remaps r.granule r.place }
    let s := { s with darner := { d with queue := d.queue.filter (fun x => decide (x.b ≠ b)) } }
    let s := match f with
      | some f =>
        let c := channelOf (faultLocal f.addr)
        let s := repairRecord (markFencing s (wantsRemap s b) 1) 3 1 f.cls (b * 32 + c) 0xFFFF (r.granule % 0x1000000000)
        countChannel s b c f.cls
      | none => s
    serveBells (deliverHeld (r.held.foldl landHeld s) (bobQuarter b))
/-- REMAP_COPY_DONE, with the bobbin's clocks running (R53, R570). -/
def remapCopyDone (s : State) (b : Nat) : State :=
  match s.darner.queue.find? (fun r => decide (r.b = b)) with
  | none => s
  | some r => match needClock s (bobQuarter b) with | .ok _ s => endRemap s b r | o => o.state
/-- REMAP_COPY_DONE. -/
def execRemapCopyDone (b : Nat) (s : State) : Host.Outcome State Fault Refusal := .next (unlessSafe s (remapCopyDone s b))

/-- HBM_CORRECTED_ERROR: counted per granule; CE_THRESHOLD within CE_WINDOW_S, which begins with the first error counted, latches
class 7, and the count starts again (R571, DESIGN CHOICE, log 167). -/
def hbmCorrectedError (s : State) (b off : Nat) : State :=
  let a := b * 0x1000000000 + off
  let g := alignDown a 8192
  let t := (tget s.darner.ces b).getD []
  let window := 1000000000 * regN s 0xA00004 0
  let e : CeEntry := match t.find? (fun e => decide (e.granule = g)) with
    | some e => if e.first + window < wick s then { granule := g, count := 1, first := wick s, last := wick s }
      else { e with count := e.count + 1, last := wick s }
    | none => { granule := g, count := 1, first := wick s, last := wick s }
  let rest := t.filter (fun e => decide (e.granule ≠ g))
  let oldest := rest.foldl (fun m e => min m e.last) (wick s)
  let rest := if rest.length < 256 then rest else dropFirst (fun e => decide (e.last = oldest)) rest
  let s := countB s b 3 1
  if regN s 0xA00003 0 ≤ e.count then
    let s := { s with darner := { s.darner with ces := tput s.darner.ces b rest } }
    latch s { cls := 7, access := 4, addr := some (ownNode s * 2 ^ 44 + a), masterKind := 4, master := b, hoop := none, ctx := none,
              detail := 0 }
  else { s with darner := { s.darner with ces := tput s.darner.ces b (rest ++ [e]) } }
/-- HBM_CORRECTED_ERROR. -/
def execHbmCorrectedError (b off : Nat) (s : State) : Host.Outcome State Fault Refusal := .next (hbmCorrectedError s b off)

/-! ### The end of a FENCE reaction (R494, R568, R569) -/

/-- The free spares of a kind in a quarter, lowest first. -/
def freeSpares (s : State) (q kind : Nat) : List Nat :=
  let base := lanId q kind 0
  let used (i : Nat) : Bool := (logicalOf s (base + i)).isSome || s.darner.deadPhys.contains (base + i)
  (List.range (kindCount kind + kindSpares kind)).filter (fun i => !used i)
/-- The lowest-numbered free spare of a kind in a quarter (R569). -/
def freeSpare (s : State) (q kind : Nat) : Option Nat := (freeSpares s q kind).head?

/-- The free spares tried before the first that passes its self-check are retired, each with a record (R569, R574). -/
def retireSpares (s : State) (q kind cls : Nat) (failed : List Nat) : State :=
  let bad := (freeSpares s q kind).takeWhile (fun i => failed.contains (lanId q kind i))
  let dead := bad.foldl (fun d i => insertNat d (lanId q kind i)) s.darner.deadPhys
  bad.foldl (fun s i => repairRecord s 1 2 cls (lanId q kind i) 0xFFFF 0) { s with darner := { s.darner with deadPhys := dead } }

/-- Does the unit of a reaction still hold work (R494 step 1)? -/
def fencedBusy (s : State) (f : Fencing) : Bool :=
  match f.cls with
  | 1 | 2 | 3 => match logicalOf s f.master with
    | some l => (lantern s l).cur.isSome || !(lantern s l).runList.isEmpty
    | none => false
  | 8 => (mvJob s (f.master / 256 % 4) (f.master % 64)).isSome
  | 26 => (clJob s (f.master / 256 % 4) (f.master % 64)).isSome
  | _ => false

/-- A lantern's fault: its work ends with RESET_ABORT; a spare takes the slot, starting cold-gated, or the slot is retired. A
spare that fails its self-check (`failed` says which, lowest first) is retired and the next one tried (R569). The answer is the
record's ACTION: 1 with a spare, 2 without. A retired lantern is cold-gated from here on (R55, R494; DESIGN CHOICE, log 189). A re-bind that
the lantern joins no longer waits for its wake (R59, log 133). -/
def replaceLantern (s : State) (f : Fencing) (failed : List Nat) : Nat × State :=
  let dead := { s.darner with deadPhys := insertNat s.darner.deadPhys f.master }
  match logicalOf s f.master with
  | none => (1, { s with darner := dead })
  | some l =>
    let s := clearLantern (killLantern s l .resetAbort) l
    let s := { s with darner := dead }
    let s := if policyBit s 0 then retireSpares s (lanQuarter l) (lanKind l) f.cls failed else s
    match (if policyBit s 0 then freeSpare s (lanQuarter l) (lanKind l) else none) with
    | some i =>
      let s := modLantern s l (fun x => { x with phys := i, power := .cold, lastCtx := none, fenced := false, retired := false, cores := [] })
      let s := joinAwake s l
      (1, repairRecord s 1 1 f.cls f.master (lanId (lanQuarter l) (lanKind l) i) 0)
    | none =>
      let s := modLantern s l (fun x => { x with power := .cold, lastCtx := none, retired := true, cores := [] })
      let s := joinAwake s l
      (2, repairRecord s 1 2 f.cls f.master 0xFFFF 0)

/-- A quarter-store array block: one of its slice's two spares, or 64 KiB of Bq0's reserve (R568). -/
def replaceStore (s : State) (f : Fencing) : Nat × State :=
  let a := faultLocal f.addr
  let slice := sliceOf a
  let block := a % 0x4000000 / 2048 * 128 / 65536 % 64
  let w := cell s 0xA00008 slice 0
  let used := fld w 1 0
  if policyBit s 1 && decide (used < 2) then
    (1, repairRecord (setRegFld s 0xA00008 slice 1 0 (used + 1)) 2 1 f.cls (slice * 64 + block) (64 + used) 0)
  else (2, repairRecord (setRegFld s 0xA00008 slice 15 8 (fld w 15 8 + 1)) 2 2 f.cls (slice * 64 + block) 0xFFFF 0)

/-- A mover or collective engine is never chosen again (R494). -/
def retireEngine (s : State) (f : Fencing) (kind : Nat) : Nat × State :=
  let code := 2 ^ 14 + f.master % 1024
  let s := stopEngine s code
  let s := { s with darner := { s.darner with deadEngines := insertNat s.darner.deadEngines code } }
  (2, repairRecord s kind 2 f.cls code 0xFFFF 0)

/-- The Darner's part of a reaction: ACTION and the state, or none while an HBM granule is still being dealt with. -/
def darnerActs (s : State) (f : Fencing) (failed : List Nat) : Option (Nat × State) :=
  match f.cls with
  | 1 | 2 | 3 => some (replaceLantern s f failed)
  | 4 => some (if f.done = 0 then replaceStore s f else (2, s))
  | 6 | 7 | 9 => if f.done = 0 then none else some (f.done, s)
  | 8 => some (retireEngine s f 6)
  | 26 => some (retireEngine s f 7)
  | _ => some (1, s)

/-- FENCE_REACTION_DONE: the class's oldest reaction ends, its unit drained or the L2 drain allowance over: the unit is substituted or retired, the log record is completed, and
the class's bit clears unless another fault of it stands (R494). -/
def fenceReactionDone (s : State) (c : Nat) (failed : List Nat) : State :=
  match s.snuffer.fencing.find? (fun f => decide (f.cls = c)) with
  | none => s
  | some f =>
    if fencedBusy s f && decide (wick s < f.start + drainTime s 2) then s
    else
    match darnerActs s f failed with
    | none => s
    | some (action, s) =>
      let s := { s with snuffer := { s.snuffer with fencing := dropFirst (fun x : Fencing => decide (x.cls = c)) s.snuffer.fencing } }
      let s := completeLog s f.logAt action 0
      if f.again || s.snuffer.fencing.any (fun x => decide (x.cls = c)) then s else clearBits s (2 ^ c)
/-- FENCE_REACTION_DONE. -/
def execFenceReactionDone (cls : Nat) (failed : List Nat) (s : State) : Host.Outcome State Fault Refusal := .next (unlessSafe s (fenceReactionDone s cls failed))

end Sys2Proof.Machine
end

