-- ==== Sys2Proof/Machine/Instances.lean ====
section
/-! DEFINITION. Instances in shared mode: quiescing, freezing, saving and restoring a hoop (R553 to R556). The spec fixes
the blob's header, section table and kinds; the words inside a section are the model's own layout (log 100). -/

namespace Sys2Proof.Machine

/-! ### The commands (R553, R554) -/

/-- Write RESULT of INSTANCE_STATUS. -/
def instResult (s : State) (h code : Nat) : State := setRegFld s 0x110019 h 3 0 code
/-- Change a hoop's instance state. -/
def setInst (s : State) (h : Nat) (i : Inst) (freezing : Bool) : State :=
  modHoop s h (fun x => { x with inst := i, freezing := freezing })
/-- Has a hoop a sequence slot that is not FREE or CLOSED? -/
def hoopOpenSlots (s : State) (h : Nat) : Bool :=
  s.slots.any (fun p => decide (p.2.hoop = h) && (p.2.state = 1 || p.2.state = 2))
/-- Begin to quiesce a hoop, within QUIESCE_MS. -/
def startQuiesce (s : State) (h : Nat) (freezing : Bool) : State :=
  let until_ := wick s + 1000000 * regN s 0x11001B 0
  instResult (modHoop s h (fun x => { x with inst := .quiescing, instAt := until_, freezing := freezing })) h 1

/-- Has a quiescing hoop come to rest: every queue at a seam or empty, no entry in flight, no request of an open sequence
slot in progress (R554)? -/
def hoopAtRest (s : State) (h : Nat) : Bool :=
  hoopAtSeam s h && (hoopQueues s h).all (fun q => (queue s q).flights.isEmpty)
    && s.slots.all (fun p => decide (p.2.hoop ≠ h) || decide (p.2.state ≠ 1) || p.2.reqs.isEmpty)

/-! ### Addresses in a blob (R555) -/

/-- The channel units that a descriptor binds, in ascending address: the ordinals. -/
def unitsOf (d : List Word) : List Nat := allUnits.filter (descHasUnit d)
/-- The quarters of QMASK, in rank. -/
def quartersOf (d : List Word) : List Nat := (List.range 4).filter (descQ d)
/-- The place of a value in a list. -/
def rankIn (xs : List Nat) (x : Nat) : Option Nat := xs.findIdx? (fun y => y = x)

/-- A local address as a blob holds it: what it lies in (1 unit, 2 scratchpad, 3 quarter store, 4 mailbox, 5 as it is) in
bits 63:60, its ordinal, slot or rank from bit 40 on, its offset below. -/
def encLocal (s : State) (d : List Word) (a : Nat) : Word :=
  let raw := wd (5 * 2 ^ 60 + a)
  let enc (k : Nat) (i : Option Nat) (off : Nat) := match i with
    | some i => wd (k * 2 ^ 60 + i * 2 ^ 40 + off)
    | none => raw
  match region s a with
  | some .hbm => enc 1 (rankIn (unitsOf d) (unitOf a)) (a % 0x80000000)
  | some .scratch =>
    let l := (a - 0xC800000000) / 0x200000
    enc 2 ((slotIn d l).map (fun k => lanKind l * 64 + k)) (a % 0x200000)
  | some .store => enc 3 (rankIn (quartersOf d) ((a - 0xC000000000) / 0x4000000)) (a % 0x4000000)
  | some .mailbox => enc 4 (rankIn (quartersOf d) ((a - 0xC400000000) / 0x1000)) (a % 0x1000)
  | _ => raw
/-- The local address of the target hoop that a blob's word stands for. -/
def decLocal (d : List Word) (w : Word) : Option Nat :=
  let i := fld w 59 40
  let off := fld w 39 0
  match fld w 63 60 with
  | 1 => (unitsOf d)[i]?.map (fun u => u * 0x80000000 + off)
  | 2 => (descLanterns d (i / 64))[i % 64]?.map (fun l => scratchBase l + off)
  | 3 => (quartersOf d)[i]?.map (fun q => storeBase q + off)
  | 4 => (quartersOf d)[i]?.map (fun q => 0xC400000000 + q * 0x1000 + off)
  | 5 => some (fld w 59 0)
  | _ => none
/-- A fabric address as a blob holds it: one of this node by what it lies in, another as it is. -/
def encFpa (s : State) (d : List Word) (f : Nat) : Word :=
  if f / 2 ^ 44 = ownNode s then encLocal s d (f % 2 ^ 44) else wd f
/-- The fabric address that a blob's word stands for. -/
def decFpa (s : State) (d : List Word) (w : Word) : Option Nat :=
  if fld w 63 60 = 0 then some w.toNat else (decLocal d w).map (fun a => ownNode s * 2 ^ 44 + a)

/-! ### The blob (R555) -/

/-- First queue and number of queues of the VF that fronts a hoop; with no VF the whole table (log 16). -/
def hoopBlock (s : State) (h : Nat) : Nat × Nat :=
  match frontVf s h with
  | some n => ((vf s n).first, (vf s n).count)
  | none => (0, 4096)

/-- Section 02: the valid rows of the range block. -/
def saveRanges (s : State) (h : Nat) (d : List Word) : List Word :=
  (s.rng.rows.filter (fun p => inBlock s h p.1)).flatMap (fun p =>
    let w := wordAt p.2
    let pst := if entMigratable p.2 then encLocal s d (entPst p.2) else wd (5 * 2 ^ 60)
    [wd (p.1 - (rangeBlock s h).1), w 0, w 1, w 2, encFpa s d (entTarget p.2), pst, w 5, w 6, w 7])
/-- Section 03: contexts. -/
def saveContexts (s : State) (h : Nat) : List Word :=
  (hoopCtxs s h).flatMap (fun c =>
    let x := context s c
    [wd c, cell s 0x800001 c 0, cell s 0x800001 c 1, wd x.vtime] ++ (List.range 3).map (fun k => wd (x.charged.getD k 0))
      ++ [wd x.engineNs] ++ rowWords s 0x800004 c 8)
/-- Section 04: queues. -/
def saveQueues (s : State) (h : Nat) : List Word :=
  (hoopQueues s h).flatMap (fun q =>
    let x := queue s q
    [wd (q - (hoopBlock s h).1)] ++ (List.range 8).map (wordAt x.row)
      ++ [wd x.tail, wd x.admitted, wd x.written, wd ((x.written / cqSize x + 1) % 2), wd x.cqHead])
/-- Section 05: fences. -/
def saveFences (s : State) (h : Nat) : List Word :=
  (s.fences.filter (fun p => p.2.valid && decide (p.2.hoop = h))).flatMap (fun p =>
    let x := p.2
    [wd p.1, wd (b1 x.error * 2 ^ 62 + b1 x.orphan * 2 ^ 61 + x.use * 2 ^ 59 + b1 x.remote * 2 ^ 58 + b1 x.alias_ * 2 ^ 57
      + x.owner * 2 ^ 41 + x.aliasNode * 2 ^ 33 + x.aliasFence * 2 ^ 19 + x.result * 2 ^ 16), wd x.value, wd x.discards, wd x.init])
/-- Section 06: the number of DRIVER objects, those, then a word per reference. -/
def saveObjects (s : State) (h : Nat) (d : List Word) : List Word :=
  let os := s.objs.filter (fun p => p.2.valid && !p.2.heap && decide (p.2.hoop = h))
  let refs := (hoopCtxs s h).flatMap (fun c => (context s c).refs.map (fun o => wd (c * 2 ^ 18 + o)))
  wd os.length :: os.flatMap (fun p =>
    let x := p.2
    [wd p.1, wd (x.owner * 2 ^ 46 + x.freeFence * 2 ^ 32 + b1 x.freeFenceEn * 2 ^ 31), encLocal s d x.base, wd x.length,
      wd x.freeValue]) ++ refs
/-- Section 07: HEAP_CONFIG and the live HEAP objects. -/
def saveHeap (s : State) (h : Nat) (d : List Word) : List Word :=
  let w := cell s 0x810006 h
  [w 0, encLocal s d (w 1).toNat, w 2, w 3] ++ (heapObjs s h).flatMap (fun p =>
    [wd p.1, wd p.2.owner, wd (p.2.base - (w 1).toNat), wd p.2.length])
/-- Section 09: the sampler table. -/
def saveSampler (s : State) (h : Nat) : List Word :=
  let w0 := cell s 0x800006 h 0
  let slots := if bit w0 63 then samplerSlots s (fld w0 24 16) (fld w0 9 0) else []
  [w0, cell s 0x800006 h 1] ++ slots.map wd
/-- Section 0B: loaded images, each its handle, IMAGE_ID, number of runs, runs. -/
def saveImages (s : State) (h : Nat) (d : List Word) : List Word :=
  ((hoop s h).images.filter (fun i => !i.loading)).flatMap (fun i =>
    let head := i.parts.head?.map (fun p => hbmBytes s (p.1 + 8) 8)
    [wd i.handle, wd (leNat (head.getD [])), wd i.parts.length] ++ i.parts.flatMap (fun p => [encLocal s d p.1, wd p.2]))

/-- The twelve sections of a hoop's blob. -/
def blobSections (s : State) (h : Nat) : List (Nat × List Word) :=
  let x := hoop s h
  let d := x.desc
  [(1, (List.range (unitsOf d).length).map wd), (2, saveRanges s h d), (3, saveContexts s h), (4, saveQueues s h),
    (5, saveFences s h), (6, saveObjects s h d), (7, saveHeap s h d),
    (8, (List.range 16).map (fun i => (tget x.floss i).getD 0) ++ [x.house]), (9, saveSampler s h),
    (10, [cell s 0x710001 h 0, cell s 0x710001 h 1, cell s 0x710002 h 0, cell s 0x710003 h 0, cell s 0x700004 h 0, wd x.invals]),
    (11, saveImages s h d), (12, [encLocal s d (cell s 0x800007 h 0).toNat, cell s 0x800007 h 1])]

/-- The section table for sections that begin at `off`. -/
def sectionTable (off : Nat) : List (Nat × List Word) → List Byte
  | [] => []
  | (k, ws) :: rest => leBytes 8 k ++ leBytes 4 off ++ leBytes 4 (8 * ws.length) ++ sectionTable (off + 8 * ws.length) rest

/-- ROLE_QUARTERS of a descriptor. -/
def roleQuarters (d : List Word) : Nat := fld (wordAt d 0) 55 54 * 64 + (quartersOf d).length
/-- The hoop-state blob of a hoop. -/
def blobOf (s : State) (h : Nat) : List Byte :=
  let secs := blobSections s h
  let d := (hoop s h).desc
  let body := sectionTable (64 + 16 * secs.length) secs ++ wordBytes (secs.flatMap (fun p => p.2))
  let width (k : Nat) := leBytes 1 (descLanterns d k).length
  let head (crc : Nat) := leBytes 4 0x484F4F50 ++ leBytes 2 1 ++ leBytes 1 0x11 ++ leBytes 1 secs.length
    ++ leBytes 8 (64 + body.length) ++ leBytes 2 (unitsOf d).length ++ width 0 ++ width 1 ++ width 2
    ++ leBytes 1 (roleQuarters d) ++ leBytes 2 (hoopFhid s h) ++ leBytes 4 0 ++ leBytes 4 crc ++ leBytes 32 0
  head (crc32c (head 0 ++ body)) ++ body

/-- SAVE: the blob is written as device traffic; the confirming read behind it may still fail it (R286, R554). -/
def saveBlob (s : State) (h : Nat) : State :=
  let blob := blobOf s h
  let a := (cell s 0x11001A h 0).toNat
  if 2 ^ 24 < blob.length ∨ hostExists s a blob.length = false ∨ hostUp s a = false then instResult s h 11
  else instResult (issueConfirm (writeHost s devWho a blob false) (hostAddr s a).1 (.save h)) h 0

/-! ### Reading a blob back (R556) -/

/-- The sections of a blob, by kind. -/
def readSections (bs : List Byte) : List (Nat × List Word) :=
  (List.range (imgFld bs 7 1)).map (fun i =>
    let e := 64 + 16 * i
    (imgFld bs e 1, toWords ((bs.drop (imgFld bs (e + 8) 4)).take (imgFld bs (e + 12) 4))))
/-- The words of one kind; none where the blob has no such section. -/
def sectionOf (secs : List (Nat × List Word)) (k : Nat) : List Word := ((secs.find? (fun p => p.1 = k)).map (fun p => p.2)).getD []
/-- A section's words as records of `n` words. -/
def records (n : Nat) (ws : List Word) : List (List Word) := chunksOf n ws.length ws

/-- Images of section 0B: handle and runs as held. -/
def readImages : Nat → List Word → Option (List (Nat × List (Word × Nat)))
  | 0, _ => some []
  | fuel + 1, ws =>
    if ws.isEmpty then some []
    else
      let n := (wordAt ws 2).toNat
      let parts := (List.range n).map (fun i => (wordAt ws (3 + 2 * i), (wordAt ws (4 + 2 * i)).toNat))
      if ws.length < 3 + 2 * n ∨ 16 ≤ (wordAt ws 0).toNat then none
      else (readImages fuel (ws.drop (3 + 2 * n))).map (fun rest => ((wordAt ws 0).toNat, parts) :: rest)

/-- Is a section made of whole records of its kind? -/
def sectionShapeOk (k : Nat) (ws : List Word) : Bool :=
  let n := ws.length
  match k with
  | 1 => true
  | 2 => n % 9 = 0
  | 3 => n % 16 = 0
  | 4 => n % 14 = 0
  | 5 => n % 5 = 0
  | 6 => decide (n = 0) || decide (1 + 5 * (wordAt ws 0).toNat ≤ n)
  | 7 => decide (n = 0) || (decide (4 ≤ n) && decide (n % 4 = 0))
  | 8 => decide (n = 0) || decide (n = 17)
  | 9 => decide (n = 0) || decide (2 ≤ n)
  | 10 => decide (n = 0) || decide (n = 6)
  | 11 => (readImages n ws).isSome
  | 12 => decide (n = 0) || decide (n = 2)
  | _ => false

/-- R556 step 1: MAGIC, VERSION, reserved fields, bounds and CRC. -/
def blobFormatOk (bs : List Byte) : Bool :=
  let n := imgFld bs 7 1
  let len := imgFld bs 8 8
  let entryOk (i : Nat) : Bool :=
    let e := 64 + 16 * i
    let off := imgFld bs (e + 8) 4
    let size := imgFld bs (e + 12) 4
    imgFld bs (e + 1) 7 = 0 && decide (64 + 16 * n ≤ off) && decide (off + size ≤ len) && decide (size % 8 = 0)
  imgFld bs 0 4 = 0x484F4F50 && imgFld bs 4 2 = 1 && decide (1 ≤ n) && decide (n ≤ 16) && decide (bs.length = len)
    && decide (64 + 16 * n ≤ len) && imgFld bs 24 4 = 0 && imgFld bs 32 32 = 0 && imgFld bs 21 1 / 8 % 8 = 0
    && (List.range n).all entryOk && (readSections bs).all (fun p => sectionShapeOk p.1 p.2)
    && crc32c (bs.take 28 ++ leBytes 4 0 ++ bs.drop 32) = imgFld bs 28 4

/-- R556 step 3: the target's widths, role, unit count and quarters. -/
def blobShapeOk (s : State) (h : Nat) (bs : List Byte) : Bool :=
  let d := (hoop s h).desc
  imgFld bs 16 2 = (unitsOf d).length && (List.range 3).all (fun k => imgFld bs (18 + k) 1 = (descLanterns d k).length)
    && imgFld bs 21 1 = roleQuarters d

/-- R556 step 4: a number is taken, or a queue lies outside the block. -/
def blobInUse (s : State) (h : Nat) (secs : List (Nat × List Word)) : Bool :=
  let first (n k : Nat) := (records n (sectionOf secs k)).map (fun r => (wordAt r 0).toNat)
  let objs := (sectionOf secs 6).drop 1 |>.take (5 * (wordAt (sectionOf secs 6) 0).toNat)
  (first 16 3).any (fun c => decide (1024 ≤ c) || ctxLive s c) || (first 5 5).any (fun f => decide (16384 ≤ f) || (fence s f).valid)
    || ((records 5 objs) ++ (records 4 ((sectionOf secs 7).drop 4))).any (fun r =>
      decide (262144 ≤ (wordAt r 0).toNat) || (obj s (wordAt r 0).toNat).valid)
    || (first 14 4).any (fun q => decide ((hoopBlock s h).2 ≤ q))

/-- Range rows, under the checks of a commit (R289). -/
def restoreRanges (s : State) (who : Req) (h : Nat) (ws : List Word) : Except Nat State :=
  let d := (hoop s h).desc
  (records 9 ws).foldlM (fun s r =>
    let row := (rangeBlock s h).1 + (wordAt r 0).toNat
    match decFpa s d (wordAt r 4), decLocal d (wordAt r 5) with
    | some t, some p =>
      let new := [wordAt r 1, wordAt r 2, wordAt r 3, wd t, wd p, wordAt r 6, wordAt r 7, wordAt r 8]
      let code := if inBlock s h row then commitCode s who row new else 1
      if code ≠ 0 then .error code
      else
        let s := setCells s 0x700001 row 0 new
        .ok { s with rng := { s.rng with rows := tput s.rng.rows row new } }
    | _, _ => .error 6) s

/-- Contexts, under the checks of CREATE (R400). -/
def restoreContexts (s : State) (who : Req) (h : Nat) (ws : List Word) : Except Nat State :=
  (records 16 ws).foldlM (fun s r =>
    let c := (wordAt r 0).toNat
    let s := setCells s 0x800001 c 0 [setFld (wordAt r 1) 55 50 h, wordAt r 2]
    let code := contextCode s who (wd (2 ^ 60 + c))
    if code ≠ 0 then .error code
    else
      let s := createContext s c
      let s := modContext s c (fun x => { x with
        vtime := (wordAt r 3).toNat, charged := [4, 5, 6].map (fun i => (wordAt r i).toNat), engineNs := (wordAt r 7).toNat })
      .ok (setCells s 0x800004 c 0 (r.drop 8))) s

/-- Queues, under the checks of CREATE (R370). -/
def restoreQueues (s : State) (who : Req) (h : Nat) (ws : List Word) : Except Nat State :=
  (records 14 ws).foldlM (fun s r =>
    let q := (hoopBlock s h).1 + (wordAt r 0).toNat
    let row := setFld (wordAt r 1) 54 49 h :: (r.drop 2).take 7
    let s := setCells s 0x900010 q 0 row
    let code := queueCode s who (wd (2 ^ 60 + q))
    if code ≠ 0 then .error code
    else
      let n (i : Nat) := (wordAt r i).toNat % 2 ^ 32
      let s := setQueue s q { queueFree with row := row, tail := n 9, admitted := n 10, written := n 11, cqHead := n 13 }
      .ok (showQueue (setCell s 0x900012 q 0 (wd (2 ^ 60))) q)) s

/-- Fences, under the checks of ALLOC (R404). -/
def restoreFences (s : State) (who : Req) (h : Nat) (ws : List Word) : Except Nat State :=
  (records 5 ws).foldlM (fun s r =>
    let f := (wordAt r 0).toNat
    let w := wordAt r 1
    let s := setCell s 0x810002 f 0 (setFld (wd (fld w 60 19 * 2 ^ 19)) 56 51 h)
    let s := setCell s 0x810002 f 3 (wordAt r 4)
    let code := fenceCode s who (wd (2 ^ 60 + f))
    if code ≠ 0 then .error code
    else
      let x := stagedFence s f
      .ok (setFence s f { x with error := bit w 62, orphan := bit w 61, result := fld w 18 16, value := (wordAt r 2).toNat,
                                 discards := (wordAt r 3).toNat })) s

/-- Memory objects and references (R398, R412, R413). -/
def restoreObjects (s : State) (who : Req) (h : Nat) (ws : List Word) : Except Nat State := do
  let d := (hoop s h).desc
  let n := (wordAt ws 0).toNat
  let s ← (records 5 ((ws.drop 1).take (5 * n))).foldlM (fun s r =>
    let o := (wordAt r 0).toNat
    let w := wordAt r 1
    match decLocal d (wordAt r 2) with
    | none => .error 1
    | some a =>
      if (obj s o).valid then .error 3
      else if quotaFull s h 63 32 (hoopObjs s h) then .error 4
      else
        let s := setCells s 0x810004 o 0 [wd (h * 2 ^ 56 + fld w 55 31 * 2 ^ 31), wd a, wordAt r 3, wordAt r 4]
        .ok (setObj s o { objNone with
          valid := true, hoop := h, owner := fld w 55 46, freeFence := fld w 45 32, freeFenceEn := bit w 31, base := a,
          length := (wordAt r 3).toNat, freeValue := (wordAt r 4).toNat, via := some who })) s
  (ws.drop (1 + 5 * n)).foldlM (fun s w =>
    let c := fld w 27 18
    let o := fld w 17 0
    if !(ctxServing s c && decide ((context s c).hoop = h) && (obj s o).valid) then .error 3
    else if 8192 ≤ (context s c).refs.length ∨ 65535 ≤ (obj s o).refs then .error 4
    else .ok (modContext (setObj s o { obj s o with refs := (obj s o).refs + 1 }) c (fun x => { x with refs := x.refs ++ [o] }))) s

/-- The heap and its objects (R415, R416). -/
def restoreHeap (s : State) (who : Req) (h : Nat) (ws : List Word) : Except Nat State :=
  match decLocal (hoop s h).desc (wordAt ws 1) with
  | none => .error 9
  | some a =>
    let row := [wordAt ws 0, wd a, wordAt ws 2, wd (fld (wordAt ws 3) 0 0)]
    let code := heapConfigCode s who h row
    if code ≠ 0 then .error code
    else
      (records 4 (ws.drop 4)).foldlM (fun s r =>
        let o := (wordAt r 0).toNat
        let c := (wordAt r 1).toNat
        if quotaFull s h 63 32 (hoopObjs s h) then .error 4
        else if !(ctxServing s c && decide ((context s c).hoop = h)) then .error 3
        else
          .ok (makeHeapObj s o h c (a + (wordAt r 2).toNat) (wordAt r 3).toNat)) (setCells s 0x810006 h 0 row)

/-- Floss rows and HOUSE_CLASS, as written through the dictionary: they pass admission, and take effect at the next CREATE or REBIND (R438, R441,
R442, R556). -/
def restoreFloss (s : State) (h : Nat) (ws : List Word) : Except Nat State :=
  let s := (List.range 16).foldl (fun s i => setCell s 0x400001 (8 * h + i / 2) (i % 2) (wordAt ws i)) s
  let s := setCell s 0x400002 h 0 (wd (fld (wordAt ws 16) 2 0))
  if flossAdmits s h (hoop s h).desc then .ok s else .error 9

/-- The sampler table, staged for the next period boundary (R428). -/
def restoreSampler (s : State) (who : Req) (h : Nat) (ws : List Word) : Except Nat State :=
  let w0 := wordAt ws 0
  let s := (ws.drop 2).zipIdx.foldl (fun s p => setCell s 0x800005 (fld w0 24 16 + p.2) 0 (p.1 &&& wd 0xFFE1FFFF)) s
  let code := samplerCode s who h [w0, wordAt ws 1]
  if code ≠ 0 then .error code else .ok (samplerControlWrite s who h [w0, wordAt ws 1])

/-- The fault-record ring, the invalidation-record address and the count of completed invalidations (R301, R308). -/
def restoreFr (s : State) (who : Req) (h : Nat) (ws : List Word) : Except Nat State :=
  let w0 := wordAt ws 0
  let w1 := wordAt ws 1
  let rec_ := (wordAt ws 4).toNat
  let code := frConfigCode s who h w0 w1
  if code ≠ 0 then .error code
  else if rec_ % 32 ≠ 0 ∨ (rec_ ≠ 0 ∧ hostExists s rec_ 32 = false) then .error 9
  else
    let s := setCells s 0x710001 h 0 [w0, wd (fld w1 4 0 + fld w1 8 8 * 256)]
    let s := setReg (setReg s 0x710002 h (fld (wordAt ws 2) 31 0)) 0x710003 h (fld (wordAt ws 3) 31 0)
    let s := setReg (frShow (setReg s 0x710004 h 0) h) 0x700004 h rec_
    .ok (modHoop s h (fun x => { x with invals := (wordAt ws 5).toNat }))

/-- The swap area (R427). -/
def restoreSwap (s : State) (who : Req) (h : Nat) (ws : List Word) : Except Nat State :=
  match decLocal (hoop s h).desc (wordAt ws 0) with
  | none => .error 9
  | some a =>
    let a := if wordAt ws 1 = 0 then 0 else a
    let code := swapAreaCode s who h [wd a, wordAt ws 1]
    if code ≠ 0 then .error code else .ok (swapAreaWrite s who h [wd a, wordAt ws 1])

/-- Images under their handles: each lies in bound memory and is signed for the target (R156 steps 4 and 5, R556 step 6). -/
def restoreImages (s : State) (h : Nat) (ws : List Word) : Except Nat State :=
  let d := (hoop s h).desc
  ((readImages ws.length ws).getD []).foldlM (fun (s : State) (i : Nat × List (Word × Nat)) =>
    let parts := i.2.filterMap (fun p => (decLocal d p.1).map (fun a => (a, p.2)))
    if parts.length ≠ i.2.length ∨ parts.all (fun p => unitRun s h p.1 p.2) = false then .error 9
    else if (hoop s h).images.any (fun x => decide (x.handle = i.1)) then .error 2
    else
      let r := readParts s devWho parts
      if imageTrusted r.2 r.1.1 then
        let new : Image := { queue := 0, entry := 0, handle := i.1, loading := false, parts := parts, code := imageCode r.1.1 parts }
        .ok (modHoop r.2 h (fun x => { x with images := x.images ++ [new] }))
      else .error 8) s

/-- A section's restore, when the blob has the section. -/
def givenSection (secs : List (Nat × List Word)) (k : Nat) (f : List Word → Except Nat State) (s : State) : Except Nat State :=
  let ws := sectionOf secs k
  if ws.isEmpty then .ok s else f ws

/-- Every check of R556 in its order: the state with all of the blob restored, or the first failure. -/
def restoreAll (s : State) (who : Req) (h : Nat) (bs : List Byte) : Except Nat State :=
  let secs := readSections bs
  if !blobFormatOk bs then .error 2
  else if 0x11 < imgFld bs 6 1 then .error 7
  else if !blobShapeOk s h bs then .error 9
  else if blobInUse s h secs then .error 6
  else
    (givenSection secs 2 (restoreRanges s who h) s).bind fun s =>
    (givenSection secs 3 (restoreContexts s who h) s).bind fun s =>
    (givenSection secs 4 (restoreQueues s who h) s).bind fun s =>
    (givenSection secs 5 (restoreFences s who h) s).bind fun s =>
    (givenSection secs 6 (restoreObjects s who h) s).bind fun s =>
    (givenSection secs 7 (restoreHeap s who h) s).bind fun s =>
    (givenSection secs 8 (restoreFloss s h) s).bind fun s =>
    (givenSection secs 9 (restoreSampler s who h) s).bind fun s =>
    (givenSection secs 10 (restoreFr s who h) s).bind fun s =>
    (givenSection secs 12 (restoreSwap s who h) s).bind fun s =>
    givenSection secs 11 (restoreImages s h) s

/-- RESTORE: the header says how long the blob is; a blob that cannot be read or that fails a check changes nothing but
RESULT. -/
def restoreBlob (s : State) (who : Req) (h : Nat) : State :=
  let a := (cell s 0x11001A h 0).toNat
  if hostExists s a 64 = false ∨ hostUp s a = false then instResult s h 2
  else
    let r := readHost s devWho a 64
    let len := imgFld r.1.bytes 8 8
    if len < 64 ∨ 2 ^ 24 < len ∨ hostExists r.2 a len = false then instResult r.2 h 2
    else
      let t := readHost r.2 devWho (a + 64) (len - 64)
      match restoreAll t.2 who h (r.1.bytes ++ t.1.bytes) with
      | .error code => instResult t.2 h code
      | .ok s => instResult (setInst s h .frozen false) h 0

/-- Has a hoop no context, queue, fence or memory object? -/
def hoopBare (s : State) (h : Nat) : Bool :=
  (hoopCtxs s h).isEmpty && (hoopQueues s h).isEmpty && decide (hoopFences s h = 0) && decide (hoopObjs s h = 0)

/-- INSTANCE_COMMAND: only a manager writes it; a refused command changes nothing but RESULT (R553, R554). -/
def instanceCommand (s : State) (who : Req) (w : Word) : State :=
  let op := fld w 63 60
  let h := fld w 5 0
  let x := hoop s h
  if !isManager who then result s 4
  else
    let s := result s 0
    if op = 0 ∨ 5 < op ∨ fld w 59 6 ≠ 0 then instResult s h 2
    else if !hoopLive s h then instResult s h 3
    else
      match op with
      | 1 =>
        match x.inst with
        | .running | .quiescing => startQuiesce s h x.freezing
        | .quiesced => instResult s h 0
        | .frozen => instResult s h 3
      | 2 => if x.inst = .running then instResult s h 3 else instResult (setInst s h .running false) h 0
      | 3 =>
        if s.keeper.conf then instResult s h 10
        else if hoopOpenSlots s h then instResult s h 4
        else if hoopState s h = 2 then instResult s h 3
        else
          match x.inst with
          | .running | .quiescing => startQuiesce s h true
          | .quiesced | .frozen => instResult (setInst s h .frozen false) h 0
      | 4 =>
        if s.keeper.conf then instResult s h 10
        else if x.inst ≠ .frozen then instResult s h 3
        else saveBlob s h
      | _ => if hoopState s h ≠ 1 ∨ hoopBare s h = false then instResult s h 3 else restoreBlob s who h

/-- QUIESCE. -/
def execQuiesce (who : Req) (w : Word) (s : State) : Host.Outcome State Fault Refusal :=
  .next (gateWrite s who 0x110018 false (fun s => instanceCommand s who (setFld w 63 60 1)))
/-- INSTANCE_RESUME. -/
def execInstanceResume (who : Req) (w : Word) (s : State) : Host.Outcome State Fault Refusal :=
  .next (gateWrite s who 0x110018 false (fun s => instanceCommand s who (setFld w 63 60 2)))
/-- FREEZE. -/
def execFreeze (who : Req) (w : Word) (s : State) : Host.Outcome State Fault Refusal :=
  .next (gateWrite s who 0x110018 false (fun s => instanceCommand s who (setFld w 63 60 3)))
/-- SAVE. -/
def execSave (who : Req) (w : Word) (s : State) : Host.Outcome State Fault Refusal :=
  .next (gateWrite s who 0x110018 false (fun s => instanceCommand s who (setFld w 63 60 4)))
/-- RESTORE. -/
def execRestore (who : Req) (w : Word) (s : State) : Host.Outcome State Fault Refusal :=
  .next (gateWrite s who 0x110018 false (fun s => instanceCommand s who (setFld w 63 60 5)))

/-- QUIESCED_REACHED: a quiescing hoop at rest becomes QUIESCED, or FROZEN when a FREEZE began it; a slot opened meanwhile
refuses the FREEZE (R554). -/
def quiescedReached (s : State) (h : Nat) : State :=
  let x := hoop s h
  if x.inst ≠ .quiescing ∨ hoopAtRest s h = false then s
  else if !x.freezing then instResult (setInst s h .quiesced false) h 0
  else if hoopOpenSlots s h then instResult (setInst s h .quiesced false) h 4
  else instResult (setInst s h .frozen false) h 0
/-- QUIESCED_REACHED. -/
def execQuiescedReached (hoop : Nat) (s : State) : Host.Outcome State Fault Refusal := .next (unlessSafe s (quiescedReached s hoop))

/-- QUIESCE_TIMEOUT: QUIESCE_MS passed; the hoop stays QUIESCING (R554). -/
def quiesceTimeout (s : State) (h : Nat) : State :=
  let x := hoop s h
  if x.inst = .quiescing ∧ x.instAt ≤ wick s ∧ fld (cell s 0x110019 h 0) 3 0 = 1 then instResult s h 5 else s
/-- QUIESCE_TIMEOUT. -/
def execQuiesceTimeout (hoop : Nat) (s : State) : Host.Outcome State Fault Refusal := .next (unlessSafe s (quiesceTimeout s hoop))

end Sys2Proof.Machine
end

