-- ==== Sys2Proof/Machine/Entries.lean ====
section
/-! DEFINITION. The table of dictionary entries (R10, R577, R581, and the entry tables of each chapter). -/

namespace Sys2Proof.Machine

/-- What DESCRIBE says of an entry (R581): index × 256 + sub-index; type code of R577; access 0 RO, 1 RW, 2 WO, 3 RWS;
change class 0 none, 1 LIVE, 2 QUIESCE, 3 RESET, 4 LIFECYCLE; bytes per row, or of the value; rows. Where a chapter gives a
TABLE no row size, it is the model's (log 101). -/
structure Entry where
  key : Nat
  type : Nat
  access : Nat
  change : Nat
  size : Nat
  rows : Nat
  deriving DecidableEq, Repr

/-- Entries of the ranges 0x1000 to 0x1100. -/
def entries0 : List Entry := [
  ⟨0x100001, 6, 0, 0, 64, 1⟩,
  ⟨0x100002, 1, 0, 0, 2, 1⟩,
  ⟨0x100003, 1, 0, 0, 2, 1⟩,
  ⟨0x100004, 2, 0, 0, 4, 1⟩,
  ⟨0x100005, 0, 0, 0, 1, 1⟩,
  ⟨0x100006, 6, 0, 0, 64, 1⟩,
  ⟨0x100007, 6, 0, 0, 64, 1⟩,
  ⟨0x100008, 1, 0, 0, 2, 1⟩,
  ⟨0x100009, 2, 0, 0, 4, 1⟩,
  ⟨0x10000A, 3, 0, 0, 8, 1⟩,
  ⟨0x10000B, 3, 0, 0, 8, 1⟩,
  ⟨0x10000C, 8, 0, 0, 4, 16⟩,
  ⟨0x10000D, 8, 0, 0, 2, 284⟩,
  ⟨0x10000E, 8, 0, 0, 24, 180⟩,
  ⟨0x110001, 1, 0, 0, 2, 1⟩,
  ⟨0x110002, 7, 2, 4, 70323, 1⟩,
  ⟨0x110003, 2, 0, 0, 4, 1⟩,
  ⟨0x110004, 3, 0, 0, 8, 1⟩,
  ⟨0x110005, 3, 0, 0, 8, 1⟩,
  ⟨0x110006, 3, 0, 0, 8, 1⟩,
  ⟨0x110007, 7, 2, 1, 70323, 1⟩,
  ⟨0x110008, 3, 0, 0, 8, 1⟩,
  ⟨0x110009, 2, 3, 1, 4, 1⟩,
  ⟨0x11000A, 3, 3, 1, 8, 1⟩,
  ⟨0x11000B, 0, 3, 1, 1, 1⟩,
  ⟨0x11000C, 7, 0, 0, 192, 1⟩,
  ⟨0x11000D, 2, 0, 0, 4, 1⟩,
  ⟨0x11000E, 7, 2, 1, 70323, 1⟩,
  ⟨0x110010, 7, 2, 4, 70323, 1⟩,
  ⟨0x110011, 3, 0, 0, 8, 1⟩,
  ⟨0x110012, 8, 0, 0, 4, 3⟩,
  ⟨0x110013, 3, 0, 0, 8, 1⟩,
  ⟨0x110014, 8, 0, 0, 8, 12⟩,
  ⟨0x110018, 3, 2, 1, 8, 1⟩,
  ⟨0x110019, 8, 0, 0, 2, 64⟩,
  ⟨0x11001A, 8, 1, 1, 8, 64⟩,
  ⟨0x11001B, 2, 1, 1, 4, 1⟩]

/-- Entries of the ranges 0x1200 to 0x3200. -/
def entries1 : List Entry := [
  ⟨0x120001, 1, 1, 3, 2, 1⟩,
  ⟨0x120002, 7, 0, 0, 16, 1⟩,
  ⟨0x120003, 7, 1, 1, 16, 1⟩,
  ⟨0x120004, 2, 1, 1, 4, 1⟩,
  ⟨0x120005, 2, 1, 1, 4, 1⟩,
  ⟨0x120006, 8, 0, 0, 32, 8⟩,
  ⟨0x120007, 8, 0, 0, 8, 6⟩,
  ⟨0x120008, 5, 3, 1, 1, 1⟩,
  ⟨0x200001, 2, 0, 0, 4, 1⟩,
  ⟨0x200002, 1, 0, 0, 2, 1⟩,
  ⟨0x200003, 0, 2, 1, 1, 1⟩,
  ⟨0x200004, 3, 0, 0, 8, 1⟩,
  ⟨0x201001, 2, 1, 1, 4, 1⟩,
  ⟨0x201002, 8, 1, 1, 1, 4⟩,
  ⟨0x201003, 8, 0, 0, 2, 4⟩,
  ⟨0x201004, 2, 0, 0, 4, 1⟩,
  ⟨0x201005, 2, 1, 1, 4, 1⟩,
  ⟨0x202001, 8, 1, 1, 12, 14⟩,
  ⟨0x202002, 8, 0, 0, 16, 14⟩,
  ⟨0x210001, 0, 1, 1, 1, 1⟩,
  ⟨0x210002, 8, 0, 0, 4, 5⟩,
  ⟨0x210003, 0, 1, 1, 1, 1⟩,
  ⟨0x210004, 8, 0, 0, 4, 12⟩,
  ⟨0x210005, 8, 0, 0, 4, 272⟩,
  ⟨0x220001, 8, 0, 0, 1, 4⟩,
  ⟨0x220002, 8, 0, 0, 8, 8⟩,
  ⟨0x220003, 0, 1, 1, 1, 1⟩,
  ⟨0x300001, 8, 1, 1, 128, 64⟩,
  ⟨0x300002, 3, 2, 1, 8, 1⟩,
  ⟨0x300003, 8, 0, 0, 8, 64⟩,
  ⟨0x300004, 8, 0, 0, 4, 12⟩,
  ⟨0x310001, 1, 1, 1, 2, 1⟩,
  ⟨0x310002, 8, 1, 1, 8, 1024⟩,
  ⟨0x310003, 2, 2, 1, 4, 1⟩,
  ⟨0x310004, 3, 0, 0, 8, 1⟩,
  ⟨0x310005, 2, 1, 1, 4, 1⟩,
  ⟨0x310006, 2, 1, 1, 4, 1⟩,
  ⟨0x310007, 1, 2, 1, 2, 1⟩,
  ⟨0x320001, 8, 1, 1, 4, 8⟩,
  ⟨0x320002, 8, 0, 0, 8, 8⟩]

/-- Entries of the ranges 0x4000 to 0x6000. -/
def entries2 : List Entry := [
  ⟨0x400001, 8, 1, 1, 16, 512⟩,
  ⟨0x400002, 8, 1, 1, 1, 64⟩,
  ⟨0x400003, 8, 0, 0, 8, 32⟩,
  ⟨0x400004, 8, 0, 0, 8, 32⟩,
  ⟨0x400005, 8, 0, 0, 32, 16384⟩,
  ⟨0x400006, 2, 1, 1, 4, 1⟩,
  ⟨0x500001, 3, 1, 1, 8, 1⟩,
  ⟨0x500002, 7, 0, 0, 32, 1⟩,
  ⟨0x500003, 3, 0, 0, 8, 1⟩,
  ⟨0x500004, 8, 0, 0, 4, 28⟩,
  ⟨0x500005, 8, 1, 1, 4, 28⟩,
  ⟨0x500006, 8, 0, 0, 4, 28⟩,
  ⟨0x500007, 8, 0, 0, 64, 512⟩,
  ⟨0x500008, 3, 0, 0, 8, 1⟩,
  ⟨0x500009, 7, 2, 4, 16, 1⟩,
  ⟨0x510001, 3, 2, 1, 8, 1⟩,
  ⟨0x510002, 3, 0, 0, 8, 1⟩,
  ⟨0x510003, 8, 0, 0, 32, 64⟩,
  ⟨0x510004, 8, 1, 1, 4, 3⟩,
  ⟨0x510005, 2, 1, 1, 4, 1⟩,
  ⟨0x510006, 2, 1, 1, 4, 1⟩,
  ⟨0x510007, 2, 1, 1, 4, 1⟩,
  ⟨0x510008, 8, 0, 0, 8, 3⟩,
  ⟨0x520001, 0, 1, 1, 1, 1⟩,
  ⟨0x520002, 5, 1, 1, 1, 1⟩,
  ⟨0x520003, 3, 0, 0, 8, 1⟩,
  ⟨0x520004, 7, 0, 0, 262144, 1⟩,
  ⟨0x520005, 5, 2, 1, 1, 1⟩,
  ⟨0x520006, 3, 3, 1, 8, 1⟩,
  ⟨0x600001, 8, 0, 0, 128, 35⟩,
  ⟨0x600002, 8, 1, 1, 8, 272⟩,
  ⟨0x600003, 8, 0, 0, 8, 272⟩,
  ⟨0x600004, 2, 1, 1, 4, 1⟩,
  ⟨0x600005, 8, 0, 0, 32, 32⟩,
  ⟨0x600006, 5, 2, 1, 1, 1⟩,
  ⟨0x600007, 7, 1, 1, 32, 1⟩,
  ⟨0x600008, 2, 1, 1, 4, 1⟩,
  ⟨0x600009, 3, 0, 0, 8, 1⟩]

/-- Entries of the ranges 0x7000 to 0x8100. -/
def entries3 : List Entry := [
  ⟨0x700001, 8, 1, 1, 64, 65536⟩,
  ⟨0x700002, 8, 0, 0, 4, 65⟩,
  ⟨0x700003, 8, 0, 0, 4, 64⟩,
  ⟨0x700004, 8, 1, 1, 8, 64⟩,
  ⟨0x700005, 8, 0, 0, 4, 64⟩,
  ⟨0x700006, 3, 1, 3, 8, 1⟩,
  ⟨0x700007, 3, 0, 0, 8, 1⟩,
  ⟨0x700008, 3, 1, 3, 8, 1⟩,
  ⟨0x700009, 8, 0, 0, 8, 64⟩,
  ⟨0x70000A, 2, 1, 1, 4, 1⟩,
  ⟨0x710001, 8, 1, 1, 16, 64⟩,
  ⟨0x710002, 8, 1, 1, 4, 64⟩,
  ⟨0x710003, 8, 0, 0, 4, 64⟩,
  ⟨0x710004, 8, 0, 0, 1, 64⟩,
  ⟨0x710005, 8, 0, 0, 8, 64⟩,
  ⟨0x710006, 8, 0, 0, 8, 64⟩,
  ⟨0x800001, 8, 1, 1, 16, 1024⟩,
  ⟨0x800002, 3, 2, 1, 8, 1⟩,
  ⟨0x800003, 8, 0, 0, 8, 1024⟩,
  ⟨0x800004, 8, 0, 0, 64, 1024⟩,
  ⟨0x800005, 8, 1, 1, 4, 512⟩,
  ⟨0x800006, 8, 1, 1, 16, 64⟩,
  ⟨0x800007, 8, 1, 1, 16, 64⟩,
  ⟨0x800008, 8, 0, 0, 32, 64⟩,
  ⟨0x800009, 2, 1, 1, 4, 1⟩,
  ⟨0x810001, 8, 0, 0, 4, 11⟩,
  ⟨0x810002, 8, 1, 1, 32, 16384⟩,
  ⟨0x810003, 3, 2, 1, 8, 1⟩,
  ⟨0x810004, 8, 1, 1, 32, 262144⟩,
  ⟨0x810005, 3, 2, 1, 8, 1⟩,
  ⟨0x810006, 8, 1, 1, 32, 64⟩,
  ⟨0x810007, 8, 1, 1, 8, 64⟩,
  ⟨0x810008, 8, 0, 0, 8, 10⟩]

/-- Entries of the ranges 0x9000 to 0xB000. -/
def entries4 : List Entry := [
  ⟨0x900001, 0, 1, 3, 1, 1⟩,
  ⟨0x900002, 0, 1, 3, 1, 1⟩,
  ⟨0x900003, 8, 0, 0, 4, 2⟩,
  ⟨0x900004, 8, 1, 3, 1, 2⟩,
  ⟨0x900005, 8, 1, 1, 2, 64⟩,
  ⟨0x900006, 8, 1, 1, 4, 64⟩,
  ⟨0x900007, 8, 1, 1, 8, 66⟩,
  ⟨0x900008, 8, 1, 1, 1, 8⟩,
  ⟨0x900010, 8, 1, 1, 64, 4096⟩,
  ⟨0x900011, 3, 2, 1, 8, 1⟩,
  ⟨0x900012, 8, 0, 0, 8, 4096⟩,
  ⟨0x900013, 8, 0, 0, 8, 4096⟩,
  ⟨0x900014, 3, 0, 0, 8, 1⟩,
  ⟨0x900015, 8, 0, 0, 8, 4096⟩,
  ⟨0xA00001, 2, 1, 1, 4, 1⟩,
  ⟨0xA00002, 8, 0, 0, 2, 256⟩,
  ⟨0xA00003, 1, 1, 1, 2, 1⟩,
  ⟨0xA00004, 2, 1, 1, 4, 1⟩,
  ⟨0xA00005, 2, 1, 1, 4, 1⟩,
  ⟨0xA00006, 8, 0, 0, 16, 12⟩,
  ⟨0xA00007, 8, 0, 0, 8, 12⟩,
  ⟨0xA00008, 8, 0, 0, 2, 64⟩,
  ⟨0xA00009, 8, 0, 0, 2, 4⟩,
  ⟨0xA0000A, 8, 0, 0, 32, 1024⟩,
  ⟨0xA0000B, 3, 0, 0, 8, 1⟩,
  ⟨0xB00001, 0, 1, 1, 1, 1⟩,
  ⟨0xB00002, 5, 3, 1, 1, 1⟩,
  ⟨0xB00003, 0, 1, 1, 1, 1⟩,
  ⟨0xB00004, 5, 1, 1, 1, 1⟩,
  ⟨0xB00005, 3, 0, 0, 8, 1⟩,
  ⟨0xB00006, 1, 0, 0, 2, 1⟩,
  ⟨0xB00007, 3, 0, 0, 8, 1⟩]

/-- Every entry, in ascending order. -/
def allEntries : List Entry := entries0 ++ entries1 ++ entries2 ++ entries3 ++ entries4

/-- The entry with an index and sub-index. -/
def findEntry? (e : Nat) : Option Entry := allEntries.find? (fun x => decide (x.key = e))
/-- The highest sub-index in use at an index; none where no entry has it. -/
def lastSub (index : Nat) : Option Nat :=
  (allEntries.filter (fun x => decide (x.key / 256 = index))).foldl (fun m x => some (max (m.getD 0) (x.key % 256))) none
/-- The 16 bytes that DESCRIBE returns for an entry (R581). -/
def describeBytes (x : Entry) : List Byte :=
  leBytes 1 x.type ++ leBytes 1 x.access ++ leBytes 1 x.change ++ leBytes 1 0 ++ leBytes 4 x.size ++ leBytes 4 x.rows ++ leBytes 4 0

end Sys2Proof.Machine
end

