-- ==== Sys2Proof/Machine/Views.lean ====
section
/-! DEFINITION. What a read of a dictionary entry returns (R545, R578, R585, R596): the stored cells, and the values that are
read from the machine as it stands. -/

namespace Sys2Proof.Machine

/-! ### Coarsening (R545) -/

/-- A count as read: in confidential mode rounded down to a multiple of 65,536. -/
def coarse (s : State) (n : Nat) : Nat := if s.keeper.conf then n / 65536 * 65536 else n
/-- A word that is one count, as read. -/
def coarseWord (s : State) (w : Word) : Word := wd (coarse s w.toNat)
/-- Rounded to the nearest multiple of `k`. -/
def nearest (k n : Nat) : Nat := (n + k / 2) / k * k
/-- A reading of the board that the spec does not give: the `i`-th free value from the next on. -/
def reading (s : State) (i : Nat) : Nat := (Config.freeValue (s.free + i)).toNat

/-! ### Power and temperature (R485) -/

/-- SUPPLY_STATUS. -/
def supplyStatus (s : State) : Nat :=
  let p := s.power
  b1 p.mainOk + b1 (p.mainPresent && p.mainLow) * 2 + b1 p.auxOk * 4 + b1 (!p.auxOk) * 8 + b1 p.backup * 16 + p.backupStep % 8 * 32
/-- The power state (R461): 0 ACTIVE, 1 GATED, 2 DROWSE, 3 WICK_ONLY. -/
def powerStateCode (s : State) : Nat :=
  if wickOnly s then 3
  else if s.power.sleep = 2 ∨ backupDrowse s = true then 2
  else if s.lan.any (fun p => lanternUp p.2) then 0
  else 1
/-- A RAIL_READINGS row: voltage in mV, the three averages in mA. -/
def railRow (s : State) (r : Nat) : List Nat :=
  let mv := reading s r
  if s.keeper.conf then
    nearest 10 (mv % 2 ^ 16) :: List.replicate 3 (nearest 1000 (railAvg (s.power.rails.getD r []) 2000000))
  else mv % 2 ^ 16 :: railWindows (s.power.rails.getD r [])

/-! ### Status entries of each chapter -/

/-- LC_STATE. -/
def lcState (s : State) : Nat :=
  let m := latestMark s
  s.keeper.lc % 8 + b1 (transitioning s) * 2 ^ 8 + ((m.map (fun m => m.phase)).getD 0) % 8 * 2 ^ 12 + b1 (wipePending s) * 2 ^ 15
/-- DEBUG_STATE: the rights in force and NOT_AFTER (R540). -/
def debugState (s : State) : Nat :=
  match s.keeper.token with
  | some t => if tokenOver s t then 0 else t.rights % 8 + t.signer % 2 * 2 ^ 8 + alignDown (t.notAfter % 2 ^ 64) 512
  | none => 0
/-- Code of a key epoch's state (R557). -/
def keyCode (k : KeyState) : Nat := match k with | .empty => 0 | .active => 1 | .draining => 2 | .destroyed => 3
/-- CONF_STATE. -/
def confState (s : State) : Nat :=
  let k := s.keeper
  let epochs := (List.range 4).map (fun e => keyCode (k.keys.getD e .empty) * 4 ^ e)
  b1 k.conf * 2 ^ 63 + k.step % 8 * 2 ^ 60 + k.tenant % 2 ^ 32 * 2 ^ 16 + epochs.foldl (· + ·) 0
/-- UNIT_KEY_EPOCH of a bobbin. -/
def unitEpochs (s : State) (b : Nat) : Nat :=
  ((List.range 32).map (fun j => unitTag s (b * 32 + j) % 4 * 4 ^ j)).foldl (· + ·) 0
/-- The four owner keys of R533 in the order of their payload: their SHA-384, 0 where the unit holds none. -/
def ownerHashes (s : State) : List Byte :=
  let k := s.keeper
  let hash (bs : List Byte) := leBytes 48 (if bs.isEmpty then 0 else Config.sha384 bs)
  hash (k.ctrlKey.take 104) ++ hash (k.imageKey.take 104) ++ hash (k.ctrlKey.drop 104) ++ hash (k.imageKey.drop 104)
/-- Code of an instance state (R553). -/
def instCode (i : Inst) : Nat := match i with | .running => 0 | .quiescing => 1 | .quiesced => 2 | .frozen => 3

/-- EPOCH_STATE (R333, R353). -/
def epochState (s : State) : Nat :=
  let e (st : BankState) := (bankIn s st).map (fun i => (bank s i).epoch)
  let old := e .draining
  let staged := e .staged
  let count := (old.map (epochCount s)).getD 0
  let phase := if old.isSome then (if s.fab.drained then 3 else 2) else if staged.isSome then 1 else 0
  count % 2 ^ 32 * 2 ^ 32 + phase * 2 ^ 12 + staged.getD 0 % 8 * 64 + old.getD 0 % 8 * 8 + (curBank s).epoch % 8
/-- RANGE_BLOCKS of a hoop. -/
def rangeBlocksRow (s : State) (h : Nat) : Nat :=
  if hoopState s h = 0 then 0 else (rangeBlock s h).1 + (rangeBlock s h).2 * 2 ^ 16
/-- Lantern time of a context over the last 100 ms. -/
def recentTime (s : State) (c : Nat) : Nat :=
  let done := ((context s c).hist.filter (fun p => decide (wick s < p.1 + 100000000))).map (fun p => min p.2 (p.1 + 100000000 - wick s))
  let now := allLanterns.filterMap (fun l => match (lantern s l).cur with
    | some r => if r.ctx = c then some (min (wick s - r.since) 100000000) else none
    | none => none)
  (done ++ now).foldl (· + ·) 0
/-- UTIL of a context (R433). -/
def utilOf (s : State) (c : Nat) : Nat :=
  let all := ((hoopCtxs s (context s c).hoop).map (recentTime s)).foldl (· + ·) 0
  let u := if all = 0 then 0 else 1000 * recentTime s c / all
  if s.keeper.conf then u / 50 * 50 else u
/-- A CONTEXT_USAGE row (R433, R545). -/
def usageRow (s : State) (c : Nat) : List Word :=
  let w := cell s 0x800004 c
  let fences := (s.fences.filter (fun p => p.2.valid && decide (p.2.owner = c))).length
  let live := ctxLive s c
  let w6 := if live then coarse s (context s c).refs.length % 2 ^ 32 + coarse s fences % 2 ^ 16 * 2 ^ 32 + utilOf s c * 2 ^ 48 else 0
  (List.range 6).map (fun i => coarseWord s (w i)) ++ [wd w6, wd (coarse s (fld (w 7) 31 0))]
/-- An OBJECT_TABLE row: VALID, KIND, RESULT and REFS as they stand, every other field as written, since it acts at the next
CREATE (R412, R585). -/
def objectRow (s : State) (o : Nat) : List Word :=
  let x := obj s o
  let w := cell s 0x810004 o
  [wd (b1 x.valid * 2 ^ 63 + b1 (x.valid && x.heap) * 2 ^ 62 + fld (w 0) 61 31 * 2 ^ 31 + x.result % 8 * 2 ^ 28
    + (if x.valid then x.refs % 2 ^ 16 else 0)), w 1, w 2, w 3]
/-- A FLOSS_COUNTERS row: the first three words are counts, the fourth two U32 counts. -/
def flossCounterRow (s : State) (row : Nat) : List Word :=
  let w := cell s 0x400005 row
  let half (hi lo : Nat) := coarse s (fld (w 3) hi lo)
  [coarseWord s (w 0), coarseWord s (w 1), coarseWord s (w 2), wd (half 31 0 + half 63 32 * 2 ^ 32)]
/-- A PORT_STATE row: RATING and SUM are coarsened. -/
def portStateRow (s : State) (p : Nat) : Word :=
  let w := portState s p
  wd (coarse s (fld w 63 41) * 2 ^ 41 + coarse s (fld w 40 17) * 2 ^ 17 + fld w 16 0)
/-- A CLASS_STATE row: of a running timer the milliseconds left (R495). -/
def classStateRow (s : State) (c : Nat) : Word :=
  let w := cell s 0x500006 c 0
  match tget s.snuffer.timers c with
  | some (_, _, t) => setFld w 15 0 (fld w 15 0 - (wick s - t) / 1000000)
  | none => w

/-- LANTERN_MAP: slots in the order M, V, S of a quarter's IDs (log 101). -/
def lanternMapRow (s : State) (row : Nat) : Nat :=
  let q := row / 64
  let i := row % 64
  let l := if i < 40 then lanId q 0 i else if i < 56 then lanId q 1 (i - 40) else lanId q 2 (i - 56)
  (lantern s l).phys % 64 + b1 (lantern s l).retired * 2 ^ 15
/-- REMAP_STATE: remapped, places free, table entries free, retired. -/
def remapRow (s : State) (b : Nat) : List Byte :=
  let r := reserveOf b
  let taken := (s.darner.remaps.filter (fun p => decide (r.1 ≤ p.2) && decide (p.2 < r.1 + 8192 * r.2))).length
    + (s.darner.queue.filter (fun p => decide (r.1 ≤ p.place) && decide (p.place < r.1 + 8192 * r.2))).length
  let gone := (s.darner.retired.filter (fun g => decide (g / 0x1000000000 = b))).length
  leBytes 4 (remapsOf s b) ++ leBytes 4 (r.2 - taken) ++ leBytes 2 (8192 - remapsOf s b) ++ leBytes 4 gone ++ leBytes 2 0
/-- Free spares of a kind in a quarter (R569). -/
def sparesLeft (s : State) (q kind : Nat) : Nat :=
  let base := lanId q kind 0
  ((List.range (kindCount kind + kindSpares kind)).filter (fun i =>
    (logicalOf s (base + i)).isNone && !s.darner.deadPhys.contains (base + i))).length
/-- SPARES_FREE. -/
def sparesRow (s : State) (q : Nat) : Nat := sparesLeft s q 0 + sparesLeft s q 1 * 16 + sparesLeft s q 2 * 256

/-! ### Identity and SDP (R594, R596) -/

/-- The bytes of a text. -/
def textBytes (t : String) : List Byte := padTo 64 (t.toUTF8.data.toList.map (fun b => b.toBitVec))
/-- RESOURCES (R1). -/
def resourcesRow (row : Nat) : Nat := [160, 64, 32, 176, 72, 36, 12, 756, 8, 8, 64].getD row 0
/-- OBJECT_LIMITS, in the order of R397. -/
def objectLimit (row : Nat) : Nat := [64, 1024, 4096, 16384, 262144, 65536, 256, 512, 16, 16, 8192].getD row 0
/-- The local ports of a quarter's mesh that lanterns may take, as rows of LANTERN_ROUTERS: two at each of the 48 routers that
carry no slice, but one where an eyelet port, a collective engine or the context stream engine holds the other (R30 to R32). -/
def routerPorts : List Nat :=
  (List.range 128).filter (fun p =>
    let x := p % 8
    let y := p / 8 % 8
    let port := p / 64
    decide (x ≠ 1 ∧ x ≠ 6) && decide (port = 0 ∨ (x, y) ∉ [(2, 0), (5, 0), (3, 7), (4, 7), (3, 0)]))
/-- Ports for `n` lanterns from the `k`-th on, no two the same. -/
def placeLanterns : Nat → Nat → List Nat → List Nat
  | 0, _, _ => []
  | n + 1, k, free =>
    let i := Config.routerChoice k % free.length
    free.getD i 0 :: placeLanterns n (k + 1) (free.eraseIdx i)
/-- LANTERN_ROUTERS: the fixed router of each physical lantern, one the spec allows (log 129). -/
def routerRow (row : Nat) : Word := wd ((placeLanterns 71 (71 * (row / 71)) routerPorts).getD (row % 71) 0)
/-- Bytes of the MAC, first sent first. -/
def macBytes : List Byte := (leBytes 6 Config.mac.toNat).reverse
/-- The link-local address: fe80::/64 and the modified EUI-64 of the MAC (R594). -/
def linkLocal : List Byte :=
  let m := macBytes
  let first : Byte := m.headD 0 ^^^ 2
  [0xFE, 0x80, 0, 0, 0, 0, 0, 0, first] ++ (m.drop 1).take 2 ++ [0xFF, 0xFE] ++ m.drop 3
/-- The bytes of IPV6_GLOBAL. -/
def globalBytes (s : State) : List Byte := wordBytes (rowWords s 0x120003 0 2)
/-- A SESSIONS row. -/
def sessionRow (s : State) (i : Nat) : List Byte :=
  match s.server.sessions[i]? with
  | none => leBytes 32 0
  | some x => leBytes 4 x.num ++ leBytes 1 1 ++ leBytes 1 (b1 x.mctp) ++ leBytes 1 (b1 x.secured) ++ leBytes 1 0 ++ leBytes 4 x.seq
      ++ leBytes 4 0 ++ leBytes 8 x.peer ++ leBytes 8 x.time
/-- An ENTRY_DIRECTORY row. -/
def directoryRow (row : Nat) : List Byte :=
  match allEntries[row]? with
  | none => leBytes 24 0
  | some x => leBytes 2 (x.key / 256) ++ leBytes 1 (x.key % 256) ++ leBytes 1 0 ++ describeBytes x ++ leBytes 4 0

/-! ### A row as read -/

/-- A cell as written: a value not yet in force stands before the one in force (R585). -/
def writtenCell (s : State) (e row w : Nat) : Word := (tget s.staged (stagedKey e row w)).getD (cell s e row w)
/-- The words of a row as written. -/
def writtenWords (s : State) (x : Entry) (row : Nat) : List Word := (List.range ((x.size + 7) / 8)).map (writtenCell s x.key row)

/-- A word of a row that a command checks as a whole, without its reserved bits: the cells keep them, so that the command or the
commit refuses the row (R9, R289, R322, R401), and they read as 0 (R7). -/
def shownBits (e w : Nat) (v : Word) : Word :=
  let mask : Nat :=
    match e, w with
    | 0x300001, 0 => 0xFFFCFFFFFC000000
    | 0x700001, 0 => 0xFBFF000000000000
    | 0x700001, 1 => 0x01FFFFFFFFFFF000
    | 0x700001, 2 => 0x00000000FFFFFFFF
    | 0x700001, 3 => 0x000FFFFFFFFFF000
    | 0x700001, 4 => 0x00000FFFFFFFFFF8
    | 0x700001, 5 => 0xFFFF000000000000
    | 0x700001, 7 => 0
    | 0x800001, 0 => 0xFFFFFFFFFF000000
    | 0x810006, 3 => 1
    | 0x900010, 0 => 0xFFFFFFFFE0000000
    | 0x900010, 3 | 0x900010, 4 | 0x900010, 5 | 0x900010, 6 | 0x900010, 7 => 0
    | _, _ => 0xFFFFFFFFFFFFFFFF
  v &&& wd mask

/-- The bytes of one row, or of a value, as they read. -/
def viewBytes (s : State) (who : Req) (x : Entry) (row : Nat) : List Byte :=
  let n (v : Nat) := leBytes x.size v
  let ws (l : List Word) := (wordBytes l).take x.size
  match x.key with
  | 0x100001 => textBytes "Rintoser"
  | 0x100002 => ws [Config.pciVendorId]
  | 0x100003 => n (if isManager who then 0x4160 else 0x4161)
  | 0x100004 => n 0x4160
  | 0x100005 => n 0x11
  | 0x100006 => textBytes "Etpiac Jeotte ETP-J4160"
  | 0x100007 => (List.range 64).map Config.moduleSerial
  | 0x100008 => n 1
  | 0x100009 => ws [Config.sequencerVersion]
  | 0x10000A => n Config.mac.toNat
  | 0x10000B => n 0x1FF
  | 0x10000C => n (resourcesRow row)
  | 0x10000D => ws [routerRow row]
  | 0x10000E => directoryRow row
  | 0x110001 => n (lcState s)
  | 0x110004 => ws [Config.uid]
  | 0x110008 => n (debugState s)
  | 0x11000C => ownerHashes s
  | 0x110011 => n (confState s)
  | 0x110012 => n (((epochIn s .draining).map (fun e => (keyDrain s e).getD row 0)).getD 0)
  | 0x110014 => n (unitEpochs s row)
  | 0x110019 => n (instCode (hoop s row).inst * 2 ^ 12 + fld (cell s 0x110019 row 0) 3 0)
  | 0x120002 => linkLocal
  | 0x120006 => sessionRow s row
  | 0x200001 => n (supplyStatus s)
  | 0x200002 => n (powerStateCode s + fld (cell s 0x200002 0 0) 11 8 * 2 ^ 8)
  | 0x200004 => n (reading s 0 % 2 ^ 16 * 2 ^ 48 + reading s 1 % 2 ^ 16 * 2 ^ 32 + fld (cell s 0x200004 0 0) 31 0)
  | 0x201003 => n (opCurrent s row)
  | 0x201004 => n (let v := reading s 0 % 2 ^ 12; if s.keeper.conf then nearest 25 v else v)
  | 0x202002 => (railRow s row).flatMap (leBytes 4)
  | 0x220001 => n (throttleBits s row)
  | 0x220002 => n (coarse s (throttleNs s row / 1000))
  | 0x310002 =>
    let w := cell s 0x310002 row 0
    if row % 512 < 256 then ws [setFld w 62 62 (b1 (s.fab.lostRows.contains (row / 512, row % 512)))] else ws [w]
  | 0x310004 => n (epochState s)
  | 0x320002 => n (eyeletState s row)
  | 0x400003 => ws [portStateRow s row]
  | 0x400005 => ws (flossCounterRow s row)
  | 0x500006 => ws [classStateRow s row]
  | 0x520004 => (List.range x.size).map (fun i => cget (fun _ => 0) s.snuffer.summary i)
  | 0x600001 => ws ((rowWords s x.key row 16).map (coarseWord s))
  | 0x600002 => ws [(tget s.tele.selNew row).getD (cell s x.key row 0)]
  | 0x600003 => ws [coarseWord s (cell s x.key row 0)]
  | 0x600004 => n (s.tele.windowNew.getD (regN s x.key 0))
  | 0x600005 =>
    let w := cell s x.key row
    ws [coarseWord s (w 0), coarseWord s (w 1), w 2, coarseWord s (w 3)]
  | 0x600009 => ws [dumpState s]
  | 0x700003 => n (rangeBlocksRow s row)
  | 0x800004 => ws (usageRow s row)
  | 0x810001 => n (objectLimit row)
  | 0x810002 => ws (fenceRow s row)
  | 0x810004 => ws (objectRow s row)
  | 0x900003 => n (linkState s row)
  | 0xA00002 => n (lanternMapRow s row)
  | 0xA00006 => remapRow s row
  | 0xA00009 => n (sparesRow s row)
  | _ => ws ((writtenWords s x row).zipIdx.map (fun p => shownBits x.key p.2 p.1))

/-- Does a row hold a value that has been written and is not in force (R403, R585)? -/
def rowPending (s : State) (x : Entry) (row : Nat) : Bool :=
  let words := List.range ((x.size + 7) / 8)
  match x.key with
  | 0x600002 => (tget s.tele.selNew row).isSome
  | 0x600004 => s.tele.windowNew.isSome
  | 0x800006 => (hoop s row).samplerNew.isSome
  | 0x810002 =>
    let f := fence s row
    let g := stagedFence s row
    decide ((f.use, f.remote, f.alias_, f.hoop, f.owner) ≠ (g.use, g.remote, g.alias_, g.hoop, g.owner))
      || decide ((f.aliasNode, f.aliasFence, f.init) ≠ (g.aliasNode, g.aliasFence, g.init))
  | 0x900005 => decide ((writtenVf s row).hoop ≠ (vf s row).hoop)
  | 0x900006 => decide ((writtenVf s row).first ≠ (vf s row).first) || decide ((writtenVf s row).count ≠ (vf s row).count)
  | _ => words.any (fun w => (tget s.staged (stagedKey x.key row w)).isSome)

end Sys2Proof.Machine
end

