-- ==== Sys2Proof/Machine/Dictionary.lean ====
section
/-! DEFINITION. The dictionary server: who may reach what, the writes of every entry, the operations, the mailbox and
aperture, SDP sessions and the management port (R576 to R597). A result is a code of R582. -/

namespace Sys2Proof.Machine

/-! ### Who may reach what (R586, R589) -/

/-- What a TABLE's rows are indexed by, for the rows that are a VF's own. -/
inductive RowKind
  | hoop | floss | flossPort | context | fence | object | queue | range | vf | slot | none
  deriving DecidableEq, Repr

/-- The index of an entry's rows. -/
def rowKind (e : Nat) : RowKind :=
  match e with
  | 0x700002 | 0x700003 | 0x700004 | 0x700005 | 0x700009 | 0x710001 | 0x710002 | 0x710003 | 0x710004 | 0x710005 | 0x710006
  | 0x300001 | 0x300003 | 0x400002 | 0x800006 | 0x800007 | 0x800008 | 0x810006 | 0x810007 | 0x110019 | 0x11001A => .hoop
  | 0x400001 => .floss
  | 0x400005 => .flossPort
  | 0x800001 | 0x800003 | 0x800004 => .context
  | 0x810002 => .fence
  | 0x810004 => .object
  | 0x900010 | 0x900012 | 0x900013 | 0x900015 => .queue
  | 0x700001 => .range
  | 0x900005 | 0x900006 | 0x900007 => .vf
  | 0x800005 => .slot
  | _ => .none

/-- Is a sampler slot in the run that a hoop's SAMPLER_CONTROL names? -/
def ownSlot (s : State) (h row : Nat) : Bool :=
  let w := cell s 0x800006 h 0
  decide (fld w 24 16 ≤ row) && decide (row < fld w 24 16 + fld w 9 0)

/-- Is a row one of a VF's own? `new` is the row's first word as a write would leave it; none for a read. A row of a live
object belongs to the object's hoop, and a write must leave it there; any other row belongs as it stands, or for a write as
it would stand. -/
def ownRow (s : State) (n e row : Nat) (new : Option Word) : Bool :=
  match vfHoop s n with
  | none => decide (rowKind e = .vf) && decide (row = n)
  | some h =>
    let stored (entry hi lo : Nat) := fld (new.getD (cell s entry row 0)) hi lo
    let owned (live : Bool) (mine : Bool) (entry hi lo : Nat) : Bool :=
      if live then mine && (match new with | some w => decide (fld w hi lo = h) | none => true)
      else decide (stored entry hi lo = h)
    match rowKind e with
    | .hoop => decide (row = h)
    | .floss => decide (row / 8 = h)
    | .flossPort => decide (row % 512 / 8 = h)
    | .context => owned (ctxLive s row) (decide ((context s row).hoop = h)) 0x800001 55 50
    | .fence =>
      let f := fence s row
      owned f.valid (decide (f.hoop = h) || ctxOf s h f.owner) 0x810002 56 51
    | .object =>
      let o := obj s row
      owned o.valid (decide (o.hoop = h) || ctxOf s h o.owner) 0x810004 61 56
    | .queue => ownsQueue s (.vf n) row
    | .range => rowHoop s row == some h
    | .vf => decide (row = n)
    | .slot => ownSlot s h row
    | .none => false

/-- May a VF read something of an entry? -/
def vfReads (e : Nat) : Bool :=
  [0x1000, 0x1100, 0xB000].contains (e / 256) || decide (e = 0x510002) || decide (rowKind e ≠ .none)
/-- May a requester see a row? -/
def seesRow (s : State) (who : Req) (e row : Nat) : Bool :=
  match who with
  | .vf n => decide (rowKind e = .none) || ownRow s n e row none
  | _ => true
/-- Entries that a VF may write: commands and signed requests, and rows of its own where the chapter allows it (R396, R434,
R557, R586). -/
def vfWrites (e : Nat) : Bool :=
  [0x510001, 0x800002, 0x810003, 0x810005, 0x900011, 0x110002, 0x110007, 0x11000E, 0x110010,
    0x700001, 0x700004, 0x710001, 0x710002, 0x800001, 0x800005, 0x800006, 0x800007, 0x810002, 0x810004, 0x810006, 0x900010].contains e
/-- May a requester write these rows (number, words)? -/
def mayWrite (s : State) (who : Req) (e : Nat) (rows : List (Nat × List Word)) : Bool :=
  match who with
  | .vf n => vfWrites e && (decide (rowKind e = .none) || rows.all (fun r => ownRow s n e r.1 (some (wordAt r.2 0))))
  | _ => true

/-- Does an index exist in the present state (R589, R597)? The factory range exists in BLANK and FACTORY_TEST alone. -/
def factoryOpen (s : State) (index : Nat) : Bool := decide (index = 0xF000) && decide (s.keeper.lc ≤ 1)
/-- Is an entry closed to reads in the present state: in WICK_ONLY all but a few are. -/
def readClosed (s : State) (e : Nat) : Bool := wickOnly s && !wickRange e
/-- Is an entry closed to writes? A RESET_REQUEST makes its own check in safe state (R500). -/
def dictClosed (s : State) (who : Req) (e : Nat) : Bool := if e = 0x510001 then wickOnly s else writeClosed s who e

/-- The first of some results in the order of R582: the lowest that is not OK. -/
def firstCode (codes : List Nat) : Nat :=
  codes.foldl (fun best c => if c ≠ 0 ∧ (best = 0 ∨ c < best) then c else best) 0

/-! ### The values an entry takes -/

/-- Classes whose faults the FENCE reaction accepts (R487). -/
def fenceClasses : List Nat := [1, 2, 3, 4, 6, 7, 8, 9, 13, 26]
/-- Classes that accept LEVEL 0 (R488). -/
def levelZeroClasses : List Nat := [7, 12, 13, 19, 20, 22, 27]

/-- Does a value lie among those its entry lists? -/
def valueOk (s : State) (e row : Nat) (ws : List Word) : Bool :=
  let w := wordAt ws 0
  let v := w.toNat
  let within (lo hi : Nat) := decide (lo ≤ v) && decide (v ≤ hi)
  match e with
  | 0xB00001 => within 1 2
  | 0xB00003 => within 0 4
  | 0xB00004 | 0x520002 | 0x900001 => within 0 1
  | 0x70000A => within 10 10000
  | 0x700006 | 0x700008 | 0x11001A => v % 4096 = 0
  | 0x700004 => v = 0 || (v % 32 = 0 && hostExists s v 32)
  | 0x310005 => within 1 4
  | 0x310006 => within 100 1000000
  | 0x900002 => within 1 3
  | 0x900006 => fld w 27 16 % 64 = 0 && decide (fld w 6 0 ≤ 64) && decide (fld w 27 16 + 64 * fld w 6 0 ≤ 4096)
  | 0x900007 => v % 0x40000000 = 0
  | 0x800009 => within 10 100000
  | 0x400001 =>
    decide (fld w 63 54 ≤ 1000) && decide (fld w 53 44 ≤ 1000)
      && (fld w 31 0 = 0 || (decide (100 ≤ fld w 31 0) && decide (fld w 31 0 ≤ 1000000)))
  | 0x400006 => within 5 1000
  | 0x201001 => within 300 1700
  | 0x201002 | 0x220003 => within 0 7
  | 0x201005 => within 0 1000000
  | 0x202001 =>
    decide (fld w 31 0 ≤ railLimit row 0) && decide (fld w 63 32 ≤ railLimit row 1) && decide (fld (wordAt ws 1) 31 0 ≤ railLimit row 2)
  | 0x210001 => within 85 100
  | 0x210003 => within 80 90
  | 0x500005 =>
    decide (1 ≤ fld w 15 0) && decide (fld w 15 0 ≤ 60000) && decide (fld w 30 28 ≤ 6)
      && (!bit w 31 || fenceClasses.contains row) && (decide (fld w 30 28 ≠ 0) || levelZeroClasses.contains row)
  | 0x510004 => match row with | 0 => within 100 2000 | 1 => within 1000 20000 | _ => within 1000 100000
  | 0x510005 => v = 0 || within 10 600000
  | 0x510006 => v = 0 || within 100 3600000
  | 0x510007 => within 20 10000
  | 0x11001B => within 1 600000
  | 0xA00003 => within 2 1000
  | 0xA00004 => within 60 604800
  | 0xA00005 => within 16 8192
  | 0x120004 => !bit w 16 || decide (fld w 7 0 < fld w 15 8)
  | 0x120005 => within 5 3600
  | _ => true

/-- A word of an entry without its reserved and read-only bits (R8). -/
def keptBits (e w : Nat) (v : Word) : Word :=
  let mask : Nat :=
    match e, w with
    | 0x900005, _ => 0x803F
    | 0x900006, _ => 0x0FFF007F
    | 0x900008, _ => 0xBF
    | 0x400002, _ => 7
    | 0x400001, 0 => 0xFFFFFE00FFFFFFFF
    | 0x400001, _ => 0xFFFFFFFFFFFF0000
    | 0x500005, _ => 0xF000FFFF
    | 0x120004, _ => 0x1FFFF
    | 0xA00001, _ => 0xF
    | 0x800005, _ => 0xFFE1FFFF
    | 0x810002, 0 => 0x1FFFFFFFFFF80000
    | 0x810004, 0 => 0x3FFFFFFF80000000
    | _, _ => 0xFFFFFFFFFFFFFFFF
  v &&& wd mask

/-- Is a row fixed while its VF's TDISP interface is locked or running (R361)? -/
def tdispLocked (s : State) (who : Req) (e row : Nat) : Bool :=
  let held (n : Nat) : Bool := decide ((vf s n).tdisp = .locked) || decide ((vf s n).tdisp = .run)
  match e, who with
  | 0x900005, .pf _ | 0x900006, .pf _ | 0x900007, .pf _ => decide (row < 64) && held row
  | 0x300001, _ => (List.range 64).any (fun n => held n && vfHoop s n == some row)
  | _, _ => false

/-- Write a row that has no effect of its own: staged for a RESET entry, or one that waits for its moment, else in its cells. Read-only words of FENCE_TABLE
rows are not written. -/
def plainWrite (s : State) (who : Req) (e row : Nat) (ws : List Word) : State :=
  if !valueOk s e row ws then result s 9
  else if tdispLocked s who e row then result s 10
  else
    ws.zipIdx.foldl (fun s p =>
      let v := keptBits e p.2 p.1
      if (resetEntries ++ heldEntries).contains e then { s with staged := tput s.staged (stagedKey e row p.2) v }
      else if e = 0x810002 ∧ (p.2 = 1 ∨ p.2 = 2) then s
      else setCell s e row p.2 v) s

/-- A CLASS_CONFIG row: the class's current level equals LEVEL whenever its bit is clear (R493). -/
def classConfigWrite (s : State) (who : Req) (c : Nat) (ws : List Word) : State :=
  let s := plainWrite s who 0x500005 c ws
  if bit (statusWord s) c then s else setRegFld s 0x500006 c 31 28 (classLevel s c)

/-! ### The write of one row -/

/-- A RANGE_TABLE row: words 1 to 7 are staged, and W0, where the write reaches it, commits them (R288). -/
def rangeRowWrite (s : State) (who : Req) (row : Nat) (ws : List Word) (commit : Bool) : State :=
  let s := setCells s 0x700001 row 1 (ws.drop 1)
  if commit then rangeCommit s who row (wordAt ws 0) else s
/-- The bits of a PRICKING_BANKS row that a write reaches: VALID and EYELETS of a route row (R328), and of a hoop row's words
those that are not reserved (R329). -/
def bankMask (row : Nat) : Nat :=
  if row % 512 < 256 then 0xBFC0000000000000
  else match row % 4 with
    | 0 => 0xFFFFF00000000000
    | 1 => 0xFFFFFFFFFFFFFFFF
    | 2 => 0x00FFFFFFFFFFFFFF
    | _ => 0
/-- A PRICKING_BANKS row: a bank that is CURRENT or DRAINING refuses the write with STATE (R333, R582); writing a route row clears its
LOST (R328). -/
def bankRowWrite (s : State) (row : Nat) (v : Word) : State :=
  let st := (bank s (row / 512)).state
  if st = .current ∨ st = .draining then result s 10
  else
  let s := setCell s 0x310002 row 0 (v &&& wd (bankMask row))
  if row % 512 < 256 then
    { s with fab := { s.fab with lostRows := s.fab.lostRows.filter (fun p => decide (p ≠ (row / 512, row % 512))) } }
  else s
/-- TENANT_OP: in force at the next tenant change; while one is in progress the value waits for the one after (R480). -/
def tenantOpWrite (s : State) (v : Word) : State :=
  if !valueOk s 0x220003 0 [v] then result s 9
  else if s.keeper.step ≠ 0 then { s with staged := tput s.staged (stagedKey 0x220003 0 0) v }
  else setCell s 0x220003 0 0 v

/-- A SAMPLER_TABLE slot, a CLASS_CONFIG row and the like by their own rules; a command is delivered. The state's answer
holds the result. `commit` says whether the write reaches the row's first word. -/
def rowWrite (s : State) (who : Req) (e row : Nat) (ws : List Word) (commit : Bool) : State :=
  let s := result s 0
  let w0 := wordAt ws 0
  let w1 := wordAt ws 1
  match e with
  | 0x700001 => rangeRowWrite s who row ws commit
  | 0x710001 => frConfigWrite s who row w0 w1
  | 0x710002 => frHeadWrite s who row w0
  | 0x300002 => hoopCommand s who w0
  | 0x310001 => nodeIdWrite s who w0
  | 0x310002 => bankRowWrite s row w0
  | 0x310003 => epochCommand s who w0
  | 0x310007 => markLost s (fld w0 7 0)
  | 0x320001 => eyeletEnable s who row w0
  | 0x900011 => queueCommand s who w0
  | 0x800002 => contextCommand s who w0
  | 0x810003 => fenceCommand s who w0
  | 0x810005 => objectCommand s who w0
  | 0x800006 => samplerControlWrite s who row [w0, w1]
  | 0x800007 => swapAreaWrite s who row [w0, w1]
  | 0x810006 => heapConfigWrite s who row ws
  | 0x200003 => if w0 = 0 ∨ w0 = 2 ∨ w0 = 3 then powerReq s who w0.toNat else result s 9
  | 0x500001 => statusWordWrite s who w0
  | 0x500005 => if row = 0 then result s 6 else classConfigWrite s who row ws
  | 0x510001 => resetRequest s who w0
  | 0x520005 => if 1 < w0.toNat then result s 9 else dumpRelease s who w0
  | 0x600002 => selConfigWrite s who row w0
  | 0x600004 => windowUsWrite s who w0
  | 0x600006 => peakReset s who w0
  | 0x600008 => dumpHeadWrite s who w0
  | 0x110018 => instanceCommand s who w0
  | 0x220003 => tenantOpWrite s w0
  | _ =>
    if (rwsSize e).isSome then
      let code := rwsWriteCode s e w0.toNat
      if code = 0 then rwsApply s e w0.toNat else result s code
    else plainWrite s who e row ws

/-- The VF totals as a write would leave them sum to at most 64 (R359). -/
def totalsOk (s : State) (e : Nat) (rows : List (Nat × List Word)) : Bool :=
  let total (p : Nat) : Nat :=
    match rows.find? (fun r => decide (r.1 = p)) with
    | some r => (wordAt r.2 0).toNat
    | none => (writtenCell s 0x900004 p 0).toNat
  decide (e ≠ 0x900004) || decide (total 0 + total 1 ≤ 64)

/-- Write rows (number, words, whether the first word is reached): every row is checked before any is written; commands are
delivered in ascending order (R582). -/
def writeRows (s : State) (who : Req) (e : Nat) (rows : List (Nat × List Word × Bool)) : State :=
  let code := firstCode ((if totalsOk s e (rows.map (fun r => (r.1, r.2.1))) then 0 else 9)
    :: (if dictClosed s who e then 10 else 0)
    :: rows.map (fun r => (rowWrite s who e r.1 r.2.1 r.2.2).answer.status))
  if code ≠ 0 then result s code
  else result (rows.foldl (fun s r => rowWrite s who e r.1 r.2.1 r.2.2) (wakeUp s)) 0

/-- A whole BLOB takes effect; the answer holds the result. -/
def blobWrite (s : State) (who : Req) (e : Nat) (bs : List Byte) : State :=
  let s := result s 0
  let ws := toWords bs
  match e with
  | 0x110002 => lcRequest s who bs
  | 0x110007 => debugToken s who bs
  | 0x11000E => signedWrite s who bs
  | 0x110010 => confCommand s who bs
  | 0x500009 => inject s who (wordAt ws 0) (wordAt ws 1)
  | 0x600007 => dumpConfigWrite s who (wordAt ws 0) (wordAt ws 1)
  | _ => setCells s e 0 0 ws
/-- Is a BLOB's length fixed: all but the signed requests? -/
def blobFixed (e : Nat) : Bool := !([0x110002, 0x110007, 0x11000E, 0x110010].contains e)

/-- The staging of a BLOB by a requester (R584). -/
def stagingOf (s : State) (who : Req) (e : Nat) : Option Staging :=
  s.server.stagings.find? (fun x => decide (x.who = who) && decide (x.entry = e))
/-- Drop a requester's staging of an entry. -/
def dropStaging (s : State) (who : Req) (e : Nat) : State :=
  { s with server := { s.server with stagings := s.server.stagings.filter (fun x => decide (x.who ≠ who) || decide (x.entry ≠ e)) } }
/-- A segment of a BLOB write: it continues its staging, or is refused with BUSY; FINAL puts the whole into effect (R584). -/
def blobSegment (s : State) (who : Req) (x : Entry) (off : Nat) (bs : List Byte) (final : Bool) : State :=
  let e := x.key
  let mine := (stagingOf s who e).map (fun y => y.bytes)
  let all := mine.getD [] ++ bs
  let others := s.server.stagings.any (fun y => decide (y.who ≠ who) && decide (y.entry = e))
  let sizeBad := decide (x.size < off + bs.length) || (final && blobFixed e && decide (off + bs.length ≠ x.size))
  let busy := others || decide (off ≠ (mine.getD []).length)
  let code := firstCode [if sizeBad then 8 else 0, if dictClosed s who e then 10 else 0, if busy then 11 else 0,
    if final && !busy then (blobWrite s who e all).answer.status else 0]
  if code ≠ 0 then result s code
  else
    let s := dropStaging (wakeUp s) who e
    if final then blobWrite s who e all
    else
      let y : Staging := { who := who, entry := e, bytes := all, time := wick s }
      result { s with server := { s.server with stagings := s.server.stagings ++ [y] } } 0

/-! ### The operations (R576 to R589) -/

/-- The answer to an operation on the factory range, of which the spec describes no entry (R597): a free result code, and with
OK the `n` free bytes. What such a write does beyond its answer the spec does not say; here nothing (log 127). -/
def factoryAnswer (s : State) (n : Nat) : State :=
  let r := takeFree s
  let code := r.1.toNat % 13
  let d := freeBytes (if code = 0 then n else 0) r.2
  reply d.2 d.1 false code

/-- The bytes of rows `first` on, with zeros for rows the requester may not see, and FLAGS: 4 PENDING, 8 HIDDEN. -/
def readRows (s : State) (who : Req) (x : Entry) (first count : Nat) : List Byte × Nat :=
  let rows := (List.range count).map (fun i => first + i)
  let row (r : Nat) := if seesRow s who x.key r then viewBytes s who x r else List.replicate x.size 0
  let shown := rows.filter (seesRow s who x.key)
  (rows.flatMap row, b1 (shown.any (rowPending s x)) * 4 + b1 (decide (shown.length ≠ count)) * 8)

/-- The result of a READ apart from its size: NO_ENTRY, NOT_PERMITTED, ACCESS. -/
def readCode (s : State) (who : Req) (e : Nat) (x : Option Entry) : Nat :=
  match x with
  | none => 3
  | some x =>
    let barred := match who with | .vf _ => !vfReads e | _ => false
    if barred then 4 else if x.access = 2 then 6 else if readClosed s e then 10 else 0

/-- READ: result, data, FLAGS. At most `limit` bytes fit a response; a BLOB is read from FIRST as far as they reach. -/
def readOp (s : State) (who : Req) (limit : Nat) (m : SdpMsg) : Nat × List Byte × Nat :=
  let e := m.index * 256 + m.sub
  let found := findEntry? e
  let code := readCode s who e found
  match found with
  | none => (code, [], 0)
  | some x =>
    let sizeBad :=
      if x.type = 8 then m.count = 0 || decide (x.rows < m.first + m.count) || decide (limit < m.count * x.size)
      else if x.type = 7 then decide (m.count ≠ 0) || decide (x.size ≤ m.first)
      else decide (m.count ≠ 0) || decide (m.first ≠ 0)
    let code := firstCode [code, if sizeBad then 8 else 0]
    if code ≠ 0 then (code, [], 0)
    else if x.type = 8 then
      let r := readRows s who x m.first m.count
      (0, r.1, r.2)
    else
      let bs := viewBytes s who x 0
      (0, if x.type = 7 then (bs.drop m.first).take limit else bs, b1 (rowPending s x 0) * 4)
/-- Give a READ's answer; the readings it took are used up. -/
def answerRead (s : State) (r : Nat × List Byte × Nat) : State :=
  let s := { s with free := s.free + 64 }
  { s with answer := { data := r.2.1, poison := false, status := r.1, flags := r.2.2 } }

/-- The result of a write before its values are looked at: NOT_PERMITTED, SECURE, ACCESS, SIGNED. `secure` says that it
arrived as R594 requires. -/
def writeCode (s : State) (who : Req) (x : Entry) (rows : List (Nat × List Word)) (secure : Bool) : Nat :=
  if !mayWrite s who x.key rows then 4
  else if !secure then 5
  else if x.access = 0 then 6
  else if x.access = 3 ∧ rwsPlain s = false then 7
  else 0

/-- WRITE: the answer holds the result. -/
def writeOp (s : State) (who : Req) (secure : Bool) (m : SdpMsg) : State :=
  let e := m.index * 256 + m.sub
  let final := decide (m.flags / 2 % 2 = 1)
  match findEntry? e with
  | none => result s 3
  | some x =>
    let n := m.data.length
    let count := if x.type = 8 then m.count else 1
    let first := if x.type = 8 then m.first else 0
    let rows := (chunksOf x.size n m.data).zipIdx.map (fun p => (first + p.2, toWords p.1))
    let code := writeCode s who x rows secure
    if x.type ≠ 7 ∧ final = false then result s 1
    else if code ≠ 0 then result s code
    else if x.type = 7 then (if m.count ≠ 0 then result s 8 else blobSegment s who x m.first m.data final)
    else if count = 0 ∨ n ≠ count * x.size ∨ x.rows < first + count ∨ (x.type ≠ 8 ∧ (m.count ≠ 0 ∨ m.first ≠ 0)) then result s 8
    else if x.type = 5 ∧ rows.any (fun r => decide (1 < (wordAt r.2 0).toNat)) = true then result s 9
    else writeRows s who e (rows.map (fun r => (r.1, r.2, true)))

/-- DESCRIBE: result and data (R576, R581). -/
def describeOp (m : SdpMsg) : Nat × List Byte :=
  if m.sub = 0 then
    match lastSub m.index with
    | some k => (0, describeBytes { key := m.index * 256, type := 0xFF, access := 0, change := 0, size := 0, rows := k })
    | none => (3, [])
  else
    match findEntry? (m.index * 256 + m.sub) with
    | some x => (0, describeBytes x)
    | none => (3, [])

/-- Is a request's header sound (R580, R593): only FINAL in FLAGS, no result, reserved 0, LENGTH the data's, data only in a
WRITE, within the limit? -/
def requestOk (op limit : Nat) (m : SdpMsg) : Bool :=
  decide (m.flags % 2 = 0) && decide (m.flags / 4 = 0) && decide (m.result = 0) && decide (m.reserved = 0) && decide (m.length = m.data.length)
    && decide (m.length ≤ limit) && (decide (op = 4) || m.data.isEmpty) && (decide (op ≠ 1) || decide (m.session = 0))
    && decide (1 ≤ op ∧ op ≤ 6)

/-- Perform a READ. Of every `perform…`: `secure` says that the request arrived as R594 asks of a WRITE, `limit` is the most
that a response holds. -/
def performRead (who : Req) (m : SdpMsg) (_secure : Bool) (limit : Nat) (s : State) : State :=
  if factoryOpen s m.index then factoryAnswer s ((Config.freeValue s.free).toNat / 16 % (limit + 1)) else answerRead s (readOp s who limit m)
/-- Perform a WRITE. -/
def performWrite (who : Req) (m : SdpMsg) (secure : Bool) (_limit : Nat) (s : State) : State :=
  if factoryOpen s m.index then factoryAnswer s 0 else writeOp s who secure m
/-- Perform a DESCRIBE. -/
def performDescribe (m : SdpMsg) (_secure : Bool) (_limit : Nat) (s : State) : State :=
  let r := describeOp m
  if factoryOpen s m.index then factoryAnswer s 16 else reply s r.2 false r.1
/-- Perform an operation that only answers. -/
def performNop (_secure : Bool) (_limit : Nat) (s : State) : State := result s 0
/-- Perform the operation of a code; the codes that are no READ, WRITE or DESCRIBE do nothing here. -/
def performOp (who : Req) (op : Nat) (m : SdpMsg) (secure : Bool) (limit : Nat) (s : State) : State :=
  match op with
  | 3 => performRead who m secure limit s
  | 4 => performWrite who m secure limit s
  | 5 => performDescribe m secure limit s
  | _ => performNop secure limit s

/-! ### SDP sessions (R592 to R594) -/

/-- Has a session gone without a request for SESSION_TIMEOUT_S? -/
def sessionOver (s : State) (x : Session) : Bool := decide (x.time + 1000000000 * regN s 0x120005 0 ≤ wick s)
/-- The open session of a number. -/
def sessionOf (s : State) (n : Nat) : Option Session :=
  s.server.sessions.find? (fun x => decide (x.num = n) && !sessionOver s x)
/-- Change the sessions. -/
def modSessions (s : State) (f : List Session → List Session) : State :=
  { s with server := { s.server with sessions := f s.server.sessions } }
/-- Count in SDP_COUNTERS. -/
def countSdp (s : State) (row : Nat) : State := bump s 0x120007 row
/-- Answer an SDP request with a refusal, counted. -/
def sdpRefuse (s : State) (code : Nat) : State := countSdp (result s code) 3
/-- Count a refusal where the answer is one. -/
def countRefusal (s : State) : State := if s.answer.status = 0 then s else countSdp s 3
/-- Does a WRITE in a session keep R594: over UDP only while neither MGMT_SECURE nor confidential mode asks for more? -/
def sessionSecure (s : State) (x : Session) : Bool :=
  (regN s 0x120008 0 = 0 && !s.keeper.conf) || (x.mctp && x.secured)

/-- The last request of a session again: its stored response (R592). -/
def resend (s : State) (x : Session) : State :=
  let s := modSessions (countSdp s 1) (fun l => l.map (fun y => if y.num = x.num then { y with time := wick s } else y))
  { s with answer := x.last.getD Answer.none }
/-- A request in a session: checked, performed once, its response stored (R592). -/
def sdpRequest (s : State) (op : Nat) (m : SdpMsg) (perform : Bool → Nat → State → State) : State :=
  let s := countSdp s 0
  if !requestOk op 1408 m then sdpRefuse s 1
  else
    match sessionOf s m.session with
    | none => sdpRefuse s 2
    | some x =>
      if m.seq = x.seq ∧ x.last.isSome = true then resend s x
      else if m.seq ≠ x.seq + 1 then sdpRefuse s 2
      else
        let s := countRefusal (perform (sessionSecure s x) 1408 s)
        if op = 2 then modSessions s (fun l => l.filter (fun y => decide (y.num ≠ x.num)))
        else
          modSessions s (fun l => l.map (fun y => if y.num = x.num then { y with seq := m.seq, time := wick s, last := some s.answer } else y))

/-- SESSION_OPEN: a new session, or BUSY at eight (R592). A session opened over MCTP inside a secured SPDM session is
secured (R594). -/
def sessionOpen (s : State) (mctp : Bool) (peer : Nat) (m : SdpMsg) : State :=
  let s := countSdp s 0
  if !requestOk 1 1408 m then sdpRefuse s 1
  else
    let s := modSessions s (fun l => l.filter (fun x => !sessionOver s x))
    if 8 ≤ s.server.sessions.length then sdpRefuse s 11
    else
      let n := s.server.nextSession
      let x : Session := { num := n, mctp := mctp, secured := mctp && s.keeper.sessions.contains .mgmt, seq := 0, peer := peer,
                           time := wick s, last := none }
      let next := if n + 1 < 2 ^ 32 then n + 1 else 1
      let s := { s with server := { s.server with sessions := s.server.sessions ++ [x], nextSession := next } }
      { s with answer := { data := [], poison := false, status := 0, session := n } }

/-- An operation as it arrives: in an SDP session from the management port; through a function's mailbox in WICK_ONLY not at
all (R589). -/
def dictRequest (s : State) (who : Req) (op : Nat) (m : SdpMsg) (perform : Bool → Nat → State → State) : State :=
  match who with
  | .mgmt => sdpRequest s op m perform
  | _ =>
    if wickOnly s then s
    else if !requestOk op 65536 { m with session := 0 } then result s 1
    else perform true 65536 s

/-- SESSION_OPEN. -/
def execSessionOpen (mctp : Bool) (peer : Nat) (m : SdpMsg) (s : State) : Host.Outcome State Fault Refusal :=
  .next (sessionOpen s mctp peer m)
/-- SESSION_CLOSE. -/
def execSessionClose (m : SdpMsg) (s : State) : Host.Outcome State Fault Refusal := .next (sdpRequest s 2 m performNop)
/-- READ. -/
def execRead (who : Req) (m : SdpMsg) (s : State) : Host.Outcome State Fault Refusal :=
  .next (dictRequest s who 3 m (performRead who m))
/-- WRITE. -/
def execWrite (who : Req) (m : SdpMsg) (s : State) : Host.Outcome State Fault Refusal :=
  .next (dictRequest s who 4 m (performWrite who m))
/-- DESCRIBE. -/
def execDescribe (who : Req) (m : SdpMsg) (s : State) : Host.Outcome State Fault Refusal :=
  .next (dictRequest s who 5 m (performDescribe m))
/-- NOP keeps a session alive. -/
def execNop (who : Req) (m : SdpMsg) (s : State) : Host.Outcome State Fault Refusal := .next (dictRequest s who 6 m performNop)

/-- SDP_MESSAGE_DROP: wrong MAGIC, VERSION or CRC; no response (R593). -/
def execSdpMessageDrop (s : State) : Host.Outcome State Fault Refusal := .next (countSdp s 2)
/-- SEQ_REPEAT: the request with the last SEQ is answered as before (R592). -/
def seqRepeat (s : State) (n : Nat) : State :=
  match sessionOf s n with
  | some x => if x.last.isSome then resend (countSdp s 0) x else s
  | none => s
/-- SEQ_REPEAT. -/
def execSeqRepeat (session : Nat) (s : State) : Host.Outcome State Fault Refusal := .next (seqRepeat s session)
/-- SESSION_TIMEOUT: the session ends when its time is over (R592). -/
def execSessionTimeout (session : Nat) (s : State) : Host.Outcome State Fault Refusal :=
  .next (modSessions s (fun l => l.filter (fun x => decide (x.num ≠ session) || !sessionOver s x)))
/-- BLOB_STAGING_TIMEOUT: stagings of an entry left for 10 s are discarded and counted (R584). -/
def blobStagingTimeout (s : State) (e : Nat) : State :=
  let old := fun x : Staging => decide (x.entry = e) && decide (x.time + 10000000000 ≤ wick s)
  let n := (s.server.stagings.filter old).length
  addCell { s with server := { s.server with stagings := s.server.stagings.filter (fun x => !old x) } } 0x120007 4 0 n
/-- BLOB_STAGING_TIMEOUT. -/
def execBlobStagingTimeout (index sub : Nat) (s : State) : Host.Outcome State Fault Refusal :=
  .next (blobStagingTimeout s (index * 256 + sub))

/-! ### The BAR0 window (R590, R591) -/

/-- A function's mailbox as it starts. -/
def mailboxFree : Mailbox := { control := 0, request := none, answer := Answer.none, select := 0, apResult := 0 }
/-- A function's mailbox. -/
def mailbox (s : State) (who : Req) : Mailbox := (tget s.server.mailboxes (reqIndex who)).getD mailboxFree
/-- Write a function's mailbox. -/
def setMailbox (s : State) (who : Req) (x : Mailbox) : State :=
  { s with server := { s.server with mailboxes := tput s.server.mailboxes (reqIndex who) x } }

/-- GO: the request in MB_REQUEST and MB_DATA is performed, the response stands in MB_RESPONSE and MB_DATA, STATE is DONE. A
GO while BUSY is dropped and counted. The management port has no mailbox. -/
def mailboxGo (s : State) (who : Req) (magicOk : Bool) (op : Nat) (m : SdpMsg) : State :=
  let box := mailbox s who
  if who = .mgmt ∨ wickOnly s = true then s
  else if box.control = 1 then countSdp s 5
  else
    let s := if magicOk then dictRequest s who op m (performOp who op m) else result s 1
    setMailbox s who { box with control := 2, request := some m, answer := s.answer }
/-- MB_CONTROL_GO. -/
def execMbControlGo (who : Req) (magicOk : Bool) (op : Nat) (m : SdpMsg) (s : State) : Host.Outcome State Fault Refusal :=
  .next (mailboxGo s who magicOk op m)

/-- Does the aperture reach an entry: a TABLE or BLOB of at most 16 MiB? -/
def apertureEntry (x : Entry) : Bool := (x.type = 7 || x.type = 8) && decide (x.size * x.rows ≤ 2 ^ 24)
/-- The bytes `off` to `off + n` of an entry with rows end to end, as the requester reads them. -/
def apertureBytes (s : State) (who : Req) (x : Entry) (off n : Nat) : List Byte :=
  let r0 := off / x.size
  let r1 := (off + n - 1) / x.size
  ((readRows s who x r0 (r1 + 1 - r0)).1.drop (off - r0 * x.size)).take n
/-- The rows that an aperture write leaves: number, words, whether the first word is reached. -/
def apertureRows (s : State) (x : Entry) (off : Nat) (bs : List Byte) : List (Nat × List Word × Bool) :=
  let r0 := off / x.size
  let r1 := (off + bs.length - 1) / x.size
  (List.range (r1 + 1 - r0)).map (fun i =>
    let r := r0 + i
    let old := (wordBytes (writtenWords s x r)).take x.size
    let new := old.zipIdx.map (fun p =>
      let k := r * x.size + p.2
      if off ≤ k ∧ k < off + bs.length then bs.getD (k - off) 0 else p.1)
    (r, toWords new, decide (off < r * x.size + 8)))
/-- A write through the aperture; the answer holds the result. -/
def apertureWrite (s : State) (who : Req) (x : Entry) (off : Nat) (bs : List Byte) : State :=
  let rows := apertureRows s x off bs
  let code := writeCode s who x (rows.map (fun r => (r.1, r.2.1))) true
  if code ≠ 0 then result s code
  else if x.size * x.rows < off + bs.length then result s 8
  else if x.type = 7 then blobSegment s who x off bs (decide (off + bs.length = x.size))
  else writeRows s who x.key rows

/-- Is an aperture access of a kind that the window accepts: 4 or 8 bytes, aligned, inside it (R590)? -/
def apertureOkAccess (off len : Nat) : Bool := (len = 4 || len = 8) && decide (off % len = 0) && decide (off + len ≤ 2 ^ 24)
/-- APERTURE_ACCESS: a read or write of the entry that AP_SELECT names; AP_RESULT shows the last write's result and counts
the refused ones. A refused read returns 0. -/
def apertureAccess (s : State) (who : Req) (select : Word) (off : Nat) (write : Option Word) (len : Nat) : State :=
  if who = .mgmt ∨ wickOnly s = true then s
  else if !apertureOkAccess off len then barAccessDrop s who 0 (0x1000000 + off) len write.isNone
  else
    let e := fld select 23 0
    let box := { mailbox s who with select := wd e }
    let found := findEntry? e
    match write with
    | none =>
      let code := firstCode [readCode s who e found,
        match found with | some x => (if apertureEntry x && decide (off + len ≤ x.size * x.rows) then 0 else 8) | none => 0]
      let s := setMailbox s who box
      match found, code with
      | some x, 0 => answerRead s (0, apertureBytes s who x off len, 0)
      | _, _ => if factoryOpen s (fld select 23 8) then factoryAnswer s len else reply s (leBytes len 0) false code
    | some v =>
      let bs := (leBytes 8 v.toNat).take len
      let s := match found with
        | none => if factoryOpen s (fld select 23 8) then factoryAnswer s 0 else result s 3
        | some x =>
          if apertureEntry x then apertureWrite s who x off bs
          else result s (firstCode [writeCode s who x [] true, 8])
      let code := s.answer.status
      let refused := fld box.apResult 63 32 + b1 (decide (code ≠ 0))
      setMailbox s who { box with apResult := wd (code % 256 + refused % 2 ^ 32 * 2 ^ 32) }
/-- APERTURE_ACCESS. -/
def execApertureAccess (who : Req) (select : Word) (off : Nat) (write : Option Word) (len : Nat) (s : State) :
    Host.Outcome State Fault Refusal :=
  .next (apertureAccess s who select off write len)

/-! ### The management port (R594, R595) -/

/-- SET_ENDPOINT_ID: the endpoint ID is taken. -/
def execSetEndpointId (eid : Nat) (s : State) : Host.Outcome State Fault Refusal :=
  .next (result { s with server := { s.server with eid := eid % 256 } } 0)
/-- NEIGHBOUR_DISCOVERY: the port answers for its own addresses with its MAC. -/
def neighbourDiscovery (s : State) (target : Nat) : State :=
  let own := leNat linkLocal = target || (leNat (globalBytes s) ≠ 0 && leNat (globalBytes s) = target)
  if own then reply s macBytes false 0 else s
/-- NEIGHBOUR_DISCOVERY. -/
def execNeighbourDiscovery (target : Nat) (s : State) : Host.Outcome State Fault Refusal := .next (neighbourDiscovery s target)
/-- ICMPV6_ECHO: the port answers with the same payload. -/
def execIcmpv6Echo (payload : List Byte) (s : State) : Host.Outcome State Fault Refusal := .next (reply s payload false 0)

/-! ### Any other entry -/

/-- REGISTER_WRITE: the write of an entry, row or whole value, by its own rules and change class (R11). A BLOB takes its bytes
whole. -/
def registerWrite (s : State) (who : Req) (index sub row : Nat) (ws : List Word) : State :=
  let e := index * 256 + sub
  match findEntry? e with
  | none => if factoryOpen s index then factoryAnswer s 0 else result s 3
  | some x =>
    let whole := padTo (8 * ((x.size + 7) / 8)) (wordBytes ws)
    let code := writeCode s who x [(row, ws)] true
    if code ≠ 0 then result s code
    else if x.rows ≤ row then result s 8
    else if x.type = 7 then blobSegment s who x 0 (if blobFixed e then whole.take x.size else wordBytes ws) true
    else if x.type = 5 ∧ 1 < (wordAt ws 0).toNat then result s 9
    else writeRows s who e [(row, toWords (whole.take x.size), true)]
/-- REGISTER_WRITE. -/
def execRegisterWrite (who : Req) (index sub row : Nat) (ws : List Word) (s : State) : Host.Outcome State Fault Refusal :=
  .next (registerWrite s who index sub row ws)

end Sys2Proof.Machine
end

