-- ==== Sys2Proof/Machine/Dispatch.lean ====
section
/-! DEFINITION. The dispatch: one arm per command, each a call of its meaning. -/

namespace Sys2Proof.Machine

/-- The effect of a command on everything but the queue of waiting commands. -/
def exec (i : Instr) (s : State) : Host.Outcome State Fault Refusal :=
  match i with
  | .quarterStoreRead q off len => Sys2Proof.Machine.execQuarterStoreRead q off len s
  | .mergeWindowExpire q line => Sys2Proof.Machine.execMergeWindowExpire q line s
  | .quarterStoreWrite q off data poison => Sys2Proof.Machine.execQuarterStoreWrite q off data poison s
  | .pllStop q => Sys2Proof.Machine.execPllStop q s
  | .pllLock q => Sys2Proof.Machine.execPllLock q s
  | .lanternWakeDone l => Sys2Proof.Machine.execLanternWakeDone l s
  | .lanternGate l => Sys2Proof.Machine.execLanternGate l s
  | .stitch queue entry => Sys2Proof.Machine.execStitch queue entry s
  | .stitchChoose hoop => Sys2Proof.Machine.execStitchChoose hoop s
  | .strandStart l => Sys2Proof.Machine.execStrandStart l s
  | .load l => Sys2Proof.Machine.execLoad l s
  | .store l => Sys2Proof.Machine.execStore l s
  | .mma l => Sys2Proof.Machine.execMma l s
  | .transpose l => Sys2Proof.Machine.execTranspose l s
  | .convert l => Sys2Proof.Machine.execConvert l s
  | .bcastAdd l => Sys2Proof.Machine.execBcastAdd l s
  | .zero l => Sys2Proof.Machine.execZero l s
  | .alloc l => Sys2Proof.Machine.execAlloc l s
  | .wait l => Sys2Proof.Machine.execWait l s
  | .signal l => Sys2Proof.Machine.execSignal l s
  | .inval l => Sys2Proof.Machine.execInval l s
  | .chain l => Sys2Proof.Machine.execChain l s
  | .tileOpComplete l op => Sys2Proof.Machine.execTileOpComplete l op s
  | .strandComplete l => Sys2Proof.Machine.execStrandComplete l s
  | .stitchStop queue entry => Sys2Proof.Machine.execStitchStop queue entry s
  | .xwait l c rd rs1 rs2 tryFlag => Sys2Proof.Machine.execXwait l c rd rs1 rs2 tryFlag s
  | .xsignal l c rs1 rs2 error => Sys2Proof.Machine.execXsignal l c rs1 rs2 error s
  | .xfread l c rd rs1 => Sys2Proof.Machine.execXfread l c rd rs1 s
  | .xtile l c rd rs1 => Sys2Proof.Machine.execXtile l c rd rs1 s
  | .xtsync l c rd rs1 => Sys2Proof.Machine.execXtsync l c rd rs1 s
  | .xpicot l c rs1 rs2 => Sys2Proof.Machine.execXpicot l c rs1 rs2 s
  | .xcinv l c rs1 rs2 allCores => Sys2Proof.Machine.execXcinv l c rs1 rs2 allCores s
  | .xdrain l c => Sys2Proof.Machine.execXdrain l c s
  | .xalloc l c rd rs1 rs2 soft => Sys2Proof.Machine.execXalloc l c rd rs1 rs2 soft s
  | .xfree l c rs1 => Sys2Proof.Machine.execXfree l c rs1 s
  | .xexit l c rs1 => Sys2Proof.Machine.execXexit l c rs1 s
  | .cboInval l c rs1 => Sys2Proof.Machine.execCboInval l c rs1 s
  | .cboClean l c rs1 => Sys2Proof.Machine.execCboClean l c rs1 s
  | .cboFlush l c rs1 => Sys2Proof.Machine.execCboFlush l c rs1 s
  | .cboZero l c rs1 => Sys2Proof.Machine.execCboZero l c rs1 s
  | .amo l c op double aq rl rd rs1 rs2 => Sys2Proof.Machine.execAmo l c op double aq rl rd rs1 rs2 s
  | .lr l c double aq rl rd rs1 => Sys2Proof.Machine.execLr l c double aq rl rd rs1 s
  | .sc l c double aq rl rd rs1 rs2 => Sys2Proof.Machine.execSc l c double aq rl rd rs1 rs2 s
  | .wrsStoTimeout l c => Sys2Proof.Machine.execWrsStoTimeout l c s
  | .coreException l c cause tval => Sys2Proof.Machine.execCoreException l c cause tval s
  | .dmaOpStart l => Sys2Proof.Machine.execDmaOpStart l s
  | .dmaOpComplete l core ticket => Sys2Proof.Machine.execDmaOpComplete l core ticket s
  | .slotOpen queue entry => Sys2Proof.Machine.execSlotOpen queue entry s
  | .slotClose queue entry => Sys2Proof.Machine.execSlotClose queue entry s
  | .cseRequestStart slot => Sys2Proof.Machine.execCseRequestStart slot s
  | .csePassStart slot => Sys2Proof.Machine.execCsePassStart slot s
  | .csePassEnd slot => Sys2Proof.Machine.execCsePassEnd slot s
  | .query slot word => Sys2Proof.Machine.execQuery slot word s
  | .partialMsg slot word => Sys2Proof.Machine.execPartialMsg slot word s
  | .max slot word => Sys2Proof.Machine.execMax slot word s
  | .gmax slot word => Sys2Proof.Machine.execGmax slot word s
  | .credit slot word => Sys2Proof.Machine.execCredit slot word s
  | .fail slot word => Sys2Proof.Machine.execFail slot word s
  | .mailboxAccessDrop q => Sys2Proof.Machine.execMailboxAccessDrop q s
  | .ringTimeout slot => Sys2Proof.Machine.execRingTimeout slot s
  | .bobbinRead b off len => Sys2Proof.Machine.execBobbinRead b off len s
  | .bobbinWrite b off data poison => Sys2Proof.Machine.execBobbinWrite b off data poison s
  | .partialBlockMerge b => Sys2Proof.Machine.execPartialBlockMerge b s
  | .linkCrcError link resends => Sys2Proof.Machine.execLinkCrcError link resends s
  | .move queue entry => Sys2Proof.Machine.execMove queue entry s
  | .moverDispatch q => Sys2Proof.Machine.execMoverDispatch q s
  | .copy q m => Sys2Proof.Machine.execCopy q m s
  | .gather q m => Sys2Proof.Machine.execGather q m s
  | .scatter q m => Sys2Proof.Machine.execScatter q m s
  | .fill q m => Sys2Proof.Machine.execFill q m s
  | .moverDescriptorComplete q m => Sys2Proof.Machine.execMoverDescriptorComplete q m s
  | .scratchpadWindowAccess who l off write len => Sys2Proof.Machine.execScratchpadWindowAccess who l off write len s
  | .rangeCommit who row w0 => Sys2Proof.Machine.execRangeCommit who row w0 s
  | .walkComplete n => Sys2Proof.Machine.execWalkComplete n s
  | .faultRecordWrite hoop => Sys2Proof.Machine.execFaultRecordWrite hoop s
  | .faultRecordTimeout hoop => Sys2Proof.Machine.execFaultRecordTimeout hoop s
  | .frHeadWrite who hoop v => Sys2Proof.Machine.execFrHeadWrite who hoop v s
  | .frConfigWrite who hoop w0 w1 => Sys2Proof.Machine.execFrConfigWrite who hoop w0 w1 s
  | .hotWriteBack hoop => Sys2Proof.Machine.execHotWriteBack hoop s
  | .invalEntry who w => Sys2Proof.Machine.execInvalEntry who w s
  | .invalAspace who w => Sys2Proof.Machine.execInvalAspace who w s
  | .invalHoop who w => Sys2Proof.Machine.execInvalHoop who w s
  | .replay who w => Sys2Proof.Machine.execReplay who w s
  | .invalComplete hoop => Sys2Proof.Machine.execInvalComplete hoop s
  | .hoopCreate who w => Sys2Proof.Machine.execHoopCreate who w s
  | .hoopRebind who w => Sys2Proof.Machine.execHoopRebind who w s
  | .rebindApply hoop => Sys2Proof.Machine.execRebindApply hoop s
  | .hoopDestroy who w => Sys2Proof.Machine.execHoopDestroy who w s
  | .destroyDone hoop => Sys2Proof.Machine.execDestroyDone hoop s
  | .hoopCancel who w => Sys2Proof.Machine.execHoopCancel who w s
  | .unitScrubDone b => Sys2Proof.Machine.execUnitScrubDone b s
  | .retiredLanternRemove hoop => Sys2Proof.Machine.execRetiredLanternRemove hoop s
  | .nodeIdWrite who v => Sys2Proof.Machine.execNodeIdWrite who v s
  | .epochStage who w => Sys2Proof.Machine.execEpochStage who w s
  | .epochOpen who w => Sys2Proof.Machine.execEpochOpen who w s
  | .epochCommit who w => Sys2Proof.Machine.execEpochCommit who w s
  | .epochAbandon who w => Sys2Proof.Machine.execEpochAbandon who w s
  | .remoteTimeout node => Sys2Proof.Machine.execRemoteTimeout node s
  | .markLost who v => Sys2Proof.Machine.execMarkLost who v s
  | .elpRead eye => Sys2Proof.Machine.execElpRead eye s
  | .elpWrite eye => Sys2Proof.Machine.execElpWrite eye s
  | .elpPicot eye => Sys2Proof.Machine.execElpPicot eye s
  | .elpFence eye => Sys2Proof.Machine.execElpFence eye s
  | .elpReadData eye => Sys2Proof.Machine.execElpReadData eye s
  | .elpAck eye => Sys2Proof.Machine.execElpAck eye s
  | .flitData eye flit => Sys2Proof.Machine.execFlitData eye flit s
  | .flitIdle eye flit => Sys2Proof.Machine.execFlitIdle eye flit s
  | .flitNak eye flit => Sys2Proof.Machine.execFlitNak eye flit s
  | .ctrlHello eye version node nodeValid window reqCredits rspCredits => Sys2Proof.Machine.execCtrlHello eye version node nodeValid window reqCredits rspCredits s
  | .ctrlSpareRequest eye lane => Sys2Proof.Machine.execCtrlSpareRequest eye lane s
  | .ctrlSpareSwitch eye boundary => Sys2Proof.Machine.execCtrlSpareSwitch eye boundary s
  | .laneFailing eye lane => Sys2Proof.Machine.execLaneFailing eye lane s
  | .spareTrained eye => Sys2Proof.Machine.execSpareTrained eye s
  | .retrainTimeout eye => Sys2Proof.Machine.execRetrainTimeout eye s
  | .eyeletEnable who eye w => Sys2Proof.Machine.execEyeletEnable who eye w s
  | .eyeletTrained eye fecLock => Sys2Proof.Machine.execEyeletTrained eye fecLock s
  | .collective queue entry => Sys2Proof.Machine.execCollective queue entry s
  | .allReduce q m => Sys2Proof.Machine.execAllReduce q m s
  | .reduceScatter q m => Sys2Proof.Machine.execReduceScatter q m s
  | .allGather q m => Sys2Proof.Machine.execAllGather q m s
  | .collectiveInFlag q m => Sys2Proof.Machine.execCollectiveInFlag q m s
  | .collectiveFreeFlag q m => Sys2Proof.Machine.execCollectiveFreeFlag q m s
  | .collectiveAbortFlag q m fromUp => Sys2Proof.Machine.execCollectiveAbortFlag q m fromUp s
  | .collectiveTimeout q m => Sys2Proof.Machine.execCollectiveTimeout q m s
  | .flrVf n => Sys2Proof.Machine.execFlrVf n s
  | .flrPf port => Sys2Proof.Machine.execFlrPf port s
  | .perst port => Sys2Proof.Machine.execPerst port s
  | .perstRelease port => Sys2Proof.Machine.execPerstRelease port s
  | .cxlMemRead port dec dpa len => Sys2Proof.Machine.execCxlMemRead port dec dpa len s
  | .cxlMemWrite port dec dpa data => Sys2Proof.Machine.execCxlMemWrite port dec dpa data s
  | .bar4Read who off len => Sys2Proof.Machine.execBar4Read who off len s
  | .bar4Write who off data => Sys2Proof.Machine.execBar4Write who off data s
  | .fenceWindowRead who fence => Sys2Proof.Machine.execFenceWindowRead who fence s
  | .queueCreate who w => Sys2Proof.Machine.execQueueCreate who w s
  | .destroyDrain who w => Sys2Proof.Machine.execDestroyDrain who w s
  | .destroyAbort who w => Sys2Proof.Machine.execDestroyAbort who w s
  | .queueDestroyDone queue => Sys2Proof.Machine.execQueueDestroyDone queue s
  | .queueResume who w => Sys2Proof.Machine.execQueueResume who w s
  | .sqTailWrite who queue v => Sys2Proof.Machine.execSqTailWrite who queue v s
  | .cqHeadWrite who queue v => Sys2Proof.Machine.execCqHeadWrite who queue v s
  | .entryRead queue => Sys2Proof.Machine.execEntryRead queue s
  | .entryAdmit queue => Sys2Proof.Machine.execEntryAdmit queue s
  | .seam queue entry => Sys2Proof.Machine.execSeam queue entry s
  | .fence queue entry => Sys2Proof.Machine.execFence queue entry s
  | .imageLoad queue entry => Sys2Proof.Machine.execImageLoad queue entry s
  | .imageLoadDone queue entry => Sys2Proof.Machine.execImageLoadDone queue entry s
  | .imageUnload queue entry => Sys2Proof.Machine.execImageUnload queue entry s
  | .completionRecordWrite queue => Sys2Proof.Machine.execCompletionRecordWrite queue s
  | .confirmingReadDone what ok => Sys2Proof.Machine.execConfirmingReadDone what ok s
  | .hostReadError eng access => Sys2Proof.Machine.execHostReadError eng access s
  | .contextCreate who w => Sys2Proof.Machine.execContextCreate who w s
  | .contextTeardown who w => Sys2Proof.Machine.execContextTeardown who w s
  | .teardownDone ctx => Sys2Proof.Machine.execTeardownDone ctx s
  | .fenceAlloc who w => Sys2Proof.Machine.execFenceAlloc who w s
  | .fenceFree who w => Sys2Proof.Machine.execFenceFree who w s
  | .fenceReset who w => Sys2Proof.Machine.execFenceReset who w s
  | .fenceSignal fence value error via => Sys2Proof.Machine.execFenceSignal fence value error via s
  | .objectCreate who w => Sys2Proof.Machine.execObjectCreate who w s
  | .objectRef who w => Sys2Proof.Machine.execObjectRef who w s
  | .objectUnref who w => Sys2Proof.Machine.execObjectUnref who w s
  | .heapConfigWrite who hoop w0 w1 w2 w3 => Sys2Proof.Machine.execHeapConfigWrite who hoop w0 w1 w2 w3 s
  | .contextStuck ctx => Sys2Proof.Machine.execContextStuck ctx s
  | .swapOut ctx => Sys2Proof.Machine.execSwapOut ctx s
  | .swapIn ctx => Sys2Proof.Machine.execSwapIn ctx s
  | .swapAreaWrite who hoop w0 w1 => Sys2Proof.Machine.execSwapAreaWrite who hoop w0 w1 s
  | .samplerControlWrite who hoop w0 w1 => Sys2Proof.Machine.execSamplerControlWrite who hoop w0 w1 s
  | .samplerPeriod hoop => Sys2Proof.Machine.execSamplerPeriod hoop s
  | .samplerSlot hoop => Sys2Proof.Machine.execSamplerSlot hoop s
  | .portServe port => Sys2Proof.Machine.execPortServe port s
  | .powerReqActive who => Sys2Proof.Machine.execPowerReqActive who s
  | .powerReqDrowse who => Sys2Proof.Machine.execPowerReqDrowse who s
  | .powerReqWickOnly who => Sys2Proof.Machine.execPowerReqWickOnly who s
  | .opStepDone q => Sys2Proof.Machine.execOpStepDone q s
  | .railSample currents => Sys2Proof.Machine.execRailSample currents s
  | .activityInterval activity => Sys2Proof.Machine.execActivityInterval activity s
  | .capStep draw => Sys2Proof.Machine.execCapStep draw s
  | .sensorRead temps => Sys2Proof.Machine.execSensorRead temps s
  | .thermalStep q => Sys2Proof.Machine.execThermalStep q s
  | .stackTempRead temps => Sys2Proof.Machine.execStackTempRead temps s
  | .faultLatch f => Sys2Proof.Machine.execFaultLatch f s
  | .fenceReactionDone cls failed => Sys2Proof.Machine.execFenceReactionDone cls failed s
  | .graceExpiry cls => Sys2Proof.Machine.execGraceExpiry cls s
  | .statusWordWrite who v => Sys2Proof.Machine.execStatusWordWrite who v s
  | .inject who w0 w1 => Sys2Proof.Machine.execInject who w0 w1 s
  | .stitchWatchdog queue entry => Sys2Proof.Machine.execStitchWatchdog queue entry s
  | .queueNoprogress queue => Sys2Proof.Machine.execQueueNoprogress queue s
  | .lanternHeartbeat l => Sys2Proof.Machine.execLanternHeartbeat l s
  | .resetL1 who w => Sys2Proof.Machine.execResetL1 who w s
  | .resetL2 who w => Sys2Proof.Machine.execResetL2 who w s
  | .resetL3 who w => Sys2Proof.Machine.execResetL3 who w s
  | .resetL4Warm who w => Sys2Proof.Machine.execResetL4Warm who w s
  | .resetL4Cold who w => Sys2Proof.Machine.execResetL4Cold who w s
  | .resetL5 who w => Sys2Proof.Machine.execResetL5 who w s
  | .drainAllowanceEnd level target => Sys2Proof.Machine.execDrainAllowanceEnd level target s
  | .selfCheckDone target pass => Sys2Proof.Machine.execSelfCheckDone target pass s
  | .resetOverrun level target => Sys2Proof.Machine.execResetOverrun level target s
  | .dumpRelease who v => Sys2Proof.Machine.execDumpRelease who v s
  | .dumpExport who v => Sys2Proof.Machine.execDumpExport who v s
  | .dumpExportDone ok => Sys2Proof.Machine.execDumpExportDone ok s
  | .transitionFactoryTest who request => Sys2Proof.Machine.execTransitionFactoryTest who request s
  | .transitionProvisioned who request => Sys2Proof.Machine.execTransitionProvisioned who request s
  | .transitionMission who request => Sys2Proof.Machine.execTransitionMission who request s
  | .transitionFieldReturn who request => Sys2Proof.Machine.execTransitionFieldReturn who request s
  | .transitionScrap who request => Sys2Proof.Machine.execTransitionScrap who request s
  | .signedWrite who request => Sys2Proof.Machine.execSignedWrite who request s
  | .debugToken who request => Sys2Proof.Machine.execDebugToken who request s
  | .enter who cmd => Sys2Proof.Machine.execEnter who cmd s
  | .change who cmd => Sys2Proof.Machine.execChange who cmd s
  | .exit who cmd => Sys2Proof.Machine.execExit who cmd s
  | .quiesce who w => Sys2Proof.Machine.execQuiesce who w s
  | .quiescedReached hoop => Sys2Proof.Machine.execQuiescedReached hoop s
  | .quiesceTimeout hoop => Sys2Proof.Machine.execQuiesceTimeout hoop s
  | .instanceResume who w => Sys2Proof.Machine.execInstanceResume who w s
  | .freeze who w => Sys2Proof.Machine.execFreeze who w s
  | .save who w => Sys2Proof.Machine.execSave who w s
  | .restore who w => Sys2Proof.Machine.execRestore who w s
  | .selConfigWrite who row v => Sys2Proof.Machine.execSelConfigWrite who row v s
  | .windowUsWrite who v => Sys2Proof.Machine.execWindowUsWrite who v s
  | .peakReset who v => Sys2Proof.Machine.execPeakReset who v s
  | .dumpHeadWrite who v => Sys2Proof.Machine.execDumpHeadWrite who v s
  | .dumpConfigWrite who w0 w1 w2 w3 => Sys2Proof.Machine.execDumpConfigWrite who w0 w1 w2 w3 s
  | .hbmCorrectedError b off => Sys2Proof.Machine.execHbmCorrectedError b off s
  | .granuleRemap b off => Sys2Proof.Machine.execGranuleRemap b off s
  | .remapCopyDone b => Sys2Proof.Machine.execRemapCopyDone b s
  | .sessionOpen mctp peer m => Sys2Proof.Machine.execSessionOpen mctp peer m s
  | .sessionClose m => Sys2Proof.Machine.execSessionClose m s
  | .read who m => Sys2Proof.Machine.execRead who m s
  | .write who m => Sys2Proof.Machine.execWrite who m s
  | .describe who m => Sys2Proof.Machine.execDescribe who m s
  | .nop who m => Sys2Proof.Machine.execNop who m s
  | .seqRepeat session => Sys2Proof.Machine.execSeqRepeat session s
  | .mbControlGo who magicOk op m => Sys2Proof.Machine.execMbControlGo who magicOk op m s
  | .apertureAccess who select off write len => Sys2Proof.Machine.execApertureAccess who select off write len s
  | .sessionTimeout session => Sys2Proof.Machine.execSessionTimeout session s
  | .registerWrite who index sub row ws => Sys2Proof.Machine.execRegisterWrite who index sub row ws s
  | .supplyApplied main => Sys2Proof.Machine.execSupplyApplied main s
  | .hubSelfCheckDone ok => Sys2Proof.Machine.execHubSelfCheckDone ok s
  | .coreInstruction l c short op => Sys2Proof.Machine.execCoreInstruction l c short op s
  | .mainLow low => Sys2Proof.Machine.execMainLow low s
  | .hostLinkTrained port width speed flitMode cxl => Sys2Proof.Machine.execHostLinkTrained port width speed flitMode cxl s
  | .hdmDecoderCommit port dec base size ways gran => Sys2Proof.Machine.execHdmDecoderCommit port dec base size ways gran s
  | .debugPortAccess acc => Sys2Proof.Machine.execDebugPortAccess acc s
  | .resetEnd level target => Sys2Proof.Machine.execResetEnd level target s
  | .barAccessDrop access isRead => Sys2Proof.Machine.execBarAccessDrop access isRead s
  | .timestampRealign q => Sys2Proof.Machine.execTimestampRealign q s
  | .getVersion who => Sys2Proof.Machine.execGetVersion who s
  | .getCapabilities who => Sys2Proof.Machine.execGetCapabilities who s
  | .negotiateAlgorithms who => Sys2Proof.Machine.execNegotiateAlgorithms who s
  | .getDigests who => Sys2Proof.Machine.execGetDigests who s
  | .getCertificate who => Sys2Proof.Machine.execGetCertificate who s
  | .challenge who nonce => Sys2Proof.Machine.execChallenge who nonce s
  | .getMeasurements who => Sys2Proof.Machine.execGetMeasurements who s
  | .keyExchange who => Sys2Proof.Machine.execKeyExchange who s
  | .finish who => Sys2Proof.Machine.execFinish who s
  | .blobStagingTimeout index sub => Sys2Proof.Machine.execBlobStagingTimeout index sub s
  | .setEndpointId eid => Sys2Proof.Machine.execSetEndpointId eid s
  | .neighbourDiscovery target => Sys2Proof.Machine.execNeighbourDiscovery target s
  | .icmpv6Echo payload => Sys2Proof.Machine.execIcmpv6Echo payload s
  | .tdispRequest n r => Sys2Proof.Machine.execTdispRequest n r s
  | .ideStreamSetup port stream selective => Sys2Proof.Machine.execIdeStreamSetup port stream selective s
  | .wickTimeAdvance => Sys2Proof.Machine.execWickTimeAdvance s
  | .hbmZeroDone => Sys2Proof.Machine.execHbmZeroDone s
  | .picotWriteLand => Sys2Proof.Machine.execPicotWriteLand s
  | .epochDrainTimeout => Sys2Proof.Machine.execEpochDrainTimeout s
  | .allocatorRequest => Sys2Proof.Machine.execAllocatorRequest s
  | .flossWindowEnd => Sys2Proof.Machine.execFlossWindowEnd s
  | .mainLost => Sys2Proof.Machine.execMainLost s
  | .backupStopped => Sys2Proof.Machine.execBackupStopped s
  | .mainQualified => Sys2Proof.Machine.execMainQualified s
  | .holdUpExhausted => Sys2Proof.Machine.execHoldUpExhausted s
  | .auxOutOfRange => Sys2Proof.Machine.execAuxOutOfRange s
  | .drowseWake => Sys2Proof.Machine.execDrowseWake s
  | .pwrcycTimeout => Sys2Proof.Machine.execPwrcycTimeout s
  | .transitionPhaseDone => Sys2Proof.Machine.execTransitionPhaseDone s
  | .debugTokenExpire => Sys2Proof.Machine.execDebugTokenExpire s
  | .keyEpochDrained => Sys2Proof.Machine.execKeyEpochDrained s
  | .keyScrubDone => Sys2Proof.Machine.execKeyScrubDone s
  | .bwWindowEnd => Sys2Proof.Machine.execBwWindowEnd s
  | .dumpPeriod => Sys2Proof.Machine.execDumpPeriod s
  | .sdpMessageDrop => Sys2Proof.Machine.execSdpMessageDrop s
  | .mainApplied => Sys2Proof.Machine.execMainApplied s
  | .auxInRange => Sys2Proof.Machine.execAuxInRange s
  | .auxLost => Sys2Proof.Machine.execAuxLost s

end Sys2Proof.Machine
end

