-- ==== Sys2Proof/Safety.lean ====
section
/-! DEFINITION. The terms that the statements use: a step that runs, the parts of the state, and what two states have in common
part by part. -/

namespace Sys2Proof.Safety

open Sys2Proof.Machine

/-- The step answers a next state: it neither faults nor is refused. -/
def runs (s : State) : Prop := ∃ t, step s = .next t

/-- The parts of the state, one a field; of four fields also the part that a statement of its own is about: wick time, the bytes
of local memory, the life-cycle state, and leaving safe state. The queue of commands and the counter of free values are no
parts; the cells of the dictionary are told apart by their entries. -/
inductive StatePart
  | clocks | wick | memory | bytes | hostBytes | hostPoison | staged | lanterns | hoops | fabric | ranges | queues | contexts
  | fences | waits | objects | allocs | movers | moverQueue | collectives | slots | scrubs | floss | power | snuffer | safeExit
  | keeper | lifeCycle | telemetry | darner | server | ports | vfs | answer
  deriving DecidableEq, Repr

/-- What it is for a part to be the same in `t` as in `s`; for `safeExit`, that safe state is not left. -/
def StatePart.same (p : StatePart) (s t : State) : Prop :=
  match p with
  | .clocks => t.clk = s.clk
  | .wick => t.clk.wick = s.clk.wick
  | .memory => t.mem = s.mem
  | .bytes => t.mem.cells = s.mem.cells
  | .hostBytes => t.hostMem = s.hostMem
  | .hostPoison => t.hostPoison = s.hostPoison
  | .staged => t.staged = s.staged
  | .lanterns => t.lan = s.lan
  | .hoops => t.hoops = s.hoops
  | .fabric => t.fab = s.fab
  | .ranges => t.rng = s.rng
  | .queues => t.queues = s.queues
  | .contexts => t.ctxs = s.ctxs
  | .fences => t.fences = s.fences
  | .waits => t.waits = s.waits
  | .objects => t.objs = s.objs
  | .allocs => t.allocQ = s.allocQ
  | .movers => t.movers = s.movers
  | .moverQueue => t.moverQ = s.moverQ
  | .collectives => t.colls = s.colls
  | .slots => t.slots = s.slots
  | .scrubs => t.scrubs = s.scrubs
  | .floss => t.floss = s.floss
  | .power => t.power = s.power
  | .snuffer => t.snuffer = s.snuffer
  | .safeExit => s.snuffer.safe = true → t.snuffer.safe = true
  | .keeper => t.keeper = s.keeper
  | .lifeCycle => t.keeper.lc = s.keeper.lc
  | .telemetry => t.tele = s.tele
  | .darner => t.darner = s.darner
  | .server => t.server = s.server
  | .ports => t.ports = s.ports
  | .vfs => t.vfs = s.vfs
  | .answer => t.answer = s.answer

/-- The two tables that list what differs from a default are in their canonical form: the bytes of local memory and the cells of
the dictionary. -/
structure Canon (s : State) : Prop where
  mem : canonical memDefault s.mem.cells = true
  regs : canonical cellDefault s.regs = true

end Sys2Proof.Safety
end

