-- ==== Sys2Proof/Certificates/Slice0/Obligations.lean ====
section
/-! DEFINITION. The statements about the block, one `def Obligations.<Name> : Prop` each; OBLIGATIONS.json says of each its
basis and the rules it rests on. -/

namespace Sys2Proof.Safety

open Sys2Proof.Machine

/-- An entry is open to a requester's writes by command, and no DROWSE is left by the access (R463, R500, R589). -/
def opens (s : State) (who : Req) (e : Nat) : Prop := writeClosed s who e = false ∧ s.power.sleep ≠ 2

/-- A strand whose op at its position has issued, the op `op` holding back the later ones (R146). -/
def strandHeld (r : Running) (op : Nat) : Running :=
  let busy := r.busy ++ [r.pos]
  { r with busy := busy, pos := r.pos + 1, row := 0, begun := false, pois := false, bad := [], status := statusMax r.status .ok, waitOp := some op }

/-- A core goes on to its next instruction, `len` bytes long and fetched with `u` as the state it leaves: it is live, its lantern ready, it is
not stalled, and its pc is not the exit address (R157, R162, R168, R169). -/
structure coreGoes (s u : State) (l c : Nat) (len : Nat := 4) : Prop where
  live : coreLive s l c = true
  ready : lanternReady s l = .ok () s
  wrs : wrsOver s l c = false
  stall : (Machine.core s l c).stall = .none
  elsewhere : (Machine.core s l c).pc ≠ exitAddr
  fetched : ∃ va, fetch s l c len = (va, .ok () u)
  stays : (Machine.core u l c).on = true

/-- The word of an Xetp instruction: major opcode, FUNCT3, rd, rs1, rs2 and FLAG (R170). -/
def xWord (opcode fn rd rs1 rs2 : Nat) (flag : Bool) : BitVec 32 :=
  BitVec.ofNat 32 (opcode + rd * 2 ^ 7 + fn * 2 ^ 12 + rs1 * 2 ^ 15 + rs2 * 2 ^ 20 + (if flag then 1 else 0) * 2 ^ 27)

/-- A DMA op as submitted (R176). -/
def submitted (c ticket : Nat) (ws : List Word) : DmaOp :=
  { core := c, ticket := ticket, op := ws, running := false, issued := false, waiting := false, row := 0, poison := false, bad := [] }

/-- A slot as SLOT_OPEN leaves it (R199). -/
def openedSlot (s : State) (q : Nat) (d : List Word) : Slot :=
  { slotFree with state := 1, hoop := queueHoop s q, ctx := queueCtx s q, aspace := (context s (queueCtx s q)).aspace, desc := d, qFree := [0, 1], pFree := [0, 1], heard := s.clk.wick, out := [.record 1 .ok] }

/-- The translation that WALK_COMPLETE of `n` ends: the one at place `n`; of the replayed walks of a hoop, the first (R293, R305). -/
structure walkAt (s : State) (n : Nat) (x : XReq) : Prop where
  here : s.rng.xreqs[n]? = some x
  first : x.repeated = true → s.rng.xreqs.findIdx? (fun y => xWalking y && y.repeated && decide (y.hoop = x.hoop)) = some n

/-- A translation after a replay of hoop `h`: a parked one of the hoop waits to walk again (R305). -/
def replayOf (h : Nat) (x : XReq) : XReq :=
  match x.phase with
  | .parked t => if x.hoop = h then { x with phase := .again t, repeated := true } else x
  | _ => x

/-- A doorbell is held behind its function's earlier writes (R272). -/
def bellHeld (s : State) (b : Bell) : State := { s with fab := { s.fab with bells := s.fab.bells ++ [b] } }

/-- The lowest handle under which hoop `h` has no image loaded (R157). -/
def freeHandle (s : State) (h : Nat) : Option Nat :=
  (List.range 16).find? (fun k => !(((hoop s h).images.filter (fun x => !x.loading)).map (fun x => x.handle)).contains k)

/-- The resident contexts of hoop `h` that may be taken and have nothing to do (R423). -/
def idleContexts (s : State) (h : Nat) : List Nat :=
  (takeable s h).filter (fun o => activity s o = 0 && (ctxLanterns s o).isEmpty)

/-- The reservations `rs` with that of core `c` of lantern `l` replaced by one of the row of `home` (R164). -/
def resvAdd (rs : List Resv) (l c home : Nat) : List Resv :=
  rs.filter (fun x => !(decide (x.l = l) && decide (x.c = c))) ++ [{ l := l, c := c, row := alignDown home 128 }]

/-- A request whose pass over its blocks, as `p` leaves it, has ended (R213). -/
def passOver (r p : SlotReq) : SlotReq :=
  let bad := p.parts.any (fun y => y.bad || y.badO.any id)
  let st := statusMax p.status (statusMax .ok (if bad then .poison else .ok))
  { p with passing := false, pass := r.pass + 1, status := st }

/-- The mailbox's record of word `w` for slot `n`. -/
def isWord (n : Nat) (w : Word) (m : Nat × Word × Bool) : Bool := decide (m.1 = n) && decide (m.2.1 = w)

/-- Word `w` for slot `n` taken from the mailbox, the slot having heard. -/
def wordTaken (s : State) (n : Nat) (w : Word) : State :=
  modSlot { s with mem := { s.mem with mail := dropFirst (isWord n w) s.mem.mail } } n (fun x => { x with heard := s.clk.wick })

/-- A request that slot `n` starts, its entry not read yet (R200). -/
def bareReq (s : State) (n : Nat) : SlotReq :=
  { newReq s (slot s n).desc (csPos (slot s n).desc) (slot s n).next true 0 0 0 [] [] 0 with loading := true }

/-- Did word `w` for slot `n` land poisoned (R231)? -/
def wordBad (s : State) (n : Nat) (w : Word) : Bool := ((s.mem.mail.find? (isWord n w)).map (fun m => m.2.2)).getD false

/-- A mailbox word that fits slot `n`: the slot is OPEN, the word landed whole, and its type, sequence, member and pool fit (R214, R221,
R231). -/
structure wordFor (s : State) (n ty : Nat) (w : Word) : Prop where
  isOpen : (slot s n).state = 1
  clean : wordBad s n w = false
  type : fld w 63 60 = ty
  seq : fld w 39 24 = fld (wordAt (slot s n).desc 11) 63 48
  member : fld w 49 44 < csN (slot s n).desc
  pool : ∀ p, typePool ty = some p → fld w 58 58 = p

/-- Are the blocks of a job's rows carried with their checks (R242, R256, R543)? -/
def jobCarries (s : State) (j : MoverJob) : Bool := mvCarries j && !s.keeper.conf

/-- The blocks that a job carries. -/
def carryCount (s : State) (j : MoverJob) : Nat :=
  if jobCarries s j = true then mvRows j.desc * (mvSrcBytes j.desc / 512) else 0

/-- Mover `m` of quarter `q`, whose job `j` has opcode `op`, has the rows that are left read, its blocks carried, its pieces written and
its flag sent, which leaves `w` (R242, R252, R257). A carried row of a format without scales leaves nothing to read. -/
structure moverGoes (s w : State) (q m op : Nat) (j : MoverJob) : Prop where
  job : mvJob s q m = some j
  op : mvOp j.desc = op
  going : j.finished = false
  runs : quarterRuns s q = true
  clock : pll s q = .running
  done : ∃ r t v, mvCarry q m j (carryCount s j - j.put) r = .ok () t ∧ engFailure v (.mover q m) = none ∧
    mvFlag v q m ((mvJob v q m).getD j) = .ok () w ∧
    (if jobCarries s j = true ∧ fmtIsMx (mvSrc j.desc) = false then r = s ∧ v = t
      else ∃ k, mvReadRows q m (jobCarries s j) (mvRows j.desc - j.rows.length) s = .ok () r ∧ mvJob t q m = some k ∧
        ¬(k.work = 1 ∧ k.status = .poison) ∧
        mvPut q m k (decide (k.work = 1)) ((mvWrites k).drop (k.put - carryCount s j)) t = .ok () v)

/-- A reset as a request asks for it: its word names the domain, the fence and, for an L1, the cause (R507). -/
def askedReset (s : State) (who : Req) (w : Word) (level : Nat) (cause : Status) : Reset :=
  { level := level, target := fld w 15 0, trigger := 0, cause := cause, fences := if bit w 59 then [(fld w 58 45, some who)] else [], start := wick s, phase := 0, dumped := false, logAt := none, dumpSel := bit (cell s 0x520001 0 0) level }

/-- The parts of the state that a command may change; every other part it leaves as it is. -/
def mayChange (i : Instr) : List StatePart :=
  match i with
  | .mailboxAccessDrop .. | .quiesceTimeout .. | .sdpMessageDrop .. =>
    []
  | .barAccessDrop .. | .getVersion .. | .getCapabilities .. | .negotiateAlgorithms .. | .getDigests .. | .getCertificate ..
  | .challenge .. | .getMeasurements .. | .neighbourDiscovery .. | .icmpv6Echo .. =>
    [.answer]
  | .pllStop .. | .timestampRealign .. =>
    [.clocks]
  | .flitIdle .. | .flitNak .. | .ctrlHello .. | .ctrlSpareRequest .. | .eyeletTrained .. =>
    [.fabric]
  | .samplerSlot .. | .quiescedReached .. =>
    [.hoops]
  | .debugTokenExpire .. =>
    [.keeper]
  | .wrsStoTimeout .. =>
    [.lanterns]
  | .mergeWindowExpire .. =>
    [.memory]
  | .hostLinkTrained .. | .hdmDecoderCommit .. | .ideStreamSetup .. =>
    [.ports]
  | .capStep .. | .thermalStep .. | .mainLow .. | .auxOutOfRange .. | .mainApplied .. | .auxInRange .. =>
    [.power]
  | .sessionTimeout .. | .blobStagingTimeout .. =>
    [.server]
  | .graceExpiry .. =>
    [.snuffer]
  | .bwWindowEnd .. =>
    [.telemetry]
  | .elpPicot .. =>
    [.fabric, .floss]
  | .fenceWindowRead .. =>
    [.floss, .answer]
  | .portServe .. =>
    [.floss, .telemetry]
  | .contextStuck .. | .swapIn .. | .samplerPeriod .. =>
    [.hoops, .contexts]
  | .keyExchange .. | .finish .. =>
    [.keeper, .answer]
  | .imageLoad .. =>
    [.queues, .moverQueue]
  | .faultRecordTimeout .. =>
    [.ranges, .snuffer]
  | .sessionOpen .. | .sessionClose .. | .read .. | .describe .. | .nop .. | .seqRepeat .. | .setEndpointId .. =>
    [.server, .answer]
  | .perst .. | .perstRelease .. =>
    [.snuffer, .ports]
  | .flossWindowEnd .. =>
    [.staged, .floss]
  | .railSample .. =>
    [.staged, .power]
  | .tdispRequest .. =>
    [.vfs, .answer]
  | .drowseWake .. =>
    [.clocks, .fabric, .power]
  | .moverDispatch .. =>
    [.clocks, .movers, .moverQueue]
  | .seam .. | .fence .. =>
    [.fabric, .queues, .contexts]
  | .confirmingReadDone .. =>
    [.fabric, .queues, .telemetry]
  | .lanternGate .. =>
    [.memory, .bytes, .lanterns]
  | .hubSelfCheckDone .. =>
    [.memory, .power, .ports]
  | .nodeIdWrite .. | .heapConfigWrite .. | .dumpRelease .. | .peakReset .. =>
    [.clocks, .fabric, .power, .answer]
  | .invalEntry .. | .invalAspace .. | .invalHoop .. | .replay .. =>
    [.clocks, .fabric, .ranges, .power]
  | .ctrlSpareSwitch .. | .laneFailing .. | .spareTrained .. | .resetOverrun .. | .pwrcycTimeout .. =>
    [.clocks, .fabric, .ranges, .snuffer]
  | .collective .. =>
    [.fabric, .queues, .contexts, .collectives]
  | .move .. =>
    [.fabric, .queues, .contexts, .moverQueue]
  | .dumpExportDone .. =>
    [.hostBytes, .fabric, .floss, .snuffer]
  | .flrVf .. | .flrPf .. =>
    [.snuffer, .server, .ports, .vfs]
  | .fenceAlloc .. | .fenceFree .. | .fenceReset .. =>
    [.clocks, .fabric, .fences, .power, .answer]
  | .debugToken .. =>
    [.clocks, .fabric, .power, .keeper, .answer]
  | .statusWordWrite .. | .dumpExport .. | .signedWrite .. =>
    [.clocks, .fabric, .power, .snuffer, .answer]
  | .selConfigWrite .. | .windowUsWrite .. =>
    [.clocks, .fabric, .power, .telemetry, .answer]
  | .sqTailWrite .. | .cqHeadWrite .. =>
    [.clocks, .fabric, .queues, .contexts, .power]
  | .rangeCommit .. =>
    [.clocks, .fabric, .ranges, .power, .answer]
  | .stackTempRead .. =>
    [.clocks, .fabric, .ranges, .power, .snuffer]
  | .hbmCorrectedError .. | .granuleRemap .. =>
    [.clocks, .fabric, .ranges, .snuffer, .darner]
  | .swapAreaWrite .. | .samplerControlWrite .. =>
    [.clocks, .hoops, .fabric, .power, .answer]
  | .selfCheckDone .. =>
    [.clocks, .lanterns, .fabric, .ranges, .snuffer]
  | .linkCrcError .. =>
    [.clocks, .memory, .fabric, .ranges, .snuffer]
  | .frHeadWrite .. | .frConfigWrite .. | .dumpConfigWrite .. =>
    [.clocks, .staged, .fabric, .power, .answer]
  | .supplyApplied .. =>
    [.clocks, .wick, .power, .keeper, .lifeCycle]
  | .wickTimeAdvance .. =>
    [.clocks, .wick, .queues, .snuffer, .telemetry]
  | .moverDescriptorComplete .. =>
    [.fabric, .ranges, .queues, .contexts, .movers]
  | .tileOpComplete .. | .stitchStop .. | .dmaOpComplete .. =>
    [.lanterns, .fabric, .queues, .contexts, .waits]
  | .imageUnload .. =>
    [.lanterns, .hoops, .fabric, .queues, .contexts]
  | .hbmZeroDone .. | .keyScrubDone .. =>
    [.memory, .bytes, .floss, .power, .keeper]
  | .transitionFactoryTest .. | .transitionProvisioned .. | .transitionMission .. | .transitionFieldReturn ..
  | .transitionScrap .. =>
    [.clocks, .fabric, .power, .snuffer, .keeper, .answer]
  | .hoopCreate .. | .hoopRebind .. | .hoopDestroy .. | .hoopCancel .. =>
    [.clocks, .lanterns, .hoops, .fabric, .power, .answer]
  | .unitScrubDone .. =>
    [.clocks, .memory, .bytes, .scrubs, .floss, .keeper]
  | .sensorRead .. =>
    [.clocks, .staged, .fabric, .ranges, .power, .snuffer]
  | .faultRecordWrite .. =>
    [.hostBytes, .hostPoison, .fabric, .ranges, .queues, .floss]
  | .strandComplete .. =>
    [.lanterns, .fabric, .ranges, .queues, .contexts, .allocs]
  | .stitchChoose .. =>
    [.clocks, .lanterns, .hoops, .fabric, .queues, .contexts, .waits]
  | .rebindApply .. | .retiredLanternRemove .. =>
    [.clocks, .memory, .bytes, .lanterns, .hoops, .ranges, .scrubs]
  | .strandStart .. =>
    [.clocks, .memory, .bytes, .lanterns, .queues, .contexts, .floss]
  | .swapOut .. =>
    [.clocks, .lanterns, .fabric, .ranges, .contexts, .waits, .allocs, .floss]
  | .stitchWatchdog .. | .lanternHeartbeat .. =>
    [.clocks, .lanterns, .fabric, .ranges, .queues, .contexts, .waits, .snuffer]
  | .partialBlockMerge .. | .walkComplete .. =>
    [.clocks, .memory, .bytes, .fabric, .ranges, .floss, .snuffer, .darner]
  | .destroyDone .. =>
    [.clocks, .memory, .bytes, .lanterns, .hoops, .ranges, .slots, .scrubs]
  | .enter .. | .change .. | .exit .. =>
    [.clocks, .staged, .fabric, .scrubs, .power, .keeper, .telemetry, .answer]
  | .elpFence .. | .fenceSignal .. =>
    [.memory, .lanterns, .fabric, .queues, .contexts, .fences, .waits, .floss]
  | .quarterStoreRead .. | .quarterStoreWrite .. | .bobbinRead .. | .bobbinWrite .. =>
    [.clocks, .memory, .bytes, .fabric, .ranges, .floss, .snuffer, .darner, .answer]
  | .elpRead .. | .elpWrite .. =>
    [.clocks, .memory, .bytes, .lanterns, .fabric, .ranges, .floss, .snuffer, .darner]
  | .bar4Write .. =>
    [.clocks, .memory, .bytes, .lanterns, .fabric, .ranges, .floss, .power, .snuffer, .darner]
  | .scratchpadWindowAccess .. | .cxlMemRead .. | .cxlMemWrite .. =>
    [.clocks, .memory, .bytes, .lanterns, .fabric, .ranges, .floss, .snuffer, .darner, .answer]
  | .entryRead .. =>
    [.clocks, .memory, .bytes, .lanterns, .fabric, .ranges, .queues, .floss, .snuffer, .darner]
  | .imageLoadDone .. =>
    [.clocks, .memory, .bytes, .hoops, .fabric, .ranges, .queues, .contexts, .floss, .snuffer, .darner]
  | .hotWriteBack .. =>
    [.clocks, .memory, .bytes, .hostBytes, .hostPoison, .fabric, .ranges, .queues, .floss, .snuffer, .darner]
  | .bar4Read .. =>
    [.clocks, .memory, .bytes, .lanterns, .fabric, .ranges, .floss, .power, .snuffer, .darner, .answer]
  | .stitch .. =>
    [.clocks, .memory, .bytes, .lanterns, .fabric, .ranges, .queues, .contexts, .floss, .snuffer, .darner]
  | .allocatorRequest .. =>
    [.memory, .bytes, .lanterns, .fabric, .queues, .contexts, .fences, .waits, .objects, .allocs, .floss]
  | .load .. | .mma .. | .transpose .. | .convert .. | .bcastAdd .. | .zero .. | .wait .. | .inval .. | .chain .. =>
    [.clocks, .memory, .bytes, .lanterns, .fabric, .ranges, .queues, .contexts, .waits, .floss, .snuffer, .darner]
  | .objectCreate .. | .objectRef .. | .objectUnref .. =>
    [.clocks, .memory, .lanterns, .fabric, .queues, .contexts, .fences, .waits, .objects, .floss, .power, .answer]
  | .invalComplete .. =>
    [.memory, .hostBytes, .hostPoison, .lanterns, .hoops, .fabric, .ranges, .queues, .contexts, .fences, .waits, .floss]
  | .copy .. | .gather .. | .scatter .. | .fill .. =>
    [.clocks, .memory, .bytes, .hostBytes, .hostPoison, .lanterns, .fabric, .ranges, .queues, .movers, .floss, .snuffer, .darner]
  | .dumpPeriod .. =>
    [.clocks, .memory, .bytes, .hostBytes, .hostPoison, .staged, .fabric, .ranges, .queues, .floss, .snuffer, .telemetry, .darner]
  | .signal .. =>
    [.clocks, .memory, .bytes, .lanterns, .fabric, .ranges, .queues, .contexts, .fences, .waits, .floss, .snuffer, .darner]
  | .pllLock .. | .remapCopyDone .. =>
    [.clocks, .memory, .bytes, .lanterns, .fabric, .ranges, .queues, .contexts, .floss, .power, .snuffer, .darner, .answer]
  | .alloc .. =>
    [.clocks, .memory, .bytes, .lanterns, .fabric, .ranges, .queues, .contexts, .waits, .allocs, .floss, .snuffer, .darner]
  | .entryAdmit .. =>
    [.clocks, .memory, .bytes, .lanterns, .hoops, .fabric, .ranges, .queues, .contexts, .waits, .floss, .snuffer, .darner]
  | .transitionPhaseDone .. =>
    [.memory, .bytes, .lanterns, .fabric, .queues, .contexts, .fences, .waits, .floss, .snuffer, .keeper, .lifeCycle, .darner]
  | .dumpHeadWrite .. =>
    [.clocks, .memory, .bytes, .hostBytes, .hostPoison, .fabric, .ranges, .queues, .floss, .power, .snuffer, .telemetry, .darner,
     .answer]
  | .allReduce .. | .reduceScatter .. | .allGather .. | .collectiveInFlag .. | .collectiveFreeFlag .. | .collectiveAbortFlag ..
  | .collectiveTimeout .. =>
    [.clocks, .memory, .bytes, .hostBytes, .hostPoison, .lanterns, .fabric, .ranges, .queues, .contexts, .collectives, .floss,
     .snuffer, .darner]
  | .store .. | .xwait .. | .xfread .. | .xtile .. | .xtsync .. | .xpicot .. | .xcinv .. | .xdrain .. | .xexit .. | .cboInval ..
  | .cboClean .. | .cboFlush .. | .cboZero .. | .amo .. | .lr .. | .sc .. | .coreException .. =>
    [.clocks, .memory, .bytes, .hostBytes, .hostPoison, .lanterns, .fabric, .ranges, .queues, .contexts, .waits, .floss, .snuffer,
     .darner]
  | .debugPortAccess .. =>
    [.clocks, .memory, .bytes, .hostBytes, .hostPoison, .lanterns, .fabric, .ranges, .queues, .floss, .snuffer, .keeper, .darner,
     .answer]
  | .lanternWakeDone .. =>
    [.clocks, .memory, .bytes, .lanterns, .hoops, .fabric, .ranges, .queues, .contexts, .floss, .power, .snuffer, .darner,
     .answer]
  | .xsignal .. | .dmaOpStart .. | .queueDestroyDone .. | .completionRecordWrite .. =>
    [.clocks, .memory, .bytes, .hostBytes, .hostPoison, .lanterns, .fabric, .ranges, .queues, .contexts, .fences, .waits, .floss,
     .snuffer, .darner]
  | .xalloc .. | .xfree .. =>
    [.clocks, .memory, .bytes, .hostBytes, .hostPoison, .lanterns, .fabric, .ranges, .queues, .contexts, .waits, .allocs, .floss,
     .snuffer, .darner]
  | .coreInstruction .. =>
    [.clocks, .memory, .bytes, .hostBytes, .hostPoison, .lanterns, .fabric, .ranges, .queues, .contexts, .fences, .waits, .allocs,
     .floss, .snuffer, .darner]
  | .slotOpen .. | .slotClose .. | .cseRequestStart .. | .csePassStart .. | .csePassEnd .. | .query .. | .partialMsg ..
  | .max .. | .gmax .. | .credit .. | .fail .. | .ringTimeout .. | .faultLatch .. =>
    [.clocks, .memory, .bytes, .hostBytes, .hostPoison, .lanterns, .fabric, .ranges, .queues, .contexts, .fences, .waits, .slots,
     .floss, .snuffer, .darner]
  | .quiesce .. | .instanceResume .. | .freeze .. | .save .. | .restore .. =>
    [.clocks, .memory, .bytes, .hostBytes, .hostPoison, .hoops, .fabric, .ranges, .queues, .contexts, .fences, .objects, .floss,
     .power, .snuffer, .darner, .answer]
  | .remoteTimeout .. | .elpReadData .. | .elpAck .. | .flitData .. | .retrainTimeout .. | .epochDrainTimeout .. =>
    [.clocks, .memory, .bytes, .hostBytes, .hostPoison, .lanterns, .fabric, .ranges, .queues, .contexts, .fences, .waits,
     .collectives, .slots, .floss, .snuffer, .darner]
  | .hostReadError .. | .picotWriteLand .. =>
    [.clocks, .memory, .bytes, .hostBytes, .hostPoison, .lanterns, .fabric, .ranges, .queues, .contexts, .fences, .waits, .movers,
     .collectives, .slots, .floss, .snuffer, .darner]
  | .inject .. =>
    [.clocks, .memory, .bytes, .hostBytes, .hostPoison, .lanterns, .fabric, .ranges, .queues, .contexts, .fences, .waits, .slots,
     .floss, .power, .snuffer, .darner, .answer]
  | .teardownDone .. =>
    [.clocks, .memory, .bytes, .hostBytes, .hostPoison, .lanterns, .hoops, .fabric, .ranges, .queues, .contexts, .fences, .waits,
     .objects, .slots, .floss, .snuffer, .darner]
  | .queueNoprogress .. =>
    [.clocks, .memory, .bytes, .hostBytes, .hostPoison, .lanterns, .hoops, .fabric, .ranges, .queues, .contexts, .waits, .movers,
     .moverQueue, .collectives, .floss, .snuffer, .darner]
  | .epochStage .. | .epochOpen .. | .epochCommit .. | .epochAbandon .. | .markLost .. | .eyeletEnable .. =>
    [.clocks, .memory, .bytes, .hostBytes, .hostPoison, .lanterns, .fabric, .ranges, .queues, .contexts, .fences, .waits,
     .collectives, .slots, .floss, .power, .snuffer, .darner, .answer]
  | .opStepDone .. | .activityInterval .. | .backupStopped .. =>
    [.clocks, .memory, .bytes, .hostBytes, .hostPoison, .lanterns, .fabric, .ranges, .queues, .contexts, .fences, .waits,
     .collectives, .slots, .floss, .power, .snuffer, .darner, .ports]
  | .fenceReactionDone .. =>
    [.clocks, .memory, .bytes, .hostBytes, .hostPoison, .lanterns, .hoops, .fabric, .ranges, .queues, .contexts, .fences, .waits,
     .allocs, .movers, .collectives, .slots, .floss, .snuffer, .darner]
  | .drainAllowanceEnd .. =>
    [.clocks, .memory, .bytes, .hostBytes, .hostPoison, .lanterns, .hoops, .fabric, .ranges, .queues, .contexts, .fences, .waits,
     .allocs, .movers, .moverQueue, .collectives, .slots, .floss, .snuffer, .darner]
  | .queueCreate .. | .destroyDrain .. | .destroyAbort .. | .queueResume .. =>
    [.clocks, .memory, .bytes, .hostBytes, .hostPoison, .lanterns, .hoops, .fabric, .ranges, .queues, .contexts, .fences, .waits,
     .movers, .moverQueue, .collectives, .floss, .power, .snuffer, .darner, .answer]
  | .resetL1 .. | .resetL2 .. | .resetL3 .. | .resetL4Warm .. | .resetL4Cold .. | .resetL5 .. =>
    [.clocks, .memory, .bytes, .hostBytes, .hostPoison, .lanterns, .hoops, .fabric, .ranges, .queues, .contexts, .fences, .waits,
     .movers, .moverQueue, .collectives, .slots, .floss, .snuffer, .darner, .answer]
  | .keyEpochDrained .. =>
    [.clocks, .memory, .bytes, .hostBytes, .hostPoison, .lanterns, .hoops, .fabric, .ranges, .queues, .contexts, .fences, .waits,
     .movers, .moverQueue, .collectives, .slots, .floss, .snuffer, .keeper, .darner]
  | .contextCreate .. | .contextTeardown .. =>
    [.clocks, .memory, .bytes, .hostBytes, .hostPoison, .lanterns, .hoops, .fabric, .ranges, .queues, .contexts, .fences, .waits,
     .movers, .moverQueue, .collectives, .slots, .floss, .power, .snuffer, .darner, .answer]
  | .mainQualified .. =>
    [.clocks, .memory, .bytes, .staged, .lanterns, .hoops, .fabric, .ranges, .queues, .contexts, .fences, .waits, .objects,
     .allocs, .movers, .moverQueue, .collectives, .slots, .scrubs, .floss, .power, .snuffer, .safeExit, .keeper, .telemetry,
     .server, .ports, .vfs]
  | .powerReqActive .. | .powerReqDrowse .. | .powerReqWickOnly .. | .write .. | .mbControlGo .. | .apertureAccess ..
  | .registerWrite .. =>
    [.clocks, .memory, .bytes, .hostBytes, .hostPoison, .staged, .lanterns, .hoops, .fabric, .ranges, .queues, .contexts, .fences,
     .waits, .objects, .allocs, .movers, .moverQueue, .collectives, .slots, .scrubs, .floss, .power, .snuffer, .keeper,
     .telemetry, .darner, .server, .ports, .vfs, .answer]
  | .resetEnd .. =>
    [.clocks, .memory, .bytes, .hostBytes, .hostPoison, .staged, .lanterns, .hoops, .fabric, .ranges, .queues, .contexts, .fences,
     .waits, .objects, .allocs, .movers, .moverQueue, .collectives, .slots, .scrubs, .floss, .power, .snuffer, .safeExit,
     .keeper, .telemetry, .darner, .server, .ports, .vfs]
  | .mainLost .. | .holdUpExhausted .. | .auxLost .. =>
    [.clocks, .wick, .memory, .bytes, .staged, .lanterns, .hoops, .fabric, .ranges, .queues, .contexts, .fences, .waits, .objects,
     .allocs, .movers, .moverQueue, .collectives, .slots, .scrubs, .floss, .power, .snuffer, .safeExit, .keeper, .telemetry,
     .darner, .server, .ports, .vfs, .answer]

/-- The entries that latching a fault writes (R486 to R510). -/
def latchEntries : List Nat := [0x500001, 0x500002, 0x500003, 0x500004, 0x500006, 0x500007, 0x500008, 0x510002]

/-- Entries, and those that latching a fault writes. -/
@[noinline] def withLatch (es : List Nat) : List Nat := latchEntries ++ es

/-- The dictionary entries whose cells a command may change; none where it may reach every entry. -/
def mayWrite (i : Instr) : Option (List Nat) :=
  match i with
  | .mergeWindowExpire .. | .pllStop .. | .lanternGate .. | .dmaOpComplete .. | .moverDispatch .. | .perstRelease ..
  | .imageLoad .. | .fenceAlloc .. | .fenceFree .. | .fenceReset .. | .samplerSlot .. | .capStep .. | .thermalStep ..
  | .dumpConfigWrite .. | .sessionTimeout .. | .hubSelfCheckDone .. | .mainLow .. | .hostLinkTrained .. | .hdmDecoderCommit ..
  | .timestampRealign .. | .getVersion .. | .getCapabilities .. | .negotiateAlgorithms .. | .getDigests ..
  | .getCertificate .. | .challenge .. | .getMeasurements .. | .keyExchange .. | .finish .. | .setEndpointId ..
  | .neighbourDiscovery .. | .icmpv6Echo .. | .tdispRequest .. | .ideStreamSetup .. | .auxOutOfRange .. | .drowseWake ..
  | .debugTokenExpire .. | .mainApplied .. | .auxInRange .. =>
    some []
  | .debugToken .. =>
    some [0x110003]
  | .supplyApplied .. =>
    some [0x11000D]
  | .quiescedReached .. | .quiesceTimeout .. =>
    some [0x110019]
  | .sessionOpen .. | .sessionClose .. | .read .. | .describe .. | .nop .. | .seqRepeat .. | .blobStagingTimeout ..
  | .sdpMessageDrop .. =>
    some [0x120007]
  | .unitScrubDone .. =>
    some [0x300004]
  | .nodeIdWrite .. =>
    some [0x310001]
  | .portServe .. =>
    some [0x400005]
  | .faultRecordTimeout .. | .flrVf .. | .flrPf .. | .perst .. | .pwrcycTimeout .. =>
    some [0x510002]
  | .dumpRelease .. =>
    some [0x520003]
  | .mailboxAccessDrop .. | .flitIdle .. | .flitNak .. | .ctrlHello .. | .ctrlSpareRequest .. | .eyeletTrained ..
  | .fenceWindowRead .. | .hbmZeroDone .. =>
    some [0x600001]
  | .wickTimeAdvance .. =>
    some [0x600002]
  | .tileOpComplete .. | .wrsStoTimeout .. | .selConfigWrite .. =>
    some [0x600003]
  | .windowUsWrite .. | .peakReset .. =>
    some [0x600005]
  | .samplerControlWrite .. =>
    some [0x800006]
  | .swapAreaWrite .. =>
    some [0x800007]
  | .heapConfigWrite .. =>
    some [0x810006]
  | .railSample .. =>
    some [0x202001, 0x202002]
  | .rebindApply .. | .retiredLanternRemove .. =>
    some [0x300003, 0x300004]
  | .hoopCreate .. | .hoopRebind .. | .hoopDestroy .. | .hoopCancel .. =>
    some [0x300003, 0x800007]
  | .graceExpiry .. =>
    some [0x500006, 0x510002]
  | .resetOverrun .. =>
    some [0x510002, 0x510003]
  | .dumpExport .. =>
    some [0x520003, 0x520006]
  | .keyScrubDone .. =>
    some [0x600001, 0x600003]
  | .invalEntry .. | .invalAspace .. | .invalHoop .. | .replay .. | .elpPicot .. =>
    some [0x600001, 0x810008]
  | .barAccessDrop .. =>
    some [0x600001, 0x900014]
  | .bwWindowEnd .. =>
    some [0x600004, 0x600005]
  | .rangeCommit .. =>
    some [0x700001, 0x700002]
  | .frConfigWrite .. =>
    some [0x710001, 0x710004]
  | .contextStuck .. | .swapIn .. | .samplerPeriod .. =>
    some [0x800003, 0x800008]
  | .cqHeadWrite .. =>
    some [0x800003, 0x900014]
  | .transitionFactoryTest .. | .transitionProvisioned .. | .transitionMission .. | .transitionFieldReturn ..
  | .transitionScrap .. =>
    some [0x110003, 0x110005, 0x510002]
  | .destroyDone .. =>
    some [0x300003, 0x300004, 0x700001]
  | .dumpExportDone .. =>
    some [0x520003, 0x600001, 0x810008]
  | .strandStart .. =>
    some [0x600001, 0x600003, 0x800003]
  | .stitchChoose .. | .stitchStop .. | .move .. | .collective .. | .seam .. | .fence .. | .imageUnload .. =>
    some [0x600001, 0x800003, 0x810008]
  | .frHeadWrite .. =>
    some [0x710001, 0x710002, 0x710004]
  | .flossWindowEnd .. =>
    some [0x400003, 0x400004, 0x400005, 0x400006]
  | .elpFence .. | .fenceSignal .. | .objectCreate .. | .objectRef .. | .objectUnref .. =>
    some [0x600001, 0x600003, 0x800003, 0x810008]
  | .faultRecordWrite .. =>
    some [0x600001, 0x710003, 0x710004, 0x810008]
  | .swapOut .. =>
    some [0x600001, 0x800003, 0x800004, 0x800008]
  | .strandComplete .. | .moverDescriptorComplete .. =>
    some [0x600001, 0x800003, 0x800004, 0x810008]
  | .enter .. | .change .. | .exit .. =>
    some [0x110003, 0x110006, 0x220003, 0x300004, 0x600003]
  | .statusWordWrite .. =>
    some [0x500001, 0x500002, 0x500003, 0x500004, 0x500006]
  | .invalComplete .. =>
    some [0x600001, 0x600003, 0x700005, 0x800003, 0x810008]
  | .sqTailWrite .. =>
    some [0x800003, 0x900012, 0x900013, 0x900014, 0x900015]
  | .allocatorRequest .. =>
    some [0x600001, 0x600003, 0x800003, 0x800004, 0x810004, 0x810008]
  | .confirmingReadDone .. =>
    some [0x110019, 0x520003, 0x600001, 0x700007, 0x710004, 0x900012, 0x900013, 0x900015]
  | .selfCheckDone .. =>
    some latchEntries
  | .stackTempRead .. =>
    some (withLatch [0x210004])
  | .partialBlockMerge .. | .linkCrcError .. | .laneFailing .. | .hbmCorrectedError .. =>
    some (withLatch [0x600001])
  | .quarterStoreRead .. | .quarterStoreWrite .. | .bobbinRead .. | .bobbinWrite .. | .scratchpadWindowAccess .. | .elpRead ..
  | .elpWrite .. | .cxlMemRead .. | .cxlMemWrite .. | .bar4Read .. | .debugPortAccess .. =>
    some (withLatch [0x600001, 0x600003])
  | .granuleRemap .. =>
    some (withLatch [0xA0000A, 0xA0000B])
  | .sensorRead .. =>
    some (withLatch [0x210001, 0x210002, 0x210005])
  | .bar4Write .. =>
    some (withLatch [0x600001, 0x600003, 0x900014])
  | .ctrlSpareSwitch .. | .spareTrained .. =>
    some (withLatch [0x600001, 0xA0000A, 0xA0000B])
  | .stitchWatchdog .. =>
    some (withLatch [0x510008, 0x600001, 0x800003, 0x810008])
  | .dumpPeriod .. =>
    some (withLatch [0x600001, 0x600003, 0x600007, 0x810008])
  | .dumpHeadWrite .. =>
    some (withLatch [0x600001, 0x600003, 0x600008, 0x810008])
  | .load .. | .store .. | .transpose .. | .zero .. | .alloc .. | .inval .. | .xfread .. | .xtile .. | .xtsync .. | .xpicot ..
  | .xcinv .. | .xdrain .. | .xalloc .. | .xfree .. | .xexit .. | .cboInval .. | .cboClean .. | .cboFlush .. | .cboZero ..
  | .amo .. | .lr .. | .sc .. | .coreException .. | .copy .. | .gather .. | .scatter .. | .fill .. =>
    some (withLatch [0x600001, 0x600003, 0x700009, 0x810008])
  | .imageLoadDone .. =>
    some (withLatch [0x600001, 0x600003, 0x800003, 0x810008])
  | .transitionPhaseDone .. =>
    some [0x110009, 0x11000A, 0x11000B, 0x500007, 0x510002, 0x510003, 0x520003, 0x600001, 0x600003, 0x800003, 0x810008, 0xA00007,
     0xA00008]
  | .lanternHeartbeat .. =>
    some (withLatch [0x510008, 0x600001, 0x800003, 0x800004, 0x810008])
  | .walkComplete .. =>
    some (withLatch [0x600001, 0x600003, 0x700009, 0x710005, 0x810008])
  | .wait .. | .signal .. | .xwait .. | .xsignal .. | .slotOpen .. | .slotClose .. | .ringTimeout .. | .coreInstruction .. =>
    some (withLatch [0x600001, 0x600003, 0x700009, 0x800003, 0x810008])
  | .mma .. | .convert .. | .bcastAdd .. | .chain .. =>
    some (withLatch [0x600001, 0x600003, 0x700009, 0x810008, 0xB00005])
  | .faultLatch .. | .inject .. =>
    some (withLatch [0x520003, 0x600001, 0x600003, 0x700009, 0x800003, 0x810008])
  | .entryAdmit .. =>
    some (withLatch [0x600001, 0x600003, 0x700009, 0x800003, 0x810008, 0x900012])
  | .dmaOpStart .. =>
    some (withLatch [0x600001, 0x600003, 0x700009, 0x800003, 0x810008, 0xB00005])
  | .stitch .. =>
    some (withLatch [0x600001, 0x600003, 0x700009, 0x800003, 0x810008, 0xB00007])
  | .hotWriteBack .. =>
    some (withLatch [0x600001, 0x600003, 0x710003, 0x710004, 0x710006, 0x810008])
  | .cseRequestStart .. | .csePassStart .. | .csePassEnd .. | .query .. | .partialMsg .. | .max .. | .gmax .. | .credit ..
  | .fail .. | .epochStage .. | .epochOpen .. | .epochCommit .. | .epochAbandon .. | .remoteTimeout .. | .markLost ..
  | .elpReadData .. | .elpAck .. | .retrainTimeout .. | .allReduce .. | .reduceScatter .. | .allGather ..
  | .collectiveInFlag .. | .collectiveFreeFlag .. | .collectiveAbortFlag .. | .collectiveTimeout .. | .picotWriteLand ..
  | .epochDrainTimeout .. | .keyEpochDrained .. =>
    some (withLatch [0x600001, 0x600003, 0x700009, 0x800003, 0x800004, 0x810008, 0xB00005])
  | .queueDestroyDone .. =>
    some (withLatch [0x600001, 0x600003, 0x700009, 0x800003, 0x810008, 0x900012, 0x900013])
  | .entryRead .. =>
    some (withLatch [0x600001, 0x600003, 0x700009, 0x810008, 0x900012, 0x900013, 0x900015])
  | .flitData .. =>
    some (withLatch [0x110013, 0x600001, 0x600003, 0x700009, 0x800003, 0x800004, 0x810008, 0xB00005])
  | .eyeletEnable .. =>
    some (withLatch [0x320001, 0x600001, 0x600003, 0x700009, 0x800003, 0x800004, 0x810008, 0xB00005])
  | .opStepDone .. | .activityInterval .. | .backupStopped .. =>
    some (withLatch [0x510003, 0x600001, 0x600003, 0x700009, 0x800003, 0x800004, 0x810008, 0xB00005])
  | .resetL1 .. | .resetL2 .. | .resetL3 .. | .resetL4Warm .. | .resetL4Cold .. | .resetL5 .. =>
    some (withLatch [0x520003, 0x600001, 0x600003, 0x700009, 0x800003, 0x800004, 0x810008, 0xB00005])
  | .teardownDone .. =>
    some (withLatch [0x600001, 0x600003, 0x700009, 0x800003, 0x800004, 0x810008, 0x900012, 0x900013])
  | .completionRecordWrite .. =>
    some (withLatch [0x600001, 0x600003, 0x700009, 0x800003, 0x810008, 0x900012, 0x900013, 0x900015])
  | .pllLock .. =>
    some (withLatch [0x600001, 0x600003, 0x800003, 0x810008, 0x900012, 0x900013, 0x900014, 0x900015])
  | .lanternWakeDone .. =>
    some (withLatch [0x300003, 0x600001, 0x600003, 0x800003, 0x810008, 0x900012, 0x900013, 0x900014, 0x900015])
  | .queueNoprogress .. =>
    some (withLatch [0x510008, 0x600001, 0x600003, 0x700009, 0x800003, 0x800004, 0x810008, 0x900012, 0xB00005])
  | .queueCreate .. | .destroyDrain .. | .destroyAbort .. | .queueResume .. | .hostReadError .. | .contextCreate ..
  | .contextTeardown .. =>
    some (withLatch [0x600001, 0x600003, 0x700009, 0x800003, 0x800004, 0x810008, 0x900012, 0x900013, 0x900015, 0xB00005])
  | .fenceReactionDone .. =>
    some (withLatch [0x300003, 0x600001, 0x600003, 0x700009, 0x800003, 0x800004, 0x810008, 0xA00008, 0xA0000A, 0xA0000B,
     0xB00005])
  | .remapCopyDone .. =>
    some (withLatch [0x600001, 0x600003, 0x800003, 0x810008, 0x900012, 0x900013, 0x900014, 0x900015, 0xA00007, 0xA0000A,
     0xA0000B])
  | .drainAllowanceEnd .. =>
    some (withLatch [0x300003, 0x520003, 0x600001, 0x600003, 0x700009, 0x800003, 0x800004, 0x810008, 0x900012, 0x900013, 0x900015,
     0xB00005])
  | .quiesce .. | .instanceResume .. | .freeze .. | .save .. | .restore .. =>
    some (withLatch [0x110019, 0x400001, 0x400002, 0x600001, 0x600003, 0x700001, 0x700004, 0x710001, 0x710002, 0x710003, 0x710004,
     0x800001, 0x800003, 0x800004, 0x800005, 0x800006, 0x800007, 0x810002, 0x810004, 0x810006, 0x810008, 0x900010, 0x900012])
  | .powerReqActive .. | .powerReqDrowse .. | .powerReqWickOnly .. | .signedWrite .. | .write .. | .mbControlGo ..
  | .apertureAccess .. | .registerWrite .. | .resetEnd .. | .mainLost .. | .mainQualified .. | .holdUpExhausted ..
  | .auxLost .. =>
    none

end Sys2Proof.Safety

open Sys2Proof Sys2Proof.Machine Sys2Proof.Safety

/-- For every command c and state s with c at the front of the queue, step of s is exec c of s with the rest of the queue,
whatever its outcome. That an empty queue leaves the state as it is is the model's choice (log 18). -/
def Obligations.StepRunsFront : Prop :=
  (∀ (c : Instr) (rest : List Instr) (s : State), s.pending = c :: rest → step s = exec c { s with pending := rest }) ∧
  (∀ s : State, s.pending = [] → step s = .next s)

/-- State.reset is in canonical form, with no command waiting, no byte of memory listed, no hoop, queue, context, fence,
object, slot or reset; every PLL is stopped, and no fault is latched. That the model starts at this point, before any
supply is applied, is its choice (log 1). -/
def Obligations.ResetState : Prop :=
  Canon State.reset ∧ State.reset.pending = [] ∧ State.reset.mem.cells = [] ∧ State.reset.hoops = [] ∧ State.reset.queues = [] ∧
  State.reset.ctxs = [] ∧ State.reset.fences = [] ∧ State.reset.objs = [] ∧ State.reset.slots = [] ∧
  State.reset.snuffer.resets = [] ∧ statusWord State.reset = 0 ∧ State.reset.clk.wick = 0 ∧
  (∀ q < 4, pll State.reset q = .stopped)

/-- For every state whose byte table and dictionary cells are in canonical form, keys rising and no entry equal to its
default, a step that answers a next state leaves both in canonical form and the queue without its first command. Equal
memories are then equal data. -/
def Obligations.StepKeepsCanon : Prop :=
  ∀ s t : State, Canon s → step s = .next t → Canon t ∧ t.pending = s.pending.tail

/-- For every command and every state in canonical form, where exec answers a next state: the queue of commands is as it
was; each part of the state that mayChange does not list for the command is as it was; and each cell of a dictionary
entry that mayWrite does not list for it reads as it did. For four parts (wick time, the bytes of local memory, the
life-cycle state, and the leaving of safe state) the list says so apart: no command leaves safe state but the end of a
reset and the loss of supplies, none but a life-cycle phase and a supply changes the life-cycle state, and none but
the passing of time and the supplies changes wick time. -/
def Obligations.CommandFrame : Prop :=
  ∀ (c : Instr) (s t : State), Canon s → exec c s = .next t → t.pending = s.pending ∧
    (∀ p : StatePart, p ∉ mayChange c → p.same s t) ∧
    (∀ es : List Nat, mayWrite c = some es → ∀ e row w : Nat, e ∉ es → cell t e row w = cell s e row w)

/-- For long accumulators whose A lies in the 640-bit range, the combination's value A + W × 2^640 is the sum of the two
values and its A is in the range again, each flag is set exactly when it is set in one of the two, and combining is
commutative and associative. -/
def Obligations.AccumulatorsCombine : Prop :=
  ∀ l k j : LongAcc, -(2 ^ 639) ≤ l.a → l.a < 2 ^ 639 → -(2 ^ 639) ≤ k.a → k.a < 2 ^ 639 → -(2 ^ 639) ≤ j.a → j.a < 2 ^ 639 →
    (accCombine l k).a + (accCombine l k).w * 2 ^ 640 = (l.a + l.w * 2 ^ 640) + (k.a + k.w * 2 ^ 640) ∧
    (accCombine l k).nanSeen = (l.nanSeen || k.nanSeen) ∧ (accCombine l k).posInf = (l.posInf || k.posInf) ∧
    (accCombine l k).negInf = (l.negInf || k.negInf) ∧
    -(2 ^ 639) ≤ (accCombine l k).a ∧ (accCombine l k).a < 2 ^ 639 ∧
    accCombine l k = accCombine k l ∧ accCombine (accCombine l k) j = accCombine l (accCombine k j)

/-- Adding a NaN, or the product of an infinity and a zero, which is a NaN, sets NAN_SEEN and nothing else; adding an
infinity, or the product of an infinity with a nonzero finite value or an infinity, which is the infinity of the
product's sign, sets POS_INF_SEEN or NEG_INF_SEEN by its sign and nothing else. -/
def Obligations.AccumulatorTakesSpecials : Prop :=
  ∀ l : LongAcc, accAdd l .nan = { l with nanSeen := true } ∧
    accAdd l (.inf false) = { l with posInf := true } ∧ accAdd l (.inf true) = { l with negInf := true } ∧
    (∀ a b : Bool, accAdd l (numMul (.inf a) (.zero b)) = { l with nanSeen := true } ∧
      accAdd l (numMul (.zero b) (.inf a)) = { l with nanSeen := true }) ∧
    (∀ (a b : Bool) (n d : Nat), accAdd l (numMul (.inf a) (.fin b n d)) = accAdd l (.inf (a != b)) ∧
      accAdd l (numMul (.fin b n d) (.inf a)) = accAdd l (.inf (a != b)) ∧
      accAdd l (numMul (.inf a) (.inf b)) = accAdd l (.inf (a != b))) ∧
    (∀ x : Machine.Num, accAdd l (numMul .nan x) = { l with nanSeen := true } ∧ accAdd l (numMul x .nan) = { l with nanSeen := true })

/-- Starting from a long accumulator in range, adding a list of addends each of which, scaled by 2^320, is smaller in
magnitude than 2^639 gives the same accumulator whatever the order of the list; so every order of accumulation, and
every split of it into partials that are combined, gives the same bits. -/
def Obligations.SumDoesNotDependOnOrder : Prop :=
  (∀ (l : LongAcc) (xs ys : List Machine.Num), -(2 ^ 639) ≤ l.a → l.a < 2 ^ 639 →
    (∀ x ∈ xs, ∀ (neg : Bool) (n d : Nat), x = .fin neg n d → n * 2 ^ 320 / d < 2 ^ 639) → xs.Perm ys →
    accAddAll l xs = accAddAll l ys) ∧
  (∀ (l : LongAcc) (xs ys : List Machine.Num), -(2 ^ 639) ≤ l.a → l.a < 2 ^ 639 →
    (∀ x ∈ xs ++ ys, ∀ (neg : Bool) (n d : Nat), x = .fin neg n d → n * 2 ^ 320 / d < 2 ^ 639) →
    accAddAll l (xs ++ ys) = accCombine (accAddAll l xs) (accAddAll accZero ys))

/-- For every rounding mode, SAT setting and generator value, conversion to INT8 of a finite value is its magnitude
rounded to a multiple of 1 by the mode, held to at most 128 when negative and 127 when positive, 0 without a sign when
that is 0; NaN and zeros give 0; an infinity gives −128 or 127; and likewise INT4 with −8 and 7. -/
def Obligations.IntegerConversion : Prop :=
  ∀ (mode : Rnd) (sat : Bool) (r : Nat),
    (∀ n d : Nat, convert .int8 mode sat r (.fin true n d) =
      (if Nat.min (roundCount mode true r n d 0) 128 = 0 then .zero false else .fin true (Nat.min (roundCount mode true r n d 0) 128) 1)) ∧
    (∀ n d : Nat, convert .int8 mode sat r (.fin false n d) =
      (if Nat.min (roundCount mode false r n d 0) 127 = 0 then .zero false else .fin false (Nat.min (roundCount mode false r n d 0) 127) 1)) ∧
    (∀ n d : Nat, convert .int4 mode sat r (.fin true n d) =
      (if Nat.min (roundCount mode true r n d 0) 8 = 0 then .zero false else .fin true (Nat.min (roundCount mode true r n d 0) 8) 1)) ∧
    (∀ n d : Nat, convert .int4 mode sat r (.fin false n d) =
      (if Nat.min (roundCount mode false r n d 0) 7 = 0 then .zero false else .fin false (Nat.min (roundCount mode false r n d 0) 7) 1)) ∧
    convert .int8 mode sat r .nan = .zero false ∧ convert .int4 mode sat r .nan = .zero false ∧
    convert .int8 mode sat r (.inf true) = .fin true 128 1 ∧ convert .int8 mode sat r (.inf false) = .fin false 127 1 ∧
    convert .int4 mode sat r (.inf true) = .fin true 8 1 ∧ convert .int4 mode sat r (.inf false) = .fin false 7 1

/-- For each format of at most 8 bits and each of its codes whose value is not a NaN, encoding the decoded value gives the
code back, and converting the value to the format under any rounding mode gives a value of the same code, subnormals
included; the exception is MXINT8's code of −2, which is read and not written. -/
def Obligations.ElementCodesRoundTrip : Prop :=
  ∀ f ∈ [Fmt.e4m3, .e5m2, .e3m2, .e2m3, .e2m1, .mxint8, .int8, .int4], ∀ c < 2 ^ fmtBits f,
    numIsNan (decodeElem f c) = false → encodeElem f (decodeElem f c) = c ∧
      (¬(f = .mxint8 ∧ c = 128) → ∀ (mode : Rnd) (r : Nat), encodeElem f (convert f mode true r (decodeElem f c)) = c)

/-- When the PLL of quarter q runs, QUARTER_STORE_READ answers the bytes and poison that the run of the store window
holds, QUARTER_STORE_WRITE writes the run and answers with nothing, and outside safe state MERGE_WINDOW_EXPIRE closes
the window of the line and no other. -/
def Obligations.QuarterStoreAccesses : Prop :=
  (∀ (s : State) (q off len : Nat), q < 4 → off + len ≤ 0x4000000 → pll s q = .running →
    exec (.quarterStoreRead q off len) s = .next (answerData (readRun s devWho (storeBase q + off) len 0))) ∧
  (∀ (s : State) (q off : Nat) (d : List Byte) (poison : Bool), q < 4 → off + d.length ≤ 0x4000000 → pll s q = .running →
    exec (.quarterStoreWrite q off d poison) s = .next (reply (writeRun s devWho (storeBase q + off) d poison) [] false 0)) ∧
  (∀ (s : State) (q line : Nat), s.snuffer.safe = false →
    ∃ t, exec (.mergeWindowExpire q line) s = .next t ∧
      t = { s with mem := { s.mem with windows := s.mem.windows.filter (fun w => decide (w.line ≠ storeBase q + alignDown line 128)) } })

/-- When the PLL of quarter q runs, QUARTER_STORE_WRITE of d and then QUARTER_STORE_READ of as many bytes at the same
place both answer, and the read returns d itself whatever merge windows were open before; written with poison (and d
not empty) it returns poison; written clean over whole 128-byte lines it returns none. -/
def Obligations.StoreWriteReadsBack : Prop :=
  ∀ (s : State) (q off : Nat) (d : List Byte) (poison : Bool), q < 4 → off + d.length ≤ 0x4000000 → pll s q = .running →
    ∃ t u, exec (.quarterStoreWrite q off d poison) s = .next t ∧ exec (.quarterStoreRead q off d.length) t = .next u ∧
      u.answer.data = d ∧ (poison = true → d ≠ [] → u.answer.poison = true) ∧
      (poison = false → off % 128 = 0 → d.length % 128 = 0 → u.answer.poison = false)

/-- When the PLL of quarter q runs, QUARTER_STORE_WRITE answers, and then every byte of local memory at an address of the
run storeBase q + off to its end is the byte of the data for that place, and every other byte reads as before. -/
def Obligations.StoreWriteBytes : Prop :=
  ∀ (s : State) (q off : Nat) (d : List Byte) (poison : Bool), q < 4 → off + d.length ≤ 0x4000000 → pll s q = .running →
    ∃ t, exec (.quarterStoreWrite q off d poison) s = .next t ∧
      ∀ x, rb t x = if storeBase q + off ≤ x ∧ x < storeBase q + off + d.length then d.getD (x - (storeBase q + off)) 0
        else rb s x

/-- Outside the DROWSE of backup operation, a read or a write of a quarter store, and outside safe state a read or a write
of a bobbin (the write not of an image's memory), of a quarter whose PLL is stopped is held with its operands at the
end of the held requests, the PLL begins to start, and neither the answer nor memory changes: the request is not
refused. It holds too, without another start, while the PLL is starting, and in the DROWSE of backup operation, which
such a request does not end (R463), while the PLL is stopped. At PLL_LOCK with the core rails up the PLL runs, the
timestamp counter stands at wick time again, the wake counter rises by one and the time spent is added, the requests
held for the quarter are delivered, and the doorbells that waited for them are acted on. -/
def Obligations.StoppedQuarterHolds : Prop :=
  (∀ (s : State) (q off len : Nat), q < 4 → s.clk.pll.length = 4 → off + len ≤ 0x4000000 → pll s q = .stopped → backupDrowse s = false →
    ∃ t, exec (.quarterStoreRead q off len) s = .next t ∧ pll t q = .starting ∧
      t.clk.held = s.clk.held ++ [(q, .storeRead q off len)] ∧ t.answer = s.answer ∧ t.mem = s.mem ∧ t.regs = s.regs) ∧
  (∀ (s : State) (q off : Nat) (d : List Byte) (poison : Bool), q < 4 → s.clk.pll.length = 4 →
    off + d.length ≤ 0x4000000 → pll s q = .stopped → backupDrowse s = false →
    ∃ t, exec (.quarterStoreWrite q off d poison) s = .next t ∧ pll t q = .starting ∧
      t.clk.held = s.clk.held ++ [(q, .storeWrite q off d poison)] ∧ t.answer = s.answer ∧ t.mem = s.mem ∧ t.regs = s.regs) ∧
  (∀ (s : State) (b off len : Nat), b < 12 → s.clk.pll.length = 4 → off + len ≤ 0xFC0000000 → s.snuffer.safe = false →
    pll s (bobQuarter b) = .stopped → backupDrowse s = false →
    ∃ t, exec (.bobbinRead b off len) s = .next t ∧ pll t (bobQuarter b) = .starting ∧
      t.clk.held = s.clk.held ++ [(bobQuarter b, .bobbinRead b off len)] ∧ t.answer = s.answer ∧ t.mem = s.mem ∧ t.regs = s.regs) ∧
  (∀ (s : State) (b off : Nat) (d : List Byte) (poison : Bool), b < 12 → s.clk.pll.length = 4 →
    off + d.length ≤ 0xFC0000000 → s.snuffer.safe = false → imageHolds s (b * 0x1000000000 + off) d.length = false →
    pll s (bobQuarter b) = .stopped → backupDrowse s = false →
    ∃ t, exec (.bobbinWrite b off d poison) s = .next t ∧ pll t (bobQuarter b) = .starting ∧
      t.clk.held = s.clk.held ++ [(bobQuarter b, .bobbinWrite b off d poison)] ∧ t.answer = s.answer ∧ t.mem = s.mem ∧
      t.regs = s.regs) ∧
  (∀ (s : State) (q off len : Nat), q < 4 → off + len ≤ 0x4000000 → pll s q = .starting ∨ pll s q = .stopped ∧ backupDrowse s = true →
    exec (.quarterStoreRead q off len) s =
      .next { s with clk := { s.clk with held := s.clk.held ++ [(q, .storeRead q off len)] } }) ∧
  (∀ (s : State) (q : Nat), pll s q = .starting → coreRails s = true →
    ∃ u, u = countQ (countQ (setPll s q .running) q 1 1) q 2 ((s.clk.wick - s.clk.since.getD q 0) / 1000) ∧
      exec (.pllLock q) s = .next (serveBells (deliverHeld
        { u with clk := { u.clk with ts := u.clk.ts.set q (Nat.max (u.clk.ts.getD q 0) u.clk.wick) } } q)))

/-- While a supply has been applied and no supply is out (started), WICK_TIME_ADVANCE adds 25 to wick time and 25 to the
timestamp counter of every quarter whose PLL runs, and leaves the counters of the others (that the counters of running
quarters count with wick time is the model's choice, log 23). TIMESTAMP_REALIGN of a running quarter makes its counter
the larger of its value and wick time. PLL_STOP of a running quarter without work stops its PLL and changes nothing
else; of a quarter with work it changes nothing. -/
def Obligations.ClocksAdvance : Prop :=
  (∀ (s : State), s.power.started = true →
    ∃ t, exec .wickTimeAdvance s = .next t ∧ t.clk.wick = s.clk.wick + 25 ∧ t.clk.ts.length = s.clk.ts.length ∧
      ∀ q, q < s.clk.ts.length → t.clk.ts.getD q 0 = s.clk.ts.getD q 0 + (if pll s q = .running then 25 else 0)) ∧
  (∀ (s : State) (q : Nat), pll s q = .running →
    exec (.timestampRealign q) s =
      .next { s with clk := { s.clk with ts := s.clk.ts.set q (Nat.max (s.clk.ts.getD q 0) s.clk.wick) } }) ∧
  (∀ (s : State) (q : Nat), pll s q = .running → quarterBusy s q = false →
    exec (.pllStop q) s = .next { s with clk := { s.clk with pll := s.clk.pll.set q .stopped } }) ∧
  (∀ (s : State) (q : Nat), quarterBusy s q = true → exec (.pllStop q) s = .next s)

/-- Outside safe state, with the core rails up and its quarter's PLL running, LANTERN_WAKE_DONE of a waking lantern makes
it awake, cleared to zero first when it was cold-gated, and delivers the requests held for the quarter and then the
doorbells that waited for them. LANTERN_GATE of an awake idle lantern that no hoop binds clears it and gates it cold;
of a bound one idle for GATE_AFTER_NS it gates it with retention and changes nothing else; of a lantern that is not
idle it changes nothing. -/
def Obligations.LanternWakesAndGates : Prop :=
  (∀ (s : State) (l : Nat) (fromCold : Bool), s.snuffer.safe = false → (lantern s l).power = .waking fromCold →
    coreRails s = true → pll s (lanQuarter l) = .running →
    exec (.lanternWakeDone l) s = .next (serveBells (deliverHeld (joinAwake (modLantern (if fromCold then clearLantern s l else s) l
      (fun x => { x with power := .awake, idleAt := Nat.max x.idleAt s.clk.wick })) l) (lanQuarter l)))) ∧
  (∀ (s : State) (l : Nat), s.snuffer.safe = false → (lantern s l).power = .awake → lanternIdle s l = true →
    lanternHoop s l = none →
    exec (.lanternGate l) s = .next (modLantern (clearLantern s l) l (fun x => { x with power := .cold }))) ∧
  (∀ (s : State) (l h : Nat), s.snuffer.safe = false → (lantern s l).power = .awake → lanternIdle s l = true →
    lanternHoop s l = some h → (lantern s l).idleAt + regN s 0x201005 0 ≤ s.clk.wick →
    exec (.lanternGate l) s = .next (setLantern s l { lantern s l with power := .retained })) ∧
  (∀ (s : State) (l : Nat), lanternIdle s l = false → exec (.lanternGate l) s = .next s)

/-- Outside safe state, when no request is held for its quarter, no doorbell waits, the core rails are up and the
quarter's PLL runs, LANTERN_WAKE_DONE of a lantern waking from cold gating leaves it awake with an empty cache, every
byte of its 2 MiB scratchpad window reads as zero, none of its scratchpad words is poisoned, and every byte outside
the window reads as before. -/
def Obligations.ColdWakeClears : Prop :=
  ∀ (s : State) (l : Nat), l < 1024 → s.snuffer.safe = false → (lantern s l).power = .waking true →
    coreRails s = true → pll s (lanQuarter l) = .running → (∀ p ∈ s.clk.held, p.1 ≠ lanQuarter l) → s.fab.bells = [] →
    ∃ t, exec (.lanternWakeDone l) s = .next t ∧ (lantern t l).power = .awake ∧ (lantern t l).cache = [] ∧
      (∀ w ∈ t.mem.scratchPoison, w < scratchBase l ∨ scratchBase l + 0x200000 ≤ w) ∧
      ∀ x, rb t x = if scratchBase l ≤ x ∧ x < scratchBase l + 0x200000 then 0 else rb s x

/-- Outside safe state, when the PLL of the bobbin's quarter runs, BOBBIN_READ answers the bytes of the run with their
carry checks made, BOBBIN_WRITE of one whole block stores it with a new check, and BOBBIN_WRITE of a part of one block
leaves it waiting at the controller behind the merges that wait there; both answer with nothing. A write of memory
that an image holds is refused; in safe state, where the bobbins are in self-refresh, so is every access (that it is
refused is the model's choice, log 170). Outside safe state PARTIAL_BLOCK_MERGE takes the bobbin's oldest waiting
merge, wherever it stands in the queue, counts it, and stores it into its block, or leaves it held while a remap
copies the granule. -/
def Obligations.BobbinAccesses : Prop :=
  (∀ (s : State) (b off len : Nat), b < 12 → off + len ≤ 0xFC0000000 → pll s (bobQuarter b) = .running →
    s.snuffer.safe = false →
    exec (.bobbinRead b off len) s = .next (answerData (readRun s devWho (b * 0x1000000000 + off) len 0))) ∧
  (∀ (s : State) (b off : Nat) (d : List Byte) (poison : Bool), b < 12 → off % 512 = 0 → d.length = 512 →
    off + 512 ≤ 0xFC0000000 → imageHolds s (b * 0x1000000000 + off) 512 = false → pll s (bobQuarter b) = .running → s.snuffer.safe = false →
    exec (.bobbinWrite b off d poison) s =
      .next (reply (writeBlock s devWho (b * 0x1000000000 + off) d poison) [] false 0)) ∧
  (∀ (s : State) (b off : Nat) (d : List Byte) (poison : Bool), b < 12 → d ≠ [] → off % 512 + d.length ≤ 512 → d.length < 512 →
    off + d.length ≤ 0xFC0000000 → imageHolds s (b * 0x1000000000 + off) d.length = false → pll s (bobQuarter b) = .running →
    s.snuffer.safe = false → ∃ t, exec (.bobbinWrite b off d poison) s = .next t ∧
      t.mem.merges = s.mem.merges ++ [{ addr := b * 0x1000000000 + off, data := d, poison := poison }] ∧
      t.mem.cells = s.mem.cells ∧ t.answer = { data := [], poison := false, status := 0 }) ∧
  (∀ (s : State) (b : Nat) (m : Merge) (front back : List Merge), s.snuffer.safe = false → s.mem.merges = front ++ m :: back →
    (∀ x ∈ front, x.addr / 0x1000000000 ≠ b) → m.addr / 0x1000000000 = b →
    ∃ u, u = portArrive (countB { s with mem := { s.mem with merges := front ++ back } } b 1 m.data.length) b none
        (m.data.length + 512) ∧
      (remapping u m.addr = false →
        exec (.partialBlockMerge b) s = .next (storeBlock (countRemapped u m.addr) { devWho with eng := m.eng } m.addr m.data m.poison)) ∧
      (remapping u m.addr = true →
        exec (.partialBlockMerge b) s = .next (holdWrite u { devWho with eng := m.eng } m.addr m.data m.poison none))) ∧
  (∀ (s : State) (b off : Nat) (d : List Byte) (poison : Bool), imageHolds s (b * 0x1000000000 + off) d.length = true →
    exec (.bobbinWrite b off d poison) s = .next { s with answer := { data := [], poison := false, status := statusCode .rights } }) ∧
  (∀ (s : State) (b off len : Nat) (d : List Byte) (poison : Bool), s.snuffer.safe = true →
    exec (.bobbinRead b off len) s = .next { s with answer := { data := [], poison := false, status := statusCode .rights } } ∧
    exec (.bobbinWrite b off d poison) s = .next { s with answer := { data := [], poison := false, status := statusCode .rights } })

/-- Outside safe state, when the PLL of the bobbin's quarter runs, no image holds the block and the granule is neither
remapped, nor being remapped, nor retired, and no fault is injected and no merge waits on the block, BOBBIN_WRITE of
one whole block answers; afterwards the block reads as the data, its stored check is the good check of its content
when the data is clean and the poisoned one when it is poisoned, and every byte outside the block and its four check
bytes reads as before. -/
def Obligations.WholeBlockWriteSeals : Prop :=
  ∀ (s : State) (b off : Nat) (d : List Byte) (poison : Bool), b < 12 → off % 512 = 0 → d.length = 512 →
    off + 512 ≤ 0xFC0000000 → imageHolds s (b * 0x1000000000 + off) 512 = false → pll s (bobQuarter b) = .running →
    s.darner.remaps = [] → s.darner.queue = [] → s.darner.retired = [] → s.mem.corruptNext = [] → s.mem.merges = [] → s.snuffer.safe = false →
    ∃ t, exec (.bobbinWrite b off d poison) s = .next t ∧
      rbs t (b * 0x1000000000 + off) 512 = d ∧
      blockState t (b * 0x1000000000 + off) = (if poison then .poisoned else .good) ∧
      ∀ x, (x < b * 0x1000000000 + off ∨ b * 0x1000000000 + off + 512 ≤ x) →
        (x < checkAddr (b * 0x1000000000 + off) ∨ checkAddr (b * 0x1000000000 + off) + 4 ≤ x) → rb t x = rb s x

/-- With no DROWSE to leave, BAR4_READ at an offset o within the function's BAR4, of an address that R367 allows the
function and that is ready, no earlier write of the function held for the quarter, answers the bytes at BASE + o,
counted at the host port; where the run meets the image of a swapped context, whose layout the spec does not give, the
bytes are free values (log 58). Where R367 refuses, or beyond the BAR, it answers the refusal with no data; BAR4_WRITE
in those cases writes the bytes, and drops the write and counts it. SCRATCHPAD_WINDOW_ACCESS of an awake lantern bound
to a hoop by a PF or the management port, no earlier write of the requester held for its rows, reads or writes the run
at its window, counted at the host port; an access beyond the window is refused, and so is one of a lantern that no
hoop binds (that it is refused to a PF too is the model's choice, log 131). -/
def Obligations.WindowAccesses : Prop :=
  (∀ (s t : State) (who : Req) (off len : Nat), s.power.sleep ≠ 2 → off + len ≤ bar4Size who →
    bar4Ok s who (bar4Base s who + off) len = true → localReady s (bar4Who s who) (bar4Base s who + off) len false false = .ok () t →
    writeHeldAt t who (addrQuarter (bar4Base s who + off)) = false →
    ∃ r, r = readRun (hostCross t who 0 (bar4Who t who).flow len) (bar4Who t who) (bar4Base s who + off) len 0 ∧
      (imageMeets t (bar4Base s who + off) len = false → exec (.bar4Read who off len) s = .next (answerData r)) ∧
      (imageMeets t (bar4Base s who + off) len = true → exec (.bar4Read who off len) s =
        .next (answerData ({ r.1 with bytes := (freeBytes len r.2).1 }, (freeBytes len r.2).2)))) ∧
  (∀ (s : State) (who : Req) (off len : Nat), s.power.sleep ≠ 2 →
    (bar4Size who < off + len ∨ bar4Ok s who (bar4Base s who + off) len = false) →
    exec (.bar4Read who off len) s = .next { s with answer := { data := [], poison := false, status := statusCode .rights } }) ∧
  (∀ (s t : State) (who : Req) (off : Nat) (d : List Byte), s.power.sleep ≠ 2 → off + d.length ≤ bar4Size who →
    bar4Ok s who (bar4Base s who + off) d.length = true →
    localReady s (bar4Who s who) (bar4Base s who + off) d.length true false = .ok () t →
    exec (.bar4Write who off d) s =
      .next (writeRun (hostCross t who 1 (bar4Who t who).flow d.length) (bar4Who t who) (bar4Base s who + off) d false)) ∧
  (∀ (s : State) (who : Req) (off : Nat) (d : List Byte), s.power.sleep ≠ 2 →
    (bar4Size who < off + d.length ∨ bar4Ok s who (bar4Base s who + off) d.length = false) →
    exec (.bar4Write who off d) s = .next (bump s 0x900014 0)) ∧
  (∀ (s : State) (who : Req) (l off : Nat) (d : List Byte), isManager who = true → lanOk l = true → off < scratchSize (lanKind l) →
    off + d.length ≤ scratchSize (lanKind l) → (lanternHoop s l).isSome = true → lanternResetting s l = false →
    pll s (lanQuarter l) = .running → (lantern s l).power = .awake →
    rowHeld s .fe (.loc (scratchBase l + off)) d.length = false →
    exec (.scratchpadWindowAccess who l off (some d) 0) s =
      .next (reply (writeScratch (hostCross s who 1 none d.length) (scratchBase l + off) d false) [] false 0)) ∧
  (∀ (s : State) (who : Req) (l off n : Nat), isManager who = true → lanOk l = true → off < scratchSize (lanKind l) → off + n ≤ scratchSize (lanKind l) →
    (lanternHoop s l).isSome = true → lanternResetting s l = false → pll s (lanQuarter l) = .running →
    (lantern s l).power = .awake → rowHeld s .fe (.loc (scratchBase l + off)) n = false →
    exec (.scratchpadWindowAccess who l off none n) s =
      .next { hostCross s who 0 none n with answer :=
        { data := rbs s (scratchBase l + off) n, poison := scratchPoisoned s (scratchBase l + off) n, status := 0 } }) ∧
  (∀ (s : State) (who : Req) (l off n : Nat), lanternHoop s l = none → off < 0x200000 →
    exec (.scratchpadWindowAccess who l off none n) s =
      .next { s with answer := { data := [], poison := false, status := statusCode .rights } }) ∧
  (∀ (s : State) (who : Req) (l off n : Nat), 0x200000 < off + n →
    exec (.scratchpadWindowAccess who l off none n) s =
      .next { s with answer := { data := [], poison := false, status := statusCode .rights } })

/-- SCRATCHPAD_WINDOW_ACCESS by a PF or the management port that writes data within the backed bytes of the window of an
awake lantern bound to a hoop, the quarter's PLL running, no reset containing the lantern and no write of the
requester held for the rows, answers; then each byte of the run reads as the data, every other byte of local memory
reads as before, and of the poisoned words exactly those that the run covers whole are no longer poisoned. -/
def Obligations.ScratchWriteBytes : Prop :=
  ∀ (s : State) (who : Req) (l off : Nat) (d : List Byte), isManager who = true → lanOk l = true → off < scratchSize (lanKind l) →
    off + d.length ≤ scratchSize (lanKind l) → (lanternHoop s l).isSome = true → lanternResetting s l = false →
    pll s (lanQuarter l) = .running → (lantern s l).power = .awake →
    rowHeld s .fe (.loc (scratchBase l + off)) d.length = false →
    ∃ t, exec (.scratchpadWindowAccess who l off (some d) 0) s = .next t ∧
      (∀ x, rb t x = if scratchBase l + off ≤ x ∧ x < scratchBase l + off + d.length then d.getD (x - (scratchBase l + off)) 0
        else rb s x) ∧
      ∀ w, w ∈ t.mem.scratchPoison ↔ w ∈ s.mem.scratchPoison ∧ ¬(scratchBase l + off ≤ w ∧ w + 64 ≤ scratchBase l + off + d.length)

/-- STITCH of an admitted entry of type 1 whose stitch cannot be staged completes the entry with that status, and while a
read of the stitch or of a prefetch waits it keeps only what the reads began; of one whose stitch and prefetches are
read it leaves the entry staged with the stitch and its variant as the detail, and the prefetched bytes in the buffers
of their lanterns. Of any other entry it changes nothing. -/
def Obligations.StitchStages : Prop :=
  (∀ (s t : State) (q e : Nat) (f : Flight) (st : Status), flight s q e = some f → f.phase = .admitted →
    fld (wordAt f.words 0) 63 56 = 1 → stageStitch s q (wordAt f.words 6).toNat f.desc = .fail st t →
    exec (.stitch q e) s = .next (finishFlight (feDone t q) q e st)) ∧
  (∀ (s t : State) (q e : Nat) (f : Flight), flight s q e = some f → f.phase = .admitted →
    fld (wordAt f.words 0) 63 56 = 1 → stageStitch s q (wordAt f.words 6).toNat f.desc = .wait t →
    exec (.stitch q e) s = .next t) ∧
  (∀ (s u w : State) (q e : Nat) (f : Flight) (t : Stitch), flight s q e = some f → f.phase = .admitted →
    fld (wordAt f.words 0) 63 56 = 1 → stageStitch s q (wordAt f.words 6).toNat f.desc = .ok t u →
    prefetches u q t.floss t.strands.zipIdx = .wait w → exec (.stitch q e) s = .next w) ∧
  (∀ (s u w : State) (q e : Nat) (f : Flight) (t : Stitch) (ps : List (Nat × Nat × List Byte)), flight s q e = some f →
    f.phase = .admitted → fld (wordAt f.words 0) 63 56 = 1 → stageStitch s q (wordAt f.words 6).toNat f.desc = .ok t u →
    prefetches u q t.floss t.strands.zipIdx = .ok ps w →
    ∃ v, v = ps.foldl (fun s p => modLantern s p.1 (fun x => { x with prefetch := some ({ queue := q, entry := e, idx := p.2.1 }, p.2.2) }))
        (modFlight (feDone w q) q e (fun f => { f with phase := .staged, detail := t.variant, stitch := some t })) ∧
      exec (.stitch q e) s = .next (showActivity v (queueCtx v q))) ∧
  (∀ (s : State) (q e : Nat), flight s q e = none → exec (.stitch q e) s = .next s) ∧
  (∀ (s : State) (q e : Nat) (f : Flight), flight s q e = some f → f.phase ≠ .admitted ∨ fld (wordAt f.words 0) 63 56 ≠ 1 →
    exec (.stitch q e) s = .next s)

/-- From any variant table selectVariant answers a variant of the table whose widths do not exceed the hoop's in any kind;
when the table holds one of exactly the hoop's widths it is that one; otherwise no fitting variant of the table has a
larger WIDTH_M, or an equal WIDTH_M and a larger WIDTH_V, or both equal and a larger WIDTH_S; and it answers none
exactly when no variant fits. -/
def Obligations.VariantSelection : Prop :=
  ∀ (vs : List Variant) (m v sc : Nat),
    (∀ i x, selectVariant vs m v sc = some (i, x) → vs[i]? = some x ∧ x.m ≤ m ∧ x.v ≤ v ∧ x.sc ≤ sc ∧
      ((∃ y ∈ vs, y.m = m ∧ y.v = v ∧ y.sc = sc) → x.m = m ∧ x.v = v ∧ x.sc = sc) ∧
      (∀ y ∈ vs, y.m ≤ m → y.v ≤ v → y.sc ≤ sc → variantLess x y = false)) ∧
    (selectVariant vs m v sc = none ↔ ∀ y ∈ vs, ¬(y.m ≤ m ∧ y.v ≤ v ∧ y.sc ≤ sc))

/-- Outside safe state with the engines running, STITCH_CHOOSE places the saved strands of a context whose run lists have
room; while some saved strands wait it chooses nothing new; else it places the first staged stitch of the chosen
context in the run lists of its lanterns, and the SHAREs as written take effect. STRAND_START of a ready lantern with
no strand and a non-empty run list begins the first of the list, unless its context is being swapped out.
STRAND_COMPLETE of a strand that is over leaves the lantern with no strand. STITCH_STOP of a stitch one of whose
strands has ended early stops the others and completes it when all have finished. Each of them, when its condition
does not hold, changes nothing. -/
def Obligations.StrandsRun : Prop :=
  (∀ (s : State) (h c q e : Nat), s.snuffer.safe = false → enginesRun s = true →
    (hoopCtxs s h).find? (mayRestore s h) = none → (hoopCtxs s h).any (restores s) = false →
    nextContext s h = some c → firstStaged s c = some (q, e) →
    exec (.stitchChoose h) s = .next (showHoop (placeStitch (takeShares (modHoop s h (fun x => { x with favored := none })) h) h q e) h)) ∧
  (∀ (s : State) (h : Nat), s.snuffer.safe = false → enginesRun s = true →
    (hoopCtxs s h).find? (mayRestore s h) = none → (hoopCtxs s h).any (restores s) = true →
    exec (.stitchChoose h) s = .next (stall s 3)) ∧
  (∀ (s : State) (h c : Nat), s.snuffer.safe = false → enginesRun s = true →
    (hoopCtxs s h).find? (mayRestore s h) = some c →
    exec (.stitchChoose h) s = .next (showHoop (placeSaved s h c) h)) ∧
  (∀ (s : State) (h : Nat), enginesRun s = false → exec (.stitchChoose h) s = .next s) ∧
  (∀ (s u : State) (l : Nat) (r : StrandRef) (rest : List StrandRef) (f : Flight) (t : Stitch) (d : Strand),
    s.snuffer.safe = false → (lantern s l).cur = none → (lantern s l).runList = r :: rest → lanternResetting s l = false →
    (context s (queueCtx s r.queue)).leaving = false → (lanternReady s l).andThen (fun _ s => restoreClock s r) = .ok () u →
    flight u r.queue r.entry = some f → f.stitch = some t → t.strands[r.idx]? = some d →
    exec (.strandStart l) s = .next (beginStrand u l r t d)) ∧
  (∀ (s : State) (l : Nat), (lantern s l).cur ≠ none → exec (.strandStart l) s = .next s) ∧
  (∀ (s : State) (l : Nat) (r : StrandRef) (rest : List StrandRef), (lantern s l).runList = r :: rest →
    (context s (queueCtx s r.queue)).leaving = true → exec (.strandStart l) s = .next s) ∧
  (∀ (s : State) (l : Nat) (r : Running), s.snuffer.safe = false → (lantern s l).cur = some r → strandOver s l r = true →
    ∃ t, exec (.strandComplete l) s = .next t ∧ (lantern t l).cur = none ∧ t.mem = s.mem) ∧
  (∀ (s : State) (l : Nat) (r : Running), (lantern s l).cur = some r → strandOver s l r = false →
    exec (.strandComplete l) s = .next s) ∧
  (∀ (s : State) (q e l : Nat) (r : Running), s.snuffer.safe = false → l ∈ stitchLanterns s q e →
    (lantern s l).cur = some r → r.ended = true →
    exec (.stitchStop q e) s = .next (stitchCheck (stopStitch s q e) q e)) ∧
  (∀ (s : State) (q e : Nat), stitchLanterns s q e = [] → exec (.stitchStop q e) s = .next s)

/-- When a strand with no saved image begins on a lantern whose last strand belonged to another context, or whose hoop
slot was re-bound since, every byte of the lantern's scratchpad window reads as zero afterwards, its data cache is
empty, and every byte of local memory outside the window reads as before; when the context is the same and no re-bind
came between, every byte of local memory reads as before. -/
def Obligations.StrandStartIsolates : Prop :=
  ∀ (s : State) (l : Nat) (r : StrandRef) (t : Stitch) (d : Strand),
    (context s (queueCtx s r.queue)).saved = [] →
    (((lantern s l).lastCtx ≠ some (queueCtx s r.queue) ∨ (lantern s l).rebound = true) →
      (lantern (beginStrand s l r t d) l).cache = [] ∧
      ∀ x, rb (beginStrand s l r t d) x =
        if scratchBase l ≤ x ∧ x < scratchBase l + 0x200000 then 0 else rb s x) ∧
    ((lantern s l).lastCtx = some (queueCtx s r.queue) → (lantern s l).rebound = false →
      ∀ x, rb (beginStrand s l r t d) x = rb s x)

/-- When the next op of a lantern's strand may issue and has the opcode of the command, MMA (whose operands fit the open
accumulation), TRANSPOSE, CONVERT, BCAST_ADD, ZERO and CHAIN have their effect at once on the lantern's scratchpad,
the op joins those issued and not completed, the position moves to the next op, and the status the output contributes
joins the strand's. An MMA that continues an accumulation of another shape or format ends the strand with FORMAT. -/
def Obligations.TileUnitOps : Prop :=
  (∀ (s t : State) (l : Nat) (i : Issue), nextOp s l = .ok i t → opCode i.ws = 3 → mmaFits (lantern t l) i.ws = true →
    exec (.mma l) s = .next (issued (doMma t l i.st i.ws).1 l (doMma t l i.st i.ws).2)) ∧
  (∀ (s t : State) (l : Nat) (i : Issue), nextOp s l = .ok i t → opCode i.ws = 3 → mmaFits (lantern t l) i.ws = false →
    exec (.mma l) s = .next (endStrand (issued t l .ok) l .format)) ∧
  (∀ (s t : State) (l : Nat) (i : Issue), nextOp s l = .ok i t → opCode i.ws = 4 →
    exec (.transpose l) s =
      .next (issued (doTranspose t (scratchBase l) i.ws).1 l (doTranspose t (scratchBase l) i.ws).2)) ∧
  (∀ (s t : State) (l : Nat) (i : Issue), nextOp s l = .ok i t → opCode i.ws = 5 →
    exec (.convert l) s = .next (issued (doConvert t (scratchBase l) (lanQuarter l) i.st i.ws).1 l
      (doConvert t (scratchBase l) (lanQuarter l) i.st i.ws).2)) ∧
  (∀ (s t : State) (l : Nat) (i : Issue), nextOp s l = .ok i t → opCode i.ws = 6 →
    exec (.bcastAdd l) s = .next (issued (doBcastAdd t (scratchBase l) (lanQuarter l) i.st i.ws).1 l
      (doBcastAdd t (scratchBase l) (lanQuarter l) i.st i.ws).2)) ∧
  (∀ (s t : State) (l : Nat) (i : Issue), nextOp s l = .ok i t → opCode i.ws = 7 →
    exec (.zero l) s = .next (issued (doZero t (scratchBase l) i.ws) l .ok)) ∧
  (∀ (s t : State) (l : Nat) (i : Issue), nextOp s l = .ok i t → opCode i.ws = 16 →
    exec (.chain l) s = .next (issued (doChain t l i.st i.ws).1 l (doChain t l i.st i.ws).2))

/-- When the next op of a lantern's strand is a ZERO that may issue, the command answers, and afterwards each byte of the
lantern's scratchpad that one of the op's rows covers reads as zero and every other byte of local memory reads as it
did when the op was fetched. -/
def Obligations.ZeroBytes : Prop :=
  ∀ (s t : State) (l : Nat) (i : Issue), nextOp s l = .ok i t → opCode i.ws = 7 →
    ∃ u, exec (.zero l) s = .next u ∧
      (∀ x, (∃ r < lsRows i.ws, scratchBase l + lsOff i.ws r ≤ x ∧ x < scratchBase l + lsOff i.ws r + lsLen i.ws) → rb u x = 0) ∧
      (∀ x, (∀ r < lsRows i.ws, x < scratchBase l + lsOff i.ws r ∨ scratchBase l + lsOff i.ws r + lsLen i.ws ≤ x) →
        rb u x = rb t x)

/-- When the next op of a lantern's strand may issue: LOAD without a prefetch, and STORE, do their remaining pieces in
order, issue when all are done, keep how far they came while one waits, and end the strand with the status of one that
fails; LOAD with the strand's prefetched bytes writes them. ALLOC joins the allocator's queue and holds the strand.
WAIT on a fence the context may not use ends the strand with RIGHTS, on a met one it goes on, on one that carries
ERROR it ends the strand with FENCE_ERROR, and else registers the wait. SIGNAL of a local fence the context may use
signals it, of another ends the strand with RIGHTS. INVAL drops the lines that a non-empty run meets, or all. Outside
safe state TILE_OP_COMPLETE of an issued op with nothing outstanding and no write held by a remap takes it from those
issued, which is progress of the strand. Where the strand has no op that may issue, each of them changes at most what
waking the lantern or fetching the op takes. -/
def Obligations.MovesAndControlOps : Prop :=
  (∀ (s t : State) (l : Nat) (i : Issue), nextOp s l = .ok i t → opCode i.ws = 1 → prefetched t l i = none →
    exec (.load l) s = .next (byPieces l (doLoad t (opAcc t l i) (scratchBase l) (some l) i.ws (movedOf i.run)))) ∧
  (∀ (s t : State) (l : Nat) (i : Issue) (bs : List Byte), nextOp s l = .ok i t → opCode i.ws = 1 →
    prefetched t l i = some bs →
    exec (.load l) s = .next (issued (modLantern (writeRuns t ((List.range (lsRows i.ws)).map (fun r =>
      (scratchBase l + lsOff i.ws r, (bs.drop (r * lsLen i.ws)).take (lsLen i.ws)))) false) l
      (fun x => { x with prefetch := none })) l .ok)) ∧
  (∀ (s t : State) (l : Nat) (i : Issue), nextOp s l = .ok i t → opCode i.ws = 2 →
    exec (.store l) s = .next (byPieces l (doStore t (opAcc t l i) (scratchBase l) (some l) i.ws (movedOf i.run)))) ∧
  (∀ (s t : State) (l : Nat) (i : Issue) (r : Running), nextOp s l = .ok i t → opCode i.ws = 8 → (lantern t l).cur = some r →
    ∃ u, exec (.alloc l) s = .next u ∧ u.allocQ = t.allocQ ++ [.opAlloc l i.run.pos (context t i.run.ctx).hoop i.run.ctx
        (wordAt i.ws 1).toNat (opParam i.ws 5 0) (fld (wordAt i.ws 2) 63 43) (decide (opParam i.ws 15 15 = 1))] ∧
      (lantern u l).cur = some (strandHeld r i.run.pos) ∧ u.mem = t.mem) ∧
  (∀ (s t : State) (l : Nat) (i : Issue), nextOp s l = .ok i t → opCode i.ws = 9 →
    waitNow t (opFence i.ws) i.run.ctx (wordAt i.ws 2).toNat = .denied →
    exec (.wait l) s = .next (endStrand (issued t l .ok) l .rights)) ∧
  (∀ (s t : State) (l : Nat) (i : Issue) (r : Running), nextOp s l = .ok i t → opCode i.ws = 9 → (lantern t l).cur = some r →
    waitNow t (opFence i.ws) i.run.ctx (wordAt i.ws 2).toNat = .met →
    ∃ u, exec (.wait l) s = .next u ∧ u.waits = t.waits ∧ (lantern u l).cur = some { strandHeld r i.run.pos with waiting := false }) ∧
  (∀ (s t : State) (l : Nat) (i : Issue), nextOp s l = .ok i t → opCode i.ws = 9 →
    waitNow t (opFence i.ws) i.run.ctx (wordAt i.ws 2).toNat = .later →
    ∃ u, exec (.wait l) s = .next u ∧
      ({ fence := opFence i.ws, who := .lan l, value := (wordAt i.ws 2).toNat, qf2 := false } : Wait) ∈ u.waits) ∧
  (∀ (s t : State) (l : Nat) (i : Issue), nextOp s l = .ok i t → opCode i.ws = 9 →
    waitNow t (opFence i.ws) i.run.ctx (wordAt i.ws 2).toNat = .error →
    exec (.wait l) s = .next (endStrand (modLantern (issued t l .ok) l (fun x => { x with cur := x.cur.map (fun r =>
      { r with waitOp := some i.run.pos, waiting := false }) })) l .fenceError)) ∧
  (∀ (s t : State) (l : Nat) (i : Issue), nextOp s l = .ok i t → opCode i.ws = 10 →
    fenceMay t (opFence i.ws) i.run.ctx = true → (fence t (opFence i.ws)).alias_ = false →
    exec (.signal l) s = .next (signalLocal (issued t l .ok) (opFence i.ws) (wordAt i.ws 2).toNat
      (decide (opParam i.ws 12 12 = 1)) false)) ∧
  (∀ (s t : State) (l : Nat) (i : Issue), nextOp s l = .ok i t → opCode i.ws = 10 →
    fenceMay t (opFence i.ws) i.run.ctx = false →
    exec (.signal l) s = .next (endStrand (issued t l .ok) l .rights)) ∧
  (∀ (s t : State) (l : Nat) (i : Issue), nextOp s l = .ok i t → opCode i.ws = 11 → opParam i.ws 15 15 = 1 →
    ∃ u, exec (.inval l) s = .next u ∧ (lantern u l).cache = [] ∧ u.mem = t.mem) ∧
  (∀ (s t : State) (l : Nat) (i : Issue), nextOp s l = .ok i t → opCode i.ws = 11 → opParam i.ws 15 15 = 0 →
    ∃ u, exec (.inval l) s = .next u ∧ u.mem = t.mem ∧ ∀ x, x ∈ (lantern u l).cache ↔ x ∈ (lantern t l).cache ∧
      ¬(wordAt i.ws 2 ≠ 0 ∧ x.hoop = (context t i.run.ctx).hoop ∧ x.aspace = (context t i.run.ctx).aspace ∧
        x.va < (wordAt i.ws 1).toNat % 2 ^ 57 + (wordAt i.ws 2).toNat ∧ (wordAt i.ws 1).toNat % 2 ^ 57 < x.va + 128)) ∧
  (∀ (s : State) (l op : Nat) (r : Running), s.snuffer.safe = false → (lantern s l).cur = some r → op ∈ r.busy →
    r.waitOp ≠ some op → s.fab.remotes = [] → remapHeld s (fun e => decide (e = .lan l)) = false →
    ∃ u, exec (.tileOpComplete l op) s = .next u ∧ u.mem = s.mem ∧
      (lantern u l).cur = some { r with busy := r.busy.filter (fun i => i ≠ op), opAt := s.clk.wick }) ∧
  (∀ (s : State) (l op : Nat) (r : Running), (lantern s l).cur = some r → op ∉ r.busy →
    exec (.tileOpComplete l op) s = .next s) ∧
  (∀ (s t : State) (l : Nat), nextOp s l = .wait t → exec (.load l) s = .next t ∧ exec (.store l) s = .next t ∧
    exec (.alloc l) s = .next t ∧ exec (.wait l) s = .next t ∧ exec (.signal l) s = .next t ∧ exec (.inval l) s = .next t)

/-- When a live core that is not stalled has fetched its next instruction, CORE_INSTRUCTION of an instruction that writes
x[rd] with v leaves x[rd] equal to v when rd is not 0, every other x register (x0 among them) and every f and v
register as it was, the pc past the instruction (2 or 4 bytes), one more instruction retired, the flags accrued in
fcsr, local memory and every other core of the lantern unchanged; one that writes f[rd] likewise; and a jump leaves
the pc at its target and the return address in x[rd]. An integer instruction given by its word leaves the value that
the word computes in x[rd] and the pc where it goes on (the values are those of the RISC-V specifications, the model's
presumption, log 14), and a word that is none traps with cause 2 and the word. CSRRS and CSRRC of x0 or 0 put the
CSR's value in rd and write nothing; CSRRW of a writable CSR writes x[rs1] to it and puts the old value in rd; CSRRW
of a read-only one, or an instruction that names no CSR, traps with cause 2 and the word. -/
def Obligations.CoreRegisterResults : Prop :=
  (∀ (s u : State) (l c rd flags : Nat) (short : Bool) (v : Word), coreGoes s u l c (if short then 2 else 4) → (Machine.core u l c).x.length = 32 → rd < 32 →
    ∃ t, exec (.coreInstruction l c short (.setX rd v flags)) s = .next t ∧
      (∀ r, r < 32 → xr t l c r = if rd ≠ 0 ∧ r = rd then v else xr u l c r) ∧
      (Machine.core t l c).f = (Machine.core u l c).f ∧ (Machine.core t l c).v = (Machine.core u l c).v ∧
      (Machine.core t l c).pc = (Machine.core u l c).pc + (if short then 2 else 4) ∧ (Machine.core t l c).instret = (Machine.core u l c).instret + 1 ∧
      (Machine.core t l c).fcsr = (Machine.core u l c).fcsr ||| wd (flags % 32) ∧ t.mem = u.mem ∧ ∀ k, k ≠ c → Machine.core t l k = Machine.core u l k) ∧
  (∀ (s u : State) (l c rd flags : Nat) (short : Bool) (v : Word), coreGoes s u l c (if short then 2 else 4) → (Machine.core u l c).f.length = 32 → rd < 32 →
    ∃ t, exec (.coreInstruction l c short (.setF rd v flags)) s = .next t ∧
      (∀ r, r < 32 → (Machine.core t l c).f.getD r 0 = if r = rd then v else (Machine.core u l c).f.getD r 0) ∧
      (Machine.core t l c).x = (Machine.core u l c).x ∧ (Machine.core t l c).pc = (Machine.core u l c).pc + (if short then 2 else 4) ∧ t.mem = u.mem) ∧
  (∀ (s u : State) (l c rd : Nat) (short : Bool) (target : Word), coreGoes s u l c (if short then 2 else 4) → (Machine.core u l c).x.length = 32 → rd < 32 →
    ∃ t, exec (.coreInstruction l c short (.jump rd target)) s = .next t ∧ (Machine.core t l c).pc = target ∧
      (∀ r, r < 32 → xr t l c r = if rd ≠ 0 ∧ r = rd then (Machine.core u l c).pc + (if short then 2 else 4) else xr u l c r)) ∧
  (∀ (s u : State) (l c : Nat) (w : BitVec 32), coreGoes s u l c → (Machine.core u l c).x.length = 32 → WellFormed.intWordOk w.toNat = true →
    ∃ t r, r = intResult (Machine.core u l c) w.toNat ∧ exec (.coreInstruction l c false (.int w)) s = .next t ∧ (Machine.core t l c).pc = r.2 ∧
      (∀ k, k < 32 → xr t l c k = if k ≠ 0 ∧ k = w.toNat / 2 ^ 7 % 32 then r.1.getD (xr u l c k) else xr u l c k) ∧
      (Machine.core t l c).instret = (Machine.core u l c).instret + 1 ∧ t.mem = u.mem) ∧
  (∀ (s u : State) (l c : Nat) (w : BitVec 32), coreGoes s u l c → WellFormed.intWordOk w.toNat = false →
    exec (.coreInstruction l c false (.int w)) s = .next (coreTrap u l c 2 (wd w.toNat))) ∧
  (∀ (s u v : State) (l c : Nat) (w : BitVec 32) (old : Word), coreGoes s u l c → (Machine.core u l c).x.length = 32 →
    csrValue u l c (w.toNat / 2 ^ 20) = (some old, v) → w.toNat / 2 ^ 12 % 4 ≠ 0 →
    ∃ f, f = (fun new : Word => csrPut (w.toNat / 2 ^ 20) new (Machine.core v l c)) ∧
      (w.toNat / 2 ^ 12 % 4 ≠ 1 → w.toNat / 2 ^ 15 % 32 = 0 →
        exec (.coreInstruction l c false (.csr w)) s = .next (retire v l c 4 (setX (w.toNat / 2 ^ 7 % 32) old))) ∧
      (w.toNat / 2 ^ 12 % 8 = 1 → ∀ k, f (xr u l c (w.toNat / 2 ^ 15 % 32)) = some k →
        ∃ t, exec (.coreInstruction l c false (.csr w)) s = .next t ∧ (Machine.core t l c).fcsr = k.fcsr ∧ (Machine.core t l c).vcsr = k.vcsr ∧
          (Machine.core t l c).vstart = k.vstart ∧
          (w.toNat / 2 ^ 7 % 32 ≠ 0 → k.x = (Machine.core v l c).x → (Machine.core v l c).x.length = 32 → xr t l c (w.toNat / 2 ^ 7 % 32) = old)) ∧
      (w.toNat / 2 ^ 12 % 8 = 1 → f (xr u l c (w.toNat / 2 ^ 15 % 32)) = none →
        exec (.coreInstruction l c false (.csr w)) s = .next (coreTrap u l c 2 (wd w.toNat)))) ∧
  (∀ (s u v : State) (l c : Nat) (w : BitVec 32), coreGoes s u l c → csrValue u l c (w.toNat / 2 ^ 20) = (none, v) →
    exec (.coreInstruction l c false (.csr w)) s = .next (coreTrap u l c 2 (wd w.toNat)))

/-- When a live core that is not stalled has fetched its next instruction: a load whose read succeeds clean retires with
the loaded value, of one that gives poison the strand ends with POISON; a store retires once written; AMO, LR and SC
that are misaligned trap with cause 6, 4 and 6 at their address; aligned, and at a home they may reach, AMO writes the
operation's value of the old word and x[rs2] there and gives the old word, LR keeps a reservation of the home's row
and gives the word, and SC writes x[rs2] and gives 0 while that reservation stands and else gives 1. With rl, and for
a FENCE whose predecessors name memory, they wait while a write of the core to this node's memory has not landed.
CBO.INVAL drops the line from the core's data L1 and retires, CBO.CLEAN and CBO.FLUSH retire once the core's stores to
the line are acknowledged and wait before, XDRAIN once all its writes are, CBO.ZERO retires once 64 zero bytes are
written. -/
def Obligations.CoreAccesses : Prop :=
  (∀ (s u t : State) (l c rd rs1 size : Nat) (off : Int) (short signed : Bool) (d : Data), coreGoes s u l c (if short then 2 else 4) →
    coreRead u l c (coreAddr u l c rs1 off) size = .ok d t →
    exec (.coreInstruction l c short (.load rd rs1 off size signed)) s =
      .next (if d.poison = true then endStrand t l .poison
        else retire t l c (if short then 2 else 4) (setX rd (extend d.bytes signed)))) ∧
  (∀ (s u t : State) (l c rs1 rs2 size : Nat) (off : Int) (short : Bool), coreGoes s u l c (if short then 2 else 4) →
    coreWrite u l c (coreAddr u l c rs1 off) (leBytes size (xr u l c rs2).toNat) = .ok () t →
    exec (.coreInstruction l c short (.store rs1 rs2 off size)) s = .next (retire t l c (if short then 2 else 4) id)) ∧
  (∀ (s u : State) (l c rd rs1 rs2 : Nat) (op : AmoOp) (double aq rl : Bool), coreGoes s u l c →
    ((xr u l c rs1).toNat % 2 ^ 57) % (if double then 8 else 4) ≠ 0 →
    exec (.amo l c op double aq rl rd rs1 rs2) s = .next (coreTrap u l c 6 (wd ((xr u l c rs1).toNat % 2 ^ 57))) ∧
    exec (.lr l c double aq rl rd rs1) s = .next (coreTrap u l c 4 (wd ((xr u l c rs1).toNat % 2 ^ 57))) ∧
    exec (.sc l c double aq rl rd rs1 rs2) s = .next (coreTrap u l c 6 (wd ((xr u l c rs1).toNat % 2 ^ 57)))) ∧
  (∀ (s u : State) (l c rs1 : Nat), coreGoes s u l c →
    exec (.cboInval l c rs1) s =
      .next (retire (dropL1 u l c (coreAcc u l c) (alignDown ((xr u l c rs1).toNat % 2 ^ 57) 64) 64) l c 4 id)) ∧
  (∀ (s u : State) (l c rs1 : Nat), coreGoes s u l c → lineBusy u l c (xr u l c rs1).toNat = false →
    exec (.cboClean l c rs1) s = .next (retire u l c 4 id) ∧
    exec (.cboFlush l c rs1) s =
      .next (retire (dropL1 u l c (coreAcc u l c) (alignDown ((xr u l c rs1).toNat % 2 ^ 57) 64) 64) l c 4 id)) ∧
  (∀ (s u : State) (l c : Nat), coreGoes s u l c → engBusy u (.core l c) = false →
    exec (.xdrain l c) s = .next (retire u l c 4 id)) ∧
  (∀ (s u : State) (l c rs1 : Nat), coreGoes s u l c → lineBusy u l c (xr u l c rs1).toNat = true →
    exec (.cboClean l c rs1) s = .next u ∧ exec (.cboFlush l c rs1) s = .next u) ∧
  (∀ (s u : State) (l c : Nat), coreGoes s u l c → engBusy u (.core l c) = true → exec (.xdrain l c) s = .next u) ∧
  (∀ (s u t : State) (l c rs1 : Nat), coreGoes s u l c →
    coreWrite u l c (alignDown ((xr u l c rs1).toNat % 2 ^ 57) 64) (List.replicate 64 0) = .ok () t →
    exec (.cboZero l c rs1) s = .next (retire t l c 4 id)) ∧
  (∀ (s u t : State) (l c rd rs1 rs2 home va n : Nat) (op : AmoOp) (double aq rl : Bool), coreGoes s u l c →
    va = (xr u l c rs1).toNat % 2 ^ 57 → n = (if double then 8 else 4) → va % n = 0 → atomicHome u l c va n true rl = .ok home t →
    ∃ r w, r = homeRead t l c va home n ∧
      w = homeWrite r.2 l c va home (leBytes n (amoValue op (8 * n) (leNat r.1.bytes) (xr t l c rs2).toNat)) r.1.poison ∧
      exec (.amo l c op double aq rl rd rs1 rs2) s =
        .next (if r.1.poison = true then endStrand w l .poison else coreRet w l c rd (extend r.1.bytes true))) ∧
  (∀ (s u t : State) (l c rd rs1 home va n : Nat) (double aq rl : Bool), coreGoes s u l c →
    va = (xr u l c rs1).toNat % 2 ^ 57 → n = (if double then 8 else 4) → va % n = 0 → atomicHome u l c va n false rl = .ok home t →
    ∃ r w, r = homeRead t l c va home n ∧
      w = { r.2 with mem := { r.2.mem with resv := resvAdd r.2.mem.resv l c home } } ∧
      exec (.lr l c double aq rl rd rs1) s =
        .next (if r.1.poison = true then endStrand w l .poison else coreRet w l c rd (extend r.1.bytes true))) ∧
  (∀ (s u t : State) (l c rd rs1 rs2 home va n : Nat) (double aq rl : Bool), coreGoes s u l c →
    va = (xr u l c rs1).toNat % 2 ^ 57 → n = (if double then 8 else 4) → va % n = 0 → atomicHome u l c va n true rl = .ok home t →
    ∃ v, v = (if { l := l, c := c, row := alignDown home 128 } ∈ t.mem.resv then homeWrite t l c va home (leBytes n (xr t l c rs2).toNat) false
        else t) ∧
      exec (.sc l c double aq rl rd rs1 rs2) s = .next (coreRet
        { v with mem := { v.mem with resv := v.mem.resv.filter (fun x => !(decide (x.l = l) && decide (x.c = c))) } } l c rd (if { l := l, c := c, row := alignDown home 128 } ∈ t.mem.resv then 0 else 1))) ∧
  (∀ (s u : State) (l c rd rs1 rs2 va n : Nat) (op : AmoOp) (double aq : Bool), coreGoes s u l c →
    va = (xr u l c rs1).toNat % 2 ^ 57 → n = (if double then 8 else 4) → va % n = 0 → releaseWaits u l c = true →
    exec (.amo l c op double aq true rd rs1 rs2) s = .next u ∧ exec (.lr l c double aq true rd rs1) s = .next u ∧
    exec (.sc l c double aq true rd rs1 rs2) s = .next u) ∧
  (∀ (s u : State) (l c pred succ : Nat), coreGoes s u l c →
    exec (.coreInstruction l c false (.fence pred succ)) s =
      .next (if pred % 4 ≠ 0 ∧ releaseWaits u l c = true then u else retire u l c 4 id))

/-- When a live core that is not stalled has fetched its next instruction and x[rs1] is an aligned address in the local
aperture whose word is not poisoned, no write of the core held for the row, and none for this node's memory where rl
is set: AMO leaves in the word the operation's value of the old word and x[rs2], every other byte of local memory as
it was, and the old word, sign-extended, in rd; LR leaves a reservation of the core on the word's 128-byte row as its
only one, and the word in rd; SC while that reservation stands writes x[rs2] to the word, gives 0 in rd and ends the
reservation, and without it writes nothing and gives 1. -/
def Obligations.ApertureAtomics : Prop :=
  (∀ (s u : State) (l c rd rs1 rs2 : Nat) (op : AmoOp) (double aq rl : Bool) (va n : Nat), coreGoes s u l c →
    va = (xr u l c rs1).toNat % 2 ^ 57 → n = (if double then 8 else 4) → va % n = 0 → inAperture va = true →
    (rl = true → releaseWaits u l c = false) → rowHeld u (.core l c) (.loc (apertureAt l va)) n = false →
    scratchPoisoned u (apertureAt l va) n = false → (Machine.core u l c).x.length = 32 → rd < 32 →
    ∃ t, exec (.amo l c op double aq rl rd rs1 rs2) s = .next t ∧
      leNat (rbs t (apertureAt l va) n) =
        amoValue op (8 * n) (leNat (rbs u (apertureAt l va) n)) (xr u l c rs2).toNat % 2 ^ (8 * n) ∧
      (∀ x, (x < apertureAt l va ∨ apertureAt l va + n ≤ x) → rb t x = rb u x) ∧
      (rd ≠ 0 → xr t l c rd = extend (rbs u (apertureAt l va) n) true)) ∧
  (∀ (s u : State) (l c rd rs1 : Nat) (double aq rl : Bool) (va n : Nat), coreGoes s u l c →
    va = (xr u l c rs1).toNat % 2 ^ 57 → n = (if double then 8 else 4) → va % n = 0 → inAperture va = true →
    (rl = true → releaseWaits u l c = false) → rowHeld u (.core l c) (.loc (apertureAt l va)) n = false →
    scratchPoisoned u (apertureAt l va) n = false → (Machine.core u l c).x.length = 32 → rd < 32 →
    ∃ t, exec (.lr l c double aq rl rd rs1) s = .next t ∧
      (∀ r, r ∈ t.mem.resv ∧ r.l = l ∧ r.c = c ↔ r = { l := l, c := c, row := alignDown (apertureAt l va) 128 }) ∧
      t.mem.cells = u.mem.cells ∧ (rd ≠ 0 → xr t l c rd = extend (rbs u (apertureAt l va) n) true)) ∧
  (∀ (s u : State) (l c rd rs1 rs2 : Nat) (double aq rl : Bool) (va n : Nat), coreGoes s u l c →
    va = (xr u l c rs1).toNat % 2 ^ 57 → n = (if double then 8 else 4) → va % n = 0 → inAperture va = true →
    (rl = true → releaseWaits u l c = false) → rowHeld u (.core l c) (.loc (apertureAt l va)) n = false →
    { l := l, c := c, row := alignDown (apertureAt l va) 128 } ∈ u.mem.resv → (Machine.core u l c).x.length = 32 → rd < 32 →
    ∃ t, exec (.sc l c double aq rl rd rs1 rs2) s = .next t ∧
      rbs t (apertureAt l va) n = leBytes n (xr u l c rs2).toNat ∧
      (∀ x, (x < apertureAt l va ∨ apertureAt l va + n ≤ x) → rb t x = rb u x) ∧
      (∀ r ∈ t.mem.resv, ¬(r.l = l ∧ r.c = c)) ∧ (rd ≠ 0 → xr t l c rd = 0)) ∧
  (∀ (s u : State) (l c rd rs1 rs2 : Nat) (double aq rl : Bool) (va n : Nat), coreGoes s u l c →
    va = (xr u l c rs1).toNat % 2 ^ 57 → n = (if double then 8 else 4) → va % n = 0 → inAperture va = true →
    (rl = true → releaseWaits u l c = false) → rowHeld u (.core l c) (.loc (apertureAt l va)) n = false →
    (∀ r ∈ u.mem.resv, ¬(r.l = l ∧ r.c = c ∧ r.row = alignDown (apertureAt l va) 128)) → (Machine.core u l c).x.length = 32 → rd < 32 →
    ∃ t, exec (.sc l c double aq rl rd rs1 rs2) s = .next t ∧ t.mem.cells = u.mem.cells ∧ (rd ≠ 0 → xr t l c rd = 1))

/-- When a live core that is not stalled has fetched its next instruction: XFREAD of a fence the strand's context may use
puts its value in rd; XWAIT on a met fence gives 0 in rd, on one that carries ERROR gives 1 with TRY and else ends the
strand with FENCE_ERROR, on one not met yet stalls the core with a wait registered; XSIGNAL of a local fence, the
core's earlier work completed, signals it and retires. Each on a fence the context may not use ends the strand with
RIGHTS, and with a reserved bit of rs1 set ends it with FORMAT. -/
def Obligations.CoreFences : Prop :=
  (∀ (s u : State) (l c rd rs1 f : Nat), coreGoes s u l c → xFence (xr u l c rs1) = some f → fenceMay u f (lanCtx u l) = true →
    exec (.xfread l c rd rs1) s = .next (coreRet u l c rd (wd (fence u f).value))) ∧
  (∀ (s u : State) (l c rd rs1 rs2 f : Nat) (tryFlag : Bool), coreGoes s u l c → xFence (xr u l c rs1) = some f →
    waitNow u f (lanCtx u l) (xr u l c rs2).toNat = .met →
    exec (.xwait l c rd rs1 rs2 tryFlag) s = .next (coreRet u l c rd 0)) ∧
  (∀ (s u : State) (l c rd rs1 rs2 f : Nat) (tryFlag : Bool), coreGoes s u l c → xFence (xr u l c rs1) = some f →
    waitNow u f (lanCtx u l) (xr u l c rs2).toNat = .error →
    exec (.xwait l c rd rs1 rs2 tryFlag) s =
      .next (if tryFlag = true then coreRet u l c rd 1 else endStrand u l .fenceError)) ∧
  (∀ (s u : State) (l c rd rs1 rs2 f : Nat) (tryFlag : Bool), coreGoes s u l c → xFence (xr u l c rs1) = some f →
    waitNow u f (lanCtx u l) (xr u l c rs2).toNat = .later →
    ∃ t, exec (.xwait l c rd rs1 rs2 tryFlag) s = .next t ∧ (Machine.core t l c).stall = .fence f rd tryFlag ∧
      ({ fence := f, who := .core l c, value := (xr u l c rs2).toNat, qf2 := false } : Wait) ∈ t.waits ∧
      (Machine.core t l c).pc = (Machine.core u l c).pc) ∧
  (∀ (s u : State) (l c rs1 rs2 f : Nat) (err : Bool), coreGoes s u l c → xFence (xr u l c rs1) = some f →
    fenceMay u f (lanCtx u l) = true → (fence u f).alias_ = false → coreQuiet u l c = true →
    exec (.xsignal l c rs1 rs2 err) s = .next (retire (signalLocal u f (xr u l c rs2).toNat err false) l c 4 id)) ∧
  (∀ (s u : State) (l c rd rs1 rs2 f : Nat) (b : Bool), coreGoes s u l c → xFence (xr u l c rs1) = some f →
    fenceMay u f (lanCtx u l) = false →
    exec (.xfread l c rd rs1) s = .next (endStrand u l .rights) ∧
    exec (.xwait l c rd rs1 rs2 b) s = .next (endStrand u l .rights) ∧
    exec (.xsignal l c rs1 rs2 b) s = .next (endStrand u l .rights)) ∧
  (∀ (s u : State) (l c rd rs1 rs2 : Nat) (b : Bool), coreGoes s u l c → xFence (xr u l c rs1) = none →
    exec (.xfread l c rd rs1) s = .next (endStrand u l .format) ∧
    exec (.xwait l c rd rs1 rs2 b) s = .next (endStrand u l .format) ∧
    exec (.xsignal l c rs1 rs2 b) s = .next (endStrand u l .format))

/-- When a live core that is not stalled has fetched its next instruction: XTILE at a 64-byte-aligned address whose op is
read clean and valid submits it under the next ticket, which goes to rd, and at another address ends the strand with
FORMAT; XTSYNC of a ticket whose ops have all completed gives 5 in rd when one of them was poisoned and else 0, and of
a ticket never given ends the strand with FORMAT; XPICOT of a local place issues an 8-byte picot write; XCINV with a
length of 0 empties the core's data L1, or all eight cores'; XALLOC and XFREE join the allocator's queue and stall the
core; XEXIT with 0 or 1 ends the core's part with OK or ABORTED, with another value it ends the strand with FORMAT; at
the exit address whatever is issued acts as XEXIT with x10. The word of the custom-0 or custom-1 opcode that encodes
one of these or of the fence instructions has its effect, and one that encodes none traps with cause 2 and the word.
CORE_EXCEPTION of a core that executes ends the strand with the status of its cause, after its trap record is written
where the strand gives a record address; of one that does not it changes nothing. A WRS.STO wait ends after its time
and retires. -/
def Obligations.CoreXetp : Prop :=
  (∀ (s u t : State) (l c rd rs1 : Nat) (d : Data), coreGoes s u l c → (xr u l c rs1).toNat % 2 ^ 57 % 64 = 0 →
    (lantern u l).dma.length < 32 → coreRead u l c ((xr u l c rs1).toNat % 2 ^ 57) 64 = .ok d t → d.poison = false →
    tileOpOk 2 (((lantern u l).cur.bind (strandOf u)).map (fun p => p.1.det) == some true) (toWords d.bytes) = true →
    (Machine.core t l c).on = true → (Machine.core t l c).x.length = 32 → rd < 32 →
    ∃ v, exec (.xtile l c rd rs1) s = .next v ∧ (Machine.core v l c).tickets = (Machine.core t l c).tickets + 1 ∧
      (lantern v l).dma = (lantern t l).dma ++ [submitted c ((Machine.core t l c).tickets + 1) (toWords d.bytes)] ∧
      (rd ≠ 0 → xr v l c rd = wd ((Machine.core t l c).tickets + 1))) ∧
  (∀ (s u : State) (l c rd rs1 : Nat), coreGoes s u l c → (xr u l c rs1).toNat % 2 ^ 57 % 64 ≠ 0 →
    exec (.xtile l c rd rs1) s = .next (endStrand u l .format)) ∧
  (∀ (s u : State) (l c rd rs1 : Nat), coreGoes s u l c → (xr u l c rs1).toNat ≤ (Machine.core u l c).tickets →
    (∀ d ∈ (lantern u l).dma, d.core = c → (xr u l c rs1).toNat < d.ticket) →
    exec (.xtsync l c rd rs1) s = .next (coreRet u l c rd
      (if (Machine.core u l c).poisoned.any (fun t => decide (t ≤ (xr u l c rs1).toNat)) = true then 5 else 0))) ∧
  (∀ (s u : State) (l c rd rs1 : Nat), coreGoes s u l c → (Machine.core u l c).tickets < (xr u l c rs1).toNat →
    exec (.xtsync l c rd rs1) s = .next (endStrand u l .format)) ∧
  (∀ (s u t : State) (l c rs1 rs2 : Nat) (p : Piece) (a : Nat), coreGoes s u l c → (xr u l c rs1).toNat % 2 ^ 57 % 8 = 0 →
    inAperture ((xr u l c rs1).toNat % 2 ^ 57) = false →
    placeVa u (storeAcc u l c ((xr u l c rs1).toNat % 2 ^ 57)) ((xr u l c rs1).toNat % 2 ^ 57) 8 1 true = .ok p t → p.place = .loc a →
    ∃ v w, exec (.xpicot l c rs1 rs2) s = .next v ∧ v.fab.picots = t.fab.picots ++ [w] ∧ w.place = .loc a ∧
      w.data = leBytes 8 (xr t l c rs2).toNat ∧ v.mem = t.mem) ∧
  (∀ (s u : State) (l c rs1 rs2 : Nat), coreGoes s u l c → (xr u l c rs2).toNat = 0 →
    ∃ v, exec (.xcinv l c rs1 rs2 false) s = .next v ∧ (Machine.core v l c).l1 = [] ∧ v.mem = u.mem ∧ (Machine.core v l c).pc = (Machine.core u l c).pc + 4) ∧
  (∀ (s u : State) (l c rd rs1 rs2 : Nat) (soft : Bool), coreGoes s u l c → (xr u l c rs1).toNat ≠ 0 →
    (xr u l c rs2).toNat ≤ 21 →
    ∃ v, exec (.xalloc l c rd rs1 rs2 soft) s = .next v ∧ (Machine.core v l c).stall = .alloc ∧
      v.allocQ = u.allocQ ++ [.coreAlloc l c (context u (lanCtx u l)).hoop (lanCtx u l) (xr u l c rs1).toNat
        (Nat.max 6 (xr u l c rs2).toNat) rd soft]) ∧
  (∀ (s u : State) (l c rs1 : Nat), coreGoes s u l c →
    ∃ v, exec (.xfree l c rs1) s = .next v ∧ (Machine.core v l c).stall = .alloc ∧
      v.allocQ = u.allocQ ++ [.coreFree l c (context u (lanCtx u l)).hoop (lanCtx u l) (xr u l c rs1).toNat]) ∧
  (∀ (s u : State) (l c rs1 : Nat), coreGoes s u l c → (xr u l c rs1).toNat ≤ 1 →
    ∃ v, exec (.xexit l c rs1) s = .next v ∧ (Machine.core v l c).ended = true ∧
      (Machine.core v l c).status = (if xr u l c rs1 = 1 then .aborted else .ok)) ∧
  (∀ (s u : State) (l c rs1 : Nat), coreGoes s u l c → 1 < (xr u l c rs1).toNat →
    exec (.xexit l c rs1) s = .next (endStrand u l .format)) ∧
  (∀ (s : State) (l c rs1 : Nat), coreLive s l c = true → lanternReady s l = .ok () s → wrsOver s l c = false →
    (Machine.core s l c).stall = .none → (Machine.core s l c).pc = exitAddr →
    exec (.xexit l c rs1) s = .next (coreExit s l c (xr s l c 10))) ∧
  (∀ (s : State) (l c cause : Nat) (tval : Word) (r : Running) (st : Status), coreLive s l c = true →
    (lantern s l).cur = some r → strandOf s r = none → causeStatus cause = some st →
    exec (.coreException l c cause tval) s = .next (endStrand s l st)) ∧
  (∀ (s : State) (l c cause : Nat) (tval : Word) (r : Running) (t : Stitch) (d : Strand) (st : Status), coreLive s l c = true →
    (lantern s l).cur = some r → strandOf s r = some (t, d) → causeStatus cause = some st →
    ((wordAt (d.first.getD 0 []) 1).toNat = 0 → exec (.coreException l c cause tval) s = .next (endStrand s l st)) ∧
    (∀ u, (wordAt (d.first.getD 0 []) 1).toNat ≠ 0 →
      writeTrap s l c (wordAt (d.first.getD 0 []) 1).toNat (trapRecord s l c cause st tval) = .ok () u →
      exec (.coreException l c cause tval) s = .next (endStrand u l st))) ∧
  (∀ (s : State) (l c cause : Nat) (tval : Word), coreLive s l c = false →
    exec (.coreException l c cause tval) s = .next s) ∧
  (∀ (s u : State) (l c rd rs1 rs2 : Nat) (b : Bool), coreGoes s u l c → rd < 32 → rs1 < 32 → rs2 < 32 →
    exec (.coreInstruction l c false (.custom (xWord 0x0B 0 rd rs1 rs2 b))) s = exec (.xwait l c rd rs1 rs2 b) s ∧
    exec (.coreInstruction l c false (.custom (xWord 0x0B 1 0 rs1 rs2 b))) s = exec (.xsignal l c rs1 rs2 b) s ∧
    exec (.coreInstruction l c false (.custom (xWord 0x0B 2 rd rs1 0 false))) s = exec (.xfread l c rd rs1) s ∧
    exec (.coreInstruction l c false (.custom (xWord 0x0B 3 rd rs1 0 false))) s = exec (.xtile l c rd rs1) s ∧
    exec (.coreInstruction l c false (.custom (xWord 0x0B 4 rd rs1 0 false))) s = exec (.xtsync l c rd rs1) s ∧
    exec (.coreInstruction l c false (.custom (xWord 0x0B 5 0 rs1 rs2 false))) s = exec (.xpicot l c rs1 rs2) s ∧
    exec (.coreInstruction l c false (.custom (xWord 0x0B 6 0 rs1 rs2 b))) s = exec (.xcinv l c rs1 rs2 b) s ∧
    exec (.coreInstruction l c false (.custom (xWord 0x0B 7 0 0 0 false))) s = exec (.xdrain l c) s ∧
    exec (.coreInstruction l c false (.custom (xWord 0x2B 0 rd rs1 rs2 b))) s = exec (.xalloc l c rd rs1 rs2 b) s ∧
    exec (.coreInstruction l c false (.custom (xWord 0x2B 1 0 rs1 0 false))) s = exec (.xfree l c rs1) s ∧
    exec (.coreInstruction l c false (.custom (xWord 0x2B 2 0 rs1 0 false))) s = exec (.xexit l c rs1) s) ∧
  (∀ (s u : State) (l c : Nat) (w : BitVec 32), coreGoes s u l c → xetpOk w.toNat = false →
    exec (.coreInstruction l c false (.custom w)) s = .next (coreTrap u l c 2 (wd w.toNat))) ∧
  (∀ (s : State) (l c : Nat), coreLive s l c = true → (Machine.core s l c).stall = .wrs true →
    exec (.wrsStoTimeout l c) s = .next (retire s l c 4 id))

/-- Outside safe state with the strand running and the lantern ready, DMA_OP_START of the first op, when it has not
started, may start and its work is a ZERO, writes the zeros and leaves the op issued; with no op in the queue it
changes nothing. DMA_OP_COMPLETE of an issued op with no request outstanding and no write held by a remap takes it out
of the queue, noting its ticket when it was poisoned, and leaves local memory as it was. -/
def Obligations.DmaOps : Prop :=
  (∀ (s u : State) (l : Nat) (r : Running) (t : Stitch) (d : Strand) (o : DmaOp) (back : List DmaOp), s.snuffer.safe = false →
    (lantern s l).dma = o :: back → o.running = false → (lantern s l).cur = some r → r.ended = false →
    strandOf s r = some (t, d) → lanternReady s l = .ok () u → dmaMay [] o = true → opCode o.op = 7 →
    ∃ v, exec (.dmaOpStart l) s = .next v ∧ v.mem = (doZero u (scratchBase l) o.op).mem ∧
      ∃ o' rest, (lantern v l).dma = o' :: rest ∧ o'.issued = true ∧ o'.core = o.core ∧ o'.ticket = o.ticket) ∧
  (∀ (s : State) (l : Nat), (lantern s l).dma = [] → lanternReady s l = .ok () s → exec (.dmaOpStart l) s = .next s) ∧
  (∀ (s : State) (l : Nat) (o : DmaOp) (back : List DmaOp), s.snuffer.safe = false → (lantern s l).dma = o :: back →
    o.issued = true → o.waiting = false → s.fab.remotes = [] → remapHeld s (fun e => decide (e = .dma l)) = false →
    ∃ v, exec (.dmaOpComplete l o.core o.ticket) s = .next v ∧ v.mem = s.mem ∧
      (∀ e, e ∈ (lantern v l).dma ↔ e ∈ (lantern s l).dma ∧ ¬(e.core = o.core ∧ e.ticket = o.ticket))) ∧
  (∀ (s : State) (l c ticket : Nat), (∀ d ∈ (lantern s l).dma, ¬(d.core = c ∧ d.ticket = ticket)) →
    exec (.dmaOpComplete l c ticket) s = .next s)

/-- SLOT_OPEN of an admitted entry of type 5 with a malformed descriptor completes with FORMAT; naming a slot that is not
FREE, that the hoop does not hold, or a fence the context may not use, it completes with RIGHTS; otherwise, once the
clocks of its quarter run, the words that stand in its mailbox are dropped, the slot is OPEN with the descriptor, both
query and both partial credits, numbering from request 1, its status record is owed and written when it can be, and
the entry completes. SLOT_CLOSE of a slot that is FREE or of another context completes with RIGHTS; of the context's
own slot it closes the slot, once those clocks run, and once nothing is left to write and no ring write is outstanding
it leaves the slot FREE and completes with OK, or with the reason when the slot had FAILED. -/
def Obligations.SlotsOpenAndClose : Prop :=
  (∀ (s : State) (q e : Nat) (f : Flight), flight s q e = some f → f.phase = .admitted → fld (wordAt f.words 0) 63 56 = 5 →
    slotDescOk f.desc = false → exec (.slotOpen q e) s = .next (finishFlight s q e .format)) ∧
  (∀ (s : State) (q e : Nat) (f : Flight), flight s q e = some f → f.phase = .admitted → fld (wordAt f.words 0) 63 56 = 5 →
    slotDescOk f.desc = true → (slot s (fld (wordAt f.words 0) 7 0)).state ≠ 0 ∨
      descSlot (hoop s (queueHoop s q)).desc (fld (wordAt f.words 0) 7 0) = false ∨
      (∃ g ∈ [csCountFence f.desc, csReqFence f.desc, csDoneFence f.desc], fenceMay s g (queueCtx s q) = false) →
    exec (.slotOpen q e) s = .next (finishFlight s q e .rights)) ∧
  (∀ (s : State) (q e n : Nat) (f : Flight), flight s q e = some f → f.phase = .admitted →
    fld (wordAt f.words 0) 63 56 = 5 → n = fld (wordAt f.words 0) 7 0 → slotDescOk f.desc = true → (slot s n).state = 0 →
    descSlot (hoop s (queueHoop s q)).desc n = true →
    (∀ g ∈ [csCountFence f.desc, csReqFence f.desc, csDoneFence f.desc], fenceMay s g (queueCtx s q) = true) →
    (∀ t, needClock s (n / 64) = .wait t → exec (.slotOpen q e) s = .next t) ∧
    (pll s (n / 64) = .running → ∃ u, u = dropMail s n ∧ exec (.slotOpen q e) s =
      .next (finishFlight (armSlot (pumpOut 2 { u with slots := tput u.slots n (openedSlot u q f.desc) } n) n) q e .ok))) ∧
  (∀ (s : State) (q e : Nat) (f : Flight), flight s q e = some f → f.phase = .admitted → fld (wordAt f.words 0) 63 56 = 6 →
    (slot s (fld (wordAt f.words 0) 7 0)).state = 0 ∨ (slot s (fld (wordAt f.words 0) 7 0)).ctx ≠ queueCtx s q →
    exec (.slotClose q e) s = .next (finishFlight s q e .rights)) ∧
  (∀ (s : State) (q e n : Nat) (f : Flight), flight s q e = some f → f.phase = .admitted →
    fld (wordAt f.words 0) 63 56 = 6 → n = fld (wordAt f.words 0) 7 0 → (slot s n).state ≠ 0 →
    (slot s n).ctx = queueCtx s q → pll s (n / 64) = .running → slotQuiet (closeSlot s n) n = true →
    exec (.slotClose q e) s = .next (finishFlight (freeSlot (closeSlot s n) n) q e (slot s n).reason)) ∧
  (∀ (s : State) (q e n : Nat) (f : Flight), flight s q e = some f → f.phase = .admitted →
    fld (wordAt f.words 0) 63 56 = 6 → n = fld (wordAt f.words 0) 7 0 → (slot s n).state ≠ 0 →
    (slot s n).ctx = queueCtx s q → pll s (n / 64) = .running → slotQuiet (closeSlot s n) n = false → exec (.slotClose q e) s = .next (closeSlot s n)) ∧
  (∀ (s t : State) (q e n : Nat) (f : Flight), flight s q e = some f → f.phase = .admitted →
    fld (wordAt f.words 0) 63 56 = 6 → n = fld (wordAt f.words 0) 7 0 → (slot s n).state ≠ 0 →
    (slot s n).ctx = queueCtx s q → needClock s (n / 64) = .wait t → exec (.slotClose q e) s = .next t)

/-- Outside safe state: CSE_REQUEST_START of a slot that after its answers is not OPEN, or whose REQ_FENCE has not reached
its next number, does no more; of one whose next request may start, and that is in no reset, it starts the request and
reads its entry, positions and query, or goes on reading those of a request already started; the request completes at
home with FENCE_ERROR when the fence carries an error, with POISON when the entry is poisoned, and with FORMAT when it
breaks its rules. CSE_PASS_START of a slot with no pass in progress and one request, its query sent on, that wants its
first pass, the count within the capacity, begins the pass with the value of COUNT_FENCE. CSE_PASS_END with no pass in
progress takes answers only; of a pass whose blocks are all done and whose partials its local partial buffer takes it
ends the pass. RING_TIMEOUT of an OPEN slot of a ring that awaits a message or a credit and has heard nothing for
RING_TIMEOUT fails it with TIMEOUT; of a slot not OPEN it changes nothing. -/
def Obligations.SlotPasses : Prop :=
  (∀ (s : State) (n : Nat), s.snuffer.safe = false → (slot (runSlot s n) n).state ≠ 1 →
    exec (.cseRequestStart n) s = .next (runSlot s n)) ∧
  (∀ (s u : State) (n i : Nat) (r : SlotReq), s.snuffer.safe = false → u = runSlot s n → (slot u n).state = 1 →
    quarterRuns u (n / 64) = true → (slot u n).reqs.zipIdx.find? (fun p => p.1.loading) = some (r, i) → pll u (n / 64) = .running →
    exec (.cseRequestStart n) s = .next (runSlot (loadReq u n i (slot u n) r) n)) ∧
  (∀ (s u : State) (n : Nat), s.snuffer.safe = false → u = runSlot s n → (slot u n).state = 1 →
    quarterRuns u (n / 64) = true → (∀ r ∈ (slot u n).reqs, r.loading = false) → (hoop u (slot u n).hoop).inst = .running →
    engineResetting u (engCode (.cse (64 * (n / 64)))) = false →
    (slot u n).next ≤ (fence u (csReqFence (slot u n).desc)).value →
    (1 < csN (slot u n).desc → 2 ≤ (slot u n).qFree.length) → pll u (n / 64) = .running →
    ∃ w k, k = (slot u n).reqs.length ∧
      w = armSlot (modSlot u n (fun x => { x with reqs := x.reqs ++ [bareReq u n], next := x.next + 1 })) n ∧
      ((fence u (csReqFence (slot u n).desc)).error = true →
        exec (.cseRequestStart n) s = .next (runSlot (failAtHome w n k .fenceError) n)) ∧
      ((fence u (csReqFence (slot u n).desc)).error = false →
        exec (.cseRequestStart n) s = .next (runSlot (loadReq w n k (slot w n) (bareReq u n)) n))) ∧
  (∀ (s v : State) (n i : Nat) (x : Slot) (r : SlotReq) (b : Data),
    readVa s (slotAcc n x) ((wordAt x.desc 5).toNat + 64 * ((r.num - 1) % 2 ^ fld (wordAt x.desc 3) 21 19)) 64 0 = .ok b v →
    (b.poison = true → loadReq s n i x r = failAtHome v n i .poison) ∧
    (b.poison = false → entryOk x.desc (toWords b.bytes) = false → loadReq s n i x r = failAtHome v n i .format)) ∧
  (∀ (s u : State) (n : Nat), s.snuffer.safe = false → u = runSlot s n → (∀ r ∈ (slot u n).reqs, r.loading = false) →
    (fence u (csReqFence (slot u n).desc)).value < (slot u n).next → exec (.cseRequestStart n) s = .next u) ∧
  (∀ (s u : State) (n : Nat) (x : Slot) (r : SlotReq), s.snuffer.safe = false → u = runSlot s n → tget u.slots n = some x →
    x.state = 1 → quarterRuns u (n / 64) = true → pll u (n / 64) = .running → x.reqs = [r] → r.passing = false → r.outDone = false →
    r.forwarded = true → r.pass = 0 → (fence u (csCountFence x.desc)).error = false →
    (fence u (csCountFence x.desc)).value ≤ 16 * fld (wordAt x.desc 4) 63 32 →
    ∃ t, exec (.csePassStart n) s = .next t ∧ (slot t n).reqs =
      [{ r with passing := true, block := 0, count := (fence u (csCountFence x.desc)).value, part := 0 }]) ∧
  (∀ (s : State) (n : Nat), s.snuffer.safe = false → (∀ r ∈ (slot s n).reqs, r.passing = false) →
    exec (.csePassEnd n) s = .next (runSlot s n)) ∧
  (∀ (s u v : State) (n : Nat) (r p : SlotReq) (back : List SlotReq), s.snuffer.safe = false → (slot s n).state = 1 →
    quarterRuns s (n / 64) = true → pll s (n / 64) = .running → (slot s n).reqs = r :: back → r.passing = true →
    passBlocks (slotAcc n (slot s n)) (slot s n).desc ((r.count + 15) / 16 + 1) r s = (p, .ok () v) →
    saveParts v n (slot s n) p = .ok () u → exec (.csePassEnd n) s = .next (runSlot (modReq u n 0 (fun _ => passOver r p)) n)) ∧
  (∀ (s : State) (n : Nat), s.snuffer.safe = false → (slot s n).state = 1 →
    1 < csN (slot s n).desc → slotAwaits (slot s n) = true →
    (slot s n).heard + 1000 * fld (wordAt (slot s n).desc 4) 31 0 ≤ s.clk.wick →
    exec (.ringTimeout n) s = .next (slotFail s n .timeout (csPos (slot s n).desc) none)) ∧
  (∀ (s : State) (n : Nat), (slot s n).state ≠ 1 → exec (.ringTimeout n) s = .next s)

/-- A word of a type, sequence, member and pool that fit an OPEN slot is taken and the slot runs on: QUERY whose header
names the slot's sequence adds a request of the word's home and number, PARTIAL and MAX leave their values with the
request they name, GMAX leaves M and frees its buffer, CREDIT frees the downstream buffer it names, FAIL fails the
slot with the word's reason and origin. A poisoned word for an OPEN slot leaves the mailbox and fails the slot with
POISON. A word for a slot that is not OPEN, or a clean one of another sequence, leaves the mailbox, is counted in the
slot and in its quarter, and has no other effect. MAILBOX_ACCESS_DROP counts. -/
def Obligations.RingWords : Prop :=
  (∀ (s u v : State) (n : Nat) (w : Word) (x y : Slot) (h p : List Word × List Byte × List (Nat × Nat)),
    tget s.slots n = some x → wordFor s n 1 w →
    readPayload (wordTaken s n w) n x 0 (fld w 59 59) 0 = .ok h u →
    wordAt h.1 2 = setFld (wordAt x.desc 0) 49 44 0 →
    readPayload u n x 0 (fld w 59 59) (8 * (fld (wordAt h.1 0) 46 40 + 1) +
      csH x.desc * (fld (wordAt h.1 0) 46 40 + 1) * csD x.desc * elemBytes (fmtD (fld (wordAt h.1 0) 59 56))) = .ok p v →
    tget v.slots n = some y →
    ∃ t r, exec (.query n w) s = .next (runSlot t n) ∧ (slot t n).reqs = y.reqs ++ [r] ∧ r.home = fld w 49 44 ∧
      r.num = fld w 23 0 ∧ r.own = false ∧ r.body = p.2.1 ∧ r.pass = 0) ∧
  (∀ (s v : State) (n i : Nat) (w : Word) (x y : Slot) (r z : SlotReq) (p : List Word × List Byte × List (Nat × Nat)),
    tget s.slots n = some x → wordFor s n 3 w → namedReq x w = some (r, i) →
    readPayload (wordTaken s n w) n x 1 (fld w 59 59) (4 * (csH x.desc * rqRows r)) = .ok p v →
    tget v.slots n = some y → y.reqs[i]? = some z →
    ∃ t a, exec (.max n w) s = .next (runSlot t n) ∧ (slot t n).reqs[i]? = some a ∧
      a.maxIn = some (fld w 59 59, bodyVals p.2.1 p.2.2) ∧ (slot t n).credits = y.credits) ∧
  (∀ (s v : State) (n i : Nat) (w : Word) (x y : Slot) (r z : SlotReq) (p : List Word × List Byte × List (Nat × Nat)),
    tget s.slots n = some x → wordFor s n 4 w → namedReq x w = some (r, i) →
    readPayload (wordTaken s n w) n x 1 (fld w 59 59) (4 * (csH x.desc * rqRows r)) = .ok p v →
    tget v.slots n = some y → y.reqs[i]? = some z →
    ∃ t a, exec (.gmax n w) s = .next (runSlot t n) ∧ (slot t n).reqs[i]? = some a ∧ a.gmax = some (bodyVals p.2.1 p.2.2) ∧
      (slot t n).credits = y.credits ++ [(1, fld w 59 59)]) ∧
  (∀ (s v : State) (n i : Nat) (w : Word) (x : Slot) (r : SlotReq) (p : List Word × List Byte × List (Nat × Nat)),
    tget s.slots n = some x → wordFor s n 2 w → namedReq x w = some (r, i) →
    readPayload (wordTaken s n w) n x 1 (fld w 59 59) (csH x.desc * rqRows r *
      (if rqDet r = true then 88 * (csD x.desc + 1) else 8 + 4 * csD x.desc)) = .ok p v →
    ∃ t, exec (.partialMsg n w) s = .next (runSlot t n) ∧ ∀ y z, (bodyParts v (rqDet r) (csD x.desc) (csH x.desc * rqRows r) p.2.1
        p.2.2).2.slots = v.slots → tget v.slots n = some y → y.reqs[i]? = some z →
      ∃ a, (slot t n).reqs[i]? = some a ∧ a.partIn = some (fld w 59 59,
        (bodyParts v (rqDet r) (csD x.desc) (csH x.desc * rqRows r) p.2.1 p.2.2).1)) ∧
  (∀ (s : State) (n : Nat) (w : Word) (x : Slot), tget s.slots n = some x → wordFor s n 5 w →
    ∃ t, exec (.credit n w) s = .next (runSlot t n) ∧ (slot t n).heard = s.clk.wick ∧ (slot t n).reqs = x.reqs ∧
      (if fld w 58 58 = 0 then fld w 59 59 ∈ (slot t n).qFree ∧ (slot t n).pFree = x.pFree
        else fld w 59 59 ∈ (slot t n).pFree ∧ (slot t n).qFree = x.qFree)) ∧
  (∀ (s : State) (n : Nat) (w : Word) (x : Slot), tget s.slots n = some x → wordFor s n 6 w →
    ∃ t, exec (.fail n w) s = .next (runSlot t n) ∧ (slot t n).state = 2 ∧ (slot t n).reason = statusOf (fld w 57 50) ∧
      (slot t n).origin = fld w 49 44 ∧ (slot t n).reqs = []) ∧
  (∀ (s : State) (n ty : Nat) (w : Word) (c : Instr), (ty, c) ∈ [(1, Instr.query n w), (2, .partialMsg n w), (3, .max n w),
      (4, .gmax n w), (5, .credit n w), (6, .fail n w)] → fld w 63 60 = ty →
    (slot s n).state ≠ 1 ∨ wordBad s n w = false ∧ fld w 39 24 ≠ fld (wordAt (slot s n).desc 11) 63 48 →
    exec c s = .next (dropWord { s with mem := { s.mem with mail := dropFirst (isWord n w) s.mem.mail } } n)) ∧
  (∀ (s : State) (n ty : Nat) (w : Word) (c : Instr), (ty, c) ∈ [(1, Instr.query n w), (2, .partialMsg n w), (3, .max n w),
      (4, .gmax n w), (5, .credit n w), (6, .fail n w)] → fld w 63 60 = ty → (slot s n).state = 1 → wordBad s n w = true →
    exec c s = .next (slotFail { s with mem := { s.mem with mail := dropFirst (isWord n w) s.mem.mail } } n .poison
      (csPos (slot s n).desc) none)) ∧
  (∀ (s : State) (q : Nat), exec (.mailboxAccessDrop q) s = .next (countQ s q 9 1))

/-- MOVE of an admitted entry of type 3 with a malformed descriptor completes with FORMAT; with a valid one the entry runs
and waits for a mover of its quarter, behind the descriptors of the entries admitted before it. Outside safe state
MOVER_DISPATCH of the quarter's first waiting descriptor, when no entry admitted before it still has a MOVE to give,
gives it to the lowest-numbered idle mover. COPY, GATHER, SCATTER and FILL of a mover whose job has that opcode, when
its rows are read, its blocks carried and its pieces written, no earlier write has failed and its flag is sent, leave
the job finished; of a mover with no job they change nothing. MOVER_DESCRIPTOR_COMPLETE of a finished job with nothing
outstanding frees the mover, charges its time and completes the entry. -/
def Obligations.Movers : Prop :=
  (∀ (s : State) (q e : Nat) (f : Flight), flight s q e = some f → f.phase = .admitted → fld (wordAt f.words 0) 63 56 = 3 →
    mvOk f.desc = false → exec (.move q e) s = .next (finishFlight s q e .format)) ∧
  (∀ (s : State) (q e : Nat) (f : Flight), flight s q e = some f → f.phase = .admitted → fld (wordAt f.words 0) 63 56 = 3 →
    mvOk f.desc = true →
    ∃ t j u, exec (.move q e) s = .next t ∧ u = modFlight s q e (fun f => { f with phase := .running }) ∧
      t = waitForMover u (fld (wordAt f.words 0) 1 0) j ∧ (fld (wordAt f.words 0) 1 0, j) ∈ t.moverQ ∧ j.desc = f.desc.take 16 ∧
      j.queue = q ∧ j.entry = e ∧ j.ctx = queueCtx s q ∧ j.finished = false ∧ inPhase t q e .running = true ∧
      ((∀ x ∈ s.moverQ, admittedBefore u q e x.2.queue x.2.entry = false) →
        t.moverQ = s.moverQ ++ [(fld (wordAt f.words 0) 1 0, j)])) ∧
  (∀ (s : State) (q m : Nat) (p : Nat × MoverJob) (front back : List (Nat × MoverJob)), s.snuffer.safe = false → q < 4 →
    m < 16 → (∀ k < m, (mvJob s q k).isSome = true) → mvJob s q m = none → s.darner.deadEngines = [] →
    s.moverQ = front ++ p :: back → (∀ x ∈ front, x.1 ≠ q) → p.1 = q → quarterRuns s q = true → s.snuffer.resets = [] →
    pll s q = .running → moveAhead s q p.2 = false →
    ∀ j, j = { p.2 with since := s.clk.wick } →
      exec (.moverDispatch q) s = .next { s with movers := tput s.movers (mvKey q m) j, moverQ := front ++ back }) ∧
  (∀ (s w : State) (q m : Nat) (j : MoverJob),
    (moverGoes s w q m 1 j → exec (.copy q m) s = .next (modJob w q m (fun j => { j with finished := true }))) ∧
    (moverGoes s w q m 2 j → exec (.gather q m) s = .next (modJob w q m (fun j => { j with finished := true }))) ∧
    (moverGoes s w q m 3 j → exec (.scatter q m) s = .next (modJob w q m (fun j => { j with finished := true }))) ∧
    (moverGoes s w q m 4 j → exec (.fill q m) s = .next (modJob w q m (fun j => { j with finished := true })))) ∧
  (∀ (s : State) (q m : Nat), mvJob s q m = none → exec (.copy q m) s = .next s ∧ exec (.gather q m) s = .next s ∧
    exec (.scatter q m) s = .next s ∧ exec (.fill q m) s = .next s ∧ exec (.moverDescriptorComplete q m) s = .next s) ∧
  (∀ (s : State) (q m : Nat) (j : MoverJob), s.snuffer.safe = false → mvJob s q m = some j → j.finished = true →
    j.work = 0 → engBusy s (.mover q m) = false → engFailure s (.mover q m) = none →
    exec (.moverDescriptorComplete q m) s =
      .next (finishFlight (chargeEngine (freeMover s q m) j.ctx j.since) j.queue j.entry (statusMax j.status .ok)))

/-- LINK_CRC_ERROR with fewer than 8 re-sends counts them at the link's mesh or bridge and does nothing else; with 8 it
also marks the link's next block as poisoned and latches class 5. PICOT_WRITE_LAND with no write due changes nothing;
of the first due write, of a mover of this node, that can land it writes it and takes it out of those held; when an
earlier write of its source failed it is over with that status. HBM_ZERO_DONE of bobbins not zeroed, powered and not
in backup, sleep or safe state leaves every listed byte below 0x00C0_0000_0000 that the zeroing reaches out of the
memory, no merge waiting, and at step 5 of power-up the block ready; of bobbins already zeroed it changes nothing. -/
def Obligations.LinksPicotsAndZeroing : Prop :=
  (∀ (s : State) (q n : Nat), n < 8 → exec (.linkCrcError (.mesh q) n) s = .next (countQ s (q % 4) 14 (Nat.min 8 n))) ∧
  (∀ (s : State) (d n : Nat), n < 8 →
    exec (.linkCrcError (.bridge d) n) s = .next (addCell s 0x600001 (16 + d % 8) 1 (Nat.min 8 n))) ∧
  (∀ (s : State) (q n : Nat), 8 ≤ n → LinkId.hub q ∉ s.mem.badLinks →
    exec (.linkCrcError (.hub q) n) s = .next (latch { s with mem := { s.mem with badLinks := s.mem.badLinks ++ [.hub q] } }
      { cls := 5, access := 4, addr := none, masterKind := 15, master := 0, hoop := none, ctx := none,
        detail := wd (linkIndex (.hub q)) })) ∧
  (∀ s : State, s.fab.picots.filter (picotDue s) = [] → exec .picotWriteLand s = .next s) ∧
  (∀ (s u : State) (p : Picot) (back : List Picot) (q m : Nat), s.snuffer.safe = false →
    s.fab.picots.filter (picotDue s) = p :: back → p.sender = none → p.eng = .mover q m → p.failed = none →
    landPicot s p = .ok () u →
    exec .picotWriteLand s = .next { u with fab := { u.fab with picots := dropFirst (fun x => x == p) u.fab.picots } }) ∧
  (∀ (s : State) (p : Picot) (st : Status) (back : List Picot), s.snuffer.safe = false →
    s.fab.picots.filter (picotDue s) = p :: back → p.failed = some st → exec .picotWriteLand s = .next (picotDone s p st)) ∧
  (∀ s : State, s.mem.zeroed = false → 5 ≤ s.power.step → s.power.backup = false → s.power.sleep = 0 → s.snuffer.safe = false →
    wipePending s = false →
    ∃ t, exec .hbmZeroDone s = .next t ∧ t.mem.zeroed = true ∧ t.mem.merges = [] ∧ t.mem.corruptNext = [] ∧
      t.mem.cells = s.mem.cells.filter (fun p => !zeroable s p.1) ∧
      (s.power.step = 5 → t.power.ready = true ∧ t.power.step = 6) ∧ (s.power.step ≠ 5 → t.power = s.power)) ∧
  (∀ s : State, s.mem.zeroed = true → exec .hbmZeroDone s = .next s)

/-- COLLECTIVE of an admitted entry of type 4 with a malformed descriptor, or of a memory-role hoop, completes with
FORMAT; otherwise with engine 0 of its quarter idle, in service and in no reset the entry runs on it. ALL_REDUCE,
REDUCE_SCATTER and ALL_GATHER run an engine whose job has that opcode; with no job they change nothing. A read of
IN_FLAG or FREE_FLAG that shows more steps than counted takes the count and the time it heard, one that shows ABORT
stops the member with the word's status; then the engine runs on. COLLECTIVE_TIMEOUT of a member that waits on one of
its flags and has heard nothing for TIMEOUT_US stops it with PEER_LOST. -/
def Obligations.Collectives : Prop :=
  (∀ (s : State) (q e : Nat) (f : Flight), flight s q e = some f → f.phase = .admitted → fld (wordAt f.words 0) 63 56 = 4 →
    hoopRole s (queueHoop s q) = 1 ∨ clOk f.desc = false → exec (.collective q e) s = .next (finishFlight s q e .format)) ∧
  (∀ (s : State) (q e k : Nat) (f : Flight), flight s q e = some f → f.phase = .admitted →
    fld (wordAt f.words 0) 63 56 = 4 → k = fld (wordAt f.words 0) 1 0 → hoopRole s (queueHoop s q) ≠ 1 → clOk f.desc = true →
    clJob s k 0 = none → s.darner.deadEngines = [] → s.snuffer.resets = [] →
    ∃ t j, exec (.collective q e) s = .next t ∧ clJob t k 0 = some j ∧ j.desc = f.desc.take 16 ∧ j.queue = q ∧ j.entry = e ∧
      j.begun = false ∧ inPhase t q e .running = true) ∧
  (∀ (s : State) (q m : Nat) (j : CollJob), clJob s q m = some j →
    (clOp j.desc = 1 → exec (.allReduce q m) s = .next (runColl s q m)) ∧
    (clOp j.desc = 2 → exec (.reduceScatter q m) s = .next (runColl s q m)) ∧
    (clOp j.desc = 3 → exec (.allGather q m) s = .next (runColl s q m))) ∧
  (∀ (s : State) (q m : Nat) (b : Bool), clJob s q m = none → exec (.allReduce q m) s = .next s ∧
    exec (.reduceScatter q m) s = .next s ∧ exec (.allGather q m) s = .next s ∧ exec (.collectiveInFlag q m) s = .next s ∧
    exec (.collectiveFreeFlag q m) s = .next s ∧ exec (.collectiveAbortFlag q m b) s = .next s ∧
    exec (.collectiveTimeout q m) s = .next s) ∧
  (∀ (s u : State) (q m : Nat) (j : CollJob) (w : Word), clJob s q m = some j → j.stop = none → j.finished = false →
    clN j.desc ≠ 1 → quarterRuns s q = true → pll s q = .running → clReadFlag s q m j 0 = .ok (some w) u →
    fld w 63 60 = 1 → j.inCount < fld w 31 0 →
    exec (.collectiveInFlag q m) s =
      .next (runColl (modColl u q m (fun j => { j with inCount := fld w 31 0, heard := u.clk.wick })) q m)) ∧
  (∀ (s u : State) (q m : Nat) (j : CollJob) (w : Word), clJob s q m = some j → j.stop = none → j.finished = false →
    clN j.desc ≠ 1 → quarterRuns s q = true → pll s q = .running → clReadFlag s q m j 8 = .ok (some w) u →
    fld w 63 60 = 1 → j.freeCount < fld w 31 0 →
    exec (.collectiveFreeFlag q m) s =
      .next (runColl (modColl u q m (fun j => { j with freeCount := fld w 31 0, heard := u.clk.wick })) q m)) ∧
  (∀ (s u : State) (q m : Nat) (j : CollJob) (w : Word) (up : Bool), clJob s q m = some j → j.stop = none → j.finished = false →
    clN j.desc ≠ 1 → quarterRuns s q = true → pll s q = .running →
    clReadFlag s q m j (if up then 0 else 8) = .ok (some w) u → fld w 63 60 = 2 →
    exec (.collectiveAbortFlag q m up) s =
      .next (runColl (collAbort u q m (statusOf (fld w 59 52)) (if up then 1 else 2)) q m)) ∧
  (∀ (s : State) (q m : Nat) (j : CollJob), s.snuffer.safe = false → clJob s q m = some j → clAwaits j = true →
    j.heard + 1000 * fld (wordAt j.desc 7) 63 32 ≤ s.clk.wick →
    exec (.collectiveTimeout q m) s = .next (runColl (collAbort s q m .peerLost 0) q m))

/-- PORT_SERVE of a port with a next request takes that request out of those waiting, adds its bytes to the port's
bandwidth count and to the flow's count of the present window, and, for a request of a flow, adds its bytes, itself
and its waiting time to the flow's counters; of a port with none waiting, or of a bobbin whose quarter's VHBM has
reached a limit, it changes nothing. Outside safe state FLOSS_WINDOW_END moves every flow's window counts on by one,
keeping eight finished windows. -/
def Obligations.PortsServe : Prop :=
  (∀ (s : State) (p : Nat), p < 12 → s.power.slowMem.getD (p / 3) false = true → exec (.portServe p) s = .next s) ∧
  (∀ (s : State) (p : Nat) (r : PortReq), ¬(p < 12 ∧ s.power.slowMem.getD (p / 3) false = true) → nextServed s p = some r →
    ∃ t, exec (.portServe p) s = .next t ∧ t.floss.waiting = dropFirst (fun x => x == r) s.floss.waiting ∧
      (tget t.tele.bytes p).getD 0 = (tget s.tele.bytes p).getD 0 + r.bytes ∧
      (((tget t.floss.served (p * 1024 + reqFlow r)).getD []).headD 0 =
        ((tget s.floss.served (p * 1024 + reqFlow r)).getD []).headD 0 + r.bytes) ∧
      t.mem = s.mem ∧ (r.flow = none → t.regs = s.regs)) ∧
  (∀ (s : State) (p : Nat), (∀ r ∈ s.floss.waiting, r.port ≠ p) → exec (.portServe p) s = .next s) ∧
  (∀ s : State, s.snuffer.safe = false →
    ∃ t, exec .flossWindowEnd s = .next t ∧ t.floss.waiting = s.floss.waiting ∧ t.floss.served =
      (s.floss.served.map (fun x => (x.1, 0 :: x.2.take 8))).filter (fun x => x.2.any (fun n => decide (n ≠ 0))))

/-- Where the entry is open to the requester, RANGE_COMMIT by a PF or the management port of a row below 65,536 answers OK
and leaves in RANGE_STATUS of the hoop whose block holds the row (row 64 where none does) the code of the first
failing check and the row; a refused commit changes nothing else, and an accepted one puts the staged words with W0 in
force as one entry when VALID is set and takes the row out of force when it is clear. -/
def Obligations.RangeCommitAnswers : Prop :=
  (∀ (s : State) (who : Req) (row : Nat) (w0 : Word), opens s who 0x700001 → isManager who = true → row < 65536 →
    commitCode (result s 0) who row (w0 :: (List.range 7).map (fun i => cell s 0x700001 row (i + 1))) ≠ 0 →
    exec (.rangeCommit who row w0) s = .next (setReg (result s 0) 0x700002 ((rowHoop s row).getD 64)
      (commitCode (result s 0) who row (w0 :: (List.range 7).map (fun i => cell s 0x700001 row (i + 1))) * 2 ^ 24 + row))) ∧
  (∀ (s : State) (who : Req) (row : Nat) (w0 : Word), opens s who 0x700001 → isManager who = true → row < 65536 →
    commitCode (result s 0) who row (w0 :: (List.range 7).map (fun i => cell s 0x700001 row (i + 1))) = 0 →
    ∃ t, exec (.rangeCommit who row w0) s = .next t ∧
      t.rng.rows = (if bit w0 63 then
          tput s.rng.rows row (w0 :: (List.range 7).map (fun i => cell s 0x700001 row (i + 1)))
        else tdel s.rng.rows row) ∧ t.rng.look = s.rng.look ∧ t.answer.status = 0)

/-- When commitCode accepts a row of words with VALID set, written by any requester in the block of a hoop, the entry's
end is at most 2^57, an atomic right comes with both other rights, a migratable entry starts and ends on a 64 KiB
boundary, and no other entry of the same hoop's block and address space overlaps it. -/
def Obligations.RangeRefusals : Prop :=
  ∀ (s : State) (who : Req) (row h : Nat) (ws : List Word), commitCode s who row ws = 0 → bit (wordAt ws 0) 63 = true →
    (List.range 64).find? (fun k => inBlock s k row) = some h →
    entStart ws + entLen ws ≤ 2 ^ 57 ∧
    (bit (wordAt ws 0) 60 = true → bit (wordAt ws 0) 62 = true ∧ bit (wordAt ws 0) 61 = true) ∧
    (entMigratable ws = true → entStart ws % 65536 = 0 ∧ entLen ws % 65536 = 0 ∧ entTarget ws / 2 ^ 44 = ownNode s) ∧
    ∀ p ∈ s.rng.rows, p.1 ≠ row → entAspace p.2 = entAspace ws → inBlock s h p.1 = true →
      entStart ws + entLen ws ≤ entStart p.2 ∨ entStart p.2 + entLen p.2 ≤ entStart ws

/-- Outside safe state, WALK_COMPLETE of a walk, for a replayed one of the first of its hoop that walks, ends it: a stale
one starts again; one that finds an entry leaves the translations in progress and fills the engine's lookaside; one
that is refused leaves the failure for the engine to take; one that faults parks the access; one whose page-state word
lies in a quarter without clocks stays. Replayed translations that waited for a walk then take those that are free.
With no such translation only they do. -/
def Obligations.WalksEnd : Prop :=
  (∀ (s : State) (n : Nat) (x : XReq), s.snuffer.safe = false → walkAt s n x → x.phase = .walking true →
    exec (.walkComplete n) s =
      .next (startWalks { s with rng := { s.rng with xreqs := s.rng.xreqs.set n { x with phase := .walking false } } })) ∧
  (∀ (s t : State) (n : Nat) (x : XReq) (e : LookEntry), s.snuffer.safe = false → walkAt s n x →
    x.phase = .walking false → walk s x = (.entry e, t) →
    exec (.walkComplete n) s =
      .next (startWalks (fillLook { t with rng := { t.rng with xreqs := t.rng.xreqs.eraseIdx n } } e))) ∧
  (∀ (s t : State) (n : Nat) (x : XReq) (st : Status), s.snuffer.safe = false → walkAt s n x →
    x.phase = .walking false → walk s x = (.fail st, t) →
    exec (.walkComplete n) s = .next (startWalks
      { t with rng := { t.rng with xreqs := t.rng.xreqs.eraseIdx n ++ [{ x with phase := .failed st }] } })) ∧
  (∀ (s t : State) (n type row : Nat) (x : XReq), s.snuffer.safe = false → walkAt s n x →
    x.phase = .walking false → walk s x = (.fault type row, t) →
    exec (.walkComplete n) s = .next (startWalks (parkAccess t x type row))) ∧
  (∀ (s t : State) (n : Nat) (x : XReq), s.snuffer.safe = false → walkAt s n x →
    x.phase = .walking false → walk s x = (.wait, t) → exec (.walkComplete n) s = .next (startWalks t)) ∧
  (∀ (s : State) (n : Nat), s.snuffer.safe = false → s.rng.xreqs[n]? = none →
    exec (.walkComplete n) s = .next (startWalks s))

/-- Outside safe state, FAULT_RECORD_WRITE with room in the hoop's ring and a record waiting leaves FR_TAIL one higher and
the record no longer waiting; with the ring blocked it changes nothing. FAULT_RECORD_TIMEOUT of a record that has
waited 8 ms discards the context's translations and starts an L1 reset of the context with cause XLATE_FAULT. FR_HEAD
by the hoop's driver sets FR_HEAD to the low 32 bits written; FR_CONFIG whose enabled ring breaks its rule answers
RANGE and changes nothing else, and by a requester that does not own the hoop answers NOT_PERMITTED and changes
nothing else; an accepted one on an empty, disabled or erroneous ring is in force at once and answers OK. -/
def Obligations.FaultRings : Prop :=
  (∀ (s : State) (h n : Nat) (r : FaultRec), s.snuffer.safe = false → frBlocked s h = false →
    s.rng.records.find? (fun r => decide (r.hoop = h)) = some r → regN s 0x710003 h = n → h < 64 →
    ∃ t, exec (.faultRecordWrite h) s = .next t ∧ regN t 0x710003 h = (n + 1) % 2 ^ 32 ∧
      t.rng.records = dropFirst (fun y => y == r) s.rng.records ∧ t.rng.xreqs = s.rng.xreqs) ∧
  (∀ (s : State) (h : Nat), frBlocked s h = true → exec (.faultRecordWrite h) s = .next s) ∧
  (∀ (s : State) (h : Nat) (x : FaultRec), s.snuffer.safe = false →
    s.rng.records.find? (fun r => decide (r.hoop = h) && decide (r.since + 8000000 ≤ s.clk.wick)) = some x → s.snuffer.resets = [] →
    exec (.faultRecordTimeout h) s = .next (startReset (dropCtxX s x.ctx)
      { level := 1, target := x.ctx, trigger := 0, cause := .xlateFault, fences := [], start := s.clk.wick, phase := 0,
        dumped := false, logAt := none })) ∧
  (∀ (s : State) (who : Req) (h : Nat) (v : Word), opens s who 0x710002 → h < 64 → reqOwns s who h = true →
    exec (.frHeadWrite who h v) s = .next (frApply (frShow (setReg (result s 0) 0x710002 h (fld v 31 0)) h) h)) ∧
  (∀ (s : State) (who : Req) (h : Nat) (w0 w1 : Word), opens s who 0x710001 → frConfigCode s who h w0 w1 ≠ 0 →
    exec (.frConfigWrite who h w0 w1) s = .next (result s (frConfigCode s who h w0 w1))) ∧
  (∀ (s : State) (who : Req) (h : Nat) (w0 w1 : Word), opens s who 0x710001 → h < 64 → reqOwns s who h = true →
    bit w1 8 = false → frEnabled s h = false →
    ∃ t, exec (.frConfigWrite who h w0 w1) s = .next t ∧ t.answer.status = 0 ∧ cell t 0x710001 h 0 = w0 ∧
      frEnabled t h = false ∧ regN t 0x710004 h = 3)

/-- With no DROWSE to leave and no BAR4 write or doorbell of the function before it, an invalidation doorbell of a hoop
the requester owns with fewer than 256 pending and none held in the host is accepted; of a hoop it does not own it
only raises the counter of dropped writes; with 256 pending it waits behind those held in the host; behind such a
write or doorbell it is held. REPLAY, with fewer than 256 pending and none held in the host, of an owned hoop makes
every parked access of the hoop, and no other, walk again with REPEAT set, as walks are free. Outside safe state
INVAL_COMPLETE of a hoop with no invalidation pending, and of one whose oldest waits for a request outstanding,
changes nothing, and HOT_WRITE_BACK writes back the pages of the hoop's block that moved at least 4,096 bytes and
whose page-state word its quarter's clocks let it write. -/
def Obligations.Invalidations : Prop :=
  (∀ (s : State) (who : Req) (w : Word), s.power.sleep ≠ 2 → bellWaits s who = false → reqOwns s who (fld w 61 56) = true →
    s.rng.invals.length < 256 → s.rng.doorbells = [] →
    exec (.invalEntry who w) s = .next (acceptInval s who (setFld w 63 62 0)) ∧
    exec (.invalAspace who w) s = .next (acceptInval s who (setFld w 63 62 1)) ∧
    exec (.invalHoop who w) s = .next (acceptInval s who (setFld w 63 62 2))) ∧
  (∀ (s : State) (who : Req) (w : Word), s.power.sleep ≠ 2 → bellWaits s who = false → reqOwns s who (fld w 61 56) = false →
    exec (.invalEntry who w) s = .next (countHub s 0 1) ∧ exec (.invalAspace who w) s = .next (countHub s 0 1) ∧
    exec (.invalHoop who w) s = .next (countHub s 0 1) ∧ exec (.replay who w) s = .next (countHub s 0 1)) ∧
  (∀ (s : State) (who : Req) (w : Word), s.power.sleep ≠ 2 → bellWaits s who = false → reqOwns s who (fld w 61 56) = true →
    256 ≤ s.rng.invals.length →
    ∃ t, exec (.invalEntry who w) s = .next t ∧ t.rng.doorbells = s.rng.doorbells ++ [(who, setFld w 63 62 0)] ∧
      t.rng.invals = s.rng.invals ∧ t.rng.look = s.rng.look) ∧
  (∀ (s : State) (who : Req) (w : Word), s.power.sleep ≠ 2 → bellWaits s who = false → reqOwns s who (fld w 61 56) = true →
    s.rng.invals.length < 256 → s.rng.doorbells = [] →
    exec (.replay who w) s = .next (startWalks { s with rng := { s.rng with xreqs := s.rng.xreqs.map (replayOf (fld w 61 56)) } })) ∧
  (∀ (s : State) (who : Req) (w : Word), s.power.sleep ≠ 2 → bellWaits s who = true →
    exec (.invalEntry who w) s = .next (bellHeld s (.inval who (setFld w 63 62 0))) ∧
    exec (.invalAspace who w) s = .next (bellHeld s (.inval who (setFld w 63 62 1))) ∧
    exec (.invalHoop who w) s = .next (bellHeld s (.inval who (setFld w 63 62 2))) ∧
    exec (.replay who w) s = .next (bellHeld s (.inval who (setFld w 63 62 3)))) ∧
  (∀ (s : State) (h : Nat), (∀ i ∈ s.rng.invals, i.hoop ≠ h) → exec (.invalComplete h) s = .next s) ∧
  (∀ (s : State) (h : Nat) (i : Inval) (r : Remote) (rest : List Inval), s.rng.invals = i :: rest → i.hoop = h →
    r ∈ outstanding s → r.id ∈ i.waits → exec (.invalComplete h) s = .next s) ∧
  (∀ (s : State) (h : Nat) (i : Inval) (rest : List Inval), s.snuffer.safe = false → s.rng.invals = i :: rest → i.hoop = h →
    invalWaits s i = false → i.fence = none → regN s 0x700004 h = 0 → s.rng.doorbells = [] →
    ∃ t, exec (.invalComplete h) s = .next t ∧ t.rng.invals = rest ∧ (hoop t h).invals = (hoop s h).invals + 1 ∧
      (h < 64 → i.seq < 2 ^ 24 → regN t 0x700005 h = i.seq)) ∧
  (∀ (s : State) (h : Nat), s.snuffer.safe = false → (∀ p ∈ s.rng.counts, inBlock s h (p.1 / 2 ^ 28) = true → p.2 < 4096) →
    exec (.hotWriteBack h) s = .next s) ∧
  (∀ (s : State) (h k n : Nat), s.snuffer.safe = false → s.rng.counts = [(k, n)] → inBlock s h (k / 2 ^ 28) = true →
    pageClock s k = .ok () s →
    4096 ≤ n → n % 4096 = 0 →
    exec (.hotWriteBack h) s = .next (writeBackPage { s with rng := { s.rng with counts := [] } } h k n))

/-- After an accepted INVAL_HOOP of a hoop no lookaside entry of that hoop is left and every walk of it in progress is
stale, after INVAL_ASPACE none of that hoop and address space, and after INVAL_ENTRY of a row of the hoop's block none
of that hoop and row; every entry of another hoop stays; and of the requests outstanding that were translated through
a range entry of the hoop, each is among those that an INVAL_HOOP waits for. -/
def Obligations.InvalidationDropsTranslations : Prop :=
  (∀ (s : State) (who : Req) (w : Word), s.power.sleep ≠ 2 → bellWaits s who = false → reqOwns s who (fld w 61 56) = true →
    s.rng.invals.length < 256 → s.rng.doorbells = [] →
    ∃ t, exec (.invalHoop who w) s = .next t ∧ (∀ e ∈ t.rng.look, e.hoop ≠ fld w 61 56) ∧
      (∀ e ∈ s.rng.look, e.hoop ≠ fld w 61 56 → e ∈ t.rng.look) ∧
      (∀ x ∈ t.rng.xreqs, x.hoop = fld w 61 56 → x.phase ≠ .walking false) ∧
      ∃ i, t.rng.invals = s.rng.invals ++ [i] ∧ i.hoop = fld w 61 56 ∧ i.seq = fld w 23 0 ∧
        ∀ r ∈ outstanding s, r.hoop = fld w 61 56 → r.entry < 65536 → r.id ∈ i.waits) ∧
  (∀ (s : State) (who : Req) (w : Word), s.power.sleep ≠ 2 → bellWaits s who = false → reqOwns s who (fld w 61 56) = true →
    s.rng.invals.length < 256 → s.rng.doorbells = [] →
    ∃ t, exec (.invalAspace who w) s = .next t ∧
      (∀ e, e ∈ t.rng.look ↔ e ∈ s.rng.look ∧ ¬(e.hoop = fld w 61 56 ∧ e.aspace = fld w 49 40))) ∧
  (∀ (s : State) (who : Req) (w : Word), s.power.sleep ≠ 2 → bellWaits s who = false → reqOwns s who (fld w 61 56) = true →
    s.rng.invals.length < 256 → s.rng.doorbells = [] → inBlock s (fld w 61 56) (fld w 55 40) = true →
    ∃ t, exec (.invalEntry who w) s = .next t ∧
      (∀ e, e ∈ t.rng.look ↔ e ∈ s.rng.look ∧ ¬(e.hoop = fld w 61 56 ∧ e.row = fld w 55 40)))

/-- Where open to a manager, EYELET_ENABLE with ENABLE of an eyelet that is DOWN writes EYELET_CONFIG and leaves it
TRAINING with that configuration, clear takes it DOWN, and with a failing check it answers the code alone.
EYELET_TRAINED at bring-up sends HELLO under the version FEC lock allows, after a retrain puts the link UP or DEGRADED
and resends, and in confidential mode holds version 1 in HELLO_FAIL. CTRL_HELLO with the own node's ID, no valid node,
or version 0 between them is HELLO_FAIL; CTRL_SPARE_REQUEST of an eyelet that is up notes the lane, CTRL_SPARE_SWITCH
puts it on the spare, SPARE_TRAINED puts the receive lane on the spare. A failing lane of a link whose spare is free
asks for the spare; else it degrades the link. A flit at an eyelet that is not up changes nothing; a DATA, IDLE or NAK
flit with a bad CRC is counted and answered with a NAK; a NAK with flits to resend resends them and counts each, or
retrains once one has been resent 8 times; a DATA flit out of order is answered with a NAK; an IDLE flit in order
gives its acknowledgement and credits. Outside safe state RETRAIN_TIMEOUT of a retrain older than 20 ms takes the
eyelet DOWN. -/
def Obligations.EyeletLinks : Prop :=
  (∀ (s : State) (who : Req) (e : Nat) (w : Word), opens s who 0x320001 →
    eyeletCode who e (wd (fld w 3 0 + fld w 31 16 * 2 ^ 16)) = 0 → bit (wd (fld w 3 0 + fld w 31 16 * 2 ^ 16)) 0 = true →
    (eyelet s e).state = 0 → e < s.fab.eyes.length →
    ∃ t, exec (.eyeletEnable who e w) s = .next t ∧ (eyelet t e).state = 1 ∧
      (eyelet t e).cfg = wd (fld w 3 0 + fld w 31 16 * 2 ^ 16) ∧ cell t 0x320001 e 0 = wd (fld w 3 0 + fld w 31 16 * 2 ^ 16) ∧
      t.answer.status = 0) ∧
  (∀ (s : State) (who : Req) (e : Nat) (w : Word), opens s who 0x320001 →
    eyeletCode who e (wd (fld w 3 0 + fld w 31 16 * 2 ^ 16)) ≠ 0 →
    exec (.eyeletEnable who e w) s =
      .next (result (result s 0) (eyeletCode who e (wd (fld w 3 0 + fld w 31 16 * 2 ^ 16))))) ∧
  (∀ (s : State) (e : Nat) (lock : Bool), (eyelet s e).state = 1 → (eyelet s e).retrain = false → s.keeper.conf = false →
    exec (.eyeletTrained e lock) s = .next (sendCtrl (modEyelet s e (fun y => { y with
      version := if lock then Nat.min 2 (fld y.cfg 2 1) else 1, activeLanes := 8 })) e)) ∧
  (∀ (s : State) (e : Nat), (eyelet s e).state = 1 → (eyelet s e).retrain = false → s.keeper.conf = true →
    exec (.eyeletTrained e false) s = .next (modEyelet s e (fun y => { y with state := 4, version := 1 }))) ∧
  (∀ (s : State) (e : Nat) (lock : Bool), (eyelet s e).state = 1 → (eyelet s e).retrain = true →
    exec (.eyeletTrained e lock) s = .next (pumpEye (resendAll (modEyelet s e (fun y => { y with
      state := if (eyelet s e).activeLanes = 4 then 3 else 2, retrain := false })) e) e)) ∧
  (∀ (s : State) (e ver node a b c : Nat) (valid : Bool), (eyelet s e).state = 1 → (eyelet s e).retrain = false →
    (eyelet s e).version ≠ 0 → node % 256 = ownNode s ∨ valid = false ∨ bit (cell s 0x310001 0 0) 15 = false ∨ ver = 0 →
    exec (.ctrlHello e ver node valid a b c) s = .next (modEyelet s e (fun y => { y with state := 4 }))) ∧
  (∀ (s : State) (e ver node a b c : Nat), (eyelet s e).state = 1 → (eyelet s e).retrain = false →
    (eyelet s e).version ≠ 0 → node % 256 ≠ ownNode s → bit (cell s 0x310001 0 0) 15 = true → ver ≠ 0 → s.keeper.conf = false →
    exec (.ctrlHello e ver node true a b c) s = .next ((List.range 5).foldl (fun s _ => sendBare s e 0)
      (modEyelet (modEyelet (tookCtrl s e) e
        (fun y => { y with state := 2, version := Nat.min (eyelet s e).version ver, peer := node % 256 })) e
        (fun y => { y with reqReturn := 1024, rspReturn := 1024 })))) ∧
  (∀ (s : State) (e lane : Nat), eyeUp s e = true →
    exec (.ctrlSpareRequest e lane) s = .next (modEyelet (tookCtrl s e) e (fun y => { y with txAsked := some lane }))) ∧
  (∀ (s : State) (e b lane : Nat), (eyelet s e).txAsked = some lane →
    exec (.ctrlSpareSwitch e b) s = .next (spareUsed (modEyelet (tookCtrl s e) e (fun y => { y with
      txMap := y.txMap.map (fun k => if k = lane then 8 else k), txSpare := true, txAsked := none })) e 0 lane)) ∧
  (∀ (s : State) (e lane : Nat), (eyelet s e).rxAsked = some lane →
    exec (.spareTrained e) s = .next (spareUsed (modEyelet (sendCtrl s e) e (fun y => { y with
      rxMap := (eyelet (sendCtrl s e) e).rxMap.map (fun k => if k = lane then 8 else k), rxSpare := true, rxAsked := none })) e 1 lane)) ∧
  (∀ (s : State) (e lane : Nat), eyeUp s e = true → lane < 9 → lane ∉ (eyelet s e).failing → lane ∈ (eyelet s e).rxMap →
    bit (eyelet s e).cfg 3 = false →
    exec (.laneFailing e lane) s = .next (degrade (laneError (modEyelet s e (fun y => { y with
      failing := y.failing ++ [lane] })) e lane) e)) ∧
  (∀ (s : State) (e : Nat) (flit : List Byte), eyeUp s e = false → exec (.flitData e flit) s = .next s ∧
    exec (.flitIdle e flit) s = .next s ∧ exec (.flitNak e flit) s = .next s) ∧
  (∀ (s : State) (e : Nat) (flit : List Byte), eyeUp s e = true → flitGood flit = false →
    exec (.flitData e flit) s = .next (sendNak (countE (countE s e 1 1) e 4 1) e) ∧
    exec (.flitIdle e flit) s = .next (sendNak (countE (countE s e 1 1) e 4 1) e) ∧
    exec (.flitNak e flit) s = .next (sendNak (countE (countE s e 1 1) e 4 1) e)) ∧
  (∀ (s : State) (e : Nat) (flit : List Byte), eyeUp s e = true → flitGood flit = true →
    flitFld flit 91 80 ≠ (eyelet s e).rxNext → exec (.flitData e flit) s = .next (sendNak (countE s e 1 1) e)) ∧
  (∀ (s u : State) (e : Nat) (flit body : List Byte), eyeUp s e = true → flitGood flit = true →
    flitFld flit 91 80 = (eyelet s e).rxNext →
    u = modEyelet (takeHeader (countE s e 1 1) e flit) e (fun y => { y with rxNext := (y.rxNext + 1) % 4096 }) →
    flitBody u flit = some body → (eyelet u e).rxBytes = [] → flitFld flit 48 45 < 15 →
    exec (.flitData e flit) s = .next (takeMsgs e (flitFld flit 51 50) 16 (modEyelet u e (fun y => { y with
      rxBytes := y.rxBytes ++ body.drop (16 * flitFld flit 48 45) })))) ∧
  (∀ (s : State) (e : Nat) (flit : List Byte), eyeUp s e = true → flitGood flit = true →
    (eyelet (takeHeader (countE s e 1 1) e flit) e).rxNext = flitFld flit 91 80 →
    exec (.flitIdle e flit) s = .next (takeHeader (countE s e 1 1) e flit)) ∧
  (∀ (s u : State) (e : Nat) (flit : List Byte), eyeUp s e = true → flitGood flit = true →
    u = takeHeader (countE s e 1 1) e flit → (eyelet u e).replay ≠ [] →
    exec (.flitNak e flit) s = .next (if ∃ n ∈ (eyelet u e).resends, 8 ≤ n then startRetrain u e
      else modEyelet (resendAll u e) e (fun y => { y with resends := y.resends.map (fun n => n + 1) }))) ∧
  (∀ (s : State) (e : Nat), s.snuffer.safe = false → (eyelet s e).state = 1 → (eyelet s e).retrain = true →
    (eyelet s e).since + 20000000 ≤ s.clk.wick → exec (.retrainTimeout e) s = .next (eyeDown s e))

/-- When the first request waiting at an eyelet is a READ, a WRITE or a PICOT that memoryRequest refuses, it is served and
answered with the refusal's status, and no byte of memory is written; one it allows, behind no held picot write of its
source to its rows and ready, is performed: READ answers the data, WRITE writes the bytes and answers an ACK, PICOT is
held while fewer than 64 are. FENCE of a fence that is not valid, not remote or of another hoop is answered with
RIGHTS, else it signals the fence. READ_DATA and ACK of an outstanding request complete it with their status, and of
none are only taken. With no such message at the head each changes nothing. REMOTE_TIMEOUT of a node whose request is
older than its limit, and MARK_LOST by a manager where open, mark the peer LOST. -/
def Obligations.ElpMessages : Prop :=
  (∀ (s : State) (e : Nat), (headMsg s e 1 = none → exec (.elpRead e) s = .next s) ∧
    (headMsg s e 2 = none → exec (.elpWrite e) s = .next s) ∧ (headMsg s e 3 = none → exec (.elpPicot e) s = .next s) ∧
    (headMsg s e 4 = none → exec (.elpFence e) s = .next s) ∧ (headMsg s e 8 = none → exec (.elpReadData e) s = .next s) ∧
    (headMsg s e 9 = none → exec (.elpAck e) s = .next s)) ∧
  (∀ (s : State) (e : Nat) (rx : RxMsg) (m : Msg) (st : Status), headMsg s e 1 = some (rx, m) →
    memoryRequest s m m.len = .error st →
    exec (.elpRead e) s = .next (respond (serveDone s e rx false) e m.src 8 m.epoch m.cls m.tag (statusCode st) m.fhid
      (m.addr % 16) true (List.replicate m.len 0))) ∧
  (∀ (s : State) (e : Nat) (rx : RxMsg) (m : Msg) (st : Status), headMsg s e 2 = some (rx, m) →
    memoryRequest s m m.data.length = .error st →
    exec (.elpWrite e) s = .next (respond (serveDone s e rx false) e m.src 9 m.epoch m.cls m.tag
      (statusCode st) m.fhid 0 false [])) ∧
  (∀ (s : State) (e : Nat) (rx : RxMsg) (m : Msg) (st : Status), headMsg s e 3 = some (rx, m) → memoryRequest s m 8 = .error st →
    exec (.elpPicot e) s = .next (respond (serveDone s e rx false) e m.src 9 m.epoch m.cls m.tag (statusCode st) m.fhid 0
      false [])) ∧
  (∀ (s u : State) (e a : Nat) (rx : RxMsg) (m : Msg) (h : Nat) (r : Data × State), headMsg s e 1 = some (rx, m) →
    memoryRequest s m m.len = .ok (h, a) → behindPicot s rx m a m.len = false →
    localReady s (peerWho s h rx.key m) a m.len false false = .ok () u →
    r = readRun u (peerWho s h rx.key m) a m.len 0 →
    exec (.elpRead e) s = .next (respond (serveDone (crossTo r.2 (peerWho s h rx.key m) (some (addrQuarter a)) (some (e / 2)) m.len) e
      rx false) e m.src 8 m.epoch m.cls m.tag 0 m.fhid (m.addr % 16)
      (onWay r.2 (some (addrQuarter a)) (some (e / 2)) r.1).poison r.1.bytes)) ∧
  (∀ (s u : State) (e a : Nat) (rx : RxMsg) (m : Msg) (h : Nat), headMsg s e 2 = some (rx, m) →
    memoryRequest s m m.data.length = .ok (h, a) → behindPicot s rx m a m.data.length = false →
    localReady s (peerWho s h rx.key m) a m.data.length true false = .ok () u →
    exec (.elpWrite e) s = .next (respond (serveDone (writeRun (crossTo u (peerWho s h rx.key m) (some (e / 2)) (some (addrQuarter a))
      m.data.length) (peerWho s h rx.key m) a m.data
      (onWay u (some (e / 2)) (some (addrQuarter a)) { bytes := m.data, poison := m.poison }).poison) e rx false)
      e m.src 9 m.epoch m.cls m.tag 0 m.fhid 0 false [])) ∧
  (∀ (s : State) (e a : Nat) (rx : RxMsg) (m : Msg) (h : Nat), headMsg s e 3 = some (rx, m) →
    memoryRequest s m 8 = .ok (h, a) → heldPicots s < 64 →
    ∃ t p, exec (.elpPicot e) s = .next t ∧
      t = serveDone { s with fab := { s.fab with picots := s.fab.picots ++ [p] } } e rx false ∧
      p.place = .loc a ∧ p.data = m.data ∧ p.sender = some (m.src, m.fhid, e)) ∧
  (∀ (s : State) (e : Nat) (rx : RxMsg) (m : Msg) (b : Bank) (k : Nat), headMsg s e 4 = some (rx, m) →
    requestHoop s m = .ok (b, k) →
    (fence s (m.addr % 16384)).valid = false ∨ (fence s (m.addr % 16384)).remote = false ∨
      bankFhid b (fence s (m.addr % 16384)).hoop ≠ m.fhid →
    exec (.elpFence e) s = .next (respond (serveDone s e rx false) e m.src 9 m.epoch m.cls m.tag (statusCode .rights)
      m.fhid 0 false [])) ∧
  (∀ (s : State) (e : Nat) (rx : RxMsg) (m : Msg) (b : Bank) (k : Nat), headMsg s e 4 = some (rx, m) →
    requestHoop s m = .ok (b, k) → (fence s (m.addr % 16384)).valid = true → (fence s (m.addr % 16384)).remote = true →
    (fence s (m.addr % 16384)).alias_ = false → bankFhid b (fence s (m.addr % 16384)).hoop = m.fhid →
    exec (.elpFence e) s = .next (respond (serveDone (signalLocal s (m.addr % 16384) (leNat m.data) (decide (m.status = 2)) false)
      e rx false) e m.src 9 m.epoch m.cls m.tag 0 m.fhid 0 false [])) ∧
  (∀ (s : State) (e : Nat) (rx : RxMsg) (m : Msg) (r : Remote), headMsg s e 8 = some (rx, m) →
    respondedTo s e m.tag true = some r →
    exec (.elpReadData e) s = .next (answerRemote (serveDone s e rx true) r (statusOf m.status) m.data m.poison)) ∧
  (∀ (s : State) (e : Nat) (rx : RxMsg) (m : Msg) (r : Remote), headMsg s e 9 = some (rx, m) →
    respondedTo s e m.tag false = some r →
    exec (.elpAck e) s = .next (retryAliases (answerRemote (serveDone s e rx true) r (statusOf m.status) [] false))) ∧
  (∀ (s : State) (n : Nat) (r : Remote), s.snuffer.safe = false → r ∈ outstanding s → r.node = n → r.sent + r.limit ≤ s.clk.wick →
    exec (.remoteTimeout n) s = .next (Machine.markLost s n)) ∧
  (∀ (s : State) (who : Req) (v : Word), opens s who 0x310007 → isManager who = true →
    exec (.markLost who v) s = .next (result (Machine.markLost (result s 0) (fld v 7 0)) 0))

/-- Where open to a manager: HOOP_COMMAND with a reserved bit set leaves RESULT 2 and nothing else; CREATE and REBIND
leave RESULT at the first failing check's code, or bind the written row (CREATE) and keep it pending with the hoop
PENDING (REBIND); DESTROY of an ACTIVE hoop without contexts whose fabric ID no epoch uses leaves it DESTROYING;
CANCEL of a pending re-bind withdraws it and leaves the hoop ACTIVE. By a VF each answers NOT_PERMITTED and changes
nothing. EPOCH_STAGE fills the EMPTY bank from the written rows with its epoch, OPEN makes the STAGED bank CURRENT and
the old one DRAINING and marks LOST the peers of the new rows whose eyelets are neither UP nor retraining (that a
retraining one is not lost is DEDUCED, log 161), COMMIT empties the drained bank, ABANDON the STAGED one; where the
phase refuses they change nothing (that their answer is then OK is the model's choice, log 53). NODE_ID_WRITE answers
STATE while an eyelet is not DOWN, else it sets the node's ID. -/
def Obligations.HoopCommands : Prop :=
  (∀ (s r : State) (who : Req) (w : Word), r = result s 0 → opens s who 0x300002 → isManager who = true → fld w 53 0 ≠ 0 →
    exec (.hoopCreate who w) s = .next (hoopResult r (fld w 59 54) 2) ∧
    exec (.hoopRebind who w) s = .next (hoopResult r (fld w 59 54) 2) ∧
    exec (.hoopDestroy who w) s = .next (hoopResult r (fld w 59 54) 2) ∧
    exec (.hoopCancel who w) s = .next (hoopResult r (fld w 59 54) 2)) ∧
  (∀ (s : State) (n : Nat) (w : Word), opens s (.vf n) 0x300002 →
    exec (.hoopCreate (.vf n) w) s = .next (result s 4) ∧ exec (.hoopRebind (.vf n) w) s = .next (result s 4) ∧
    exec (.hoopDestroy (.vf n) w) s = .next (result s 4) ∧ exec (.hoopCancel (.vf n) w) s = .next (result s 4)) ∧
  (∀ (s r : State) (who : Req) (w : Word), r = result s 0 → opens s who 0x300002 → isManager who = true → fld w 53 0 = 0 →
    exec (.hoopCreate who w) s = .next (if bindCode r (fld w 59 54) false ≠ 0
      then hoopResult r (fld w 59 54) (bindCode r (fld w 59 54) false) else createHoop r (fld w 59 54))) ∧
  (∀ (s : State) (who : Req) (w : Word), opens s who 0x300002 → isManager who = true → fld w 53 0 = 0 →
    bindCode (result s 0) (fld w 59 54) true = 0 →
    ∃ t, exec (.hoopRebind who w) s = .next t ∧ hoopState t (fld w 59 54) = 2 ∧
      (hoop t (fld w 59 54)).pending = some (hoopRow s (fld w 59 54)) ∧
      (hoop t (fld w 59 54)).desc = (hoop s (fld w 59 54)).desc ∧ fld (cell t 0x300003 (fld w 59 54) 0) 59 56 = 1) ∧
  (∀ (s : State) (who : Req) (w : Word), opens s who 0x300002 → isManager who = true → fld w 53 0 = 0 →
    hoopState s (fld w 59 54) = 1 → hoopCtxs s (fld w 59 54) = [] → fhidLive s (fld w 59 54) = false →
    ∃ t, exec (.hoopDestroy who w) s = .next t ∧ hoopState t (fld w 59 54) = 3 ∧ t.hoops = s.hoops) ∧
  (∀ (s : State) (who : Req) (w : Word) (d : List Word), opens s who 0x300002 → isManager who = true → fld w 53 0 = 0 →
    hoopState s (fld w 59 54) = 2 → (hoop s (fld w 59 54)).pending = some d →
    ∃ t, exec (.hoopCancel who w) s = .next t ∧ hoopState t (fld w 59 54) = 1 ∧ (hoop t (fld w 59 54)).pending = none ∧
      (hoop t (fld w 59 54)).desc = (hoop s (fld w 59 54)).desc ∧ fld (cell t 0x300003 (fld w 59 54) 0) 59 56 = 7) ∧
  (∀ (s r : State) (who : Req) (w : Word), r = result s 0 → opens s who 0x310003 → isManager who = true →
    exec (.epochStage who w) s = .next (stageBank r (fld w 2 0)) ∧ exec (.epochOpen who w) s = .next (openBank r) ∧
    exec (.epochCommit who w) s = .next (commitBank r) ∧ exec (.epochAbandon who w) s = .next (abandonBank r)) ∧
  (∀ (s : State) (who : Req) (v : Word), opens s who 0x310001 → isManager who = true → nodeIdOk (result s 0) = true →
    exec (.nodeIdWrite who v) s = .next (setReg (result s 0) 0x310001 0 (fld v 15 15 * 2 ^ 15 + fld v 7 0))) ∧
  (∀ (s : State) (who : Req) (v : Word) (e : Nat), opens s who 0x310001 → isManager who = true → e < 8 →
    (eyelet s e).state ≠ 0 → exec (.nodeIdWrite who v) s = .next (result (result s 0) 10))

/-- Outside safe state: REBIND_APPLY of a PENDING hoop whose queues are at a seam brings the pending descriptor and its
floss settings into force; before that it changes nothing. DESTROY_DONE of a DESTROYING hoop leaves it FREE, holding
nothing, and no lookaside entry, translation, fault record or slot of it is left. UNIT_SCRUB_DONE of a bobbin with a
unit waiting, once the quarter's clocks run, takes the first out of those waiting and clears its bit of the scrub
status; before that it starts the PLL. RETIRED_LANTERN_REMOVE of a hoop at a seam puts in force its descriptor without
them, and one of them that was still joining joins no more. EPOCH_DRAIN_TIMEOUT after the drain time completes every
remaining request of the draining epoch with EPOCH_STALE; before, or drained already, it changes nothing. -/
def Obligations.HoopEvents : Prop :=
  (∀ (s : State) (h : Nat) (d : List Word), s.snuffer.safe = false → (hoop s h).pending = some d → hoopState s h = 2 →
    hoopAtSeam s h = true →
    ∃ t, exec (.rebindApply h) s = .next t ∧ (hoop t h).pending = none ∧ (hoop t h).floss = (hoop s h).flossNew ∧
      (hoop t h).house = (hoop s h).houseNew ∧ (hoop t h).desc = d) ∧
  (∀ (s : State) (h : Nat), hoopAtSeam s h = false → exec (.rebindApply h) s = .next s) ∧
  (∀ (s : State) (h : Nat), s.snuffer.safe = false → hoopState s h = 3 → keysRise s.hoops = true →
    ∃ t, exec (.destroyDone h) s = .next t ∧ hoopState t h = 0 ∧ hoop t h = hoopFree ∧ (∀ e ∈ t.rng.look, e.hoop ≠ h) ∧
      (∀ x ∈ t.rng.xreqs, x.hoop ≠ h) ∧ (∀ r ∈ t.rng.records, r.hoop ≠ h) ∧ (∀ p ∈ t.slots, p.2.hoop ≠ h)) ∧
  (∀ (s : State) (h : Nat), hoopState s h ≠ 3 → exec (.destroyDone h) s = .next s) ∧
  (∀ (s : State) (b j : Nat) (rest : List Nat), s.snuffer.safe = false → tget s.scrubs b = some (j :: rest) → j < 64 →
    keysRise s.scrubs = true → pll s (bobQuarter b) = .running →
    ∃ t, exec (.unitScrubDone b) s = .next t ∧ (tget t.scrubs b).getD [] = rest ∧ bit (cell t 0x300004 b 0) j = false) ∧
  (∀ (s : State) (b j : Nat) (rest : List Nat), s.snuffer.safe = false → tget s.scrubs b = some (j :: rest) →
    pll s (bobQuarter b) ≠ .running → exec (.unitScrubDone b) s = .next (needClock s (bobQuarter b)).state) ∧
  (∀ (s : State) (b : Nat), tget s.scrubs b = none → exec (.unitScrubDone b) s = .next s) ∧
  (∀ (s : State) (h : Nat), s.snuffer.safe = false → hoopLive s h = true → dropRetired s (hoop s h).desc ≠ (hoop s h).desc →
    hoopAtSeam s h = true →
    exec (.retiredLanternRemove h) s = .next (((hoop s h).joining.filter
      (fun l => !descBinds (dropRetired s (hoop s h).desc) l)).foldl joinAwake
      (modHoop (bindDesc s h (dropRetired s (hoop s h).desc)) h (fun x => { x with pending := x.pending.map (dropRetired s) })))) ∧
  (∀ (s : State) (h : Nat), dropRetired s (hoop s h).desc = (hoop s h).desc → exec (.retiredLanternRemove h) s = .next s) ∧
  (∀ (s : State) (i e : Nat), s.snuffer.safe = false → bankIn s .draining = some i → s.fab.drained = false →
    s.fab.openAt + 1000000 * s.fab.drainMs ≤ s.clk.wick → (bank s i).epoch = e →
    exec .epochDrainTimeout s = .next (epochCheck (stalePicots ((List.range 8).foldl (fun s k => staleMessages s e k)
      (completeRemotes s (fun r => decide (r.epoch = e)) .epochStale)) e))) ∧
  (∀ s : State, bankIn s .draining = none ∨ s.fab.drained = true → exec .epochDrainTimeout s = .next s)

/-- Where open to the requester, QUEUE_COMMAND leaves RESULT at its first failing check's code and changes nothing else,
or: CREATE leaves the queue ACTIVE with the written row and nothing in it, the DESTROY commands leave it being
destroyed, RESUME takes it on. With no DROWSE to leave, a doorbell behind a BAR4 write of its function that is still
to land, or behind a doorbell of it that is held, is held; else: an SQ_TAIL write by a requester that owns the queue,
of a queue neither FREE nor DESTROYING, that keeps within the ring submits the entries; one that does not puts the
queue in ERROR with cause 1. A CQ_HEAD write no further than the records written is taken; a further one is ignored
and counted. A doorbell of a requester that does not own the queue, or of a FREE or DESTROYING queue, is dropped and
counted. Outside safe state QUEUE_DESTROY_DONE of a queue not DESTROYING changes nothing, and of a drained one that
was in ERROR it frees the queue. -/
def Obligations.QueueCommands : Prop :=
  (∀ (s r : State) (who : Req) (w : Word), r = result s 0 → opens s who 0x900011 →
    (queueCode r who (setFld w 63 60 1) ≠ 0 → exec (.queueCreate who w) s =
      .next (queueResult r (fld w 11 0) (queueCode r who (setFld w 63 60 1)))) ∧
    (queueCode r who (setFld w 63 60 2) ≠ 0 → exec (.destroyDrain who w) s =
      .next (queueResult r (fld w 11 0) (queueCode r who (setFld w 63 60 2)))) ∧
    (queueCode r who (setFld w 63 60 3) ≠ 0 → exec (.destroyAbort who w) s =
      .next (queueResult r (fld w 11 0) (queueCode r who (setFld w 63 60 3)))) ∧
    (queueCode r who (setFld w 63 60 4) ≠ 0 → exec (.queueResume who w) s =
      .next (queueResult r (fld w 11 0) (queueCode r who (setFld w 63 60 4))))) ∧
  (∀ (s : State) (who : Req) (w : Word), opens s who 0x900011 → queueCode (result s 0) who (setFld w 63 60 1) = 0 →
    ∃ t, exec (.queueCreate who w) s = .next t ∧ queueState t (fld w 11 0) = 1 ∧
      (queue t (fld w 11 0)).row = rowWords s 0x900010 (fld w 11 0) 8 ∧ (queue t (fld w 11 0)).flights = [] ∧
      (queue t (fld w 11 0)).tail = 0 ∧ (queue t (fld w 11 0)).written = 0) ∧
  (∀ (s : State) (who : Req) (w : Word), opens s who 0x900011 → queueCode (result s 0) who (setFld w 63 60 4) = 0 →
    exec (.queueResume who w) s = .next (resumeQueue (queueResult (result s 0) (fld w 11 0) 0) (fld w 11 0))) ∧
  (∀ (s : State) (who : Req) (w : Word), opens s who 0x900011 → queueCode (result s 0) who (setFld w 63 60 2) = 0 →
    exec (.destroyDrain who w) s = .next (beginDestroy (queueResult (result s 0) (fld w 11 0) 0) (fld w 11 0)
      { abort := false, fence := if bit w 59 then some (fld w 45 32) else none, via := some who, tail := 0, was := 0, silent := false, lost := false })) ∧
  (∀ (s : State) (who : Req) (w : Word), opens s who 0x900011 → queueCode (result s 0) who (setFld w 63 60 3) = 0 →
    exec (.destroyAbort who w) s = .next (showQueue (abortQueue (beginDestroy (queueResult (result s 0) (fld w 11 0) 0)
      (fld w 11 0) { abort := true, fence := if bit w 59 then some (fld w 45 32) else none, via := some who, tail := 0, was := 0, silent := false, lost := false }) (fld w 11 0) .queueDestroyed) (fld w 11 0))) ∧
  (∀ (s : State) (who : Req) (q : Nat) (v : Word), s.power.sleep ≠ 2 → bellWaits s who = true →
    exec (.sqTailWrite who q v) s = .next (bellHeld s (.sqTail who q v)) ∧
    exec (.cqHeadWrite who q v) s = .next (bellHeld s (.cqHead who q v))) ∧
  (∀ (s : State) (who : Req) (q : Nat) (v : Word), s.power.sleep ≠ 2 → bellWaits s who = false →
    ownsQueue s who q = false ∨ queueState s q = 0 ∨ queueState s q = 4 →
    exec (.sqTailWrite who q v) s = .next (bump s 0x900014 0) ∧ exec (.cqHeadWrite who q v) s = .next (bump s 0x900014 0)) ∧
  (∀ (s : State) (who : Req) (q : Nat) (v : Word), s.power.sleep ≠ 2 → bellWaits s who = false →
    ownsQueue s who q = true → queueState s q ≠ 0 →
    queueState s q ≠ 4 → fld v 31 0 ≠ (queue s q).tail →
    (sub32 (fld v 31 0) (queue s q).tail ≤ sqSize (queue s q) - sub32 (queue s q).tail (sqHead (queue s q)) →
      ∃ t, exec (.sqTailWrite who q v) s = .next t ∧ (queue t q).tail = fld v 31 0 ∧ queueState t q = queueState s q) ∧
    (¬ sub32 (fld v 31 0) (queue s q).tail ≤ sqSize (queue s q) - sub32 (queue s q).tail (sqHead (queue s q)) →
      ∃ t, exec (.sqTailWrite who q v) s = .next t ∧ queueState t q = 3 ∧ fld (cell t 0x900012 q 0) 55 52 = 1 ∧
        t.queues = s.queues)) ∧
  (∀ (s : State) (who : Req) (q : Nat) (v : Word), s.power.sleep ≠ 2 → bellWaits s who = false →
    ownsQueue s who q = true → queueState s q ≠ 0 →
    queueState s q ≠ 4 →
    (sub32 (fld v 31 0) (queue s q).cqHead ≤ sub32 (queue s q).written (queue s q).cqHead →
      exec (.cqHeadWrite who q v) s =
        .next (showActivity (modQueue s q (fun x => { x with cqHead := fld v 31 0 })) (queueCtx s q))) ∧
    (¬ sub32 (fld v 31 0) (queue s q).cqHead ≤ sub32 (queue s q).written (queue s q).cqHead →
      exec (.cqHeadWrite who q v) s = .next (bump s 0x900014 0))) ∧
  (∀ (s : State) (q : Nat), queueState s q ≠ 4 → exec (.queueDestroyDone q) s = .next s) ∧
  (∀ (s : State) (q : Nat) (d : Destroy), s.snuffer.safe = false → queueState s q = 4 → (queue s q).destroy = some d →
    queueDrained (queue s q) = true → d.silent = false → d.was = 2 → d.fence = none → keysRise s.queues = true →
    ∃ t, exec (.queueDestroyDone q) s = .next t ∧ queueState t q = 0 ∧ queue t q = queueFree)

/-- Outside safe state ENTRY_READ of an ACTIVE queue with a submitted entry that can be read appends it, and a ring that
cannot be read puts the queue in ERROR with cause 2; with nothing submitted it changes nothing. ENTRY_ADMIT of a front
entry that is admissible completes it with FORMAT when it breaks its rules, with the status of a refusing gate, holds
it while a gate holds, and admits it when the gate passes. SEAM and FENCE complete an admitted entry of their opcode.
An IMAGE_LOAD of length 0 completes with FORMAT at its admission, one whose destination the context may not use or an
image holds with RIGHTS; else its destination is held from its admission on, and IMAGE_LOAD hands a mover the copy;
IMAGE_LOAD_DONE of a copy that ended with a failure, or whose image is not valid, releases the image and completes
with it, of a valid image it loads the image under the lowest free handle, and completes with ALLOC_FAIL where 16 are
loaded (that it is validated first is the model's choice, log 149); IMAGE_UNLOAD of a handle not loaded completes with
FORMAT, of a loaded one whose strands have completed it releases the image and completes. COMPLETION_RECORD_WRITE of
an ACTIVE queue whose oldest record can be written ends that entry; one that faults makes the queue UNDELIVERABLE;
with no record due, or while a confirming read of the entry's work is outstanding, it changes nothing; of an
UNDELIVERABLE queue whose RESUME waits it tries the held record again. HOST_READ_ERROR of a lantern ends its strand
with RIGHTS, of a core's fetch or load raises cause 1 or 5, of the front end's read of an entry puts the queue in
ERROR with cause 2; each counts. -/
def Obligations.QueueEntries : Prop :=
  (∀ (s u : State) (q : Nat) (ws : List Word), s.snuffer.safe = false → queueState s q = 1 →
    sqHead (queue s q) ≠ (queue s q).tail → queueRuns s q = true → isQf2 (queue s q) = false →
    feWords s (feAcc s q (houseClass s (queueHoop s q))) (ent (queue s q).row 1 +
      128 * (sqHead (queue s q) % sqSize (queue s q))) 16 = .ok ws u →
    exec (.entryRead q) s = .next (showQueue (modQueue (feDone u q) q
      (fun x => { x with entries := x.entries ++ [(sqHead (queue s q), ws)] })) q)) ∧
  (∀ (s u : State) (q : Nat) (st : Status), s.snuffer.safe = false → queueState s q = 1 →
    sqHead (queue s q) ≠ (queue s q).tail → queueRuns s q = true → isQf2 (queue s q) = false →
    feWords s (feAcc s q (houseClass s (queueHoop s q))) (ent (queue s q).row 1 +
      128 * (sqHead (queue s q) % sqSize (queue s q))) 16 = .fail st u →
    exec (.entryRead q) s = .next (queueError (feDone u q) q 2)) ∧
  (∀ (s : State) (q : Nat), sqHead (queue s q) = (queue s q).tail → exec (.entryRead q) s = .next s) ∧
  (∀ (s u : State) (q k : Nat) (ws : List Word) (back : List (Nat × List Word)), s.snuffer.safe = false → queueState s q = 1 →
    (queue s q).destroy = none → (queue s q).entries = (k, ws) :: back → admissible s q ws = (true, u) →
    (entryRulesOk (hoopRole s (queueHoop s q)) (isQf2 (queue s q)) ws = false →
      exec (.entryAdmit q) s = .next (finishFlight (admitEntry s q k ws [] []) q k .format)) ∧
    (entryRulesOk (hoopRole s (queueHoop s q)) (isQf2 (queue s q)) ws = true → entryGate s q k ws = .pass →
      exec (.entryAdmit q) s = .next (admitFront s q k ws))) ∧
  (∀ (s : State) (q : Nat), (queue s q).entries = [] → exec (.entryAdmit q) s = .next s) ∧
  (∀ (s : State) (q e : Nat) (f : Flight), flight s q e = some f → f.phase = .admitted →
    (entryOp f.words = 2 → exec (.seam q e) s = .next (finishFlight s q e .ok)) ∧
    (entryOp f.words = 7 → exec (.fence q e) s = .next (finishFlight s q e .ok)) ∧
    (entryOp f.words = 8 → loadingImage s (queueHoop s q) q e = none → exec (.imageLoad q e) s = .next s) ∧
    (entryOp f.words = 9 → (∀ i ∈ (hoop s (queueHoop s q)).images, i.loading = true ∨ i.handle ≠ fld (wordAt f.words 0) 3 0) →
      exec (.imageUnload q e) s = .next (finishFlight s q e .format))) ∧
  (∀ (s : State) (q k : Nat) (ws : List Word), entryOp ws = 8 →
    (ent ws 8 = 0 → admitFront s q k ws = finishFlight (admitEntry s q k ws [] []) q k .format) ∧
    (∀ st u, ent ws 8 ≠ 0 → imageDest s q (ent ws 7) (ent ws 8) = .fail st u →
      admitFront s q k ws = finishFlight (admitEntry u q k ws [] []) q k .rights) ∧
    (∀ parts u, ent ws 8 ≠ 0 → imageDest s q (ent ws 7) (ent ws 8) = .ok parts u →
      ((∃ p ∈ parts, imageHolds u p.1 p.2 = true) →
        admitFront s q k ws = finishFlight (admitEntry u q k ws [] []) q k .rights) ∧
      ((∀ p ∈ parts, imageHolds u p.1 p.2 = false) →
        (hoop (admitFront s q k ws) (queueHoop u q)).images = (hoop u (queueHoop u q)).images ++
          [{ queue := q, entry := k, handle := 0, loading := true, parts := parts, code := [] }]))) ∧
  (∀ (s : State) (q e : Nat) (f : Flight) (i : Image), flight s q e = some f → f.phase = .admitted → entryOp f.words = 8 →
    loadingImage s (queueHoop s q) q e = some i →
    ∃ t j, exec (.imageLoad q e) s = .next t ∧ (addrQuarter (i.parts.headD (0, 0)).1, j) ∈ t.moverQ ∧ j.work = 1 ∧
      j.queue = q ∧ j.entry = e ∧ inPhase t q e .running = true) ∧
  (∀ (s : State) (q e : Nat) (f : Flight) (i : Image), flight s q e = some f → f.phase = .admitted → entryOp f.words = 9 →
    i ∈ (hoop s (queueHoop s q)).images → i.loading = false → i.handle = fld (wordAt f.words 0) 3 0 → f.waitOn = [] →
    ∃ t, exec (.imageUnload q e) s = .next t ∧ t.mem = s.mem ∧
      ∀ x ∈ (hoop t (queueHoop s q)).images, x.loading = true ∨ x.handle ≠ fld (wordAt f.words 0) 3 0) ∧
  (∀ (s : State) (q e : Nat) (f : Flight) (i : Image), s.snuffer.safe = false → flight s q e = some f → entryOp f.words = 8 →
    f.phase = .running → f.aux = 2 → loadingImage s (queueHoop s q) q e = some i → f.status = .rights →
    ∃ u, exec (.imageLoadDone q e) s = .next (finishFlight (dropImage u q e) q e .rights)) ∧
  (∀ (s u : State) (q e h : Nat) (f : Flight) (i : Image) (bs : List Byte), s.snuffer.safe = false → flight s q e = some f →
    entryOp f.words = 8 → f.phase = .running → f.aux = 2 → h = queueHoop s q → loadingImage s h q e = some i → f.status = .ok →
    readParts s { eng := .fe, hoop := some h, ctx := some (queueCtx s q), flow := houseFlow s h } i.parts = ((bs, false), u) →
    (validateImage u bs = .ok → ∀ k, freeHandle u h = some k → exec (.imageLoadDone q e) s =
      .next (finishFlight (modFlight (modHoop u h (fun x => { x with images := x.images.map (fun y =>
        if y = i then { y with loading := false, handle := k, code := imageCode bs i.parts } else y) })) q e
        (fun f => { f with detail := k })) q e .ok)) ∧
    (validateImage u bs = .ok → freeHandle u h = none → exec (.imageLoadDone q e) s =
      .next (finishFlight (dropImage u q e) q e .allocFail)) ∧
    (validateImage u bs ≠ .ok → exec (.imageLoadDone q e) s =
      .next (finishFlight (dropImage u q e) q e (validateImage u bs)))) ∧
  (∀ (s u : State) (q : Nat) (f : Flight), s.snuffer.safe = false → queueState s q = 1 → (queue s q).destroy = none →
    nextRecord s q = some f → (∀ c ∈ s.fab.confirms, c.1 ≠ .work q f.entry) →
    (putRecord s q (flightRecord (queue s q) f) = .ok () u → exec (.completionRecordWrite q) s = .next (endEntry u q f)) ∧
    (∀ st, putRecord s q (flightRecord (queue s q) f) = .fail st u → exec (.completionRecordWrite q) s =
      .next (setReg (setQueueState u q 2) 0x900013 q (recordVa (queue s q))))) ∧
  (∀ (s : State) (q : Nat), nextRecord s q = none → exec (.completionRecordWrite q) s = .next s) ∧
  (∀ (s : State) (q p : Nat) (f : Flight), queueState s q ≠ 2 → nextRecord s q = some f → (.work q f.entry, p) ∈ s.fab.confirms →
    exec (.completionRecordWrite q) s = .next s) ∧
  (∀ (s : State) (q : Nat) (f : Flight), s.snuffer.safe = false → queueState s q = 2 → nextRecord s q = some f →
    exec (.completionRecordWrite q) s = .next (if (queue s q).resuming = true then resumeQueue s q else s)) ∧
  (∀ (s : State) (l c q : Nat) (fetch : Bool) (va : Word), s.snuffer.safe = false →
    exec (.hostReadError (.lan l) ⟨q, fetch, va⟩) s =
      .next (endStrand (countP s (hoopPort s ((lanternHoop s l).getD 64)) 7 1) l .rights) ∧
    exec (.hostReadError (.core l c) ⟨q, fetch, va⟩) s =
      .next (coreException (countP s (hoopPort s ((lanternHoop s l).getD 64)) 7 1) l c (if fetch = true then 1 else 5) va)) ∧
  (∀ (s : State) (q : Nat) (va : Word), s.snuffer.safe = false → queueState s q = 1 → (queue s q).destroy = none →
    sqHead (queue s q) ≠ (queue s q).tail →
    exec (.hostReadError .fe ⟨q, true, va⟩) s = .next (queueError (feDone (countP s (hoopPort s (queueHoop s q)) 7 1) q) q 2))

/-- FLR_VF of a VF that exists sets VF Enable of its port, gives it the hoop and window written for it with TDISP
unlocked, and, where it was enabled and fronted a live hoop, requests an L3 of that hoop; a VF that does not exist
changes nothing. FLR_PF clears VF Enable of the port. PERSTn in power-up or backup operation is only recorded, each
edge; afterwards on H0 it requests the L5 and unlinks the port. Training brings the port up at an allowed width, speed
and protocol and never a port under PERSTn, not ready, or H1 while PORT_MODE is 0. A decoder commit on a CXL port
takes the written decoder and the hoop of its row of CXL_HDM_HOOP. A .mem access to no run of a hoop bound to it
answers poison, or is dropped, and is counted, as is a write of memory that an image holds; a read of it that is ready
answers the bytes stored. A fence-window read answers the value, 0 of an alias, and 0, counted, for a VF that may not
use the fence. An access of BAR0 that is no command of its own is dropped: a read answers 0; one in the dictionary
window, and a write to a reserved offset, is counted, a write to the invalidation page in the hub's counter (what else
is counted is the model's choice, log 142). A read of a word of a doorbell page that the function owns answers it; any
other access of BAR2 that is no doorbell is dropped and counted. An IDE stream is set up on a trained port; TDISP LOCK
leads from unlocked to locked, STOP to unlocked, START from locked to run, refused in confidential mode with no
selective stream. With no confirming read of its kind outstanding CONFIRMING_READ_DONE changes nothing; else the
oldest is answered: one that failed counts at its port and puts the queue in ERROR, raises the fault ring's error
state 2, or the dump's error with its records staged again. A debug access without its right is refused RIGHTS; a scan
stops since no chain is described, an address in no local range faults, and an allowed memory read answers the bytes;
run control sets whether a lantern runs (its form is the model's choice, log 198). -/
def Obligations.HostPorts : Prop :=
  (∀ (s u : State) (n h : Nat), vfEnabled s n = true → vfHoop s n = some h → hoopLive s h = true → u = portReset s 3 h →
    exec (.flrVf n) s = .next (let v := modVf (modPort u (vfPort s n) (fun x => { x with vfEnable := true })) n (fun _ => writtenVf s n)
      { v with server := { v.server with mailboxes := tdel s.server.mailboxes n } })) ∧
  (∀ (s : State) (n : Nat), vfSplit s + regN s 0x900004 1 ≤ n → exec (.flrVf n) s = .next s) ∧
  (∀ (s : State) (p : Nat), p < 2 → s.ports.length = 2 → ∃ t, exec (.flrPf p) s = .next t ∧ (port t p).vfEnable = false ∧
    (∀ n < 64, vfPort s n = p → vfEnabled t n = false)) ∧
  (∀ (s : State) (p : Nat), p < 2 → s.ports.length = 2 → (port s p).perst = false → perstHeld s = true →
    ∃ t, exec (.perst p) s = .next t ∧ t.snuffer.perstPending = s.snuffer.perstPending ++ [p] ∧
      t.snuffer.resets = s.snuffer.resets ∧ (port t p).perst = true) ∧
  (∀ s : State, s.ports.length = 2 → (port s 0).perst = false → perstHeld s = false →
    ∃ t, exec (.perst 0) s = .next t ∧ (port t 0).perst = true ∧ (port t 0).trained = false ∧
      (∃ r ∈ t.snuffer.resets ++ t.snuffer.waiting, r.level = 5)) ∧
  (∀ (s : State) (p : Nat), p < 2 → s.ports.length = 2 → (port s p).perst = true →
    ∃ t, exec (.perstRelease p) s = .next t ∧ (port t p).perst = false ∧
      t.snuffer.perstPending = (if s.power.backup then s.snuffer.perstPending ++ [p + 2] else s.snuffer.perstPending)) ∧
  (∀ (s : State) (p width speed : Nat) (flit cxl : Bool),
    2 ≤ p ∨ (p = 1 ∧ regN s 0x900001 0 ≠ 1) ∨ (port s p).perst = true ∨ (port s p).ready = false ∨ regN s 0x900002 0 < speed →
    exec (.hostLinkTrained p width speed flit cxl) s = .next s) ∧
  (∀ (s : State) (width speed : Nat) (cxl : Bool), s.ports.length = 2 → (port s 0).perst = false → (port s 0).ready = true →
    5 ≤ s.power.step → regN s 0x900001 0 = 0 → width ∈ [4, 8, 16] → speed ∈ [1, 2, 3] → speed ≤ regN s 0x900002 0 →
    (cxl = true → 2 ≤ speed) →
    ∃ t, exec (.hostLinkTrained 0 width speed (decide (speed = 3)) cxl) s = .next t ∧ (port t 0).trained = true ∧
      (port t 0).width = width ∧ (port t 0).speed = speed ∧ (port t 0).cxl = cxl) ∧
  (∀ (s : State) (p d base size ways gran : Nat), p < 2 → s.ports.length = 2 → d < 4 → (port s p).cxl = true →
    ways ∈ [1, 2, 4, 8] → gran ∈ [256, 512, 1024, 2048, 4096, 8192, 16384] →
    ∃ t, exec (.hdmDecoderCommit p d base size ways gran) s = .next t ∧ (decoder t p d).base = base ∧
      (decoder t p d).size = size ∧
      (decoder t p d).hoop = (if bit (cell s 0x900008 (4 * p + d) 0) 7
        then some (fld (cell s 0x900008 (4 * p + d) 0) 5 0) else none)) ∧
  (∀ (s : State) (p d dpa len : Nat), memRun s p d dpa len = none →
    exec (.cxlMemRead p d dpa len) s = .next (reply (countP s p 5 1) (List.replicate len 0) true 0)) ∧
  (∀ (s u : State) (p d dpa len h a : Nat), memRun s p d dpa len = some (h, a) →
    localReady s (memWho s p h) a len false false = .ok () u →
    exec (.cxlMemRead p d dpa len) s =
      .next (answerData (readRun (hostCross u (.pf p) 0 (memWho s p h).flow len) (memWho s p h) a len 0))) ∧
  (∀ (s : State) (p d dpa : Nat) (data : List Byte), memRun s p d dpa data.length = none →
    exec (.cxlMemWrite p d dpa data) s = .next (countP s p 5 1)) ∧
  (∀ (s u : State) (p d dpa h a : Nat) (data : List Byte), memRun s p d dpa data.length = some (h, a) →
    (s.snuffer.safe = false → deviceResetting s = false → keyRetired s (memWho s p h) a = false →
      imageHolds s a data.length = false → needClock s (addrQuarter a) = .ok () u → meetsRemap u a data.length = false →
      exec (.cxlMemWrite p d dpa data) s =
        .next (writeRun (hostCross u (.pf p) 1 (memWho s p h).flow data.length) (memWho s p h) a data false)) ∧
    (imageHolds s a data.length = true → exec (.cxlMemWrite p d dpa data) s = .next (countP s p 5 1))) ∧
  (∀ (s : State) (who : Req) (f : Nat), f < 16384 → windowFence s who f = true →
    exec (.fenceWindowRead who f) s = .next (reply (hostCross s who 0 none 8)
      (leBytes 8 (if (fence s f).alias_ then 0 else (fence s f).value)) false 0)) ∧
  (∀ (s : State) (n f : Nat), f < 16384 → (fence s f).valid = false → exec (.fenceWindowRead (.vf n) f) s =
    .next (reply (countP (hostCross s (.vf n) 0 none 8) (vfPort s n) 6 1) (leBytes 8 0) false 0)) ∧
  (∀ (s : State) (who : Req) (off len : Nat),
    (off < 0x2000000 → exec (.barAccessDrop ⟨who, 0, off, len⟩ true) s = .next (reply (bump s 0x900014 0) (List.replicate len 0) false 0)) ∧
    (0x2000000 ≤ off → exec (.barAccessDrop ⟨who, 0, off, len⟩ true) s = .next (reply s (List.replicate len 0) false 0)) ∧
    (0x2000000 ≤ off → off < 0x2001000 → exec (.barAccessDrop ⟨who, 0, off, len⟩ false) s = .next (reply (countHub s 0 1) [] false 0)) ∧
    (off < 0x2000000 ∨ 0x2001000 ≤ off →
      exec (.barAccessDrop ⟨who, 0, off, len⟩ false) s = .next (reply (bump s 0x900014 0) [] false 0)) ∧
    exec (.barAccessDrop ⟨who, 2, off, len⟩ false) s = .next (reply (bump s 0x900014 0) [] false 0)) ∧
  (∀ (s : State) (who : Req) (q i len : Nat), len = 4 ∨ len = 8 → i < 4 →
    (ownsQueue s who q = true → exec (.barAccessDrop ⟨who, 2, 4096 * q + 8 * i, len⟩ true) s =
      .next (reply s (leBytes len (doorbellWord s q i)) false 0)) ∧
    (ownsQueue s who q = false → exec (.barAccessDrop ⟨who, 2, 4096 * q + 8 * i, len⟩ true) s =
      .next (reply (bump s 0x900014 0) (List.replicate len 0) false 0))) ∧
  (∀ (s : State) (p n : Nat), p < 2 → s.ports.length = 2 → (port s p).trained = true → n < 4 →
    ∃ t u, exec (.ideStreamSetup p n true) s = .next t ∧ n ∈ (port t p).ideSel ∧
      exec (.ideStreamSetup p n false) s = .next u ∧ (port u p).ideLink = true) ∧
  (∀ (s : State) (n : Nat), vfEnabled s n = true → keysRise s.vfs = true →
    (∃ t, exec (.tdispRequest n .stop) s = .next t ∧ (vf t n).tdisp = .unlocked ∧ t.answer.status = 0) ∧
    ((vf s n).tdisp = .unlocked → ∃ t, exec (.tdispRequest n .lock) s = .next t ∧ (vf t n).tdisp = .locked ∧ t.answer.status = 0) ∧
    ((vf s n).tdisp ≠ .unlocked → exec (.tdispRequest n .lock) s = .next (reply s [] false 1)) ∧
    ((vf s n).tdisp = .locked → (s.keeper.conf = true → (port s (vfPort s n)).ideSel ≠ []) →
      ∃ t, exec (.tdispRequest n .start) s = .next t ∧ (vf t n).tdisp = .run ∧ t.answer.status = 0) ∧
    (s.keeper.conf = true → (port s (vfPort s n)).ideSel = [] →
      exec (.tdispRequest n .start) s = .next (reply s [] false 1))) ∧
  (∀ (s : State) (what : Confirm) (ok : Bool), (∀ c ∈ s.fab.confirms, c.1 ≠ what) → exec (.confirmingReadDone what ok) s = .next s) ∧
  (∀ (s u : State) (what : Confirm) (p : Nat), s.snuffer.safe = false → s.fab.confirms.find? (fun c => decide (c.1 = what)) = some (what, p) →
    u = { s with fab := { s.fab with confirms := dropFirst (fun c => decide (c.1 = what)) s.fab.confirms } } →
    (what ≠ .dump → what ≠ .dumpExport → exec (.confirmingReadDone what true) s = .next u) ∧
    (what = .dump → exec (.confirmingReadDone .dump true) s = .next { u with tele := { u.tele with ringed := u.tele.ringed.drop 1 } }) ∧
    (∀ q, what = .ring q → queueState s q = 1 →
      exec (.confirmingReadDone (.ring q) false) s = .next (queueError (countP u p 4 1) q 3)) ∧
    (∀ q e, what = .work q e → exec (.confirmingReadDone (.work q e) false) s = .next (workUndelivered (countP u p 4 1) q e)) ∧
    (∀ h, what = .faults h → exec (.confirmingReadDone (.faults h) false) s = .next (setReg (countP u p 4 1) 0x710004 h 2)) ∧
    (what = .dump → ∃ t, exec (.confirmingReadDone .dump false) s = .next t ∧ t.tele.error = true ∧
      t.tele.staged = s.tele.ringed ++ s.tele.staged ∧ t.tele.ringed = [])) ∧
  (∀ (s : State) (acc : DebugAcc), debugOk s acc = false →
    exec (.debugPortAccess acc) s = .next (refuse (debugTokenExpire s) .rights)) ∧
  (∀ s : State, debugOk s .scan = true → exec (.debugPortAccess .scan) s = .refused .scanChainNotDescribed) ∧
  (∀ (s : State) (a n : Nat), debugOk s (.readLocal a n) = true → region s a = none →
    exec (.debugPortAccess (.readLocal a n)) s = .fault .nonexistentLocal) ∧
  (∀ (s u : State) (a n : Nat), debugOk s (.readLocal a n) = true → debugExists s a n = true → debugBacked s a n = true →
    a < 0xD000000000 → localReady s devWho a n false false = .ok () u →
    exec (.debugPortAccess (.readLocal a n)) s = .next (answerData (readRun u devWho a n 0))) ∧
  (∀ (s : State) (l : Nat), debugOk s (.readState l) = true →
    ∃ t, exec (.debugPortAccess (.readState l)) s = .next t ∧ t.answer.status = 0 ∧
      (∀ r, (lantern s l).cur = some r → t.answer.data = leBytes 8 r.pos)) ∧
  (∀ (s : State) (l run : Nat), debugOk s (.control l run) = true →
    exec (.debugPortAccess (.control l run)) s = .next (reply (modLantern s l (fun x => { x with run := run % 3 })) [] false 0))

/-- Where open to the requester, OBJECT_COMMAND, FENCE_COMMAND and CONTEXT_COMMAND leave RESULT of the named row at the
first failing check's code and nothing else. Passing, CREATE of an object makes it VALID with the written row and one
reference, held by its owner; REF adds a reference; UNREF takes one away and ends the object with the last. ALLOC of a
fence makes it VALID with the staged fields and value; FREE makes it invalid; RESET gives it its initial value and no
ERROR. CREATE of a context leaves it RESIDENT while the hoop has fewer than 16 residents, else SWAPPED, bound to its
hoop; TEARDOWN begins its teardown, which TEARDOWN_DONE ends once its slots have done what they owe and its work is at
rest, leaving it FREE, and not before. A signal to a fence that is not VALID, or from a VF whose hoop does not own it,
is dropped and counted; a larger value is taken and the met waits released, ERROR wins over later signals.
HEAP_CONFIG, SWAP_AREA and SAMPLER_CONTROL rows are taken or refused with their code. -/
def Obligations.ObjectCommands : Prop :=
  (∀ (s r : State) (who : Req) (w : Word), r = result s 0 → opens s who 0x810005 →
    (objectCode r who (setFld w 63 60 1) ≠ 0 → exec (.objectCreate who w) s =
      .next (objResult r (fld w 17 0) (objectCode r who (setFld w 63 60 1)))) ∧
    (objectCode r who (setFld w 63 60 2) ≠ 0 → exec (.objectRef who w) s =
      .next (objResult r (fld w 17 0) (objectCode r who (setFld w 63 60 2)))) ∧
    (objectCode r who (setFld w 63 60 3) ≠ 0 → exec (.objectUnref who w) s =
      .next (objResult r (fld w 17 0) (objectCode r who (setFld w 63 60 3))))) ∧
  (∀ (s : State) (who : Req) (w : Word), opens s who 0x810005 → objectCode (result s 0) who (setFld w 63 60 1) = 0 →
    ∃ t, exec (.objectCreate who w) s = .next t ∧ (obj t (fld w 17 0)).valid = true ∧ (obj t (fld w 17 0)).refs = 1 ∧
      (obj t (fld w 17 0)).base = (cell s 0x810004 (fld w 17 0) 1).toNat ∧
      (obj t (fld w 17 0)).hoop = fld (cell s 0x810004 (fld w 17 0) 0) 61 56 ∧
      (context t (fld (cell s 0x810004 (fld w 17 0) 0) 55 46)).refs =
        (context s (fld (cell s 0x810004 (fld w 17 0) 0) 55 46)).refs ++ [fld w 17 0]) ∧
  (∀ (s : State) (who : Req) (w : Word), opens s who 0x810005 → objectCode (result s 0) who (setFld w 63 60 2) = 0 →
    ∃ t, exec (.objectRef who w) s = .next t ∧ (obj t (fld w 17 0)).refs = (obj s (fld w 17 0)).refs + 1 ∧
      (context t (fld w 29 20)).refs = (context s (fld w 29 20)).refs ++ [fld w 17 0]) ∧
  (∀ (s : State) (who : Req) (w : Word), opens s who 0x810005 → objectCode (result s 0) who (setFld w 63 60 3) = 0 →
    exec (.objectUnref who w) s = .next (unref (objResult (result s 0) (fld w 17 0) 0) (fld w 29 20) (fld w 17 0)) ∧
    (2 ≤ (obj s (fld w 17 0)).refs → ∃ t, exec (.objectUnref who w) s = .next t ∧
      (obj t (fld w 17 0)).refs = (obj s (fld w 17 0)).refs - 1)) ∧
  (∀ (s r : State) (who : Req) (w : Word), r = result s 0 → opens s who 0x810003 →
    (fenceCode r who (setFld w 63 60 1) ≠ 0 → exec (.fenceAlloc who w) s =
      .next (fenceResult r (fld w 13 0) (fenceCode r who (setFld w 63 60 1)))) ∧
    (fenceCode r who (setFld w 63 60 2) ≠ 0 → exec (.fenceFree who w) s =
      .next (fenceResult r (fld w 13 0) (fenceCode r who (setFld w 63 60 2)))) ∧
    (fenceCode r who (setFld w 63 60 3) ≠ 0 → exec (.fenceReset who w) s =
      .next (fenceResult r (fld w 13 0) (fenceCode r who (setFld w 63 60 3))))) ∧
  (∀ (s : State) (who : Req) (w : Word), opens s who 0x810003 →
    (fenceCode (result s 0) who (setFld w 63 60 1) = 0 →
      ∃ t, exec (.fenceAlloc who w) s = .next t ∧ fence t (fld w 13 0) = stagedFence s (fld w 13 0)) ∧
    (fenceCode (result s 0) who (setFld w 63 60 2) = 0 →
      ∃ t, exec (.fenceFree who w) s = .next t ∧ (fence t (fld w 13 0)).valid = false) ∧
    (fenceCode (result s 0) who (setFld w 63 60 3) = 0 →
      ∃ t, exec (.fenceReset who w) s = .next t ∧ (fence t (fld w 13 0)).value = (fence s (fld w 13 0)).init ∧
        (fence t (fld w 13 0)).error = false)) ∧
  (∀ (s r : State) (who : Req) (w : Word), r = result s 0 → opens s who 0x800002 →
    (contextCode r who (setFld w 63 60 1) ≠ 0 → exec (.contextCreate who w) s =
      .next (ctxResult r (fld w 9 0) (contextCode r who (setFld w 63 60 1)))) ∧
    (contextCode r who (setFld w 63 60 2) ≠ 0 → exec (.contextTeardown who w) s =
      .next (ctxResult r (fld w 9 0) (contextCode r who (setFld w 63 60 2))))) ∧
  (∀ (s : State) (who : Req) (w : Word), opens s who 0x800002 → contextCode (result s 0) who (setFld w 63 60 1) = 0 →
    ∃ t, exec (.contextCreate who w) s = .next t ∧
      (context t (fld w 9 0)).hoop = fld (cell s 0x800001 (fld w 9 0) 0) 55 50 ∧
      ctxState t (fld w 9 0) = (if (residents s (fld (cell s 0x800001 (fld w 9 0) 0) 55 50)).length < 16 then 1 else 2)) ∧
  (∀ (s : State) (who : Req) (w : Word), opens s who 0x800002 → contextCode (result s 0) who (setFld w 63 60 2) = 0 →
    exec (.contextTeardown who w) s = .next (beginTeardown (ctxResult (result s 0) (fld w 9 0) 0) (fld w 9 0) .aborted
      (if bit w 59 then some (fld w 45 32, some who) else none))) ∧
  (∀ (s : State) (c : Nat), ctxState s c ≠ 3 → exec (.teardownDone c) s = .next s) ∧
  (∀ (s u : State) (c : Nat), s.snuffer.safe = false → ctxState s c = 3 → u = (ctxSlots s c).foldl endSlot s →
    (ctxStopped u c = false → exec (.teardownDone c) s = .next u) ∧
    (ctxState u c = 3 → ctxStopped u c = true → u.snuffer.resets = [] → (context u c).tearFence = none →
      ∃ t, exec (.teardownDone c) s = .next t ∧ ctxState t c = 0)) ∧
  (∀ (s : State) (f : Nat) (v : Word) (err : Bool) (via : Option Req), (fence s f).valid = false →
    exec (.fenceSignal f v err via) s = .next (countHub s 5 1)) ∧
  (∀ (s : State) (f : Nat) (v : Word), (fence s f).valid = true → (fence s f).alias_ = false → (fence s f).error = false →
    s.snuffer.safe = false → (fence s f).value ≤ v.toNat → v.toNat ≠ allOnes → s.waits = [] →
    ∃ t, exec (.fenceSignal f v false none) s = .next t ∧ (fence t f).value = v.toNat ∧ (fence t f).error = false) ∧
  (∀ (s : State) (who : Req) (h : Nat) (w0 w1 w2 w3 : Word), opens s who 0x810006 →
    (heapConfigCode (result s 0) who h [w0, w1, w2, w3] ≠ 0 → exec (.heapConfigWrite who h w0 w1 w2 w3) s =
      .next (result (result s 0) (heapConfigCode (result s 0) who h [w0, w1, w2, w3]))) ∧
    (heapConfigCode (result s 0) who h [w0, w1, w2, w3] = 0 → ∃ t, exec (.heapConfigWrite who h w0 w1 w2 w3) s = .next t ∧
      cell t 0x810006 h 0 = w0 ∧ cell t 0x810006 h 1 = w1 ∧ cell t 0x810006 h 2 = w2 ∧
      cell t 0x810006 h 3 = wd (fld w3 0 0))) ∧
  (∀ (s : State) (who : Req) (h : Nat) (w0 w1 : Word), opens s who 0x800007 →
    (swapAreaCode (result s 0) who h [w0, w1] ≠ 0 → exec (.swapAreaWrite who h w0 w1) s =
      .next (result (result s 0) (swapAreaCode (result s 0) who h [w0, w1]))) ∧
    (swapAreaCode (result s 0) who h [w0, w1] = 0 → ∃ t, exec (.swapAreaWrite who h w0 w1) s = .next t ∧
      cell t 0x800007 h 0 = w0 ∧ cell t 0x800007 h 1 = w1)) ∧
  (∀ (s : State) (who : Req) (h : Nat) (w0 w1 : Word), opens s who 0x800006 →
    (samplerCode (result s 0) who h [w0, w1] ≠ 0 → exec (.samplerControlWrite who h w0 w1) s =
      .next (result (result s 0) (samplerCode (result s 0) who h [w0, w1]))) ∧
    (samplerCode (result s 0) who h [w0, w1] = 0 → ∃ t, exec (.samplerControlWrite who h w0 w1) s = .next t ∧
      fld (cell t 0x800006 h 0) 24 16 = fld w0 24 16 ∧ fld (cell t 0x800006 h 0) 9 0 = fld w0 9 0 ∧
      cell t 0x800006 h 1 = w1 ∧ (hoop t h).sampler = (hoop s h).sampler))

/-- Outside safe state: with no request waiting ALLOCATOR_REQUEST changes nothing; else it serves the oldest, and the
request is gone: a core that waits, or the scratchpad word of an op in progress, gets the block's address, or 0, or
the strand ends with ALLOC_FAIL where it is not soft; a request whose core or op waits no more is dropped (the model's
choice, log 173). A SWAP_OUT before it has begun changes nothing; of a context that is pinned now it is given up;
else, with no op or access going on and the image's quarter clocked, the context is SWAPPED. SWAP_IN of a SWAPPED
context whose turn it is makes it RESIDENT while the hoop has fewer than 16; with 16 residents it changes nothing.
CONTEXT_STUCK of a context that is neither SWAPPED nor RESIDENT changes nothing; of a SWAPPED one whose work could go
on while 16 residents are all blocked or idle it counts as stuck, and when it is the first such the resident that has
been idle longest gives way to it at once, else the one that has been blocked longest begins to leave; of a RESIDENT
one whose next stitch needs a lantern that a blocked context has held too long, that context begins to leave, and the
stuck one is favored. SAMPLER_PERIOD of a table whose period has not ended changes nothing; at a period's end, or with
no table in force at the first boundary of the written one from the write on, it brings the staged row and its slots
into force where they fit and START has come, with the period begun at START plus whole periods, an ENABLE of 0
removes the table, and slots that do not fit leave the old table; SAMPLER_SLOT moves to the next slot when the current
one has run its duration, and stays on the last. -/
def Obligations.SchedulerEvents : Prop :=
  (∀ s : State, s.allocQ = [] → exec .allocatorRequest s = .next s) ∧
  (∀ (s u : State) (l c h ctx size al rd : Nat) (soft : Bool) (a : Option Nat) (rest : List AllocReq), s.snuffer.safe = false →
    s.allocQ = .coreAlloc l c h ctx size al rd soft :: rest → heapAlloc { s with allocQ := rest } h ctx size al = (a, u) →
    ((Machine.core s l c).stall = .alloc →
      exec .allocatorRequest s = .next (if a = none ∧ soft = false then endStrand u l .allocFail
        else coreRet u l c rd (wd (a.getD 0)))) ∧
    ((Machine.core s l c).stall ≠ .alloc → exec .allocatorRequest s = .next { s with allocQ := rest })) ∧
  (∀ (s u : State) (l op h c size al off : Nat) (soft : Bool) (a : Option Nat) (k : Running) (rest : List AllocReq),
    s.snuffer.safe = false → s.allocQ = .opAlloc l op h c size al off soft :: rest →
    heapAlloc { s with allocQ := rest } h c size al = (a, u) → (lantern s l).cur = some k → k.ctx = c →
    (op ∈ k.busy → ∀ v, v = writeScratch u (scratchBase l + off) (leBytes 8 (a.getD 0)) false →
      exec .allocatorRequest s = .next (if a = none ∧ soft = false then endStrand v l .allocFail else v)) ∧
    (op ∉ k.busy → exec .allocatorRequest s = .next { s with allocQ := rest })) ∧
  (∀ (s u : State) (l c h ctx addr : Nat) (rest : List AllocReq), s.snuffer.safe = false →
    s.allocQ = .coreFree l c h ctx addr :: rest → heapFree (countHub { s with allocQ := rest } 3 1) h addr = some u →
    (Machine.core s l c).stall = .alloc → exec .allocatorRequest s = .next (retire u l c 4 id)) ∧
  (∀ (s : State) (c : Nat), (context s c).leaving = false ∨ ctxState s c ≠ 1 → exec (.swapOut c) s = .next s) ∧
  (∀ (s : State) (c : Nat), s.snuffer.safe = false → (context s c).leaving = true → ctxState s c = 1 →
    (isPinned s c = true → ∃ t, exec (.swapOut c) s = .next t ∧ ctxState t c = 1 ∧ (context t c).leaving = false) ∧
    (isPinned s c = false → ctxLanterns s c = [] → pll s (addrQuarter (swapImage s c)) = .running →
      ∃ t, exec (.swapOut c) s = .next t ∧ ctxState t c = 2 ∧ (context t c).leaving = false) ∧
    (isPinned s c = false → ctxLanterns s c = [] → pll s (addrQuarter (swapImage s c)) ≠ .running →
      exec (.swapOut c) s = .next (needClock s (addrQuarter (swapImage s c))).state)) ∧
  (∀ (s : State) (c : Nat), 16 ≤ (residents s (context s c).hoop).length ∨ ctxState s c ≠ 2 →
    exec (.swapIn c) s = .next s) ∧
  (∀ (s : State) (c : Nat), s.snuffer.safe = false → ctxState s c = 2 → (residents s (context s c).hoop).length < 16 →
    (hoop s (context s c).hoop).stuck = [] ∨ (hoop s (context s c).hoop).stuck = [c] →
    ∃ t, exec (.swapIn c) s = .next t ∧ ctxState t c = 1 ∧ (context t c).since = wick s) ∧
  (∀ (s : State) (c : Nat), ctxState s c ≠ 1 → ctxState s c ≠ 2 → exec (.contextStuck c) s = .next s) ∧
  (∀ (s : State) (c : Nat), s.snuffer.safe = false → ctxState s c = 2 → (residents s (context s c).hoop).length < 16 →
    exec (.contextStuck c) s = .next s) ∧
  (∀ (s : State) (c h : Nat), s.snuffer.safe = false → ctxState s c = 2 → h = (context s c).hoop →
    16 ≤ (residents s h).length → (∀ o ∈ residents s h, activity s o = 3 ∨ activity s o = 0) →
    couldAdmit s c = true ∨ savedMet s c = true →
    exec (.contextStuck c) s = .next (serveStuck (if (hoop s h).stuck.contains c then s
      else modHoop s h (fun x => { x with stuck := x.stuck ++ [c] })) h) ∧
    ∀ rest v, (hoop s h).stuck = c :: rest → (∀ o ∈ hoopCtxs s h, (context s o).leaving = false) →
      (longest s (idleContexts s h) = some v →
        exec (.contextStuck c) s = .next (takeResidence (schedCount (leaveResidence s v) h 2) c)) ∧
      (longest s (idleContexts s h) = none → longest s ((takeable s h).filter (fun o => activity s o = 3)) = some v →
        exec (.contextStuck c) s = .next (beginLeave s h v))) ∧
  (∀ (s : State) (c h v : Nat) (f : Flight), s.snuffer.safe = false → ctxState s c = 1 → h = (context s c).hoop →
    nextStaged s c = some f → (∀ o ∈ hoopCtxs s h, (context s o).leaving = false) →
    longest s ((holders s h f).filter (fun o => decide (o ≠ c))) = some v → ∀ u, u = beginLeave s h v →
    exec (.contextStuck c) s =
      .next (if (context u v).leaving = true then modHoop u h (fun x => { x with favored := some c }) else u)) ∧
  (∀ (s : State) (h : Nat) (w0 w1 w2 : Word), s.snuffer.safe = false → (hoop s h).samplerNew = some [w0, w1, w2] →
    bit w0 63 = false → periodOver s h [w0, w1, w2] ((samplerSlots s (fld w0 24 16) (fld w0 9 0)).map (openSlot s)) = true → ∃ t, exec (.samplerPeriod h) s = .next t ∧ (hoop t h).sampler = none ∧ (hoop t h).samplerNew = none) ∧
  (∀ (s : State) (h : Nat) (w0 w1 w2 : Word) (x : List Nat), s.snuffer.safe = false → (hoop s h).samplerNew = some [w0, w1, w2] →
    bit w0 63 = true → w1.toNat ≤ wick s → periodOver s h [w0, w1, w2] x = true →
    x = (samplerSlots s (fld w0 24 16) (fld w0 9 0)).map (openSlot s) →
    ∃ t, exec (.samplerPeriod h) s = .next t ∧ (hoop t h).sampler = (if slotsOk x = true ∧ (x.filterMap slotNames).all (ctxOf s h) = true
      then some { first := fld w0 24 16, count := fld w0 9 0, start := w1.toNat, began := periodBegan s w1.toNat x, slots := x, cur := 0 }
      else (hoop s h).sampler.map (fun y => { y with cur := 0, began := periodBegan s y.start y.slots }))) ∧
  (∀ (s : State) (h : Nat) (x : Sampler), (hoop s h).sampler = some x → wick s < x.began + slotsTime x.slots →
    exec (.samplerPeriod h) s = .next s) ∧
  (∀ (s : State) (h : Nat), (hoop s h).sampler = none → (hoop s h).samplerNew = none →
    exec (.samplerPeriod h) s = .next s ∧ exec (.samplerSlot h) s = .next s) ∧
  (∀ (s : State) (h : Nat) (x : Sampler), s.snuffer.safe = false → (hoop s h).sampler = some x →
    ∃ t, exec (.samplerSlot h) s = .next t ∧ (hoop t h).sampler =
      some (if x.began + slotsTime (x.slots.take (x.cur + 1)) ≤ wick s ∧ x.cur + 1 < x.slots.length then
        { x with cur := x.cur + 1 } else x))

/-- SUPPLY_APPLIED to a device that is OFF starts wick time at 0, raises WICK_EPOCH and ends a debug token; to one that
runs it changes nothing. MAIN_APPLIED, MAIN_QUALIFIED, MAIN_LOW, AUX_OUT_OF_RANGE and AUX_IN_RANGE show the supplies;
HUB_SELF_CHECK_DONE passed at step 4 makes the ports ready. MAIN_LOST with AUX in range in operation counts a
switch-over, begins backup operation and latches class 19; BACKUP_STOPPED takes it to step 4, to step 5 with the
eyelets DOWN when no request is outstanding, and to step 6 with every PLL off when every quarter is at OP7 with
activity 0, as do OP_STEP_DONE and ACTIVITY_INTERVAL once they make it so; MAIN_QUALIFIED with a power cycle asked for
performs the cold L4; HOLD_UP_EXHAUSTED with MAIN lost and no switch-over made, and AUX_LOST, lead to OFF. A
POWER_STATE request by a VF is NOT_PERMITTED; DROWSE and WICK_ONLY leave RESULT with the first refusal, or enter the
state; ACTIVE is refused STATE in safe state or backup operation and answers DONE when ACTIVE. Safe state or not,
OP_STEP_DONE moves a quarter one step toward its target and no further. ACTIVITY_INTERVAL moves activity by at most
64, and up only where the rails have the headroom, and g by at most 4. CAP_STEP above the cap with every working
quarter at OP7 takes the largest g below 64, no larger than the old one, with which the fixed draw and g/64 of the
variable one keep the cap. Every CAP_STEP takes OP_CEILING as written. SENSOR_READ shows each reading and the hottest
of each group, a reading of 105 °C trips; THERMAL_STEP at THROTTLE_C takes one step. RAIL_SAMPLE without 14 readings,
SENSOR_READ without 272 and STACK_TEMP_READ without 12 change nothing. -/
def Obligations.Power : Prop :=
  (∀ (s : State) (main : Bool), s.power.started = false → (∃ t, exec (.supplyApplied main) s = .next t ∧ t.clk.wick = 0 ∧
    regN t 0x11000D 0 = (regN s 0x11000D 0 + 1) % 2 ^ 32 ∧ t.keeper.token = none ∧ t.power.mainPresent = main)) ∧
  (∀ (s : State) (main : Bool), s.power.started = true → exec (.supplyApplied main) s = .next s) ∧
  (∀ s : State, s.power.started = true → s.power.mainPresent = false → ∃ t, exec .mainApplied s = .next t ∧
    t.power.mainPresent = true ∧ t.power.step = max 3 s.power.step) ∧
  (∀ s u : State, s.power.started = true → s.power.mainOk = false → s.power.backup = false → s.snuffer.pwrcyc = true →
    u = clearCold (clearWarm (endPowerCycle { s with power := { s.power with mainPresent := true, mainOk := true, mainLow := false } })) →
    exec .mainQualified s =
      .next (if u.power.sleep = 3 ∨ 4 ≤ u.power.step then u else { u with power := { u.power with step := 4 } })) ∧
  (∀ s : State, s.power.started = true → s.power.mainOk = false → s.power.backup = false → s.power.sleep ≠ 3 →
    s.snuffer.pwrcyc = false → ∃ t, exec .mainQualified s = .next t ∧ t.power.mainOk = true ∧ t.power.step = max 4 s.power.step) ∧
  (∀ (s : State) (low : Bool), s.power.mainPresent = true → ∃ t, exec (.mainLow low) s = .next t ∧
    t.power.mainLow = low ∧ supplyStatus t / 2 % 2 = b1 low) ∧
  (∀ s : State, s.power.started = true → (∃ t, exec .auxInRange s = .next t ∧ t.power.auxOk = true) ∧
    (s.power.mainPresent = true → ∃ t, exec .auxOutOfRange s = .next t ∧ t.power.auxOk = false) ∧
    (s.power.mainPresent = true → exec .auxLost s = .next s) ∧
    (s.power.mainPresent = false → ∃ t, exec .auxLost s = .next t ∧ t.power.started = false ∧ t.pending = s.pending)) ∧
  (∀ s : State, s.power.step = 4 → ∃ t, exec (.hubSelfCheckDone true) s = .next t ∧ t.power.step = 5 ∧
    (∀ p ∈ t.ports, p.ready = true) ∧ exec (.hubSelfCheckDone false) s = .next s) ∧
  (∀ s : State, s.power.mainPresent = true → s.power.backup = false → s.power.step = 6 → s.power.sleep ≠ 3 →
    s.power.ready = true → s.power.auxOk = true → bit (statusWord s) 19 = false →
    ∃ t, exec .mainLost s = .next t ∧ t.power.backup = true ∧ t.power.mainPresent = false ∧
      bit (statusWord t) 19 = true ∧ fld (cell t 0x200004 0 0) 31 0 = (fld (cell s 0x200004 0 0) 31 0 + 1) % 2 ^ 32) ∧
  (∀ s : State, s.power.mainPresent = false → exec .mainLost s = .next s) ∧
  (∀ s : State, s.power.backup = true → s.power.backupStep ≤ 4 →
    (outstanding s ≠ [] → exec .backupStopped s = .next { s with power := { s.power with backupStep := 4 } }) ∧
    (outstanding s = [] → s.power.op ≠ [7, 7, 7, 7] ∨ s.power.activity ≠ [0, 0, 0, 0] →
      ∃ t, exec .backupStopped s = .next t ∧ t.power.backupStep = 5 ∧ (∀ e < 8, (eyelet t e).state = 0)) ∧
    (outstanding s = [] → s.power.op = [7, 7, 7, 7] → s.power.activity = [0, 0, 0, 0] → s.power.mainOk = false →
      ∃ t, exec .backupStopped s = .next t ∧ t.power.backupStep = 6 ∧ t.clk.pll = [.stopped, .stopped, .stopped, .stopped])) ∧
  (∀ s : State, s.power.backup = false → exec .backupStopped s = .next s) ∧
  (∀ s : State, (s.power.mainPresent = false → s.power.auxOk = false → ∃ t, exec .holdUpExhausted s = .next t ∧
      t.power.started = false ∧ t.queues = [] ∧ t.pending = s.pending) ∧
    (s.power.mainPresent = false → s.power.auxOk = true → s.power.backup = false → s.power.ready = true →
      ∃ t, exec .holdUpExhausted s = .next t ∧ t.power.started = false) ∧
    (s.power.mainPresent = true ∨ (s.power.auxOk = true ∧ s.power.backup = true) → exec .holdUpExhausted s = .next s)) ∧
  (∀ (s : State) (n : Nat), opens s (.vf n) 0x200003 → exec (.powerReqActive (.vf n)) s = .next (result (result s 0) 4) ∧
    exec (.powerReqDrowse (.vf n)) s = .next (result (result s 0) 4) ∧
    exec (.powerReqWickOnly (.vf n)) s = .next (result (result s 0) 4)) ∧
  (∀ (s r : State) (who : Req), r = result s 0 → opens s who 0x200003 → isManager who = true →
    (s.power.backup = true ∨ s.snuffer.safe = true → exec (.powerReqActive who) s = .next (result r 10)) ∧
    (s.power.backup = false → s.snuffer.safe = false → s.power.sleep ≠ 3 →
      exec (.powerReqActive who) s = .next (result (powerResult r 0) 0)) ∧
    (powerReqCode r who false ≠ 0 → exec (.powerReqDrowse who) s =
      .next (result (powerResult r (powerReqCode r who false)) 0)) ∧
    (powerReqCode r who true ≠ 0 → exec (.powerReqWickOnly who) s =
      .next (result (powerResult r (powerReqCode r who true)) 0)) ∧
    (powerReqCode r who false = 0 → s.power.sleep ≠ 3 → ∃ t, exec (.powerReqDrowse who) s = .next t ∧ t.power.sleep = 2) ∧
    (powerReqCode r who true = 0 → s.power.sleep ≠ 3 → ∃ t, exec (.powerReqWickOnly who) s = .next t ∧ t.power.sleep = 3 ∧
      t.mem = { State.reset.mem with zeroed := false })) ∧
  (∀ s : State, s.power.sleep = 2 → ∃ t, exec .drowseWake s = .next t ∧ t.power.sleep = 0) ∧
  (∀ s : State, s.power.sleep ≠ 2 → exec .drowseWake s = .next s) ∧
  (∀ (s : State) (q : Nat), q < 4 → s.power.op.length = 4 → coreRails s = true → s.power.op.getD q 0 ≠ opTarget s q →
    ∃ u, exec (.opStepDone q) s = .next (backupSettle u) ∧ u.power.backupStep = s.power.backupStep ∧ u.power.op.getD q 0 =
      (if s.power.op.getD q 0 < opTarget s q then s.power.op.getD q 0 + 1 else s.power.op.getD q 0 - 1)) ∧
  (∀ u : State, u.power.backupStep ≠ 4 → u.power.backupStep ≠ 5 → backupSettle u = u) ∧
  (∀ (s : State) (q : Nat), s.power.op.getD q 0 = opTarget s q → exec (.opStepDone q) s = .next s) ∧
  (∀ (s : State) (ask : List Nat), ∃ u, exec (.activityInterval ask) s = .next (backupSettle u) ∧
    u.power.backupStep = s.power.backupStep ∧ (∀ q < 4,
    u.power.activity.getD q 0 ≤ s.power.activity.getD q 0 + 64 ∧ s.power.activity.getD q 0 ≤ u.power.activity.getD q 0 + 64 ∧
    (railHeadroom s q = false → u.power.activity.getD q 0 ≤ s.power.activity.getD q 0) ∧
    u.power.g.getD q 64 ≤ s.power.g.getD q 64 + 4 ∧ s.power.g.getD q 64 ≤ u.power.g.getD q 64 + 4)) ∧
  (∀ (s : State) (mw fixed vary : Nat), 1000 * regN s 0x201001 0 < mw → (∀ q < 4, 7 ≤ s.power.op.getD q 0) →
    ∃ t, exec (.capStep ⟨mw, fixed, vary⟩) s = .next t ∧ t.power.capGutter = true ∧
      t.power.capG = Nat.min (Nat.min 63 s.power.capG) (gutterG (1000 * regN s 0x201001 0) fixed vary) ∧ t.power.capOp = s.power.capOp) ∧
  (∀ cap fixed vary : Nat, 64 * fixed + vary ≤ 64 * cap → 1 ≤ gutterG cap fixed vary ∧ gutterG cap fixed vary ≤ 64 ∧
    64 * fixed + gutterG cap fixed vary * vary ≤ 64 * cap ∧
    ∀ g ≤ 64, gutterG cap fixed vary < g → 64 * cap < 64 * fixed + g * vary) ∧
  (∀ (s : State) (mw fixed vary : Nat), ∃ t, exec (.capStep ⟨mw, fixed, vary⟩) s = .next t ∧
    ∀ q < 4, t.power.ceiling.getD q 0 = fld (cell s 0x201002 q 0) 2 0) ∧
  (∀ (s : State) (temps : List Int), temps.length = 272 → (∀ x ∈ temps, x < 1050) →
    ∃ t, exec (.sensorRead temps) s = .next t ∧ (∀ i < 272, cell t 0x210005 i 0 = i32 (temps.getD i 0)) ∧
      t.power.op = s.power.op ∧ (∀ q < 4, t.power.trip.getD q false = true → s.power.trip.getD q false = true)) ∧
  (∀ (s : State) (temps : List Int), temps.length ≠ 272 → exec (.sensorRead temps) s = .next s) ∧
  (∀ (s : State) (q : Nat), q < 4 → s.power.thermOp.length = 4 → s.power.op.getD q 0 < 7 → throttleT s ≤ hottest s q →
    ∃ t, exec (.thermalStep q) s = .next t ∧ t.power.thermOp.getD q 0 = s.power.op.getD q 0 + 1 ∧
      t.power.thermG = s.power.thermG) ∧
  (∀ (s : State) (q : Nat), q < 4 → s.power.thermG.length = 4 → s.power.op.getD q 0 = 7 → throttleT s ≤ hottest s q →
    ∃ t, exec (.thermalStep q) s = .next t ∧ t.power.thermG.getD q 64 = max 1 (s.power.thermG.getD q 64 - 4) ∧
      t.power.thermOp = s.power.thermOp) ∧
  (∀ (s : State) (temps : List Int), temps.length ≠ 12 → exec (.stackTempRead temps) s = .next s) ∧
  (∀ (s : State) (temps : List Int), temps.length = 12 → (∀ x ∈ temps, x < 950) → ∃ t, exec (.stackTempRead temps) s = .next t ∧
    (∀ i < 12, cell t 0x210004 i 0 = i32 (temps.getD i 0)) ∧ t.power.hot95 = List.replicate 12 false ∧
    t.power.trip = s.power.trip) ∧
  (∀ (s : State) (currents : List Nat), currents.length ≠ 14 → exec (.railSample currents) s = .next s) ∧
  (∀ (s : State) (currents : List Nat), currents.length = 14 → ∃ t, exec (.railSample currents) s = .next t ∧
    (∀ r < 14, (t.power.rails.getD r []).headD 0 = currents.getD r 0 ∧ (t.power.rails.getD r []).length ≤ 2000000) ∧
    t.power.op = s.power.op)

/-- A fault of a class whose bit is clear sets the bit; the first one, the status word 0, is captured, a later one is not,
and marks its class in the subsequent word; a class that does not fence starts its timer; class 0 puts the block in
safe state; class 25 of a CSE fails that CSE's open slots; class 4 poisons the store line it names. An injected error
is latched as such a fault. A write of the status word by a manager clears the bits written, by a VF it is
NOT_PERMITTED, in safe state STATE. A timer expires no earlier than GRACE_MS after the latch; one that expires at
level 0 is counted, else the class resets and its level rises. RESET_REQUEST leaves RESULT with the code of the first
failing check; accepted, L2 to cold L4 begin with a drain at phase 0, L1 runs at once, L5 leads to safe state with
PWRCYC_REQ_N; in safe state only a cold L4 or an L5 is not refused STATE. A reset's allowance, end, self-check and
overrun act only on that running reset; a cold L4 past its bound ends in safe state; an L3 past it is followed by a
warm L4. A reset's dump waits for the clocks of quarter 0. The three hang detectors stop what has made no progress for
their time, or change nothing when disabled or before it; a silent lantern gets an L2. DUMP_RELEASE of 1 clears the
two valid bits; an export shows its end. In safe state the events of admission, watchdogs and the scheduler change
nothing. -/
def Obligations.FaultsAndResets : Prop :=
  (∀ (s : State) (f : FaultInfo), f.cls ≠ 0 → f.cls < 28 → (f.cls = 25 → f.masterKind ≠ 1) → bit (statusWord s) f.cls = false → ∃ t,
    exec (.faultLatch f) s = .next t ∧ statusWord t = statusWord s ||| wd (2 ^ f.cls) ∧ t.snuffer.safe = s.snuffer.safe ∧
    (statusWord s = 0 → cell t 0x500002 0 0 = (captureWords s f).getD 0 0 ∧ cell t 0x500002 0 3 = f.detail) ∧
    (statusWord s ≠ 0 → (∀ w, cell t 0x500002 0 w = cell s 0x500002 0 w) ∧
      cell t 0x500003 0 0 = cell s 0x500003 0 0 ||| wd (2 ^ f.cls)) ∧
    (classFences s f.cls = false → tget t.snuffer.timers f.cls = some (f, regN s 0x500008 0, wick s))) ∧
  (∀ (s : State) (f : FaultInfo), f.cls = 0 → ∃ t, exec (.faultLatch f) s = .next t ∧ t.snuffer.safe = true) ∧
  (∀ (s : State) (f : FaultInfo), f.cls = 25 → f.masterKind = 1 → exec (.faultLatch f) s = .next (cseFault (latch s f) f)) ∧
  (∀ (s : State) (f : FaultInfo), f.cls = 25 → f.masterKind = 1 → bit (statusWord s) 25 = false → s.slots = [] → ∃ t,
    exec (.faultLatch f) s = .next t ∧ statusWord t = statusWord s ||| wd (2 ^ 25)) ∧
  (∀ (s : State) (f : FaultInfo) (a : Nat), f.cls = 4 → f.addr = some a → a / 2 ^ 44 = ownNode s → region s (a % 2 ^ 44) = some .store →
    ∃ t, exec (.faultLatch f) s = .next t ∧ t.mem.storePoison = insertNat s.mem.storePoison (alignDown (a % 2 ^ 44) 128)) ∧
  (∀ (s : State) (f : FaultInfo), 27 < f.cls → exec (.faultLatch f) s = .next s) ∧
  (∀ (s : State) (who : Req) (v : Word), opens s who 0x500001 → isManager who = true →
    ∃ t, exec (.statusWordWrite who v) s = .next t ∧ statusWord t = statusWord s &&& ~~~v ∧ t.answer.status = 0) ∧
  (∀ (s : State) (n : Nat) (v : Word), opens s (.vf n) 0x500001 →
    exec (.statusWordWrite (.vf n) v) s = .next (result (result s 0) 4)) ∧
  (∀ (s : State) (v w : Word), s.snuffer.safe = true → exec (.statusWordWrite .mgmt v) s = .next (result s 10) ∧
    exec (.inject .mgmt v w) s = .next (result s 10) ∧ exec (.dumpRelease .mgmt v) s = .next (result s 10)) ∧
  (∀ (s : State) (c n k : Nat) (f : FaultInfo), tget s.snuffer.timers c = some (f, n, k) →
    k + 1000000 * fld (cell s 0x500006 c 0) 15 0 ≤ s.clk.wick → currentLevel s c = 0 →
    ∃ t, exec (.graceExpiry c) s = .next t ∧ t.snuffer.resets = s.snuffer.resets ∧
      fld (cell t 0x500006 c 0) 26 16 = min 2047 (fld (cell s 0x500006 c 0) 26 16 + 1) ∧ bit (cell t 0x500006 c 0) 27 = false) ∧
  (∀ (s : State) (c n k : Nat) (f : FaultInfo), tget s.snuffer.timers c = some (f, n, k) →
    k + 1000000 * fld (cell s 0x500006 c 0) 15 0 ≤ s.clk.wick → currentLevel s c ≠ 0 → f.cls = c →
    ∃ t, exec (.graceExpiry c) s = .next t ∧ currentLevel t c = (if currentLevel s c < 6 then currentLevel s c + 1 else 6)) ∧
  (∀ (s : State) (c : Nat), tget s.snuffer.timers c = none → exec (.graceExpiry c) s = .next s) ∧
  (∀ (s : State) (c n k : Nat) (f : FaultInfo), tget s.snuffer.timers c = some (f, n, k) →
    s.clk.wick < k + 1000000 * fld (cell s 0x500006 c 0) 15 0 → exec (.graceExpiry c) s = .next s) ∧
  (∀ (s : State) (c : Nat) (failed : List Nat), s.snuffer.fencing = [] → exec (.fenceReactionDone c failed) s = .next s) ∧
  (∀ (s u : State) (c n : Nat) (failed : List Nat) (f : Fencing), s.snuffer.safe = false → s.snuffer.fencing = [f] →
    f.cls = c → fencedBusy s f = false → darnerActs s f failed = some (n, u) →
    exec (.fenceReactionDone c failed) s = .next (let v : State := { u with snuffer := { u.snuffer with fencing := dropFirst (fun x : Fencing => decide (x.cls = c)) u.snuffer.fencing } }
      let w := completeLog v f.logAt n 0
      if f.again = true ∨ (∃ x ∈ w.snuffer.fencing, x.cls = c) then w else clearBits w (2 ^ c))) ∧
  (∀ (s : State) (who : Req) (w0 w1 : Word), opens s who 0x500009 →
    (injectCode (result s 0) who w0 ≠ 0 → exec (.inject who w0 w1) s =
      .next (result (result s 0) (injectCode (result s 0) who w0))) ∧
    (injectCode (result s 0) who w0 = 0 → fld w0 35 32 = 0 → exec (.inject who w0 w1) s =
      .next (errorPin (result (result s 0) 0) { cls := fld w0 61 56, access := 4, addr := if [4, 6, 7, 9].contains (fld w0 61 56) then some (fld w1 51 0) else none, masterKind := fld w0 55 52, master := fld w0 51 36, hoop := none, ctx := none, detail := wd (2 ^ 63) })) ∧
    (injectCode (result s 0) who w0 = 0 → fld w0 35 32 ≠ 0 → exec (.inject who w0 w1) s =
      .next (setInjected (result (result s 0) 0) (w1.toNat % 2 ^ 44) (if fld w0 61 56 = 9 then 0 else 1)))) ∧
  (∀ (s : State) (who : Req) (w : Word), s.snuffer.safe = true → exec (.resetL1 who w) s = .next (result s 10) ∧
    exec (.resetL2 who w) s = .next (result s 10) ∧ exec (.resetL3 who w) s = .next (result s 10) ∧
    exec (.resetL4Warm who w) s = .next (result s 10)) ∧
  (∀ (s : State) (who : Req) (w : Word), s.snuffer.safe = false →
    (resetCode s who (setFld w 63 60 1) ∉ [0, 3] → exec (.resetL1 who w) s =
      .next (result (setRegFld s 0x510002 0 63 60 (resetCode s who (setFld w 63 60 1))) 0)) ∧
    (resetCode s who (setFld w 63 60 4) ∉ [0, 3] → exec (.resetL4Warm who w) s =
      .next (result (setRegFld s 0x510002 0 63 60 (resetCode s who (setFld w 63 60 4))) 0)) ∧
    (resetCode s who (setFld w 63 60 1) = 0 → exec (.resetL1 who w) s =
      .next (runL1 (startReset (result (setRegFld s 0x510002 0 63 60 0) 0) (askedReset s who w 1 (causeOf (fld w 44 42)))) (fld w 15 0))) ∧
    (resetCode s who (setFld w 63 60 2) = 0 → exec (.resetL2 who w) s =
      .next (startReset (result (setRegFld s 0x510002 0 63 60 0) 0) (askedReset s who w 2 (causeOf (fld w 44 42))))) ∧
    (resetCode s who (setFld w 63 60 3) = 0 → exec (.resetL3 who w) s =
      .next (startReset (result (setRegFld s 0x510002 0 63 60 0) 0) (askedReset s who w 3 (causeOf (fld w 44 42))))) ∧
    (resetCode s who (setFld w 63 60 4) = 0 → ∃ t, exec (.resetL4Warm who w) s = .next t ∧
      (∃ r ∈ t.snuffer.resets, r.level = 4 ∧ r.phase = 0 ∧ r.start = wick s))) ∧
  (∀ (s : State) (who : Req) (w : Word),
    (resetCode s who (setFld w 63 60 5) = 0 → ∃ t, exec (.resetL4Cold who w) s = .next t ∧
      (∃ r ∈ t.snuffer.resets, r.level = 5 ∧ r.phase = 0 ∧ r.start = wick s)) ∧
    (resetCode s who (setFld w 63 60 6) = 0 → ∃ t, exec (.resetL5 who w) s = .next t ∧ t.snuffer.pwrcyc = true ∧
      (pll s 0 = .running → t.snuffer.safe = true))) ∧
  (∀ (s : State) (level target : Nat) (pass : Bool), findReset s level target = none →
    exec (.drainAllowanceEnd level target) s = .next s ∧ exec (.resetEnd level target) s = .next s ∧
    exec (.resetOverrun level target) s = .next s ∧ (level = 2 → exec (.selfCheckDone target pass) s = .next s)) ∧
  (∀ (s : State) (level target : Nat) (r : Reset), findReset s level target = some r →
    (wick s < r.start + r.allowance → exec (.drainAllowanceEnd level target) s = .next s) ∧
    (wick s < r.start + boundOf r → exec (.resetOverrun level target) s = .next s)) ∧
  (∀ (s : State) (target : Nat) (r : Reset), findReset s 3 target = some r → r.phase = 0 → r.start + r.allowance ≤ wick s →
    (∀ u, dumpReady s r = .wait u → exec (.drainAllowanceEnd 3 target) s = .next u) ∧
    (dumpReady s r = .ok () s → exec (.drainAllowanceEnd 3 target) s = .next (showResets (stopHoop (modReset (resetDump s r).2 3 target
      (fun x => { x with phase := 1, dumped := (resetDump s r).1 })) target)))) ∧
  (∀ (s : State) (target : Nat) (r : Reset), findReset s 2 target = some r →
    (r.phase = 1 → exec (.selfCheckDone target true) s = .next (if target < 2 ^ 14
        then modLantern (modReset s 2 target (fun x => { x with phase := 2 })) target (fun x => { x with fenced := false })
        else modReset s 2 target (fun x => { x with phase := 2 })) ∧
      exec (.resetEnd 2 target) s = .next s) ∧
    (r.phase = 2 → exec (.resetEnd 2 target) s = .next (endReset s r) ∧ exec (.selfCheckDone target true) s = .next s)) ∧
  (∀ (s : State) (target : Nat) (r : Reset), findReset s 3 target = some r → r.phase = 1 → hoopQuiet s target = true →
    exec (.resetEnd 3 target) s = .next (endReset (clearHoop s target) r)) ∧
  (∀ (s : State) (r : Reset), findReset s 5 0 = some r → r.start + 20000000000 + r.waited ≤ wick s →
    ∃ t, exec (.resetOverrun 5 0) s = .next t ∧ t.snuffer.safe = true ∧ t.snuffer.pwrcyc = true) ∧
  (∀ (s : State) (r : Reset), s.snuffer.resets = [r] → r.level = 3 →
    r.start + 50000000 + (if r.trigger = 4 then 0 else r.waited) ≤ wick s →
    ∃ t, exec (.resetOverrun 3 r.target) s = .next t ∧ (∃ o ∈ t.snuffer.resets, o.level = 4 ∧ o.target = 0 ∧ o.trigger = 5)) ∧
  (∀ s : State, s.snuffer.pwrcyc = false ∨ findReset s 6 0 = none → exec .pwrcycTimeout s = .next s) ∧
  (∀ (s : State) (r : Reset), findReset s 6 0 = some r → r.phase = 2 → exec .pwrcycTimeout s = .next s) ∧
  (∀ (s : State) (r : Reset), s.snuffer.pwrcyc = true → findReset s 6 0 = some r → r.phase ≠ 2 → r.start + 10000000000 ≤ wick s →
    ∃ t, exec .pwrcycTimeout s = .next t ∧ t.snuffer.safe = true ∧
      fld (cell t 0x510002 0 0) 47 32 = (fld (cell s 0x510002 0 0) 47 32 + 1) % 2 ^ 16) ∧
  (∀ (s : State) (q e l : Nat), (flight s q e = none ∨ regN s 0x510005 0 = 0 → exec (.stitchWatchdog q e) s = .next s) ∧
    (queueState s q ≠ 1 ∨ regN s 0x510006 0 = 0 → exec (.queueNoprogress q) s = .next s) ∧
    ((lantern s l).power ≠ .awake ∨ (lantern s l).fenced = true → exec (.lanternHeartbeat l) s = .next s)) ∧
  (∀ (s u : State) (q e l : Nat) (f : Flight), s.snuffer.safe = false → flight s q e = some f →
    entryOp f.words = 1 → regN s 0x510005 0 ≠ 0 → f.phase = .running → stitchLanterns s q e ≠ [] →
    l = oldestOp s (stitchLanterns s q e ++ (s.lan.filter (fun p => p.2.runList.any (fun r => decide (r.queue = q) &&
      decide (r.entry = e)))).map (fun p => p.1)) →
    stitchProgress s q e f + 1000000 * regN s 0x510005 0 ≤ wick s → s.power.backup = false → stitchStalled s q e f = false →
    u = hang s 1 q 0 (physId s l) (some (queueHoop s q)) (some (queueCtx s q)) →
    exec (.stitchWatchdog q e) s = .next (stitchCheck (stopStitch (contribute u q e .timeout l) q e) q e)) ∧
  (∀ (s : State) (q e : Nat) (f : Flight), flight s q e = some f →
    wick s < stitchProgress s q e f + 1000000 * regN s 0x510005 0 → exec (.stitchWatchdog q e) s = .next s) ∧
  (∀ (s : State) (q : Nat), queueOwes (queue s q) = false ∨ wick s < (queue s q).moved + 1000000 * regN s 0x510006 0 →
    exec (.queueNoprogress q) s = .next s) ∧
  (∀ (s u v : State) (q : Nat), s.snuffer.safe = false → queueState s q = 1 → regN s 0x510006 0 ≠ 0 →
    queueOwes (queue s q) = true → (queue s q).moved + 1000000 * regN s 0x510006 0 ≤ wick s →
    (hoop s (queueHoop s q)).inst = .running → s.power.backup = false →
    u = hang s 2 q 15 0 (some (queueHoop s q)) (some (queueCtx s q)) →
    v = (queue u q).flights.foldl (fun s f => stopEntry s q .timeout f.entry) u → (queue v q).entries = [] →
    exec (.queueNoprogress q) s = .next v) ∧
  (∀ (s : State) (l : Nat), s.snuffer.safe = false → (lantern s l).power = .awake → (lantern s l).fenced = false →
    (lantern s l).cur = none → s.snuffer.resets = [] → pll s (lanQuarter l) = .running →
    ∃ t, exec (.lanternHeartbeat l) s = .next t ∧ (∃ r ∈ t.snuffer.resets, r.level = 2 ∧ r.target = l ∧ r.trigger = 3)) ∧
  (∀ (s : State) (who : Req) (v : Word), opens s who 0x520005 → isManager who = true → bit v 0 = true →
    ∃ t, exec (.dumpRelease who v) s = .next t ∧ fld (cell t 0x520003 0 0) 63 62 = 0 ∧ t.snuffer = s.snuffer) ∧
  (∀ (s r : State) (who : Req) (v : Word), r = result s 0 → opens s who 0x520006 → isManager who = true →
    (rwsWriteCode r 0x520006 v.toNat ≠ 0 → exec (.dumpExport who v) s = .next (result r (rwsWriteCode r 0x520006 v.toNat))) ∧
    (rwsWriteCode r 0x520006 v.toNat = 0 → ∃ t, exec (.dumpExport who v) s = .next t ∧ t.snuffer.exportTo = some v.toNat ∧
      fld (cell t 0x520003 0 0) 61 60 = 1)) ∧
  (∀ (s : State) (ok : Bool), s.snuffer.exportTo = none → exec (.dumpExportDone ok) s = .next s) ∧
  (∀ (s : State) (a : Nat), s.snuffer.exportTo = some a → ∃ t, exec (.dumpExportDone false) s = .next t ∧
    t.snuffer.exportTo = none ∧ fld (cell t 0x520003 0 0) 61 60 = 3 ∧ t.hostMem = s.hostMem) ∧
  (∀ (s : State) (q e l c : Nat), s.snuffer.safe = true → exec (.entryAdmit q) s = .next s ∧
    exec (.stitchWatchdog q e) s = .next s ∧ exec (.queueNoprogress q) s = .next s ∧ exec (.lanternHeartbeat l) s = .next s ∧
    exec (.swapIn c) s = .next s ∧ exec .allocatorRequest s = .next s)

/-- Where open to the requester, a signed request that a check refuses leaves the code in LC_STATUS and changes nothing
else; LC_REQUEST in SCRAP and CONF_COMMAND outside MISSION answer STATE. An accepted transition counts, ends a debug
token and writes a mark of phase 1 from the present state to the target; each finished phase writes the next mark;
with no transition in progress it changes nothing. A signed write applies its value; a debug token takes its rights,
or ends with TARGET 0, and ends when it has expired. An accepted ENTER turns confidential mode on with the tenant
named; CHANGE and EXIT start the drain of the active epoch, whose keys are destroyed once drained, and whose units are
scrubbed after that, ending an EXIT with the mode off. INSTANCE_COMMAND by a VF is NOT_PERMITTED; by a manager, a
reserved bit gives FORMAT and a hoop that is not live BUSY; QUIESCE of a running hoop makes it QUIESCING until it is
at rest, RESUME makes it RUNNING, FREEZE of one at rest FROZEN, SAVE and RESTORE write and read its blob, or answer
why not. An SPDM digest and certificate are those of the identity; a measurement ends with the measured words; FINISH
secures a session only after KEY_EXCHANGE. -/
def Obligations.Security : Prop :=
  (∀ (s r : State) (who : Req) (bs : List Byte), r = result s 0 → opens s who 0x110002 →
    (s.keeper.lc = 5 → exec (.transitionFactoryTest who bs) s = .next (result r 10) ∧
      exec (.transitionProvisioned who bs) s = .next (result r 10) ∧ exec (.transitionMission who bs) s = .next (result r 10) ∧
      exec (.transitionFieldReturn who bs) s = .next (result r 10) ∧ exec (.transitionScrap who bs) s = .next (result r 10)) ∧
    (s.keeper.lc ≠ 5 → requestCode r bs 1 ≠ 0 →
      exec (.transitionFactoryTest who bs) s = .next (result (lcStatus r bs (requestCode r bs 1)) 0) ∧
      exec (.transitionProvisioned who bs) s = .next (result (lcStatus r bs (requestCode r bs 1)) 0) ∧
      exec (.transitionMission who bs) s = .next (result (lcStatus r bs (requestCode r bs 1)) 0) ∧
      exec (.transitionFieldReturn who bs) s = .next (result (lcStatus r bs (requestCode r bs 1)) 0) ∧
      exec (.transitionScrap who bs) s = .next (result (lcStatus r bs (requestCode r bs 1)) 0)) ∧
    (s.keeper.lc ≠ 5 → requestCode r bs 1 = 0 → (∀ m, latestMark s = some m → m.seq + 1 < 2 ^ 64) → ∃ t, t.keeper.token = none ∧
      regN t 0x110005 0 = (regN s 0x110005 0 + 1) % 2 ^ 64 ∧
      (∃ m, latestMark t = some m ∧ m.phase = 1 ∧ m.src = s.keeper.lc ∧ m.dst = (parseRequest bs).target) ∧
      exec (.transitionFactoryTest who bs) s = .next t ∧ exec (.transitionProvisioned who bs) s = .next t ∧
      exec (.transitionMission who bs) s = .next t ∧ exec (.transitionFieldReturn who bs) s = .next t ∧
      exec (.transitionScrap who bs) s = .next t)) ∧
  (∀ (s : State) (m : Mark), latestMark s = some m → 7 ≤ m.phase → exec .transitionPhaseDone s = .next s) ∧
  (∀ s : State, latestMark s = none → exec .transitionPhaseDone s = .next s) ∧
  (∀ (s : State) (m : Mark), latestMark s = some m → m.phase < 7 → m.phase ≠ 2 → m.seq + 1 < 2 ^ 64 → ∃ t n, exec .transitionPhaseDone s = .next t ∧
    latestMark t = some n ∧ n.seq = m.seq + 1 ∧ n.phase = nextPhase m.src m.dst m.phase ∧ n.dst = m.dst ∧
    t.keeper.lc = markState n) ∧
  (∀ (s r : State) (who : Req) (bs : List Byte), r = result s 0 → opens s who 0x11000E →
    (requestCode r bs 3 ≠ 0 → exec (.signedWrite who bs) s = .next (result (lcStatus r bs (requestCode r bs 3)) 0)) ∧
    (requestCode r bs 3 = 0 → exec (.signedWrite who bs) s =
      .next (rwsApply (setReg (result (lcStatus r bs 0) 0) 0x110006 0 (parseRequest bs).counter)
        (rwsEntry (parseRequest bs).payload) (leNat ((parseRequest bs).payload.drop 8))))) ∧
  (∀ (s r : State) (who : Req) (bs : List Byte), r = result s 0 → opens s who 0x110007 →
    (requestCode r bs 2 ≠ 0 → exec (.debugToken who bs) s = .next (result (lcStatus r bs (requestCode r bs 2)) 0)) ∧
    (requestCode r bs 2 = 0 → ∃ t, exec (.debugToken who bs) s = .next t ∧
      t.keeper.token.map Token.rights = (if (parseRequest bs).target = 0 then none else some (parseRequest bs).target))) ∧
  (∀ (s : State) (k : Token), s.keeper.token = some k →
    (k.notAfter < wick s → ∃ t, exec .debugTokenExpire s = .next t ∧ t.keeper.token = none) ∧
    (wick s ≤ k.notAfter → k.epoch = regN s 0x11000D 0 → exec .debugTokenExpire s = .next s)) ∧
  (∀ (s r : State) (who : Req) (bs : List Byte), r = result s 0 → opens s who 0x110010 →
    (s.keeper.lc ≠ 3 → exec (.enter who bs) s = .next (result r 10) ∧ exec (.change who bs) s = .next (result r 10) ∧
      exec (.exit who bs) s = .next (result r 10)) ∧
    (s.keeper.lc = 3 → requestCode r bs 4 ≠ 0 →
      exec (.enter who bs) s = .next (result (lcStatus r bs (requestCode r bs 4)) 0) ∧
      exec (.change who bs) s = .next (result (lcStatus r bs (requestCode r bs 4)) 0) ∧
      exec (.exit who bs) s = .next (result (lcStatus r bs (requestCode r bs 4)) 0)) ∧
    (s.keeper.lc = 3 → requestCode r bs 4 = 0 → imgFld (parseRequest bs).payload 0 1 = 1 →
      ∃ t, exec (.enter who bs) s = .next t ∧ t.keeper.conf = true ∧ t.keeper.token = none ∧ t.tele.staged = [] ∧
        t.keeper.tenant = imgFld (parseRequest bs).payload 8 4) ∧
    (s.keeper.lc = 3 → requestCode r bs 4 = 0 → imgFld (parseRequest bs).payload 0 1 = 2 →
      ∃ t, exec (.change who bs) s = .next t ∧ t.keeper.step = 2 ∧ t.keeper.ending = false ∧
        t.keeper.tenant = imgFld (parseRequest bs).payload 8 4) ∧
    (s.keeper.lc = 3 → requestCode r bs 4 = 0 → imgFld (parseRequest bs).payload 0 1 = 3 →
      ∃ t, exec (.exit who bs) s = .next t ∧ t.keeper.step = 2 ∧ t.keeper.ending = true ∧ t.keeper.tenant = s.keeper.tenant)) ∧
  (∀ s : State, s.keeper.step ≠ 2 → exec .keyEpochDrained s = .next s) ∧
  (∀ (s : State) (e : Nat), s.keeper.step = 2 → epochIn s .draining = some e →
    (∃ n ∈ keyDrain s e, n ≠ 0) → wick s < s.keeper.drainAt + 10000000 → exec .keyEpochDrained s = .next s) ∧
  (∀ (s : State) (e : Nat), s.keeper.step = 2 → epochIn s .draining = some e → keyDrain s e = [0, 0, 0] →
    ∃ t, exec .keyEpochDrained s = .next t ∧ t.keeper.step = 4 ∧ t.keeper.keys.getD e .empty = .destroyed) ∧
  (∀ s : State, s.keeper.step ≠ 4 → exec .keyScrubDone s = .next s) ∧
  (∀ (s : State) (e a : Nat), s.keeper.step = 4 → epochIn s .destroyed = some e → activeEpoch s = some a →
    ∃ t, exec .keyScrubDone s = .next t ∧ t.keeper.step = 0 ∧ t.keeper.keys.getD e .empty = .empty ∧
      t.keeper.conf = (s.keeper.conf && !s.keeper.ending)) ∧
  (∀ (s : State) (n : Nat) (w : Word), opens s (.vf n) 0x110018 → ∃ t, t = result (result s 0) 4 ∧
    exec (.quiesce (.vf n) w) s = .next t ∧ exec (.instanceResume (.vf n) w) s = .next t ∧
    exec (.freeze (.vf n) w) s = .next t ∧ exec (.save (.vf n) w) s = .next t ∧ exec (.restore (.vf n) w) s = .next t) ∧
  (∀ (s : State) (who : Req) (w : Word), opens s who 0x110018 → isManager who = true →
    (fld w 59 6 ≠ 0 → ∃ t, t = instResult (result s 0) (fld w 5 0) 2 ∧ exec (.quiesce who w) s = .next t ∧
      exec (.instanceResume who w) s = .next t ∧ exec (.freeze who w) s = .next t ∧ exec (.save who w) s = .next t ∧
      exec (.restore who w) s = .next t) ∧
    (fld w 59 6 = 0 → hoopLive s (fld w 5 0) = false → ∃ t, t = instResult (result s 0) (fld w 5 0) 3 ∧
      exec (.quiesce who w) s = .next t ∧ exec (.instanceResume who w) s = .next t ∧ exec (.freeze who w) s = .next t ∧
      exec (.save who w) s = .next t ∧ exec (.restore who w) s = .next t)) ∧
  (∀ (s : State) (who : Req) (w : Word) (h : Nat), opens s who 0x110018 → isManager who = true → fld w 59 6 = 0 → h = fld w 5 0 →
    hoopLive s h = true →
    ((hoop s h).inst = .running → ∃ t, exec (.quiesce who w) s = .next t ∧ (hoop t h).inst = .quiescing ∧
      fld (cell t 0x110019 h 0) 3 0 = 1) ∧
    ((hoop s h).inst ≠ .running → ∃ t, exec (.instanceResume who w) s = .next t ∧ (hoop t h).inst = .running ∧
      fld (cell t 0x110019 h 0) 3 0 = 0) ∧
    ((hoop s h).inst = .quiesced → s.keeper.conf = false → hoopOpenSlots s h = false → hoopState s h = 1 →
      ∃ t, exec (.freeze who w) s = .next t ∧ (hoop t h).inst = .frozen ∧ fld (cell t 0x110019 h 0) 3 0 = 0) ∧
    ((hoop s h).inst ≠ .frozen → s.keeper.conf = false →
      exec (.save who w) s = .next (instResult (result s 0) h 3)) ∧
    ((hoop s h).inst = .frozen → s.keeper.conf = false → exec (.save who w) s = .next (saveBlob (result s 0) h)) ∧
    (s.keeper.conf = true → exec (.freeze who w) s = .next (instResult (result s 0) h 10) ∧
      exec (.save who w) s = .next (instResult (result s 0) h 10)) ∧
    (hoopState s h = 1 → hoopBare s h = true → exec (.restore who w) s = .next (restoreBlob (result s 0) who h)) ∧
    (hoopState s h ≠ 1 ∨ hoopBare s h = false → exec (.restore who w) s = .next (instResult (result s 0) h 3))) ∧
  (∀ (s : State) (h : Nat), (hoop s h).inst ≠ .quiescing → exec (.quiescedReached h) s = .next s ∧
    exec (.quiesceTimeout h) s = .next s) ∧
  (∀ (s : State) (h : Nat), s.snuffer.safe = false → (hoop s h).inst = .quiescing →
    (hoopAtRest s h = true → (hoop s h).freezing = false → ∃ t, exec (.quiescedReached h) s = .next t ∧
      (hoop t h).inst = .quiesced ∧ fld (cell t 0x110019 h 0) 3 0 = 0) ∧
    (hoopAtRest s h = true → (hoop s h).freezing = true → hoopOpenSlots s h = false →
      ∃ t, exec (.quiescedReached h) s = .next t ∧ (hoop t h).inst = .frozen) ∧
    ((hoop s h).instAt ≤ wick s → fld (cell s 0x110019 h 0) 3 0 = 1 →
      exec (.quiesceTimeout h) s = .next (instResult s h 5))) ∧
  (∀ (s : State) (who : Req) (nonce : Nat),
    exec (.getDigests who) s = .next (reply s (leBytes 48 (Config.sha384 certChain)) false 0) ∧
    exec (.getCertificate who) s = .next (reply s certChain false 0) ∧
    (∃ t, exec (.getVersion who) s = .next t ∧ t.answer.data.length = 8) ∧
    (∃ t, exec (.getCapabilities who) s = .next t ∧ t.answer.data.length = 20) ∧
    (∃ t, exec (.negotiateAlgorithms who) s = .next t ∧ t.answer.data.length = 52) ∧
    (∃ t, exec (.challenge who nonce) s = .next t ∧ t.answer.data.length = 240) ∧
    (∃ t, exec (.getMeasurements who) s = .next t ∧ t.answer.data.drop 96 = measurements s who ∧ t.keeper = s.keeper) ∧
    (∃ t, exec (.keyExchange who) s = .next t ∧ who ∈ t.keeper.opening ∧ t.keeper.sessions = s.keeper.sessions) ∧
    (who ∈ s.keeper.opening → ∃ t, exec (.finish who) s = .next t ∧ who ∈ t.keeper.sessions ∧ who ∉ t.keeper.opening) ∧
    (who ∉ s.keeper.opening → exec (.finish who) s = .next (reply s [] false 1)))

/-- Where open to a requester: a SEL_CONFIG write that a check refuses answers its code and changes nothing, else it
clears the row's value and waits for the boundary; a WINDOW_US write clears the peaks and waits; PEAK_RESET of 1
clears them, of more is RANGE, by a VF NOT_PERMITTED; DUMP_HEAD by a manager is stored; a DUMP_CONFIG write is staged,
or refused. At the end of a window counted from its start each port shows the bytes counted, the window's end, and one
window more, and counting starts again; at the end of one that was not, counting only starts again; a new WINDOW_US
comes into force at a multiple of it. DUMP_PERIOD before the period changes nothing; at it, with the ring in error,
the record sampled waits in the staging ring and SEQ rises by one. A first corrected error of a granule is remembered
with count 1 while the threshold is 2 or more, and latches class 7 when it is not. GRANULE_REMAP with a free place
starts the remap, and with no reaction that waits for one changes nothing; REMAP_COPY_DONE enters the mapping and ends
it; both first start the quarter's clocks. -/
def Obligations.Telemetry : Prop :=
  (∀ (s r : State) (who : Req) (row : Nat) (v : Word), r = result s 0 → opens s who 0x600002 →
    (selConfigCode who row v ≠ 0 → exec (.selConfigWrite who row v) s = .next (result r (selConfigCode who row v))) ∧
    (selConfigCode who row v = 0 → ∃ t, exec (.selConfigWrite who row v) s = .next t ∧ cell t 0x600003 row 0 = 0 ∧
      tget t.tele.selNew row = some (setFld v 32 0 0) ∧ t.answer.status = 0)) ∧
  (∀ (s r : State) (who : Req) (v : Word), r = result s 0 → opens s who 0x600004 →
    (windowUsCode who v ≠ 0 → exec (.windowUsWrite who v) s = .next (result r (windowUsCode who v))) ∧
    (windowUsCode who v = 0 → ∃ t, exec (.windowUsWrite who v) s = .next t ∧ t.tele.windowNew = some v.toNat ∧
      (∀ p < 32, cell t 0x600005 p 1 = 0 ∧ cell t 0x600005 p 3 = 0 ∧ cell t 0x600005 p 0 = cell s 0x600005 p 0))) ∧
  (∀ (s r : State) (who : Req) (v : Word), r = result s 0 → opens s who 0x600006 →
    (isManager who = false → exec (.peakReset who v) s = .next (result r 4)) ∧
    (isManager who = true → 1 < v.toNat → exec (.peakReset who v) s = .next (result r 9)) ∧
    (isManager who = true → v = 1 → ∃ t, exec (.peakReset who v) s = .next t ∧
      (∀ p < 32, cell t 0x600005 p 1 = 0 ∧ cell t 0x600005 p 3 = 0) ∧ t.tele = s.tele)) ∧
  (∀ (s r : State) (who : Req) (v : Word), r = result s 0 → opens s who 0x600008 →
    (isManager who = false → exec (.dumpHeadWrite who v) s = .next (result r 4)) ∧
    (isManager who = true → s.tele.staged = [] → exec (.dumpHeadWrite who v) s =
      .next (result (setReg r 0x600008 0 (fld v 31 0)) 0))) ∧
  (∀ (s r : State) (who : Req) (w0 w1 w2 w3 : Word), r = result s 0 → opens s who 0x600007 →
    (dumpConfigCode r who w0 w1 ≠ 0 → exec (.dumpConfigWrite who w0 w1 w2 w3) s =
      .next (result r (dumpConfigCode r who w0 w1))) ∧
    (dumpConfigCode r who w0 w1 = 0 → ∃ t, exec (.dumpConfigWrite who w0 w1 w2 w3) s = .next t ∧ t.regs = s.regs ∧
      tget t.staged (stagedKey 0x600007 0 1) = some (setFld w1 63 56 0))) ∧
  (∀ (s : State) (n : Nat), s.tele.windowNew = some n →
    (wick s % (1000 * n) ≠ 0 → exec .bwWindowEnd s = .next s) ∧
    (wick s % (1000 * n) = 0 → ∃ t, exec .bwWindowEnd s = .next t ∧ t.tele.windowNew = none ∧ t.tele.bytes = [] ∧
      t.tele.windowFrom = wick s ∧ cell t 0x600004 0 0 = wd n)) ∧
  (∀ (s : State) (e : Nat), s.tele.windowNew = none → e = alignDown (wick s) (1000 * regN s 0x600004 0) →
    (e ≤ s.tele.windowFrom → exec .bwWindowEnd s = .next s) ∧
    (s.tele.windowFrom < e → e < s.tele.windowFrom + 1000 * regN s 0x600004 0 →
      exec .bwWindowEnd s = .next { s with tele := { s.tele with bytes := [], windowFrom := e } }) ∧
    (s.tele.windowFrom < e → s.tele.windowFrom + 1000 * regN s 0x600004 0 ≤ e → ∃ t, exec .bwWindowEnd s = .next t ∧ t.tele.bytes = [] ∧
      t.tele.windowFrom = e ∧
      (∀ p < 32, cell t 0x600005 p 0 = wd ((tget s.tele.bytes p).getD 0) ∧ cell t 0x600005 p 2 = wd e ∧
        cell t 0x600005 p 3 = wd ((cell s 0x600005 p 3).toNat + 1)))) ∧
  (∀ s : State, dumpOn (dumpCfg s) = true → wick s < s.tele.dumpAt + 1000 * dumpPeriodUs (dumpCfg s) →
    exec .dumpPeriod s = .next s) ∧
  (∀ s : State, dumpOn (dumpCfg s) = true → s.tele.dumpAt + 1000 * dumpPeriodUs (dumpCfg s) ≤ wick s → s.staged = [] →
    s.keeper.conf = false → s.tele.error = true →
    (s.tele.staged.length + 1) * 8 * (dumpRecordOf s (dumpCfg s)).length ≤ stagingBytes →
    ∃ t, exec .dumpPeriod s = .next t ∧ t.tele.seq = s.tele.seq + 1 ∧ t.tele.dumpAt = wick s ∧
      t.tele.staged = s.tele.staged ++ [dumpRecordOf s (dumpCfg s)] ∧ t.tele.written = s.tele.written) ∧
  (∀ (s : State) (b off : Nat), tget s.darner.ces b = none →
    (2 ≤ regN s 0xA00003 0 → ∃ t, exec (.hbmCorrectedError b off) s = .next t ∧ statusWord t = statusWord s ∧
      tget t.darner.ces b = some [{ granule := alignDown (b * 0x1000000000 + off) 8192, count := 1, first := wick s, last := wick s }]) ∧
    (regN s 0xA00003 0 ≤ 1 → ∃ t, exec (.hbmCorrectedError b off) s = .next t ∧ bit (statusWord t) 7 = true ∧
      tget t.darner.ces b = some [])) ∧
  (∀ (s : State) (b off : Nat), s.snuffer.fencing = [] → exec (.granuleRemap b off) s = .next s) ∧
  (∀ (s : State) (b off p : Nat) (f : Fencing), s.snuffer.safe = false → s.snuffer.fencing.find? (wantsRemap s b) = some f →
    s.darner.queue = [] → granuleOf s (faultLocal f.addr) = alignDown (b * 0x1000000000 + off) 8192 → policyBit s 2 = true →
    remapsOf s b < 8192 → findPlace s b = some p →
    (pll s (bobQuarter b) ≠ .running → exec (.granuleRemap b off) s = .next (needClock s (bobQuarter b)).state) ∧
    (pll s (bobQuarter b) = .running → ∃ t, exec (.granuleRemap b off) s = .next t ∧ t.darner.queue =
      [{ b := b, granule := alignDown (b * 0x1000000000 + off) 8192, place := p, held := [] }] ∧ t.darner.remaps = s.darner.remaps)) ∧
  (∀ (s : State) (b : Nat), s.darner.queue.find? (fun r => decide (r.b = b)) = none → exec (.remapCopyDone b) s = .next s) ∧
  (∀ (s : State) (b : Nat) (r : Remap), s.snuffer.safe = false →
    s.darner.queue.find? (fun x => decide (x.b = b)) = some r →
    (pll s (bobQuarter b) ≠ .running → exec (.remapCopyDone b) s = .next (needClock s (bobQuarter b)).state) ∧
    (pll s (bobQuarter b) = .running → exec (.remapCopyDone b) s = .next (endRemap s b r)) ∧
    (pll s (bobQuarter b) = .running → r.held = [] → s.snuffer.fencing = [] → s.clk.held = [] → ∃ t, exec (.remapCopyDone b) s = .next t ∧ tget t.darner.remaps r.granule = some r.place ∧ (∀ x ∈ t.darner.queue, x.b ≠ b)))

/-- SESSION_OPEN of a malformed message is FORMAT, with eight live sessions BUSY, else it opens a session numbered next.
In a session a request with a wrong SEQ or no session is refused SESSION; the last SEQ again is answered as before;
the next SEQ performs the operation once, answers it and advances SEQ; SESSION_CLOSE removes the session. From a
function the operation is performed at once; a malformed one is FORMAT; in WICK_ONLY there is no answer. An entry that
is not there is NO_ENTRY, one a VF may not read NOT_PERMITTED; DESCRIBE gives the entry's 16 bytes. A mailbox GO
performs its request and shows DONE with the answer; an unfit access of the aperture is dropped and counted, a refused
read of it is 0. A register write to no entry is NO_ENTRY, outside the rows SIZE, or makes the row's write. In the
factory range, open in BLANK and FACTORY_TEST and not described, an operation answers free values (log 127). Timeouts
remove sessions and stagings; the port answers echoes and discovery for its own addresses and takes an endpoint ID. -/
def Obligations.Dictionary : Prop :=
  (∀ (s : State) (mctp : Bool) (peer : Nat) (m : SdpMsg),
    (requestOk 1 1408 m = false → exec (.sessionOpen mctp peer m) s = .next (sdpRefuse (countSdp s 0) 1)) ∧
    (requestOk 1 1408 m = true → s.server.sessions = [] → ∃ t x, exec (.sessionOpen mctp peer m) s = .next t ∧
      t.server.sessions = [x] ∧ x.num = s.server.nextSession ∧ x.seq = 0 ∧ x.mctp = mctp ∧
      x.secured = (mctp && s.keeper.sessions.contains .mgmt) ∧ t.answer.session = s.server.nextSession ∧ t.answer.status = 0) ∧
    (requestOk 1 1408 m = true → s.server.sessions.length = 8 → (∀ x ∈ s.server.sessions, sessionOver s x = false) →
      ∃ t, exec (.sessionOpen mctp peer m) s = .next t ∧ t.answer.status = 11 ∧ t.server.sessions = s.server.sessions)) ∧
  (∀ (s : State) (m : SdpMsg), sessionOf s m.session = none →
    (requestOk 2 1408 m = true → exec (.sessionClose m) s = .next (sdpRefuse (countSdp s 0) 2)) ∧
    (requestOk 3 1408 m = true → exec (.read .mgmt m) s = .next (sdpRefuse (countSdp s 0) 2)) ∧
    (requestOk 4 1408 m = true → exec (.write .mgmt m) s = .next (sdpRefuse (countSdp s 0) 2)) ∧
    (requestOk 5 1408 m = true → exec (.describe .mgmt m) s = .next (sdpRefuse (countSdp s 0) 2)) ∧
    (requestOk 6 1408 m = true → exec (.nop .mgmt m) s = .next (sdpRefuse (countSdp s 0) 2))) ∧
  (∀ (s : State) (m : SdpMsg) (x : Session) (a : Answer), sessionOf s m.session = some x → m.seq = x.seq → x.last = some a →
    (requestOk 3 1408 m = true → ∃ t, exec (.read .mgmt m) s = .next t ∧ t.answer = a ∧ t.mem = s.mem ∧ t.hoops = s.hoops) ∧
    (requestOk 4 1408 m = true → ∃ t, exec (.write .mgmt m) s = .next t ∧ t.answer = a ∧ t.mem = s.mem ∧ t.hoops = s.hoops) ∧
    (requestOk 6 1408 m = true → ∃ t, exec (.nop .mgmt m) s = .next t ∧ t.answer = a) ∧
    (∃ t, exec (.seqRepeat m.session) s = .next t ∧ t.answer = a ∧ t.mem = s.mem)) ∧
  (∀ (s : State) (m : SdpMsg) (x : Session), sessionOf s m.session = some x → m.seq = x.seq + 1 → factoryOpen s m.index = false →
    (requestOk 3 1408 m = true → ∃ t, exec (.read .mgmt m) s = .next t ∧
      t.answer = (answerRead (countSdp s 0) (readOp (countSdp s 0) .mgmt 1408 m)).answer ∧
      (∀ y ∈ t.server.sessions, y.num = m.session → y.seq = m.seq ∧ y.last = some t.answer)) ∧
    (requestOk 4 1408 m = true → ∃ t, exec (.write .mgmt m) s = .next t ∧
      t.answer = (writeOp (countSdp s 0) .mgmt (sessionSecure s x) m).answer ∧
      (∀ y ∈ t.server.sessions, y.num = m.session → y.seq = m.seq ∧ y.last = some t.answer)) ∧
    (requestOk 5 1408 m = true → ∃ t, exec (.describe .mgmt m) s = .next t ∧ t.answer.status = (describeOp m).1 ∧
      t.answer.data = (describeOp m).2) ∧
    (requestOk 6 1408 m = true → ∃ t, exec (.nop .mgmt m) s = .next t ∧ t.answer.status = 0 ∧
      (∀ y ∈ t.server.sessions, y.num = m.session → y.seq = m.seq ∧ y.last = some t.answer)) ∧
    (requestOk 2 1408 m = true → ∃ t, exec (.sessionClose m) s = .next t ∧ t.answer.status = 0 ∧
      (∀ y ∈ t.server.sessions, y.num ≠ m.session))) ∧
  (∀ (s : State) (who : Req) (m : SdpMsg), who ≠ .mgmt → wickOnly s = true → exec (.read who m) s = .next s ∧
    exec (.write who m) s = .next s ∧ exec (.describe who m) s = .next s ∧ exec (.nop who m) s = .next s) ∧
  (∀ (s : State) (who : Req) (m : SdpMsg), who ≠ .mgmt → wickOnly s = false → factoryOpen s m.index = false →
    (requestOk 3 65536 { m with session := 0 } = true →
      exec (.read who m) s = .next (answerRead s (readOp s who 65536 m))) ∧
    (requestOk 4 65536 { m with session := 0 } = true → exec (.write who m) s = .next (writeOp s who true m)) ∧
    (requestOk 5 65536 { m with session := 0 } = true →
      exec (.describe who m) s = .next (reply s (describeOp m).2 false (describeOp m).1)) ∧
    (requestOk 6 65536 { m with session := 0 } = true → exec (.nop who m) s = .next (result s 0)) ∧
    (requestOk 3 65536 { m with session := 0 } = false → exec (.read who m) s = .next (result s 1))) ∧
  (∀ (s : State) (n : Nat) (m : SdpMsg), wickOnly s = false → factoryOpen s m.index = false →
    (findEntry? (m.index * 256 + m.sub) = none → requestOk 4 65536 { m with session := 0 } = true →
      exec (.write (.vf n) m) s = .next (result s 3)) ∧
    (∀ x, findEntry? (m.index * 256 + m.sub) = some x → vfReads (m.index * 256 + m.sub) = false →
      requestOk 3 65536 { m with session := 0 } = true →
      ∃ t, exec (.read (.vf n) m) s = .next t ∧ t.answer.status = 4 ∧ t.answer.data = [])) ∧
  (∀ (s : State) (m : SdpMsg), wickOnly s = false → factoryOpen s m.index = true →
    (requestOk 3 65536 { m with session := 0 } = true → exec (.read (.pf 0) m) s =
      .next (factoryAnswer s ((Config.freeValue s.free).toNat / 16 % 65537))) ∧
    (requestOk 4 65536 { m with session := 0 } = true → exec (.write (.pf 0) m) s = .next (factoryAnswer s 0)) ∧
    (requestOk 5 65536 { m with session := 0 } = true → exec (.describe (.pf 0) m) s = .next (factoryAnswer s 16))) ∧
  (∀ (s : State) (n : Nat), sessionOf s n = none → exec (.seqRepeat n) s = .next s) ∧
  (∀ (s : State) (n : Nat), ∃ t, exec (.sessionTimeout n) s = .next t ∧ (∀ x ∈ t.server.sessions, x.num = n →
    sessionOver s x = false) ∧ (∀ x ∈ s.server.sessions, x.num ≠ n → x ∈ t.server.sessions)) ∧
  (∀ (s : State) (who : Req) (op : Nat) (m : SdpMsg), who ≠ .mgmt → wickOnly s = false → (mailbox s who).control ≠ 1 →
    factoryOpen s m.index = false →
    (∃ t, exec (.mbControlGo who true op m) s = .next t ∧ (mailbox t who).control = 2 ∧
      (mailbox t who).answer = (dictRequest s who op m (performOp who op m)).answer ∧ (mailbox t who).request = some m) ∧
    (∃ t, exec (.mbControlGo who false op m) s = .next t ∧ (mailbox t who).control = 2 ∧ (mailbox t who).answer.status = 1)) ∧
  (∀ (s : State) (magicOk : Bool) (op : Nat) (m : SdpMsg), exec (.mbControlGo .mgmt magicOk op m) s = .next s) ∧
  (∀ (s : State) (who : Req) (select : Word) (off len : Nat), who ≠ .mgmt → wickOnly s = false →
    apertureOkAccess off len = false → exec (.apertureAccess who select off none len) s = .next (barAccessDrop s who 0 (0x1000000 + off) len true)) ∧
  (∀ (s : State) (who : Req) (select : Word) (off len : Nat), who ≠ .mgmt → wickOnly s = false →
    apertureOkAccess off len = true → factoryOpen s (fld select 23 8) = false → findEntry? (fld select 23 0) = none →
    ∃ t, exec (.apertureAccess who select off none len) s = .next t ∧ t.answer.data = leBytes len 0 ∧ t.answer.status = 3) ∧
  (∀ (s u : State) (who : Req) (select : Word) (off len : Nat) (x : Entry), who ≠ .mgmt → wickOnly s = false →
    apertureOkAccess off len = true → factoryOpen s (fld select 23 8) = false → findEntry? (fld select 23 0) = some x →
    readCode s who (fld select 23 0) (some x) = 0 → apertureEntry x = true → off + len ≤ x.size * x.rows →
    u = setMailbox s who { mailbox s who with select := wd (fld select 23 0) } →
    exec (.apertureAccess who select off none len) s = .next (answerRead u (0, apertureBytes u who x off len, 0))) ∧
  (∀ (s : State) (who : Req) (select : Word) (off len : Nat), who ≠ .mgmt → wickOnly s = false →
    apertureOkAccess off len = true → factoryOpen s (fld select 23 8) = true → findEntry? (fld select 23 0) = none →
    exec (.apertureAccess who select off none len) s =
      .next (factoryAnswer (setMailbox s who { mailbox s who with select := wd (fld select 23 0) }) len)) ∧
  (∀ (s : State) (who : Req) (index sub row : Nat) (ws : List Word), factoryOpen s index = false →
    (findEntry? (index * 256 + sub) = none → exec (.registerWrite who index sub row ws) s = .next (result s 3)) ∧
    (∀ x, findEntry? (index * 256 + sub) = some x →
      (writeCode s who x [(row, ws)] true ≠ 0 → exec (.registerWrite who index sub row ws) s =
        .next (result s (writeCode s who x [(row, ws)] true))) ∧
      (writeCode s who x [(row, ws)] true = 0 → x.rows ≤ row →
        exec (.registerWrite who index sub row ws) s = .next (result s 8)) ∧
      (writeCode s who x [(row, ws)] true = 0 → row < x.rows → x.type ≠ 7 → x.type ≠ 5 →
        exec (.registerWrite who index sub row ws) s = .next (writeRows s who (index * 256 + sub)
          [(row, toWords ((padTo (8 * ((x.size + 7) / 8)) (wordBytes ws)).take x.size), true)])))) ∧
  (∀ (s : State) (who : Req) (index sub row : Nat) (ws : List Word), factoryOpen s index = true →
    findEntry? (index * 256 + sub) = none → exec (.registerWrite who index sub row ws) s = .next (factoryAnswer s 0)) ∧
  (∀ (s : State) (index sub : Nat), ∃ t, exec (.blobStagingTimeout index sub) s = .next t ∧
    (∀ x ∈ t.server.stagings, x ∈ s.server.stagings ∧ (x.entry = index * 256 + sub → wick s < x.time + 10000000000))) ∧
  (∀ (s : State) (eid : Nat), ∃ t, exec (.setEndpointId eid) s = .next t ∧ t.server.eid = eid % 256 ∧ t.answer.status = 0) ∧
  (∀ (s : State) (target : Nat), target = leNat linkLocal → exec (.neighbourDiscovery target) s =
    .next (reply s macBytes false 0)) ∧
  (∀ (s : State) (target : Nat), target ≠ leNat linkLocal → target ≠ leNat (globalBytes s) →
    exec (.neighbourDiscovery target) s = .next s) ∧
  (∀ (s : State) (payload : List Byte), exec (.icmpv6Echo payload) s = .next (reply s payload false 0)) ∧
  (∀ s : State, exec .sdpMessageDrop s = .next (bump s 0x120007 2))
end

