-- ==== Sys2Proof/Laws/Tables.lean ====
section
/-! SUPPORT. Laws of tables: what a lookup reads after a write or a removal, and that every operation keeps the keys rising and the
canonical form. -/

namespace Sys2Proof.Machine

variable {α : Type}

theorem tget_tput_same (t : Table α) (k : Nat) (v : α) : tget (tput t k v) k = some v := by
  induction t with
  | nil => simp [tput, tget]
  | cons p t ih =>
    obtain ⟨k', v'⟩ := p
    unfold tput
    split
    · simp [tget]
    · split
      · simp [tget]
      · rename_i h; simp [tget, h, ih]

theorem tget_tput_other (t : Table α) (k j : Nat) (v : α) (h : j ≠ k) : tget (tput t k v) j = tget t j := by
  induction t with
  | nil => simp [tput, tget, h]
  | cons p t ih =>
    obtain ⟨k', v'⟩ := p
    unfold tput
    split
    · simp [tget, h]
    · split
      · rename_i e; subst e; simp [tget, h]
      · simp only [tget, ih]

/-- Keys of a table all above a bound. -/
def above (b : Nat) (t : Table α) : Prop := ∀ p ∈ t, b < p.1

theorem keysRise_cons {k : Nat} {v : α} {t : Table α} : keysRise ((k, v) :: t) = true ↔ above k t ∧ keysRise t = true := by
  induction t generalizing k v with
  | nil => simp [keysRise, above]
  | cons p t ih =>
    obtain ⟨k', v'⟩ := p
    rw [keysRise, Bool.and_eq_true, decide_eq_true_eq]
    constructor
    · rintro ⟨hk, hr⟩
      refine ⟨?_, hr⟩
      intro q hq
      rcases List.mem_cons.1 hq with e | hq
      · subst e; exact hk
      · exact Nat.lt_trans hk ((ih.1 hr).1 q hq)
    · rintro ⟨hk, hr⟩
      exact ⟨hk (k', v') (List.mem_cons_self ..), hr⟩

theorem mem_tput {t : Table α} {k : Nat} {v : α} {p : Nat × α} (h : p ∈ tput t k v) : p = (k, v) ∨ p ∈ t := by
  induction t with
  | nil => simpa [tput] using h
  | cons q t ih =>
    obtain ⟨k', v'⟩ := q
    unfold tput at h
    split at h
    · simpa [or_assoc] using h
    · split at h
      · rcases List.mem_cons.1 h with e | h
        · exact .inl e
        · exact .inr (List.mem_cons_of_mem _ h)
      · rcases List.mem_cons.1 h with e | h
        · exact .inr (e ▸ List.mem_cons_self ..)
        · rcases ih h with e | h
          · exact .inl e
          · exact .inr (List.mem_cons_of_mem _ h)

theorem mem_tdel {t : Table α} {k : Nat} {p : Nat × α} (h : p ∈ tdel t k) : p ∈ t := by
  induction t with
  | nil => simp [tdel] at h
  | cons q t ih =>
    obtain ⟨k', v'⟩ := q
    unfold tdel at h
    split at h
    · exact List.mem_cons_of_mem _ h
    · rcases List.mem_cons.1 h with e | h
      · exact e ▸ List.mem_cons_self ..
      · exact List.mem_cons_of_mem _ (ih h)

theorem keysRise_tput {t : Table α} (k : Nat) (v : α) (h : keysRise t = true) : keysRise (tput t k v) = true := by
  induction t with
  | nil => simp [tput, keysRise]
  | cons q t ih =>
    obtain ⟨k', v'⟩ := q
    obtain ⟨ha, hr⟩ := keysRise_cons.1 h
    unfold tput
    split
    · rename_i hk
      refine keysRise_cons.2 ⟨?_, h⟩
      intro p hp
      rcases List.mem_cons.1 hp with e | hp
      · subst e; exact hk
      · exact Nat.lt_trans hk (ha p hp)
    · split
      · rename_i e; subst e; exact keysRise_cons.2 ⟨ha, hr⟩
      · refine keysRise_cons.2 ⟨?_, ih hr⟩
        intro p hp
        rcases mem_tput hp with e | hp
        · subst e; show k' < k; omega
        · exact ha p hp

theorem keysRise_tdel {t : Table α} (k : Nat) (h : keysRise t = true) : keysRise (tdel t k) = true := by
  induction t with
  | nil => exact h
  | cons q t ih =>
    obtain ⟨k', v'⟩ := q
    obtain ⟨ha, hr⟩ := keysRise_cons.1 h
    unfold tdel
    split
    · exact hr
    · exact keysRise_cons.2 ⟨fun p hp => ha p (mem_tdel hp), ih hr⟩

theorem keysRise_filter {t : Table α} (f : Nat × α → Bool) (h : keysRise t = true) : keysRise (t.filter f) = true := by
  induction t with
  | nil => exact h
  | cons q t ih =>
    obtain ⟨k', v'⟩ := q
    obtain ⟨ha, hr⟩ := keysRise_cons.1 h
    rw [List.filter_cons]
    split
    · exact keysRise_cons.2 ⟨fun p hp => ha p (List.mem_filter.1 hp).1, ih hr⟩
    · exact ih hr

theorem tget_above {t : Table α} {k : Nat} (h : above k t) : tget t k = none := by
  induction t with
  | nil => rfl
  | cons q t ih =>
    obtain ⟨k', v'⟩ := q
    have : k < k' := h (k', v') (List.mem_cons_self ..)
    rw [tget, if_neg (by omega)]
    exact ih fun p hp => h p (List.mem_cons_of_mem _ hp)

theorem tget_tdel_same {t : Table α} (k : Nat) (h : keysRise t = true) : tget (tdel t k) k = none := by
  induction t with
  | nil => rfl
  | cons q t ih =>
    obtain ⟨k', v'⟩ := q
    obtain ⟨ha, hr⟩ := keysRise_cons.1 h
    unfold tdel
    split
    · rename_i e; subst e; exact tget_above ha
    · rename_i hk; rw [tget, if_neg hk]; exact ih hr

theorem tget_tdel_other (t : Table α) (k j : Nat) (h : j ≠ k) : tget (tdel t k) j = tget t j := by
  induction t with
  | nil => rfl
  | cons q t ih =>
    obtain ⟨k', v'⟩ := q
    unfold tdel
    split
    · rename_i e; subst e; rw [tget, if_neg h]
    · rw [tget, tget, ih]

section canonical
variable [DecidableEq α] {d : Nat → α}

theorem canonical_iff {t : Table α} : canonical d t = true ↔ keysRise t = true ∧ ∀ p ∈ t, p.2 ≠ d p.1 := by
  simp [canonical]

theorem canonical_nil : canonical d ([] : Table α) = true := rfl

theorem canonical_filter {t : Table α} (f : Nat × α → Bool) (h : canonical d t = true) : canonical d (t.filter f) = true := by
  rw [canonical_iff] at h ⊢
  exact ⟨keysRise_filter f h.1, fun p hp => h.2 p (List.mem_filter.1 hp).1⟩

/-- Every write keeps the canonical form. -/
theorem canonical_cput {t : Table α} (k : Nat) (v : α) (h : canonical d t = true) : canonical d (cput d t k v) = true := by
  rw [canonical_iff] at h ⊢
  unfold cput
  split
  · exact ⟨keysRise_tdel k h.1, fun p hp => h.2 p (mem_tdel hp)⟩
  · rename_i hv
    refine ⟨keysRise_tput k v h.1, fun p hp => ?_⟩
    rcases mem_tput hp with e | hp
    · subst e; exact hv
    · exact h.2 p hp

theorem canonical_foldl_cput {β : Type} {l : List β} {k : β → Nat} {v : β → α} {t : Table α} (h : canonical d t = true) :
    canonical d (l.foldl (fun c p => cput d c (k p) (v p)) t) = true := by
  induction l generalizing t with
  | nil => exact h
  | cons p l ih => exact ih (canonical_cput (k p) (v p) h)

omit [DecidableEq α] in
/-- Entries left out of a table do not change what another key holds. -/
theorem cget_filter {t : Table α} (f : Nat × α → Bool) (k : Nat) (hf : ∀ v, f (k, v) = true) : cget d (t.filter f) k = cget d t k := by
  unfold cget
  congr 1
  induction t with
  | nil => rfl
  | cons p t ih =>
    obtain ⟨j, v⟩ := p
    by_cases hj : k = j
    · subst hj
      rw [List.filter_cons_of_pos (hf v)]
      simp [tget]
    · by_cases hp : f (j, v) = true
      · rw [List.filter_cons_of_pos hp]
        simp only [tget, hj, if_false]
        exact ih
      · rw [List.filter_cons_of_neg hp]
        simp only [tget, hj, if_false]
        exact ih

/-- A write reads back. -/
theorem cget_cput_same {t : Table α} (k : Nat) (v : α) (h : keysRise t = true) : cget d (cput d t k v) k = v := by
  unfold cput cget
  split
  · rename_i e; rw [tget_tdel_same k h, e]; rfl
  · rw [tget_tput_same]; rfl

/-- A write leaves every other key alone. -/
theorem cget_cput_other (t : Table α) (k j : Nat) (v : α) (h : j ≠ k) : cget d (cput d t k v) j = cget d t j := by
  unfold cput cget
  split
  · rw [tget_tdel_other _ _ _ h]
  · rw [tget_tput_other _ _ _ _ h]

end canonical

/-! ### Memory and dictionary cells -/

/-- Writing other keys leaves what a key reads as. -/
theorem cget_foldl_cput_other [DecidableEq α] {d : Nat → α} {l : List (Nat × α)} {j : Nat} (h : ∀ p ∈ l, j ≠ p.1) (t : Table α) :
    cget d (l.foldl (fun c p => cput d c p.1 p.2) t) j = cget d t j := by
  induction l generalizing t with
  | nil => rfl
  | cons p l ih =>
    rw [List.foldl_cons, ih (fun q hq => h q (List.mem_cons_of_mem _ hq)), cget_cput_other _ _ _ _ (h p List.mem_cons_self)]

theorem canonical_putBytes {d : Nat → Byte} {t : List Host.Cell} (a : Nat) (bs : List Byte) (h : canonical d t = true) :
    canonical d (putBytes d t a bs) = true := by
  induction bs generalizing t a with
  | nil => exact h
  | cons b bs ih => exact ih (a + 1) (canonical_cput a b h)

/-- The byte at an address outside a run of bytes written is as before. -/
theorem cget_putBytes_other {d : Nat → Byte} (t : List Host.Cell) (a x : Nat) (bs : List Byte) (h : x < a ∨ a + bs.length ≤ x) :
    cget d (putBytes d t a bs) x = cget d t x := by
  induction bs generalizing t a with
  | nil => rfl
  | cons b bs ih =>
    simp only [List.length_cons] at h
    rw [putBytes, ih _ (a + 1) (by omega), cget_cput_other _ _ _ _ (by omega)]

/-- A byte written reads back. -/
theorem cget_putBytes {d : Nat → Byte} {t : List Host.Cell} (a i : Nat) (bs : List Byte) (h : canonical d t = true)
    (hi : i < bs.length) : cget d (putBytes d t a bs) (a + i) = bs[i] := by
  induction bs generalizing t a i with
  | nil => simp at hi
  | cons b bs ih =>
    rw [putBytes]
    cases i with
    | zero =>
      rw [cget_putBytes_other _ _ _ _ (by omega)]
      exact cget_cput_same _ _ (canonical_iff.1 h).1
    | succ i =>
      have := ih (t := cput d t a b) (a + 1) i (canonical_cput a b h) (by simpa using hi)
      rw [show a + (i + 1) = a + 1 + i by omega, this]
      rfl

/-- A dictionary cell written reads back. -/
theorem cell_setCell_same {s : State} (e row w : Nat) (v : Word) (h : canonical cellDefault s.regs = true) :
    cell (setCell s e row w v) e row w = v := cget_cput_same _ _ (canonical_iff.1 h).1

/-- A write of a dictionary cell leaves every other cell alone. -/
theorem cell_setCell_other (s : State) (e row w e' row' w' : Nat) (v : Word) (h : cellKey e' row' w' ≠ cellKey e row w) :
    cell (setCell s e row w v) e' row' w' = cell s e' row' w' := cget_cput_other _ _ _ _ h

/-- Cells of different places have different keys. -/
theorem cellKey_inj {e row w e' row' w' : Nat} (hr : row < 2 ^ 20) (hw : w < 16) (hr' : row' < 2 ^ 20) (hw' : w' < 16)
    (h : cellKey e row w = cellKey e' row' w') : e = e' ∧ row = row' ∧ w = w' := by
  unfold cellKey at h
  omega

/-- A write of a cell of another entry leaves a cell alone. -/
theorem cell_setCell_entry (s : State) (e row w e' row' w' : Nat) (v : Word) (h : e' ≠ e) :
    cell (setCell s e row w v) e' row' w' = cell s e' row' w' :=
  cell_setCell_other _ _ _ _ _ _ _ _ fun e1 => h (by unfold cellKey at e1; omega)

end Sys2Proof.Machine
end

