-- ==== Sys2Proof/Laws/Keep.lean ====
section
/-! SUPPORT. What an operation of the block may change. `Keep m a s` says of a state `s` reached from `a` that the two tables are in
canonical form, that the queue of commands is the same, and that only the parts and the dictionary entries that `m` names may
differ. -/

namespace Sys2Proof.Machine

open Sys2Proof.Safety

/-- The parts and the dictionary entries that may change; `any` says every entry. -/
structure May where
  parts : List StatePart
  entries : List Nat
  any : Bool
  deriving DecidableEq, Repr

/-- May an entry change? -/
def May.entry (m : May) (e : Nat) : Prop := m.any = true ∨ e ∈ m.entries

/-- What is kept from `a` to `s`. -/
structure Keep (m : May) (a s : State) : Prop where
  canon : Canon s
  pend : s.pending = a.pending
  part : ∀ p, p ∈ m.parts ∨ p.same a s
  cells : ∀ k, m.entry (k / 2 ^ 24) ∨ cget cellDefault s.regs k = cget cellDefault a.regs k

/-- `Keep` of what an operation with an outcome leaves. -/
def KeepO {α : Type} (m : May) (a : State) (o : Out α) : Prop := Keep m a o.state
/-- `Keep` of the second of a pair. -/
def KeepP {α : Type} (m : May) (a : State) (r : α × State) : Prop := Keep m a r.2
/-- `Keep` of the first of a pair. -/
def KeepF {α : Type} (m : May) (a : State) (r : State × α) : Prop := Keep m a r.1
/-- `KeepO` of an outcome that may be absent. -/
def KeepOO {α : Type} (m : May) (a : State) (r : Option (Out α)) : Prop := ∀ o, r = some o → KeepO m a o
/-- `Keep` of a state that may be absent. -/
def KeepOS (m : May) (a : State) (r : Option State) : Prop := ∀ o, r = some o → Keep m a o
/-- `KeepP` of a pair that may be absent. -/
def KeepOP {α : Type} (m : May) (a : State) (r : Option (α × State)) : Prop := ∀ o, r = some o → KeepP m a o
/-- `KeepO` of the second of a pair. -/
def KeepPO {α β : Type} (m : May) (a : State) (r : α × Out β) : Prop := KeepO m a r.2
/-- `Keep` of a state that an error may replace. -/
def KeepE (m : May) (a : State) (r : Except Nat State) : Prop := ∀ t, r = .ok t → Keep m a t

variable {m : May} {a s t : State} {α β γ : Type}

/-! ### Taking results apart and putting them together -/

theorem keep_ite {c : Prop} [Decidable c] {x y : State} (hx : Keep m a x) (hy : Keep m a y) : Keep m a (if c then x else y) := by
  split <;> assumption
theorem keepO_ite {c : Prop} [Decidable c] {x y : Out α} (hx : KeepO m a x) (hy : KeepO m a y) : KeepO m a (if c then x else y) := by
  split <;> assumption
theorem keepP_ite {c : Prop} [Decidable c] {x y : α × State} (hx : KeepP m a x) (hy : KeepP m a y) :
    KeepP m a (if c then x else y) := by split <;> assumption
theorem keepF_ite {c : Prop} [Decidable c] {x y : State × α} (hx : KeepF m a x) (hy : KeepF m a y) :
    KeepF m a (if c then x else y) := by split <;> assumption
theorem keepOO_ite {c : Prop} [Decidable c] {x y : Option (Out α)} (hx : KeepOO m a x) (hy : KeepOO m a y) :
    KeepOO m a (if c then x else y) := by split <;> assumption
theorem keepOS_ite {c : Prop} [Decidable c] {x y : Option State} (hx : KeepOS m a x) (hy : KeepOS m a y) :
    KeepOS m a (if c then x else y) := by split <;> assumption
theorem keepOP_ite {c : Prop} [Decidable c] {x y : Option (α × State)} (hx : KeepOP m a x) (hy : KeepOP m a y) :
    KeepOP m a (if c then x else y) := by split <;> assumption
theorem keepPO_ite {c : Prop} [Decidable c] {x y : α × Out β} (hx : KeepPO m a x) (hy : KeepPO m a y) :
    KeepPO m a (if c then x else y) := by split <;> assumption
theorem keepE_ite {c : Prop} [Decidable c] {x y : Except Nat State} (hx : KeepE m a x) (hy : KeepE m a y) :
    KeepE m a (if c then x else y) := by split <;> assumption

theorem keepO_ok {v : α} (h : Keep m a s) : KeepO m a (Out.ok v s) := h
theorem keepO_wait (h : Keep m a s) : KeepO m a (Out.wait s : Out α) := h
theorem keepO_fail {st : Status} (h : Keep m a s) : KeepO m a (Out.fail st s : Out α) := h
theorem keepP_mk {x : α} (h : Keep m a s) : KeepP m a (x, s) := h
theorem keepF_mk {x : α} (h : Keep m a s) : KeepF m a (s, x) := h
theorem keepPO_mk {x : α} {o : Out β} (h : KeepO m a o) : KeepPO m a (x, o) := h
theorem keepOO_some {o : Out α} (h : KeepO m a o) : KeepOO m a (some o) := by rintro _ ⟨⟩; exact h
theorem keepOO_none : KeepOO m a (none : Option (Out α)) := by rintro _ ⟨⟩
theorem keepOS_some (h : Keep m a s) : KeepOS m a (some s) := by rintro _ ⟨⟩; exact h
theorem keepOS_none : KeepOS m a none := by rintro _ ⟨⟩
theorem keepOP_some {r : α × State} (h : KeepP m a r) : KeepOP m a (some r) := by rintro _ ⟨⟩; exact h
theorem keepOP_none : KeepOP m a (none : Option (α × State)) := by rintro _ ⟨⟩
theorem keepE_ok (h : Keep m a s) : KeepE m a (.ok s) := by rintro _ ⟨⟩; exact h
theorem keepE_error {n : Nat} : KeepE m a (.error n) := by rintro _ ⟨⟩

theorem keep_of_ok {o : Out α} {v : α} (h : KeepO m a o) (e : o = Out.ok v s) : Keep m a s := by subst e; exact h
theorem keep_of_wait {o : Out α} (h : KeepO m a o) (e : o = Out.wait s) : Keep m a s := by subst e; exact h
theorem keep_of_fail {o : Out α} {st : Status} (h : KeepO m a o) (e : o = Out.fail st s) : Keep m a s := by subst e; exact h
theorem keep_of_pair {r : α × State} {x : α} (h : KeepP m a r) (e : r = (x, s)) : Keep m a s := by subst e; exact h
theorem keep_of_fst {r : State × α} {x : α} (h : KeepF m a r) (e : r = (s, x)) : Keep m a s := by subst e; exact h
theorem keep_of_someS {r : Option State} (h : KeepOS m a r) (e : r = some s) : Keep m a s := h _ e
theorem keep_of_someP {r : Option (α × State)} {x : α} (h : KeepOP m a r) (e : r = some (x, s)) : Keep m a s := h _ e
theorem keepP_of_some {r : Option (α × State)} {p : α × State} (h : KeepOP m a r) (e : r = some p) : KeepP m a p := h _ e
theorem keepO_of_some {r : Option (Out α)} {o : Out α} (h : KeepOO m a r) (e : r = some o) : KeepO m a o := h _ e
theorem keepO_of_pair {r : α × Out β} {x : α} {o : Out β} (h : KeepPO m a r) (e : r = (x, o)) : KeepO m a o := by subst e; exact h
theorem keep_of_pairOk {r : α × Out β} {x : α} {v : β} (h : KeepPO m a r) (e : r = (x, .ok v s)) : Keep m a s := by subst e; exact h
theorem keep_of_pairWait {r : α × Out β} {x : α} (h : KeepPO m a r) (e : r = (x, .wait s)) : Keep m a s := by subst e; exact h
theorem keep_of_pairFail {r : α × Out β} {x : α} {st : Status} (h : KeepPO m a r) (e : r = (x, .fail st s)) : Keep m a s := by
  subst e; exact h
theorem keep_of_except {r : Except Nat State} (h : KeepE m a r) (e : r = .ok s) : Keep m a s := h _ e

theorem keep_snd {r : α × State} : Keep m a r.2 ↔ KeepP m a r := Iff.rfl
theorem keep_fst {r : State × α} : Keep m a r.1 ↔ KeepF m a r := Iff.rfl
theorem keep_state {o : Out α} (h : KeepO m a o) : Keep m a o.state := h
theorem keepO_snd {r : α × Out β} : KeepO m a r.2 ↔ KeepPO m a r := Iff.rfl
theorem keep_okE {v : α} (h : KeepO m a (Out.ok v s)) : Keep m a s := h
theorem keep_waitE (h : KeepO m a (Out.wait s : Out α)) : Keep m a s := h
theorem keep_failE {st : Status} (h : KeepO m a (Out.fail st s : Out α)) : Keep m a s := h
theorem keep_pairE {x : α} (h : KeepP m a (x, s)) : Keep m a s := h
theorem keep_fstE {x : α} (h : KeepF m a (s, x)) : Keep m a s := h
theorem keep_pairOkE {x : α} {v : β} (h : KeepPO m a (x, Out.ok v s)) : Keep m a s := h
theorem keep_pairWaitE {x : α} (h : KeepPO m a (x, (Out.wait s : Out β))) : Keep m a s := h
theorem keep_pairFailE {x : α} {st : Status} (h : KeepPO m a (x, (Out.fail st s : Out β))) : Keep m a s := h
theorem keep_someE (h : KeepOS m a (some s)) : Keep m a s := h _ rfl
theorem keepP_someE {r : α × State} (h : KeepOP m a (some r)) : KeepP m a r := h _ rfl
theorem keepO_someE {o : Out α} (h : KeepOO m a (some o)) : KeepO m a o := h _ rfl
theorem keep_getD {r : Option State} (h : KeepOS m a r) (hs : Keep m a s) : Keep m a (r.getD s) := by
  cases r with
  | none => exact hs
  | some t => exact h _ rfl

theorem keepOP_map {f : α × State → β × State} {r : Option (α × State)} (h : KeepOP m a r) (hf : ∀ p, KeepP m a p → KeepP m a (f p)) :
    KeepOP m a (r.map f) := by
  cases r with
  | none => exact keepOP_none
  | some p => exact keepOP_some (hf p (h p rfl))
theorem keep_foldl {g : State → β → State} {l : List β} (h : Keep m a s) (hg : ∀ s x, Keep m a s → Keep m a (g s x)) :
    Keep m a (l.foldl g s) := by
  induction l generalizing s with
  | nil => exact h
  | cons b l ih => exact ih (hg _ _ h)
theorem keepP_foldl {g : α × State → β → α × State} {l : List β} {r : α × State} (h : KeepP m a r)
    (hg : ∀ s x, KeepP m a s → KeepP m a (g s x)) : KeepP m a (l.foldl g r) := by
  induction l generalizing r with
  | nil => exact h
  | cons b l ih => exact ih (hg _ _ h)
theorem keepF_foldl {g : State × α → β → State × α} {l : List β} {r : State × α} (h : KeepF m a r)
    (hg : ∀ s x, KeepF m a s → KeepF m a (g s x)) : KeepF m a (l.foldl g r) := by
  induction l generalizing r with
  | nil => exact h
  | cons b l ih => exact ih (hg _ _ h)
theorem keepO_foldl {g : Out α → β → Out α} {l : List β} {r : Out α} (h : KeepO m a r)
    (hg : ∀ s x, KeepO m a s → KeepO m a (g s x)) : KeepO m a (l.foldl g r) := by
  induction l generalizing r with
  | nil => exact h
  | cons b l ih => exact ih (hg _ _ h)
theorem keepOO_findSome {g : β → Option (Out α)} {l : List β} (hg : ∀ x, KeepOO m a (g x)) : KeepOO m a (l.findSome? g) := by
  intro o ho
  obtain ⟨x, _, hx⟩ := List.exists_of_findSome?_eq_some ho
  exact hg x o hx
theorem keep_of_someOk {r : Option (Out α)} {v : α} (h : KeepOO m a r) (e : r = some (.ok v s)) : Keep m a s := h _ e
theorem keep_of_someWait {r : Option (Out α)} (h : KeepOO m a r) (e : r = some (.wait s)) : Keep m a s := h _ e
theorem keep_of_someFail {r : Option (Out α)} {st : Status} (h : KeepOO m a r) (e : r = some (.fail st s)) : Keep m a s := h _ e
theorem keepE_foldlM {g : State → β → Except Nat State} {l : List β} (h : Keep m a s)
    (hg : ∀ s x, Keep m a s → KeepE m a (g s x)) : KeepE m a (l.foldlM g s) := by
  induction l generalizing s with
  | nil => exact keepE_ok h
  | cons b l ih =>
    intro t ht
    rw [List.foldlM_cons] at ht
    cases e : g s b with
    | error n => rw [e] at ht; cases ht
    | ok u => rw [e] at ht; exact ih (hg _ _ h _ e) t ht
theorem keepE_bind {x : Except Nat State} {f : State → Except Nat State} (hx : KeepE m a x)
    (hf : ∀ s, Keep m a s → KeepE m a (f s)) : KeepE m a (x >>= f) := by
  cases x with
  | error n => exact keepE_error
  | ok s => exact hf s (hx s rfl)
theorem keepE_bind2 {x : Except Nat State} {f : State → Except Nat State} (hx : KeepE m a x)
    (hf : ∀ s, Keep m a s → KeepE m a (f s)) : KeepE m a (x.bind f) := keepE_bind hx hf
theorem keepO_andThen {o : Out α} {f : α → State → Out β} (h : KeepO m a o) (hf : ∀ x s, Keep m a s → KeepO m a (f x s)) :
    KeepO m a (o.andThen f) := by
  cases o with
  | ok x s => exact hf x s h
  | wait s => exact h
  | fail st s => exact h

/-! ### Record updates -/

/-- `Keep` said of the fields of a state; what the counter of free values holds is no matter. -/
def KeepL (m : May) (a : State) (pending : List Instr) (clk : Clocks) (mem : Mem) (hostMem : List Host.Cell) (hostPoison : List Nat) (regs : Table Word) (staged : Table Word) (lan : Table Lantern) (hoops : Table Hoop) (fab : Fabric) (rng : RangeUnit) (queues : Table Queue) (ctxs : Table Context) (fences : Table Fence) (waits : List Wait) (objs : Table Obj) (allocQ : List AllocReq) (movers : Table MoverJob) (moverQ : List (Nat × MoverJob)) (colls : Table CollJob) (slots : Table Slot) (scrubs : Table (List Nat)) (floss : Floss) (power : PowerUnit) (snuffer : Snuffer) (keeper : Keeper) (tele : Telemetry) (darner : Darner) (server : Server) (ports : List Port) (vfs : Table Vf) (answer : Answer) : Prop :=
  Keep m a (State.mk pending 0 clk mem hostMem hostPoison regs staged lan hoops fab rng queues ctxs fences waits objs allocQ movers moverQ colls slots scrubs floss power snuffer keeper tele darner server ports vfs answer)

theorem keep_mk {pending : List Instr} {free : Nat} {clk : Clocks} {mem : Mem} {hostMem : List Host.Cell} {hostPoison : List Nat} {regs : Table Word} {staged : Table Word} {lan : Table Lantern} {hoops : Table Hoop} {fab : Fabric} {rng : RangeUnit} {queues : Table Queue} {ctxs : Table Context} {fences : Table Fence} {waits : List Wait} {objs : Table Obj} {allocQ : List AllocReq} {movers : Table MoverJob} {moverQ : List (Nat × MoverJob)} {colls : Table CollJob} {slots : Table Slot} {scrubs : Table (List Nat)} {floss : Floss} {power : PowerUnit} {snuffer : Snuffer} {keeper : Keeper} {tele : Telemetry} {darner : Darner} {server : Server} {ports : List Port} {vfs : Table Vf} {answer : Answer} :
    Keep m a (State.mk pending free clk mem hostMem hostPoison regs staged lan hoops fab rng queues ctxs fences waits objs allocQ movers moverQ colls slots scrubs floss power snuffer keeper tele darner server ports vfs answer) ↔
    KeepL m a pending clk mem hostMem hostPoison regs staged lan hoops fab rng queues ctxs fences waits objs allocQ movers moverQ colls slots scrubs floss power snuffer keeper tele darner server ports vfs answer :=
  ⟨fun h => ⟨⟨h.canon.mem, h.canon.regs⟩, h.pend, h.part, h.cells⟩, fun h => ⟨⟨h.canon.mem, h.canon.regs⟩, h.pend, h.part, h.cells⟩⟩
theorem keepP_iff {x : α} : KeepP m a (x, s) ↔ Keep m a s := Iff.rfl
theorem keepF_iff {x : α} : KeepF m a (s, x) ↔ Keep m a s := Iff.rfl
theorem keepPO_iff {x : α} {o : Out β} : KeepPO m a (x, o) ↔ KeepO m a o := Iff.rfl

/-- A state that differs from another only where it may. -/
theorem keep_upd (hpend : t.pending = s.pending) (h : Keep m a s)
    (c_clk : StatePart.clocks ∈ m.parts ∨ t.clk = s.clk)
    (c_wick : StatePart.wick ∈ m.parts ∨ t.clk.wick = s.clk.wick)
    (c_mem : StatePart.memory ∈ m.parts ∨ t.mem = s.mem)
    (c_bytes : (StatePart.bytes ∈ m.parts ∧ canonical memDefault t.mem.cells = true) ∨ t.mem.cells = s.mem.cells)
    (c_hostMem : StatePart.hostBytes ∈ m.parts ∨ t.hostMem = s.hostMem)
    (c_hostPoison : StatePart.hostPoison ∈ m.parts ∨ t.hostPoison = s.hostPoison)
    (c_regs : (canonical cellDefault t.regs = true ∧ ∀ k, m.entry (k / 2 ^ 24) ∨ cget cellDefault t.regs k = cget cellDefault s.regs k) ∨ t.regs = s.regs)
    (c_staged : StatePart.staged ∈ m.parts ∨ t.staged = s.staged)
    (c_lan : StatePart.lanterns ∈ m.parts ∨ t.lan = s.lan)
    (c_hoops : StatePart.hoops ∈ m.parts ∨ t.hoops = s.hoops)
    (c_fab : StatePart.fabric ∈ m.parts ∨ t.fab = s.fab)
    (c_rng : StatePart.ranges ∈ m.parts ∨ t.rng = s.rng)
    (c_queues : StatePart.queues ∈ m.parts ∨ t.queues = s.queues)
    (c_ctxs : StatePart.contexts ∈ m.parts ∨ t.ctxs = s.ctxs)
    (c_fences : StatePart.fences ∈ m.parts ∨ t.fences = s.fences)
    (c_waits : StatePart.waits ∈ m.parts ∨ t.waits = s.waits)
    (c_objs : StatePart.objects ∈ m.parts ∨ t.objs = s.objs)
    (c_allocQ : StatePart.allocs ∈ m.parts ∨ t.allocQ = s.allocQ)
    (c_movers : StatePart.movers ∈ m.parts ∨ t.movers = s.movers)
    (c_moverQ : StatePart.moverQueue ∈ m.parts ∨ t.moverQ = s.moverQ)
    (c_colls : StatePart.collectives ∈ m.parts ∨ t.colls = s.colls)
    (c_slots : StatePart.slots ∈ m.parts ∨ t.slots = s.slots)
    (c_scrubs : StatePart.scrubs ∈ m.parts ∨ t.scrubs = s.scrubs)
    (c_floss : StatePart.floss ∈ m.parts ∨ t.floss = s.floss)
    (c_power : StatePart.power ∈ m.parts ∨ t.power = s.power)
    (c_snuffer : StatePart.snuffer ∈ m.parts ∨ t.snuffer = s.snuffer)
    (c_safe : StatePart.safeExit ∈ m.parts ∨ (s.snuffer.safe = true → t.snuffer.safe = true))
    (c_keeper : StatePart.keeper ∈ m.parts ∨ t.keeper = s.keeper)
    (c_lc : StatePart.lifeCycle ∈ m.parts ∨ t.keeper.lc = s.keeper.lc)
    (c_tele : StatePart.telemetry ∈ m.parts ∨ t.tele = s.tele)
    (c_darner : StatePart.darner ∈ m.parts ∨ t.darner = s.darner)
    (c_server : StatePart.server ∈ m.parts ∨ t.server = s.server)
    (c_ports : StatePart.ports ∈ m.parts ∨ t.ports = s.ports)
    (c_vfs : StatePart.vfs ∈ m.parts ∨ t.vfs = s.vfs)
    (c_answer : StatePart.answer ∈ m.parts ∨ t.answer = s.answer) : Keep m a t := by
  refine ⟨⟨c_bytes.elim (fun x => x.2) (fun x => ?_), c_regs.elim (fun x => x.1) (fun x => ?_)⟩, hpend.trans h.pend, fun p => ?_, fun k => ?_⟩
  · exact (congrArg (canonical memDefault) x).trans h.canon.mem
  · exact (congrArg (canonical cellDefault) x).trans h.canon.regs
  · cases p with
    | clocks => exact c_clk.elim .inl (fun x => (h.part .clocks).imp_right (fun y => x.trans y))
      | wick => exact c_wick.elim .inl (fun x => (h.part .wick).imp_right (fun y => x.trans y))
      | memory => exact c_mem.elim .inl (fun x => (h.part .memory).imp_right (fun y => x.trans y))
      | bytes => exact (h.part .bytes).imp_right id |> fun hb => c_bytes.elim (fun x => .inl x.1) (fun x => hb.imp_right (fun y => x.trans y))
      | hostBytes => exact c_hostMem.elim .inl (fun x => (h.part .hostBytes).imp_right (fun y => x.trans y))
      | hostPoison => exact c_hostPoison.elim .inl (fun x => (h.part .hostPoison).imp_right (fun y => x.trans y))
      | staged => exact c_staged.elim .inl (fun x => (h.part .staged).imp_right (fun y => x.trans y))
      | lanterns => exact c_lan.elim .inl (fun x => (h.part .lanterns).imp_right (fun y => x.trans y))
      | hoops => exact c_hoops.elim .inl (fun x => (h.part .hoops).imp_right (fun y => x.trans y))
      | fabric => exact c_fab.elim .inl (fun x => (h.part .fabric).imp_right (fun y => x.trans y))
      | ranges => exact c_rng.elim .inl (fun x => (h.part .ranges).imp_right (fun y => x.trans y))
      | queues => exact c_queues.elim .inl (fun x => (h.part .queues).imp_right (fun y => x.trans y))
      | contexts => exact c_ctxs.elim .inl (fun x => (h.part .contexts).imp_right (fun y => x.trans y))
      | fences => exact c_fences.elim .inl (fun x => (h.part .fences).imp_right (fun y => x.trans y))
      | waits => exact c_waits.elim .inl (fun x => (h.part .waits).imp_right (fun y => x.trans y))
      | objects => exact c_objs.elim .inl (fun x => (h.part .objects).imp_right (fun y => x.trans y))
      | allocs => exact c_allocQ.elim .inl (fun x => (h.part .allocs).imp_right (fun y => x.trans y))
      | movers => exact c_movers.elim .inl (fun x => (h.part .movers).imp_right (fun y => x.trans y))
      | moverQueue => exact c_moverQ.elim .inl (fun x => (h.part .moverQueue).imp_right (fun y => x.trans y))
      | collectives => exact c_colls.elim .inl (fun x => (h.part .collectives).imp_right (fun y => x.trans y))
      | slots => exact c_slots.elim .inl (fun x => (h.part .slots).imp_right (fun y => x.trans y))
      | scrubs => exact c_scrubs.elim .inl (fun x => (h.part .scrubs).imp_right (fun y => x.trans y))
      | floss => exact c_floss.elim .inl (fun x => (h.part .floss).imp_right (fun y => x.trans y))
      | power => exact c_power.elim .inl (fun x => (h.part .power).imp_right (fun y => x.trans y))
      | snuffer => exact c_snuffer.elim .inl (fun x => (h.part .snuffer).imp_right (fun y => x.trans y))
      | safeExit => exact c_safe.elim .inl (fun x => (h.part .safeExit).imp_right (fun y z => x (y z)))
      | keeper => exact c_keeper.elim .inl (fun x => (h.part .keeper).imp_right (fun y => x.trans y))
      | lifeCycle => exact c_lc.elim .inl (fun x => (h.part .lifeCycle).imp_right (fun y => x.trans y))
      | telemetry => exact c_tele.elim .inl (fun x => (h.part .telemetry).imp_right (fun y => x.trans y))
      | darner => exact c_darner.elim .inl (fun x => (h.part .darner).imp_right (fun y => x.trans y))
      | server => exact c_server.elim .inl (fun x => (h.part .server).imp_right (fun y => x.trans y))
      | ports => exact c_ports.elim .inl (fun x => (h.part .ports).imp_right (fun y => x.trans y))
      | vfs => exact c_vfs.elim .inl (fun x => (h.part .vfs).imp_right (fun y => x.trans y))
      | answer => exact c_answer.elim .inl (fun x => (h.part .answer).imp_right (fun y => x.trans y))
  · exact c_regs.elim (fun x => (x.2 k).elim .inl (fun z => (h.cells k).imp_right (fun y => z.trans y)))
      (fun x => (h.cells k).imp_right (fun y => (congrArg (fun r => cget cellDefault r k) x).trans y))

/-- A state that differs from another only where it may. -/
theorem keepL_of {clk : Clocks} {mem : Mem} {hostMem : List Host.Cell} {hostPoison : List Nat} {regs : Table Word} {staged : Table Word} {lan : Table Lantern} {hoops : Table Hoop} {fab : Fabric} {rng : RangeUnit} {queues : Table Queue} {ctxs : Table Context} {fences : Table Fence} {waits : List Wait} {objs : Table Obj} {allocQ : List AllocReq} {movers : Table MoverJob} {moverQ : List (Nat × MoverJob)} {colls : Table CollJob} {slots : Table Slot} {scrubs : Table (List Nat)} {floss : Floss} {power : PowerUnit} {snuffer : Snuffer} {keeper : Keeper} {tele : Telemetry} {darner : Darner} {server : Server} {ports : List Port} {vfs : Table Vf} {answer : Answer} (h : Keep m a s)
    (c_clk : StatePart.clocks ∈ m.parts ∨ clk = s.clk)
    (c_wick : StatePart.wick ∈ m.parts ∨ clk.wick = s.clk.wick)
    (c_mem : StatePart.memory ∈ m.parts ∨ mem = s.mem)
    (c_bytes : (StatePart.bytes ∈ m.parts ∧ canonical memDefault mem.cells = true) ∨ mem.cells = s.mem.cells)
    (c_hostMem : StatePart.hostBytes ∈ m.parts ∨ hostMem = s.hostMem)
    (c_hostPoison : StatePart.hostPoison ∈ m.parts ∨ hostPoison = s.hostPoison)
    (c_regs : (canonical cellDefault regs = true ∧ ∀ k, m.entry (k / 2 ^ 24) ∨ cget cellDefault regs k = cget cellDefault s.regs k) ∨ regs = s.regs)
    (c_staged : StatePart.staged ∈ m.parts ∨ staged = s.staged)
    (c_lan : StatePart.lanterns ∈ m.parts ∨ lan = s.lan)
    (c_hoops : StatePart.hoops ∈ m.parts ∨ hoops = s.hoops)
    (c_fab : StatePart.fabric ∈ m.parts ∨ fab = s.fab)
    (c_rng : StatePart.ranges ∈ m.parts ∨ rng = s.rng)
    (c_queues : StatePart.queues ∈ m.parts ∨ queues = s.queues)
    (c_ctxs : StatePart.contexts ∈ m.parts ∨ ctxs = s.ctxs)
    (c_fences : StatePart.fences ∈ m.parts ∨ fences = s.fences)
    (c_waits : StatePart.waits ∈ m.parts ∨ waits = s.waits)
    (c_objs : StatePart.objects ∈ m.parts ∨ objs = s.objs)
    (c_allocQ : StatePart.allocs ∈ m.parts ∨ allocQ = s.allocQ)
    (c_movers : StatePart.movers ∈ m.parts ∨ movers = s.movers)
    (c_moverQ : StatePart.moverQueue ∈ m.parts ∨ moverQ = s.moverQ)
    (c_colls : StatePart.collectives ∈ m.parts ∨ colls = s.colls)
    (c_slots : StatePart.slots ∈ m.parts ∨ slots = s.slots)
    (c_scrubs : StatePart.scrubs ∈ m.parts ∨ scrubs = s.scrubs)
    (c_floss : StatePart.floss ∈ m.parts ∨ floss = s.floss)
    (c_power : StatePart.power ∈ m.parts ∨ power = s.power)
    (c_snuffer : StatePart.snuffer ∈ m.parts ∨ snuffer = s.snuffer)
    (c_safe : StatePart.safeExit ∈ m.parts ∨ (s.snuffer.safe = true → snuffer.safe = true))
    (c_keeper : StatePart.keeper ∈ m.parts ∨ keeper = s.keeper)
    (c_lc : StatePart.lifeCycle ∈ m.parts ∨ keeper.lc = s.keeper.lc)
    (c_tele : StatePart.telemetry ∈ m.parts ∨ tele = s.tele)
    (c_darner : StatePart.darner ∈ m.parts ∨ darner = s.darner)
    (c_server : StatePart.server ∈ m.parts ∨ server = s.server)
    (c_ports : StatePart.ports ∈ m.parts ∨ ports = s.ports)
    (c_vfs : StatePart.vfs ∈ m.parts ∨ vfs = s.vfs)
    (c_answer : StatePart.answer ∈ m.parts ∨ answer = s.answer) :
    KeepL m a s.pending clk mem hostMem hostPoison regs staged lan hoops fab rng queues ctxs fences waits objs allocQ movers moverQ colls slots scrubs floss power snuffer keeper tele darner server ports vfs answer :=
  keep_upd (s := s) rfl h c_clk c_wick c_mem c_bytes c_hostMem c_hostPoison c_regs c_staged c_lan c_hoops c_fab c_rng c_queues c_ctxs c_fences c_waits c_objs c_allocQ c_movers c_moverQ c_colls c_slots c_scrubs c_floss c_power c_snuffer c_safe c_keeper c_lc c_tele c_darner c_server c_ports c_vfs c_answer

theorem cellKey_entry (e row w : Nat) : cellKey e row w / 2 ^ 24 = e := by unfold cellKey; omega

theorem cells_cput {s : State} {e row w : Nat} {v : Word} (he : m.entry e) (k : Nat) :
    m.entry (k / 2 ^ 24) ∨ cget cellDefault (cput cellDefault s.regs (cellKey e row w) v) k = cget cellDefault s.regs k := by
  by_cases hk : k = cellKey e row w
  · rw [hk, cellKey_entry]; exact .inl he
  · exact .inr (cget_cput_other _ _ _ _ hk)

/-- A cell of an entry that may change is written. -/
theorem keep_setCell {e row w : Nat} {v : Word} (he : m.entry e) (h : Keep m a s) : Keep m a (setCell s e row w v) := by
  unfold setCell
  exact keep_mk.2 (keepL_of h (.inr rfl) (.inr rfl) (.inr rfl) (.inr rfl) (.inr rfl) (.inr rfl) (.inl ⟨canonical_cput _ _ h.canon.regs, cells_cput he⟩) (.inr rfl) (.inr rfl) (.inr rfl) (.inr rfl) (.inr rfl) (.inr rfl) (.inr rfl) (.inr rfl) (.inr rfl) (.inr rfl) (.inr rfl) (.inr rfl) (.inr rfl) (.inr rfl) (.inr rfl) (.inr rfl) (.inr rfl) (.inr rfl) (.inr rfl) (.inr id) (.inr rfl) (.inr rfl) (.inr rfl) (.inr rfl) (.inr rfl) (.inr rfl) (.inr rfl) (.inr rfl))

/-- Cells of some entries are left out. -/
theorem cells_filter {s : State} {f : Nat × Word → Bool} (hf : ∀ p, m.entry (p.1 / 2 ^ 24) ∨ f p = true) (k : Nat) :
    m.entry (k / 2 ^ 24) ∨ cget cellDefault (s.regs.filter f) k = cget cellDefault s.regs k := by
  by_cases hk : m.entry (k / 2 ^ 24)
  · exact .inl hk
  · exact .inr (cget_filter f k (fun v => (hf (k, v)).resolve_left hk))
/-- Where any entry may change, any cells may stand. -/
theorem cells_any {s : State} {regs : Table Word} (ha : m.any = true) (k : Nat) :
    m.entry (k / 2 ^ 24) ∨ cget cellDefault regs k = cget cellDefault s.regs k := .inl (.inl ha)

theorem keep_refl (h : Canon s) : Keep m s s :=
  ⟨h, rfl, fun p => .inr (by cases p <;> first | rfl | exact id), fun _ => .inr rfl⟩

/-! ### What may change, from what may change -/

theorem partsSub {l l' M : List StatePart} (h : ∀ p ∈ l, p ∈ l') (hw : ∀ p ∈ l', p ∈ M) : ∀ p ∈ l, p ∈ M := fun p hp => hw p (h p hp)
theorem entriesSub {l l' : List Nat} (h : ∀ e ∈ l, e ∈ l') (he : ∀ e ∈ l', m.entry e) : ∀ e ∈ l, m.entry e := fun e hp => he e (h e hp)
theorem entriesAny {l : List Nat} (ha : m.any = true) : ∀ e ∈ l, m.entry e := fun _ _ => .inl ha
theorem entryAny {e : Nat} (ha : m.any = true) : m.entry e := .inl ha
theorem entriesOne {e : Nat} (h : m.entry e) : ∀ x ∈ [e], m.entry x := by simpa using h

/-- Outside safe state nothing is asked of what becomes of it. -/
theorem keep_of_unsafe (h : Keep m a s) (hs : s.snuffer.safe = false) (ht : Keep ⟨.safeExit :: m.parts, m.entries, m.any⟩ a t) :
    Keep m a t := by
  refine ⟨ht.canon, ht.pend, fun p => ?_, ht.cells⟩
  rcases ht.part p with x | x
  · rcases List.mem_cons.1 x with rfl | x
    · exact (h.part .safeExit).imp_right (fun y z => absurd (hs.symm.trans (y z)) Bool.false_ne_true)
    · exact .inl x
  · exact .inr x
/-- Asking for less. -/
theorem keep_unsafe (h : Keep m a s) : Keep ⟨.safeExit :: m.parts, m.entries, m.any⟩ a s :=
  ⟨h.canon, h.pend, fun p => (h.part p).imp_left (List.mem_cons_of_mem _), h.cells⟩
theorem partsCons {l : List StatePart} (hw : ∀ p ∈ l, p ∈ m.parts) : ∀ p ∈ StatePart.safeExit :: l, p ∈ StatePart.safeExit :: m.parts := by
  intro p hp
  rcases List.mem_cons.1 hp with rfl | hp
  · exact List.mem_cons_self
  · exact List.mem_cons_of_mem _ (hw p hp)

end Sys2Proof.Machine
end

