-- ==== Sys2Proof/Laws/KeepOps.lean ====
section
/-! SUPPORT. What each operation of Machine/Ops.lean keeps (`Keep`). -/

set_option linter.all false
set_option simprocs false

namespace Sys2Proof.Machine

open Sys2Proof.Safety

variable {m : May} {a : State}

theorem setCell_keep {s : State} {e row w : Nat} {v : Word} (h_s : Keep m a s) (hp_e : m.entry e) : Keep m a (setCell s e row w v) := keep_setCell hp_e h_s

theorem setReg_keep {s : State} {e row v : Nat} (h_s : Keep m a s) (hp_e : m.entry e) : Keep m a (setReg s e row v) := by
  unfold setReg
  repeat' with_reducible first
    | assumption
    | exact entriesOne hp_e
    | (intro _)
    | (fail_if_no_progress extract_lets +onlyGivenNames z; first | (have hz : Keep m a z := ?_; (on_goal 2 => subst z); clear_value z) | (have hz : KeepP m a z := ?_; (on_goal 2 => subst z); clear_value z) | (have hz : KeepO m a z := ?_; (on_goal 2 => subst z); clear_value z) | (have hz : KeepF m a z := ?_; (on_goal 2 => subst z); clear_value z) | (have hz : KeepPO m a z := ?_; (on_goal 2 => subst z); clear_value z) | (first | have _ : Mem := z | have _ : Clocks := z | have _ : Snuffer := z | have _ : Keeper := z) | clear_value z)
    | apply keep_ite
    | apply setCell_keep
    | fail

theorem setCells_keep {s : State} {e row w : Nat} {ws : List Word} (h_s : Keep m a s) (hp_e : m.entry e) : Keep m a (setCells s e row w ws) := by
  induction ws generalizing s w with
  | nil => exact h_s
  | cons v rest ih => exact ih (setCell_keep h_s hp_e)

theorem setRegFld_keep {s : State} {e row hi lo v : Nat} (h_s : Keep m a s) (hp_e : m.entry e) : Keep m a (setRegFld s e row hi lo v) := by
  unfold setRegFld
  repeat' with_reducible first
    | assumption
    | exact entriesOne hp_e
    | (intro _)
    | (fail_if_no_progress extract_lets +onlyGivenNames z; first | (have hz : Keep m a z := ?_; (on_goal 2 => subst z); clear_value z) | (have hz : KeepP m a z := ?_; (on_goal 2 => subst z); clear_value z) | (have hz : KeepO m a z := ?_; (on_goal 2 => subst z); clear_value z) | (have hz : KeepF m a z := ?_; (on_goal 2 => subst z); clear_value z) | (have hz : KeepPO m a z := ?_; (on_goal 2 => subst z); clear_value z) | (first | have _ : Mem := z | have _ : Clocks := z | have _ : Snuffer := z | have _ : Keeper := z) | clear_value z)
    | apply keep_ite
    | apply setCell_keep
    | fail

/-- Only the cells of the entries named change. -/
theorem takeStaged_keep {s : State} {es : List Nat} (h_s : Keep m a s) (hw : ∀ p ∈ ([.staged] : List StatePart), p ∈ m.parts)
    (he : ∀ e ∈ es, m.entry e) : Keep m a (takeStaged s es) := by
  unfold takeStaged
  extract_lets mine regs
  refine keep_mk.2 ?_
  with_reducible apply keepL_of; with_reducible any_goals first | exact .inr rfl | exact .inl (hw _ (by decide)) | exact .inr (fun x => x) | fail
  · exact h_s
  · refine .inl ⟨canonical_foldl_cput (k := fun p : Nat × Word => p.1) (v := fun p => p.2) h_s.canon.regs, fun k => ?_⟩
    by_cases hk : k / 2 ^ 24 ∈ es
    · exact .inl (he _ hk)
    · refine .inr (cget_foldl_cput_other (fun p hp e => hk ?_) _)
      subst e
      simpa [mine] using (List.mem_filter.1 hp).2

theorem addCell_keep {s : State} {e row w n : Nat} (h_s : Keep m a s) (hp_e : m.entry e) : Keep m a (addCell s e row w n) := by
  unfold addCell
  repeat' with_reducible first
    | assumption
    | exact entriesOne hp_e
    | (intro _)
    | (fail_if_no_progress extract_lets +onlyGivenNames z; first | (have hz : Keep m a z := ?_; (on_goal 2 => subst z); clear_value z) | (have hz : KeepP m a z := ?_; (on_goal 2 => subst z); clear_value z) | (have hz : KeepO m a z := ?_; (on_goal 2 => subst z); clear_value z) | (have hz : KeepF m a z := ?_; (on_goal 2 => subst z); clear_value z) | (have hz : KeepPO m a z := ?_; (on_goal 2 => subst z); clear_value z) | (first | have _ : Mem := z | have _ : Clocks := z | have _ : Snuffer := z | have _ : Keeper := z) | clear_value z)
    | apply keep_ite
    | apply setCell_keep
    | fail

theorem bump_keep {s : State} {e row : Nat} (h_s : Keep m a s) (hp_e : m.entry e) : Keep m a (bump s e row) := by
  unfold bump
  repeat' with_reducible first
    | assumption
    | exact entriesOne hp_e
    | (intro _)
    | (fail_if_no_progress extract_lets +onlyGivenNames z; first | (have hz : Keep m a z := ?_; (on_goal 2 => subst z); clear_value z) | (have hz : KeepP m a z := ?_; (on_goal 2 => subst z); clear_value z) | (have hz : KeepO m a z := ?_; (on_goal 2 => subst z); clear_value z) | (have hz : KeepF m a z := ?_; (on_goal 2 => subst z); clear_value z) | (have hz : KeepPO m a z := ?_; (on_goal 2 => subst z); clear_value z) | (first | have _ : Mem := z | have _ : Clocks := z | have _ : Snuffer := z | have _ : Keeper := z) | clear_value z)
    | apply keep_ite
    | apply addCell_keep
    | fail

theorem countQ_keep {s : State} {q i n : Nat} (h_s : Keep m a s) (he : ∀ e ∈ ([0x600001] : List Nat), m.entry e) : Keep m a (countQ s q i n) := by
  unfold countQ
  repeat' with_reducible first
    | assumption
    | (refine entriesSub ?_ he; decide)
    | exact he _ (by decide)
    | (intro _)
    | (fail_if_no_progress extract_lets +onlyGivenNames z; first | (have hz : Keep m a z := ?_; (on_goal 2 => subst z); clear_value z) | (have hz : KeepP m a z := ?_; (on_goal 2 => subst z); clear_value z) | (have hz : KeepO m a z := ?_; (on_goal 2 => subst z); clear_value z) | (have hz : KeepF m a z := ?_; (on_goal 2 => subst z); clear_value z) | (have hz : KeepPO m a z := ?_; (on_goal 2 => subst z); clear_value z) | (first | have _ : Mem := z | have _ : Clocks := z | have _ : Snuffer := z | have _ : Keeper := z) | clear_value z)
    | apply keep_ite
    | apply addCell_keep
    | fail

theorem countB_keep {s : State} {b i n : Nat} (h_s : Keep m a s) (he : ∀ e ∈ ([0x600001] : List Nat), m.entry e) : Keep m a (countB s b i n) := by
  unfold countB
  repeat' with_reducible first
    | assumption
    | (refine entriesSub ?_ he; decide)
    | exact he _ (by decide)
    | (intro _)
    | (fail_if_no_progress extract_lets +onlyGivenNames z; first | (have hz : Keep m a z := ?_; (on_goal 2 => subst z); clear_value z) | (have hz : KeepP m a z := ?_; (on_goal 2 => subst z); clear_value z) | (have hz : KeepO m a z := ?_; (on_goal 2 => subst z); clear_value z) | (have hz : KeepF m a z := ?_; (on_goal 2 => subst z); clear_value z) | (have hz : KeepPO m a z := ?_; (on_goal 2 => subst z); clear_value z) | (first | have _ : Mem := z | have _ : Clocks := z | have _ : Snuffer := z | have _ : Keeper := z) | clear_value z)
    | apply keep_ite
    | apply addCell_keep
    | fail

theorem countE_keep {s : State} {e i n : Nat} (h_s : Keep m a s) (he : ∀ e ∈ ([0x600001] : List Nat), m.entry e) : Keep m a (countE s e i n) := by
  unfold countE
  repeat' with_reducible first
    | assumption
    | (refine entriesSub ?_ he; decide)
    | exact he _ (by decide)
    | (intro _)
    | (fail_if_no_progress extract_lets +onlyGivenNames z; first | (have hz : Keep m a z := ?_; (on_goal 2 => subst z); clear_value z) | (have hz : KeepP m a z := ?_; (on_goal 2 => subst z); clear_value z) | (have hz : KeepO m a z := ?_; (on_goal 2 => subst z); clear_value z) | (have hz : KeepF m a z := ?_; (on_goal 2 => subst z); clear_value z) | (have hz : KeepPO m a z := ?_; (on_goal 2 => subst z); clear_value z) | (first | have _ : Mem := z | have _ : Clocks := z | have _ : Snuffer := z | have _ : Keeper := z) | clear_value z)
    | apply keep_ite
    | apply addCell_keep
    | fail

theorem countP_keep {s : State} {p i n : Nat} (h_s : Keep m a s) (he : ∀ e ∈ ([0x600001] : List Nat), m.entry e) : Keep m a (countP s p i n) := by
  unfold countP
  repeat' with_reducible first
    | assumption
    | (refine entriesSub ?_ he; decide)
    | exact he _ (by decide)
    | (intro _)
    | (fail_if_no_progress extract_lets +onlyGivenNames z; first | (have hz : Keep m a z := ?_; (on_goal 2 => subst z); clear_value z) | (have hz : KeepP m a z := ?_; (on_goal 2 => subst z); clear_value z) | (have hz : KeepO m a z := ?_; (on_goal 2 => subst z); clear_value z) | (have hz : KeepF m a z := ?_; (on_goal 2 => subst z); clear_value z) | (have hz : KeepPO m a z := ?_; (on_goal 2 => subst z); clear_value z) | (first | have _ : Mem := z | have _ : Clocks := z | have _ : Snuffer := z | have _ : Keeper := z) | clear_value z)
    | apply keep_ite
    | apply addCell_keep
    | fail

theorem countHub_keep {s : State} {i n : Nat} (h_s : Keep m a s) (he : ∀ e ∈ ([0x600001] : List Nat), m.entry e) : Keep m a (countHub s i n) := by
  unfold countHub
  repeat' with_reducible first
    | assumption
    | (refine entriesSub ?_ he; decide)
    | exact he _ (by decide)
    | (intro _)
    | (fail_if_no_progress extract_lets +onlyGivenNames z; first | (have hz : Keep m a z := ?_; (on_goal 2 => subst z); clear_value z) | (have hz : KeepP m a z := ?_; (on_goal 2 => subst z); clear_value z) | (have hz : KeepO m a z := ?_; (on_goal 2 => subst z); clear_value z) | (have hz : KeepF m a z := ?_; (on_goal 2 => subst z); clear_value z) | (have hz : KeepPO m a z := ?_; (on_goal 2 => subst z); clear_value z) | (first | have _ : Mem := z | have _ : Clocks := z | have _ : Snuffer := z | have _ : Keeper := z) | clear_value z)
    | apply keep_ite
    | apply addCell_keep
    | fail

theorem selCount_keep {s : State} {q : Option Nat} {ev n : Nat} {hoop cls ctx : Option Nat} (h_s : Keep m a s) (he : ∀ e ∈ ([0x600003] : List Nat), m.entry e) : Keep m a (selCount s q ev n hoop cls ctx) := by
  unfold selCount
  repeat' with_reducible first
    | assumption
    | (refine entriesSub ?_ he; decide)
    | exact he _ (by decide)
    | (intro _)
    | (simp -zeta -zetaDelta only [keep_mk]; apply keepL_of; any_goals first | exact .inr rfl | exact .inl (hw _ (by decide)) | exact .inr id | exact .inr (fun _ => rfl))
    | (fail_if_no_progress extract_lets +onlyGivenNames z; first | (have hz : Keep m a z := ?_; (on_goal 2 => subst z); clear_value z) | (have hz : KeepP m a z := ?_; (on_goal 2 => subst z); clear_value z) | (have hz : KeepO m a z := ?_; (on_goal 2 => subst z); clear_value z) | (have hz : KeepF m a z := ?_; (on_goal 2 => subst z); clear_value z) | (have hz : KeepPO m a z := ?_; (on_goal 2 => subst z); clear_value z) | (first | have _ : Mem := z | have _ : Clocks := z | have _ : Snuffer := z | have _ : Keeper := z) | clear_value z)
    | apply keep_ite
    | apply addCell_keep
    | apply he
    | (refine keep_foldl ?_ (fun _ _ _ => ?_))
    | fail

theorem takeFree_keep {s : State} (h_s : Keep m a s) : KeepP m a (takeFree s) := by
  unfold takeFree
  repeat' with_reducible first
    | assumption
    | (intro _)
    | (simp -zeta -zetaDelta only [keep_mk]; apply keepL_of; any_goals first | exact .inr rfl | exact .inl (hw _ (by decide)) | exact .inr id | exact .inr (fun _ => rfl))
    | (fail_if_no_progress extract_lets +onlyGivenNames z; first | (have hz : Keep m a z := ?_; (on_goal 2 => subst z); clear_value z) | (have hz : KeepP m a z := ?_; (on_goal 2 => subst z); clear_value z) | (have hz : KeepO m a z := ?_; (on_goal 2 => subst z); clear_value z) | (have hz : KeepF m a z := ?_; (on_goal 2 => subst z); clear_value z) | (have hz : KeepPO m a z := ?_; (on_goal 2 => subst z); clear_value z) | (first | have _ : Mem := z | have _ : Clocks := z | have _ : Snuffer := z | have _ : Keeper := z) | clear_value z)
    | apply keep_ite
    | simp -zeta -zetaDelta only [keepP_iff]
    | fail

theorem freeBytes_keep {y0 : Nat} {y1 : State} (h_y1 : Keep m a y1) : KeepP m a (freeBytes y0 y1) := by
  induction y0 generalizing y1 with
  | zero => exact h_y1
  | succ n ih => exact ih (takeFree_keep h_y1)

theorem setLantern_keep {s : State} {l : Nat} {x : Lantern} (h_s : Keep m a s) (hw : ∀ p ∈ ([.lanterns] : List StatePart), p ∈ m.parts) : Keep m a (setLantern s l x) := by
  unfold setLantern
  repeat' with_reducible first
    | assumption
    | (refine partsSub ?_ hw; decide)
    | (intro _)
    | (simp -zeta -zetaDelta only [keep_mk]; apply keepL_of; any_goals first | exact .inr rfl | exact .inl (hw _ (by decide)) | exact .inr id | exact .inr (fun _ => rfl))
    | fail

theorem modLantern_keep {s : State} {l : Nat} {f : Lantern → Lantern} (h_s : Keep m a s) (hw : ∀ p ∈ ([.lanterns] : List StatePart), p ∈ m.parts) : Keep m a (modLantern s l f) := by
  unfold modLantern
  repeat' with_reducible first
    | assumption
    | (refine partsSub ?_ hw; decide)
    | (intro _)
    | (fail_if_no_progress extract_lets +onlyGivenNames z; first | (have hz : Keep m a z := ?_; (on_goal 2 => subst z); clear_value z) | (have hz : KeepP m a z := ?_; (on_goal 2 => subst z); clear_value z) | (have hz : KeepO m a z := ?_; (on_goal 2 => subst z); clear_value z) | (have hz : KeepF m a z := ?_; (on_goal 2 => subst z); clear_value z) | (have hz : KeepPO m a z := ?_; (on_goal 2 => subst z); clear_value z) | (first | have _ : Mem := z | have _ : Clocks := z | have _ : Snuffer := z | have _ : Keeper := z) | clear_value z)
    | apply keep_ite
    | apply setLantern_keep
    | fail

theorem setHoop_keep {s : State} {h : Nat} {x : Hoop} (h_s : Keep m a s) (hw : ∀ p ∈ ([.hoops] : List StatePart), p ∈ m.parts) : Keep m a (setHoop s h x) := by
  unfold setHoop
  repeat' with_reducible first
    | assumption
    | (refine partsSub ?_ hw; decide)
    | (intro _)
    | (simp -zeta -zetaDelta only [keep_mk]; apply keepL_of; any_goals first | exact .inr rfl | exact .inl (hw _ (by decide)) | exact .inr id | exact .inr (fun _ => rfl))
    | fail

theorem modHoop_keep {s : State} {h : Nat} {f : Hoop → Hoop} (h_s : Keep m a s) (hw : ∀ p ∈ ([.hoops] : List StatePart), p ∈ m.parts) : Keep m a (modHoop s h f) := by
  unfold modHoop
  repeat' with_reducible first
    | assumption
    | (refine partsSub ?_ hw; decide)
    | (intro _)
    | (fail_if_no_progress extract_lets +onlyGivenNames z; first | (have hz : Keep m a z := ?_; (on_goal 2 => subst z); clear_value z) | (have hz : KeepP m a z := ?_; (on_goal 2 => subst z); clear_value z) | (have hz : KeepO m a z := ?_; (on_goal 2 => subst z); clear_value z) | (have hz : KeepF m a z := ?_; (on_goal 2 => subst z); clear_value z) | (have hz : KeepPO m a z := ?_; (on_goal 2 => subst z); clear_value z) | (first | have _ : Mem := z | have _ : Clocks := z | have _ : Snuffer := z | have _ : Keeper := z) | clear_value z)
    | apply keep_ite
    | apply setHoop_keep
    | fail

theorem setQueue_keep {s : State} {q : Nat} {x : Queue} (h_s : Keep m a s) (hw : ∀ p ∈ ([.queues] : List StatePart), p ∈ m.parts) : Keep m a (setQueue s q x) := by
  unfold setQueue
  repeat' with_reducible first
    | assumption
    | (refine partsSub ?_ hw; decide)
    | (intro _)
    | (simp -zeta -zetaDelta only [keep_mk]; apply keepL_of; any_goals first | exact .inr rfl | exact .inl (hw _ (by decide)) | exact .inr id | exact .inr (fun _ => rfl))
    | fail

theorem modQueue_keep {s : State} {q : Nat} {f : Queue → Queue} (h_s : Keep m a s) (hw : ∀ p ∈ ([.queues] : List StatePart), p ∈ m.parts) : Keep m a (modQueue s q f) := by
  unfold modQueue
  repeat' with_reducible first
    | assumption
    | (refine partsSub ?_ hw; decide)
    | (intro _)
    | (fail_if_no_progress extract_lets +onlyGivenNames z; first | (have hz : Keep m a z := ?_; (on_goal 2 => subst z); clear_value z) | (have hz : KeepP m a z := ?_; (on_goal 2 => subst z); clear_value z) | (have hz : KeepO m a z := ?_; (on_goal 2 => subst z); clear_value z) | (have hz : KeepF m a z := ?_; (on_goal 2 => subst z); clear_value z) | (have hz : KeepPO m a z := ?_; (on_goal 2 => subst z); clear_value z) | (first | have _ : Mem := z | have _ : Clocks := z | have _ : Snuffer := z | have _ : Keeper := z) | clear_value z)
    | apply keep_ite
    | apply setQueue_keep
    | fail

theorem setContext_keep {s : State} {c : Nat} {x : Context} (h_s : Keep m a s) (hw : ∀ p ∈ ([.contexts] : List StatePart), p ∈ m.parts) : Keep m a (setContext s c x) := by
  unfold setContext
  repeat' with_reducible first
    | assumption
    | (refine partsSub ?_ hw; decide)
    | (intro _)
    | (simp -zeta -zetaDelta only [keep_mk]; apply keepL_of; any_goals first | exact .inr rfl | exact .inl (hw _ (by decide)) | exact .inr id | exact .inr (fun _ => rfl))
    | fail

theorem modContext_keep {s : State} {c : Nat} {f : Context → Context} (h_s : Keep m a s) (hw : ∀ p ∈ ([.contexts] : List StatePart), p ∈ m.parts) : Keep m a (modContext s c f) := by
  unfold modContext
  repeat' with_reducible first
    | assumption
    | (refine partsSub ?_ hw; decide)
    | (intro _)
    | (fail_if_no_progress extract_lets +onlyGivenNames z; first | (have hz : Keep m a z := ?_; (on_goal 2 => subst z); clear_value z) | (have hz : KeepP m a z := ?_; (on_goal 2 => subst z); clear_value z) | (have hz : KeepO m a z := ?_; (on_goal 2 => subst z); clear_value z) | (have hz : KeepF m a z := ?_; (on_goal 2 => subst z); clear_value z) | (have hz : KeepPO m a z := ?_; (on_goal 2 => subst z); clear_value z) | (first | have _ : Mem := z | have _ : Clocks := z | have _ : Snuffer := z | have _ : Keeper := z) | clear_value z)
    | apply keep_ite
    | apply setContext_keep
    | fail

theorem setFence_keep {s : State} {f : Nat} {x : Fence} (h_s : Keep m a s) (hw : ∀ p ∈ ([.fences] : List StatePart), p ∈ m.parts) : Keep m a (setFence s f x) := by
  unfold setFence
  repeat' with_reducible first
    | assumption
    | (refine partsSub ?_ hw; decide)
    | (intro _)
    | (simp -zeta -zetaDelta only [keep_mk]; apply keepL_of; any_goals first | exact .inr rfl | exact .inl (hw _ (by decide)) | exact .inr id | exact .inr (fun _ => rfl))
    | fail

theorem setObj_keep {s : State} {o : Nat} {x : Obj} (h_s : Keep m a s) (hw : ∀ p ∈ ([.objects] : List StatePart), p ∈ m.parts) : Keep m a (setObj s o x) := by
  unfold setObj
  repeat' with_reducible first
    | assumption
    | (refine partsSub ?_ hw; decide)
    | (intro _)
    | (simp -zeta -zetaDelta only [keep_mk]; apply keepL_of; any_goals first | exact .inr rfl | exact .inl (hw _ (by decide)) | exact .inr id | exact .inr (fun _ => rfl))
    | fail

theorem modEyelet_keep {s : State} {e : Nat} {f : Eyelet → Eyelet} (h_s : Keep m a s) (hw : ∀ p ∈ ([.fabric] : List StatePart), p ∈ m.parts) : Keep m a (modEyelet s e f) := by
  unfold modEyelet
  repeat' with_reducible first
    | assumption
    | (refine partsSub ?_ hw; decide)
    | (intro _)
    | (simp -zeta -zetaDelta only [keep_mk]; apply keepL_of; any_goals first | exact .inr rfl | exact .inl (hw _ (by decide)) | exact .inr id | exact .inr (fun _ => rfl))
    | fail

theorem modPort_keep {s : State} {p : Nat} {f : Port → Port} (h_s : Keep m a s) (hw : ∀ p ∈ ([.ports] : List StatePart), p ∈ m.parts) : Keep m a (modPort s p f) := by
  unfold modPort
  repeat' with_reducible first
    | assumption
    | (refine partsSub ?_ hw; decide)
    | (intro _)
    | (simp -zeta -zetaDelta only [keep_mk]; apply keepL_of; any_goals first | exact .inr rfl | exact .inl (hw _ (by decide)) | exact .inr id | exact .inr (fun _ => rfl))
    | fail

theorem modVf_keep {s : State} {n : Nat} {f : Vf → Vf} (h_s : Keep m a s) (hw : ∀ p ∈ ([.vfs] : List StatePart), p ∈ m.parts) : Keep m a (modVf s n f) := by
  unfold modVf
  repeat' with_reducible first
    | assumption
    | (refine partsSub ?_ hw; decide)
    | (intro _)
    | (simp -zeta -zetaDelta only [keep_mk]; apply keepL_of; any_goals first | exact .inr rfl | exact .inl (hw _ (by decide)) | exact .inr id | exact .inr (fun _ => rfl))
    | fail

theorem unlessSafe_keep {s t : State} (h_s : Keep m a s) (h_t : Keep m a t) : Keep m a (unlessSafe s t) := by
  unfold unlessSafe
  repeat' with_reducible first
    | assumption
    | (intro _)
    | (fail_if_no_progress extract_lets +onlyGivenNames z; first | (have hz : Keep m a z := ?_; (on_goal 2 => subst z); clear_value z) | (have hz : KeepP m a z := ?_; (on_goal 2 => subst z); clear_value z) | (have hz : KeepO m a z := ?_; (on_goal 2 => subst z); clear_value z) | (have hz : KeepF m a z := ?_; (on_goal 2 => subst z); clear_value z) | (have hz : KeepPO m a z := ?_; (on_goal 2 => subst z); clear_value z) | (first | have _ : Mem := z | have _ : Clocks := z | have _ : Snuffer := z | have _ : Keeper := z) | clear_value z)
    | apply keep_ite
    | fail

theorem reply_keep {s : State} {data : List Byte} {poison : Bool} {status : Nat} (h_s : Keep m a s) (hw : ∀ p ∈ ([.answer] : List StatePart), p ∈ m.parts) : Keep m a (reply s data poison status) := by
  unfold reply
  repeat' with_reducible first
    | assumption
    | (refine partsSub ?_ hw; decide)
    | (intro _)
    | (simp -zeta -zetaDelta only [keep_mk]; apply keepL_of; any_goals first | exact .inr rfl | exact .inl (hw _ (by decide)) | exact .inr id | exact .inr (fun _ => rfl))
    | fail

end Sys2Proof.Machine
end

