-- ==== Sys2Proof/Laws/KeepBeacon.lean ====
section
/-! SUPPORT. What each operation of Machine/Beacon.lean keeps (`Keep`). -/

set_option linter.all false
set_option simprocs false

namespace Sys2Proof.Machine

open Sys2Proof.Safety

variable {m : May} {a : State}

theorem startReset_keep {s : State} {r : Reset} (h_s : Keep m a s) (hw : ∀ p ∈ ([.snuffer] : List StatePart), p ∈ m.parts) (he : ∀ e ∈ ([0x510002] : List Nat), m.entry e) : Keep m a (startReset s r) := by
  unfold startReset
  repeat' with_reducible first
    | assumption
    | (refine partsSub ?_ hw; decide)
    | (refine entriesSub ?_ he; decide)
    | exact he _ (by decide)
    | (intro _)
    | (simp -zeta -zetaDelta only [keep_mk]; apply keepL_of; any_goals first | exact .inr rfl | exact .inl (hw _ (by decide)) | exact .inr (fun x => x) | exact .inr (fun _ => rfl))
    | (fail_if_no_progress extract_lets +onlyGivenNames z; first | (have hz : Keep m a z := ?_; (on_goal 2 => subst z); clear_value z) | (have hz : KeepP m a z := ?_; (on_goal 2 => subst z); clear_value z) | (have hz : KeepO m a z := ?_; (on_goal 2 => subst z); clear_value z) | (have hz : KeepF m a z := ?_; (on_goal 2 => subst z); clear_value z) | (have hz : KeepPO m a z := ?_; (on_goal 2 => subst z); clear_value z) | (first | have _ : Mem := z | have _ : Clocks := z | have _ : Snuffer := z | have _ : Keeper := z) | clear_value z)
    | apply keep_ite
    | apply setRegFld_keep
    | fail

theorem faultResets_keep {s : State} {f : FaultInfo} {trigger logAt : Nat} (h_s : Keep m a s) (hw : ∀ p ∈ ([.snuffer] : List StatePart), p ∈ m.parts) (he : ∀ e ∈ ([0x510002] : List Nat), m.entry e) : Keep m a (faultResets s f trigger logAt) := by
  unfold faultResets
  repeat' with_reducible first
    | assumption
    | (refine partsSub ?_ hw; decide)
    | (refine entriesSub ?_ he; decide)
    | exact he _ (by decide)
    | (intro _)
    | (simp -zeta -zetaDelta only [keep_mk]; apply keepL_of; any_goals first | exact .inr rfl | exact .inl (hw _ (by decide)) | exact .inr id | exact .inr (fun _ => rfl))
    | (fail_if_no_progress extract_lets +onlyGivenNames z; first | (have hz : Keep m a z := ?_; (on_goal 2 => subst z); clear_value z) | (have hz : KeepP m a z := ?_; (on_goal 2 => subst z); clear_value z) | (have hz : KeepO m a z := ?_; (on_goal 2 => subst z); clear_value z) | (have hz : KeepF m a z := ?_; (on_goal 2 => subst z); clear_value z) | (have hz : KeepPO m a z := ?_; (on_goal 2 => subst z); clear_value z) | (first | have _ : Mem := z | have _ : Clocks := z | have _ : Snuffer := z | have _ : Keeper := z) | clear_value z)
    | apply keep_ite
    | apply startReset_keep
    | fail

theorem raiseLevel_keep {s : State} {c : Nat} (h_s : Keep m a s) (he : ∀ e ∈ ([0x500006] : List Nat), m.entry e) : Keep m a (raiseLevel s c) := by
  unfold raiseLevel
  repeat' with_reducible first
    | assumption
    | (refine entriesSub ?_ he; decide)
    | exact he _ (by decide)
    | (intro _)
    | (fail_if_no_progress extract_lets +onlyGivenNames z; first | (have hz : Keep m a z := ?_; (on_goal 2 => subst z); clear_value z) | (have hz : KeepP m a z := ?_; (on_goal 2 => subst z); clear_value z) | (have hz : KeepO m a z := ?_; (on_goal 2 => subst z); clear_value z) | (have hz : KeepF m a z := ?_; (on_goal 2 => subst z); clear_value z) | (have hz : KeepPO m a z := ?_; (on_goal 2 => subst z); clear_value z) | (first | have _ : Mem := z | have _ : Clocks := z | have _ : Snuffer := z | have _ : Keeper := z) | clear_value z)
    | apply keep_ite
    | apply setRegFld_keep
    | fail

theorem logFault_keep {s : State} {f : FaultInfo} {subsequent same : Bool} {code : Nat} (h_s : Keep m a s) (he : ∀ e ∈ ([0x500007, 0x500008] : List Nat), m.entry e) : Keep m a (logFault s f subsequent same code) := by
  unfold logFault
  repeat' with_reducible first
    | assumption
    | (refine entriesSub ?_ he; decide)
    | exact he _ (by decide)
    | (intro _)
    | (fail_if_no_progress extract_lets +onlyGivenNames z; first | (have hz : Keep m a z := ?_; (on_goal 2 => subst z); clear_value z) | (have hz : KeepP m a z := ?_; (on_goal 2 => subst z); clear_value z) | (have hz : KeepO m a z := ?_; (on_goal 2 => subst z); clear_value z) | (have hz : KeepF m a z := ?_; (on_goal 2 => subst z); clear_value z) | (have hz : KeepPO m a z := ?_; (on_goal 2 => subst z); clear_value z) | (first | have _ : Mem := z | have _ : Clocks := z | have _ : Snuffer := z | have _ : Keeper := z) | clear_value z)
    | apply keep_ite
    | apply setCells_keep
    | apply bump_keep
    | fail

theorem completeLog_keep {s : State} {n action code : Nat} (h_s : Keep m a s) (he : ∀ e ∈ ([0x500007] : List Nat), m.entry e) : Keep m a (completeLog s n action code) := by
  unfold completeLog
  repeat' with_reducible first
    | assumption
    | (refine entriesSub ?_ he; decide)
    | exact he _ (by decide)
    | (intro _)
    | (fail_if_no_progress extract_lets +onlyGivenNames z; first | (have hz : Keep m a z := ?_; (on_goal 2 => subst z); clear_value z) | (have hz : KeepP m a z := ?_; (on_goal 2 => subst z); clear_value z) | (have hz : KeepO m a z := ?_; (on_goal 2 => subst z); clear_value z) | (have hz : KeepF m a z := ?_; (on_goal 2 => subst z); clear_value z) | (have hz : KeepPO m a z := ?_; (on_goal 2 => subst z); clear_value z) | (first | have _ : Mem := z | have _ : Clocks := z | have _ : Snuffer := z | have _ : Keeper := z) | clear_value z)
    | apply keep_ite
    | apply setCells_keep
    | fail

theorem completeLogs_keep {s : State} {r : Reset} (h_s : Keep m a s) (he : ∀ e ∈ ([0x500007] : List Nat), m.entry e) : Keep m a (completeLogs s r) := by
  unfold completeLogs
  repeat' with_reducible first
    | assumption
    | (refine entriesSub ?_ he; decide)
    | exact he _ (by decide)
    | (intro _)
    | (fail_if_no_progress extract_lets +onlyGivenNames z; first | (have hz : Keep m a z := ?_; (on_goal 2 => subst z); clear_value z) | (have hz : KeepP m a z := ?_; (on_goal 2 => subst z); clear_value z) | (have hz : KeepO m a z := ?_; (on_goal 2 => subst z); clear_value z) | (have hz : KeepF m a z := ?_; (on_goal 2 => subst z); clear_value z) | (have hz : KeepPO m a z := ?_; (on_goal 2 => subst z); clear_value z) | (first | have _ : Mem := z | have _ : Clocks := z | have _ : Snuffer := z | have _ : Keeper := z) | clear_value z)
    | apply keep_ite
    | apply completeLog_keep
    | (refine keep_foldl ?_ (fun _ _ _ => ?_))
    | fail

theorem safeState_keep {s : State} (h_s : Keep m a s) (hw : ∀ p ∈ ([.clocks, .fabric, .ranges, .snuffer] : List StatePart), p ∈ m.parts) (he : ∀ e ∈ ([0x510002] : List Nat), m.entry e) : Keep m a (safeState s) := by
  unfold safeState
  repeat' with_reducible first
    | assumption
    | (refine partsSub ?_ hw; decide)
    | (refine entriesSub ?_ he; decide)
    | exact he _ (by decide)
    | (intro _)
    | (simp -zeta -zetaDelta only [keep_mk]; apply keepL_of; any_goals first | exact .inr rfl | exact .inl (hw _ (by decide)) | exact .inr (fun x => x) | exact .inr (fun _ => rfl))
    | (fail_if_no_progress extract_lets +onlyGivenNames z; first | (have hz : Keep m a z := ?_; (on_goal 2 => subst z); clear_value z) | (have hz : KeepP m a z := ?_; (on_goal 2 => subst z); clear_value z) | (have hz : KeepO m a z := ?_; (on_goal 2 => subst z); clear_value z) | (have hz : KeepF m a z := ?_; (on_goal 2 => subst z); clear_value z) | (have hz : KeepPO m a z := ?_; (on_goal 2 => subst z); clear_value z) | (first | have _ : Mem := z | have _ : Clocks := z | have _ : Snuffer := z | have _ : Keeper := z) | clear_value z)
    | apply keep_ite
    | apply setRegFld_keep
    | fail

theorem latch_keep {s : State} {f : FaultInfo} (h_s : Keep m a s) (hw : ∀ p ∈ ([.clocks, .fabric, .ranges, .snuffer] : List StatePart), p ∈ m.parts) (he : ∀ e ∈ ([0x500001, 0x500002, 0x500003, 0x500004, 0x500006, 0x500007, 0x500008, 0x510002] : List Nat), m.entry e) : Keep m a (latch s f) := by
  unfold latch
  repeat' with_reducible first
    | assumption
    | (refine partsSub ?_ hw; decide)
    | (refine entriesSub ?_ he; decide)
    | exact he _ (by decide)
    | (intro _)
    | (simp -zeta -zetaDelta only [keep_mk]; apply keepL_of; any_goals first | exact .inr rfl | exact .inl (hw _ (by decide)) | exact .inr (fun x => x) | exact .inr (fun _ => rfl))
    | (fail_if_no_progress extract_lets +onlyGivenNames z; first | (have hz : Keep m a z := ?_; (on_goal 2 => subst z); clear_value z) | (have hz : KeepP m a z := ?_; (on_goal 2 => subst z); clear_value z) | (have hz : KeepO m a z := ?_; (on_goal 2 => subst z); clear_value z) | (have hz : KeepF m a z := ?_; (on_goal 2 => subst z); clear_value z) | (have hz : KeepPO m a z := ?_; (on_goal 2 => subst z); clear_value z) | (have hz : ∀ s, Keep m a s → Keep m a (z s) := ?_; (on_goal 2 => (subst z; intros; beta_reduce)); clear_value z) | (have hz : ∀ s x, Keep m a s → Keep m a (z s x) := ?_; (on_goal 2 => (subst z; intros; beta_reduce)); clear_value z) | (have hz : ∀ s x, Keep m a s → KeepO m a (z s x) := ?_; (on_goal 2 => (subst z; intros; beta_reduce)); clear_value z) | (have hz : ∀ x s, Keep m a s → Keep m a (z x s) := ?_; (on_goal 2 => (subst z; intros; beta_reduce)); clear_value z) | (have hz : ∀ s, Keep m a s → KeepO m a (z s) := ?_; (on_goal 2 => (subst z; intros; beta_reduce)); clear_value z) | (have hz : ∀ x, Keep m a (z x) := ?_; (on_goal 2 => (subst z; intros; beta_reduce)); clear_value z) | (have hz : ∀ x y s, Keep m a s → Keep m a (z x y s) := ?_; (on_goal 2 => (subst z; intros; beta_reduce)); clear_value z) | (have hz : ∀ o x, KeepO m a o → KeepOO m a (z o x) := ?_; (on_goal 2 => (subst z; intros; beta_reduce)); clear_value z) | (have hz : ∀ s, Keep m a s → KeepP m a (z s) := ?_; (on_goal 2 => (subst z; intros; beta_reduce)); clear_value z) | (have hz : ∀ x, KeepP m a (z x) := ?_; (on_goal 2 => (subst z; intros; beta_reduce)); clear_value z) | (have hz : ∀ s x y, Keep m a s → Keep m a (z s x y) := ?_; (on_goal 2 => (subst z; intros; beta_reduce)); clear_value z) | (have hz : ∀ s x, Keep m a s → KeepOO m a (z s x) := ?_; (on_goal 2 => (subst z; intros; beta_reduce)); clear_value z) | (have hz : ∀ x o, KeepO m a o → KeepOO m a (z x o) := ?_; (on_goal 2 => (subst z; intros; beta_reduce)); clear_value z) | (have hz : ∀ x y, KeepP m a (z x y) := ?_; (on_goal 2 => (subst z; intros; beta_reduce)); clear_value z) | (have hz : ∀ s x y w, Keep m a s → Keep m a (z s x y w) := ?_; (on_goal 2 => (subst z; intros; beta_reduce)); clear_value z) | (first | have _ : Mem := z | have _ : Clocks := z | have _ : Snuffer := z | have _ : Keeper := z) | clear_value z)
    | apply hz
    | apply keep_ite
    | simp -zeta -zetaDelta only [keepP_iff]
    | apply keepP_ite
    | apply setCell_keep
    | apply setReg_keep
    | apply setCells_keep
    | apply setRegFld_keep
    | apply faultResets_keep
    | apply raiseLevel_keep
    | apply logFault_keep
    | apply safeState_keep
    | fail

theorem result_keep {s : State} {code : Nat} (h_s : Keep m a s) (hw : ∀ p ∈ ([.answer] : List StatePart), p ∈ m.parts) : Keep m a (result s code) := by
  unfold result
  repeat' with_reducible first
    | assumption
    | (refine partsSub ?_ hw; decide)
    | (intro _)
    | (fail_if_no_progress extract_lets +onlyGivenNames z; first | (have hz : Keep m a z := ?_; (on_goal 2 => subst z); clear_value z) | (have hz : KeepP m a z := ?_; (on_goal 2 => subst z); clear_value z) | (have hz : KeepO m a z := ?_; (on_goal 2 => subst z); clear_value z) | (have hz : KeepF m a z := ?_; (on_goal 2 => subst z); clear_value z) | (have hz : KeepPO m a z := ?_; (on_goal 2 => subst z); clear_value z) | (first | have _ : Mem := z | have _ : Clocks := z | have _ : Snuffer := z | have _ : Keeper := z) | clear_value z)
    | apply keep_ite
    | apply reply_keep
    | fail

theorem bringUpEyes_keep {s : State} (h_s : Keep m a s) (hw : ∀ p ∈ ([.fabric] : List StatePart), p ∈ m.parts) : Keep m a (bringUpEyes s) := by
  unfold bringUpEyes
  repeat' with_reducible first
    | assumption
    | (refine partsSub ?_ hw; decide)
    | (intro _)
    | (simp -zeta -zetaDelta only [keep_mk]; apply keepL_of; any_goals first | exact .inr rfl | exact .inl (hw _ (by decide)) | exact .inr id | exact .inr (fun _ => rfl))
    | (fail_if_no_progress extract_lets +onlyGivenNames z; first | (have hz : Keep m a z := ?_; (on_goal 2 => subst z); clear_value z) | (have hz : KeepP m a z := ?_; (on_goal 2 => subst z); clear_value z) | (have hz : KeepO m a z := ?_; (on_goal 2 => subst z); clear_value z) | (have hz : KeepF m a z := ?_; (on_goal 2 => subst z); clear_value z) | (have hz : KeepPO m a z := ?_; (on_goal 2 => subst z); clear_value z) | (first | have _ : Mem := z | have _ : Clocks := z | have _ : Snuffer := z | have _ : Keeper := z) | clear_value z)
    | apply keep_ite
    | simp -zeta -zetaDelta only [keepP_iff]
    | apply keepP_ite
    | apply modEyelet_keep
    | apply hw
    | (refine keep_foldl ?_ (fun _ _ _ => ?_))
    | fail

theorem restartPlls_keep {s : State} (h_s : Keep m a s) (hw : ∀ p ∈ ([.clocks] : List StatePart), p ∈ m.parts) : Keep m a (restartPlls s) := by
  unfold restartPlls
  extract_lets held go
  refine keep_mk.2 ?_
  with_reducible apply keepL_of; with_reducible any_goals first | exact .inr rfl | exact .inl (hw _ (by decide)) | exact .inr (fun x => x) | exact .inr (fun _ => rfl) | fail
  exact h_s

theorem wakeUp_keep {s : State} (h_s : Keep m a s) (hw : ∀ p ∈ ([.clocks, .fabric, .power] : List StatePart), p ∈ m.parts) : Keep m a (wakeUp s) := by
  unfold wakeUp
  repeat' with_reducible first
    | assumption
    | (refine partsSub ?_ hw; decide)
    | (intro _)
    | (simp -zeta -zetaDelta only [keep_mk]; apply keepL_of; any_goals first | exact .inr rfl | exact .inl (hw _ (by decide)) | exact .inr (fun x => x) | exact .inr (fun _ => rfl))
    | (fail_if_no_progress extract_lets +onlyGivenNames z; first | (have hz : Keep m a z := ?_; (on_goal 2 => subst z); clear_value z) | (have hz : KeepP m a z := ?_; (on_goal 2 => subst z); clear_value z) | (have hz : KeepO m a z := ?_; (on_goal 2 => subst z); clear_value z) | (have hz : KeepF m a z := ?_; (on_goal 2 => subst z); clear_value z) | (have hz : KeepPO m a z := ?_; (on_goal 2 => subst z); clear_value z) | (first | have _ : Mem := z | have _ : Clocks := z | have _ : Snuffer := z | have _ : Keeper := z) | clear_value z)
    | apply keep_ite
    | apply bringUpEyes_keep
    | apply restartPlls_keep
    | fail

theorem gateWrite_keep {s : State} {who : Req} {e : Nat} {vfs : Bool} {f : State → State} (h_s : Keep m a s) (h_f : ∀ z0, Keep m a z0 → Keep m a (f z0)) (hw : ∀ p ∈ ([.clocks, .fabric, .power, .answer] : List StatePart), p ∈ m.parts) : Keep m a (gateWrite s who e vfs f) := by
  unfold gateWrite
  repeat' with_reducible first
    | assumption
    | (refine partsSub ?_ hw; decide)
    | (intro _)
    | (simp -zeta -zetaDelta only [keep_mk]; apply keepL_of; any_goals first | exact .inr rfl | exact .inl (hw _ (by decide)) | exact .inr (fun x => x) | exact .inr (fun _ => rfl))
    | (fail_if_no_progress extract_lets +onlyGivenNames z; first | (have hz : Keep m a z := ?_; (on_goal 2 => subst z); clear_value z) | (have hz : KeepP m a z := ?_; (on_goal 2 => subst z); clear_value z) | (have hz : KeepO m a z := ?_; (on_goal 2 => subst z); clear_value z) | (have hz : KeepF m a z := ?_; (on_goal 2 => subst z); clear_value z) | (have hz : KeepPO m a z := ?_; (on_goal 2 => subst z); clear_value z) | (first | have _ : Mem := z | have _ : Clocks := z | have _ : Snuffer := z | have _ : Keeper := z) | clear_value z)
    | apply keep_ite
    | apply result_keep
    | apply wakeUp_keep
    | apply h_f
    | fail

end Sys2Proof.Machine
end

