-- ==== Sys2Proof/Laws/KeepMemory.lean ====
section
/-! SUPPORT. What each operation of Machine/Memory.lean keeps (`Keep`). -/

set_option linter.all false
set_option simprocs false

namespace Sys2Proof.Machine

open Sys2Proof.Safety

variable {m : May} {a : State}

theorem wbs_keep {s : State} {a' : Nat} {bs : List Byte} (h_s : Keep m a s) (hw : ∀ p ∈ ([.memory, .bytes] : List StatePart), p ∈ m.parts) : Keep m a (wbs s a' bs) := by
  unfold wbs
  repeat' with_reducible first
    | assumption
    | (refine partsSub ?_ hw; decide)
    | (intro _)
    | (simp -zeta -zetaDelta only [keep_mk]; apply keepL_of; any_goals first | exact .inr rfl | exact .inl (hw _ (by decide)) | exact .inr id | exact .inr (fun _ => rfl))
    | refine Or.inl ⟨hw _ (by decide), ?_⟩
    | apply canonical_filter
    | apply canonical_putBytes
    | apply canonical_foldl_cput
    | apply canonical_nil
    | exact Canon.mem (Keep.canon ‹_›)
    | fail

theorem hostPut_keep {s : State} {p a' : Nat} {bs : List Byte} {poison : Bool} (h_s : Keep m a s) (hw : ∀ p ∈ ([.hostBytes, .hostPoison] : List StatePart), p ∈ m.parts) : Keep m a (hostPut s p a' bs poison) := by
  unfold hostPut
  repeat' with_reducible first
    | assumption
    | (refine partsSub ?_ hw; decide)
    | (intro _)
    | (simp -zeta -zetaDelta only [keep_mk]; apply keepL_of; any_goals first | exact .inr rfl | exact .inl (hw _ (by decide)) | exact .inr id | exact .inr (fun _ => rfl))
    | (fail_if_no_progress extract_lets +onlyGivenNames z; first | (have hz : Keep m a z := ?_; (on_goal 2 => subst z); clear_value z) | (have hz : KeepP m a z := ?_; (on_goal 2 => subst z); clear_value z) | (have hz : KeepO m a z := ?_; (on_goal 2 => subst z); clear_value z) | (have hz : KeepF m a z := ?_; (on_goal 2 => subst z); clear_value z) | (have hz : KeepPO m a z := ?_; (on_goal 2 => subst z); clear_value z) | (first | have _ : Mem := z | have _ : Clocks := z | have _ : Snuffer := z | have _ : Keeper := z) | clear_value z)
    | fail

theorem hostGet_keep {y0 : Nat} {y1 : Nat} {y2 : State} (h_y2 : Keep m a y2) : KeepP m a (hostGet y0 y1 y2) := by
  induction y0 generalizing y1 y2 with
  | zero => exact h_y2
  | succ n ih =>
    unfold hostGet
    split
    · exact ih h_y2
    · exact ih (takeFree_keep h_y2)

theorem portArrive_keep {s : State} {p : Nat} {flow : Option Nat} {n : Nat} (h_s : Keep m a s) (hw : ∀ p ∈ ([.floss] : List StatePart), p ∈ m.parts) : Keep m a (portArrive s p flow n) := by
  unfold portArrive
  repeat' with_reducible first
    | assumption
    | (refine partsSub ?_ hw; decide)
    | (intro _)
    | (simp -zeta -zetaDelta only [keep_mk]; apply keepL_of; any_goals first | exact .inr rfl | exact .inl (hw _ (by decide)) | exact .inr (fun x => x) | exact .inr (fun _ => rfl))
    | (fail_if_no_progress extract_lets +onlyGivenNames z; first | (have hz : Keep m a z := ?_; (on_goal 2 => subst z); clear_value z) | (have hz : KeepP m a z := ?_; (on_goal 2 => subst z); clear_value z) | (have hz : KeepO m a z := ?_; (on_goal 2 => subst z); clear_value z) | (have hz : KeepF m a z := ?_; (on_goal 2 => subst z); clear_value z) | (have hz : KeepPO m a z := ?_; (on_goal 2 => subst z); clear_value z) | (first | have _ : Mem := z | have _ : Clocks := z | have _ : Snuffer := z | have _ : Keeper := z) | clear_value z)
    | fail

theorem portArriveAs_keep {s : State} {p dir : Nat} {h flow : Option Nat} {n : Nat} (h_s : Keep m a s) (hw : ∀ p ∈ ([.floss] : List StatePart), p ∈ m.parts) : Keep m a (portArriveAs s p dir h flow n) := by
  unfold portArriveAs
  repeat' with_reducible first
    | assumption
    | (refine partsSub ?_ hw; decide)
    | (intro _)
    | (simp -zeta -zetaDelta only [keep_mk]; apply keepL_of; any_goals first | exact .inr rfl | exact .inl (hw _ (by decide)) | exact .inr (fun x => x) | exact .inr (fun _ => rfl))
    | (fail_if_no_progress extract_lets +onlyGivenNames z; first | (have hz : Keep m a z := ?_; (on_goal 2 => subst z); clear_value z) | (have hz : KeepP m a z := ?_; (on_goal 2 => subst z); clear_value z) | (have hz : KeepO m a z := ?_; (on_goal 2 => subst z); clear_value z) | (have hz : KeepF m a z := ?_; (on_goal 2 => subst z); clear_value z) | (have hz : KeepPO m a z := ?_; (on_goal 2 => subst z); clear_value z) | (first | have _ : Mem := z | have _ : Clocks := z | have _ : Snuffer := z | have _ : Keeper := z) | clear_value z)
    | fail

theorem hostCross_keep {s : State} {who : Req} {dir : Nat} {flow : Option Nat} {n : Nat} (h_s : Keep m a s) (hw : ∀ p ∈ ([.floss] : List StatePart), p ∈ m.parts) (he : ∀ e ∈ ([0x600001] : List Nat), m.entry e) : Keep m a (hostCross s who dir flow n) := by
  unfold hostCross
  repeat' with_reducible first
    | assumption
    | (refine partsSub ?_ hw; decide)
    | (refine entriesSub ?_ he; decide)
    | exact he _ (by decide)
    | (intro _)
    | (simp -zeta -zetaDelta only [keep_mk]; apply keepL_of; any_goals first | exact .inr rfl | exact .inl (hw _ (by decide)) | exact .inr (fun x => x) | exact .inr (fun _ => rfl))
    | (fail_if_no_progress extract_lets +onlyGivenNames z; first | (have hz : Keep m a z := ?_; (on_goal 2 => subst z); clear_value z) | (have hz : KeepP m a z := ?_; (on_goal 2 => subst z); clear_value z) | (have hz : KeepO m a z := ?_; (on_goal 2 => subst z); clear_value z) | (have hz : KeepF m a z := ?_; (on_goal 2 => subst z); clear_value z) | (have hz : KeepPO m a z := ?_; (on_goal 2 => subst z); clear_value z) | (first | have _ : Mem := z | have _ : Clocks := z | have _ : Snuffer := z | have _ : Keeper := z) | clear_value z)
    | apply keep_ite
    | apply countP_keep
    | apply portArrive_keep
    | split
    | fail

theorem setPll_keep {s : State} {q : Nat} {p : Pll} (h_s : Keep m a s) (hw : ∀ p ∈ ([.clocks] : List StatePart), p ∈ m.parts) : Keep m a (setPll s q p) := by
  unfold setPll
  repeat' with_reducible first
    | assumption
    | (refine partsSub ?_ hw; decide)
    | (intro _)
    | (simp -zeta -zetaDelta only [keep_mk]; apply keepL_of; any_goals first | exact .inr rfl | exact .inl (hw _ (by decide)) | exact .inr id | exact .inr (fun _ => rfl))
    | fail

theorem needClock_keep {s : State} {q : Nat} (h_s : Keep m a s) (hw : ∀ p ∈ ([.clocks] : List StatePart), p ∈ m.parts) : KeepO m a (needClock s q) := by
  unfold needClock
  repeat' with_reducible first
    | assumption
    | (refine partsSub ?_ hw; decide)
    | (intro _)
    | (simp -zeta -zetaDelta only [keep_mk]; apply keepL_of; any_goals first | exact .inr rfl | exact .inl (hw _ (by decide)) | exact .inr (fun x => x) | exact .inr (fun _ => rfl))
    | (fail_if_no_progress extract_lets +onlyGivenNames z; first | (have hz : Keep m a z := ?_; (on_goal 2 => subst z); clear_value z) | (have hz : KeepP m a z := ?_; (on_goal 2 => subst z); clear_value z) | (have hz : KeepO m a z := ?_; (on_goal 2 => subst z); clear_value z) | (have hz : KeepF m a z := ?_; (on_goal 2 => subst z); clear_value z) | (have hz : KeepPO m a z := ?_; (on_goal 2 => subst z); clear_value z) | (first | have _ : Mem := z | have _ : Clocks := z | have _ : Snuffer := z | have _ : Keeper := z) | clear_value z)
    | apply keep_ite
    | apply keepO_ok
    | apply keepO_wait
    | apply keepO_fail
    | apply keepO_ite
    | apply setPll_keep
    | (apply keep_okE; assumption)
    | (apply keep_waitE; assumption)
    | (apply keep_failE; assumption)
    | (refine keep_of_ok ?_ ‹_ = Out.ok _ _›)
    | (refine keep_of_wait ?_ ‹_ = Out.wait _›)
    | (refine keep_of_fail ?_ ‹_ = Out.fail _ _›)
    | apply keep_state
    | (refine keepO_of_some ?_ ‹_ = some _›)
    | split
    | fail

theorem closeWindow_keep {s : State} {line : Nat} (h_s : Keep m a s) (hw : ∀ p ∈ ([.memory] : List StatePart), p ∈ m.parts) : Keep m a (closeWindow s line) := by
  unfold closeWindow
  repeat' with_reducible first
    | assumption
    | (refine partsSub ?_ hw; decide)
    | (intro _)
    | (simp -zeta -zetaDelta only [keep_mk]; apply keepL_of; any_goals first | exact .inr rfl | exact .inl (hw _ (by decide)) | exact .inr id | exact .inr (fun _ => rfl))
    | fail

theorem openWindow_keep {s : State} {line : Nat} (h_s : Keep m a s) (hw : ∀ p ∈ ([.memory] : List StatePart), p ∈ m.parts) : Keep m a (openWindow s line) := by
  unfold openWindow
  repeat' with_reducible first
    | assumption
    | (refine partsSub ?_ hw; decide)
    | (intro _)
    | (simp -zeta -zetaDelta only [keep_mk]; apply keepL_of; any_goals first | exact .inr rfl | exact .inl (hw _ (by decide)) | exact .inr id | exact .inr (fun _ => rfl))
    | refine Or.inl ⟨hw _ (by decide), ?_⟩
    | apply canonical_filter
    | apply canonical_putBytes
    | apply canonical_foldl_cput
    | apply canonical_nil
    | exact Canon.mem (Keep.canon ‹_›)
    | (fail_if_no_progress extract_lets +onlyGivenNames z; first | (have hz : Keep m a z := ?_; (on_goal 2 => subst z); clear_value z) | (have hz : KeepP m a z := ?_; (on_goal 2 => subst z); clear_value z) | (have hz : KeepO m a z := ?_; (on_goal 2 => subst z); clear_value z) | (have hz : KeepF m a z := ?_; (on_goal 2 => subst z); clear_value z) | (have hz : KeepPO m a z := ?_; (on_goal 2 => subst z); clear_value z) | (have hz : ∀ s, Keep m a s → Keep m a (z s) := ?_; (on_goal 2 => (subst z; intros; beta_reduce)); clear_value z) | (have hz : ∀ s x, Keep m a s → Keep m a (z s x) := ?_; (on_goal 2 => (subst z; intros; beta_reduce)); clear_value z) | (have hz : ∀ s x, Keep m a s → KeepO m a (z s x) := ?_; (on_goal 2 => (subst z; intros; beta_reduce)); clear_value z) | (have hz : ∀ x s, Keep m a s → Keep m a (z x s) := ?_; (on_goal 2 => (subst z; intros; beta_reduce)); clear_value z) | (have hz : ∀ s, Keep m a s → KeepO m a (z s) := ?_; (on_goal 2 => (subst z; intros; beta_reduce)); clear_value z) | (have hz : ∀ x, Keep m a (z x) := ?_; (on_goal 2 => (subst z; intros; beta_reduce)); clear_value z) | (have hz : ∀ x y s, Keep m a s → Keep m a (z x y s) := ?_; (on_goal 2 => (subst z; intros; beta_reduce)); clear_value z) | (have hz : ∀ o x, KeepO m a o → KeepOO m a (z o x) := ?_; (on_goal 2 => (subst z; intros; beta_reduce)); clear_value z) | (have hz : ∀ s, Keep m a s → KeepP m a (z s) := ?_; (on_goal 2 => (subst z; intros; beta_reduce)); clear_value z) | (have hz : ∀ x, KeepP m a (z x) := ?_; (on_goal 2 => (subst z; intros; beta_reduce)); clear_value z) | (have hz : ∀ s x y, Keep m a s → Keep m a (z s x y) := ?_; (on_goal 2 => (subst z; intros; beta_reduce)); clear_value z) | (have hz : ∀ s x, Keep m a s → KeepOO m a (z s x) := ?_; (on_goal 2 => (subst z; intros; beta_reduce)); clear_value z) | (have hz : ∀ x o, KeepO m a o → KeepOO m a (z x o) := ?_; (on_goal 2 => (subst z; intros; beta_reduce)); clear_value z) | (have hz : ∀ x y, KeepP m a (z x y) := ?_; (on_goal 2 => (subst z; intros; beta_reduce)); clear_value z) | (have hz : ∀ s x y w, Keep m a s → Keep m a (z s x y w) := ?_; (on_goal 2 => (subst z; intros; beta_reduce)); clear_value z) | (first | have _ : Mem := z | have _ : Clocks := z | have _ : Snuffer := z | have _ : Keeper := z) | clear_value z)
    | fail

theorem readLine_keep {s : State} {a' n : Nat} (h_s : Keep m a s) (hw : ∀ p ∈ ([.memory] : List StatePart), p ∈ m.parts) (he : ∀ e ∈ ([0x600001] : List Nat), m.entry e) : KeepP m a (readLine s a' n) := by
  unfold readLine
  repeat' with_reducible first
    | assumption
    | (refine partsSub ?_ hw; decide)
    | (refine entriesSub ?_ he; decide)
    | exact he _ (by decide)
    | (intro _)
    | (simp -zeta -zetaDelta only [keep_mk]; apply keepL_of; any_goals first | exact .inr rfl | exact .inl (hw _ (by decide)) | exact .inr id | exact .inr (fun _ => rfl))
    | refine Or.inl ⟨hw _ (by decide), ?_⟩
    | apply canonical_filter
    | apply canonical_putBytes
    | apply canonical_foldl_cput
    | apply canonical_nil
    | exact Canon.mem (Keep.canon ‹_›)
    | (fail_if_no_progress extract_lets +onlyGivenNames z; first | (have hz : Keep m a z := ?_; (on_goal 2 => subst z); clear_value z) | (have hz : KeepP m a z := ?_; (on_goal 2 => subst z); clear_value z) | (have hz : KeepO m a z := ?_; (on_goal 2 => subst z); clear_value z) | (have hz : KeepF m a z := ?_; (on_goal 2 => subst z); clear_value z) | (have hz : KeepPO m a z := ?_; (on_goal 2 => subst z); clear_value z) | (first | have _ : Mem := z | have _ : Clocks := z | have _ : Snuffer := z | have _ : Keeper := z) | clear_value z)
    | apply keep_ite
    | simp -zeta -zetaDelta only [keepP_iff]
    | apply keepP_ite
    | apply countQ_keep
    | apply openWindow_keep
    | apply hw
    | apply he
    | (apply keep_pairE; assumption)
    | (refine keep_of_pair ?_ ‹_ = (_, _)›)
    | simp -zeta -zetaDelta only [keep_snd]
    | split
    | fail

theorem clearResv_keep {s : State} {a' n : Nat} (h_s : Keep m a s) (hw : ∀ p ∈ ([.memory] : List StatePart), p ∈ m.parts) : Keep m a (clearResv s a' n) := by
  unfold clearResv
  repeat' with_reducible first
    | assumption
    | (refine partsSub ?_ hw; decide)
    | (intro _)
    | (simp -zeta -zetaDelta only [keep_mk]; apply keepL_of; any_goals first | exact .inr rfl | exact .inl (hw _ (by decide)) | exact .inr id | exact .inr (fun _ => rfl))
    | fail

theorem writeLine_keep {s : State} {a' : Nat} {bs : List Byte} {poison : Bool} (h_s : Keep m a s) (hw : ∀ p ∈ ([.memory, .bytes] : List StatePart), p ∈ m.parts) : Keep m a (writeLine s a' bs poison) := by
  unfold writeLine
  repeat' with_reducible first
    | assumption
    | (refine partsSub ?_ hw; decide)
    | (intro _)
    | (simp -zeta -zetaDelta only [keep_mk]; apply keepL_of; any_goals first | exact .inr rfl | exact .inl (hw _ (by decide)) | exact .inr id | exact .inr (fun _ => rfl))
    | refine Or.inl ⟨hw _ (by decide), ?_⟩
    | apply canonical_filter
    | apply canonical_putBytes
    | apply canonical_foldl_cput
    | apply canonical_nil
    | exact Canon.mem (Keep.canon ‹_›)
    | (fail_if_no_progress extract_lets +onlyGivenNames z; first | (have hz : Keep m a z := ?_; (on_goal 2 => subst z); clear_value z) | (have hz : KeepP m a z := ?_; (on_goal 2 => subst z); clear_value z) | (have hz : KeepO m a z := ?_; (on_goal 2 => subst z); clear_value z) | (have hz : KeepF m a z := ?_; (on_goal 2 => subst z); clear_value z) | (have hz : KeepPO m a z := ?_; (on_goal 2 => subst z); clear_value z) | (first | have _ : Mem := z | have _ : Clocks := z | have _ : Snuffer := z | have _ : Keeper := z) | clear_value z)
    | apply keep_ite
    | apply wbs_keep
    | apply closeWindow_keep
    | apply clearResv_keep
    | fail

theorem poisonWords_keep {s : State} {a' n : Nat} (h_s : Keep m a s) (hw : ∀ p ∈ ([.memory] : List StatePart), p ∈ m.parts) : Keep m a (poisonWords s a' n) := by
  unfold poisonWords
  repeat' with_reducible first
    | assumption
    | (refine partsSub ?_ hw; decide)
    | (intro _)
    | (simp -zeta -zetaDelta only [keep_mk]; apply keepL_of; any_goals first | exact .inr rfl | exact .inl (hw _ (by decide)) | exact .inr id | exact .inr (fun _ => rfl))
    | refine Or.inl ⟨hw _ (by decide), ?_⟩
    | apply canonical_filter
    | apply canonical_putBytes
    | apply canonical_foldl_cput
    | apply canonical_nil
    | exact Canon.mem (Keep.canon ‹_›)
    | (fail_if_no_progress extract_lets +onlyGivenNames z; first | (have hz : Keep m a z := ?_; (on_goal 2 => subst z); clear_value z) | (have hz : KeepP m a z := ?_; (on_goal 2 => subst z); clear_value z) | (have hz : KeepO m a z := ?_; (on_goal 2 => subst z); clear_value z) | (have hz : KeepF m a z := ?_; (on_goal 2 => subst z); clear_value z) | (have hz : KeepPO m a z := ?_; (on_goal 2 => subst z); clear_value z) | (first | have _ : Mem := z | have _ : Clocks := z | have _ : Snuffer := z | have _ : Keeper := z) | clear_value z)
    | fail

theorem writeScratch_keep {s : State} {a' : Nat} {bs : List Byte} {poison : Bool} (h_s : Keep m a s) (hw : ∀ p ∈ ([.memory, .bytes] : List StatePart), p ∈ m.parts) : Keep m a (writeScratch s a' bs poison) := by
  unfold writeScratch
  repeat' with_reducible first
    | assumption
    | (refine partsSub ?_ hw; decide)
    | (intro _)
    | (simp -zeta -zetaDelta only [keep_mk]; apply keepL_of; any_goals first | exact .inr rfl | exact .inl (hw _ (by decide)) | exact .inr id | exact .inr (fun _ => rfl))
    | refine Or.inl ⟨hw _ (by decide), ?_⟩
    | apply canonical_filter
    | apply canonical_putBytes
    | apply canonical_foldl_cput
    | apply canonical_nil
    | exact Canon.mem (Keep.canon ‹_›)
    | (fail_if_no_progress extract_lets +onlyGivenNames z; first | (have hz : Keep m a z := ?_; (on_goal 2 => subst z); clear_value z) | (have hz : KeepP m a z := ?_; (on_goal 2 => subst z); clear_value z) | (have hz : KeepO m a z := ?_; (on_goal 2 => subst z); clear_value z) | (have hz : KeepF m a z := ?_; (on_goal 2 => subst z); clear_value z) | (have hz : KeepPO m a z := ?_; (on_goal 2 => subst z); clear_value z) | (have hz : ∀ s, Keep m a s → Keep m a (z s) := ?_; (on_goal 2 => (subst z; intros; beta_reduce)); clear_value z) | (have hz : ∀ s x, Keep m a s → Keep m a (z s x) := ?_; (on_goal 2 => (subst z; intros; beta_reduce)); clear_value z) | (have hz : ∀ s x, Keep m a s → KeepO m a (z s x) := ?_; (on_goal 2 => (subst z; intros; beta_reduce)); clear_value z) | (have hz : ∀ x s, Keep m a s → Keep m a (z x s) := ?_; (on_goal 2 => (subst z; intros; beta_reduce)); clear_value z) | (have hz : ∀ s, Keep m a s → KeepO m a (z s) := ?_; (on_goal 2 => (subst z; intros; beta_reduce)); clear_value z) | (have hz : ∀ x, Keep m a (z x) := ?_; (on_goal 2 => (subst z; intros; beta_reduce)); clear_value z) | (have hz : ∀ x y s, Keep m a s → Keep m a (z x y s) := ?_; (on_goal 2 => (subst z; intros; beta_reduce)); clear_value z) | (have hz : ∀ o x, KeepO m a o → KeepOO m a (z o x) := ?_; (on_goal 2 => (subst z; intros; beta_reduce)); clear_value z) | (have hz : ∀ s, Keep m a s → KeepP m a (z s) := ?_; (on_goal 2 => (subst z; intros; beta_reduce)); clear_value z) | (have hz : ∀ x, KeepP m a (z x) := ?_; (on_goal 2 => (subst z; intros; beta_reduce)); clear_value z) | (have hz : ∀ s x y, Keep m a s → Keep m a (z s x y) := ?_; (on_goal 2 => (subst z; intros; beta_reduce)); clear_value z) | (have hz : ∀ s x, Keep m a s → KeepOO m a (z s x) := ?_; (on_goal 2 => (subst z; intros; beta_reduce)); clear_value z) | (have hz : ∀ x o, KeepO m a o → KeepOO m a (z x o) := ?_; (on_goal 2 => (subst z; intros; beta_reduce)); clear_value z) | (have hz : ∀ x y, KeepP m a (z x y) := ?_; (on_goal 2 => (subst z; intros; beta_reduce)); clear_value z) | (have hz : ∀ s x y w, Keep m a s → Keep m a (z s x y w) := ?_; (on_goal 2 => (subst z; intros; beta_reduce)); clear_value z) | (first | have _ : Mem := z | have _ : Clocks := z | have _ : Snuffer := z | have _ : Keeper := z) | clear_value z)
    | apply hz
    | apply keep_ite
    | apply wbs_keep
    | apply clearResv_keep
    | apply poisonWords_keep
    | fail

theorem clearWhole_keep {s : State} {runs : List (Nat × Nat)} {bad : List Nat} (h_s : Keep m a s) (hw : ∀ p ∈ ([.memory] : List StatePart), p ∈ m.parts) : Keep m a (clearWhole s runs bad) := by
  unfold clearWhole
  repeat' with_reducible first
    | assumption
    | (refine partsSub ?_ hw; decide)
    | (intro _)
    | (simp -zeta -zetaDelta only [keep_mk]; apply keepL_of; any_goals first | exact .inr rfl | exact .inl (hw _ (by decide)) | exact .inr (fun x => x) | exact .inr (fun _ => rfl))
    | refine Or.inl ⟨hw _ (by decide), ?_⟩
    | apply canonical_filter
    | apply canonical_putBytes
    | apply canonical_foldl_cput
    | apply canonical_nil
    | exact Canon.mem (Keep.canon ‹_›)
    | (fail_if_no_progress extract_lets +onlyGivenNames z; first | (have hz : Keep m a z := ?_; (on_goal 2 => subst z); clear_value z) | (have hz : KeepP m a z := ?_; (on_goal 2 => subst z); clear_value z) | (have hz : KeepO m a z := ?_; (on_goal 2 => subst z); clear_value z) | (have hz : KeepF m a z := ?_; (on_goal 2 => subst z); clear_value z) | (have hz : KeepPO m a z := ?_; (on_goal 2 => subst z); clear_value z) | (have hz : ∀ s, Keep m a s → Keep m a (z s) := ?_; (on_goal 2 => (subst z; intros; beta_reduce)); clear_value z) | (have hz : ∀ s x, Keep m a s → Keep m a (z s x) := ?_; (on_goal 2 => (subst z; intros; beta_reduce)); clear_value z) | (have hz : ∀ s x, Keep m a s → KeepO m a (z s x) := ?_; (on_goal 2 => (subst z; intros; beta_reduce)); clear_value z) | (have hz : ∀ x s, Keep m a s → Keep m a (z x s) := ?_; (on_goal 2 => (subst z; intros; beta_reduce)); clear_value z) | (have hz : ∀ s, Keep m a s → KeepO m a (z s) := ?_; (on_goal 2 => (subst z; intros; beta_reduce)); clear_value z) | (have hz : ∀ x, Keep m a (z x) := ?_; (on_goal 2 => (subst z; intros; beta_reduce)); clear_value z) | (have hz : ∀ x y s, Keep m a s → Keep m a (z x y s) := ?_; (on_goal 2 => (subst z; intros; beta_reduce)); clear_value z) | (have hz : ∀ o x, KeepO m a o → KeepOO m a (z o x) := ?_; (on_goal 2 => (subst z; intros; beta_reduce)); clear_value z) | (have hz : ∀ s, Keep m a s → KeepP m a (z s) := ?_; (on_goal 2 => (subst z; intros; beta_reduce)); clear_value z) | (have hz : ∀ x, KeepP m a (z x) := ?_; (on_goal 2 => (subst z; intros; beta_reduce)); clear_value z) | (have hz : ∀ s x y, Keep m a s → Keep m a (z s x y) := ?_; (on_goal 2 => (subst z; intros; beta_reduce)); clear_value z) | (have hz : ∀ s x, Keep m a s → KeepOO m a (z s x) := ?_; (on_goal 2 => (subst z; intros; beta_reduce)); clear_value z) | (have hz : ∀ x o, KeepO m a o → KeepOO m a (z x o) := ?_; (on_goal 2 => (subst z; intros; beta_reduce)); clear_value z) | (have hz : ∀ x y, KeepP m a (z x y) := ?_; (on_goal 2 => (subst z; intros; beta_reduce)); clear_value z) | (have hz : ∀ s x y w, Keep m a s → Keep m a (z s x y w) := ?_; (on_goal 2 => (subst z; intros; beta_reduce)); clear_value z) | (first | have _ : Mem := z | have _ : Clocks := z | have _ : Snuffer := z | have _ : Keeper := z) | clear_value z)
    | fail

theorem writeRuns_keep {s : State} {runs : List (Nat × List Byte)} {poison : Bool} (h_s : Keep m a s) (hw : ∀ p ∈ ([.memory, .bytes] : List StatePart), p ∈ m.parts) : Keep m a (writeRuns s runs poison) := by
  unfold writeRuns
  repeat' with_reducible first
    | assumption
    | (refine partsSub ?_ hw; decide)
    | (intro _)
    | (fail_if_no_progress extract_lets +onlyGivenNames z; first | (have hz : Keep m a z := ?_; (on_goal 2 => subst z); clear_value z) | (have hz : KeepP m a z := ?_; (on_goal 2 => subst z); clear_value z) | (have hz : KeepO m a z := ?_; (on_goal 2 => subst z); clear_value z) | (have hz : KeepF m a z := ?_; (on_goal 2 => subst z); clear_value z) | (have hz : KeepPO m a z := ?_; (on_goal 2 => subst z); clear_value z) | (first | have _ : Mem := z | have _ : Clocks := z | have _ : Snuffer := z | have _ : Keeper := z) | clear_value z)
    | apply keep_ite
    | simp -zeta -zetaDelta only [keepF_iff]
    | apply keepF_ite
    | apply writeScratch_keep
    | apply clearWhole_keep
    | (refine keep_foldl ?_ (fun _ _ _ => ?_))
    | fail

theorem clearScratch_keep {s : State} {l : Nat} (h_s : Keep m a s) (hw : ∀ p ∈ ([.memory, .bytes] : List StatePart), p ∈ m.parts) : Keep m a (clearScratch s l) := by
  unfold clearScratch
  repeat' with_reducible first
    | assumption
    | (refine partsSub ?_ hw; decide)
    | (intro _)
    | (simp -zeta -zetaDelta only [keep_mk]; apply keepL_of; any_goals first | exact .inr rfl | exact .inl (hw _ (by decide)) | exact .inr (fun x => x) | exact .inr (fun _ => rfl))
    | refine Or.inl ⟨hw _ (by decide), ?_⟩
    | apply canonical_filter
    | apply canonical_putBytes
    | apply canonical_foldl_cput
    | apply canonical_nil
    | exact Canon.mem (Keep.canon ‹_›)
    | (fail_if_no_progress extract_lets +onlyGivenNames z; first | (have hz : Keep m a z := ?_; (on_goal 2 => subst z); clear_value z) | (have hz : KeepP m a z := ?_; (on_goal 2 => subst z); clear_value z) | (have hz : KeepO m a z := ?_; (on_goal 2 => subst z); clear_value z) | (have hz : KeepF m a z := ?_; (on_goal 2 => subst z); clear_value z) | (have hz : KeepPO m a z := ?_; (on_goal 2 => subst z); clear_value z) | (have hz : ∀ s, Keep m a s → Keep m a (z s) := ?_; (on_goal 2 => (subst z; intros; beta_reduce)); clear_value z) | (have hz : ∀ s x, Keep m a s → Keep m a (z s x) := ?_; (on_goal 2 => (subst z; intros; beta_reduce)); clear_value z) | (have hz : ∀ s x, Keep m a s → KeepO m a (z s x) := ?_; (on_goal 2 => (subst z; intros; beta_reduce)); clear_value z) | (have hz : ∀ x s, Keep m a s → Keep m a (z x s) := ?_; (on_goal 2 => (subst z; intros; beta_reduce)); clear_value z) | (have hz : ∀ s, Keep m a s → KeepO m a (z s) := ?_; (on_goal 2 => (subst z; intros; beta_reduce)); clear_value z) | (have hz : ∀ x, Keep m a (z x) := ?_; (on_goal 2 => (subst z; intros; beta_reduce)); clear_value z) | (have hz : ∀ x y s, Keep m a s → Keep m a (z x y s) := ?_; (on_goal 2 => (subst z; intros; beta_reduce)); clear_value z) | (have hz : ∀ o x, KeepO m a o → KeepOO m a (z o x) := ?_; (on_goal 2 => (subst z; intros; beta_reduce)); clear_value z) | (have hz : ∀ s, Keep m a s → KeepP m a (z s) := ?_; (on_goal 2 => (subst z; intros; beta_reduce)); clear_value z) | (have hz : ∀ x, KeepP m a (z x) := ?_; (on_goal 2 => (subst z; intros; beta_reduce)); clear_value z) | (have hz : ∀ s x y, Keep m a s → Keep m a (z s x y) := ?_; (on_goal 2 => (subst z; intros; beta_reduce)); clear_value z) | (have hz : ∀ s x, Keep m a s → KeepOO m a (z s x) := ?_; (on_goal 2 => (subst z; intros; beta_reduce)); clear_value z) | (have hz : ∀ x o, KeepO m a o → KeepOO m a (z x o) := ?_; (on_goal 2 => (subst z; intros; beta_reduce)); clear_value z) | (have hz : ∀ x y, KeepP m a (z x y) := ?_; (on_goal 2 => (subst z; intros; beta_reduce)); clear_value z) | (have hz : ∀ s x y w, Keep m a s → Keep m a (z s x y w) := ?_; (on_goal 2 => (subst z; intros; beta_reduce)); clear_value z) | (first | have _ : Mem := z | have _ : Clocks := z | have _ : Snuffer := z | have _ : Keeper := z) | clear_value z)
    | fail

theorem hbmPut_keep {s : State} {a' : Nat} {bs : List Byte} (h_s : Keep m a s) (hw : ∀ p ∈ ([.memory, .bytes] : List StatePart), p ∈ m.parts) : Keep m a (hbmPut s a' bs) := by
  unfold hbmPut
  repeat' with_reducible first
    | assumption
    | (refine partsSub ?_ hw; decide)
    | (intro _)
    | (fail_if_no_progress extract_lets +onlyGivenNames z; first | (have hz : Keep m a z := ?_; (on_goal 2 => subst z); clear_value z) | (have hz : KeepP m a z := ?_; (on_goal 2 => subst z); clear_value z) | (have hz : KeepO m a z := ?_; (on_goal 2 => subst z); clear_value z) | (have hz : KeepF m a z := ?_; (on_goal 2 => subst z); clear_value z) | (have hz : KeepPO m a z := ?_; (on_goal 2 => subst z); clear_value z) | (first | have _ : Mem := z | have _ : Clocks := z | have _ : Snuffer := z | have _ : Keeper := z) | clear_value z)
    | apply keep_ite
    | apply wbs_keep
    | fail

theorem putCheck_keep {s : State} {a' c : Nat} (h_s : Keep m a s) (hw : ∀ p ∈ ([.memory, .bytes] : List StatePart), p ∈ m.parts) : Keep m a (putCheck s a' c) := by
  unfold putCheck
  repeat' with_reducible first
    | assumption
    | (refine partsSub ?_ hw; decide)
    | (intro _)
    | (fail_if_no_progress extract_lets +onlyGivenNames z; first | (have hz : Keep m a z := ?_; (on_goal 2 => subst z); clear_value z) | (have hz : KeepP m a z := ?_; (on_goal 2 => subst z); clear_value z) | (have hz : KeepO m a z := ?_; (on_goal 2 => subst z); clear_value z) | (have hz : KeepF m a z := ?_; (on_goal 2 => subst z); clear_value z) | (have hz : KeepPO m a z := ?_; (on_goal 2 => subst z); clear_value z) | (first | have _ : Mem := z | have _ : Clocks := z | have _ : Snuffer := z | have _ : Keeper := z) | clear_value z)
    | apply keep_ite
    | apply wbs_keep
    | fail

theorem sealBlock_keep {s : State} {a' : Nat} {poison : Bool} (h_s : Keep m a s) (hw : ∀ p ∈ ([.memory, .bytes] : List StatePart), p ∈ m.parts) : Keep m a (sealBlock s a' poison) := by
  unfold sealBlock
  repeat' with_reducible first
    | assumption
    | (refine partsSub ?_ hw; decide)
    | (intro _)
    | (fail_if_no_progress extract_lets +onlyGivenNames z; first | (have hz : Keep m a z := ?_; (on_goal 2 => subst z); clear_value z) | (have hz : KeepP m a z := ?_; (on_goal 2 => subst z); clear_value z) | (have hz : KeepO m a z := ?_; (on_goal 2 => subst z); clear_value z) | (have hz : KeepF m a z := ?_; (on_goal 2 => subst z); clear_value z) | (have hz : KeepPO m a z := ?_; (on_goal 2 => subst z); clear_value z) | (first | have _ : Mem := z | have _ : Clocks := z | have _ : Snuffer := z | have _ : Keeper := z) | clear_value z)
    | apply keep_ite
    | apply putCheck_keep
    | fail

theorem setInjected_keep {s : State} {a' k : Nat} (h_s : Keep m a s) (hw : ∀ p ∈ ([.memory] : List StatePart), p ∈ m.parts) : Keep m a (setInjected s a' k) := by
  unfold setInjected
  repeat' with_reducible first
    | assumption
    | (refine partsSub ?_ hw; decide)
    | (intro _)
    | (simp -zeta -zetaDelta only [keep_mk]; apply keepL_of; any_goals first | exact .inr rfl | exact .inl (hw _ (by decide)) | exact .inr (fun x => x) | exact .inr (fun _ => rfl))
    | refine Or.inl ⟨hw _ (by decide), ?_⟩
    | apply canonical_filter
    | apply canonical_putBytes
    | apply canonical_foldl_cput
    | apply canonical_nil
    | exact Canon.mem (Keep.canon ‹_›)
    | (fail_if_no_progress extract_lets +onlyGivenNames z; first | (have hz : Keep m a z := ?_; (on_goal 2 => subst z); clear_value z) | (have hz : KeepP m a z := ?_; (on_goal 2 => subst z); clear_value z) | (have hz : KeepO m a z := ?_; (on_goal 2 => subst z); clear_value z) | (have hz : KeepF m a z := ?_; (on_goal 2 => subst z); clear_value z) | (have hz : KeepPO m a z := ?_; (on_goal 2 => subst z); clear_value z) | (first | have _ : Mem := z | have _ : Clocks := z | have _ : Snuffer := z | have _ : Keeper := z) | clear_value z)
    | fail

theorem clearPlanted_keep {s : State} {a' : Nat} (h_s : Keep m a s) (hw : ∀ p ∈ ([.memory] : List StatePart), p ∈ m.parts) : Keep m a (clearPlanted s a') := by
  unfold clearPlanted
  repeat' with_reducible first
    | assumption
    | (refine partsSub ?_ hw; decide)
    | (intro _)
    | (fail_if_no_progress extract_lets +onlyGivenNames z; first | (have hz : Keep m a z := ?_; (on_goal 2 => subst z); clear_value z) | (have hz : KeepP m a z := ?_; (on_goal 2 => subst z); clear_value z) | (have hz : KeepO m a z := ?_; (on_goal 2 => subst z); clear_value z) | (have hz : KeepF m a z := ?_; (on_goal 2 => subst z); clear_value z) | (have hz : KeepPO m a z := ?_; (on_goal 2 => subst z); clear_value z) | (first | have _ : Mem := z | have _ : Clocks := z | have _ : Snuffer := z | have _ : Keeper := z) | clear_value z)
    | apply keep_ite
    | apply setInjected_keep
    | fail

theorem blockFault_keep {s : State} {who : Who} {a' access cls : Nat} (h_s : Keep m a s) (hw : ∀ p ∈ ([.clocks, .memory, .bytes, .fabric, .ranges, .snuffer] : List StatePart), p ∈ m.parts) (he : ∀ e ∈ ([0x500001, 0x500002, 0x500003, 0x500004, 0x500006, 0x500007, 0x500008, 0x510002, 0x600001] : List Nat), m.entry e) : Keep m a (blockFault s who a' access cls) := by
  unfold blockFault
  repeat' with_reducible first
    | assumption
    | (refine partsSub ?_ hw; decide)
    | (refine entriesSub ?_ he; decide)
    | exact he _ (by decide)
    | (intro _)
    | (fail_if_no_progress extract_lets +onlyGivenNames z; first | (have hz : Keep m a z := ?_; (on_goal 2 => subst z); clear_value z) | (have hz : KeepP m a z := ?_; (on_goal 2 => subst z); clear_value z) | (have hz : KeepO m a z := ?_; (on_goal 2 => subst z); clear_value z) | (have hz : KeepF m a z := ?_; (on_goal 2 => subst z); clear_value z) | (have hz : KeepPO m a z := ?_; (on_goal 2 => subst z); clear_value z) | (first | have _ : Mem := z | have _ : Clocks := z | have _ : Snuffer := z | have _ : Keeper := z) | clear_value z)
    | apply keep_ite
    | apply countB_keep
    | apply latch_keep
    | apply sealBlock_keep
    | apply clearPlanted_keep
    | fail

theorem applyInjection_keep {s : State} {a' : Nat} (h_s : Keep m a s) (hw : ∀ p ∈ ([.memory, .bytes] : List StatePart), p ∈ m.parts) : Keep m a (applyInjection s a') := by
  unfold applyInjection
  repeat' with_reducible first
    | assumption
    | (refine partsSub ?_ hw; decide)
    | (intro _)
    | (fail_if_no_progress extract_lets +onlyGivenNames z; first | (have hz : Keep m a z := ?_; (on_goal 2 => subst z); clear_value z) | (have hz : KeepP m a z := ?_; (on_goal 2 => subst z); clear_value z) | (have hz : KeepO m a z := ?_; (on_goal 2 => subst z); clear_value z) | (have hz : KeepF m a z := ?_; (on_goal 2 => subst z); clear_value z) | (have hz : KeepPO m a z := ?_; (on_goal 2 => subst z); clear_value z) | (first | have _ : Mem := z | have _ : Clocks := z | have _ : Snuffer := z | have _ : Keeper := z) | clear_value z)
    | apply keep_ite
    | apply putCheck_keep
    | apply setInjected_keep
    | fail

theorem mergeBlock_keep {s : State} {who : Who} {a' : Nat} {bs : List Byte} {poison : Bool} (h_s : Keep m a s) (hw : ∀ p ∈ ([.clocks, .memory, .bytes, .fabric, .ranges, .snuffer] : List StatePart), p ∈ m.parts) (he : ∀ e ∈ ([0x500001, 0x500002, 0x500003, 0x500004, 0x500006, 0x500007, 0x500008, 0x510002, 0x600001] : List Nat), m.entry e) : Keep m a (mergeBlock s who a' bs poison) := by
  unfold mergeBlock
  repeat' with_reducible first
    | assumption
    | (refine partsSub ?_ hw; decide)
    | (refine entriesSub ?_ he; decide)
    | exact he _ (by decide)
    | (intro _)
    | (simp -zeta -zetaDelta only [keep_mk]; apply keepL_of; any_goals first | exact .inr rfl | exact .inl (hw _ (by decide)) | exact .inr (fun x => x) | exact .inr (fun _ => rfl))
    | (fail_if_no_progress extract_lets +onlyGivenNames z; first | (have hz : Keep m a z := ?_; (on_goal 2 => subst z); clear_value z) | (have hz : KeepP m a z := ?_; (on_goal 2 => subst z); clear_value z) | (have hz : KeepO m a z := ?_; (on_goal 2 => subst z); clear_value z) | (have hz : KeepF m a z := ?_; (on_goal 2 => subst z); clear_value z) | (have hz : KeepPO m a z := ?_; (on_goal 2 => subst z); clear_value z) | (first | have _ : Mem := z | have _ : Clocks := z | have _ : Snuffer := z | have _ : Keeper := z) | clear_value z)
    | apply keep_ite
    | apply countB_keep
    | apply hbmPut_keep
    | apply sealBlock_keep
    | apply blockFault_keep
    | apply applyInjection_keep
    | split
    | fail

theorem countRemapped_keep {s : State} {a' : Nat} (h_s : Keep m a s) (he : ∀ e ∈ ([0x600001] : List Nat), m.entry e) : Keep m a (countRemapped s a') := by
  unfold countRemapped
  repeat' with_reducible first
    | assumption
    | (refine entriesSub ?_ he; decide)
    | exact he _ (by decide)
    | (intro _)
    | (fail_if_no_progress extract_lets +onlyGivenNames z; first | (have hz : Keep m a z := ?_; (on_goal 2 => subst z); clear_value z) | (have hz : KeepP m a z := ?_; (on_goal 2 => subst z); clear_value z) | (have hz : KeepO m a z := ?_; (on_goal 2 => subst z); clear_value z) | (have hz : KeepF m a z := ?_; (on_goal 2 => subst z); clear_value z) | (have hz : KeepPO m a z := ?_; (on_goal 2 => subst z); clear_value z) | (first | have _ : Mem := z | have _ : Clocks := z | have _ : Snuffer := z | have _ : Keeper := z) | clear_value z)
    | apply keep_ite
    | apply countB_keep
    | fail

theorem storeBlock_keep {s : State} {who : Who} {a' : Nat} {bs : List Byte} {poison : Bool} (h_s : Keep m a s) (hw : ∀ p ∈ ([.clocks, .memory, .bytes, .fabric, .ranges, .snuffer] : List StatePart), p ∈ m.parts) (he : ∀ e ∈ ([0x500001, 0x500002, 0x500003, 0x500004, 0x500006, 0x500007, 0x500008, 0x510002, 0x600001] : List Nat), m.entry e) : Keep m a (storeBlock s who a' bs poison) := by
  unfold storeBlock
  repeat' with_reducible first
    | assumption
    | (refine partsSub ?_ hw; decide)
    | (refine entriesSub ?_ he; decide)
    | exact he _ (by decide)
    | (intro _)
    | (fail_if_no_progress extract_lets +onlyGivenNames z; first | (have hz : Keep m a z := ?_; (on_goal 2 => subst z); clear_value z) | (have hz : KeepP m a z := ?_; (on_goal 2 => subst z); clear_value z) | (have hz : KeepO m a z := ?_; (on_goal 2 => subst z); clear_value z) | (have hz : KeepF m a z := ?_; (on_goal 2 => subst z); clear_value z) | (have hz : KeepPO m a z := ?_; (on_goal 2 => subst z); clear_value z) | (first | have _ : Mem := z | have _ : Clocks := z | have _ : Snuffer := z | have _ : Keeper := z) | clear_value z)
    | apply keep_ite
    | apply hbmPut_keep
    | apply sealBlock_keep
    | apply clearPlanted_keep
    | apply applyInjection_keep
    | apply mergeBlock_keep
    | fail

theorem holdWrite_keep {s : State} {who : Who} {a' : Nat} {bs : List Byte} {poison : Bool} {check : Option Nat} (h_s : Keep m a s) (hw : ∀ p ∈ ([.darner] : List StatePart), p ∈ m.parts) : Keep m a (holdWrite s who a' bs poison check) := by
  unfold holdWrite
  repeat' with_reducible first
    | assumption
    | (refine partsSub ?_ hw; decide)
    | (intro _)
    | (simp -zeta -zetaDelta only [keep_mk]; apply keepL_of; any_goals first | exact .inr rfl | exact .inl (hw _ (by decide)) | exact .inr (fun x => x) | exact .inr (fun _ => rfl))
    | (fail_if_no_progress extract_lets +onlyGivenNames z; first | (have hz : Keep m a z := ?_; (on_goal 2 => subst z); clear_value z) | (have hz : KeepP m a z := ?_; (on_goal 2 => subst z); clear_value z) | (have hz : KeepO m a z := ?_; (on_goal 2 => subst z); clear_value z) | (have hz : KeepF m a z := ?_; (on_goal 2 => subst z); clear_value z) | (have hz : KeepPO m a z := ?_; (on_goal 2 => subst z); clear_value z) | (have hz : ∀ s, Keep m a s → Keep m a (z s) := ?_; (on_goal 2 => (subst z; intros; beta_reduce)); clear_value z) | (have hz : ∀ s x, Keep m a s → Keep m a (z s x) := ?_; (on_goal 2 => (subst z; intros; beta_reduce)); clear_value z) | (have hz : ∀ s x, Keep m a s → KeepO m a (z s x) := ?_; (on_goal 2 => (subst z; intros; beta_reduce)); clear_value z) | (have hz : ∀ x s, Keep m a s → Keep m a (z x s) := ?_; (on_goal 2 => (subst z; intros; beta_reduce)); clear_value z) | (have hz : ∀ s, Keep m a s → KeepO m a (z s) := ?_; (on_goal 2 => (subst z; intros; beta_reduce)); clear_value z) | (have hz : ∀ x, Keep m a (z x) := ?_; (on_goal 2 => (subst z; intros; beta_reduce)); clear_value z) | (have hz : ∀ x y s, Keep m a s → Keep m a (z x y s) := ?_; (on_goal 2 => (subst z; intros; beta_reduce)); clear_value z) | (have hz : ∀ o x, KeepO m a o → KeepOO m a (z o x) := ?_; (on_goal 2 => (subst z; intros; beta_reduce)); clear_value z) | (have hz : ∀ s, Keep m a s → KeepP m a (z s) := ?_; (on_goal 2 => (subst z; intros; beta_reduce)); clear_value z) | (have hz : ∀ x, KeepP m a (z x) := ?_; (on_goal 2 => (subst z; intros; beta_reduce)); clear_value z) | (have hz : ∀ s x y, Keep m a s → Keep m a (z s x y) := ?_; (on_goal 2 => (subst z; intros; beta_reduce)); clear_value z) | (have hz : ∀ s x, Keep m a s → KeepOO m a (z s x) := ?_; (on_goal 2 => (subst z; intros; beta_reduce)); clear_value z) | (have hz : ∀ x o, KeepO m a o → KeepOO m a (z x o) := ?_; (on_goal 2 => (subst z; intros; beta_reduce)); clear_value z) | (have hz : ∀ x y, KeepP m a (z x y) := ?_; (on_goal 2 => (subst z; intros; beta_reduce)); clear_value z) | (have hz : ∀ s x y w, Keep m a s → Keep m a (z s x y w) := ?_; (on_goal 2 => (subst z; intros; beta_reduce)); clear_value z) | (first | have _ : Mem := z | have _ : Clocks := z | have _ : Snuffer := z | have _ : Keeper := z) | clear_value z)
    | fail

theorem performMerge_keep {s : State} {m' : Merge} (h_s : Keep m a s) (hw : ∀ p ∈ ([.clocks, .memory, .bytes, .fabric, .ranges, .floss, .snuffer, .darner] : List StatePart), p ∈ m.parts) (he : ∀ e ∈ ([0x500001, 0x500002, 0x500003, 0x500004, 0x500006, 0x500007, 0x500008, 0x510002, 0x600001] : List Nat), m.entry e) : Keep m a (performMerge s m') := by
  unfold performMerge
  repeat' with_reducible first
    | assumption
    | (refine partsSub ?_ hw; decide)
    | (refine entriesSub ?_ he; decide)
    | exact he _ (by decide)
    | (intro _)
    | (fail_if_no_progress extract_lets +onlyGivenNames z; first | (have hz : Keep m a z := ?_; (on_goal 2 => subst z); clear_value z) | (have hz : KeepP m a z := ?_; (on_goal 2 => subst z); clear_value z) | (have hz : KeepO m a z := ?_; (on_goal 2 => subst z); clear_value z) | (have hz : KeepF m a z := ?_; (on_goal 2 => subst z); clear_value z) | (have hz : KeepPO m a z := ?_; (on_goal 2 => subst z); clear_value z) | (first | have _ : Mem := z | have _ : Clocks := z | have _ : Snuffer := z | have _ : Keeper := z) | clear_value z)
    | apply keep_ite
    | apply countB_keep
    | apply portArrive_keep
    | apply countRemapped_keep
    | apply storeBlock_keep
    | apply holdWrite_keep
    | fail

theorem flushMerges_keep {s : State} {blk : Nat} (h_s : Keep m a s) (hw : ∀ p ∈ ([.clocks, .memory, .bytes, .fabric, .ranges, .floss, .snuffer, .darner] : List StatePart), p ∈ m.parts) (he : ∀ e ∈ ([0x500001, 0x500002, 0x500003, 0x500004, 0x500006, 0x500007, 0x500008, 0x510002, 0x600001] : List Nat), m.entry e) : Keep m a (flushMerges s blk) := by
  unfold flushMerges
  repeat' with_reducible first
    | assumption
    | (refine partsSub ?_ hw; decide)
    | (refine entriesSub ?_ he; decide)
    | exact he _ (by decide)
    | (intro _)
    | (simp -zeta -zetaDelta only [keep_mk]; apply keepL_of; any_goals first | exact .inr rfl | exact .inl (hw _ (by decide)) | exact .inr (fun x => x) | exact .inr (fun _ => rfl))
    | refine Or.inl ⟨hw _ (by decide), ?_⟩
    | apply canonical_filter
    | apply canonical_putBytes
    | apply canonical_foldl_cput
    | apply canonical_nil
    | exact Canon.mem (Keep.canon ‹_›)
    | (fail_if_no_progress extract_lets +onlyGivenNames z; first | (have hz : Keep m a z := ?_; (on_goal 2 => subst z); clear_value z) | (have hz : KeepP m a z := ?_; (on_goal 2 => subst z); clear_value z) | (have hz : KeepO m a z := ?_; (on_goal 2 => subst z); clear_value z) | (have hz : KeepF m a z := ?_; (on_goal 2 => subst z); clear_value z) | (have hz : KeepPO m a z := ?_; (on_goal 2 => subst z); clear_value z) | (first | have _ : Mem := z | have _ : Clocks := z | have _ : Snuffer := z | have _ : Keeper := z) | clear_value z)
    | apply keep_ite
    | apply performMerge_keep
    | (refine keep_foldl ?_ (fun _ _ _ => ?_))
    | fail

theorem writeBlock_keep {s : State} {who : Who} {a' : Nat} {bs : List Byte} {poison : Bool} (h_s : Keep m a s) (hw : ∀ p ∈ ([.clocks, .memory, .bytes, .fabric, .ranges, .floss, .snuffer, .darner] : List StatePart), p ∈ m.parts) (he : ∀ e ∈ ([0x500001, 0x500002, 0x500003, 0x500004, 0x500006, 0x500007, 0x500008, 0x510002, 0x600001, 0x600003] : List Nat), m.entry e) : Keep m a (writeBlock s who a' bs poison) := by
  unfold writeBlock
  repeat' with_reducible first
    | assumption
    | (refine partsSub ?_ hw; decide)
    | (refine entriesSub ?_ he; decide)
    | exact he _ (by decide)
    | (intro _)
    | (fail_if_no_progress extract_lets +onlyGivenNames z; first | (have hz : Keep m a z := ?_; (on_goal 2 => subst z); clear_value z) | (have hz : KeepP m a z := ?_; (on_goal 2 => subst z); clear_value z) | (have hz : KeepO m a z := ?_; (on_goal 2 => subst z); clear_value z) | (have hz : KeepF m a z := ?_; (on_goal 2 => subst z); clear_value z) | (have hz : KeepPO m a z := ?_; (on_goal 2 => subst z); clear_value z) | (first | have _ : Mem := z | have _ : Clocks := z | have _ : Snuffer := z | have _ : Keeper := z) | clear_value z)
    | apply keep_ite
    | apply countB_keep
    | apply selCount_keep
    | apply portArrive_keep
    | apply clearResv_keep
    | apply countRemapped_keep
    | apply storeBlock_keep
    | apply holdWrite_keep
    | apply flushMerges_keep
    | fail

theorem storeCarried_keep {s : State} {a' : Nat} {bs : List Byte} {check : Nat} (h_s : Keep m a s) (hw : ∀ p ∈ ([.memory, .bytes] : List StatePart), p ∈ m.parts) : Keep m a (storeCarried s a' bs check) := by
  unfold storeCarried
  repeat' with_reducible first
    | assumption
    | (refine partsSub ?_ hw; decide)
    | (intro _)
    | (fail_if_no_progress extract_lets +onlyGivenNames z; first | (have hz : Keep m a z := ?_; (on_goal 2 => subst z); clear_value z) | (have hz : KeepP m a z := ?_; (on_goal 2 => subst z); clear_value z) | (have hz : KeepO m a z := ?_; (on_goal 2 => subst z); clear_value z) | (have hz : KeepF m a z := ?_; (on_goal 2 => subst z); clear_value z) | (have hz : KeepPO m a z := ?_; (on_goal 2 => subst z); clear_value z) | (first | have _ : Mem := z | have _ : Clocks := z | have _ : Snuffer := z | have _ : Keeper := z) | clear_value z)
    | apply keep_ite
    | apply hbmPut_keep
    | apply putCheck_keep
    | apply clearPlanted_keep
    | apply applyInjection_keep
    | fail

theorem landHeld_keep {s : State} {m' : Merge} (h_s : Keep m a s) (hw : ∀ p ∈ ([.clocks, .memory, .bytes, .fabric, .ranges, .snuffer] : List StatePart), p ∈ m.parts) (he : ∀ e ∈ ([0x500001, 0x500002, 0x500003, 0x500004, 0x500006, 0x500007, 0x500008, 0x510002, 0x600001] : List Nat), m.entry e) : Keep m a (landHeld s m') := by
  unfold landHeld
  repeat' with_reducible first
    | assumption
    | (refine partsSub ?_ hw; decide)
    | (refine entriesSub ?_ he; decide)
    | exact he _ (by decide)
    | (intro _)
    | (simp -zeta -zetaDelta only [keep_mk]; apply keepL_of; any_goals first | exact .inr rfl | exact .inl (hw _ (by decide)) | exact .inr (fun x => x) | exact .inr (fun _ => rfl))
    | (fail_if_no_progress extract_lets +onlyGivenNames z; first | (have hz : Keep m a z := ?_; (on_goal 2 => subst z); clear_value z) | (have hz : KeepP m a z := ?_; (on_goal 2 => subst z); clear_value z) | (have hz : KeepO m a z := ?_; (on_goal 2 => subst z); clear_value z) | (have hz : KeepF m a z := ?_; (on_goal 2 => subst z); clear_value z) | (have hz : KeepPO m a z := ?_; (on_goal 2 => subst z); clear_value z) | (first | have _ : Mem := z | have _ : Clocks := z | have _ : Snuffer := z | have _ : Keeper := z) | clear_value z)
    | apply keep_ite
    | apply clearResv_keep
    | apply storeBlock_keep
    | apply storeCarried_keep
    | split
    | fail

theorem readBlock_keep {s : State} {who : Who} {a' n access : Nat} (h_s : Keep m a s) (hw : ∀ p ∈ ([.clocks, .memory, .bytes, .fabric, .ranges, .floss, .snuffer, .darner] : List StatePart), p ∈ m.parts) (he : ∀ e ∈ ([0x500001, 0x500002, 0x500003, 0x500004, 0x500006, 0x500007, 0x500008, 0x510002, 0x600001, 0x600003] : List Nat), m.entry e) : KeepP m a (readBlock s who a' n access) := by
  unfold readBlock
  repeat' with_reducible first
    | assumption
    | (refine partsSub ?_ hw; decide)
    | (refine entriesSub ?_ he; decide)
    | exact he _ (by decide)
    | (intro _)
    | (simp -zeta -zetaDelta only [keep_mk]; apply keepL_of; any_goals first | exact .inr rfl | exact .inl (hw _ (by decide)) | exact .inr (fun x => x) | exact .inr (fun _ => rfl))
    | (fail_if_no_progress extract_lets +onlyGivenNames z; first | (have hz : Keep m a z := ?_; (on_goal 2 => subst z); clear_value z) | (have hz : KeepP m a z := ?_; (on_goal 2 => subst z); clear_value z) | (have hz : KeepO m a z := ?_; (on_goal 2 => subst z); clear_value z) | (have hz : KeepF m a z := ?_; (on_goal 2 => subst z); clear_value z) | (have hz : KeepPO m a z := ?_; (on_goal 2 => subst z); clear_value z) | (first | have _ : Mem := z | have _ : Clocks := z | have _ : Snuffer := z | have _ : Keeper := z) | clear_value z)
    | apply keep_ite
    | simp -zeta -zetaDelta only [keepP_iff]
    | apply keepP_ite
    | apply countQ_keep
    | apply countB_keep
    | apply selCount_keep
    | apply portArrive_keep
    | apply blockFault_keep
    | apply countRemapped_keep
    | apply flushMerges_keep
    | (apply keep_pairE; assumption)
    | (refine keep_of_pair ?_ ‹_ = (_, _)›)
    | simp -zeta -zetaDelta only [keep_snd]
    | split
    | fail

theorem readRun_keep {s : State} {who : Who} {a' n access : Nat} (h_s : Keep m a s) (hw : ∀ p ∈ ([.clocks, .memory, .bytes, .fabric, .ranges, .floss, .snuffer, .darner] : List StatePart), p ∈ m.parts) (he : ∀ e ∈ ([0x500001, 0x500002, 0x500003, 0x500004, 0x500006, 0x500007, 0x500008, 0x510002, 0x600001, 0x600003] : List Nat), m.entry e) : KeepP m a (readRun s who a' n access) := by
  unfold readRun
  with_reducible apply keepP_ite
  · with_reducible apply keepP_ite
    · exact keepP_foldl h_s fun s x h => readBlock_keep (s := s.2) h (partsSub (by decide) hw) (entriesSub (by decide) he)
    · exact h_s
  · with_reducible apply keepP_ite
    · exact keepP_foldl h_s fun s x h => readLine_keep (s := s.2) h (partsSub (by decide) hw) (entriesSub (by decide) he)
    · with_reducible apply keepP_ite
      · exact countQ_keep (s := s) h_s (entriesSub (by decide) he)
      · exact h_s

theorem writeRun_keep {s : State} {who : Who} {a' : Nat} {bs : List Byte} {poison : Bool} (h_s : Keep m a s) (hw : ∀ p ∈ ([.clocks, .memory, .bytes, .fabric, .ranges, .floss, .snuffer, .darner] : List StatePart), p ∈ m.parts) (he : ∀ e ∈ ([0x500001, 0x500002, 0x500003, 0x500004, 0x500006, 0x500007, 0x500008, 0x510002, 0x600001, 0x600003] : List Nat), m.entry e) : Keep m a (writeRun s who a' bs poison) := by
  unfold writeRun
  repeat' with_reducible first
    | assumption
    | (refine partsSub ?_ hw; decide)
    | (refine entriesSub ?_ he; decide)
    | exact he _ (by decide)
    | (intro _)
    | (fail_if_no_progress extract_lets +onlyGivenNames z; first | (have hz : Keep m a z := ?_; (on_goal 2 => subst z); clear_value z) | (have hz : KeepP m a z := ?_; (on_goal 2 => subst z); clear_value z) | (have hz : KeepO m a z := ?_; (on_goal 2 => subst z); clear_value z) | (have hz : KeepF m a z := ?_; (on_goal 2 => subst z); clear_value z) | (have hz : KeepPO m a z := ?_; (on_goal 2 => subst z); clear_value z) | (first | have _ : Mem := z | have _ : Clocks := z | have _ : Snuffer := z | have _ : Keeper := z) | clear_value z)
    | apply keep_ite
    | simp -zeta -zetaDelta only [keepF_iff]
    | apply keepF_ite
    | apply countQ_keep
    | apply wbs_keep
    | apply writeLine_keep
    | apply writeScratch_keep
    | apply writeBlock_keep
    | (refine keep_foldl ?_ (fun _ _ _ => ?_))
    | fail

theorem wakeLantern_keep {s : State} {l : Nat} (h_s : Keep m a s) (hw : ∀ p ∈ ([.lanterns] : List StatePart), p ∈ m.parts) : KeepO m a (wakeLantern s l) := by
  unfold wakeLantern
  repeat' with_reducible first
    | assumption
    | (refine partsSub ?_ hw; decide)
    | (intro _)
    | (simp -zeta -zetaDelta only [keep_mk]; apply keepL_of; any_goals first | exact .inr rfl | exact .inl (hw _ (by decide)) | exact .inr (fun x => x) | exact .inr (fun _ => rfl))
    | (fail_if_no_progress extract_lets +onlyGivenNames z; first | (have hz : Keep m a z := ?_; (on_goal 2 => subst z); clear_value z) | (have hz : KeepP m a z := ?_; (on_goal 2 => subst z); clear_value z) | (have hz : KeepO m a z := ?_; (on_goal 2 => subst z); clear_value z) | (have hz : KeepF m a z := ?_; (on_goal 2 => subst z); clear_value z) | (have hz : KeepPO m a z := ?_; (on_goal 2 => subst z); clear_value z) | (first | have _ : Mem := z | have _ : Clocks := z | have _ : Snuffer := z | have _ : Keeper := z) | clear_value z)
    | apply keep_ite
    | apply keepO_ok
    | apply keepO_wait
    | apply keepO_fail
    | apply keepO_ite
    | apply modLantern_keep
    | (apply keep_okE; assumption)
    | (apply keep_waitE; assumption)
    | (apply keep_failE; assumption)
    | (refine keep_of_ok ?_ ‹_ = Out.ok _ _›)
    | (refine keep_of_wait ?_ ‹_ = Out.wait _›)
    | (refine keep_of_fail ?_ ‹_ = Out.fail _ _›)
    | apply keep_state
    | (refine keepO_of_some ?_ ‹_ = some _›)
    | split
    | fail

theorem localOpen_keep {s : State} {who : Who} {a' n : Nat} {write own : Bool} (h_s : Keep m a s) (hw : ∀ p ∈ ([.clocks, .lanterns] : List StatePart), p ∈ m.parts) : KeepO m a (localOpen s who a' n write own) := by
  unfold localOpen
  repeat' with_reducible first
    | assumption
    | (refine partsSub ?_ hw; decide)
    | (intro _)
    | (simp -zeta -zetaDelta only [keep_mk]; apply keepL_of; any_goals first | exact .inr rfl | exact .inl (hw _ (by decide)) | exact .inr (fun x => x) | exact .inr (fun _ => rfl))
    | (fail_if_no_progress extract_lets +onlyGivenNames z; first | (have hz : Keep m a z := ?_; (on_goal 2 => subst z); clear_value z) | (have hz : KeepP m a z := ?_; (on_goal 2 => subst z); clear_value z) | (have hz : KeepO m a z := ?_; (on_goal 2 => subst z); clear_value z) | (have hz : KeepF m a z := ?_; (on_goal 2 => subst z); clear_value z) | (have hz : KeepPO m a z := ?_; (on_goal 2 => subst z); clear_value z) | (first | have _ : Mem := z | have _ : Clocks := z | have _ : Snuffer := z | have _ : Keeper := z) | clear_value z)
    | apply keep_ite
    | apply keepO_ok
    | apply keepO_wait
    | apply keepO_fail
    | apply keepO_ite
    | apply needClock_keep
    | apply wakeLantern_keep
    | (refine keepO_andThen ?_ (fun _ _ _ => ?_))
    | (apply keep_okE; assumption)
    | (apply keep_waitE; assumption)
    | (apply keep_failE; assumption)
    | (refine keep_of_ok ?_ ‹_ = Out.ok _ _›)
    | (refine keep_of_wait ?_ ‹_ = Out.wait _›)
    | (refine keep_of_fail ?_ ‹_ = Out.fail _ _›)
    | apply keep_state
    | (refine keepO_of_some ?_ ‹_ = some _›)
    | split
    | fail

theorem localReady_keep {s : State} {who : Who} {a' n : Nat} {write own : Bool} (h_s : Keep m a s) (hw : ∀ p ∈ ([.clocks, .lanterns] : List StatePart), p ∈ m.parts) : KeepO m a (localReady s who a' n write own) := by
  unfold localReady
  repeat' with_reducible first
    | assumption
    | (refine partsSub ?_ hw; decide)
    | (intro _)
    | (fail_if_no_progress extract_lets +onlyGivenNames z; first | (have hz : Keep m a z := ?_; (on_goal 2 => subst z); clear_value z) | (have hz : KeepP m a z := ?_; (on_goal 2 => subst z); clear_value z) | (have hz : KeepO m a z := ?_; (on_goal 2 => subst z); clear_value z) | (have hz : KeepF m a z := ?_; (on_goal 2 => subst z); clear_value z) | (have hz : KeepPO m a z := ?_; (on_goal 2 => subst z); clear_value z) | (first | have _ : Mem := z | have _ : Clocks := z | have _ : Snuffer := z | have _ : Keeper := z) | clear_value z)
    | apply keep_ite
    | apply keepO_ok
    | apply keepO_wait
    | apply keepO_fail
    | apply keepO_ite
    | apply localOpen_keep
    | (refine keepO_andThen ?_ (fun _ _ _ => ?_))
    | fail

theorem crossTo_keep {s : State} {who : Who} {a' b : Option Nat} {n : Nat} (h_s : Keep m a s) (hw : ∀ p ∈ ([.memory, .floss] : List StatePart), p ∈ m.parts) (he : ∀ e ∈ ([0x600001] : List Nat), m.entry e) : Keep m a (crossTo s who a' b n) := by
  unfold crossTo
  repeat' with_reducible first
    | assumption
    | (refine partsSub ?_ hw; decide)
    | (refine entriesSub ?_ he; decide)
    | exact he _ (by decide)
    | (intro _)
    | (simp -zeta -zetaDelta only [keep_mk]; apply keepL_of; any_goals first | exact .inr rfl | exact .inl (hw _ (by decide)) | exact .inr id | exact .inr (fun _ => rfl))
    | refine Or.inl ⟨hw _ (by decide), ?_⟩
    | apply canonical_filter
    | apply canonical_putBytes
    | apply canonical_foldl_cput
    | apply canonical_nil
    | exact Canon.mem (Keep.canon ‹_›)
    | (fail_if_no_progress extract_lets +onlyGivenNames z; first | (have hz : Keep m a z := ?_; (on_goal 2 => subst z); clear_value z) | (have hz : KeepP m a z := ?_; (on_goal 2 => subst z); clear_value z) | (have hz : KeepO m a z := ?_; (on_goal 2 => subst z); clear_value z) | (have hz : KeepF m a z := ?_; (on_goal 2 => subst z); clear_value z) | (have hz : KeepPO m a z := ?_; (on_goal 2 => subst z); clear_value z) | (first | have _ : Mem := z | have _ : Clocks := z | have _ : Snuffer := z | have _ : Keeper := z) | clear_value z)
    | apply keep_ite
    | simp -zeta -zetaDelta only [keepP_iff]
    | apply keepP_ite
    | apply addCell_keep
    | apply portArrive_keep
    | apply hw
    | apply he
    | (refine keep_foldl ?_ (fun _ _ _ => ?_))
    | (refine keepP_foldl ?_ (fun _ _ _ => ?_))
    | (apply keep_pairE; assumption)
    | (refine keep_of_pair ?_ ‹_ = (_, _)›)
    | simp -zeta -zetaDelta only [keep_snd]
    | split
    | fail

end Sys2Proof.Machine
end

