-- ==== Sys2Proof/Laws/KeepFabric.lean ====
section
/-! SUPPORT. What each operation of Machine/Fabric.lean keeps (`Keep`). -/

set_option linter.all false
set_option simprocs false

namespace Sys2Proof.Machine

open Sys2Proof.Safety

variable {m : May} {a : State}

theorem modBank_keep {s : State} {i : Nat} {f : Bank → Bank} (h_s : Keep m a s) (hw : ∀ p ∈ ([.fabric] : List StatePart), p ∈ m.parts) : Keep m a (modBank s i f) := by
  unfold modBank
  repeat' with_reducible first
    | assumption
    | (refine partsSub ?_ hw; decide)
    | (intro _)
    | (simp -zeta -zetaDelta only [keep_mk]; apply keepL_of; any_goals first | exact .inr rfl | exact .inl (hw _ (by decide)) | exact .inr id | exact .inr (fun _ => rfl))
    | fail

theorem sendSeq_keep {s : State} {e ty key : Nat} {enc : Bool} {first : Nat} {body : List Byte} (h_s : Keep m a s) (hw : ∀ p ∈ ([.fabric] : List StatePart), p ∈ m.parts) (he : ∀ e ∈ ([0x600001] : List Nat), m.entry e) : Keep m a (sendSeq s e ty key enc first body) := by
  unfold sendSeq
  repeat' with_reducible first
    | assumption
    | (refine partsSub ?_ hw; decide)
    | (refine entriesSub ?_ he; decide)
    | exact he _ (by decide)
    | (intro _)
    | (simp -zeta -zetaDelta only [keep_mk]; apply keepL_of; any_goals first | exact .inr rfl | exact .inl (hw _ (by decide)) | exact .inr (fun x => x) | exact .inr (fun _ => rfl))
    | (fail_if_no_progress extract_lets +onlyGivenNames z; first | (have hz : Keep m a z := ?_; (on_goal 2 => subst z); clear_value z) | (have hz : KeepP m a z := ?_; (on_goal 2 => subst z); clear_value z) | (have hz : KeepO m a z := ?_; (on_goal 2 => subst z); clear_value z) | (have hz : KeepF m a z := ?_; (on_goal 2 => subst z); clear_value z) | (have hz : KeepPO m a z := ?_; (on_goal 2 => subst z); clear_value z) | (first | have _ : Mem := z | have _ : Clocks := z | have _ : Snuffer := z | have _ : Keeper := z) | clear_value z)
    | apply keep_ite
    | apply countE_keep
    | apply modEyelet_keep
    | fail

theorem sendCtrl_keep {s : State} {e : Nat} (h_s : Keep m a s) (hw : ∀ p ∈ ([.fabric] : List StatePart), p ∈ m.parts) (he : ∀ e ∈ ([0x600001] : List Nat), m.entry e) : Keep m a (sendCtrl s e) := by
  unfold sendCtrl
  repeat' with_reducible first
    | assumption
    | (refine partsSub ?_ hw; decide)
    | (refine entriesSub ?_ he; decide)
    | exact he _ (by decide)
    | (intro _)
    | (simp -zeta -zetaDelta only [keep_mk]; apply keepL_of; any_goals first | exact .inr rfl | exact .inl (hw _ (by decide)) | exact .inr (fun x => x) | exact .inr (fun _ => rfl))
    | (fail_if_no_progress extract_lets +onlyGivenNames z; first | (have hz : Keep m a z := ?_; (on_goal 2 => subst z); clear_value z) | (have hz : KeepP m a z := ?_; (on_goal 2 => subst z); clear_value z) | (have hz : KeepO m a z := ?_; (on_goal 2 => subst z); clear_value z) | (have hz : KeepF m a z := ?_; (on_goal 2 => subst z); clear_value z) | (have hz : KeepPO m a z := ?_; (on_goal 2 => subst z); clear_value z) | (first | have _ : Mem := z | have _ : Clocks := z | have _ : Snuffer := z | have _ : Keeper := z) | clear_value z)
    | apply keep_ite
    | simp -zeta -zetaDelta only [keepP_iff]
    | apply keepP_ite
    | apply freeBytes_keep
    | apply modEyelet_keep
    | apply sendSeq_keep
    | (apply keep_pairE; assumption)
    | fail

theorem sendDue_keep {y0 : Nat} {y1 : State} {y2 : Nat} (h_y1 : Keep m a y1) (hw : ∀ p ∈ ([.fabric] : List StatePart), p ∈ m.parts) (he : ∀ e ∈ ([0x600001] : List Nat), m.entry e) : Keep m a (sendDue y0 y1 y2) := by
  induction y0 generalizing y1 y2 with
  | zero =>
    unfold sendDue
    repeat' with_reducible first
      | assumption
      | apply ih
      | (refine partsSub ?_ hw; decide)
      | (refine entriesSub ?_ he; decide)
      | exact he _ (by decide)
      | (intro _)
      | (simp -zeta -zetaDelta only [keep_mk]; apply keepL_of; any_goals first | exact .inr rfl | exact .inl (hw _ (by decide)) | exact .inr (fun x => x) | exact .inr (fun _ => rfl))
      | (fail_if_no_progress extract_lets +onlyGivenNames z; first | (have hz : Keep m a z := ?_; (on_goal 2 => subst z); clear_value z) | (have hz : KeepP m a z := ?_; (on_goal 2 => subst z); clear_value z) | (have hz : KeepO m a z := ?_; (on_goal 2 => subst z); clear_value z) | (have hz : KeepF m a z := ?_; (on_goal 2 => subst z); clear_value z) | (have hz : KeepPO m a z := ?_; (on_goal 2 => subst z); clear_value z) | (first | have _ : Mem := z | have _ : Clocks := z | have _ : Snuffer := z | have _ : Keeper := z) | clear_value z)
      | apply keep_ite
      | simp -zeta -zetaDelta only [keepP_iff]
      | apply keepP_ite
      | apply modEyelet_keep
      | apply sendCtrl_keep
      | (apply keep_pairE; assumption)
      | (refine keep_of_pair ?_ ‹_ = (_, _)›)
      | simp -zeta -zetaDelta only [keep_snd]
      | split
      | fail
  | succ n ih =>
    unfold sendDue
    repeat' with_reducible first
      | assumption
      | apply ih
      | (refine partsSub ?_ hw; decide)
      | (refine entriesSub ?_ he; decide)
      | exact he _ (by decide)
      | (intro _)
      | (simp -zeta -zetaDelta only [keep_mk]; apply keepL_of; any_goals first | exact .inr rfl | exact .inl (hw _ (by decide)) | exact .inr (fun x => x) | exact .inr (fun _ => rfl))
      | (fail_if_no_progress extract_lets +onlyGivenNames z; first | (have hz : Keep m a z := ?_; (on_goal 2 => subst z); clear_value z) | (have hz : KeepP m a z := ?_; (on_goal 2 => subst z); clear_value z) | (have hz : KeepO m a z := ?_; (on_goal 2 => subst z); clear_value z) | (have hz : KeepF m a z := ?_; (on_goal 2 => subst z); clear_value z) | (have hz : KeepPO m a z := ?_; (on_goal 2 => subst z); clear_value z) | (first | have _ : Mem := z | have _ : Clocks := z | have _ : Snuffer := z | have _ : Keeper := z) | clear_value z)
      | apply keep_ite
      | simp -zeta -zetaDelta only [keepP_iff]
      | apply keepP_ite
      | apply modEyelet_keep
      | apply sendCtrl_keep
      | (apply keep_pairE; assumption)
      | (refine keep_of_pair ?_ ‹_ = (_, _)›)
      | simp -zeta -zetaDelta only [keep_snd]
      | split
      | fail

theorem sendBare_keep {s : State} {e ty : Nat} (h_s : Keep m a s) (hw : ∀ p ∈ ([.fabric] : List StatePart), p ∈ m.parts) (he : ∀ e ∈ ([0x600001] : List Nat), m.entry e) : Keep m a (sendBare s e ty) := by
  unfold sendBare
  repeat' with_reducible first
    | assumption
    | (refine partsSub ?_ hw; decide)
    | (refine entriesSub ?_ he; decide)
    | exact he _ (by decide)
    | (intro _)
    | (simp -zeta -zetaDelta only [keep_mk]; apply keepL_of; any_goals first | exact .inr rfl | exact .inl (hw _ (by decide)) | exact .inr id | exact .inr (fun _ => rfl))
    | (fail_if_no_progress extract_lets +onlyGivenNames z; first | (have hz : Keep m a z := ?_; (on_goal 2 => subst z); clear_value z) | (have hz : KeepP m a z := ?_; (on_goal 2 => subst z); clear_value z) | (have hz : KeepO m a z := ?_; (on_goal 2 => subst z); clear_value z) | (have hz : KeepF m a z := ?_; (on_goal 2 => subst z); clear_value z) | (have hz : KeepPO m a z := ?_; (on_goal 2 => subst z); clear_value z) | (first | have _ : Mem := z | have _ : Clocks := z | have _ : Snuffer := z | have _ : Keeper := z) | clear_value z)
    | apply keep_ite
    | apply countE_keep
    | apply modEyelet_keep
    | fail

theorem sendFlits_keep {s : State} {e : Nat} {msg : List Byte} (h_s : Keep m a s) (hw : ∀ p ∈ ([.fabric] : List StatePart), p ∈ m.parts) (he : ∀ e ∈ ([0x600001] : List Nat), m.entry e) : Keep m a (sendFlits s e msg) := by
  unfold sendFlits
  repeat' with_reducible first
    | assumption
    | (refine partsSub ?_ hw; decide)
    | (refine entriesSub ?_ he; decide)
    | exact he _ (by decide)
    | (intro _)
    | (fail_if_no_progress extract_lets +onlyGivenNames z; first | (have hz : Keep m a z := ?_; (on_goal 2 => subst z); clear_value z) | (have hz : KeepP m a z := ?_; (on_goal 2 => subst z); clear_value z) | (have hz : KeepO m a z := ?_; (on_goal 2 => subst z); clear_value z) | (have hz : KeepF m a z := ?_; (on_goal 2 => subst z); clear_value z) | (have hz : KeepPO m a z := ?_; (on_goal 2 => subst z); clear_value z) | (first | have _ : Mem := z | have _ : Clocks := z | have _ : Snuffer := z | have _ : Keeper := z) | clear_value z)
    | apply keep_ite
    | apply sendSeq_keep
    | apply hw
    | apply he
    | (refine keep_foldl ?_ (fun _ _ _ => ?_))
    | fail

theorem pumpEye_keep {s : State} {e : Nat} (h_s : Keep m a s) (hw : ∀ p ∈ ([.fabric] : List StatePart), p ∈ m.parts) (he : ∀ e ∈ ([0x600001] : List Nat), m.entry e) : Keep m a (pumpEye s e) := by
  unfold pumpEye
  generalize (eyelet s e).txq.length = n
  have h_s : Keep m a (if eyeUp s e then sendDue (eyelet s e).ctrlDue s e else s) := keep_ite (sendDue_keep h_s (partsSub (by decide) hw) (entriesSub (by decide) he)) h_s
  generalize (if eyeUp s e then sendDue (eyelet s e).ctrlDue s e else s) = s at h_s ⊢
  induction n generalizing s with
  | zero => exact h_s
  | succ n ih =>
    unfold pumpEye.go
    repeat' with_reducible first
      | assumption
      | (refine partsSub ?_ hw; decide)
      | (refine entriesSub ?_ he; decide)
      | apply ih
      | apply sendFlits_keep
      | apply modEyelet_keep
      | split

theorem sendMsg_keep {s : State} {e : Nat} {m' : TxMsg} (h_s : Keep m a s) (hw : ∀ p ∈ ([.fabric] : List StatePart), p ∈ m.parts) (he : ∀ e ∈ ([0x600001] : List Nat), m.entry e) : Keep m a (sendMsg s e m') := by
  unfold sendMsg
  repeat' with_reducible first
    | assumption
    | (refine partsSub ?_ hw; decide)
    | (refine entriesSub ?_ he; decide)
    | exact he _ (by decide)
    | (intro _)
    | (simp -zeta -zetaDelta only [keep_mk]; apply keepL_of; any_goals first | exact .inr rfl | exact .inl (hw _ (by decide)) | exact .inr id | exact .inr (fun _ => rfl))
    | (fail_if_no_progress extract_lets +onlyGivenNames z; first | (have hz : Keep m a z := ?_; (on_goal 2 => subst z); clear_value z) | (have hz : KeepP m a z := ?_; (on_goal 2 => subst z); clear_value z) | (have hz : KeepO m a z := ?_; (on_goal 2 => subst z); clear_value z) | (have hz : KeepF m a z := ?_; (on_goal 2 => subst z); clear_value z) | (have hz : KeepPO m a z := ?_; (on_goal 2 => subst z); clear_value z) | (first | have _ : Mem := z | have _ : Clocks := z | have _ : Snuffer := z | have _ : Keeper := z) | clear_value z)
    | apply keep_ite
    | apply countE_keep
    | apply modEyelet_keep
    | apply pumpEye_keep
    | fail

theorem sendAs_keep {s : State} {id : Nat} {who : Who} {h aspace entry msg node addr len row status : Nat} {d : Data} (h_s : Keep m a s) (hw : ∀ p ∈ ([.memory, .fabric, .floss] : List StatePart), p ∈ m.parts) (he : ∀ e ∈ ([0x600001, 0x810008] : List Nat), m.entry e) : KeepO m a (sendAs s id who h aspace entry msg node addr len row status d) := by
  unfold sendAs
  repeat' with_reducible first
    | assumption
    | (refine partsSub ?_ hw; decide)
    | (refine entriesSub ?_ he; decide)
    | exact he _ (by decide)
    | (intro _)
    | (simp -zeta -zetaDelta only [keep_mk]; apply keepL_of; any_goals first | exact .inr rfl | exact .inl (hw _ (by decide)) | exact .inr (fun x => x) | exact .inr (fun _ => rfl))
    | refine Or.inl ⟨hw _ (by decide), ?_⟩
    | apply canonical_filter
    | apply canonical_putBytes
    | apply canonical_foldl_cput
    | apply canonical_nil
    | exact Canon.mem (Keep.canon ‹_›)
    | (fail_if_no_progress extract_lets +onlyGivenNames z; first | (have hz : Keep m a z := ?_; (on_goal 2 => subst z); clear_value z) | (have hz : KeepP m a z := ?_; (on_goal 2 => subst z); clear_value z) | (have hz : KeepO m a z := ?_; (on_goal 2 => subst z); clear_value z) | (have hz : KeepF m a z := ?_; (on_goal 2 => subst z); clear_value z) | (have hz : KeepPO m a z := ?_; (on_goal 2 => subst z); clear_value z) | (first | have _ : Mem := z | have _ : Clocks := z | have _ : Snuffer := z | have _ : Keeper := z) | clear_value z)
    | apply keep_ite
    | apply keepO_ok
    | apply keepO_wait
    | apply keepO_fail
    | apply keepO_ite
    | simp -zeta -zetaDelta only [keepP_iff]
    | apply keepP_ite
    | apply addCell_keep
    | apply countE_keep
    | apply portArrive_keep
    | apply crossTo_keep
    | apply sendMsg_keep
    | (apply keep_okE; assumption)
    | (apply keep_waitE; assumption)
    | (apply keep_failE; assumption)
    | (refine keep_of_ok ?_ ‹_ = Out.ok _ _›)
    | (refine keep_of_wait ?_ ‹_ = Out.wait _›)
    | (refine keep_of_fail ?_ ‹_ = Out.fail _ _›)
    | apply keep_state
    | (refine keepO_of_some ?_ ‹_ = some _›)
    | (apply keep_pairE; assumption)
    | (refine keep_of_pair ?_ ‹_ = (_, _)›)
    | simp -zeta -zetaDelta only [keep_snd]
    | split
    | fail

theorem sendRemote_keep {s : State} {who : Who} {h aspace entry msg node addr len row status : Nat} {d : Data} (h_s : Keep m a s) (hw : ∀ p ∈ ([.memory, .fabric, .floss] : List StatePart), p ∈ m.parts) (he : ∀ e ∈ ([0x600001, 0x810008] : List Nat), m.entry e) : KeepO m a (sendRemote s who h aspace entry msg node addr len row status d) := by
  unfold sendRemote
  repeat' with_reducible first
    | assumption
    | (refine partsSub ?_ hw; decide)
    | (refine entriesSub ?_ he; decide)
    | exact he _ (by decide)
    | (intro _)
    | (fail_if_no_progress extract_lets +onlyGivenNames z; first | (have hz : Keep m a z := ?_; (on_goal 2 => subst z); clear_value z) | (have hz : KeepP m a z := ?_; (on_goal 2 => subst z); clear_value z) | (have hz : KeepO m a z := ?_; (on_goal 2 => subst z); clear_value z) | (have hz : KeepF m a z := ?_; (on_goal 2 => subst z); clear_value z) | (have hz : KeepPO m a z := ?_; (on_goal 2 => subst z); clear_value z) | (first | have _ : Mem := z | have _ : Clocks := z | have _ : Snuffer := z | have _ : Keeper := z) | clear_value z)
    | apply keep_ite
    | apply keepO_ok
    | apply keepO_wait
    | apply keepO_fail
    | apply keepO_ite
    | apply sendAs_keep
    | fail

theorem dropRemote_keep {s : State} {id : Nat} (h_s : Keep m a s) (hw : ∀ p ∈ ([.fabric] : List StatePart), p ∈ m.parts) : Keep m a (dropRemote s id) := by
  unfold dropRemote
  repeat' with_reducible first
    | assumption
    | (refine partsSub ?_ hw; decide)
    | (intro _)
    | (simp -zeta -zetaDelta only [keep_mk]; apply keepL_of; any_goals first | exact .inr rfl | exact .inl (hw _ (by decide)) | exact .inr (fun x => x) | exact .inr (fun _ => rfl))
    | fail

theorem readRemote_keep {s : State} {who : Who} {h aspace entry node addr len row : Nat} (h_s : Keep m a s) (hw : ∀ p ∈ ([.memory, .fabric, .floss] : List StatePart), p ∈ m.parts) (he : ∀ e ∈ ([0x600001, 0x810008] : List Nat), m.entry e) : KeepO m a (readRemote s who h aspace entry node addr len row) := by
  unfold readRemote
  repeat' with_reducible first
    | assumption
    | (refine partsSub ?_ hw; decide)
    | (refine entriesSub ?_ he; decide)
    | exact he _ (by decide)
    | (intro _)
    | (simp -zeta -zetaDelta only [keep_mk]; apply keepL_of; any_goals first | exact .inr rfl | exact .inl (hw _ (by decide)) | exact .inr id | exact .inr (fun _ => rfl))
    | (fail_if_no_progress extract_lets +onlyGivenNames z; first | (have hz : Keep m a z := ?_; (on_goal 2 => subst z); clear_value z) | (have hz : KeepP m a z := ?_; (on_goal 2 => subst z); clear_value z) | (have hz : KeepO m a z := ?_; (on_goal 2 => subst z); clear_value z) | (have hz : KeepF m a z := ?_; (on_goal 2 => subst z); clear_value z) | (have hz : KeepPO m a z := ?_; (on_goal 2 => subst z); clear_value z) | (first | have _ : Mem := z | have _ : Clocks := z | have _ : Snuffer := z | have _ : Keeper := z) | clear_value z)
    | apply keep_ite
    | apply keepO_ok
    | apply keepO_wait
    | apply keepO_fail
    | apply keepO_ite
    | apply sendRemote_keep
    | apply dropRemote_keep
    | apply hw
    | apply he
    | (apply keep_okE; assumption)
    | (apply keep_waitE; assumption)
    | (apply keep_failE; assumption)
    | (refine keep_of_ok ?_ ‹_ = Out.ok _ _›)
    | (refine keep_of_wait ?_ ‹_ = Out.wait _›)
    | (refine keep_of_fail ?_ ‹_ = Out.fail _ _›)
    | apply keep_state
    | (refine keepO_of_some ?_ ‹_ = some _›)
    | split
    | fail

theorem dropPicots_keep {s : State} {mine : Eng → Bool} (h_s : Keep m a s) (hw : ∀ p ∈ ([.fabric] : List StatePart), p ∈ m.parts) : Keep m a (dropPicots s mine) := by
  unfold dropPicots
  repeat' with_reducible first
    | assumption
    | (refine partsSub ?_ hw; decide)
    | (intro _)
    | (simp -zeta -zetaDelta only [keep_mk]; apply keepL_of; any_goals first | exact .inr rfl | exact .inl (hw _ (by decide)) | exact .inr (fun x => x) | exact .inr (fun _ => rfl))
    | fail

theorem dropAnswered_keep {s : State} {eng : Eng} {row : Nat} (h_s : Keep m a s) (hw : ∀ p ∈ ([.fabric] : List StatePart), p ∈ m.parts) : Keep m a (dropAnswered s eng row) := by
  unfold dropAnswered
  repeat' with_reducible first
    | assumption
    | (refine partsSub ?_ hw; decide)
    | (intro _)
    | (simp -zeta -zetaDelta only [keep_mk]; apply keepL_of; any_goals first | exact .inr rfl | exact .inl (hw _ (by decide)) | exact .inr id | exact .inr (fun _ => rfl))
    | fail

theorem dropAnsweredReads_keep {s : State} {eng : Eng} {row : Nat} (h_s : Keep m a s) (hw : ∀ p ∈ ([.fabric] : List StatePart), p ∈ m.parts) : Keep m a (dropAnsweredReads s eng row) := by
  unfold dropAnsweredReads
  repeat' with_reducible first
    | assumption
    | (refine partsSub ?_ hw; decide)
    | (intro _)
    | (simp -zeta -zetaDelta only [keep_mk]; apply keepL_of; any_goals first | exact .inr rfl | exact .inl (hw _ (by decide)) | exact .inr id | exact .inr (fun _ => rfl))
    | fail

theorem dropEng_keep {s : State} {eng : Eng} (h_s : Keep m a s) (hw : ∀ p ∈ ([.fabric] : List StatePart), p ∈ m.parts) : Keep m a (dropEng s eng) := by
  unfold dropEng
  repeat' with_reducible first
    | assumption
    | (refine partsSub ?_ hw; decide)
    | (intro _)
    | (simp -zeta -zetaDelta only [keep_mk]; apply keepL_of; any_goals first | exact .inr rfl | exact .inl (hw _ (by decide)) | exact .inr id | exact .inr (fun _ => rfl))
    | fail

theorem epochCheck_keep {s : State} (h_s : Keep m a s) (hw : ∀ p ∈ ([.fabric] : List StatePart), p ∈ m.parts) : Keep m a (epochCheck s) := by
  unfold epochCheck
  repeat' with_reducible first
    | assumption
    | (refine partsSub ?_ hw; decide)
    | (intro _)
    | (simp -zeta -zetaDelta only [keep_mk]; apply keepL_of; any_goals first | exact .inr rfl | exact .inl (hw _ (by decide)) | exact .inr (fun x => x) | exact .inr (fun _ => rfl))
    | (fail_if_no_progress extract_lets +onlyGivenNames z; first | (have hz : Keep m a z := ?_; (on_goal 2 => subst z); clear_value z) | (have hz : KeepP m a z := ?_; (on_goal 2 => subst z); clear_value z) | (have hz : KeepO m a z := ?_; (on_goal 2 => subst z); clear_value z) | (have hz : KeepF m a z := ?_; (on_goal 2 => subst z); clear_value z) | (have hz : KeepPO m a z := ?_; (on_goal 2 => subst z); clear_value z) | (first | have _ : Mem := z | have _ : Clocks := z | have _ : Snuffer := z | have _ : Keeper := z) | clear_value z)
    | apply keep_ite
    | split
    | fail

theorem failPicots_keep {s : State} {id : Nat} {st : Status} (h_s : Keep m a s) (hw : ∀ p ∈ ([.fabric] : List StatePart), p ∈ m.parts) : Keep m a (failPicots s id st) := by
  unfold failPicots
  repeat' with_reducible first
    | assumption
    | (refine partsSub ?_ hw; decide)
    | (intro _)
    | (simp -zeta -zetaDelta only [keep_mk]; apply keepL_of; any_goals first | exact .inr rfl | exact .inl (hw _ (by decide)) | exact .inr (fun x => x) | exact .inr (fun _ => rfl))
    | (fail_if_no_progress extract_lets +onlyGivenNames z; first | (have hz : Keep m a z := ?_; (on_goal 2 => subst z); clear_value z) | (have hz : KeepP m a z := ?_; (on_goal 2 => subst z); clear_value z) | (have hz : KeepO m a z := ?_; (on_goal 2 => subst z); clear_value z) | (have hz : KeepF m a z := ?_; (on_goal 2 => subst z); clear_value z) | (have hz : KeepPO m a z := ?_; (on_goal 2 => subst z); clear_value z) | (have hz : ∀ s, Keep m a s → Keep m a (z s) := ?_; (on_goal 2 => (subst z; intros; beta_reduce)); clear_value z) | (have hz : ∀ s x, Keep m a s → Keep m a (z s x) := ?_; (on_goal 2 => (subst z; intros; beta_reduce)); clear_value z) | (have hz : ∀ s x, Keep m a s → KeepO m a (z s x) := ?_; (on_goal 2 => (subst z; intros; beta_reduce)); clear_value z) | (have hz : ∀ x s, Keep m a s → Keep m a (z x s) := ?_; (on_goal 2 => (subst z; intros; beta_reduce)); clear_value z) | (have hz : ∀ s, Keep m a s → KeepO m a (z s) := ?_; (on_goal 2 => (subst z; intros; beta_reduce)); clear_value z) | (have hz : ∀ x, Keep m a (z x) := ?_; (on_goal 2 => (subst z; intros; beta_reduce)); clear_value z) | (have hz : ∀ x y s, Keep m a s → Keep m a (z x y s) := ?_; (on_goal 2 => (subst z; intros; beta_reduce)); clear_value z) | (have hz : ∀ o x, KeepO m a o → KeepOO m a (z o x) := ?_; (on_goal 2 => (subst z; intros; beta_reduce)); clear_value z) | (have hz : ∀ s, Keep m a s → KeepP m a (z s) := ?_; (on_goal 2 => (subst z; intros; beta_reduce)); clear_value z) | (have hz : ∀ x, KeepP m a (z x) := ?_; (on_goal 2 => (subst z; intros; beta_reduce)); clear_value z) | (have hz : ∀ s x y, Keep m a s → Keep m a (z s x y) := ?_; (on_goal 2 => (subst z; intros; beta_reduce)); clear_value z) | (have hz : ∀ s x, Keep m a s → KeepOO m a (z s x) := ?_; (on_goal 2 => (subst z; intros; beta_reduce)); clear_value z) | (have hz : ∀ x o, KeepO m a o → KeepOO m a (z x o) := ?_; (on_goal 2 => (subst z; intros; beta_reduce)); clear_value z) | (have hz : ∀ x y, KeepP m a (z x y) := ?_; (on_goal 2 => (subst z; intros; beta_reduce)); clear_value z) | (have hz : ∀ s x y w, Keep m a s → Keep m a (z s x y w) := ?_; (on_goal 2 => (subst z; intros; beta_reduce)); clear_value z) | (first | have _ : Mem := z | have _ : Clocks := z | have _ : Snuffer := z | have _ : Keeper := z) | clear_value z)
    | fail

theorem markWrote_keep {s : State} {eng : Eng} {p : Nat} (h_s : Keep m a s) (hw : ∀ p ∈ ([.queues] : List StatePart), p ∈ m.parts) : Keep m a (markWrote s eng p) := by
  unfold markWrote
  repeat' with_reducible first
    | assumption
    | (refine partsSub ?_ hw; decide)
    | (intro _)
    | (simp -zeta -zetaDelta only [keep_mk]; apply keepL_of; any_goals first | exact .inr rfl | exact .inl (hw _ (by decide)) | exact .inr (fun x => x) | exact .inr (fun _ => rfl))
    | (fail_if_no_progress extract_lets +onlyGivenNames z; first | (have hz : Keep m a z := ?_; (on_goal 2 => subst z); clear_value z) | (have hz : KeepP m a z := ?_; (on_goal 2 => subst z); clear_value z) | (have hz : KeepO m a z := ?_; (on_goal 2 => subst z); clear_value z) | (have hz : KeepF m a z := ?_; (on_goal 2 => subst z); clear_value z) | (have hz : KeepPO m a z := ?_; (on_goal 2 => subst z); clear_value z) | (first | have _ : Mem := z | have _ : Clocks := z | have _ : Snuffer := z | have _ : Keeper := z) | clear_value z)
    | apply keep_ite
    | apply modQueue_keep
    | split
    | fail

theorem tagStall_keep {s : State} {p : Nat} (h_s : Keep m a s) (he : ∀ e ∈ ([0x600001, 0x810008] : List Nat), m.entry e) : Keep m a (tagStall s p) := by
  unfold tagStall
  repeat' with_reducible first
    | assumption
    | (refine entriesSub ?_ he; decide)
    | exact he _ (by decide)
    | (intro _)
    | (fail_if_no_progress extract_lets +onlyGivenNames z; first | (have hz : Keep m a z := ?_; (on_goal 2 => subst z); clear_value z) | (have hz : KeepP m a z := ?_; (on_goal 2 => subst z); clear_value z) | (have hz : KeepO m a z := ?_; (on_goal 2 => subst z); clear_value z) | (have hz : KeepF m a z := ?_; (on_goal 2 => subst z); clear_value z) | (have hz : KeepPO m a z := ?_; (on_goal 2 => subst z); clear_value z) | (first | have _ : Mem := z | have _ : Clocks := z | have _ : Snuffer := z | have _ : Keeper := z) | clear_value z)
    | apply keep_ite
    | apply addCell_keep
    | apply countP_keep
    | fail

theorem issueConfirm_keep {s : State} {p : Nat} {c : Confirm} (h_s : Keep m a s) (hw : ∀ p ∈ ([.fabric] : List StatePart), p ∈ m.parts) (he : ∀ e ∈ ([0x600001, 0x810008] : List Nat), m.entry e) : Keep m a (issueConfirm s p c) := by
  unfold issueConfirm
  repeat' with_reducible first
    | assumption
    | (refine partsSub ?_ hw; decide)
    | (refine entriesSub ?_ he; decide)
    | exact he _ (by decide)
    | (intro _)
    | (simp -zeta -zetaDelta only [keep_mk]; apply keepL_of; any_goals first | exact .inr rfl | exact .inl (hw _ (by decide)) | exact .inr (fun x => x) | exact .inr (fun _ => rfl))
    | (fail_if_no_progress extract_lets +onlyGivenNames z; first | (have hz : Keep m a z := ?_; (on_goal 2 => subst z); clear_value z) | (have hz : KeepP m a z := ?_; (on_goal 2 => subst z); clear_value z) | (have hz : KeepO m a z := ?_; (on_goal 2 => subst z); clear_value z) | (have hz : KeepF m a z := ?_; (on_goal 2 => subst z); clear_value z) | (have hz : KeepPO m a z := ?_; (on_goal 2 => subst z); clear_value z) | (first | have _ : Mem := z | have _ : Clocks := z | have _ : Snuffer := z | have _ : Keeper := z) | clear_value z)
    | apply keep_ite
    | apply tagStall_keep
    | fail

theorem writeHost_keep {s : State} {who : Who} {a' : Nat} {bs : List Byte} {poison : Bool} (h_s : Keep m a s) (hw : ∀ p ∈ ([.hostBytes, .hostPoison, .queues, .floss] : List StatePart), p ∈ m.parts) (he : ∀ e ∈ ([0x600001] : List Nat), m.entry e) : Keep m a (writeHost s who a' bs poison) := by
  unfold writeHost
  repeat' with_reducible first
    | assumption
    | (refine partsSub ?_ hw; decide)
    | (refine entriesSub ?_ he; decide)
    | exact he _ (by decide)
    | (intro _)
    | (fail_if_no_progress extract_lets +onlyGivenNames z; first | (have hz : Keep m a z := ?_; (on_goal 2 => subst z); clear_value z) | (have hz : KeepP m a z := ?_; (on_goal 2 => subst z); clear_value z) | (have hz : KeepO m a z := ?_; (on_goal 2 => subst z); clear_value z) | (have hz : KeepF m a z := ?_; (on_goal 2 => subst z); clear_value z) | (have hz : KeepPO m a z := ?_; (on_goal 2 => subst z); clear_value z) | (first | have _ : Mem := z | have _ : Clocks := z | have _ : Snuffer := z | have _ : Keeper := z) | clear_value z)
    | apply keep_ite
    | apply countP_keep
    | apply hostPut_keep
    | apply portArriveAs_keep
    | apply markWrote_keep
    | fail

theorem readHost_keep {s : State} {who : Who} {a' n : Nat} (h_s : Keep m a s) (hw : ∀ p ∈ ([.floss] : List StatePart), p ∈ m.parts) (he : ∀ e ∈ ([0x600001] : List Nat), m.entry e) : KeepP m a (readHost s who a' n) := by
  unfold readHost
  repeat' with_reducible first
    | assumption
    | (refine partsSub ?_ hw; decide)
    | (refine entriesSub ?_ he; decide)
    | exact he _ (by decide)
    | (intro _)
    | (fail_if_no_progress extract_lets +onlyGivenNames z; first | (have hz : Keep m a z := ?_; (on_goal 2 => subst z); clear_value z) | (have hz : KeepP m a z := ?_; (on_goal 2 => subst z); clear_value z) | (have hz : KeepO m a z := ?_; (on_goal 2 => subst z); clear_value z) | (have hz : KeepF m a z := ?_; (on_goal 2 => subst z); clear_value z) | (have hz : KeepPO m a z := ?_; (on_goal 2 => subst z); clear_value z) | (first | have _ : Mem := z | have _ : Clocks := z | have _ : Snuffer := z | have _ : Keeper := z) | clear_value z)
    | apply keep_ite
    | simp -zeta -zetaDelta only [keepP_iff]
    | apply keepP_ite
    | apply countP_keep
    | apply hostGet_keep
    | apply portArriveAs_keep
    | (apply keep_pairE; assumption)
    | fail

end Sys2Proof.Machine
end

