-- ==== Sys2Proof/Laws/KeepFences.lean ====
section
/-! SUPPORT. What each operation of Machine/Fences.lean keeps (`Keep`). -/

set_option linter.all false
set_option simprocs false

namespace Sys2Proof.Machine

open Sys2Proof.Safety

variable {m : May} {a : State}

theorem dropWaits_keep {s : State} {l : Nat} (h_s : Keep m a s) (hw : ∀ p ∈ ([.waits] : List StatePart), p ∈ m.parts) : Keep m a (dropWaits s l) := by
  unfold dropWaits
  repeat' with_reducible first
    | assumption
    | (refine partsSub ?_ hw; decide)
    | (intro _)
    | (simp -zeta -zetaDelta only [keep_mk]; apply keepL_of; any_goals first | exact .inr rfl | exact .inl (hw _ (by decide)) | exact .inr (fun x => x) | exact .inr (fun _ => rfl))
    | (fail_if_no_progress extract_lets +onlyGivenNames z; first | (have hz : Keep m a z := ?_; (on_goal 2 => subst z); clear_value z) | (have hz : KeepP m a z := ?_; (on_goal 2 => subst z); clear_value z) | (have hz : KeepO m a z := ?_; (on_goal 2 => subst z); clear_value z) | (have hz : KeepF m a z := ?_; (on_goal 2 => subst z); clear_value z) | (have hz : KeepPO m a z := ?_; (on_goal 2 => subst z); clear_value z) | (have hz : ∀ s, Keep m a s → Keep m a (z s) := ?_; (on_goal 2 => (subst z; intros; beta_reduce)); clear_value z) | (have hz : ∀ s x, Keep m a s → Keep m a (z s x) := ?_; (on_goal 2 => (subst z; intros; beta_reduce)); clear_value z) | (have hz : ∀ s x, Keep m a s → KeepO m a (z s x) := ?_; (on_goal 2 => (subst z; intros; beta_reduce)); clear_value z) | (have hz : ∀ x s, Keep m a s → Keep m a (z x s) := ?_; (on_goal 2 => (subst z; intros; beta_reduce)); clear_value z) | (have hz : ∀ s, Keep m a s → KeepO m a (z s) := ?_; (on_goal 2 => (subst z; intros; beta_reduce)); clear_value z) | (have hz : ∀ x, Keep m a (z x) := ?_; (on_goal 2 => (subst z; intros; beta_reduce)); clear_value z) | (have hz : ∀ x y s, Keep m a s → Keep m a (z x y s) := ?_; (on_goal 2 => (subst z; intros; beta_reduce)); clear_value z) | (have hz : ∀ o x, KeepO m a o → KeepOO m a (z o x) := ?_; (on_goal 2 => (subst z; intros; beta_reduce)); clear_value z) | (have hz : ∀ s, Keep m a s → KeepP m a (z s) := ?_; (on_goal 2 => (subst z; intros; beta_reduce)); clear_value z) | (have hz : ∀ x, KeepP m a (z x) := ?_; (on_goal 2 => (subst z; intros; beta_reduce)); clear_value z) | (have hz : ∀ s x y, Keep m a s → Keep m a (z s x y) := ?_; (on_goal 2 => (subst z; intros; beta_reduce)); clear_value z) | (have hz : ∀ s x, Keep m a s → KeepOO m a (z s x) := ?_; (on_goal 2 => (subst z; intros; beta_reduce)); clear_value z) | (have hz : ∀ x o, KeepO m a o → KeepOO m a (z x o) := ?_; (on_goal 2 => (subst z; intros; beta_reduce)); clear_value z) | (have hz : ∀ x y, KeepP m a (z x y) := ?_; (on_goal 2 => (subst z; intros; beta_reduce)); clear_value z) | (have hz : ∀ s x y w, Keep m a s → Keep m a (z s x y w) := ?_; (on_goal 2 => (subst z; intros; beta_reduce)); clear_value z) | (first | have _ : Mem := z | have _ : Clocks := z | have _ : Snuffer := z | have _ : Keeper := z) | clear_value z)
    | fail

theorem stopLantern_keep {s : State} {l : Nat} {st : Status} (h_s : Keep m a s) (hw : ∀ p ∈ ([.lanterns, .waits] : List StatePart), p ∈ m.parts) : Keep m a (stopLantern s l st) := by
  unfold stopLantern
  repeat' with_reducible first
    | assumption
    | (refine partsSub ?_ hw; decide)
    | (intro _)
    | (simp -zeta -zetaDelta only [keep_mk]; apply keepL_of; any_goals first | exact .inr rfl | exact .inl (hw _ (by decide)) | exact .inr (fun x => x) | exact .inr (fun _ => rfl))
    | (fail_if_no_progress extract_lets +onlyGivenNames z; first | (have hz : Keep m a z := ?_; (on_goal 2 => subst z); clear_value z) | (have hz : KeepP m a z := ?_; (on_goal 2 => subst z); clear_value z) | (have hz : KeepO m a z := ?_; (on_goal 2 => subst z); clear_value z) | (have hz : KeepF m a z := ?_; (on_goal 2 => subst z); clear_value z) | (have hz : KeepPO m a z := ?_; (on_goal 2 => subst z); clear_value z) | (first | have _ : Mem := z | have _ : Clocks := z | have _ : Snuffer := z | have _ : Keeper := z) | clear_value z)
    | apply keep_ite
    | simp -zeta -zetaDelta only [keepP_iff]
    | apply keepP_ite
    | apply modLantern_keep
    | apply dropWaits_keep
    | fail

theorem modFlight_keep {s : State} {q e : Nat} {f : Flight → Flight} (h_s : Keep m a s) (hw : ∀ p ∈ ([.queues] : List StatePart), p ∈ m.parts) : Keep m a (modFlight s q e f) := by
  unfold modFlight
  repeat' with_reducible first
    | assumption
    | (refine partsSub ?_ hw; decide)
    | (intro _)
    | (simp -zeta -zetaDelta only [keep_mk]; apply keepL_of; any_goals first | exact .inr rfl | exact .inl (hw _ (by decide)) | exact .inr (fun x => x) | exact .inr (fun _ => rfl))
    | (fail_if_no_progress extract_lets +onlyGivenNames z; first | (have hz : Keep m a z := ?_; (on_goal 2 => subst z); clear_value z) | (have hz : KeepP m a z := ?_; (on_goal 2 => subst z); clear_value z) | (have hz : KeepO m a z := ?_; (on_goal 2 => subst z); clear_value z) | (have hz : KeepF m a z := ?_; (on_goal 2 => subst z); clear_value z) | (have hz : KeepPO m a z := ?_; (on_goal 2 => subst z); clear_value z) | (first | have _ : Mem := z | have _ : Clocks := z | have _ : Snuffer := z | have _ : Keeper := z) | clear_value z)
    | apply keep_ite
    | apply modQueue_keep
    | fail

theorem unlistStitch_keep {s : State} {q e : Nat} (h_s : Keep m a s) (hw : ∀ p ∈ ([.lanterns, .queues, .contexts] : List StatePart), p ∈ m.parts) : Keep m a (unlistStitch s q e) := by
  unfold unlistStitch
  repeat' with_reducible first
    | assumption
    | (refine partsSub ?_ hw; decide)
    | (intro _)
    | (simp -zeta -zetaDelta only [keep_mk]; apply keepL_of; any_goals first | exact .inr rfl | exact .inl (hw _ (by decide)) | exact .inr (fun x => x) | exact .inr (fun _ => rfl))
    | (fail_if_no_progress extract_lets +onlyGivenNames z; first | (have hz : Keep m a z := ?_; (on_goal 2 => subst z); clear_value z) | (have hz : KeepP m a z := ?_; (on_goal 2 => subst z); clear_value z) | (have hz : KeepO m a z := ?_; (on_goal 2 => subst z); clear_value z) | (have hz : KeepF m a z := ?_; (on_goal 2 => subst z); clear_value z) | (have hz : KeepPO m a z := ?_; (on_goal 2 => subst z); clear_value z) | (have hz : ∀ s, Keep m a s → Keep m a (z s) := ?_; (on_goal 2 => (subst z; intros; beta_reduce)); clear_value z) | (have hz : ∀ s x, Keep m a s → Keep m a (z s x) := ?_; (on_goal 2 => (subst z; intros; beta_reduce)); clear_value z) | (have hz : ∀ s x, Keep m a s → KeepO m a (z s x) := ?_; (on_goal 2 => (subst z; intros; beta_reduce)); clear_value z) | (have hz : ∀ x s, Keep m a s → Keep m a (z x s) := ?_; (on_goal 2 => (subst z; intros; beta_reduce)); clear_value z) | (have hz : ∀ s, Keep m a s → KeepO m a (z s) := ?_; (on_goal 2 => (subst z; intros; beta_reduce)); clear_value z) | (have hz : ∀ x, Keep m a (z x) := ?_; (on_goal 2 => (subst z; intros; beta_reduce)); clear_value z) | (have hz : ∀ x y s, Keep m a s → Keep m a (z x y s) := ?_; (on_goal 2 => (subst z; intros; beta_reduce)); clear_value z) | (have hz : ∀ o x, KeepO m a o → KeepOO m a (z o x) := ?_; (on_goal 2 => (subst z; intros; beta_reduce)); clear_value z) | (have hz : ∀ s, Keep m a s → KeepP m a (z s) := ?_; (on_goal 2 => (subst z; intros; beta_reduce)); clear_value z) | (have hz : ∀ x, KeepP m a (z x) := ?_; (on_goal 2 => (subst z; intros; beta_reduce)); clear_value z) | (have hz : ∀ s x y, Keep m a s → Keep m a (z s x y) := ?_; (on_goal 2 => (subst z; intros; beta_reduce)); clear_value z) | (have hz : ∀ s x, Keep m a s → KeepOO m a (z s x) := ?_; (on_goal 2 => (subst z; intros; beta_reduce)); clear_value z) | (have hz : ∀ x o, KeepO m a o → KeepOO m a (z x o) := ?_; (on_goal 2 => (subst z; intros; beta_reduce)); clear_value z) | (have hz : ∀ x y, KeepP m a (z x y) := ?_; (on_goal 2 => (subst z; intros; beta_reduce)); clear_value z) | (have hz : ∀ s x y w, Keep m a s → Keep m a (z s x y w) := ?_; (on_goal 2 => (subst z; intros; beta_reduce)); clear_value z) | (first | have _ : Mem := z | have _ : Clocks := z | have _ : Snuffer := z | have _ : Keeper := z) | clear_value z)
    | apply hz
    | apply keep_ite
    | apply modFlight_keep
    | fail

theorem stopStitch_keep {s : State} {q e : Nat} (h_s : Keep m a s) (hw : ∀ p ∈ ([.lanterns, .queues, .contexts, .waits] : List StatePart), p ∈ m.parts) : Keep m a (stopStitch s q e) := by
  unfold stopStitch
  repeat' with_reducible first
    | assumption
    | (refine partsSub ?_ hw; decide)
    | (intro _)
    | (fail_if_no_progress extract_lets +onlyGivenNames z; first | (have hz : Keep m a z := ?_; (on_goal 2 => subst z); clear_value z) | (have hz : KeepP m a z := ?_; (on_goal 2 => subst z); clear_value z) | (have hz : KeepO m a z := ?_; (on_goal 2 => subst z); clear_value z) | (have hz : KeepF m a z := ?_; (on_goal 2 => subst z); clear_value z) | (have hz : KeepPO m a z := ?_; (on_goal 2 => subst z); clear_value z) | (first | have _ : Mem := z | have _ : Clocks := z | have _ : Snuffer := z | have _ : Keeper := z) | clear_value z)
    | apply keep_ite
    | apply keepO_ok
    | apply keepO_wait
    | apply keepO_fail
    | apply keepO_ite
    | apply stopLantern_keep
    | apply unlistStitch_keep
    | apply hw
    | (refine keep_foldl ?_ (fun _ _ _ => ?_))
    | fail

theorem endStrand_keep {s : State} {l : Nat} {st : Status} (h_s : Keep m a s) (hw : ∀ p ∈ ([.lanterns, .queues, .contexts, .waits] : List StatePart), p ∈ m.parts) : Keep m a (endStrand s l st) := by
  unfold endStrand
  repeat' with_reducible first
    | assumption
    | (refine partsSub ?_ hw; decide)
    | (intro _)
    | (simp -zeta -zetaDelta only [keep_mk]; apply keepL_of; any_goals first | exact .inr rfl | exact .inl (hw _ (by decide)) | exact .inr (fun x => x) | exact .inr (fun _ => rfl))
    | (fail_if_no_progress extract_lets +onlyGivenNames z; first | (have hz : Keep m a z := ?_; (on_goal 2 => subst z); clear_value z) | (have hz : KeepP m a z := ?_; (on_goal 2 => subst z); clear_value z) | (have hz : KeepO m a z := ?_; (on_goal 2 => subst z); clear_value z) | (have hz : KeepF m a z := ?_; (on_goal 2 => subst z); clear_value z) | (have hz : KeepPO m a z := ?_; (on_goal 2 => subst z); clear_value z) | (first | have _ : Mem := z | have _ : Clocks := z | have _ : Snuffer := z | have _ : Keeper := z) | clear_value z)
    | apply keep_ite
    | apply modLantern_keep
    | apply stopLantern_keep
    | apply stopStitch_keep
    | split
    | fail

theorem stall_keep {s : State} {row : Nat} (h_s : Keep m a s) (he : ∀ e ∈ ([0x810008] : List Nat), m.entry e) : Keep m a (stall s row) := by
  unfold stall
  repeat' with_reducible first
    | assumption
    | (refine entriesSub ?_ he; decide)
    | exact he _ (by decide)
    | (intro _)
    | (fail_if_no_progress extract_lets +onlyGivenNames z; first | (have hz : Keep m a z := ?_; (on_goal 2 => subst z); clear_value z) | (have hz : KeepP m a z := ?_; (on_goal 2 => subst z); clear_value z) | (have hz : KeepO m a z := ?_; (on_goal 2 => subst z); clear_value z) | (have hz : KeepF m a z := ?_; (on_goal 2 => subst z); clear_value z) | (have hz : KeepPO m a z := ?_; (on_goal 2 => subst z); clear_value z) | (first | have _ : Mem := z | have _ : Clocks := z | have _ : Snuffer := z | have _ : Keeper := z) | clear_value z)
    | apply keep_ite
    | apply addCell_keep
    | fail

theorem admissible_keep {s : State} {q : Nat} {ws : List Word} (h_s : Keep m a s) (he : ∀ e ∈ ([0x810008] : List Nat), m.entry e) : KeepP m a (admissible s q ws) := by
  unfold admissible
  repeat' with_reducible first
    | assumption
    | (refine entriesSub ?_ he; decide)
    | exact he _ (by decide)
    | (intro _)
    | (simp -zeta -zetaDelta only [keep_mk]; apply keepL_of; any_goals first | exact .inr rfl | exact .inl (hw _ (by decide)) | exact .inr (fun x => x) | exact .inr (fun _ => rfl))
    | (fail_if_no_progress extract_lets +onlyGivenNames z; first | (have hz : Keep m a z := ?_; (on_goal 2 => subst z); clear_value z) | (have hz : KeepP m a z := ?_; (on_goal 2 => subst z); clear_value z) | (have hz : KeepO m a z := ?_; (on_goal 2 => subst z); clear_value z) | (have hz : KeepF m a z := ?_; (on_goal 2 => subst z); clear_value z) | (have hz : KeepPO m a z := ?_; (on_goal 2 => subst z); clear_value z) | (first | have _ : Mem := z | have _ : Clocks := z | have _ : Snuffer := z | have _ : Keeper := z) | clear_value z)
    | apply keep_ite
    | simp -zeta -zetaDelta only [keepP_iff]
    | apply keepP_ite
    | apply stall_keep
    | (apply keep_pairE; assumption)
    | (refine keep_of_pair ?_ ‹_ = (_, _)›)
    | simp -zeta -zetaDelta only [keep_snd]
    | split
    | fail

theorem raiseV_keep {s : State} {c : Nat} (h_s : Keep m a s) (hw : ∀ p ∈ ([.contexts] : List StatePart), p ∈ m.parts) : Keep m a (raiseV s c) := by
  unfold raiseV
  repeat' with_reducible first
    | assumption
    | (refine partsSub ?_ hw; decide)
    | (intro _)
    | (simp -zeta -zetaDelta only [keep_mk]; apply keepL_of; any_goals first | exact .inr rfl | exact .inl (hw _ (by decide)) | exact .inr (fun x => x) | exact .inr (fun _ => rfl))
    | (fail_if_no_progress extract_lets +onlyGivenNames z; first | (have hz : Keep m a z := ?_; (on_goal 2 => subst z); clear_value z) | (have hz : KeepP m a z := ?_; (on_goal 2 => subst z); clear_value z) | (have hz : KeepO m a z := ?_; (on_goal 2 => subst z); clear_value z) | (have hz : KeepF m a z := ?_; (on_goal 2 => subst z); clear_value z) | (have hz : KeepPO m a z := ?_; (on_goal 2 => subst z); clear_value z) | (first | have _ : Mem := z | have _ : Clocks := z | have _ : Snuffer := z | have _ : Keeper := z) | clear_value z)
    | apply keep_ite
    | apply modContext_keep
    | apply hw
    | (refine keep_foldl ?_ (fun _ _ _ => ?_))
    | split
    | fail

theorem showActivity_keep {s : State} {c : Nat} (h_s : Keep m a s) (hw : ∀ p ∈ ([.contexts] : List StatePart), p ∈ m.parts) (he : ∀ e ∈ ([0x800003] : List Nat), m.entry e) : Keep m a (showActivity s c) := by
  unfold showActivity
  repeat' with_reducible first
    | assumption
    | (refine partsSub ?_ hw; decide)
    | (refine entriesSub ?_ he; decide)
    | exact he _ (by decide)
    | (intro _)
    | (simp -zeta -zetaDelta only [keep_mk]; apply keepL_of; any_goals first | exact .inr rfl | exact .inl (hw _ (by decide)) | exact .inr (fun x => x) | exact .inr (fun _ => rfl))
    | (fail_if_no_progress extract_lets +onlyGivenNames z; first | (have hz : Keep m a z := ?_; (on_goal 2 => subst z); clear_value z) | (have hz : KeepP m a z := ?_; (on_goal 2 => subst z); clear_value z) | (have hz : KeepO m a z := ?_; (on_goal 2 => subst z); clear_value z) | (have hz : KeepF m a z := ?_; (on_goal 2 => subst z); clear_value z) | (have hz : KeepPO m a z := ?_; (on_goal 2 => subst z); clear_value z) | (first | have _ : Mem := z | have _ : Clocks := z | have _ : Snuffer := z | have _ : Keeper := z) | clear_value z)
    | apply keep_ite
    | apply setRegFld_keep
    | apply modContext_keep
    | apply raiseV_keep
    | fail

theorem showHoop_keep {s : State} {h : Nat} (h_s : Keep m a s) (hw : ∀ p ∈ ([.contexts] : List StatePart), p ∈ m.parts) (he : ∀ e ∈ ([0x800003] : List Nat), m.entry e) : Keep m a (showHoop s h) := by
  unfold showHoop
  repeat' with_reducible first
    | assumption
    | (refine partsSub ?_ hw; decide)
    | (refine entriesSub ?_ he; decide)
    | exact he _ (by decide)
    | (intro _)
    | (fail_if_no_progress extract_lets +onlyGivenNames z; first | (have hz : Keep m a z := ?_; (on_goal 2 => subst z); clear_value z) | (have hz : KeepP m a z := ?_; (on_goal 2 => subst z); clear_value z) | (have hz : KeepO m a z := ?_; (on_goal 2 => subst z); clear_value z) | (have hz : KeepF m a z := ?_; (on_goal 2 => subst z); clear_value z) | (have hz : KeepPO m a z := ?_; (on_goal 2 => subst z); clear_value z) | (first | have _ : Mem := z | have _ : Clocks := z | have _ : Snuffer := z | have _ : Keeper := z) | clear_value z)
    | apply keep_ite
    | apply showActivity_keep
    | apply hw
    | apply he
    | (refine keep_foldl ?_ (fun _ _ _ => ?_))
    | fail

theorem modCore_keep {s : State} {l c : Nat} {f : Core → Core} (h_s : Keep m a s) (hw : ∀ p ∈ ([.lanterns] : List StatePart), p ∈ m.parts) : Keep m a (modCore s l c f) := by
  unfold modCore
  repeat' with_reducible first
    | assumption
    | (refine partsSub ?_ hw; decide)
    | (intro _)
    | (simp -zeta -zetaDelta only [keep_mk]; apply keepL_of; any_goals first | exact .inr rfl | exact .inl (hw _ (by decide)) | exact .inr (fun x => x) | exact .inr (fun _ => rfl))
    | (fail_if_no_progress extract_lets +onlyGivenNames z; first | (have hz : Keep m a z := ?_; (on_goal 2 => subst z); clear_value z) | (have hz : KeepP m a z := ?_; (on_goal 2 => subst z); clear_value z) | (have hz : KeepO m a z := ?_; (on_goal 2 => subst z); clear_value z) | (have hz : KeepF m a z := ?_; (on_goal 2 => subst z); clear_value z) | (have hz : KeepPO m a z := ?_; (on_goal 2 => subst z); clear_value z) | (first | have _ : Mem := z | have _ : Clocks := z | have _ : Snuffer := z | have _ : Keeper := z) | clear_value z)
    | apply keep_ite
    | apply modLantern_keep
    | fail

theorem countRetired_keep {s : State} {l : Nat} (h_s : Keep m a s) (he : ∀ e ∈ ([0x600003] : List Nat), m.entry e) : Keep m a (countRetired s l) := by
  unfold countRetired
  repeat' with_reducible first
    | assumption
    | (refine entriesSub ?_ he; decide)
    | exact he _ (by decide)
    | (intro _)
    | (simp -zeta -zetaDelta only [keep_mk]; apply keepL_of; any_goals first | exact .inr rfl | exact .inl (hw _ (by decide)) | exact .inr (fun x => x) | exact .inr (fun _ => rfl))
    | (fail_if_no_progress extract_lets +onlyGivenNames z; first | (have hz : Keep m a z := ?_; (on_goal 2 => subst z); clear_value z) | (have hz : KeepP m a z := ?_; (on_goal 2 => subst z); clear_value z) | (have hz : KeepO m a z := ?_; (on_goal 2 => subst z); clear_value z) | (have hz : KeepF m a z := ?_; (on_goal 2 => subst z); clear_value z) | (have hz : KeepPO m a z := ?_; (on_goal 2 => subst z); clear_value z) | (first | have _ : Mem := z | have _ : Clocks := z | have _ : Snuffer := z | have _ : Keeper := z) | clear_value z)
    | apply keep_ite
    | apply selCount_keep
    | apply he
    | split
    | fail

theorem progressed_keep {s : State} {l : Nat} (h_s : Keep m a s) (hw : ∀ p ∈ ([.lanterns] : List StatePart), p ∈ m.parts) : Keep m a (progressed s l) := by
  unfold progressed
  repeat' with_reducible first
    | assumption
    | (refine partsSub ?_ hw; decide)
    | (intro _)
    | (simp -zeta -zetaDelta only [keep_mk]; apply keepL_of; any_goals first | exact .inr rfl | exact .inl (hw _ (by decide)) | exact .inr (fun x => x) | exact .inr (fun _ => rfl))
    | (fail_if_no_progress extract_lets +onlyGivenNames z; first | (have hz : Keep m a z := ?_; (on_goal 2 => subst z); clear_value z) | (have hz : KeepP m a z := ?_; (on_goal 2 => subst z); clear_value z) | (have hz : KeepO m a z := ?_; (on_goal 2 => subst z); clear_value z) | (have hz : KeepF m a z := ?_; (on_goal 2 => subst z); clear_value z) | (have hz : KeepPO m a z := ?_; (on_goal 2 => subst z); clear_value z) | (first | have _ : Mem := z | have _ : Clocks := z | have _ : Snuffer := z | have _ : Keeper := z) | clear_value z)
    | apply keep_ite
    | apply modLantern_keep
    | fail

theorem retire_keep {s : State} {l c len : Nat} {f : Core → Core} (h_s : Keep m a s) (hw : ∀ p ∈ ([.lanterns] : List StatePart), p ∈ m.parts) (he : ∀ e ∈ ([0x600003] : List Nat), m.entry e) : Keep m a (retire s l c len f) := by
  unfold retire
  repeat' with_reducible first
    | assumption
    | (refine partsSub ?_ hw; decide)
    | (refine entriesSub ?_ he; decide)
    | exact he _ (by decide)
    | (intro _)
    | (simp -zeta -zetaDelta only [keep_mk]; apply keepL_of; any_goals first | exact .inr rfl | exact .inl (hw _ (by decide)) | exact .inr (fun x => x) | exact .inr (fun _ => rfl))
    | (fail_if_no_progress extract_lets +onlyGivenNames z; first | (have hz : Keep m a z := ?_; (on_goal 2 => subst z); clear_value z) | (have hz : KeepP m a z := ?_; (on_goal 2 => subst z); clear_value z) | (have hz : KeepO m a z := ?_; (on_goal 2 => subst z); clear_value z) | (have hz : KeepF m a z := ?_; (on_goal 2 => subst z); clear_value z) | (have hz : KeepPO m a z := ?_; (on_goal 2 => subst z); clear_value z) | (first | have _ : Mem := z | have _ : Clocks := z | have _ : Snuffer := z | have _ : Keeper := z) | clear_value z)
    | apply keep_ite
    | simp -zeta -zetaDelta only [keepP_iff]
    | apply keepP_ite
    | apply modLantern_keep
    | apply stall_keep
    | apply modCore_keep
    | apply countRetired_keep
    | apply progressed_keep
    | fail

theorem coreRet_keep {s : State} {l c rd : Nat} {v : Word} (h_s : Keep m a s) (hw : ∀ p ∈ ([.lanterns] : List StatePart), p ∈ m.parts) (he : ∀ e ∈ ([0x600003] : List Nat), m.entry e) : Keep m a (coreRet s l c rd v) := by
  unfold coreRet
  repeat' with_reducible first
    | assumption
    | (refine partsSub ?_ hw; decide)
    | (refine entriesSub ?_ he; decide)
    | exact he _ (by decide)
    | (intro _)
    | (fail_if_no_progress extract_lets +onlyGivenNames z; first | (have hz : Keep m a z := ?_; (on_goal 2 => subst z); clear_value z) | (have hz : KeepP m a z := ?_; (on_goal 2 => subst z); clear_value z) | (have hz : KeepO m a z := ?_; (on_goal 2 => subst z); clear_value z) | (have hz : KeepF m a z := ?_; (on_goal 2 => subst z); clear_value z) | (have hz : KeepPO m a z := ?_; (on_goal 2 => subst z); clear_value z) | (first | have _ : Mem := z | have _ : Clocks := z | have _ : Snuffer := z | have _ : Keeper := z) | clear_value z)
    | apply keep_ite
    | apply retire_keep
    | fail

theorem releaseWaiter_keep {s : State} {w : Wait} {err : Bool} (h_s : Keep m a s) (hw : ∀ p ∈ ([.lanterns, .queues, .contexts, .waits] : List StatePart), p ∈ m.parts) (he : ∀ e ∈ ([0x600003] : List Nat), m.entry e) : Keep m a (releaseWaiter s w err) := by
  unfold releaseWaiter
  repeat' with_reducible first
    | assumption
    | (refine partsSub ?_ hw; decide)
    | (refine entriesSub ?_ he; decide)
    | exact he _ (by decide)
    | (intro _)
    | (simp -zeta -zetaDelta only [keep_mk]; apply keepL_of; any_goals first | exact .inr rfl | exact .inl (hw _ (by decide)) | exact .inr (fun x => x) | exact .inr (fun _ => rfl))
    | (fail_if_no_progress extract_lets +onlyGivenNames z; first | (have hz : Keep m a z := ?_; (on_goal 2 => subst z); clear_value z) | (have hz : KeepP m a z := ?_; (on_goal 2 => subst z); clear_value z) | (have hz : KeepO m a z := ?_; (on_goal 2 => subst z); clear_value z) | (have hz : KeepF m a z := ?_; (on_goal 2 => subst z); clear_value z) | (have hz : KeepPO m a z := ?_; (on_goal 2 => subst z); clear_value z) | (first | have _ : Mem := z | have _ : Clocks := z | have _ : Snuffer := z | have _ : Keeper := z) | clear_value z)
    | apply keep_ite
    | apply modLantern_keep
    | apply modQueue_keep
    | apply endStrand_keep
    | apply coreRet_keep
    | apply hw
    | apply he
    | split
    | fail

theorem releaseMet_keep {s : State} {f : Nat} (h_s : Keep m a s) (hw : ∀ p ∈ ([.lanterns, .queues, .contexts, .waits] : List StatePart), p ∈ m.parts) (he : ∀ e ∈ ([0x600003, 0x800003] : List Nat), m.entry e) : Keep m a (releaseMet s f) := by
  unfold releaseMet
  repeat' with_reducible first
    | assumption
    | (refine partsSub ?_ hw; decide)
    | (refine entriesSub ?_ he; decide)
    | exact he _ (by decide)
    | (intro _)
    | (simp -zeta -zetaDelta only [keep_mk]; apply keepL_of; any_goals first | exact .inr rfl | exact .inl (hw _ (by decide)) | exact .inr (fun x => x) | exact .inr (fun _ => rfl))
    | (fail_if_no_progress extract_lets +onlyGivenNames z; first | (have hz : Keep m a z := ?_; (on_goal 2 => subst z); clear_value z) | (have hz : KeepP m a z := ?_; (on_goal 2 => subst z); clear_value z) | (have hz : KeepO m a z := ?_; (on_goal 2 => subst z); clear_value z) | (have hz : KeepF m a z := ?_; (on_goal 2 => subst z); clear_value z) | (have hz : KeepPO m a z := ?_; (on_goal 2 => subst z); clear_value z) | (have hz : ∀ s, Keep m a s → Keep m a (z s) := ?_; (on_goal 2 => (subst z; intros; beta_reduce)); clear_value z) | (have hz : ∀ s x, Keep m a s → Keep m a (z s x) := ?_; (on_goal 2 => (subst z; intros; beta_reduce)); clear_value z) | (have hz : ∀ s x, Keep m a s → KeepO m a (z s x) := ?_; (on_goal 2 => (subst z; intros; beta_reduce)); clear_value z) | (have hz : ∀ x s, Keep m a s → Keep m a (z x s) := ?_; (on_goal 2 => (subst z; intros; beta_reduce)); clear_value z) | (have hz : ∀ s, Keep m a s → KeepO m a (z s) := ?_; (on_goal 2 => (subst z; intros; beta_reduce)); clear_value z) | (have hz : ∀ x, Keep m a (z x) := ?_; (on_goal 2 => (subst z; intros; beta_reduce)); clear_value z) | (have hz : ∀ x y s, Keep m a s → Keep m a (z x y s) := ?_; (on_goal 2 => (subst z; intros; beta_reduce)); clear_value z) | (have hz : ∀ o x, KeepO m a o → KeepOO m a (z o x) := ?_; (on_goal 2 => (subst z; intros; beta_reduce)); clear_value z) | (have hz : ∀ s, Keep m a s → KeepP m a (z s) := ?_; (on_goal 2 => (subst z; intros; beta_reduce)); clear_value z) | (have hz : ∀ x, KeepP m a (z x) := ?_; (on_goal 2 => (subst z; intros; beta_reduce)); clear_value z) | (have hz : ∀ s x y, Keep m a s → Keep m a (z s x y) := ?_; (on_goal 2 => (subst z; intros; beta_reduce)); clear_value z) | (have hz : ∀ s x, Keep m a s → KeepOO m a (z s x) := ?_; (on_goal 2 => (subst z; intros; beta_reduce)); clear_value z) | (have hz : ∀ x o, KeepO m a o → KeepOO m a (z x o) := ?_; (on_goal 2 => (subst z; intros; beta_reduce)); clear_value z) | (have hz : ∀ x y, KeepP m a (z x y) := ?_; (on_goal 2 => (subst z; intros; beta_reduce)); clear_value z) | (have hz : ∀ s x y w, Keep m a s → Keep m a (z s x y w) := ?_; (on_goal 2 => (subst z; intros; beta_reduce)); clear_value z) | (first | have _ : Mem := z | have _ : Clocks := z | have _ : Snuffer := z | have _ : Keeper := z) | clear_value z)
    | apply hz
    | apply keep_ite
    | apply showActivity_keep
    | apply releaseWaiter_keep
    | (refine keep_foldl ?_ (fun _ _ _ => ?_))
    | apply_assumption [-hw, -he]
    | split
    | fail

theorem addWait_keep {s : State} {w : Wait} (h_s : Keep m a s) (hw : ∀ p ∈ ([.waits] : List StatePart), p ∈ m.parts) : Keep m a (addWait s w) := by
  unfold addWait
  repeat' with_reducible first
    | assumption
    | (refine partsSub ?_ hw; decide)
    | (intro _)
    | (simp -zeta -zetaDelta only [keep_mk]; apply keepL_of; any_goals first | exact .inr rfl | exact .inl (hw _ (by decide)) | exact .inr (fun x => x) | exact .inr (fun _ => rfl))
    | (fail_if_no_progress extract_lets +onlyGivenNames z; first | (have hz : Keep m a z := ?_; (on_goal 2 => subst z); clear_value z) | (have hz : KeepP m a z := ?_; (on_goal 2 => subst z); clear_value z) | (have hz : KeepO m a z := ?_; (on_goal 2 => subst z); clear_value z) | (have hz : KeepF m a z := ?_; (on_goal 2 => subst z); clear_value z) | (have hz : KeepPO m a z := ?_; (on_goal 2 => subst z); clear_value z) | (first | have _ : Mem := z | have _ : Clocks := z | have _ : Snuffer := z | have _ : Keeper := z) | clear_value z)
    | apply keep_ite
    | fail

theorem discardSignal_keep {s : State} {f : Nat} (h_s : Keep m a s) (hw : ∀ p ∈ ([.fences] : List StatePart), p ∈ m.parts) : Keep m a (discardSignal s f) := by
  unfold discardSignal
  repeat' with_reducible first
    | assumption
    | (refine partsSub ?_ hw; decide)
    | (intro _)
    | (simp -zeta -zetaDelta only [keep_mk]; apply keepL_of; any_goals first | exact .inr rfl | exact .inl (hw _ (by decide)) | exact .inr (fun x => x) | exact .inr (fun _ => rfl))
    | (fail_if_no_progress extract_lets +onlyGivenNames z; first | (have hz : Keep m a z := ?_; (on_goal 2 => subst z); clear_value z) | (have hz : KeepP m a z := ?_; (on_goal 2 => subst z); clear_value z) | (have hz : KeepO m a z := ?_; (on_goal 2 => subst z); clear_value z) | (have hz : KeepF m a z := ?_; (on_goal 2 => subst z); clear_value z) | (have hz : KeepPO m a z := ?_; (on_goal 2 => subst z); clear_value z) | (first | have _ : Mem := z | have _ : Clocks := z | have _ : Snuffer := z | have _ : Keeper := z) | clear_value z)
    | apply keep_ite
    | apply setFence_keep
    | fail

theorem errorSignal_keep {s : State} {f : Nat} (h_s : Keep m a s) (hw : ∀ p ∈ ([.lanterns, .queues, .contexts, .fences, .waits] : List StatePart), p ∈ m.parts) (he : ∀ e ∈ ([0x600003, 0x800003] : List Nat), m.entry e) : Keep m a (errorSignal s f) := by
  unfold errorSignal
  repeat' with_reducible first
    | assumption
    | (refine partsSub ?_ hw; decide)
    | (refine entriesSub ?_ he; decide)
    | exact he _ (by decide)
    | (intro _)
    | (simp -zeta -zetaDelta only [keep_mk]; apply keepL_of; any_goals first | exact .inr rfl | exact .inl (hw _ (by decide)) | exact .inr (fun x => x) | exact .inr (fun _ => rfl))
    | (fail_if_no_progress extract_lets +onlyGivenNames z; first | (have hz : Keep m a z := ?_; (on_goal 2 => subst z); clear_value z) | (have hz : KeepP m a z := ?_; (on_goal 2 => subst z); clear_value z) | (have hz : KeepO m a z := ?_; (on_goal 2 => subst z); clear_value z) | (have hz : KeepF m a z := ?_; (on_goal 2 => subst z); clear_value z) | (have hz : KeepPO m a z := ?_; (on_goal 2 => subst z); clear_value z) | (first | have _ : Mem := z | have _ : Clocks := z | have _ : Snuffer := z | have _ : Keeper := z) | clear_value z)
    | apply keep_ite
    | apply setFence_keep
    | apply releaseMet_keep
    | fail

theorem signalLocal_keep {s : State} {f v : Nat} {err qf2 : Bool} (h_s : Keep m a s) (hw : ∀ p ∈ ([.lanterns, .queues, .contexts, .fences, .waits] : List StatePart), p ∈ m.parts) (he : ∀ e ∈ ([0x600003, 0x800003] : List Nat), m.entry e) : Keep m a (signalLocal s f v err qf2) := by
  unfold signalLocal
  repeat' with_reducible first
    | assumption
    | (refine partsSub ?_ hw; decide)
    | (refine entriesSub ?_ he; decide)
    | exact he _ (by decide)
    | (intro _)
    | (simp -zeta -zetaDelta only [keep_mk]; apply keepL_of; any_goals first | exact .inr rfl | exact .inl (hw _ (by decide)) | exact .inr (fun x => x) | exact .inr (fun _ => rfl))
    | (fail_if_no_progress extract_lets +onlyGivenNames z; first | (have hz : Keep m a z := ?_; (on_goal 2 => subst z); clear_value z) | (have hz : KeepP m a z := ?_; (on_goal 2 => subst z); clear_value z) | (have hz : KeepO m a z := ?_; (on_goal 2 => subst z); clear_value z) | (have hz : KeepF m a z := ?_; (on_goal 2 => subst z); clear_value z) | (have hz : KeepPO m a z := ?_; (on_goal 2 => subst z); clear_value z) | (first | have _ : Mem := z | have _ : Clocks := z | have _ : Snuffer := z | have _ : Keeper := z) | clear_value z)
    | apply keep_ite
    | apply selCount_keep
    | apply setFence_keep
    | apply releaseMet_keep
    | apply discardSignal_keep
    | apply errorSignal_keep
    | fail

theorem aliasSignal_keep {s : State} {who : Who} {h f v : Nat} {err : Bool} {row : Nat} (h_s : Keep m a s) (hw : ∀ p ∈ ([.memory, .fabric, .floss] : List StatePart), p ∈ m.parts) (he : ∀ e ∈ ([0x600001, 0x810008] : List Nat), m.entry e) : KeepO m a (aliasSignal s who h f v err row) := by
  unfold aliasSignal
  repeat' with_reducible first
    | assumption
    | (refine partsSub ?_ hw; decide)
    | (refine entriesSub ?_ he; decide)
    | exact he _ (by decide)
    | (intro _)
    | (fail_if_no_progress extract_lets +onlyGivenNames z; first | (have hz : Keep m a z := ?_; (on_goal 2 => subst z); clear_value z) | (have hz : KeepP m a z := ?_; (on_goal 2 => subst z); clear_value z) | (have hz : KeepO m a z := ?_; (on_goal 2 => subst z); clear_value z) | (have hz : KeepF m a z := ?_; (on_goal 2 => subst z); clear_value z) | (have hz : KeepPO m a z := ?_; (on_goal 2 => subst z); clear_value z) | (first | have _ : Mem := z | have _ : Clocks := z | have _ : Snuffer := z | have _ : Keeper := z) | clear_value z)
    | apply keep_ite
    | apply keepO_ok
    | apply keepO_wait
    | apply keepO_fail
    | apply keepO_ite
    | apply sendRemote_keep
    | fail

theorem engineSignal_keep {s : State} {who : Who} {h f v : Nat} {err : Bool} {row : Nat} (h_s : Keep m a s) (hw : ∀ p ∈ ([.memory, .lanterns, .fabric, .queues, .contexts, .fences, .waits, .floss] : List StatePart), p ∈ m.parts) (he : ∀ e ∈ ([0x600001, 0x600003, 0x800003, 0x810008] : List Nat), m.entry e) : KeepO m a (engineSignal s who h f v err row) := by
  unfold engineSignal
  repeat' with_reducible first
    | assumption
    | (refine partsSub ?_ hw; decide)
    | (refine entriesSub ?_ he; decide)
    | exact he _ (by decide)
    | (intro _)
    | (fail_if_no_progress extract_lets +onlyGivenNames z; first | (have hz : Keep m a z := ?_; (on_goal 2 => subst z); clear_value z) | (have hz : KeepP m a z := ?_; (on_goal 2 => subst z); clear_value z) | (have hz : KeepO m a z := ?_; (on_goal 2 => subst z); clear_value z) | (have hz : KeepF m a z := ?_; (on_goal 2 => subst z); clear_value z) | (have hz : KeepPO m a z := ?_; (on_goal 2 => subst z); clear_value z) | (first | have _ : Mem := z | have _ : Clocks := z | have _ : Snuffer := z | have _ : Keeper := z) | clear_value z)
    | apply keep_ite
    | apply keepO_ok
    | apply keepO_wait
    | apply keepO_fail
    | apply keepO_ite
    | apply signalLocal_keep
    | apply aliasSignal_keep
    | fail

theorem signalDropped_keep {s : State} (h_s : Keep m a s) (he : ∀ e ∈ ([0x600001] : List Nat), m.entry e) : Keep m a (signalDropped s) := by
  unfold signalDropped
  repeat' with_reducible first
    | assumption
    | (refine entriesSub ?_ he; decide)
    | exact he _ (by decide)
    | (intro _)
    | (fail_if_no_progress extract_lets +onlyGivenNames z; first | (have hz : Keep m a z := ?_; (on_goal 2 => subst z); clear_value z) | (have hz : KeepP m a z := ?_; (on_goal 2 => subst z); clear_value z) | (have hz : KeepO m a z := ?_; (on_goal 2 => subst z); clear_value z) | (have hz : KeepF m a z := ?_; (on_goal 2 => subst z); clear_value z) | (have hz : KeepPO m a z := ?_; (on_goal 2 => subst z); clear_value z) | (first | have _ : Mem := z | have _ : Clocks := z | have _ : Snuffer := z | have _ : Keeper := z) | clear_value z)
    | apply keep_ite
    | apply countHub_keep
    | fail

theorem feAlias_keep {s : State} {f v : Nat} {err : Bool} (h_s : Keep m a s) (hw : ∀ p ∈ ([.memory, .fabric, .floss] : List StatePart), p ∈ m.parts) (he : ∀ e ∈ ([0x600001, 0x810008] : List Nat), m.entry e) : Keep m a (feAlias s f v err) := by
  unfold feAlias
  repeat' with_reducible first
    | assumption
    | (refine partsSub ?_ hw; decide)
    | (refine entriesSub ?_ he; decide)
    | exact he _ (by decide)
    | (intro _)
    | (simp -zeta -zetaDelta only [keep_mk]; apply keepL_of; any_goals first | exact .inr rfl | exact .inl (hw _ (by decide)) | exact .inr (fun x => x) | exact .inr (fun _ => rfl))
    | (fail_if_no_progress extract_lets +onlyGivenNames z; first | (have hz : Keep m a z := ?_; (on_goal 2 => subst z); clear_value z) | (have hz : KeepP m a z := ?_; (on_goal 2 => subst z); clear_value z) | (have hz : KeepO m a z := ?_; (on_goal 2 => subst z); clear_value z) | (have hz : KeepF m a z := ?_; (on_goal 2 => subst z); clear_value z) | (have hz : KeepPO m a z := ?_; (on_goal 2 => subst z); clear_value z) | (first | have _ : Mem := z | have _ : Clocks := z | have _ : Snuffer := z | have _ : Keeper := z) | clear_value z)
    | apply keep_ite
    | apply keepO_ok
    | apply keepO_wait
    | apply keepO_fail
    | apply keepO_ite
    | apply countHub_keep
    | apply aliasSignal_keep
    | apply hw
    | apply he
    | (apply keep_okE; assumption)
    | (apply keep_waitE; assumption)
    | (apply keep_failE; assumption)
    | (refine keep_of_ok ?_ ‹_ = Out.ok _ _›)
    | (refine keep_of_wait ?_ ‹_ = Out.wait _›)
    | (refine keep_of_fail ?_ ‹_ = Out.fail _ _›)
    | apply keep_state
    | (refine keepO_of_some ?_ ‹_ = some _›)
    | split
    | fail

theorem retryAliases_keep {s : State} (h_s : Keep m a s) (hw : ∀ p ∈ ([.memory, .fabric, .floss] : List StatePart), p ∈ m.parts) (he : ∀ e ∈ ([0x600001, 0x810008] : List Nat), m.entry e) : Keep m a (retryAliases s) := by
  unfold retryAliases
  repeat' with_reducible first
    | assumption
    | (refine partsSub ?_ hw; decide)
    | (refine entriesSub ?_ he; decide)
    | exact he _ (by decide)
    | (intro _)
    | (simp -zeta -zetaDelta only [keep_mk]; apply keepL_of; any_goals first | exact .inr rfl | exact .inl (hw _ (by decide)) | exact .inr (fun x => x) | exact .inr (fun _ => rfl))
    | (fail_if_no_progress extract_lets +onlyGivenNames z; first | (have hz : Keep m a z := ?_; (on_goal 2 => subst z); clear_value z) | (have hz : KeepP m a z := ?_; (on_goal 2 => subst z); clear_value z) | (have hz : KeepO m a z := ?_; (on_goal 2 => subst z); clear_value z) | (have hz : KeepF m a z := ?_; (on_goal 2 => subst z); clear_value z) | (have hz : KeepPO m a z := ?_; (on_goal 2 => subst z); clear_value z) | (first | have _ : Mem := z | have _ : Clocks := z | have _ : Snuffer := z | have _ : Keeper := z) | clear_value z)
    | apply keep_ite
    | simp -zeta -zetaDelta only [keepF_iff]
    | apply keepF_ite
    | apply feAlias_keep
    | apply hw
    | apply he
    | (refine keep_foldl ?_ (fun _ _ _ => ?_))
    | fail

theorem commandSignal_keep {s : State} {f v : Nat} {err : Bool} {via : Option Req} (h_s : Keep m a s) (hw : ∀ p ∈ ([.memory, .lanterns, .fabric, .queues, .contexts, .fences, .waits, .floss] : List StatePart), p ∈ m.parts) (he : ∀ e ∈ ([0x600001, 0x600003, 0x800003, 0x810008] : List Nat), m.entry e) : Keep m a (commandSignal s f v err via) := by
  unfold commandSignal
  repeat' with_reducible first
    | assumption
    | (refine partsSub ?_ hw; decide)
    | (refine entriesSub ?_ he; decide)
    | exact he _ (by decide)
    | (intro _)
    | (simp -zeta -zetaDelta only [keep_mk]; apply keepL_of; any_goals first | exact .inr rfl | exact .inl (hw _ (by decide)) | exact .inr (fun x => x) | exact .inr (fun _ => rfl))
    | (fail_if_no_progress extract_lets +onlyGivenNames z; first | (have hz : Keep m a z := ?_; (on_goal 2 => subst z); clear_value z) | (have hz : KeepP m a z := ?_; (on_goal 2 => subst z); clear_value z) | (have hz : KeepO m a z := ?_; (on_goal 2 => subst z); clear_value z) | (have hz : KeepF m a z := ?_; (on_goal 2 => subst z); clear_value z) | (have hz : KeepPO m a z := ?_; (on_goal 2 => subst z); clear_value z) | (first | have _ : Mem := z | have _ : Clocks := z | have _ : Snuffer := z | have _ : Keeper := z) | clear_value z)
    | apply keep_ite
    | apply signalLocal_keep
    | apply signalDropped_keep
    | apply feAlias_keep
    | fail

theorem namedSignal_keep {s : State} {f : Nat} {via : Option Req} (h_s : Keep m a s) (hw : ∀ p ∈ ([.memory, .lanterns, .fabric, .queues, .contexts, .fences, .waits, .floss] : List StatePart), p ∈ m.parts) (he : ∀ e ∈ ([0x600001, 0x600003, 0x800003, 0x810008] : List Nat), m.entry e) : Keep m a (namedSignal s f via) := by
  unfold namedSignal
  repeat' with_reducible first
    | assumption
    | (refine partsSub ?_ hw; decide)
    | (refine entriesSub ?_ he; decide)
    | exact he _ (by decide)
    | (intro _)
    | (fail_if_no_progress extract_lets +onlyGivenNames z; first | (have hz : Keep m a z := ?_; (on_goal 2 => subst z); clear_value z) | (have hz : KeepP m a z := ?_; (on_goal 2 => subst z); clear_value z) | (have hz : KeepO m a z := ?_; (on_goal 2 => subst z); clear_value z) | (have hz : KeepF m a z := ?_; (on_goal 2 => subst z); clear_value z) | (have hz : KeepPO m a z := ?_; (on_goal 2 => subst z); clear_value z) | (first | have _ : Mem := z | have _ : Clocks := z | have _ : Snuffer := z | have _ : Keeper := z) | clear_value z)
    | apply keep_ite
    | simp -zeta -zetaDelta only [keepP_iff]
    | apply keepP_ite
    | apply takeFree_keep
    | apply commandSignal_keep
    | (apply keep_pairE; assumption)
    | fail

theorem entrySignal_keep {s : State} {f v : Nat} {err qf2 : Bool} (h_s : Keep m a s) (hw : ∀ p ∈ ([.memory, .lanterns, .fabric, .queues, .contexts, .fences, .waits, .floss] : List StatePart), p ∈ m.parts) (he : ∀ e ∈ ([0x600001, 0x600003, 0x800003, 0x810008] : List Nat), m.entry e) : Keep m a (entrySignal s f v err qf2) := by
  unfold entrySignal
  repeat' with_reducible first
    | assumption
    | (refine partsSub ?_ hw; decide)
    | (refine entriesSub ?_ he; decide)
    | exact he _ (by decide)
    | (intro _)
    | (fail_if_no_progress extract_lets +onlyGivenNames z; first | (have hz : Keep m a z := ?_; (on_goal 2 => subst z); clear_value z) | (have hz : KeepP m a z := ?_; (on_goal 2 => subst z); clear_value z) | (have hz : KeepO m a z := ?_; (on_goal 2 => subst z); clear_value z) | (have hz : KeepF m a z := ?_; (on_goal 2 => subst z); clear_value z) | (have hz : KeepPO m a z := ?_; (on_goal 2 => subst z); clear_value z) | (first | have _ : Mem := z | have _ : Clocks := z | have _ : Snuffer := z | have _ : Keeper := z) | clear_value z)
    | apply keep_ite
    | apply signalLocal_keep
    | apply signalDropped_keep
    | apply feAlias_keep
    | fail

end Sys2Proof.Machine
end

