-- ==== Sys2Proof/Laws/KeepTranslation.lean ====
section
/-! SUPPORT. What each operation of Machine/Translation.lean keeps (`Keep`). -/

set_option linter.all false
set_option simprocs false

namespace Sys2Proof.Machine

open Sys2Proof.Safety

variable {m : May} {a : State}

theorem dropLook_keep {s : State} {p : LookEntry → Bool} (h_s : Keep m a s) (hw : ∀ p ∈ ([.ranges] : List StatePart), p ∈ m.parts) : Keep m a (dropLook s p) := by
  unfold dropLook
  repeat' with_reducible first
    | assumption
    | (refine partsSub ?_ hw; decide)
    | (intro _)
    | (simp -zeta -zetaDelta only [keep_mk]; apply keepL_of; any_goals first | exact .inr rfl | exact .inl (hw _ (by decide)) | exact .inr (fun x => x) | exact .inr (fun _ => rfl))
    | fail

theorem fillLook_keep {s : State} {e : LookEntry} (h_s : Keep m a s) (hw : ∀ p ∈ ([.ranges] : List StatePart), p ∈ m.parts) : Keep m a (fillLook s e) := by
  unfold fillLook
  repeat' with_reducible first
    | assumption
    | (refine partsSub ?_ hw; decide)
    | (intro _)
    | (simp -zeta -zetaDelta only [keep_mk]; apply keepL_of; any_goals first | exact .inr rfl | exact .inl (hw _ (by decide)) | exact .inr (fun x => x) | exact .inr (fun _ => rfl))
    | (fail_if_no_progress extract_lets +onlyGivenNames z; first | (have hz : Keep m a z := ?_; (on_goal 2 => subst z); clear_value z) | (have hz : KeepP m a z := ?_; (on_goal 2 => subst z); clear_value z) | (have hz : KeepO m a z := ?_; (on_goal 2 => subst z); clear_value z) | (have hz : KeepF m a z := ?_; (on_goal 2 => subst z); clear_value z) | (have hz : KeepPO m a z := ?_; (on_goal 2 => subst z); clear_value z) | (first | have _ : Mem := z | have _ : Clocks := z | have _ : Snuffer := z | have _ : Keeper := z) | clear_value z)
    | apply keep_ite
    | simp -zeta -zetaDelta only [keepP_iff]
    | apply keepP_ite
    | apply takeFree_keep
    | apply hw
    | (apply keep_pairE; assumption)
    | fail

theorem frShow_keep {s : State} {h : Nat} (h_s : Keep m a s) (he : ∀ e ∈ ([0x710004] : List Nat), m.entry e) : Keep m a (frShow s h) := by
  unfold frShow
  repeat' with_reducible first
    | assumption
    | (refine entriesSub ?_ he; decide)
    | exact he _ (by decide)
    | (intro _)
    | (fail_if_no_progress extract_lets +onlyGivenNames z; first | (have hz : Keep m a z := ?_; (on_goal 2 => subst z); clear_value z) | (have hz : KeepP m a z := ?_; (on_goal 2 => subst z); clear_value z) | (have hz : KeepO m a z := ?_; (on_goal 2 => subst z); clear_value z) | (have hz : KeepF m a z := ?_; (on_goal 2 => subst z); clear_value z) | (have hz : KeepPO m a z := ?_; (on_goal 2 => subst z); clear_value z) | (first | have _ : Mem := z | have _ : Clocks := z | have _ : Snuffer := z | have _ : Keeper := z) | clear_value z)
    | apply keep_ite
    | apply setReg_keep
    | fail

theorem frWrite_keep {s : State} {h : Nat} {w0 : Nat} {va entry count time : Nat} (h_s : Keep m a s) (hw : ∀ p ∈ ([.hostBytes, .hostPoison, .fabric, .queues, .floss] : List StatePart), p ∈ m.parts) (he : ∀ e ∈ ([0x600001, 0x710003, 0x710004, 0x810008] : List Nat), m.entry e) : Keep m a (frWrite s h w0 va entry count time) := by
  unfold frWrite
  repeat' with_reducible first
    | assumption
    | (refine partsSub ?_ hw; decide)
    | (refine entriesSub ?_ he; decide)
    | exact he _ (by decide)
    | (intro _)
    | (fail_if_no_progress extract_lets +onlyGivenNames z; first | (have hz : Keep m a z := ?_; (on_goal 2 => subst z); clear_value z) | (have hz : KeepP m a z := ?_; (on_goal 2 => subst z); clear_value z) | (have hz : KeepO m a z := ?_; (on_goal 2 => subst z); clear_value z) | (have hz : KeepF m a z := ?_; (on_goal 2 => subst z); clear_value z) | (have hz : KeepPO m a z := ?_; (on_goal 2 => subst z); clear_value z) | (first | have _ : Mem := z | have _ : Clocks := z | have _ : Snuffer := z | have _ : Keeper := z) | clear_value z)
    | apply keep_ite
    | apply setReg_keep
    | apply issueConfirm_keep
    | apply writeHost_keep
    | apply frShow_keep
    | fail

theorem rightsEvent_keep {s : State} {h : Nat} (h_s : Keep m a s) (he : ∀ e ∈ ([0x700009] : List Nat), m.entry e) : Keep m a (rightsEvent s h) := by
  unfold rightsEvent
  repeat' with_reducible first
    | assumption
    | (refine entriesSub ?_ he; decide)
    | exact he _ (by decide)
    | (intro _)
    | (fail_if_no_progress extract_lets +onlyGivenNames z; first | (have hz : Keep m a z := ?_; (on_goal 2 => subst z); clear_value z) | (have hz : KeepP m a z := ?_; (on_goal 2 => subst z); clear_value z) | (have hz : KeepO m a z := ?_; (on_goal 2 => subst z); clear_value z) | (have hz : KeepF m a z := ?_; (on_goal 2 => subst z); clear_value z) | (have hz : KeepPO m a z := ?_; (on_goal 2 => subst z); clear_value z) | (first | have _ : Mem := z | have _ : Clocks := z | have _ : Snuffer := z | have _ : Keeper := z) | clear_value z)
    | apply keep_ite
    | apply bump_keep
    | fail

theorem translate_keep {s : State} {a' : Acc} {va0 kind : Nat} (h_s : Keep m a s) (hw : ∀ p ∈ ([.ranges] : List StatePart), p ∈ m.parts) (he : ∀ e ∈ ([0x600003, 0x700009] : List Nat), m.entry e) : KeepO m a (translate s a' va0 kind) := by
  unfold translate
  repeat' with_reducible first
    | assumption
    | (refine partsSub ?_ hw; decide)
    | (refine entriesSub ?_ he; decide)
    | exact he _ (by decide)
    | (intro _)
    | (simp -zeta -zetaDelta only [keep_mk]; apply keepL_of; any_goals first | exact .inr rfl | exact .inl (hw _ (by decide)) | exact .inr (fun x => x) | exact .inr (fun _ => rfl))
    | (fail_if_no_progress extract_lets +onlyGivenNames z; first | (have hz : Keep m a z := ?_; (on_goal 2 => subst z); clear_value z) | (have hz : KeepP m a z := ?_; (on_goal 2 => subst z); clear_value z) | (have hz : KeepO m a z := ?_; (on_goal 2 => subst z); clear_value z) | (have hz : KeepF m a z := ?_; (on_goal 2 => subst z); clear_value z) | (have hz : KeepPO m a z := ?_; (on_goal 2 => subst z); clear_value z) | (first | have _ : Mem := z | have _ : Clocks := z | have _ : Snuffer := z | have _ : Keeper := z) | clear_value z)
    | apply keep_ite
    | apply keepO_ok
    | apply keepO_wait
    | apply keepO_fail
    | apply keepO_ite
    | apply selCount_keep
    | apply rightsEvent_keep
    | (apply keep_okE; assumption)
    | (apply keep_waitE; assumption)
    | (apply keep_failE; assumption)
    | (refine keep_of_ok ?_ ‹_ = Out.ok _ _›)
    | (refine keep_of_wait ?_ ‹_ = Out.wait _›)
    | (refine keep_of_fail ?_ ‹_ = Out.fail _ _›)
    | apply keep_state
    | (refine keepO_of_some ?_ ‹_ = some _›)
    | split
    | fail

theorem translateAll_keep {s : State} {a' : Acc} {kind : Nat} {y0 : List (Nat × Nat)} (h_s : Keep m a s) (hw : ∀ p ∈ ([.ranges] : List StatePart), p ∈ m.parts) (he : ∀ e ∈ ([0x600003, 0x700009] : List Nat), m.entry e) : KeepO m a (translateAll s a' kind y0) := by
  induction y0 generalizing s a' kind with
  | nil =>
    unfold translateAll
    repeat' with_reducible first
      | assumption
      | apply ih
      | (refine partsSub ?_ hw; decide)
      | (refine entriesSub ?_ he; decide)
      | exact he _ (by decide)
      | (intro _)
      | (simp -zeta -zetaDelta only [keep_mk]; apply keepL_of; any_goals first | exact .inr rfl | exact .inl (hw _ (by decide)) | exact .inr (fun x => x) | exact .inr (fun _ => rfl))
      | (fail_if_no_progress extract_lets +onlyGivenNames z; first | (have hz : Keep m a z := ?_; (on_goal 2 => subst z); clear_value z) | (have hz : KeepP m a z := ?_; (on_goal 2 => subst z); clear_value z) | (have hz : KeepO m a z := ?_; (on_goal 2 => subst z); clear_value z) | (have hz : KeepF m a z := ?_; (on_goal 2 => subst z); clear_value z) | (have hz : KeepPO m a z := ?_; (on_goal 2 => subst z); clear_value z) | (first | have _ : Mem := z | have _ : Clocks := z | have _ : Snuffer := z | have _ : Keeper := z) | clear_value z)
      | apply keep_ite
      | apply keepO_ok
      | apply keepO_wait
      | apply keepO_fail
      | apply keepO_ite
      | apply translate_keep
      | (refine keepO_andThen ?_ (fun _ _ _ => ?_))
      | (apply keep_okE; assumption)
      | (apply keep_waitE; assumption)
      | (apply keep_failE; assumption)
      | (refine keep_of_ok ?_ ‹_ = Out.ok _ _›)
      | (refine keep_of_wait ?_ ‹_ = Out.wait _›)
      | (refine keep_of_fail ?_ ‹_ = Out.fail _ _›)
      | apply keep_state
      | (refine keepO_of_some ?_ ‹_ = some _›)
      | (apply keep_pairE; assumption)
      | (refine keep_of_pair ?_ ‹_ = (_, _)›)
      | simp -zeta -zetaDelta only [keep_snd]
      | (apply keep_fstE; assumption)
      | (refine keep_of_fst ?_ ‹_ = (_, _)›)
      | simp -zeta -zetaDelta only [keep_fst]
      | split
      | fail
  | cons p rest ih =>
    unfold translateAll
    repeat' with_reducible first
      | assumption
      | apply ih
      | (refine partsSub ?_ hw; decide)
      | (refine entriesSub ?_ he; decide)
      | exact he _ (by decide)
      | (intro _)
      | (simp -zeta -zetaDelta only [keep_mk]; apply keepL_of; any_goals first | exact .inr rfl | exact .inl (hw _ (by decide)) | exact .inr (fun x => x) | exact .inr (fun _ => rfl))
      | (fail_if_no_progress extract_lets +onlyGivenNames z; first | (have hz : Keep m a z := ?_; (on_goal 2 => subst z); clear_value z) | (have hz : KeepP m a z := ?_; (on_goal 2 => subst z); clear_value z) | (have hz : KeepO m a z := ?_; (on_goal 2 => subst z); clear_value z) | (have hz : KeepF m a z := ?_; (on_goal 2 => subst z); clear_value z) | (have hz : KeepPO m a z := ?_; (on_goal 2 => subst z); clear_value z) | (first | have _ : Mem := z | have _ : Clocks := z | have _ : Snuffer := z | have _ : Keeper := z) | clear_value z)
      | apply keep_ite
      | apply keepO_ok
      | apply keepO_wait
      | apply keepO_fail
      | apply keepO_ite
      | apply translate_keep
      | (refine keepO_andThen ?_ (fun _ _ _ => ?_))
      | (apply keep_okE; assumption)
      | (apply keep_waitE; assumption)
      | (apply keep_failE; assumption)
      | (refine keep_of_ok ?_ ‹_ = Out.ok _ _›)
      | (refine keep_of_wait ?_ ‹_ = Out.wait _›)
      | (refine keep_of_fail ?_ ‹_ = Out.fail _ _›)
      | apply keep_state
      | (refine keepO_of_some ?_ ‹_ = some _›)
      | (apply keep_pairE; assumption)
      | (refine keep_of_pair ?_ ‹_ = (_, _)›)
      | simp -zeta -zetaDelta only [keep_snd]
      | (apply keep_fstE; assumption)
      | (refine keep_of_fst ?_ ‹_ = (_, _)›)
      | simp -zeta -zetaDelta only [keep_fst]
      | split
      | fail

theorem countPage_keep {s : State} {page : Option Nat} {n : Nat} (h_s : Keep m a s) (hw : ∀ p ∈ ([.ranges] : List StatePart), p ∈ m.parts) : Keep m a (countPage s page n) := by
  unfold countPage
  repeat' with_reducible first
    | assumption
    | (refine partsSub ?_ hw; decide)
    | (intro _)
    | (simp -zeta -zetaDelta only [keep_mk]; apply keepL_of; any_goals first | exact .inr rfl | exact .inl (hw _ (by decide)) | exact .inr (fun x => x) | exact .inr (fun _ => rfl))
    | (fail_if_no_progress extract_lets +onlyGivenNames z; first | (have hz : Keep m a z := ?_; (on_goal 2 => subst z); clear_value z) | (have hz : KeepP m a z := ?_; (on_goal 2 => subst z); clear_value z) | (have hz : KeepO m a z := ?_; (on_goal 2 => subst z); clear_value z) | (have hz : KeepF m a z := ?_; (on_goal 2 => subst z); clear_value z) | (have hz : KeepPO m a z := ?_; (on_goal 2 => subst z); clear_value z) | (first | have _ : Mem := z | have _ : Clocks := z | have _ : Snuffer := z | have _ : Keeper := z) | clear_value z)
    | apply keep_ite
    | apply hw
    | split
    | fail

theorem piecesReady_keep {s : State} {a' : Acc} {write own : Bool} {y0 : List Piece} (h_s : Keep m a s) (hw : ∀ p ∈ ([.clocks, .lanterns] : List StatePart), p ∈ m.parts) (he : ∀ e ∈ ([0x600001, 0x810008] : List Nat), m.entry e) : KeepO m a (piecesReady s a' write own y0) := by
  induction y0 generalizing s a' write own with
  | nil =>
    unfold piecesReady
    repeat' with_reducible first
      | assumption
      | apply ih
      | (refine partsSub ?_ hw; decide)
      | (refine entriesSub ?_ he; decide)
      | exact he _ (by decide)
      | (intro _)
      | (simp -zeta -zetaDelta only [keep_mk]; apply keepL_of; any_goals first | exact .inr rfl | exact .inl (hw _ (by decide)) | exact .inr (fun x => x) | exact .inr (fun _ => rfl))
      | (fail_if_no_progress extract_lets +onlyGivenNames z; first | (have hz : Keep m a z := ?_; (on_goal 2 => subst z); clear_value z) | (have hz : KeepP m a z := ?_; (on_goal 2 => subst z); clear_value z) | (have hz : KeepO m a z := ?_; (on_goal 2 => subst z); clear_value z) | (have hz : KeepF m a z := ?_; (on_goal 2 => subst z); clear_value z) | (have hz : KeepPO m a z := ?_; (on_goal 2 => subst z); clear_value z) | (first | have _ : Mem := z | have _ : Clocks := z | have _ : Snuffer := z | have _ : Keeper := z) | clear_value z)
      | apply keep_ite
      | apply keepO_ok
      | apply keepO_wait
      | apply keepO_fail
      | apply keepO_ite
      | apply countP_keep
      | apply localReady_keep
      | apply tagStall_keep
      | (refine keepO_andThen ?_ (fun _ _ _ => ?_))
      | (apply keep_okE; assumption)
      | (apply keep_waitE; assumption)
      | (apply keep_failE; assumption)
      | (refine keep_of_ok ?_ ‹_ = Out.ok _ _›)
      | (refine keep_of_wait ?_ ‹_ = Out.wait _›)
      | (refine keep_of_fail ?_ ‹_ = Out.fail _ _›)
      | apply keep_state
      | (refine keepO_of_some ?_ ‹_ = some _›)
      | (apply keep_fstE; assumption)
      | (refine keep_of_fst ?_ ‹_ = (_, _)›)
      | simp -zeta -zetaDelta only [keep_fst]
      | split
      | fail
  | cons p rest ih =>
    unfold piecesReady
    repeat' with_reducible first
      | assumption
      | apply ih
      | (refine partsSub ?_ hw; decide)
      | (refine entriesSub ?_ he; decide)
      | exact he _ (by decide)
      | (intro _)
      | (simp -zeta -zetaDelta only [keep_mk]; apply keepL_of; any_goals first | exact .inr rfl | exact .inl (hw _ (by decide)) | exact .inr (fun x => x) | exact .inr (fun _ => rfl))
      | (fail_if_no_progress extract_lets +onlyGivenNames z; first | (have hz : Keep m a z := ?_; (on_goal 2 => subst z); clear_value z) | (have hz : KeepP m a z := ?_; (on_goal 2 => subst z); clear_value z) | (have hz : KeepO m a z := ?_; (on_goal 2 => subst z); clear_value z) | (have hz : KeepF m a z := ?_; (on_goal 2 => subst z); clear_value z) | (have hz : KeepPO m a z := ?_; (on_goal 2 => subst z); clear_value z) | (first | have _ : Mem := z | have _ : Clocks := z | have _ : Snuffer := z | have _ : Keeper := z) | clear_value z)
      | apply keep_ite
      | apply keepO_ok
      | apply keepO_wait
      | apply keepO_fail
      | apply keepO_ite
      | apply countP_keep
      | apply localReady_keep
      | apply tagStall_keep
      | (refine keepO_andThen ?_ (fun _ _ _ => ?_))
      | (apply keep_okE; assumption)
      | (apply keep_waitE; assumption)
      | (apply keep_failE; assumption)
      | (refine keep_of_ok ?_ ‹_ = Out.ok _ _›)
      | (refine keep_of_wait ?_ ‹_ = Out.wait _›)
      | (refine keep_of_fail ?_ ‹_ = Out.fail _ _›)
      | apply keep_state
      | (refine keepO_of_some ?_ ‹_ = some _›)
      | (apply keep_fstE; assumption)
      | (refine keep_of_fst ?_ ‹_ = (_, _)›)
      | simp -zeta -zetaDelta only [keep_fst]
      | split
      | fail

theorem remoteReads_keep {s : State} {a' : Acc} {y0 : List Piece} (h_s : Keep m a s) (hw : ∀ p ∈ ([.memory, .fabric, .floss] : List StatePart), p ∈ m.parts) (he : ∀ e ∈ ([0x600001, 0x810008] : List Nat), m.entry e) : KeepO m a (remoteReads s a' y0) := by
  induction y0 generalizing s a' with
  | nil =>
    unfold remoteReads
    repeat' with_reducible first
      | assumption
      | apply ih
      | (refine partsSub ?_ hw; decide)
      | (refine entriesSub ?_ he; decide)
      | exact he _ (by decide)
      | (intro _)
      | (simp -zeta -zetaDelta only [keep_mk]; apply keepL_of; any_goals first | exact .inr rfl | exact .inl (hw _ (by decide)) | exact .inr (fun x => x) | exact .inr (fun _ => rfl))
      | (fail_if_no_progress extract_lets +onlyGivenNames z; first | (have hz : Keep m a z := ?_; (on_goal 2 => subst z); clear_value z) | (have hz : KeepP m a z := ?_; (on_goal 2 => subst z); clear_value z) | (have hz : KeepO m a z := ?_; (on_goal 2 => subst z); clear_value z) | (have hz : KeepF m a z := ?_; (on_goal 2 => subst z); clear_value z) | (have hz : KeepPO m a z := ?_; (on_goal 2 => subst z); clear_value z) | (first | have _ : Mem := z | have _ : Clocks := z | have _ : Snuffer := z | have _ : Keeper := z) | clear_value z)
      | apply keep_ite
      | apply keepO_ok
      | apply keepO_wait
      | apply keepO_fail
      | apply keepO_ite
      | apply sendRemote_keep
      | apply dropEng_keep
      | (refine keepO_andThen ?_ (fun _ _ _ => ?_))
      | (apply keep_okE; assumption)
      | (apply keep_waitE; assumption)
      | (apply keep_failE; assumption)
      | (refine keep_of_ok ?_ ‹_ = Out.ok _ _›)
      | (refine keep_of_wait ?_ ‹_ = Out.wait _›)
      | (refine keep_of_fail ?_ ‹_ = Out.fail _ _›)
      | apply keep_state
      | (refine keepO_of_some ?_ ‹_ = some _›)
      | split
      | fail
  | cons p rest ih =>
    unfold remoteReads
    repeat' with_reducible first
      | assumption
      | apply ih
      | (refine partsSub ?_ hw; decide)
      | (refine entriesSub ?_ he; decide)
      | exact he _ (by decide)
      | (intro _)
      | (simp -zeta -zetaDelta only [keep_mk]; apply keepL_of; any_goals first | exact .inr rfl | exact .inl (hw _ (by decide)) | exact .inr (fun x => x) | exact .inr (fun _ => rfl))
      | (fail_if_no_progress extract_lets +onlyGivenNames z; first | (have hz : Keep m a z := ?_; (on_goal 2 => subst z); clear_value z) | (have hz : KeepP m a z := ?_; (on_goal 2 => subst z); clear_value z) | (have hz : KeepO m a z := ?_; (on_goal 2 => subst z); clear_value z) | (have hz : KeepF m a z := ?_; (on_goal 2 => subst z); clear_value z) | (have hz : KeepPO m a z := ?_; (on_goal 2 => subst z); clear_value z) | (first | have _ : Mem := z | have _ : Clocks := z | have _ : Snuffer := z | have _ : Keeper := z) | clear_value z)
      | apply keep_ite
      | apply keepO_ok
      | apply keepO_wait
      | apply keepO_fail
      | apply keepO_ite
      | apply sendRemote_keep
      | apply dropEng_keep
      | (refine keepO_andThen ?_ (fun _ _ _ => ?_))
      | (apply keep_okE; assumption)
      | (apply keep_waitE; assumption)
      | (apply keep_failE; assumption)
      | (refine keep_of_ok ?_ ‹_ = Out.ok _ _›)
      | (refine keep_of_wait ?_ ‹_ = Out.wait _›)
      | (refine keep_of_fail ?_ ‹_ = Out.fail _ _›)
      | apply keep_state
      | (refine keepO_of_some ?_ ‹_ = some _›)
      | split
      | fail

theorem takePiece_keep {s : State} {a' : Acc} {kind : Nat} {p : Piece} (h_s : Keep m a s) (hw : ∀ p ∈ ([.clocks, .memory, .bytes, .fabric, .ranges, .floss, .snuffer, .darner] : List StatePart), p ∈ m.parts) (he : ∀ e ∈ ([0x500001, 0x500002, 0x500003, 0x500004, 0x500006, 0x500007, 0x500008, 0x510002, 0x600001, 0x600003] : List Nat), m.entry e) : KeepP m a (takePiece s a' kind p) := by
  unfold takePiece
  repeat' with_reducible first
    | assumption
    | (refine partsSub ?_ hw; decide)
    | (refine entriesSub ?_ he; decide)
    | exact he _ (by decide)
    | (intro _)
    | (simp -zeta -zetaDelta only [keep_mk]; apply keepL_of; any_goals first | exact .inr rfl | exact .inl (hw _ (by decide)) | exact .inr (fun x => x) | exact .inr (fun _ => rfl))
    | (fail_if_no_progress extract_lets +onlyGivenNames z; first | (have hz : Keep m a z := ?_; (on_goal 2 => subst z); clear_value z) | (have hz : KeepP m a z := ?_; (on_goal 2 => subst z); clear_value z) | (have hz : KeepO m a z := ?_; (on_goal 2 => subst z); clear_value z) | (have hz : KeepF m a z := ?_; (on_goal 2 => subst z); clear_value z) | (have hz : KeepPO m a z := ?_; (on_goal 2 => subst z); clear_value z) | (first | have _ : Mem := z | have _ : Clocks := z | have _ : Snuffer := z | have _ : Keeper := z) | clear_value z)
    | apply keep_ite
    | simp -zeta -zetaDelta only [keepP_iff]
    | apply keepP_ite
    | apply readRun_keep
    | apply crossTo_keep
    | apply dropRemote_keep
    | apply readHost_keep
    | apply countPage_keep
    | (apply keep_pairE; assumption)
    | (refine keep_of_pair ?_ ‹_ = (_, _)›)
    | simp -zeta -zetaDelta only [keep_snd]
    | (apply keep_fstE; assumption)
    | (refine keep_of_fst ?_ ‹_ = (_, _)›)
    | simp -zeta -zetaDelta only [keep_fst]
    | split
    | fail

theorem readVa_keep {s : State} {a' : Acc} {va n kind : Nat} (h_s : Keep m a s) (hw : ∀ p ∈ ([.clocks, .memory, .bytes, .lanterns, .fabric, .ranges, .floss, .snuffer, .darner] : List StatePart), p ∈ m.parts) (he : ∀ e ∈ ([0x500001, 0x500002, 0x500003, 0x500004, 0x500006, 0x500007, 0x500008, 0x510002, 0x600001, 0x600003, 0x700009, 0x810008] : List Nat), m.entry e) : KeepO m a (readVa s a' va n kind) := by
  unfold readVa
  repeat' with_reducible first
    | assumption
    | (refine partsSub ?_ hw; decide)
    | (refine entriesSub ?_ he; decide)
    | exact he _ (by decide)
    | (intro _)
    | (simp -zeta -zetaDelta only [keep_mk]; apply keepL_of; any_goals first | exact .inr rfl | exact .inl (hw _ (by decide)) | exact .inr (fun x => x) | exact .inr (fun _ => rfl))
    | (fail_if_no_progress extract_lets +onlyGivenNames z; first | (have hz : Keep m a z := ?_; (on_goal 2 => subst z); clear_value z) | (have hz : KeepP m a z := ?_; (on_goal 2 => subst z); clear_value z) | (have hz : KeepO m a z := ?_; (on_goal 2 => subst z); clear_value z) | (have hz : KeepF m a z := ?_; (on_goal 2 => subst z); clear_value z) | (have hz : KeepPO m a z := ?_; (on_goal 2 => subst z); clear_value z) | (first | have _ : Mem := z | have _ : Clocks := z | have _ : Snuffer := z | have _ : Keeper := z) | clear_value z)
    | apply keep_ite
    | apply keepO_ok
    | apply keepO_wait
    | apply keepO_fail
    | apply keepO_ite
    | simp -zeta -zetaDelta only [keepP_iff]
    | apply keepP_ite
    | simp -zeta -zetaDelta only [keepF_iff]
    | apply keepF_ite
    | apply translateAll_keep
    | apply piecesReady_keep
    | apply remoteReads_keep
    | apply takePiece_keep
    | (refine keep_foldl ?_ (fun _ _ _ => ?_))
    | (refine keepP_foldl ?_ (fun _ _ _ => ?_))
    | (refine keepF_foldl ?_ (fun _ _ _ => ?_))
    | (refine keepO_foldl ?_ (fun _ _ _ => ?_))
    | (refine keepO_andThen ?_ (fun _ _ _ => ?_))
    | (apply keep_okE; assumption)
    | (apply keep_waitE; assumption)
    | (apply keep_failE; assumption)
    | (refine keep_of_ok ?_ ‹_ = Out.ok _ _›)
    | (refine keep_of_wait ?_ ‹_ = Out.wait _›)
    | (refine keep_of_fail ?_ ‹_ = Out.fail _ _›)
    | apply keep_state
    | (refine keepO_of_some ?_ ‹_ = some _›)
    | (apply keep_pairE; assumption)
    | (refine keep_of_pair ?_ ‹_ = (_, _)›)
    | simp -zeta -zetaDelta only [keep_snd]
    | (apply keep_fstE; assumption)
    | (refine keep_of_fst ?_ ‹_ = (_, _)›)
    | simp -zeta -zetaDelta only [keep_fst]
    | split
    | fail

theorem remoteWritesReady_keep {s : State} {a' : Acc} {y0 : List Piece} (h_s : Keep m a s) (he : ∀ e ∈ ([0x600001, 0x810008] : List Nat), m.entry e) : KeepO m a (remoteWritesReady s a' y0) := by
  induction y0 generalizing s a' with
  | nil =>
    unfold remoteWritesReady
    repeat' with_reducible first
      | assumption
      | apply ih
      | (refine entriesSub ?_ he; decide)
      | exact he _ (by decide)
      | (intro _)
      | (simp -zeta -zetaDelta only [keep_mk]; apply keepL_of; any_goals first | exact .inr rfl | exact .inl (hw _ (by decide)) | exact .inr (fun x => x) | exact .inr (fun _ => rfl))
      | refine Or.inl ⟨hw _ (by decide), ?_⟩
      | apply canonical_filter
      | apply canonical_putBytes
      | apply canonical_foldl_cput
      | apply canonical_nil
      | exact Canon.mem (Keep.canon ‹_›)
      | (fail_if_no_progress extract_lets +onlyGivenNames z; first | (have hz : Keep m a z := ?_; (on_goal 2 => subst z); clear_value z) | (have hz : KeepP m a z := ?_; (on_goal 2 => subst z); clear_value z) | (have hz : KeepO m a z := ?_; (on_goal 2 => subst z); clear_value z) | (have hz : KeepF m a z := ?_; (on_goal 2 => subst z); clear_value z) | (have hz : KeepPO m a z := ?_; (on_goal 2 => subst z); clear_value z) | (first | have _ : Mem := z | have _ : Clocks := z | have _ : Snuffer := z | have _ : Keeper := z) | clear_value z)
      | apply keep_ite
      | apply keepO_ok
      | apply keepO_wait
      | apply keepO_fail
      | apply keepO_ite
      | apply addCell_keep
      | apply countE_keep
      | (apply keep_okE; assumption)
      | (apply keep_waitE; assumption)
      | (apply keep_failE; assumption)
      | (refine keep_of_ok ?_ ‹_ = Out.ok _ _›)
      | (refine keep_of_wait ?_ ‹_ = Out.wait _›)
      | (refine keep_of_fail ?_ ‹_ = Out.fail _ _›)
      | apply keep_state
      | (refine keepO_of_some ?_ ‹_ = some _›)
      | split
      | fail
  | cons p rest ih =>
    unfold remoteWritesReady
    repeat' with_reducible first
      | assumption
      | apply ih
      | (refine entriesSub ?_ he; decide)
      | exact he _ (by decide)
      | (intro _)
      | (simp -zeta -zetaDelta only [keep_mk]; apply keepL_of; any_goals first | exact .inr rfl | exact .inl (hw _ (by decide)) | exact .inr (fun x => x) | exact .inr (fun _ => rfl))
      | refine Or.inl ⟨hw _ (by decide), ?_⟩
      | apply canonical_filter
      | apply canonical_putBytes
      | apply canonical_foldl_cput
      | apply canonical_nil
      | exact Canon.mem (Keep.canon ‹_›)
      | (fail_if_no_progress extract_lets +onlyGivenNames z; first | (have hz : Keep m a z := ?_; (on_goal 2 => subst z); clear_value z) | (have hz : KeepP m a z := ?_; (on_goal 2 => subst z); clear_value z) | (have hz : KeepO m a z := ?_; (on_goal 2 => subst z); clear_value z) | (have hz : KeepF m a z := ?_; (on_goal 2 => subst z); clear_value z) | (have hz : KeepPO m a z := ?_; (on_goal 2 => subst z); clear_value z) | (first | have _ : Mem := z | have _ : Clocks := z | have _ : Snuffer := z | have _ : Keeper := z) | clear_value z)
      | apply keep_ite
      | apply keepO_ok
      | apply keepO_wait
      | apply keepO_fail
      | apply keepO_ite
      | apply addCell_keep
      | apply countE_keep
      | (apply keep_okE; assumption)
      | (apply keep_waitE; assumption)
      | (apply keep_failE; assumption)
      | (refine keep_of_ok ?_ ‹_ = Out.ok _ _›)
      | (refine keep_of_wait ?_ ‹_ = Out.wait _›)
      | (refine keep_of_fail ?_ ‹_ = Out.fail _ _›)
      | apply keep_state
      | (refine keepO_of_some ?_ ‹_ = some _›)
      | split
      | fail

theorem putPieces_keep {s : State} {a' : Acc} {d : Data} {at_ : Nat} {y0 : List Piece} (h_s : Keep m a s) (hw : ∀ p ∈ ([.clocks, .memory, .bytes, .hostBytes, .hostPoison, .fabric, .ranges, .queues, .floss, .snuffer, .darner] : List StatePart), p ∈ m.parts) (he : ∀ e ∈ ([0x500001, 0x500002, 0x500003, 0x500004, 0x500006, 0x500007, 0x500008, 0x510002, 0x600001, 0x600003, 0x810008] : List Nat), m.entry e) : Keep m a (putPieces s a' d at_ y0) := by
  induction y0 generalizing s a' d at_ with
  | nil =>
    unfold putPieces
    repeat' with_reducible first
      | assumption
      | apply ih
      | (refine partsSub ?_ hw; decide)
      | (refine entriesSub ?_ he; decide)
      | exact he _ (by decide)
      | (intro _)
      | (simp -zeta -zetaDelta only [keep_mk]; apply keepL_of; any_goals first | exact .inr rfl | exact .inl (hw _ (by decide)) | exact .inr (fun x => x) | exact .inr (fun _ => rfl))
      | (fail_if_no_progress extract_lets +onlyGivenNames z; first | (have hz : Keep m a z := ?_; (on_goal 2 => subst z); clear_value z) | (have hz : KeepP m a z := ?_; (on_goal 2 => subst z); clear_value z) | (have hz : KeepO m a z := ?_; (on_goal 2 => subst z); clear_value z) | (have hz : KeepF m a z := ?_; (on_goal 2 => subst z); clear_value z) | (have hz : KeepPO m a z := ?_; (on_goal 2 => subst z); clear_value z) | (first | have _ : Mem := z | have _ : Clocks := z | have _ : Snuffer := z | have _ : Keeper := z) | clear_value z)
      | apply keep_ite
      | apply keepO_ok
      | apply keepO_wait
      | apply keepO_fail
      | apply keepO_ite
      | apply writeRun_keep
      | apply crossTo_keep
      | apply sendRemote_keep
      | apply writeHost_keep
      | apply countPage_keep
      | (apply keep_okE; assumption)
      | (apply keep_waitE; assumption)
      | (apply keep_failE; assumption)
      | (refine keep_of_ok ?_ ‹_ = Out.ok _ _›)
      | (refine keep_of_wait ?_ ‹_ = Out.wait _›)
      | (refine keep_of_fail ?_ ‹_ = Out.fail _ _›)
      | apply keep_state
      | (refine keepO_of_some ?_ ‹_ = some _›)
      | split
      | fail
  | cons p rest ih =>
    unfold putPieces
    repeat' with_reducible first
      | assumption
      | apply ih
      | (refine partsSub ?_ hw; decide)
      | (refine entriesSub ?_ he; decide)
      | exact he _ (by decide)
      | (intro _)
      | (simp -zeta -zetaDelta only [keep_mk]; apply keepL_of; any_goals first | exact .inr rfl | exact .inl (hw _ (by decide)) | exact .inr (fun x => x) | exact .inr (fun _ => rfl))
      | (fail_if_no_progress extract_lets +onlyGivenNames z; first | (have hz : Keep m a z := ?_; (on_goal 2 => subst z); clear_value z) | (have hz : KeepP m a z := ?_; (on_goal 2 => subst z); clear_value z) | (have hz : KeepO m a z := ?_; (on_goal 2 => subst z); clear_value z) | (have hz : KeepF m a z := ?_; (on_goal 2 => subst z); clear_value z) | (have hz : KeepPO m a z := ?_; (on_goal 2 => subst z); clear_value z) | (first | have _ : Mem := z | have _ : Clocks := z | have _ : Snuffer := z | have _ : Keeper := z) | clear_value z)
      | apply keep_ite
      | apply keepO_ok
      | apply keepO_wait
      | apply keepO_fail
      | apply keepO_ite
      | apply writeRun_keep
      | apply crossTo_keep
      | apply sendRemote_keep
      | apply writeHost_keep
      | apply countPage_keep
      | (apply keep_okE; assumption)
      | (apply keep_waitE; assumption)
      | (apply keep_failE; assumption)
      | (refine keep_of_ok ?_ ‹_ = Out.ok _ _›)
      | (refine keep_of_wait ?_ ‹_ = Out.wait _›)
      | (refine keep_of_fail ?_ ‹_ = Out.fail _ _›)
      | apply keep_state
      | (refine keepO_of_some ?_ ‹_ = some _›)
      | split
      | fail

theorem writeVaBad_keep {s : State} {a' : Acc} {va : Nat} {bs : List Byte} {bad : List (Nat × Nat)} {own : Bool} (h_s : Keep m a s) (hw : ∀ p ∈ ([.clocks, .memory, .bytes, .hostBytes, .hostPoison, .lanterns, .fabric, .ranges, .queues, .floss, .snuffer, .darner] : List StatePart), p ∈ m.parts) (he : ∀ e ∈ ([0x500001, 0x500002, 0x500003, 0x500004, 0x500006, 0x500007, 0x500008, 0x510002, 0x600001, 0x600003, 0x700009, 0x810008] : List Nat), m.entry e) : KeepO m a (writeVaBad s a' va bs bad own) := by
  unfold writeVaBad
  repeat' with_reducible first
    | assumption
    | (refine partsSub ?_ hw; decide)
    | (refine entriesSub ?_ he; decide)
    | exact he _ (by decide)
    | (intro _)
    | (fail_if_no_progress extract_lets +onlyGivenNames z; first | (have hz : Keep m a z := ?_; (on_goal 2 => subst z); clear_value z) | (have hz : KeepP m a z := ?_; (on_goal 2 => subst z); clear_value z) | (have hz : KeepO m a z := ?_; (on_goal 2 => subst z); clear_value z) | (have hz : KeepF m a z := ?_; (on_goal 2 => subst z); clear_value z) | (have hz : KeepPO m a z := ?_; (on_goal 2 => subst z); clear_value z) | (first | have _ : Mem := z | have _ : Clocks := z | have _ : Snuffer := z | have _ : Keeper := z) | clear_value z)
    | apply keep_ite
    | apply keepO_ok
    | apply keepO_wait
    | apply keepO_fail
    | apply keepO_ite
    | simp -zeta -zetaDelta only [keepF_iff]
    | apply keepF_ite
    | apply translateAll_keep
    | apply piecesReady_keep
    | apply remoteWritesReady_keep
    | apply putPieces_keep
    | (refine keep_foldl ?_ (fun _ _ _ => ?_))
    | (refine keepF_foldl ?_ (fun _ _ _ => ?_))
    | (refine keepO_foldl ?_ (fun _ _ _ => ?_))
    | (refine keepO_andThen ?_ (fun _ _ _ => ?_))
    | (apply keep_okE; assumption)
    | (apply keep_waitE; assumption)
    | (apply keep_failE; assumption)
    | (refine keep_of_ok ?_ ‹_ = Out.ok _ _›)
    | (refine keep_of_wait ?_ ‹_ = Out.wait _›)
    | (refine keep_of_fail ?_ ‹_ = Out.fail _ _›)
    | apply keep_state
    | (refine keepO_of_some ?_ ‹_ = some _›)
    | (apply keep_pairE; assumption)
    | (refine keep_of_pair ?_ ‹_ = (_, _)›)
    | simp -zeta -zetaDelta only [keep_snd]
    | (apply keep_fstE; assumption)
    | (refine keep_of_fst ?_ ‹_ = (_, _)›)
    | simp -zeta -zetaDelta only [keep_fst]
    | fail

theorem writeVa_keep {s : State} {a' : Acc} {va : Nat} {d : Data} {own : Bool} (h_s : Keep m a s) (hw : ∀ p ∈ ([.clocks, .memory, .bytes, .hostBytes, .hostPoison, .lanterns, .fabric, .ranges, .queues, .floss, .snuffer, .darner] : List StatePart), p ∈ m.parts) (he : ∀ e ∈ ([0x500001, 0x500002, 0x500003, 0x500004, 0x500006, 0x500007, 0x500008, 0x510002, 0x600001, 0x600003, 0x700009, 0x810008] : List Nat), m.entry e) : KeepO m a (writeVa s a' va d own) := by
  unfold writeVa
  repeat' with_reducible first
    | assumption
    | (refine partsSub ?_ hw; decide)
    | (refine entriesSub ?_ he; decide)
    | exact he _ (by decide)
    | (intro _)
    | (fail_if_no_progress extract_lets +onlyGivenNames z; first | (have hz : Keep m a z := ?_; (on_goal 2 => subst z); clear_value z) | (have hz : KeepP m a z := ?_; (on_goal 2 => subst z); clear_value z) | (have hz : KeepO m a z := ?_; (on_goal 2 => subst z); clear_value z) | (have hz : KeepF m a z := ?_; (on_goal 2 => subst z); clear_value z) | (have hz : KeepPO m a z := ?_; (on_goal 2 => subst z); clear_value z) | (first | have _ : Mem := z | have _ : Clocks := z | have _ : Snuffer := z | have _ : Keeper := z) | clear_value z)
    | apply keep_ite
    | apply keepO_ok
    | apply keepO_wait
    | apply keepO_fail
    | apply keepO_ite
    | apply writeVaBad_keep
    | fail

theorem placeVa_keep {s : State} {a' : Acc} {va n kind : Nat} {write : Bool} (h_s : Keep m a s) (hw : ∀ p ∈ ([.clocks, .lanterns, .ranges] : List StatePart), p ∈ m.parts) (he : ∀ e ∈ ([0x600001, 0x600003, 0x700009, 0x810008] : List Nat), m.entry e) : KeepO m a (placeVa s a' va n kind write) := by
  unfold placeVa
  repeat' with_reducible first
    | assumption
    | (refine partsSub ?_ hw; decide)
    | (refine entriesSub ?_ he; decide)
    | exact he _ (by decide)
    | (intro _)
    | (fail_if_no_progress extract_lets +onlyGivenNames z; first | (have hz : Keep m a z := ?_; (on_goal 2 => subst z); clear_value z) | (have hz : KeepP m a z := ?_; (on_goal 2 => subst z); clear_value z) | (have hz : KeepO m a z := ?_; (on_goal 2 => subst z); clear_value z) | (have hz : KeepF m a z := ?_; (on_goal 2 => subst z); clear_value z) | (have hz : KeepPO m a z := ?_; (on_goal 2 => subst z); clear_value z) | (first | have _ : Mem := z | have _ : Clocks := z | have _ : Snuffer := z | have _ : Keeper := z) | clear_value z)
    | apply keep_ite
    | apply keepO_ok
    | apply keepO_wait
    | apply keepO_fail
    | apply keepO_ite
    | apply translate_keep
    | apply piecesReady_keep
    | (refine keepO_andThen ?_ (fun _ _ _ => ?_))
    | fail

theorem rangeCommit_keep {s : State} {who : Req} {row : Nat} {w0 : Word} (h_s : Keep m a s) (hw : ∀ p ∈ ([.ranges] : List StatePart), p ∈ m.parts) (he : ∀ e ∈ ([0x700001, 0x700002] : List Nat), m.entry e) : Keep m a (rangeCommit s who row w0) := by
  unfold rangeCommit
  repeat' with_reducible first
    | assumption
    | (refine partsSub ?_ hw; decide)
    | (refine entriesSub ?_ he; decide)
    | exact he _ (by decide)
    | (intro _)
    | (simp -zeta -zetaDelta only [keep_mk]; apply keepL_of; any_goals first | exact .inr rfl | exact .inl (hw _ (by decide)) | exact .inr (fun x => x) | exact .inr (fun _ => rfl))
    | (fail_if_no_progress extract_lets +onlyGivenNames z; first | (have hz : Keep m a z := ?_; (on_goal 2 => subst z); clear_value z) | (have hz : KeepP m a z := ?_; (on_goal 2 => subst z); clear_value z) | (have hz : KeepO m a z := ?_; (on_goal 2 => subst z); clear_value z) | (have hz : KeepF m a z := ?_; (on_goal 2 => subst z); clear_value z) | (have hz : KeepPO m a z := ?_; (on_goal 2 => subst z); clear_value z) | (first | have _ : Mem := z | have _ : Clocks := z | have _ : Snuffer := z | have _ : Keeper := z) | clear_value z)
    | apply keep_ite
    | apply setCell_keep
    | apply setReg_keep
    | apply hw
    | apply he
    | split
    | fail

theorem parkAccess_keep {s : State} {x : XReq} {type row : Nat} (h_s : Keep m a s) (hw : ∀ p ∈ ([.ranges] : List StatePart), p ∈ m.parts) (he : ∀ e ∈ ([0x600001, 0x710005, 0x810008] : List Nat), m.entry e) : Keep m a (parkAccess s x type row) := by
  unfold parkAccess
  repeat' with_reducible first
    | assumption
    | (refine partsSub ?_ hw; decide)
    | (refine entriesSub ?_ he; decide)
    | exact he _ (by decide)
    | (intro _)
    | (simp -zeta -zetaDelta only [keep_mk]; apply keepL_of; any_goals first | exact .inr rfl | exact .inl (hw _ (by decide)) | exact .inr (fun x => x) | exact .inr (fun _ => rfl))
    | (fail_if_no_progress extract_lets +onlyGivenNames z; first | (have hz : Keep m a z := ?_; (on_goal 2 => subst z); clear_value z) | (have hz : KeepP m a z := ?_; (on_goal 2 => subst z); clear_value z) | (have hz : KeepO m a z := ?_; (on_goal 2 => subst z); clear_value z) | (have hz : KeepF m a z := ?_; (on_goal 2 => subst z); clear_value z) | (have hz : KeepPO m a z := ?_; (on_goal 2 => subst z); clear_value z) | (first | have _ : Mem := z | have _ : Clocks := z | have _ : Snuffer := z | have _ : Keeper := z) | clear_value z)
    | apply keep_ite
    | simp -zeta -zetaDelta only [keepP_iff]
    | apply keepP_ite
    | apply addCell_keep
    | apply bump_keep
    | apply countHub_keep
    | fail

theorem walk_keep {s : State} {x : XReq} (h_s : Keep m a s) (hw : ∀ p ∈ ([.clocks, .memory, .bytes, .fabric, .ranges, .floss, .snuffer, .darner] : List StatePart), p ∈ m.parts) (he : ∀ e ∈ ([0x500001, 0x500002, 0x500003, 0x500004, 0x500006, 0x500007, 0x500008, 0x510002, 0x600001, 0x600003, 0x700009] : List Nat), m.entry e) : KeepP m a (walk s x) := by
  unfold walk
  repeat' with_reducible first
    | assumption
    | (refine partsSub ?_ hw; decide)
    | (refine entriesSub ?_ he; decide)
    | exact he _ (by decide)
    | (intro _)
    | (simp -zeta -zetaDelta only [keep_mk]; apply keepL_of; any_goals first | exact .inr rfl | exact .inl (hw _ (by decide)) | exact .inr (fun x => x) | exact .inr (fun _ => rfl))
    | (fail_if_no_progress extract_lets +onlyGivenNames z; first | (have hz : Keep m a z := ?_; (on_goal 2 => subst z); clear_value z) | (have hz : KeepP m a z := ?_; (on_goal 2 => subst z); clear_value z) | (have hz : KeepO m a z := ?_; (on_goal 2 => subst z); clear_value z) | (have hz : KeepF m a z := ?_; (on_goal 2 => subst z); clear_value z) | (have hz : KeepPO m a z := ?_; (on_goal 2 => subst z); clear_value z) | (have hz : ∀ s, Keep m a s → Keep m a (z s) := ?_; (on_goal 2 => (subst z; intros; beta_reduce)); clear_value z) | (have hz : ∀ s x, Keep m a s → Keep m a (z s x) := ?_; (on_goal 2 => (subst z; intros; beta_reduce)); clear_value z) | (have hz : ∀ s x, Keep m a s → KeepO m a (z s x) := ?_; (on_goal 2 => (subst z; intros; beta_reduce)); clear_value z) | (have hz : ∀ x s, Keep m a s → Keep m a (z x s) := ?_; (on_goal 2 => (subst z; intros; beta_reduce)); clear_value z) | (have hz : ∀ s, Keep m a s → KeepO m a (z s) := ?_; (on_goal 2 => (subst z; intros; beta_reduce)); clear_value z) | (have hz : ∀ x, Keep m a (z x) := ?_; (on_goal 2 => (subst z; intros; beta_reduce)); clear_value z) | (have hz : ∀ x y s, Keep m a s → Keep m a (z x y s) := ?_; (on_goal 2 => (subst z; intros; beta_reduce)); clear_value z) | (have hz : ∀ o x, KeepO m a o → KeepOO m a (z o x) := ?_; (on_goal 2 => (subst z; intros; beta_reduce)); clear_value z) | (have hz : ∀ s, Keep m a s → KeepP m a (z s) := ?_; (on_goal 2 => (subst z; intros; beta_reduce)); clear_value z) | (have hz : ∀ x, KeepP m a (z x) := ?_; (on_goal 2 => (subst z; intros; beta_reduce)); clear_value z) | (have hz : ∀ s x y, Keep m a s → Keep m a (z s x y) := ?_; (on_goal 2 => (subst z; intros; beta_reduce)); clear_value z) | (have hz : ∀ s x, Keep m a s → KeepOO m a (z s x) := ?_; (on_goal 2 => (subst z; intros; beta_reduce)); clear_value z) | (have hz : ∀ x o, KeepO m a o → KeepOO m a (z x o) := ?_; (on_goal 2 => (subst z; intros; beta_reduce)); clear_value z) | (have hz : ∀ x y, KeepP m a (z x y) := ?_; (on_goal 2 => (subst z; intros; beta_reduce)); clear_value z) | (have hz : ∀ s x y w, Keep m a s → Keep m a (z s x y w) := ?_; (on_goal 2 => (subst z; intros; beta_reduce)); clear_value z) | (first | have _ : Mem := z | have _ : Clocks := z | have _ : Snuffer := z | have _ : Keeper := z) | clear_value z)
    | apply hz
    | apply keep_ite
    | apply keepO_ok
    | apply keepO_wait
    | apply keepO_fail
    | apply keepO_ite
    | simp -zeta -zetaDelta only [keepP_iff]
    | apply keepP_ite
    | apply needClock_keep
    | apply readRun_keep
    | apply crossTo_keep
    | apply rightsEvent_keep
    | (apply keep_okE; assumption)
    | (apply keep_waitE; assumption)
    | (apply keep_failE; assumption)
    | (refine keep_of_ok ?_ ‹_ = Out.ok _ _›)
    | (refine keep_of_wait ?_ ‹_ = Out.wait _›)
    | (refine keep_of_fail ?_ ‹_ = Out.fail _ _›)
    | apply keep_state
    | (refine keepO_of_some ?_ ‹_ = some _›)
    | (apply keep_pairE; assumption)
    | (refine keep_of_pair ?_ ‹_ = (_, _)›)
    | simp -zeta -zetaDelta only [keep_snd]
    | (apply keep_fstE; assumption)
    | (refine keep_of_fst ?_ ‹_ = (_, _)›)
    | simp -zeta -zetaDelta only [keep_fst]
    | apply_assumption [-hw, -he]
    | split
    | fail

theorem startWalks_keep {s : State} (h_s : Keep m a s) (hw : ∀ p ∈ ([.ranges] : List StatePart), p ∈ m.parts) : Keep m a (startWalks s) := by
  unfold startWalks
  repeat' with_reducible first
    | assumption
    | (refine partsSub ?_ hw; decide)
    | (intro _)
    | (simp -zeta -zetaDelta only [keep_mk]; apply keepL_of; any_goals first | exact .inr rfl | exact .inl (hw _ (by decide)) | exact .inr (fun x => x) | exact .inr (fun _ => rfl))
    | (fail_if_no_progress extract_lets +onlyGivenNames z; first | (have hz : Keep m a z := ?_; (on_goal 2 => subst z); clear_value z) | (have hz : KeepP m a z := ?_; (on_goal 2 => subst z); clear_value z) | (have hz : KeepO m a z := ?_; (on_goal 2 => subst z); clear_value z) | (have hz : KeepF m a z := ?_; (on_goal 2 => subst z); clear_value z) | (have hz : KeepPO m a z := ?_; (on_goal 2 => subst z); clear_value z) | (first | have _ : Mem := z | have _ : Clocks := z | have _ : Snuffer := z | have _ : Keeper := z) | clear_value z)
    | apply keep_ite
    | (refine keep_foldl ?_ (fun _ _ _ => ?_))
    | split
    | fail

theorem walkReturns_keep {s : State} {n : Nat} (h_s : Keep m a s) (hw : ∀ p ∈ ([.clocks, .memory, .bytes, .fabric, .ranges, .floss, .snuffer, .darner] : List StatePart), p ∈ m.parts) (he : ∀ e ∈ ([0x500001, 0x500002, 0x500003, 0x500004, 0x500006, 0x500007, 0x500008, 0x510002, 0x600001, 0x600003, 0x700009, 0x710005, 0x810008] : List Nat), m.entry e) : Keep m a (walkReturns s n) := by
  unfold walkReturns
  repeat' with_reducible first
    | assumption
    | (refine partsSub ?_ hw; decide)
    | (refine entriesSub ?_ he; decide)
    | exact he _ (by decide)
    | (intro _)
    | (simp -zeta -zetaDelta only [keep_mk]; apply keepL_of; any_goals first | exact .inr rfl | exact .inl (hw _ (by decide)) | exact .inr (fun x => x) | exact .inr (fun _ => rfl))
    | (fail_if_no_progress extract_lets +onlyGivenNames z; first | (have hz : Keep m a z := ?_; (on_goal 2 => subst z); clear_value z) | (have hz : KeepP m a z := ?_; (on_goal 2 => subst z); clear_value z) | (have hz : KeepO m a z := ?_; (on_goal 2 => subst z); clear_value z) | (have hz : KeepF m a z := ?_; (on_goal 2 => subst z); clear_value z) | (have hz : KeepPO m a z := ?_; (on_goal 2 => subst z); clear_value z) | (first | have _ : Mem := z | have _ : Clocks := z | have _ : Snuffer := z | have _ : Keeper := z) | clear_value z)
    | apply keep_ite
    | apply keepO_ok
    | apply keepO_wait
    | apply keepO_fail
    | apply keepO_ite
    | simp -zeta -zetaDelta only [keepP_iff]
    | apply keepP_ite
    | apply fillLook_keep
    | apply parkAccess_keep
    | apply walk_keep
    | (apply keep_okE; assumption)
    | (apply keep_waitE; assumption)
    | (apply keep_failE; assumption)
    | (refine keep_of_ok ?_ ‹_ = Out.ok _ _›)
    | (refine keep_of_wait ?_ ‹_ = Out.wait _›)
    | (refine keep_of_fail ?_ ‹_ = Out.fail _ _›)
    | apply keep_state
    | (refine keepO_of_some ?_ ‹_ = some _›)
    | (apply keep_pairE; assumption)
    | (refine keep_of_pair ?_ ‹_ = (_, _)›)
    | simp -zeta -zetaDelta only [keep_snd]
    | (apply keep_fstE; assumption)
    | (refine keep_of_fst ?_ ‹_ = (_, _)›)
    | simp -zeta -zetaDelta only [keep_fst]
    | split
    | fail

theorem walkComplete_keep {s : State} {n : Nat} (h_s : Keep m a s) (hw : ∀ p ∈ ([.clocks, .memory, .bytes, .fabric, .ranges, .floss, .snuffer, .darner] : List StatePart), p ∈ m.parts) (he : ∀ e ∈ ([0x500001, 0x500002, 0x500003, 0x500004, 0x500006, 0x500007, 0x500008, 0x510002, 0x600001, 0x600003, 0x700009, 0x710005, 0x810008] : List Nat), m.entry e) : Keep m a (walkComplete s n) := by
  unfold walkComplete
  repeat' with_reducible first
    | assumption
    | (refine partsSub ?_ hw; decide)
    | (refine entriesSub ?_ he; decide)
    | exact he _ (by decide)
    | (intro _)
    | (simp -zeta -zetaDelta only [keep_mk]; apply keepL_of; any_goals first | exact .inr rfl | exact .inl (hw _ (by decide)) | exact .inr (fun x => x) | exact .inr (fun _ => rfl))
    | (fail_if_no_progress extract_lets +onlyGivenNames z; first | (have hz : Keep m a z := ?_; (on_goal 2 => subst z); clear_value z) | (have hz : KeepP m a z := ?_; (on_goal 2 => subst z); clear_value z) | (have hz : KeepO m a z := ?_; (on_goal 2 => subst z); clear_value z) | (have hz : KeepF m a z := ?_; (on_goal 2 => subst z); clear_value z) | (have hz : KeepPO m a z := ?_; (on_goal 2 => subst z); clear_value z) | (have hz : ∀ s, Keep m a s → Keep m a (z s) := ?_; (on_goal 2 => (subst z; intros; beta_reduce)); clear_value z) | (have hz : ∀ s x, Keep m a s → Keep m a (z s x) := ?_; (on_goal 2 => (subst z; intros; beta_reduce)); clear_value z) | (have hz : ∀ s x, Keep m a s → KeepO m a (z s x) := ?_; (on_goal 2 => (subst z; intros; beta_reduce)); clear_value z) | (have hz : ∀ x s, Keep m a s → Keep m a (z x s) := ?_; (on_goal 2 => (subst z; intros; beta_reduce)); clear_value z) | (have hz : ∀ s, Keep m a s → KeepO m a (z s) := ?_; (on_goal 2 => (subst z; intros; beta_reduce)); clear_value z) | (have hz : ∀ x, Keep m a (z x) := ?_; (on_goal 2 => (subst z; intros; beta_reduce)); clear_value z) | (have hz : ∀ x y s, Keep m a s → Keep m a (z x y s) := ?_; (on_goal 2 => (subst z; intros; beta_reduce)); clear_value z) | (have hz : ∀ o x, KeepO m a o → KeepOO m a (z o x) := ?_; (on_goal 2 => (subst z; intros; beta_reduce)); clear_value z) | (have hz : ∀ s, Keep m a s → KeepP m a (z s) := ?_; (on_goal 2 => (subst z; intros; beta_reduce)); clear_value z) | (have hz : ∀ x, KeepP m a (z x) := ?_; (on_goal 2 => (subst z; intros; beta_reduce)); clear_value z) | (have hz : ∀ s x y, Keep m a s → Keep m a (z s x y) := ?_; (on_goal 2 => (subst z; intros; beta_reduce)); clear_value z) | (have hz : ∀ s x, Keep m a s → KeepOO m a (z s x) := ?_; (on_goal 2 => (subst z; intros; beta_reduce)); clear_value z) | (have hz : ∀ x o, KeepO m a o → KeepOO m a (z x o) := ?_; (on_goal 2 => (subst z; intros; beta_reduce)); clear_value z) | (have hz : ∀ x y, KeepP m a (z x y) := ?_; (on_goal 2 => (subst z; intros; beta_reduce)); clear_value z) | (have hz : ∀ s x y w, Keep m a s → Keep m a (z s x y w) := ?_; (on_goal 2 => (subst z; intros; beta_reduce)); clear_value z) | (first | have _ : Mem := z | have _ : Clocks := z | have _ : Snuffer := z | have _ : Keeper := z) | clear_value z)
    | apply hz
    | apply keep_ite
    | apply startWalks_keep
    | apply walkReturns_keep
    | fail

theorem faultRecordWrite_keep {s : State} {h : Nat} (h_s : Keep m a s) (hw : ∀ p ∈ ([.hostBytes, .hostPoison, .fabric, .ranges, .queues, .floss] : List StatePart), p ∈ m.parts) (he : ∀ e ∈ ([0x600001, 0x710003, 0x710004, 0x810008] : List Nat), m.entry e) : Keep m a (faultRecordWrite s h) := by
  unfold faultRecordWrite
  repeat' with_reducible first
    | assumption
    | (refine partsSub ?_ hw; decide)
    | (refine entriesSub ?_ he; decide)
    | exact he _ (by decide)
    | (intro _)
    | (simp -zeta -zetaDelta only [keep_mk]; apply keepL_of; any_goals first | exact .inr rfl | exact .inl (hw _ (by decide)) | exact .inr (fun x => x) | exact .inr (fun _ => rfl))
    | (fail_if_no_progress extract_lets +onlyGivenNames z; first | (have hz : Keep m a z := ?_; (on_goal 2 => subst z); clear_value z) | (have hz : KeepP m a z := ?_; (on_goal 2 => subst z); clear_value z) | (have hz : KeepO m a z := ?_; (on_goal 2 => subst z); clear_value z) | (have hz : KeepF m a z := ?_; (on_goal 2 => subst z); clear_value z) | (have hz : KeepPO m a z := ?_; (on_goal 2 => subst z); clear_value z) | (first | have _ : Mem := z | have _ : Clocks := z | have _ : Snuffer := z | have _ : Keeper := z) | clear_value z)
    | apply keep_ite
    | apply frWrite_keep
    | split
    | fail

theorem dropCtxX_keep {s : State} {ctx : Nat} (h_s : Keep m a s) (hw : ∀ p ∈ ([.ranges] : List StatePart), p ∈ m.parts) : Keep m a (dropCtxX s ctx) := by
  unfold dropCtxX
  repeat' with_reducible first
    | assumption
    | (refine partsSub ?_ hw; decide)
    | (intro _)
    | (simp -zeta -zetaDelta only [keep_mk]; apply keepL_of; any_goals first | exact .inr rfl | exact .inl (hw _ (by decide)) | exact .inr (fun x => x) | exact .inr (fun _ => rfl))
    | fail

theorem dropEngX_keep {s : State} {eng : Eng} (h_s : Keep m a s) (hw : ∀ p ∈ ([.ranges] : List StatePart), p ∈ m.parts) : Keep m a (dropEngX s eng) := by
  unfold dropEngX
  repeat' with_reducible first
    | assumption
    | (refine partsSub ?_ hw; decide)
    | (intro _)
    | (simp -zeta -zetaDelta only [keep_mk]; apply keepL_of; any_goals first | exact .inr rfl | exact .inl (hw _ (by decide)) | exact .inr (fun x => x) | exact .inr (fun _ => rfl))
    | fail

theorem faultRecordTimeout_keep {s : State} {h : Nat} (h_s : Keep m a s) (hw : ∀ p ∈ ([.ranges, .snuffer] : List StatePart), p ∈ m.parts) (he : ∀ e ∈ ([0x510002] : List Nat), m.entry e) : Keep m a (faultRecordTimeout s h) := by
  unfold faultRecordTimeout
  repeat' with_reducible first
    | assumption
    | (refine partsSub ?_ hw; decide)
    | (refine entriesSub ?_ he; decide)
    | exact he _ (by decide)
    | (intro _)
    | (simp -zeta -zetaDelta only [keep_mk]; apply keepL_of; any_goals first | exact .inr rfl | exact .inl (hw _ (by decide)) | exact .inr (fun x => x) | exact .inr (fun _ => rfl))
    | (fail_if_no_progress extract_lets +onlyGivenNames z; first | (have hz : Keep m a z := ?_; (on_goal 2 => subst z); clear_value z) | (have hz : KeepP m a z := ?_; (on_goal 2 => subst z); clear_value z) | (have hz : KeepO m a z := ?_; (on_goal 2 => subst z); clear_value z) | (have hz : KeepF m a z := ?_; (on_goal 2 => subst z); clear_value z) | (have hz : KeepPO m a z := ?_; (on_goal 2 => subst z); clear_value z) | (first | have _ : Mem := z | have _ : Clocks := z | have _ : Snuffer := z | have _ : Keeper := z) | clear_value z)
    | apply keep_ite
    | apply startReset_keep
    | apply dropCtxX_keep
    | split
    | fail

theorem frApply_keep {s : State} {h : Nat} (h_s : Keep m a s) (hw : ∀ p ∈ ([.staged] : List StatePart), p ∈ m.parts) (he : ∀ e ∈ ([0x710001, 0x710004] : List Nat), m.entry e) : Keep m a (frApply s h) := by
  unfold frApply
  repeat' with_reducible first
    | assumption
    | (refine partsSub ?_ hw; decide)
    | (refine entriesSub ?_ he; decide)
    | exact he _ (by decide)
    | (intro _)
    | (simp -zeta -zetaDelta only [keep_mk]; apply keepL_of; any_goals first | exact .inr rfl | exact .inl (hw _ (by decide)) | exact .inr (fun x => x) | exact .inr (fun _ => rfl))
    | (fail_if_no_progress extract_lets +onlyGivenNames z; first | (have hz : Keep m a z := ?_; (on_goal 2 => subst z); clear_value z) | (have hz : KeepP m a z := ?_; (on_goal 2 => subst z); clear_value z) | (have hz : KeepO m a z := ?_; (on_goal 2 => subst z); clear_value z) | (have hz : KeepF m a z := ?_; (on_goal 2 => subst z); clear_value z) | (have hz : KeepPO m a z := ?_; (on_goal 2 => subst z); clear_value z) | (first | have _ : Mem := z | have _ : Clocks := z | have _ : Snuffer := z | have _ : Keeper := z) | clear_value z)
    | apply keep_ite
    | simp -zeta -zetaDelta only [keepP_iff]
    | apply keepP_ite
    | apply setReg_keep
    | apply setCells_keep
    | apply frShow_keep
    | apply hw
    | apply he
    | (apply keep_pairE; assumption)
    | (refine keep_of_pair ?_ ‹_ = (_, _)›)
    | simp -zeta -zetaDelta only [keep_snd]
    | split
    | fail

theorem frHeadWrite_keep {s : State} {who : Req} {h : Nat} {v : Word} (h_s : Keep m a s) (hw : ∀ p ∈ ([.staged, .answer] : List StatePart), p ∈ m.parts) (he : ∀ e ∈ ([0x710001, 0x710002, 0x710004] : List Nat), m.entry e) : Keep m a (frHeadWrite s who h v) := by
  unfold frHeadWrite
  repeat' with_reducible first
    | assumption
    | (refine partsSub ?_ hw; decide)
    | (refine entriesSub ?_ he; decide)
    | exact he _ (by decide)
    | (intro _)
    | (fail_if_no_progress extract_lets +onlyGivenNames z; first | (have hz : Keep m a z := ?_; (on_goal 2 => subst z); clear_value z) | (have hz : KeepP m a z := ?_; (on_goal 2 => subst z); clear_value z) | (have hz : KeepO m a z := ?_; (on_goal 2 => subst z); clear_value z) | (have hz : KeepF m a z := ?_; (on_goal 2 => subst z); clear_value z) | (have hz : KeepPO m a z := ?_; (on_goal 2 => subst z); clear_value z) | (first | have _ : Mem := z | have _ : Clocks := z | have _ : Snuffer := z | have _ : Keeper := z) | clear_value z)
    | apply keep_ite
    | apply setReg_keep
    | apply result_keep
    | apply frShow_keep
    | apply frApply_keep
    | fail

theorem frConfigWrite_keep {s : State} {who : Req} {h : Nat} {w0 w1 : Word} (h_s : Keep m a s) (hw : ∀ p ∈ ([.staged, .answer] : List StatePart), p ∈ m.parts) (he : ∀ e ∈ ([0x710001, 0x710004] : List Nat), m.entry e) : Keep m a (frConfigWrite s who h w0 w1) := by
  unfold frConfigWrite
  repeat' with_reducible first
    | assumption
    | (refine partsSub ?_ hw; decide)
    | (refine entriesSub ?_ he; decide)
    | exact he _ (by decide)
    | (intro _)
    | (simp -zeta -zetaDelta only [keep_mk]; apply keepL_of; any_goals first | exact .inr rfl | exact .inl (hw _ (by decide)) | exact .inr (fun x => x) | exact .inr (fun _ => rfl))
    | (fail_if_no_progress extract_lets +onlyGivenNames z; first | (have hz : Keep m a z := ?_; (on_goal 2 => subst z); clear_value z) | (have hz : KeepP m a z := ?_; (on_goal 2 => subst z); clear_value z) | (have hz : KeepO m a z := ?_; (on_goal 2 => subst z); clear_value z) | (have hz : KeepF m a z := ?_; (on_goal 2 => subst z); clear_value z) | (have hz : KeepPO m a z := ?_; (on_goal 2 => subst z); clear_value z) | (first | have _ : Mem := z | have _ : Clocks := z | have _ : Snuffer := z | have _ : Keeper := z) | clear_value z)
    | apply keep_ite
    | apply result_keep
    | apply frApply_keep
    | fail

theorem writeBackPage_keep {s : State} {h : Nat} {key bytes : Nat} (h_s : Keep m a s) (hw : ∀ p ∈ ([.clocks, .memory, .bytes, .hostBytes, .hostPoison, .fabric, .ranges, .queues, .floss, .snuffer, .darner] : List StatePart), p ∈ m.parts) (he : ∀ e ∈ ([0x500001, 0x500002, 0x500003, 0x500004, 0x500006, 0x500007, 0x500008, 0x510002, 0x600001, 0x600003, 0x710003, 0x710004, 0x710006, 0x810008] : List Nat), m.entry e) : Keep m a (writeBackPage s h key bytes) := by
  unfold writeBackPage
  repeat' with_reducible first
    | assumption
    | (refine partsSub ?_ hw; decide)
    | (refine entriesSub ?_ he; decide)
    | exact he _ (by decide)
    | (intro _)
    | (simp -zeta -zetaDelta only [keep_mk]; apply keepL_of; any_goals first | exact .inr rfl | exact .inl (hw _ (by decide)) | exact .inr (fun x => x) | exact .inr (fun _ => rfl))
    | (fail_if_no_progress extract_lets +onlyGivenNames z; first | (have hz : Keep m a z := ?_; (on_goal 2 => subst z); clear_value z) | (have hz : KeepP m a z := ?_; (on_goal 2 => subst z); clear_value z) | (have hz : KeepO m a z := ?_; (on_goal 2 => subst z); clear_value z) | (have hz : KeepF m a z := ?_; (on_goal 2 => subst z); clear_value z) | (have hz : KeepPO m a z := ?_; (on_goal 2 => subst z); clear_value z) | (first | have _ : Mem := z | have _ : Clocks := z | have _ : Snuffer := z | have _ : Keeper := z) | clear_value z)
    | apply keep_ite
    | simp -zeta -zetaDelta only [keepP_iff]
    | apply keepP_ite
    | apply bump_keep
    | apply readRun_keep
    | apply writeRun_keep
    | apply crossTo_keep
    | apply frWrite_keep
    | (apply keep_pairE; assumption)
    | (refine keep_of_pair ?_ ‹_ = (_, _)›)
    | simp -zeta -zetaDelta only [keep_snd]
    | (apply keep_fstE; assumption)
    | (refine keep_of_fst ?_ ‹_ = (_, _)›)
    | simp -zeta -zetaDelta only [keep_fst]
    | split
    | fail

theorem pageClock_keep {s : State} {key : Nat} (h_s : Keep m a s) (hw : ∀ p ∈ ([.clocks] : List StatePart), p ∈ m.parts) : KeepO m a (pageClock s key) := by
  unfold pageClock
  repeat' with_reducible first
    | assumption
    | (refine partsSub ?_ hw; decide)
    | (intro _)
    | (simp -zeta -zetaDelta only [keep_mk]; apply keepL_of; any_goals first | exact .inr rfl | exact .inl (hw _ (by decide)) | exact .inr (fun x => x) | exact .inr (fun _ => rfl))
    | (fail_if_no_progress extract_lets +onlyGivenNames z; first | (have hz : Keep m a z := ?_; (on_goal 2 => subst z); clear_value z) | (have hz : KeepP m a z := ?_; (on_goal 2 => subst z); clear_value z) | (have hz : KeepO m a z := ?_; (on_goal 2 => subst z); clear_value z) | (have hz : KeepF m a z := ?_; (on_goal 2 => subst z); clear_value z) | (have hz : KeepPO m a z := ?_; (on_goal 2 => subst z); clear_value z) | (first | have _ : Mem := z | have _ : Clocks := z | have _ : Snuffer := z | have _ : Keeper := z) | clear_value z)
    | apply keep_ite
    | apply keepO_ok
    | apply keepO_wait
    | apply keepO_fail
    | apply keepO_ite
    | apply needClock_keep
    | (apply keep_okE; assumption)
    | (apply keep_waitE; assumption)
    | (apply keep_failE; assumption)
    | (refine keep_of_ok ?_ ‹_ = Out.ok _ _›)
    | (refine keep_of_wait ?_ ‹_ = Out.wait _›)
    | (refine keep_of_fail ?_ ‹_ = Out.fail _ _›)
    | apply keep_state
    | (refine keepO_of_some ?_ ‹_ = some _›)
    | split
    | fail

theorem hotWriteBack_keep {s : State} {h : Nat} (h_s : Keep m a s) (hw : ∀ p ∈ ([.clocks, .memory, .bytes, .hostBytes, .hostPoison, .fabric, .ranges, .queues, .floss, .snuffer, .darner] : List StatePart), p ∈ m.parts) (he : ∀ e ∈ ([0x500001, 0x500002, 0x500003, 0x500004, 0x500006, 0x500007, 0x500008, 0x510002, 0x600001, 0x600003, 0x710003, 0x710004, 0x710006, 0x810008] : List Nat), m.entry e) : Keep m a (hotWriteBack s h) := by
  unfold hotWriteBack
  repeat' with_reducible first
    | assumption
    | (refine partsSub ?_ hw; decide)
    | (refine entriesSub ?_ he; decide)
    | exact he _ (by decide)
    | (intro _)
    | (simp -zeta -zetaDelta only [keep_mk]; apply keepL_of; any_goals first | exact .inr rfl | exact .inl (hw _ (by decide)) | exact .inr (fun x => x) | exact .inr (fun _ => rfl))
    | (fail_if_no_progress extract_lets +onlyGivenNames z; first | (have hz : Keep m a z := ?_; (on_goal 2 => subst z); clear_value z) | (have hz : KeepP m a z := ?_; (on_goal 2 => subst z); clear_value z) | (have hz : KeepO m a z := ?_; (on_goal 2 => subst z); clear_value z) | (have hz : KeepF m a z := ?_; (on_goal 2 => subst z); clear_value z) | (have hz : KeepPO m a z := ?_; (on_goal 2 => subst z); clear_value z) | (first | have _ : Mem := z | have _ : Clocks := z | have _ : Snuffer := z | have _ : Keeper := z) | clear_value z)
    | apply keep_ite
    | apply keepO_ok
    | apply keepO_wait
    | apply keepO_fail
    | apply keepO_ite
    | simp -zeta -zetaDelta only [keepF_iff]
    | apply keepF_ite
    | apply writeBackPage_keep
    | apply pageClock_keep
    | (refine keep_foldl ?_ (fun _ _ _ => ?_))
    | (refine keepF_foldl ?_ (fun _ _ _ => ?_))
    | (refine keepO_foldl ?_ (fun _ _ _ => ?_))
    | (apply keep_okE; assumption)
    | (apply keep_waitE; assumption)
    | (apply keep_failE; assumption)
    | (refine keep_of_ok ?_ ‹_ = Out.ok _ _›)
    | (refine keep_of_wait ?_ ‹_ = Out.wait _›)
    | (refine keep_of_fail ?_ ‹_ = Out.fail _ _›)
    | apply keep_state
    | (refine keepO_of_some ?_ ‹_ = some _›)
    | (apply keep_pairE; assumption)
    | (refine keep_of_pair ?_ ‹_ = (_, _)›)
    | simp -zeta -zetaDelta only [keep_snd]
    | (apply keep_fstE; assumption)
    | (refine keep_of_fst ?_ ‹_ = (_, _)›)
    | simp -zeta -zetaDelta only [keep_fst]
    | split
    | fail

theorem invalDropped_keep {s : State} (h_s : Keep m a s) (he : ∀ e ∈ ([0x600001] : List Nat), m.entry e) : Keep m a (invalDropped s) := by
  unfold invalDropped
  repeat' with_reducible first
    | assumption
    | (refine entriesSub ?_ he; decide)
    | exact he _ (by decide)
    | (intro _)
    | (fail_if_no_progress extract_lets +onlyGivenNames z; first | (have hz : Keep m a z := ?_; (on_goal 2 => subst z); clear_value z) | (have hz : KeepP m a z := ?_; (on_goal 2 => subst z); clear_value z) | (have hz : KeepO m a z := ?_; (on_goal 2 => subst z); clear_value z) | (have hz : KeepF m a z := ?_; (on_goal 2 => subst z); clear_value z) | (have hz : KeepPO m a z := ?_; (on_goal 2 => subst z); clear_value z) | (first | have _ : Mem := z | have _ : Clocks := z | have _ : Snuffer := z | have _ : Keeper := z) | clear_value z)
    | apply keep_ite
    | apply countHub_keep
    | fail

theorem acceptInval_keep {s : State} {who : Req} {w : Word} (h_s : Keep m a s) (hw : ∀ p ∈ ([.ranges] : List StatePart), p ∈ m.parts) : Keep m a (acceptInval s who w) := by
  unfold acceptInval
  repeat' with_reducible first
    | assumption
    | (refine partsSub ?_ hw; decide)
    | (intro _)
    | (simp -zeta -zetaDelta only [keep_mk]; apply keepL_of; any_goals first | exact .inr rfl | exact .inl (hw _ (by decide)) | exact .inr (fun x => x) | exact .inr (fun _ => rfl))
    | (fail_if_no_progress extract_lets +onlyGivenNames z; first | (have hz : Keep m a z := ?_; (on_goal 2 => subst z); clear_value z) | (have hz : KeepP m a z := ?_; (on_goal 2 => subst z); clear_value z) | (have hz : KeepO m a z := ?_; (on_goal 2 => subst z); clear_value z) | (have hz : KeepF m a z := ?_; (on_goal 2 => subst z); clear_value z) | (have hz : KeepPO m a z := ?_; (on_goal 2 => subst z); clear_value z) | (have hz : ∀ s, Keep m a s → Keep m a (z s) := ?_; (on_goal 2 => (subst z; intros; beta_reduce)); clear_value z) | (have hz : ∀ s x, Keep m a s → Keep m a (z s x) := ?_; (on_goal 2 => (subst z; intros; beta_reduce)); clear_value z) | (have hz : ∀ s x, Keep m a s → KeepO m a (z s x) := ?_; (on_goal 2 => (subst z; intros; beta_reduce)); clear_value z) | (have hz : ∀ x s, Keep m a s → Keep m a (z x s) := ?_; (on_goal 2 => (subst z; intros; beta_reduce)); clear_value z) | (have hz : ∀ s, Keep m a s → KeepO m a (z s) := ?_; (on_goal 2 => (subst z; intros; beta_reduce)); clear_value z) | (have hz : ∀ x, Keep m a (z x) := ?_; (on_goal 2 => (subst z; intros; beta_reduce)); clear_value z) | (have hz : ∀ x y s, Keep m a s → Keep m a (z x y s) := ?_; (on_goal 2 => (subst z; intros; beta_reduce)); clear_value z) | (have hz : ∀ o x, KeepO m a o → KeepOO m a (z o x) := ?_; (on_goal 2 => (subst z; intros; beta_reduce)); clear_value z) | (have hz : ∀ s, Keep m a s → KeepP m a (z s) := ?_; (on_goal 2 => (subst z; intros; beta_reduce)); clear_value z) | (have hz : ∀ x, KeepP m a (z x) := ?_; (on_goal 2 => (subst z; intros; beta_reduce)); clear_value z) | (have hz : ∀ s x y, Keep m a s → Keep m a (z s x y) := ?_; (on_goal 2 => (subst z; intros; beta_reduce)); clear_value z) | (have hz : ∀ s x, Keep m a s → KeepOO m a (z s x) := ?_; (on_goal 2 => (subst z; intros; beta_reduce)); clear_value z) | (have hz : ∀ x o, KeepO m a o → KeepOO m a (z x o) := ?_; (on_goal 2 => (subst z; intros; beta_reduce)); clear_value z) | (have hz : ∀ x y, KeepP m a (z x y) := ?_; (on_goal 2 => (subst z; intros; beta_reduce)); clear_value z) | (have hz : ∀ s x y w, Keep m a s → Keep m a (z s x y w) := ?_; (on_goal 2 => (subst z; intros; beta_reduce)); clear_value z) | (first | have _ : Mem := z | have _ : Clocks := z | have _ : Snuffer := z | have _ : Keeper := z) | clear_value z)
    | apply hz
    | apply keep_ite
    | simp -zeta -zetaDelta only [keepP_iff]
    | apply keepP_ite
    | apply dropLook_keep
    | fail

theorem holdDoorbell_keep {s : State} {who : Req} {w : Word} (h_s : Keep m a s) (hw : ∀ p ∈ ([.ranges] : List StatePart), p ∈ m.parts) (he : ∀ e ∈ ([0x600001, 0x810008] : List Nat), m.entry e) : Keep m a (holdDoorbell s who w) := by
  unfold holdDoorbell
  repeat' with_reducible first
    | assumption
    | (refine partsSub ?_ hw; decide)
    | (refine entriesSub ?_ he; decide)
    | exact he _ (by decide)
    | (intro _)
    | (simp -zeta -zetaDelta only [keep_mk]; apply keepL_of; any_goals first | exact .inr rfl | exact .inl (hw _ (by decide)) | exact .inr (fun x => x) | exact .inr (fun _ => rfl))
    | (fail_if_no_progress extract_lets +onlyGivenNames z; first | (have hz : Keep m a z := ?_; (on_goal 2 => subst z); clear_value z) | (have hz : KeepP m a z := ?_; (on_goal 2 => subst z); clear_value z) | (have hz : KeepO m a z := ?_; (on_goal 2 => subst z); clear_value z) | (have hz : KeepF m a z := ?_; (on_goal 2 => subst z); clear_value z) | (have hz : KeepPO m a z := ?_; (on_goal 2 => subst z); clear_value z) | (first | have _ : Mem := z | have _ : Clocks := z | have _ : Snuffer := z | have _ : Keeper := z) | clear_value z)
    | apply keep_ite
    | apply addCell_keep
    | apply countP_keep
    | fail

theorem replayHoop_keep {s : State} {h : Nat} (h_s : Keep m a s) (hw : ∀ p ∈ ([.ranges] : List StatePart), p ∈ m.parts) : Keep m a (replayHoop s h) := by
  unfold replayHoop
  repeat' with_reducible first
    | assumption
    | (refine partsSub ?_ hw; decide)
    | (intro _)
    | (simp -zeta -zetaDelta only [keep_mk]; apply keepL_of; any_goals first | exact .inr rfl | exact .inl (hw _ (by decide)) | exact .inr (fun x => x) | exact .inr (fun _ => rfl))
    | (fail_if_no_progress extract_lets +onlyGivenNames z; first | (have hz : Keep m a z := ?_; (on_goal 2 => subst z); clear_value z) | (have hz : KeepP m a z := ?_; (on_goal 2 => subst z); clear_value z) | (have hz : KeepO m a z := ?_; (on_goal 2 => subst z); clear_value z) | (have hz : KeepF m a z := ?_; (on_goal 2 => subst z); clear_value z) | (have hz : KeepPO m a z := ?_; (on_goal 2 => subst z); clear_value z) | (have hz : ∀ s, Keep m a s → Keep m a (z s) := ?_; (on_goal 2 => (subst z; intros; beta_reduce)); clear_value z) | (have hz : ∀ s x, Keep m a s → Keep m a (z s x) := ?_; (on_goal 2 => (subst z; intros; beta_reduce)); clear_value z) | (have hz : ∀ s x, Keep m a s → KeepO m a (z s x) := ?_; (on_goal 2 => (subst z; intros; beta_reduce)); clear_value z) | (have hz : ∀ x s, Keep m a s → Keep m a (z x s) := ?_; (on_goal 2 => (subst z; intros; beta_reduce)); clear_value z) | (have hz : ∀ s, Keep m a s → KeepO m a (z s) := ?_; (on_goal 2 => (subst z; intros; beta_reduce)); clear_value z) | (have hz : ∀ x, Keep m a (z x) := ?_; (on_goal 2 => (subst z; intros; beta_reduce)); clear_value z) | (have hz : ∀ x y s, Keep m a s → Keep m a (z x y s) := ?_; (on_goal 2 => (subst z; intros; beta_reduce)); clear_value z) | (have hz : ∀ o x, KeepO m a o → KeepOO m a (z o x) := ?_; (on_goal 2 => (subst z; intros; beta_reduce)); clear_value z) | (have hz : ∀ s, Keep m a s → KeepP m a (z s) := ?_; (on_goal 2 => (subst z; intros; beta_reduce)); clear_value z) | (have hz : ∀ x, KeepP m a (z x) := ?_; (on_goal 2 => (subst z; intros; beta_reduce)); clear_value z) | (have hz : ∀ s x y, Keep m a s → Keep m a (z s x y) := ?_; (on_goal 2 => (subst z; intros; beta_reduce)); clear_value z) | (have hz : ∀ s x, Keep m a s → KeepOO m a (z s x) := ?_; (on_goal 2 => (subst z; intros; beta_reduce)); clear_value z) | (have hz : ∀ x o, KeepO m a o → KeepOO m a (z x o) := ?_; (on_goal 2 => (subst z; intros; beta_reduce)); clear_value z) | (have hz : ∀ x y, KeepP m a (z x y) := ?_; (on_goal 2 => (subst z; intros; beta_reduce)); clear_value z) | (have hz : ∀ s x y w, Keep m a s → Keep m a (z s x y w) := ?_; (on_goal 2 => (subst z; intros; beta_reduce)); clear_value z) | (first | have _ : Mem := z | have _ : Clocks := z | have _ : Snuffer := z | have _ : Keeper := z) | clear_value z)
    | apply hz
    | apply keep_ite
    | apply startWalks_keep
    | fail

theorem ring_keep {s : State} {b : Bell} {f : State → State} (h_s : Keep m a s) (h_f : ∀ z0, Keep m a z0 → Keep m a (f z0)) (hw : ∀ p ∈ ([.fabric] : List StatePart), p ∈ m.parts) : Keep m a (ring s b f) := by
  unfold ring
  repeat' with_reducible first
    | assumption
    | (refine partsSub ?_ hw; decide)
    | (intro _)
    | (simp -zeta -zetaDelta only [keep_mk]; apply keepL_of; any_goals first | exact .inr rfl | exact .inl (hw _ (by decide)) | exact .inr (fun x => x) | exact .inr (fun _ => rfl))
    | (fail_if_no_progress extract_lets +onlyGivenNames z; first | (have hz : Keep m a z := ?_; (on_goal 2 => subst z); clear_value z) | (have hz : KeepP m a z := ?_; (on_goal 2 => subst z); clear_value z) | (have hz : KeepO m a z := ?_; (on_goal 2 => subst z); clear_value z) | (have hz : KeepF m a z := ?_; (on_goal 2 => subst z); clear_value z) | (have hz : KeepPO m a z := ?_; (on_goal 2 => subst z); clear_value z) | (first | have _ : Mem := z | have _ : Clocks := z | have _ : Snuffer := z | have _ : Keeper := z) | clear_value z)
    | apply keep_ite
    | apply h_f
    | fail

theorem invalNow_keep {s : State} {who : Req} {w : Word} (h_s : Keep m a s) (hw : ∀ p ∈ ([.ranges] : List StatePart), p ∈ m.parts) (he : ∀ e ∈ ([0x600001, 0x810008] : List Nat), m.entry e) : Keep m a (invalNow s who w) := by
  unfold invalNow
  repeat' with_reducible first
    | assumption
    | (refine partsSub ?_ hw; decide)
    | (refine entriesSub ?_ he; decide)
    | exact he _ (by decide)
    | (intro _)
    | (fail_if_no_progress extract_lets +onlyGivenNames z; first | (have hz : Keep m a z := ?_; (on_goal 2 => subst z); clear_value z) | (have hz : KeepP m a z := ?_; (on_goal 2 => subst z); clear_value z) | (have hz : KeepO m a z := ?_; (on_goal 2 => subst z); clear_value z) | (have hz : KeepF m a z := ?_; (on_goal 2 => subst z); clear_value z) | (have hz : KeepPO m a z := ?_; (on_goal 2 => subst z); clear_value z) | (first | have _ : Mem := z | have _ : Clocks := z | have _ : Snuffer := z | have _ : Keeper := z) | clear_value z)
    | apply keep_ite
    | apply invalDropped_keep
    | apply acceptInval_keep
    | apply holdDoorbell_keep
    | apply replayHoop_keep
    | fail

theorem invalDoorbell_keep {s : State} {who : Req} {w : Word} (h_s : Keep m a s) (hw : ∀ p ∈ ([.clocks, .fabric, .ranges, .power] : List StatePart), p ∈ m.parts) (he : ∀ e ∈ ([0x600001, 0x810008] : List Nat), m.entry e) : Keep m a (invalDoorbell s who w) := by
  unfold invalDoorbell
  repeat' with_reducible first
    | assumption
    | (refine partsSub ?_ hw; decide)
    | (refine entriesSub ?_ he; decide)
    | exact he _ (by decide)
    | (intro _)
    | (fail_if_no_progress extract_lets +onlyGivenNames z; first | (have hz : Keep m a z := ?_; (on_goal 2 => subst z); clear_value z) | (have hz : KeepP m a z := ?_; (on_goal 2 => subst z); clear_value z) | (have hz : KeepO m a z := ?_; (on_goal 2 => subst z); clear_value z) | (have hz : KeepF m a z := ?_; (on_goal 2 => subst z); clear_value z) | (have hz : KeepPO m a z := ?_; (on_goal 2 => subst z); clear_value z) | (first | have _ : Mem := z | have _ : Clocks := z | have _ : Snuffer := z | have _ : Keeper := z) | clear_value z)
    | apply keep_ite
    | apply wakeUp_keep
    | apply ring_keep
    | apply invalNow_keep
    | fail

theorem serveDoorbells_keep {s : State} {y0 : List (Req × Word)} (h_s : Keep m a s) (hw : ∀ p ∈ ([.ranges] : List StatePart), p ∈ m.parts) : Keep m a (serveDoorbells s y0) := by
  induction y0 generalizing s with
  | nil =>
    unfold serveDoorbells
    repeat' with_reducible first
      | assumption
      | apply ih
      | (refine partsSub ?_ hw; decide)
      | (intro _)
      | (simp -zeta -zetaDelta only [keep_mk]; apply keepL_of; any_goals first | exact .inr rfl | exact .inl (hw _ (by decide)) | exact .inr (fun x => x) | exact .inr (fun _ => rfl))
      | (fail_if_no_progress extract_lets +onlyGivenNames z; first | (have hz : Keep m a z := ?_; (on_goal 2 => subst z); clear_value z) | (have hz : KeepP m a z := ?_; (on_goal 2 => subst z); clear_value z) | (have hz : KeepO m a z := ?_; (on_goal 2 => subst z); clear_value z) | (have hz : KeepF m a z := ?_; (on_goal 2 => subst z); clear_value z) | (have hz : KeepPO m a z := ?_; (on_goal 2 => subst z); clear_value z) | (first | have _ : Mem := z | have _ : Clocks := z | have _ : Snuffer := z | have _ : Keeper := z) | clear_value z)
      | apply keep_ite
      | apply acceptInval_keep
      | apply replayHoop_keep
      | (apply keep_pairE; assumption)
      | (refine keep_of_pair ?_ ‹_ = (_, _)›)
      | simp -zeta -zetaDelta only [keep_snd]
      | (apply keep_fstE; assumption)
      | (refine keep_of_fst ?_ ‹_ = (_, _)›)
      | simp -zeta -zetaDelta only [keep_fst]
      | split
      | fail
  | cons p rest ih =>
    unfold serveDoorbells
    repeat' with_reducible first
      | assumption
      | apply ih
      | (refine partsSub ?_ hw; decide)
      | (intro _)
      | (simp -zeta -zetaDelta only [keep_mk]; apply keepL_of; any_goals first | exact .inr rfl | exact .inl (hw _ (by decide)) | exact .inr (fun x => x) | exact .inr (fun _ => rfl))
      | (fail_if_no_progress extract_lets +onlyGivenNames z; first | (have hz : Keep m a z := ?_; (on_goal 2 => subst z); clear_value z) | (have hz : KeepP m a z := ?_; (on_goal 2 => subst z); clear_value z) | (have hz : KeepO m a z := ?_; (on_goal 2 => subst z); clear_value z) | (have hz : KeepF m a z := ?_; (on_goal 2 => subst z); clear_value z) | (have hz : KeepPO m a z := ?_; (on_goal 2 => subst z); clear_value z) | (first | have _ : Mem := z | have _ : Clocks := z | have _ : Snuffer := z | have _ : Keeper := z) | clear_value z)
      | apply keep_ite
      | apply acceptInval_keep
      | apply replayHoop_keep
      | (apply keep_pairE; assumption)
      | (refine keep_of_pair ?_ ‹_ = (_, _)›)
      | simp -zeta -zetaDelta only [keep_snd]
      | (apply keep_fstE; assumption)
      | (refine keep_of_fst ?_ ‹_ = (_, _)›)
      | simp -zeta -zetaDelta only [keep_fst]
      | split
      | fail

theorem takeDoorbells_keep {s : State} (h_s : Keep m a s) (hw : ∀ p ∈ ([.ranges] : List StatePart), p ∈ m.parts) : Keep m a (takeDoorbells s) := by
  unfold takeDoorbells
  repeat' with_reducible first
    | assumption
    | (refine partsSub ?_ hw; decide)
    | (intro _)
    | (simp -zeta -zetaDelta only [keep_mk]; apply keepL_of; any_goals first | exact .inr rfl | exact .inl (hw _ (by decide)) | exact .inr (fun x => x) | exact .inr (fun _ => rfl))
    | (fail_if_no_progress extract_lets +onlyGivenNames z; first | (have hz : Keep m a z := ?_; (on_goal 2 => subst z); clear_value z) | (have hz : KeepP m a z := ?_; (on_goal 2 => subst z); clear_value z) | (have hz : KeepO m a z := ?_; (on_goal 2 => subst z); clear_value z) | (have hz : KeepF m a z := ?_; (on_goal 2 => subst z); clear_value z) | (have hz : KeepPO m a z := ?_; (on_goal 2 => subst z); clear_value z) | (first | have _ : Mem := z | have _ : Clocks := z | have _ : Snuffer := z | have _ : Keeper := z) | clear_value z)
    | apply keep_ite
    | apply serveDoorbells_keep
    | fail

theorem invalComplete_keep {s : State} {h : Nat} (h_s : Keep m a s) (hw : ∀ p ∈ ([.memory, .hostBytes, .hostPoison, .lanterns, .hoops, .fabric, .ranges, .queues, .contexts, .fences, .waits, .floss] : List StatePart), p ∈ m.parts) (he : ∀ e ∈ ([0x600001, 0x600003, 0x700005, 0x800003, 0x810008] : List Nat), m.entry e) : Keep m a (invalComplete s h) := by
  unfold invalComplete
  repeat' with_reducible first
    | assumption
    | (refine partsSub ?_ hw; decide)
    | (refine entriesSub ?_ he; decide)
    | exact he _ (by decide)
    | (intro _)
    | (simp -zeta -zetaDelta only [keep_mk]; apply keepL_of; any_goals first | exact .inr rfl | exact .inl (hw _ (by decide)) | exact .inr (fun x => x) | exact .inr (fun _ => rfl))
    | (fail_if_no_progress extract_lets +onlyGivenNames z; first | (have hz : Keep m a z := ?_; (on_goal 2 => subst z); clear_value z) | (have hz : KeepP m a z := ?_; (on_goal 2 => subst z); clear_value z) | (have hz : KeepO m a z := ?_; (on_goal 2 => subst z); clear_value z) | (have hz : KeepF m a z := ?_; (on_goal 2 => subst z); clear_value z) | (have hz : KeepPO m a z := ?_; (on_goal 2 => subst z); clear_value z) | (first | have _ : Mem := z | have _ : Clocks := z | have _ : Snuffer := z | have _ : Keeper := z) | clear_value z)
    | apply keep_ite
    | apply setReg_keep
    | apply selCount_keep
    | apply modHoop_keep
    | apply issueConfirm_keep
    | apply writeHost_keep
    | apply commandSignal_keep
    | apply takeDoorbells_keep
    | (apply keep_fstE; assumption)
    | (refine keep_of_fst ?_ ‹_ = (_, _)›)
    | simp -zeta -zetaDelta only [keep_fst]
    | split
    | fail

end Sys2Proof.Machine
end

