-- ==== Sys2Proof/Laws/KeepFlags.lean ====
section
/-! SUPPORT. What each operation of Machine/Flags.lean keeps (`Keep`). -/

set_option linter.all false
set_option simprocs false

namespace Sys2Proof.Machine

open Sys2Proof.Safety

variable {m : May} {a : State}

theorem countTally_keep {s : State} {q : Nat} {t : Tally} (h_s : Keep m a s) (he : ∀ e ∈ ([0x600001, 0xB00005] : List Nat), m.entry e) : Keep m a (countTally s q t) := by
  unfold countTally
  repeat' with_reducible first
    | assumption
    | (refine entriesSub ?_ he; decide)
    | exact he _ (by decide)
    | (intro _)
    | (fail_if_no_progress extract_lets +onlyGivenNames z; first | (have hz : Keep m a z := ?_; (on_goal 2 => subst z); clear_value z) | (have hz : KeepP m a z := ?_; (on_goal 2 => subst z); clear_value z) | (have hz : KeepO m a z := ?_; (on_goal 2 => subst z); clear_value z) | (have hz : KeepF m a z := ?_; (on_goal 2 => subst z); clear_value z) | (have hz : KeepPO m a z := ?_; (on_goal 2 => subst z); clear_value z) | (first | have _ : Mem := z | have _ : Clocks := z | have _ : Snuffer := z | have _ : Keeper := z) | clear_value z)
    | apply keep_ite
    | apply addCell_keep
    | apply countQ_keep
    | fail

theorem countOut_keep {s : State} {q : Nat} {f : Fmt} {sat : Bool} {n : Nat} {xs : List OutElem} (h_s : Keep m a s) (he : ∀ e ∈ ([0x600001, 0xB00005] : List Nat), m.entry e) : Keep m a (countOut s q f sat n xs) := by
  unfold countOut
  repeat' with_reducible first
    | assumption
    | (refine entriesSub ?_ he; decide)
    | exact he _ (by decide)
    | (intro _)
    | (fail_if_no_progress extract_lets +onlyGivenNames z; first | (have hz : Keep m a z := ?_; (on_goal 2 => subst z); clear_value z) | (have hz : KeepP m a z := ?_; (on_goal 2 => subst z); clear_value z) | (have hz : KeepO m a z := ?_; (on_goal 2 => subst z); clear_value z) | (have hz : KeepF m a z := ?_; (on_goal 2 => subst z); clear_value z) | (have hz : KeepPO m a z := ?_; (on_goal 2 => subst z); clear_value z) | (first | have _ : Mem := z | have _ : Clocks := z | have _ : Snuffer := z | have _ : Keeper := z) | clear_value z)
    | apply keep_ite
    | apply addCell_keep
    | apply countQ_keep
    | fail

end Sys2Proof.Machine
end

