-- ==== Sys2Proof/Laws/KeepOperands.lean ====
section
/-! SUPPORT. What each operation of Machine/Operands.lean keeps (`Keep`). -/

set_option linter.all false
set_option simprocs false

namespace Sys2Proof.Machine

open Sys2Proof.Safety

variable {m : May} {a : State}

theorem writeTile_keep {s : State} {base : Nat} {t : Tile} {o : OutSet} {rows : List (List Num)} {poison : Bool} (h_s : Keep m a s) (hw : ∀ p ∈ ([.memory, .bytes] : List StatePart), p ∈ m.parts) : Keep m a (writeTile s base t o rows poison) := by
  unfold writeTile
  repeat' with_reducible first
    | assumption
    | (refine partsSub ?_ hw; decide)
    | (intro _)
    | (fail_if_no_progress extract_lets +onlyGivenNames z; first | (have hz : Keep m a z := ?_; (on_goal 2 => subst z); clear_value z) | (have hz : KeepP m a z := ?_; (on_goal 2 => subst z); clear_value z) | (have hz : KeepO m a z := ?_; (on_goal 2 => subst z); clear_value z) | (have hz : KeepF m a z := ?_; (on_goal 2 => subst z); clear_value z) | (have hz : KeepPO m a z := ?_; (on_goal 2 => subst z); clear_value z) | (first | have _ : Mem := z | have _ : Clocks := z | have _ : Snuffer := z | have _ : Keeper := z) | clear_value z)
    | apply keep_ite
    | apply writeRuns_keep
    | fail

end Sys2Proof.Machine
end

