-- ==== Sys2Proof/Laws/KeepPackage.lean ====
section
/-! SUPPORT. What each operation of Machine/Package.lean keeps (`Keep`). -/

set_option linter.all false
set_option simprocs false

namespace Sys2Proof.Machine

open Sys2Proof.Safety

variable {m : May} {a : State}

theorem holdReq_keep {s : State} {q : Nat} {r : HeldReq} (h_s : Keep m a s) (hw : ∀ p ∈ ([.clocks] : List StatePart), p ∈ m.parts) : Keep m a (holdReq s q r) := by
  unfold holdReq
  repeat' with_reducible first
    | assumption
    | (refine partsSub ?_ hw; decide)
    | (intro _)
    | (simp -zeta -zetaDelta only [keep_mk]; apply keepL_of; any_goals first | exact .inr rfl | exact .inl (hw _ (by decide)) | exact .inr (fun x => x) | exact .inr (fun _ => rfl))
    | fail

theorem refuse_keep {s : State} {st : Status} (h_s : Keep m a s) (hw : ∀ p ∈ ([.answer] : List StatePart), p ∈ m.parts) : Keep m a (refuse s st) := by
  unfold refuse
  repeat' with_reducible first
    | assumption
    | (refine partsSub ?_ hw; decide)
    | (intro _)
    | (fail_if_no_progress extract_lets +onlyGivenNames z; first | (have hz : Keep m a z := ?_; (on_goal 2 => subst z); clear_value z) | (have hz : KeepP m a z := ?_; (on_goal 2 => subst z); clear_value z) | (have hz : KeepO m a z := ?_; (on_goal 2 => subst z); clear_value z) | (have hz : KeepF m a z := ?_; (on_goal 2 => subst z); clear_value z) | (have hz : KeepPO m a z := ?_; (on_goal 2 => subst z); clear_value z) | (first | have _ : Mem := z | have _ : Clocks := z | have _ : Snuffer := z | have _ : Keeper := z) | clear_value z)
    | apply keep_ite
    | apply reply_keep
    | fail

theorem answerData_keep {r : Data × State} (h_r : KeepP m a r) (hw : ∀ p ∈ ([.answer] : List StatePart), p ∈ m.parts) : Keep m a (answerData r) := by
  unfold answerData
  repeat' with_reducible first
    | assumption
    | (refine partsSub ?_ hw; decide)
    | (intro _)
    | (fail_if_no_progress extract_lets +onlyGivenNames z; first | (have hz : Keep m a z := ?_; (on_goal 2 => subst z); clear_value z) | (have hz : KeepP m a z := ?_; (on_goal 2 => subst z); clear_value z) | (have hz : KeepO m a z := ?_; (on_goal 2 => subst z); clear_value z) | (have hz : KeepF m a z := ?_; (on_goal 2 => subst z); clear_value z) | (have hz : KeepPO m a z := ?_; (on_goal 2 => subst z); clear_value z) | (first | have _ : Mem := z | have _ : Clocks := z | have _ : Snuffer := z | have _ : Keeper := z) | clear_value z)
    | apply keep_ite
    | simp -zeta -zetaDelta only [keepP_iff]
    | apply keepP_ite
    | apply reply_keep
    | apply hw
    | (apply keep_pairE; assumption)
    | fail

theorem quarterStoreRead_keep {s : State} {q off len : Nat} (h_s : Keep m a s) (hw : ∀ p ∈ ([.clocks, .memory, .bytes, .fabric, .ranges, .floss, .snuffer, .darner, .answer] : List StatePart), p ∈ m.parts) (he : ∀ e ∈ ([0x500001, 0x500002, 0x500003, 0x500004, 0x500006, 0x500007, 0x500008, 0x510002, 0x600001, 0x600003] : List Nat), m.entry e) : Keep m a (quarterStoreRead s q off len) := by
  unfold quarterStoreRead
  repeat' with_reducible first
    | assumption
    | (refine partsSub ?_ hw; decide)
    | (refine entriesSub ?_ he; decide)
    | exact he _ (by decide)
    | (intro _)
    | (simp -zeta -zetaDelta only [keep_mk]; apply keepL_of; any_goals first | exact .inr rfl | exact .inl (hw _ (by decide)) | exact .inr (fun x => x) | exact .inr (fun _ => rfl))
    | (fail_if_no_progress extract_lets +onlyGivenNames z; first | (have hz : Keep m a z := ?_; (on_goal 2 => subst z); clear_value z) | (have hz : KeepP m a z := ?_; (on_goal 2 => subst z); clear_value z) | (have hz : KeepO m a z := ?_; (on_goal 2 => subst z); clear_value z) | (have hz : KeepF m a z := ?_; (on_goal 2 => subst z); clear_value z) | (have hz : KeepPO m a z := ?_; (on_goal 2 => subst z); clear_value z) | (first | have _ : Mem := z | have _ : Clocks := z | have _ : Snuffer := z | have _ : Keeper := z) | clear_value z)
    | apply keep_ite
    | apply keepO_ok
    | apply keepO_wait
    | apply keepO_fail
    | apply keepO_ite
    | simp -zeta -zetaDelta only [keepP_iff]
    | apply keepP_ite
    | apply needClock_keep
    | apply readRun_keep
    | apply holdReq_keep
    | apply refuse_keep
    | apply answerData_keep
    | (apply keep_okE; assumption)
    | (apply keep_waitE; assumption)
    | (apply keep_failE; assumption)
    | (refine keep_of_ok ?_ ‹_ = Out.ok _ _›)
    | (refine keep_of_wait ?_ ‹_ = Out.wait _›)
    | (refine keep_of_fail ?_ ‹_ = Out.fail _ _›)
    | apply keep_state
    | (refine keepO_of_some ?_ ‹_ = some _›)
    | (apply keep_pairE; assumption)
    | (refine keep_of_pair ?_ ‹_ = (_, _)›)
    | simp -zeta -zetaDelta only [keep_snd]
    | split
    | fail

theorem mergeWindowExpire_keep {s : State} {q line : Nat} (h_s : Keep m a s) (hw : ∀ p ∈ ([.memory] : List StatePart), p ∈ m.parts) : Keep m a (mergeWindowExpire s q line) := by
  unfold mergeWindowExpire
  repeat' with_reducible first
    | assumption
    | (refine partsSub ?_ hw; decide)
    | (intro _)
    | (fail_if_no_progress extract_lets +onlyGivenNames z; first | (have hz : Keep m a z := ?_; (on_goal 2 => subst z); clear_value z) | (have hz : KeepP m a z := ?_; (on_goal 2 => subst z); clear_value z) | (have hz : KeepO m a z := ?_; (on_goal 2 => subst z); clear_value z) | (have hz : KeepF m a z := ?_; (on_goal 2 => subst z); clear_value z) | (have hz : KeepPO m a z := ?_; (on_goal 2 => subst z); clear_value z) | (first | have _ : Mem := z | have _ : Clocks := z | have _ : Snuffer := z | have _ : Keeper := z) | clear_value z)
    | apply keep_ite
    | apply closeWindow_keep
    | fail

theorem quarterStoreWrite_keep {s : State} {q off : Nat} {data : List Byte} {poison : Bool} (h_s : Keep m a s) (hw : ∀ p ∈ ([.clocks, .memory, .bytes, .fabric, .ranges, .floss, .snuffer, .darner, .answer] : List StatePart), p ∈ m.parts) (he : ∀ e ∈ ([0x500001, 0x500002, 0x500003, 0x500004, 0x500006, 0x500007, 0x500008, 0x510002, 0x600001, 0x600003] : List Nat), m.entry e) : Keep m a (quarterStoreWrite s q off data poison) := by
  unfold quarterStoreWrite
  repeat' with_reducible first
    | assumption
    | (refine partsSub ?_ hw; decide)
    | (refine entriesSub ?_ he; decide)
    | exact he _ (by decide)
    | (intro _)
    | (simp -zeta -zetaDelta only [keep_mk]; apply keepL_of; any_goals first | exact .inr rfl | exact .inl (hw _ (by decide)) | exact .inr (fun x => x) | exact .inr (fun _ => rfl))
    | (fail_if_no_progress extract_lets +onlyGivenNames z; first | (have hz : Keep m a z := ?_; (on_goal 2 => subst z); clear_value z) | (have hz : KeepP m a z := ?_; (on_goal 2 => subst z); clear_value z) | (have hz : KeepO m a z := ?_; (on_goal 2 => subst z); clear_value z) | (have hz : KeepF m a z := ?_; (on_goal 2 => subst z); clear_value z) | (have hz : KeepPO m a z := ?_; (on_goal 2 => subst z); clear_value z) | (first | have _ : Mem := z | have _ : Clocks := z | have _ : Snuffer := z | have _ : Keeper := z) | clear_value z)
    | apply keep_ite
    | apply keepO_ok
    | apply keepO_wait
    | apply keepO_fail
    | apply keepO_ite
    | apply reply_keep
    | apply needClock_keep
    | apply writeRun_keep
    | apply holdReq_keep
    | apply refuse_keep
    | (apply keep_okE; assumption)
    | (apply keep_waitE; assumption)
    | (apply keep_failE; assumption)
    | (refine keep_of_ok ?_ ‹_ = Out.ok _ _›)
    | (refine keep_of_wait ?_ ‹_ = Out.wait _›)
    | (refine keep_of_fail ?_ ‹_ = Out.fail _ _›)
    | apply keep_state
    | (refine keepO_of_some ?_ ‹_ = some _›)
    | split
    | fail

theorem wickTick_keep {s : State} (h_s : Keep m a s) (hw : ∀ p ∈ ([.clocks, .wick, .telemetry] : List StatePart), p ∈ m.parts) (he : ∀ e ∈ ([0x600002] : List Nat), m.entry e) : Keep m a (wickTick s) := by
  unfold wickTick
  repeat' with_reducible first
    | assumption
    | (refine partsSub ?_ hw; decide)
    | (refine entriesSub ?_ he; decide)
    | exact he _ (by decide)
    | (intro _)
    | (simp -zeta -zetaDelta only [keep_mk]; apply keepL_of; any_goals first | exact .inr rfl | exact .inl (hw _ (by decide)) | exact .inr (fun x => x) | exact .inr (fun _ => rfl))
    | (fail_if_no_progress extract_lets +onlyGivenNames z; first | (have hz : Keep m a z := ?_; (on_goal 2 => subst z); clear_value z) | (have hz : KeepP m a z := ?_; (on_goal 2 => subst z); clear_value z) | (have hz : KeepO m a z := ?_; (on_goal 2 => subst z); clear_value z) | (have hz : KeepF m a z := ?_; (on_goal 2 => subst z); clear_value z) | (have hz : KeepPO m a z := ?_; (on_goal 2 => subst z); clear_value z) | (first | have _ : Mem := z | have _ : Clocks := z | have _ : Snuffer := z | have _ : Keeper := z) | clear_value z)
    | apply keep_ite
    | simp -zeta -zetaDelta only [keepF_iff]
    | apply keepF_ite
    | apply setReg_keep
    | (refine keep_foldl ?_ (fun _ _ _ => ?_))
    | fail

theorem timestampRealign_keep {s : State} {q : Nat} (h_s : Keep m a s) (hw : ∀ p ∈ ([.clocks] : List StatePart), p ∈ m.parts) : Keep m a (timestampRealign s q) := by
  unfold timestampRealign
  repeat' with_reducible first
    | assumption
    | (refine partsSub ?_ hw; decide)
    | (intro _)
    | (simp -zeta -zetaDelta only [keep_mk]; apply keepL_of; any_goals first | exact .inr rfl | exact .inl (hw _ (by decide)) | exact .inr (fun x => x) | exact .inr (fun _ => rfl))
    | (fail_if_no_progress extract_lets +onlyGivenNames z; first | (have hz : Keep m a z := ?_; (on_goal 2 => subst z); clear_value z) | (have hz : KeepP m a z := ?_; (on_goal 2 => subst z); clear_value z) | (have hz : KeepO m a z := ?_; (on_goal 2 => subst z); clear_value z) | (have hz : KeepF m a z := ?_; (on_goal 2 => subst z); clear_value z) | (have hz : KeepPO m a z := ?_; (on_goal 2 => subst z); clear_value z) | (first | have _ : Mem := z | have _ : Clocks := z | have _ : Snuffer := z | have _ : Keeper := z) | clear_value z)
    | apply keep_ite
    | fail

theorem pllStop_keep {s : State} {q : Nat} (h_s : Keep m a s) (hw : ∀ p ∈ ([.clocks] : List StatePart), p ∈ m.parts) : Keep m a (pllStop s q) := by
  unfold pllStop
  repeat' with_reducible first
    | assumption
    | (refine partsSub ?_ hw; decide)
    | (intro _)
    | (fail_if_no_progress extract_lets +onlyGivenNames z; first | (have hz : Keep m a z := ?_; (on_goal 2 => subst z); clear_value z) | (have hz : KeepP m a z := ?_; (on_goal 2 => subst z); clear_value z) | (have hz : KeepO m a z := ?_; (on_goal 2 => subst z); clear_value z) | (have hz : KeepF m a z := ?_; (on_goal 2 => subst z); clear_value z) | (have hz : KeepPO m a z := ?_; (on_goal 2 => subst z); clear_value z) | (first | have _ : Mem := z | have _ : Clocks := z | have _ : Snuffer := z | have _ : Keeper := z) | clear_value z)
    | apply keep_ite
    | apply setPll_keep
    | fail

theorem windowGo_keep {s : State} {w : Who} {at_ n : Nat} {write : Option (List Byte)} (h_s : Keep m a s) (hw : ∀ p ∈ ([.clocks, .memory, .bytes, .fabric, .ranges, .floss, .snuffer, .darner, .answer] : List StatePart), p ∈ m.parts) (he : ∀ e ∈ ([0x500001, 0x500002, 0x500003, 0x500004, 0x500006, 0x500007, 0x500008, 0x510002, 0x600001, 0x600003] : List Nat), m.entry e) : Keep m a (windowGo s w at_ n write) := by
  unfold windowGo
  repeat' with_reducible first
    | assumption
    | (refine partsSub ?_ hw; decide)
    | (refine entriesSub ?_ he; decide)
    | exact he _ (by decide)
    | (intro _)
    | (simp -zeta -zetaDelta only [keep_mk]; apply keepL_of; any_goals first | exact .inr rfl | exact .inl (hw _ (by decide)) | exact .inr (fun x => x) | exact .inr (fun _ => rfl))
    | (fail_if_no_progress extract_lets +onlyGivenNames z; first | (have hz : Keep m a z := ?_; (on_goal 2 => subst z); clear_value z) | (have hz : KeepP m a z := ?_; (on_goal 2 => subst z); clear_value z) | (have hz : KeepO m a z := ?_; (on_goal 2 => subst z); clear_value z) | (have hz : KeepF m a z := ?_; (on_goal 2 => subst z); clear_value z) | (have hz : KeepPO m a z := ?_; (on_goal 2 => subst z); clear_value z) | (first | have _ : Mem := z | have _ : Clocks := z | have _ : Snuffer := z | have _ : Keeper := z) | clear_value z)
    | apply keep_ite
    | simp -zeta -zetaDelta only [keepP_iff]
    | apply keepP_ite
    | apply reply_keep
    | apply readRun_keep
    | apply writeRun_keep
    | apply answerData_keep
    | (apply keep_pairE; assumption)
    | (refine keep_of_pair ?_ ‹_ = (_, _)›)
    | simp -zeta -zetaDelta only [keep_snd]
    | split
    | fail

theorem scratchpadWindowAccess_keep {s : State} {who : Req} {l off : Nat} {write : Option (List Byte)} {len : Nat} (h_s : Keep m a s) (hw : ∀ p ∈ ([.clocks, .memory, .bytes, .lanterns, .fabric, .ranges, .floss, .snuffer, .darner, .answer] : List StatePart), p ∈ m.parts) (he : ∀ e ∈ ([0x500001, 0x500002, 0x500003, 0x500004, 0x500006, 0x500007, 0x500008, 0x510002, 0x600001, 0x600003] : List Nat), m.entry e) : Keep m a (scratchpadWindowAccess s who l off write len) := by
  unfold scratchpadWindowAccess
  repeat' with_reducible first
    | assumption
    | (refine partsSub ?_ hw; decide)
    | (refine entriesSub ?_ he; decide)
    | exact he _ (by decide)
    | (intro _)
    | (simp -zeta -zetaDelta only [keep_mk]; apply keepL_of; any_goals first | exact .inr rfl | exact .inl (hw _ (by decide)) | exact .inr (fun x => x) | exact .inr (fun _ => rfl))
    | (fail_if_no_progress extract_lets +onlyGivenNames z; first | (have hz : Keep m a z := ?_; (on_goal 2 => subst z); clear_value z) | (have hz : KeepP m a z := ?_; (on_goal 2 => subst z); clear_value z) | (have hz : KeepO m a z := ?_; (on_goal 2 => subst z); clear_value z) | (have hz : KeepF m a z := ?_; (on_goal 2 => subst z); clear_value z) | (have hz : KeepPO m a z := ?_; (on_goal 2 => subst z); clear_value z) | (first | have _ : Mem := z | have _ : Clocks := z | have _ : Snuffer := z | have _ : Keeper := z) | clear_value z)
    | apply keep_ite
    | apply keepO_ok
    | apply keepO_wait
    | apply keepO_fail
    | apply keepO_ite
    | apply hostCross_keep
    | apply localReady_keep
    | apply holdReq_keep
    | apply refuse_keep
    | apply windowGo_keep
    | (apply keep_okE; assumption)
    | (apply keep_waitE; assumption)
    | (apply keep_failE; assumption)
    | (refine keep_of_ok ?_ ‹_ = Out.ok _ _›)
    | (refine keep_of_wait ?_ ‹_ = Out.wait _›)
    | (refine keep_of_fail ?_ ‹_ = Out.fail _ _›)
    | apply keep_state
    | (refine keepO_of_some ?_ ‹_ = some _›)
    | split
    | fail

theorem bobbinRead_keep {s : State} {b off len : Nat} (h_s : Keep m a s) (hw : ∀ p ∈ ([.clocks, .memory, .bytes, .fabric, .ranges, .floss, .snuffer, .darner, .answer] : List StatePart), p ∈ m.parts) (he : ∀ e ∈ ([0x500001, 0x500002, 0x500003, 0x500004, 0x500006, 0x500007, 0x500008, 0x510002, 0x600001, 0x600003] : List Nat), m.entry e) : Keep m a (bobbinRead s b off len) := by
  unfold bobbinRead
  repeat' with_reducible first
    | assumption
    | (refine partsSub ?_ hw; decide)
    | (refine entriesSub ?_ he; decide)
    | exact he _ (by decide)
    | (intro _)
    | (simp -zeta -zetaDelta only [keep_mk]; apply keepL_of; any_goals first | exact .inr rfl | exact .inl (hw _ (by decide)) | exact .inr (fun x => x) | exact .inr (fun _ => rfl))
    | (fail_if_no_progress extract_lets +onlyGivenNames z; first | (have hz : Keep m a z := ?_; (on_goal 2 => subst z); clear_value z) | (have hz : KeepP m a z := ?_; (on_goal 2 => subst z); clear_value z) | (have hz : KeepO m a z := ?_; (on_goal 2 => subst z); clear_value z) | (have hz : KeepF m a z := ?_; (on_goal 2 => subst z); clear_value z) | (have hz : KeepPO m a z := ?_; (on_goal 2 => subst z); clear_value z) | (first | have _ : Mem := z | have _ : Clocks := z | have _ : Snuffer := z | have _ : Keeper := z) | clear_value z)
    | apply keep_ite
    | apply keepO_ok
    | apply keepO_wait
    | apply keepO_fail
    | apply keepO_ite
    | simp -zeta -zetaDelta only [keepP_iff]
    | apply keepP_ite
    | apply needClock_keep
    | apply readRun_keep
    | apply holdReq_keep
    | apply refuse_keep
    | apply answerData_keep
    | (apply keep_okE; assumption)
    | (apply keep_waitE; assumption)
    | (apply keep_failE; assumption)
    | (refine keep_of_ok ?_ ‹_ = Out.ok _ _›)
    | (refine keep_of_wait ?_ ‹_ = Out.wait _›)
    | (refine keep_of_fail ?_ ‹_ = Out.fail _ _›)
    | apply keep_state
    | (refine keepO_of_some ?_ ‹_ = some _›)
    | (apply keep_pairE; assumption)
    | (refine keep_of_pair ?_ ‹_ = (_, _)›)
    | simp -zeta -zetaDelta only [keep_snd]
    | split
    | fail

theorem bobbinWrite_keep {s : State} {b off : Nat} {data : List Byte} {poison : Bool} (h_s : Keep m a s) (hw : ∀ p ∈ ([.clocks, .memory, .bytes, .fabric, .ranges, .floss, .snuffer, .darner, .answer] : List StatePart), p ∈ m.parts) (he : ∀ e ∈ ([0x500001, 0x500002, 0x500003, 0x500004, 0x500006, 0x500007, 0x500008, 0x510002, 0x600001, 0x600003] : List Nat), m.entry e) : Keep m a (bobbinWrite s b off data poison) := by
  unfold bobbinWrite
  repeat' with_reducible first
    | assumption
    | (refine partsSub ?_ hw; decide)
    | (refine entriesSub ?_ he; decide)
    | exact he _ (by decide)
    | (intro _)
    | (simp -zeta -zetaDelta only [keep_mk]; apply keepL_of; any_goals first | exact .inr rfl | exact .inl (hw _ (by decide)) | exact .inr (fun x => x) | exact .inr (fun _ => rfl))
    | refine Or.inl ⟨hw _ (by decide), ?_⟩
    | apply canonical_filter
    | apply canonical_putBytes
    | apply canonical_foldl_cput
    | apply canonical_nil
    | exact Canon.mem (Keep.canon ‹_›)
    | (fail_if_no_progress extract_lets +onlyGivenNames z; first | (have hz : Keep m a z := ?_; (on_goal 2 => subst z); clear_value z) | (have hz : KeepP m a z := ?_; (on_goal 2 => subst z); clear_value z) | (have hz : KeepO m a z := ?_; (on_goal 2 => subst z); clear_value z) | (have hz : KeepF m a z := ?_; (on_goal 2 => subst z); clear_value z) | (have hz : KeepPO m a z := ?_; (on_goal 2 => subst z); clear_value z) | (first | have _ : Mem := z | have _ : Clocks := z | have _ : Snuffer := z | have _ : Keeper := z) | clear_value z)
    | apply keep_ite
    | apply keepO_ok
    | apply keepO_wait
    | apply keepO_fail
    | apply keepO_ite
    | simp -zeta -zetaDelta only [keepF_iff]
    | apply keepF_ite
    | apply reply_keep
    | apply needClock_keep
    | apply clearResv_keep
    | apply writeBlock_keep
    | apply holdReq_keep
    | apply refuse_keep
    | (refine keep_foldl ?_ (fun _ _ _ => ?_))
    | (refine keepF_foldl ?_ (fun _ _ _ => ?_))
    | (refine keepO_foldl ?_ (fun _ _ _ => ?_))
    | (apply keep_okE; assumption)
    | (apply keep_waitE; assumption)
    | (apply keep_failE; assumption)
    | (refine keep_of_ok ?_ ‹_ = Out.ok _ _›)
    | (refine keep_of_wait ?_ ‹_ = Out.wait _›)
    | (refine keep_of_fail ?_ ‹_ = Out.fail _ _›)
    | apply keep_state
    | (refine keepO_of_some ?_ ‹_ = some _›)
    | (apply keep_pairE; assumption)
    | (refine keep_of_pair ?_ ‹_ = (_, _)›)
    | simp -zeta -zetaDelta only [keep_snd]
    | (apply keep_fstE; assumption)
    | (refine keep_of_fst ?_ ‹_ = (_, _)›)
    | simp -zeta -zetaDelta only [keep_fst]
    | split
    | fail

theorem partialBlockMerge_keep {s : State} {b : Nat} (h_s : Keep m a s) (hw : ∀ p ∈ ([.clocks, .memory, .bytes, .fabric, .ranges, .floss, .snuffer, .darner] : List StatePart), p ∈ m.parts) (he : ∀ e ∈ ([0x500001, 0x500002, 0x500003, 0x500004, 0x500006, 0x500007, 0x500008, 0x510002, 0x600001] : List Nat), m.entry e) : Keep m a (partialBlockMerge s b) := by
  unfold partialBlockMerge
  repeat' with_reducible first
    | assumption
    | (refine partsSub ?_ hw; decide)
    | (refine entriesSub ?_ he; decide)
    | exact he _ (by decide)
    | (intro _)
    | (simp -zeta -zetaDelta only [keep_mk]; apply keepL_of; any_goals first | exact .inr rfl | exact .inl (hw _ (by decide)) | exact .inr (fun x => x) | exact .inr (fun _ => rfl))
    | refine Or.inl ⟨hw _ (by decide), ?_⟩
    | apply canonical_filter
    | apply canonical_putBytes
    | apply canonical_foldl_cput
    | apply canonical_nil
    | exact Canon.mem (Keep.canon ‹_›)
    | (fail_if_no_progress extract_lets +onlyGivenNames z; first | (have hz : Keep m a z := ?_; (on_goal 2 => subst z); clear_value z) | (have hz : KeepP m a z := ?_; (on_goal 2 => subst z); clear_value z) | (have hz : KeepO m a z := ?_; (on_goal 2 => subst z); clear_value z) | (have hz : KeepF m a z := ?_; (on_goal 2 => subst z); clear_value z) | (have hz : KeepPO m a z := ?_; (on_goal 2 => subst z); clear_value z) | (first | have _ : Mem := z | have _ : Clocks := z | have _ : Snuffer := z | have _ : Keeper := z) | clear_value z)
    | apply keep_ite
    | apply performMerge_keep
    | split
    | fail

theorem writeMark_keep {s : State} {m' : Mark} (h_s : Keep m a s) (hw : ∀ p ∈ ([.keeper] : List StatePart), p ∈ m.parts) : Keep m a (writeMark s m') := by
  unfold writeMark
  repeat' with_reducible first
    | assumption
    | (refine partsSub ?_ hw; decide)
    | (intro _)
    | (simp -zeta -zetaDelta only [keep_mk]; apply keepL_of; any_goals first | exact .inr rfl | exact .inl (hw _ (by decide)) | exact .inr (fun x => x) | exact .inr (fun _ => rfl))
    | (fail_if_no_progress extract_lets +onlyGivenNames z; first | (have hz : Keep m a z := ?_; (on_goal 2 => subst z); clear_value z) | (have hz : KeepP m a z := ?_; (on_goal 2 => subst z); clear_value z) | (have hz : KeepO m a z := ?_; (on_goal 2 => subst z); clear_value z) | (have hz : KeepF m a z := ?_; (on_goal 2 => subst z); clear_value z) | (have hz : KeepPO m a z := ?_; (on_goal 2 => subst z); clear_value z) | (first | have _ : Mem := z | have _ : Clocks := z | have _ : Snuffer := z | have _ : Keeper := z) | clear_value z)
    | apply keep_ite
    | fail

theorem bar4Read_keep {s : State} {who : Req} {off len : Nat} (h_s : Keep m a s) (hw : ∀ p ∈ ([.clocks, .memory, .bytes, .lanterns, .fabric, .ranges, .floss, .power, .snuffer, .darner, .answer] : List StatePart), p ∈ m.parts) (he : ∀ e ∈ ([0x500001, 0x500002, 0x500003, 0x500004, 0x500006, 0x500007, 0x500008, 0x510002, 0x600001, 0x600003] : List Nat), m.entry e) : Keep m a (bar4Read s who off len) := by
  unfold bar4Read
  repeat' with_reducible first
    | assumption
    | (refine partsSub ?_ hw; decide)
    | (refine entriesSub ?_ he; decide)
    | exact he _ (by decide)
    | (intro _)
    | (simp -zeta -zetaDelta only [keep_mk]; apply keepL_of; any_goals first | exact .inr rfl | exact .inl (hw _ (by decide)) | exact .inr (fun x => x) | exact .inr (fun _ => rfl))
    | (fail_if_no_progress extract_lets +onlyGivenNames z; first | (have hz : Keep m a z := ?_; (on_goal 2 => subst z); clear_value z) | (have hz : KeepP m a z := ?_; (on_goal 2 => subst z); clear_value z) | (have hz : KeepO m a z := ?_; (on_goal 2 => subst z); clear_value z) | (have hz : KeepF m a z := ?_; (on_goal 2 => subst z); clear_value z) | (have hz : KeepPO m a z := ?_; (on_goal 2 => subst z); clear_value z) | (first | have _ : Mem := z | have _ : Clocks := z | have _ : Snuffer := z | have _ : Keeper := z) | clear_value z)
    | apply keep_ite
    | apply keepO_ok
    | apply keepO_wait
    | apply keepO_fail
    | apply keepO_ite
    | simp -zeta -zetaDelta only [keepP_iff]
    | apply keepP_ite
    | apply freeBytes_keep
    | apply wakeUp_keep
    | apply hostCross_keep
    | apply readRun_keep
    | apply localReady_keep
    | apply holdReq_keep
    | apply refuse_keep
    | apply answerData_keep
    | (apply keep_okE; assumption)
    | (apply keep_waitE; assumption)
    | (apply keep_failE; assumption)
    | (refine keep_of_ok ?_ ‹_ = Out.ok _ _›)
    | (refine keep_of_wait ?_ ‹_ = Out.wait _›)
    | (refine keep_of_fail ?_ ‹_ = Out.fail _ _›)
    | apply keep_state
    | (refine keepO_of_some ?_ ‹_ = some _›)
    | (apply keep_pairE; assumption)
    | (refine keep_of_pair ?_ ‹_ = (_, _)›)
    | simp -zeta -zetaDelta only [keep_snd]
    | (apply keep_fstE; assumption)
    | (refine keep_of_fst ?_ ‹_ = (_, _)›)
    | simp -zeta -zetaDelta only [keep_fst]
    | split
    | fail

theorem bar4Write_keep {s : State} {who : Req} {off : Nat} {data : List Byte} (h_s : Keep m a s) (hw : ∀ p ∈ ([.clocks, .memory, .bytes, .lanterns, .fabric, .ranges, .floss, .power, .snuffer, .darner] : List StatePart), p ∈ m.parts) (he : ∀ e ∈ ([0x500001, 0x500002, 0x500003, 0x500004, 0x500006, 0x500007, 0x500008, 0x510002, 0x600001, 0x600003, 0x900014] : List Nat), m.entry e) : Keep m a (bar4Write s who off data) := by
  unfold bar4Write
  repeat' with_reducible first
    | assumption
    | (refine partsSub ?_ hw; decide)
    | (refine entriesSub ?_ he; decide)
    | exact he _ (by decide)
    | (intro _)
    | (simp -zeta -zetaDelta only [keep_mk]; apply keepL_of; any_goals first | exact .inr rfl | exact .inl (hw _ (by decide)) | exact .inr (fun x => x) | exact .inr (fun _ => rfl))
    | (fail_if_no_progress extract_lets +onlyGivenNames z; first | (have hz : Keep m a z := ?_; (on_goal 2 => subst z); clear_value z) | (have hz : KeepP m a z := ?_; (on_goal 2 => subst z); clear_value z) | (have hz : KeepO m a z := ?_; (on_goal 2 => subst z); clear_value z) | (have hz : KeepF m a z := ?_; (on_goal 2 => subst z); clear_value z) | (have hz : KeepPO m a z := ?_; (on_goal 2 => subst z); clear_value z) | (first | have _ : Mem := z | have _ : Clocks := z | have _ : Snuffer := z | have _ : Keeper := z) | clear_value z)
    | apply keep_ite
    | apply keepO_ok
    | apply keepO_wait
    | apply keepO_fail
    | apply keepO_ite
    | apply bump_keep
    | apply wakeUp_keep
    | apply hostCross_keep
    | apply writeRun_keep
    | apply localReady_keep
    | apply holdReq_keep
    | (apply keep_okE; assumption)
    | (apply keep_waitE; assumption)
    | (apply keep_failE; assumption)
    | (refine keep_of_ok ?_ ‹_ = Out.ok _ _›)
    | (refine keep_of_wait ?_ ‹_ = Out.wait _›)
    | (refine keep_of_fail ?_ ‹_ = Out.fail _ _›)
    | apply keep_state
    | (refine keepO_of_some ?_ ‹_ = some _›)
    | split
    | fail

theorem deviceWrite_keep {s : State} {a' : Nat} {data : List Byte} (h_s : Keep m a s) (hw : ∀ p ∈ ([.clocks, .memory, .bytes, .fabric, .ranges, .floss, .snuffer, .darner] : List StatePart), p ∈ m.parts) (he : ∀ e ∈ ([0x500001, 0x500002, 0x500003, 0x500004, 0x500006, 0x500007, 0x500008, 0x510002, 0x600001, 0x600003] : List Nat), m.entry e) : Keep m a (deviceWrite s a' data) := by
  unfold deviceWrite
  repeat' with_reducible first
    | assumption
    | (refine partsSub ?_ hw; decide)
    | (refine entriesSub ?_ he; decide)
    | exact he _ (by decide)
    | (intro _)
    | (simp -zeta -zetaDelta only [keep_mk]; apply keepL_of; any_goals first | exact .inr rfl | exact .inl (hw _ (by decide)) | exact .inr (fun x => x) | exact .inr (fun _ => rfl))
    | (fail_if_no_progress extract_lets +onlyGivenNames z; first | (have hz : Keep m a z := ?_; (on_goal 2 => subst z); clear_value z) | (have hz : KeepP m a z := ?_; (on_goal 2 => subst z); clear_value z) | (have hz : KeepO m a z := ?_; (on_goal 2 => subst z); clear_value z) | (have hz : KeepF m a z := ?_; (on_goal 2 => subst z); clear_value z) | (have hz : KeepPO m a z := ?_; (on_goal 2 => subst z); clear_value z) | (first | have _ : Mem := z | have _ : Clocks := z | have _ : Snuffer := z | have _ : Keeper := z) | clear_value z)
    | apply keep_ite
    | apply keepO_ok
    | apply keepO_wait
    | apply keepO_fail
    | apply keepO_ite
    | apply needClock_keep
    | apply writeRun_keep
    | apply holdReq_keep
    | (apply keep_okE; assumption)
    | (apply keep_waitE; assumption)
    | (apply keep_failE; assumption)
    | (refine keep_of_ok ?_ ‹_ = Out.ok _ _›)
    | (refine keep_of_wait ?_ ‹_ = Out.wait _›)
    | (refine keep_of_fail ?_ ‹_ = Out.fail _ _›)
    | apply keep_state
    | (refine keepO_of_some ?_ ‹_ = some _›)
    | split
    | fail

theorem cxlAccess_keep {s : State} {p h a' len : Nat} {write : Option (List Byte)} (h_s : Keep m a s) (hw : ∀ p ∈ ([.clocks, .memory, .bytes, .lanterns, .fabric, .ranges, .floss, .snuffer, .darner, .answer] : List StatePart), p ∈ m.parts) (he : ∀ e ∈ ([0x500001, 0x500002, 0x500003, 0x500004, 0x500006, 0x500007, 0x500008, 0x510002, 0x600001, 0x600003] : List Nat), m.entry e) : Keep m a (cxlAccess s p h a' len write) := by
  unfold cxlAccess
  repeat' with_reducible first
    | assumption
    | (refine partsSub ?_ hw; decide)
    | (refine entriesSub ?_ he; decide)
    | exact he _ (by decide)
    | (intro _)
    | (simp -zeta -zetaDelta only [keep_mk]; apply keepL_of; any_goals first | exact .inr rfl | exact .inl (hw _ (by decide)) | exact .inr (fun x => x) | exact .inr (fun _ => rfl))
    | refine Or.inl ⟨hw _ (by decide), ?_⟩
    | apply canonical_filter
    | apply canonical_putBytes
    | apply canonical_foldl_cput
    | apply canonical_nil
    | exact Canon.mem (Keep.canon ‹_›)
    | (fail_if_no_progress extract_lets +onlyGivenNames z; first | (have hz : Keep m a z := ?_; (on_goal 2 => subst z); clear_value z) | (have hz : KeepP m a z := ?_; (on_goal 2 => subst z); clear_value z) | (have hz : KeepO m a z := ?_; (on_goal 2 => subst z); clear_value z) | (have hz : KeepF m a z := ?_; (on_goal 2 => subst z); clear_value z) | (have hz : KeepPO m a z := ?_; (on_goal 2 => subst z); clear_value z) | (first | have _ : Mem := z | have _ : Clocks := z | have _ : Snuffer := z | have _ : Keeper := z) | clear_value z)
    | apply keep_ite
    | apply keepO_ok
    | apply keepO_wait
    | apply keepO_fail
    | apply keepO_ite
    | simp -zeta -zetaDelta only [keepP_iff]
    | apply keepP_ite
    | apply countP_keep
    | apply reply_keep
    | apply hostCross_keep
    | apply needClock_keep
    | apply readRun_keep
    | apply writeRun_keep
    | apply localReady_keep
    | apply holdReq_keep
    | apply answerData_keep
    | (apply keep_okE; assumption)
    | (apply keep_waitE; assumption)
    | (apply keep_failE; assumption)
    | (refine keep_of_ok ?_ ‹_ = Out.ok _ _›)
    | (refine keep_of_wait ?_ ‹_ = Out.wait _›)
    | (refine keep_of_fail ?_ ‹_ = Out.fail _ _›)
    | apply keep_state
    | (refine keepO_of_some ?_ ‹_ = some _›)
    | (apply keep_pairE; assumption)
    | (refine keep_of_pair ?_ ‹_ = (_, _)›)
    | simp -zeta -zetaDelta only [keep_snd]
    | split
    | fail

theorem debugLocal_keep {s : State} {a' len : Nat} {write : Option (List Byte)} (h_s : Keep m a s) (hw : ∀ p ∈ ([.clocks, .memory, .bytes, .lanterns, .fabric, .ranges, .floss, .snuffer, .darner, .answer] : List StatePart), p ∈ m.parts) (he : ∀ e ∈ ([0x500001, 0x500002, 0x500003, 0x500004, 0x500006, 0x500007, 0x500008, 0x510002, 0x600001, 0x600003] : List Nat), m.entry e) : Keep m a (debugLocal s a' len write) := by
  unfold debugLocal
  repeat' with_reducible first
    | assumption
    | (refine partsSub ?_ hw; decide)
    | (refine entriesSub ?_ he; decide)
    | exact he _ (by decide)
    | (intro _)
    | (simp -zeta -zetaDelta only [keep_mk]; apply keepL_of; any_goals first | exact .inr rfl | exact .inl (hw _ (by decide)) | exact .inr (fun x => x) | exact .inr (fun _ => rfl))
    | (fail_if_no_progress extract_lets +onlyGivenNames z; first | (have hz : Keep m a z := ?_; (on_goal 2 => subst z); clear_value z) | (have hz : KeepP m a z := ?_; (on_goal 2 => subst z); clear_value z) | (have hz : KeepO m a z := ?_; (on_goal 2 => subst z); clear_value z) | (have hz : KeepF m a z := ?_; (on_goal 2 => subst z); clear_value z) | (have hz : KeepPO m a z := ?_; (on_goal 2 => subst z); clear_value z) | (first | have _ : Mem := z | have _ : Clocks := z | have _ : Snuffer := z | have _ : Keeper := z) | clear_value z)
    | apply keep_ite
    | apply keepO_ok
    | apply keepO_wait
    | apply keepO_fail
    | apply keepO_ite
    | apply localReady_keep
    | apply holdReq_keep
    | apply refuse_keep
    | apply windowGo_keep
    | (apply keep_okE; assumption)
    | (apply keep_waitE; assumption)
    | (apply keep_failE; assumption)
    | (refine keep_of_ok ?_ ‹_ = Out.ok _ _›)
    | (refine keep_of_wait ?_ ‹_ = Out.wait _›)
    | (refine keep_of_fail ?_ ‹_ = Out.fail _ _›)
    | apply keep_state
    | (refine keepO_of_some ?_ ‹_ = some _›)
    | split
    | fail

theorem performHeld_keep {s : State} {r : HeldReq} (h_s : Keep m a s) (hw : ∀ p ∈ ([.clocks, .memory, .bytes, .lanterns, .fabric, .ranges, .floss, .power, .snuffer, .darner, .answer] : List StatePart), p ∈ m.parts) (he : ∀ e ∈ ([0x500001, 0x500002, 0x500003, 0x500004, 0x500006, 0x500007, 0x500008, 0x510002, 0x600001, 0x600003, 0x900014] : List Nat), m.entry e) : Keep m a (performHeld s r) := by
  unfold performHeld
  repeat' with_reducible first
    | assumption
    | (refine partsSub ?_ hw; decide)
    | (refine entriesSub ?_ he; decide)
    | exact he _ (by decide)
    | (intro _)
    | (simp -zeta -zetaDelta only [keep_mk]; apply keepL_of; any_goals first | exact .inr rfl | exact .inl (hw _ (by decide)) | exact .inr (fun x => x) | exact .inr (fun _ => rfl))
    | (fail_if_no_progress extract_lets +onlyGivenNames z; first | (have hz : Keep m a z := ?_; (on_goal 2 => subst z); clear_value z) | (have hz : KeepP m a z := ?_; (on_goal 2 => subst z); clear_value z) | (have hz : KeepO m a z := ?_; (on_goal 2 => subst z); clear_value z) | (have hz : KeepF m a z := ?_; (on_goal 2 => subst z); clear_value z) | (have hz : KeepPO m a z := ?_; (on_goal 2 => subst z); clear_value z) | (first | have _ : Mem := z | have _ : Clocks := z | have _ : Snuffer := z | have _ : Keeper := z) | clear_value z)
    | apply keep_ite
    | apply quarterStoreRead_keep
    | apply quarterStoreWrite_keep
    | apply scratchpadWindowAccess_keep
    | apply bobbinRead_keep
    | apply bobbinWrite_keep
    | apply bar4Read_keep
    | apply bar4Write_keep
    | apply deviceWrite_keep
    | apply cxlAccess_keep
    | apply debugLocal_keep
    | split
    | fail

theorem deliverHeld_keep {s : State} {q : Nat} (h_s : Keep m a s) (hw : ∀ p ∈ ([.clocks, .memory, .bytes, .lanterns, .fabric, .ranges, .floss, .power, .snuffer, .darner, .answer] : List StatePart), p ∈ m.parts) (he : ∀ e ∈ ([0x500001, 0x500002, 0x500003, 0x500004, 0x500006, 0x500007, 0x500008, 0x510002, 0x600001, 0x600003, 0x900014] : List Nat), m.entry e) : Keep m a (deliverHeld s q) := by
  unfold deliverHeld
  repeat' with_reducible first
    | assumption
    | (refine partsSub ?_ hw; decide)
    | (refine entriesSub ?_ he; decide)
    | exact he _ (by decide)
    | (intro _)
    | (simp -zeta -zetaDelta only [keep_mk]; apply keepL_of; any_goals first | exact .inr rfl | exact .inl (hw _ (by decide)) | exact .inr (fun x => x) | exact .inr (fun _ => rfl))
    | (fail_if_no_progress extract_lets +onlyGivenNames z; first | (have hz : Keep m a z := ?_; (on_goal 2 => subst z); clear_value z) | (have hz : KeepP m a z := ?_; (on_goal 2 => subst z); clear_value z) | (have hz : KeepO m a z := ?_; (on_goal 2 => subst z); clear_value z) | (have hz : KeepF m a z := ?_; (on_goal 2 => subst z); clear_value z) | (have hz : KeepPO m a z := ?_; (on_goal 2 => subst z); clear_value z) | (first | have _ : Mem := z | have _ : Clocks := z | have _ : Snuffer := z | have _ : Keeper := z) | clear_value z)
    | apply keep_ite
    | simp -zeta -zetaDelta only [keepF_iff]
    | apply keepF_ite
    | apply performHeld_keep
    | (refine keep_foldl ?_ (fun _ _ _ => ?_))
    | fail

theorem pllLock_keep {s : State} {q : Nat} (h_s : Keep m a s) (hw : ∀ p ∈ ([.clocks, .memory, .bytes, .lanterns, .fabric, .ranges, .floss, .power, .snuffer, .darner, .answer] : List StatePart), p ∈ m.parts) (he : ∀ e ∈ ([0x500001, 0x500002, 0x500003, 0x500004, 0x500006, 0x500007, 0x500008, 0x510002, 0x600001, 0x600003, 0x900014] : List Nat), m.entry e) : Keep m a (pllLock s q) := by
  unfold pllLock
  repeat' with_reducible first
    | assumption
    | (refine partsSub ?_ hw; decide)
    | (refine entriesSub ?_ he; decide)
    | exact he _ (by decide)
    | (intro _)
    | (simp -zeta -zetaDelta only [keep_mk]; apply keepL_of; any_goals first | exact .inr rfl | exact .inl (hw _ (by decide)) | exact .inr (fun x => x) | exact .inr (fun _ => rfl))
    | (fail_if_no_progress extract_lets +onlyGivenNames z; first | (have hz : Keep m a z := ?_; (on_goal 2 => subst z); clear_value z) | (have hz : KeepP m a z := ?_; (on_goal 2 => subst z); clear_value z) | (have hz : KeepO m a z := ?_; (on_goal 2 => subst z); clear_value z) | (have hz : KeepF m a z := ?_; (on_goal 2 => subst z); clear_value z) | (have hz : KeepPO m a z := ?_; (on_goal 2 => subst z); clear_value z) | (first | have _ : Mem := z | have _ : Clocks := z | have _ : Snuffer := z | have _ : Keeper := z) | clear_value z)
    | apply keep_ite
    | apply countQ_keep
    | apply setPll_keep
    | apply deliverHeld_keep
    | fail

theorem clearLantern_keep {s : State} {l : Nat} (h_s : Keep m a s) (hw : ∀ p ∈ ([.memory, .bytes, .lanterns] : List StatePart), p ∈ m.parts) : Keep m a (clearLantern s l) := by
  unfold clearLantern
  repeat' with_reducible first
    | assumption
    | (refine partsSub ?_ hw; decide)
    | (intro _)
    | (simp -zeta -zetaDelta only [keep_mk]; apply keepL_of; any_goals first | exact .inr rfl | exact .inl (hw _ (by decide)) | exact .inr (fun x => x) | exact .inr (fun _ => rfl))
    | (fail_if_no_progress extract_lets +onlyGivenNames z; first | (have hz : Keep m a z := ?_; (on_goal 2 => subst z); clear_value z) | (have hz : KeepP m a z := ?_; (on_goal 2 => subst z); clear_value z) | (have hz : KeepO m a z := ?_; (on_goal 2 => subst z); clear_value z) | (have hz : KeepF m a z := ?_; (on_goal 2 => subst z); clear_value z) | (have hz : KeepPO m a z := ?_; (on_goal 2 => subst z); clear_value z) | (first | have _ : Mem := z | have _ : Clocks := z | have _ : Snuffer := z | have _ : Keeper := z) | clear_value z)
    | apply keep_ite
    | apply modLantern_keep
    | apply clearScratch_keep
    | fail

theorem rebindDone_keep {s : State} {h : Nat} (h_s : Keep m a s) (he : ∀ e ∈ ([0x300003] : List Nat), m.entry e) : Keep m a (rebindDone s h) := by
  unfold rebindDone
  repeat' with_reducible first
    | assumption
    | (refine entriesSub ?_ he; decide)
    | exact he _ (by decide)
    | (intro _)
    | (fail_if_no_progress extract_lets +onlyGivenNames z; first | (have hz : Keep m a z := ?_; (on_goal 2 => subst z); clear_value z) | (have hz : KeepP m a z := ?_; (on_goal 2 => subst z); clear_value z) | (have hz : KeepO m a z := ?_; (on_goal 2 => subst z); clear_value z) | (have hz : KeepF m a z := ?_; (on_goal 2 => subst z); clear_value z) | (have hz : KeepPO m a z := ?_; (on_goal 2 => subst z); clear_value z) | (first | have _ : Mem := z | have _ : Clocks := z | have _ : Snuffer := z | have _ : Keeper := z) | clear_value z)
    | apply keep_ite
    | apply setRegFld_keep
    | fail

theorem joinAwake_keep {s : State} {l : Nat} (h_s : Keep m a s) (hw : ∀ p ∈ ([.hoops] : List StatePart), p ∈ m.parts) (he : ∀ e ∈ ([0x300003] : List Nat), m.entry e) : Keep m a (joinAwake s l) := by
  unfold joinAwake
  repeat' with_reducible first
    | assumption
    | (refine partsSub ?_ hw; decide)
    | (refine entriesSub ?_ he; decide)
    | exact he _ (by decide)
    | (intro _)
    | (simp -zeta -zetaDelta only [keep_mk]; apply keepL_of; any_goals first | exact .inr rfl | exact .inl (hw _ (by decide)) | exact .inr (fun x => x) | exact .inr (fun _ => rfl))
    | (fail_if_no_progress extract_lets +onlyGivenNames z; first | (have hz : Keep m a z := ?_; (on_goal 2 => subst z); clear_value z) | (have hz : KeepP m a z := ?_; (on_goal 2 => subst z); clear_value z) | (have hz : KeepO m a z := ?_; (on_goal 2 => subst z); clear_value z) | (have hz : KeepF m a z := ?_; (on_goal 2 => subst z); clear_value z) | (have hz : KeepPO m a z := ?_; (on_goal 2 => subst z); clear_value z) | (first | have _ : Mem := z | have _ : Clocks := z | have _ : Snuffer := z | have _ : Keeper := z) | clear_value z)
    | apply keep_ite
    | apply modHoop_keep
    | apply rebindDone_keep
    | apply hw
    | apply he
    | split
    | fail

theorem lanternWakeDone_keep {s : State} {l : Nat} (h_s : Keep m a s) (hw : ∀ p ∈ ([.clocks, .memory, .bytes, .lanterns, .hoops, .fabric, .ranges, .floss, .power, .snuffer, .darner, .answer] : List StatePart), p ∈ m.parts) (he : ∀ e ∈ ([0x300003, 0x500001, 0x500002, 0x500003, 0x500004, 0x500006, 0x500007, 0x500008, 0x510002, 0x600001, 0x600003, 0x900014] : List Nat), m.entry e) : Keep m a (lanternWakeDone s l) := by
  unfold lanternWakeDone
  repeat' with_reducible first
    | assumption
    | (refine partsSub ?_ hw; decide)
    | (refine entriesSub ?_ he; decide)
    | exact he _ (by decide)
    | (intro _)
    | (simp -zeta -zetaDelta only [keep_mk]; apply keepL_of; any_goals first | exact .inr rfl | exact .inl (hw _ (by decide)) | exact .inr (fun x => x) | exact .inr (fun _ => rfl))
    | (fail_if_no_progress extract_lets +onlyGivenNames z; first | (have hz : Keep m a z := ?_; (on_goal 2 => subst z); clear_value z) | (have hz : KeepP m a z := ?_; (on_goal 2 => subst z); clear_value z) | (have hz : KeepO m a z := ?_; (on_goal 2 => subst z); clear_value z) | (have hz : KeepF m a z := ?_; (on_goal 2 => subst z); clear_value z) | (have hz : KeepPO m a z := ?_; (on_goal 2 => subst z); clear_value z) | (first | have _ : Mem := z | have _ : Clocks := z | have _ : Snuffer := z | have _ : Keeper := z) | clear_value z)
    | apply keep_ite
    | apply keepO_ok
    | apply keepO_wait
    | apply keepO_fail
    | apply keepO_ite
    | apply modLantern_keep
    | apply needClock_keep
    | apply deliverHeld_keep
    | apply clearLantern_keep
    | apply joinAwake_keep
    | (apply keep_okE; assumption)
    | (apply keep_waitE; assumption)
    | (apply keep_failE; assumption)
    | (refine keep_of_ok ?_ ‹_ = Out.ok _ _›)
    | (refine keep_of_wait ?_ ‹_ = Out.wait _›)
    | (refine keep_of_fail ?_ ‹_ = Out.fail _ _›)
    | apply keep_state
    | (refine keepO_of_some ?_ ‹_ = some _›)
    | split
    | fail

theorem lanternGate_keep {s : State} {l : Nat} (h_s : Keep m a s) (hw : ∀ p ∈ ([.memory, .bytes, .lanterns] : List StatePart), p ∈ m.parts) : Keep m a (lanternGate s l) := by
  unfold lanternGate
  repeat' with_reducible first
    | assumption
    | (refine partsSub ?_ hw; decide)
    | (intro _)
    | (simp -zeta -zetaDelta only [keep_mk]; apply keepL_of; any_goals first | exact .inr rfl | exact .inl (hw _ (by decide)) | exact .inr (fun x => x) | exact .inr (fun _ => rfl))
    | (fail_if_no_progress extract_lets +onlyGivenNames z; first | (have hz : Keep m a z := ?_; (on_goal 2 => subst z); clear_value z) | (have hz : KeepP m a z := ?_; (on_goal 2 => subst z); clear_value z) | (have hz : KeepO m a z := ?_; (on_goal 2 => subst z); clear_value z) | (have hz : KeepF m a z := ?_; (on_goal 2 => subst z); clear_value z) | (have hz : KeepPO m a z := ?_; (on_goal 2 => subst z); clear_value z) | (first | have _ : Mem := z | have _ : Clocks := z | have _ : Snuffer := z | have _ : Keeper := z) | clear_value z)
    | apply keep_ite
    | apply modLantern_keep
    | apply clearLantern_keep
    | fail

end Sys2Proof.Machine
end

