-- ==== Sys2Proof/Laws/KeepStitches.lean ====
section
/-! SUPPORT. What each operation of Machine/Stitches.lean keeps (`Keep`). -/

set_option linter.all false
set_option simprocs false

namespace Sys2Proof.Machine

open Sys2Proof.Safety

variable {m : May} {a : State}

theorem stageStrand_keep {s : State} {a' : Acc} {va : Nat} {det force : Bool} {d : Strand} (h_s : Keep m a s) (hw : ∀ p ∈ ([.clocks, .memory, .bytes, .lanterns, .fabric, .ranges, .floss, .snuffer, .darner] : List StatePart), p ∈ m.parts) (he : ∀ e ∈ ([0x500001, 0x500002, 0x500003, 0x500004, 0x500006, 0x500007, 0x500008, 0x510002, 0x600001, 0x600003, 0x700009, 0x810008, 0xB00007] : List Nat), m.entry e) : KeepO m a (stageStrand s a' va det force d) := by
  unfold stageStrand
  repeat' with_reducible first
    | assumption
    | (refine partsSub ?_ hw; decide)
    | (refine entriesSub ?_ he; decide)
    | exact he _ (by decide)
    | (intro _)
    | (simp -zeta -zetaDelta only [keep_mk]; apply keepL_of; any_goals first | exact .inr rfl | exact .inl (hw _ (by decide)) | exact .inr (fun x => x) | exact .inr (fun _ => rfl))
    | (fail_if_no_progress extract_lets +onlyGivenNames z; first | (have hz : Keep m a z := ?_; (on_goal 2 => subst z); clear_value z) | (have hz : KeepP m a z := ?_; (on_goal 2 => subst z); clear_value z) | (have hz : KeepO m a z := ?_; (on_goal 2 => subst z); clear_value z) | (have hz : KeepF m a z := ?_; (on_goal 2 => subst z); clear_value z) | (have hz : KeepPO m a z := ?_; (on_goal 2 => subst z); clear_value z) | (first | have _ : Mem := z | have _ : Clocks := z | have _ : Snuffer := z | have _ : Keeper := z) | clear_value z)
    | apply keep_ite
    | apply keepO_ok
    | apply keepO_wait
    | apply keepO_fail
    | apply keepO_ite
    | apply bump_keep
    | apply feWords_keep
    | (refine keepO_andThen ?_ (fun _ _ _ => ?_))
    | fail

theorem stageStrands_keep {s : State} {a' : Acc} {va : Nat} {det force : Bool} {y0 : List Strand} (h_s : Keep m a s) (hw : ∀ p ∈ ([.clocks, .memory, .bytes, .lanterns, .fabric, .ranges, .floss, .snuffer, .darner] : List StatePart), p ∈ m.parts) (he : ∀ e ∈ ([0x500001, 0x500002, 0x500003, 0x500004, 0x500006, 0x500007, 0x500008, 0x510002, 0x600001, 0x600003, 0x700009, 0x810008, 0xB00007] : List Nat), m.entry e) : KeepO m a (stageStrands s a' va det force y0) := by
  induction y0 generalizing s a' va det force with
  | nil =>
    unfold stageStrands
    repeat' with_reducible first
      | assumption
      | apply ih
      | (refine partsSub ?_ hw; decide)
      | (refine entriesSub ?_ he; decide)
      | exact he _ (by decide)
      | (intro _)
      | (fail_if_no_progress extract_lets +onlyGivenNames z; first | (have hz : Keep m a z := ?_; (on_goal 2 => subst z); clear_value z) | (have hz : KeepP m a z := ?_; (on_goal 2 => subst z); clear_value z) | (have hz : KeepO m a z := ?_; (on_goal 2 => subst z); clear_value z) | (have hz : KeepF m a z := ?_; (on_goal 2 => subst z); clear_value z) | (have hz : KeepPO m a z := ?_; (on_goal 2 => subst z); clear_value z) | (first | have _ : Mem := z | have _ : Clocks := z | have _ : Snuffer := z | have _ : Keeper := z) | clear_value z)
      | apply keep_ite
      | apply keepO_ok
      | apply keepO_wait
      | apply keepO_fail
      | apply keepO_ite
      | apply stageStrand_keep
      | (refine keepO_andThen ?_ (fun _ _ _ => ?_))
      | (apply keep_okE; assumption)
      | (apply keep_waitE; assumption)
      | (apply keep_failE; assumption)
      | (refine keep_of_ok ?_ ‹_ = Out.ok _ _›)
      | (refine keep_of_wait ?_ ‹_ = Out.wait _›)
      | (refine keep_of_fail ?_ ‹_ = Out.fail _ _›)
      | apply keep_state
      | (refine keepO_of_some ?_ ‹_ = some _›)
      | split
      | fail
  | cons p rest ih =>
    unfold stageStrands
    repeat' with_reducible first
      | assumption
      | apply ih
      | (refine partsSub ?_ hw; decide)
      | (refine entriesSub ?_ he; decide)
      | exact he _ (by decide)
      | (intro _)
      | (fail_if_no_progress extract_lets +onlyGivenNames z; first | (have hz : Keep m a z := ?_; (on_goal 2 => subst z); clear_value z) | (have hz : KeepP m a z := ?_; (on_goal 2 => subst z); clear_value z) | (have hz : KeepO m a z := ?_; (on_goal 2 => subst z); clear_value z) | (have hz : KeepF m a z := ?_; (on_goal 2 => subst z); clear_value z) | (have hz : KeepPO m a z := ?_; (on_goal 2 => subst z); clear_value z) | (first | have _ : Mem := z | have _ : Clocks := z | have _ : Snuffer := z | have _ : Keeper := z) | clear_value z)
      | apply keep_ite
      | apply keepO_ok
      | apply keepO_wait
      | apply keepO_fail
      | apply keepO_ite
      | apply stageStrand_keep
      | (refine keepO_andThen ?_ (fun _ _ _ => ?_))
      | (apply keep_okE; assumption)
      | (apply keep_waitE; assumption)
      | (apply keep_failE; assumption)
      | (refine keep_of_ok ?_ ‹_ = Out.ok _ _›)
      | (refine keep_of_wait ?_ ‹_ = Out.wait _›)
      | (refine keep_of_fail ?_ ‹_ = Out.fail _ _›)
      | apply keep_state
      | (refine keepO_of_some ?_ ‹_ = some _›)
      | split
      | fail

theorem stageStitch_keep {s : State} {q va : Nat} {dflt : List Word} (h_s : Keep m a s) (hw : ∀ p ∈ ([.clocks, .memory, .bytes, .lanterns, .fabric, .ranges, .floss, .snuffer, .darner] : List StatePart), p ∈ m.parts) (he : ∀ e ∈ ([0x500001, 0x500002, 0x500003, 0x500004, 0x500006, 0x500007, 0x500008, 0x510002, 0x600001, 0x600003, 0x700009, 0x810008, 0xB00007] : List Nat), m.entry e) : KeepO m a (stageStitch s q va dflt) := by
  unfold stageStitch
  repeat' with_reducible first
    | assumption
    | (refine partsSub ?_ hw; decide)
    | (refine entriesSub ?_ he; decide)
    | exact he _ (by decide)
    | (intro _)
    | (simp -zeta -zetaDelta only [keep_mk]; apply keepL_of; any_goals first | exact .inr rfl | exact .inl (hw _ (by decide)) | exact .inr (fun x => x) | exact .inr (fun _ => rfl))
    | (fail_if_no_progress extract_lets +onlyGivenNames z; first | (have hz : Keep m a z := ?_; (on_goal 2 => subst z); clear_value z) | (have hz : KeepP m a z := ?_; (on_goal 2 => subst z); clear_value z) | (have hz : KeepO m a z := ?_; (on_goal 2 => subst z); clear_value z) | (have hz : KeepF m a z := ?_; (on_goal 2 => subst z); clear_value z) | (have hz : KeepPO m a z := ?_; (on_goal 2 => subst z); clear_value z) | (first | have _ : Mem := z | have _ : Clocks := z | have _ : Snuffer := z | have _ : Keeper := z) | clear_value z)
    | apply keep_ite
    | apply keepO_ok
    | apply keepO_wait
    | apply keepO_fail
    | apply keepO_ite
    | simp -zeta -zetaDelta only [keepP_iff]
    | apply keepP_ite
    | apply feWords_keep
    | apply stageStrands_keep
    | (refine keepO_andThen ?_ (fun _ _ _ => ?_))
    | (apply keep_okE; assumption)
    | (apply keep_waitE; assumption)
    | (apply keep_failE; assumption)
    | (refine keep_of_ok ?_ ‹_ = Out.ok _ _›)
    | (refine keep_of_wait ?_ ‹_ = Out.wait _›)
    | (refine keep_of_fail ?_ ‹_ = Out.fail _ _›)
    | apply keep_state
    | (refine keepO_of_some ?_ ‹_ = some _›)
    | (apply keep_pairE; assumption)
    | (refine keep_of_pair ?_ ‹_ = (_, _)›)
    | simp -zeta -zetaDelta only [keep_snd]
    | split
    | fail

theorem prefetchRows_keep {s : State} {a' : Acc} {ws : List Word} {y0 : Nat} {y1 : Nat} (h_s : Keep m a s) (hw : ∀ p ∈ ([.clocks, .memory, .bytes, .lanterns, .fabric, .ranges, .floss, .snuffer, .darner] : List StatePart), p ∈ m.parts) (he : ∀ e ∈ ([0x500001, 0x500002, 0x500003, 0x500004, 0x500006, 0x500007, 0x500008, 0x510002, 0x600001, 0x600003, 0x700009, 0x810008] : List Nat), m.entry e) : KeepO m a (prefetchRows s a' ws y0 y1) := by
  induction y0 generalizing s a' ws y1 with
  | zero =>
    unfold prefetchRows
    repeat' with_reducible first
      | assumption
      | apply ih
      | (refine partsSub ?_ hw; decide)
      | (refine entriesSub ?_ he; decide)
      | exact he _ (by decide)
      | (intro _)
      | (fail_if_no_progress extract_lets +onlyGivenNames z; first | (have hz : Keep m a z := ?_; (on_goal 2 => subst z); clear_value z) | (have hz : KeepP m a z := ?_; (on_goal 2 => subst z); clear_value z) | (have hz : KeepO m a z := ?_; (on_goal 2 => subst z); clear_value z) | (have hz : KeepF m a z := ?_; (on_goal 2 => subst z); clear_value z) | (have hz : KeepPO m a z := ?_; (on_goal 2 => subst z); clear_value z) | (first | have _ : Mem := z | have _ : Clocks := z | have _ : Snuffer := z | have _ : Keeper := z) | clear_value z)
      | apply keep_ite
      | apply keepO_ok
      | apply keepO_wait
      | apply keepO_fail
      | apply keepO_ite
      | apply feRead_keep
      | (refine keepO_andThen ?_ (fun _ _ _ => ?_))
      | (apply keep_okE; assumption)
      | (apply keep_waitE; assumption)
      | (apply keep_failE; assumption)
      | (refine keep_of_ok ?_ ‹_ = Out.ok _ _›)
      | (refine keep_of_wait ?_ ‹_ = Out.wait _›)
      | (refine keep_of_fail ?_ ‹_ = Out.fail _ _›)
      | apply keep_state
      | (refine keepO_of_some ?_ ‹_ = some _›)
      | split
      | fail
  | succ n ih =>
    unfold prefetchRows
    repeat' with_reducible first
      | assumption
      | apply ih
      | (refine partsSub ?_ hw; decide)
      | (refine entriesSub ?_ he; decide)
      | exact he _ (by decide)
      | (intro _)
      | (fail_if_no_progress extract_lets +onlyGivenNames z; first | (have hz : Keep m a z := ?_; (on_goal 2 => subst z); clear_value z) | (have hz : KeepP m a z := ?_; (on_goal 2 => subst z); clear_value z) | (have hz : KeepO m a z := ?_; (on_goal 2 => subst z); clear_value z) | (have hz : KeepF m a z := ?_; (on_goal 2 => subst z); clear_value z) | (have hz : KeepPO m a z := ?_; (on_goal 2 => subst z); clear_value z) | (first | have _ : Mem := z | have _ : Clocks := z | have _ : Snuffer := z | have _ : Keeper := z) | clear_value z)
      | apply keep_ite
      | apply keepO_ok
      | apply keepO_wait
      | apply keepO_fail
      | apply keepO_ite
      | apply feRead_keep
      | (refine keepO_andThen ?_ (fun _ _ _ => ?_))
      | (apply keep_okE; assumption)
      | (apply keep_waitE; assumption)
      | (apply keep_failE; assumption)
      | (refine keep_of_ok ?_ ‹_ = Out.ok _ _›)
      | (refine keep_of_wait ?_ ‹_ = Out.wait _›)
      | (refine keep_of_fail ?_ ‹_ = Out.fail _ _›)
      | apply keep_state
      | (refine keepO_of_some ?_ ‹_ = some _›)
      | split
      | fail

theorem prefetchStrand_keep {s : State} {q cls : Nat} {p : Strand × Nat} (h_s : Keep m a s) (hw : ∀ p ∈ ([.clocks, .memory, .bytes, .lanterns, .fabric, .ranges, .floss, .snuffer, .darner] : List StatePart), p ∈ m.parts) (he : ∀ e ∈ ([0x500001, 0x500002, 0x500003, 0x500004, 0x500006, 0x500007, 0x500008, 0x510002, 0x600001, 0x600003, 0x700009, 0x810008] : List Nat), m.entry e) : KeepO m a (prefetchStrand s q cls p) := by
  unfold prefetchStrand
  repeat' with_reducible first
    | assumption
    | (refine partsSub ?_ hw; decide)
    | (refine entriesSub ?_ he; decide)
    | exact he _ (by decide)
    | (intro _)
    | (simp -zeta -zetaDelta only [keep_mk]; apply keepL_of; any_goals first | exact .inr rfl | exact .inl (hw _ (by decide)) | exact .inr (fun x => x) | exact .inr (fun _ => rfl))
    | (fail_if_no_progress extract_lets +onlyGivenNames z; first | (have hz : Keep m a z := ?_; (on_goal 2 => subst z); clear_value z) | (have hz : KeepP m a z := ?_; (on_goal 2 => subst z); clear_value z) | (have hz : KeepO m a z := ?_; (on_goal 2 => subst z); clear_value z) | (have hz : KeepF m a z := ?_; (on_goal 2 => subst z); clear_value z) | (have hz : KeepPO m a z := ?_; (on_goal 2 => subst z); clear_value z) | (first | have _ : Mem := z | have _ : Clocks := z | have _ : Snuffer := z | have _ : Keeper := z) | clear_value z)
    | apply keep_ite
    | apply keepO_ok
    | apply keepO_wait
    | apply keepO_fail
    | apply keepO_ite
    | apply prefetchRows_keep
    | (apply keep_okE; assumption)
    | (apply keep_waitE; assumption)
    | (apply keep_failE; assumption)
    | (refine keep_of_ok ?_ ‹_ = Out.ok _ _›)
    | (refine keep_of_wait ?_ ‹_ = Out.wait _›)
    | (refine keep_of_fail ?_ ‹_ = Out.fail _ _›)
    | apply keep_state
    | (refine keepO_of_some ?_ ‹_ = some _›)
    | (apply keep_pairE; assumption)
    | (refine keep_of_pair ?_ ‹_ = (_, _)›)
    | simp -zeta -zetaDelta only [keep_snd]
    | (apply keep_fstE; assumption)
    | (refine keep_of_fst ?_ ‹_ = (_, _)›)
    | simp -zeta -zetaDelta only [keep_fst]
    | split
    | fail

theorem prefetches_keep {s : State} {q cls : Nat} {l : List (Strand × Nat)} (h_s : Keep m a s) (hw : ∀ p ∈ ([.clocks, .memory, .bytes, .lanterns, .fabric, .ranges, .floss, .snuffer, .darner] : List StatePart), p ∈ m.parts) (he : ∀ e ∈ ([0x500001, 0x500002, 0x500003, 0x500004, 0x500006, 0x500007, 0x500008, 0x510002, 0x600001, 0x600003, 0x700009, 0x810008] : List Nat), m.entry e) : KeepO m a (prefetches s q cls l) := by
  unfold prefetches
  repeat' with_reducible first
    | assumption
    | (refine partsSub ?_ hw; decide)
    | (refine entriesSub ?_ he; decide)
    | exact he _ (by decide)
    | (intro _)
    | (simp -zeta -zetaDelta only [keep_mk]; apply keepL_of; any_goals first | exact .inr rfl | exact .inl (hw _ (by decide)) | exact .inr (fun x => x) | exact .inr (fun _ => rfl))
    | (fail_if_no_progress extract_lets +onlyGivenNames z; first | (have hz : Keep m a z := ?_; (on_goal 2 => subst z); clear_value z) | (have hz : KeepP m a z := ?_; (on_goal 2 => subst z); clear_value z) | (have hz : KeepO m a z := ?_; (on_goal 2 => subst z); clear_value z) | (have hz : KeepF m a z := ?_; (on_goal 2 => subst z); clear_value z) | (have hz : KeepPO m a z := ?_; (on_goal 2 => subst z); clear_value z) | (first | have _ : Mem := z | have _ : Clocks := z | have _ : Snuffer := z | have _ : Keeper := z) | clear_value z)
    | apply keep_ite
    | apply keepO_ok
    | apply keepO_wait
    | apply keepO_fail
    | apply keepO_ite
    | apply prefetchStrand_keep
    | (refine keep_foldl ?_ (fun _ _ _ => ?_))
    | (refine keepO_foldl ?_ (fun _ _ _ => ?_))
    | (refine keepO_andThen ?_ (fun _ _ _ => ?_))
    | (apply keep_okE; assumption)
    | (apply keep_waitE; assumption)
    | (apply keep_failE; assumption)
    | (refine keep_of_ok ?_ ‹_ = Out.ok _ _›)
    | (refine keep_of_wait ?_ ‹_ = Out.wait _›)
    | (refine keep_of_fail ?_ ‹_ = Out.fail _ _›)
    | apply keep_state
    | (refine keepO_of_some ?_ ‹_ = some _›)
    | split
    | fail

theorem stitch_keep {s : State} {q e : Nat} (h_s : Keep m a s) (hw : ∀ p ∈ ([.clocks, .memory, .bytes, .lanterns, .fabric, .ranges, .queues, .contexts, .floss, .snuffer, .darner] : List StatePart), p ∈ m.parts) (he : ∀ e ∈ ([0x500001, 0x500002, 0x500003, 0x500004, 0x500006, 0x500007, 0x500008, 0x510002, 0x600001, 0x600003, 0x700009, 0x800003, 0x810008, 0xB00007] : List Nat), m.entry e) : Keep m a (stitch s q e) := by
  induction q generalizing s e with
  | zero =>
    unfold stitch
    repeat' with_reducible first
      | assumption
      | apply ih
      | (refine partsSub ?_ hw; decide)
      | (refine entriesSub ?_ he; decide)
      | exact he _ (by decide)
      | (intro _)
      | (simp -zeta -zetaDelta only [keep_mk]; apply keepL_of; any_goals first | exact .inr rfl | exact .inl (hw _ (by decide)) | exact .inr (fun x => x) | exact .inr (fun _ => rfl))
      | (fail_if_no_progress extract_lets +onlyGivenNames z; first | (have hz : Keep m a z := ?_; (on_goal 2 => subst z); clear_value z) | (have hz : KeepP m a z := ?_; (on_goal 2 => subst z); clear_value z) | (have hz : KeepO m a z := ?_; (on_goal 2 => subst z); clear_value z) | (have hz : KeepF m a z := ?_; (on_goal 2 => subst z); clear_value z) | (have hz : KeepPO m a z := ?_; (on_goal 2 => subst z); clear_value z) | (first | have _ : Mem := z | have _ : Clocks := z | have _ : Snuffer := z | have _ : Keeper := z) | clear_value z)
      | apply keep_ite
      | apply keepO_ok
      | apply keepO_wait
      | apply keepO_fail
      | apply keepO_ite
      | simp -zeta -zetaDelta only [keepP_iff]
      | apply keepP_ite
      | simp -zeta -zetaDelta only [keepF_iff]
      | apply keepF_ite
      | apply modLantern_keep
      | apply modFlight_keep
      | apply showActivity_keep
      | apply finishFlight_keep
      | apply feDone_keep
      | apply stageStitch_keep
      | apply prefetches_keep
      | (refine keep_foldl ?_ (fun _ _ _ => ?_))
      | (refine keepP_foldl ?_ (fun _ _ _ => ?_))
      | (refine keepF_foldl ?_ (fun _ _ _ => ?_))
      | (refine keepO_foldl ?_ (fun _ _ _ => ?_))
      | (refine keepO_andThen ?_ (fun _ _ _ => ?_))
      | (apply keep_okE; assumption)
      | (apply keep_waitE; assumption)
      | (apply keep_failE; assumption)
      | (refine keep_of_ok ?_ ‹_ = Out.ok _ _›)
      | (refine keep_of_wait ?_ ‹_ = Out.wait _›)
      | (refine keep_of_fail ?_ ‹_ = Out.fail _ _›)
      | apply keep_state
      | (refine keepO_of_some ?_ ‹_ = some _›)
      | (apply keep_pairE; assumption)
      | (refine keep_of_pair ?_ ‹_ = (_, _)›)
      | simp -zeta -zetaDelta only [keep_snd]
      | (apply keep_fstE; assumption)
      | (refine keep_of_fst ?_ ‹_ = (_, _)›)
      | simp -zeta -zetaDelta only [keep_fst]
      | split
      | fail
  | succ n ih =>
    unfold stitch
    repeat' with_reducible first
      | assumption
      | apply ih
      | (refine partsSub ?_ hw; decide)
      | (refine entriesSub ?_ he; decide)
      | exact he _ (by decide)
      | (intro _)
      | (simp -zeta -zetaDelta only [keep_mk]; apply keepL_of; any_goals first | exact .inr rfl | exact .inl (hw _ (by decide)) | exact .inr (fun x => x) | exact .inr (fun _ => rfl))
      | (fail_if_no_progress extract_lets +onlyGivenNames z; first | (have hz : Keep m a z := ?_; (on_goal 2 => subst z); clear_value z) | (have hz : KeepP m a z := ?_; (on_goal 2 => subst z); clear_value z) | (have hz : KeepO m a z := ?_; (on_goal 2 => subst z); clear_value z) | (have hz : KeepF m a z := ?_; (on_goal 2 => subst z); clear_value z) | (have hz : KeepPO m a z := ?_; (on_goal 2 => subst z); clear_value z) | (first | have _ : Mem := z | have _ : Clocks := z | have _ : Snuffer := z | have _ : Keeper := z) | clear_value z)
      | apply keep_ite
      | apply keepO_ok
      | apply keepO_wait
      | apply keepO_fail
      | apply keepO_ite
      | simp -zeta -zetaDelta only [keepP_iff]
      | apply keepP_ite
      | simp -zeta -zetaDelta only [keepF_iff]
      | apply keepF_ite
      | apply modLantern_keep
      | apply modFlight_keep
      | apply showActivity_keep
      | apply finishFlight_keep
      | apply feDone_keep
      | apply stageStitch_keep
      | apply prefetches_keep
      | (refine keep_foldl ?_ (fun _ _ _ => ?_))
      | (refine keepP_foldl ?_ (fun _ _ _ => ?_))
      | (refine keepF_foldl ?_ (fun _ _ _ => ?_))
      | (refine keepO_foldl ?_ (fun _ _ _ => ?_))
      | (refine keepO_andThen ?_ (fun _ _ _ => ?_))
      | (apply keep_okE; assumption)
      | (apply keep_waitE; assumption)
      | (apply keep_failE; assumption)
      | (refine keep_of_ok ?_ ‹_ = Out.ok _ _›)
      | (refine keep_of_wait ?_ ‹_ = Out.wait _›)
      | (refine keep_of_fail ?_ ‹_ = Out.fail _ _›)
      | apply keep_state
      | (refine keepO_of_some ?_ ‹_ = some _›)
      | (apply keep_pairE; assumption)
      | (refine keep_of_pair ?_ ‹_ = (_, _)›)
      | simp -zeta -zetaDelta only [keep_snd]
      | (apply keep_fstE; assumption)
      | (refine keep_of_fst ?_ ‹_ = (_, _)›)
      | simp -zeta -zetaDelta only [keep_fst]
      | split
      | fail

theorem issueTo_keep {s : State} {l : Nat} (h_s : Keep m a s) (hw : ∀ p ∈ ([.clocks, .lanterns] : List StatePart), p ∈ m.parts) : Keep m a (issueTo s l) := by
  unfold issueTo
  repeat' with_reducible first
    | assumption
    | (refine partsSub ?_ hw; decide)
    | (intro _)
    | (fail_if_no_progress extract_lets +onlyGivenNames z; first | (have hz : Keep m a z := ?_; (on_goal 2 => subst z); clear_value z) | (have hz : KeepP m a z := ?_; (on_goal 2 => subst z); clear_value z) | (have hz : KeepO m a z := ?_; (on_goal 2 => subst z); clear_value z) | (have hz : KeepF m a z := ?_; (on_goal 2 => subst z); clear_value z) | (have hz : KeepPO m a z := ?_; (on_goal 2 => subst z); clear_value z) | (first | have _ : Mem := z | have _ : Clocks := z | have _ : Snuffer := z | have _ : Keeper := z) | clear_value z)
    | apply keep_ite
    | apply keepO_ok
    | apply keepO_wait
    | apply keepO_fail
    | apply keepO_ite
    | apply needClock_keep
    | apply wakeLantern_keep
    | apply hw
    | (refine keepO_andThen ?_ (fun _ _ _ => ?_))
    | (apply keep_okE; assumption)
    | (apply keep_waitE; assumption)
    | (apply keep_failE; assumption)
    | (refine keep_of_ok ?_ ‹_ = Out.ok _ _›)
    | (refine keep_of_wait ?_ ‹_ = Out.wait _›)
    | (refine keep_of_fail ?_ ‹_ = Out.fail _ _›)
    | apply keep_state
    | fail

theorem placeSaved_keep {s : State} {h c : Nat} (h_s : Keep m a s) (hw : ∀ p ∈ ([.clocks, .lanterns, .fabric, .queues, .contexts, .waits] : List StatePart), p ∈ m.parts) (he : ∀ e ∈ ([0x600001, 0x800003, 0x810008] : List Nat), m.entry e) : Keep m a (placeSaved s h c) := by
  unfold placeSaved
  repeat' with_reducible first
    | assumption
    | (refine partsSub ?_ hw; decide)
    | (refine entriesSub ?_ he; decide)
    | exact he _ (by decide)
    | (intro _)
    | (simp -zeta -zetaDelta only [keep_mk]; apply keepL_of; any_goals first | exact .inr rfl | exact .inl (hw _ (by decide)) | exact .inr (fun x => x) | exact .inr (fun _ => rfl))
    | (fail_if_no_progress extract_lets +onlyGivenNames z; first | (have hz : Keep m a z := ?_; (on_goal 2 => subst z); clear_value z) | (have hz : KeepP m a z := ?_; (on_goal 2 => subst z); clear_value z) | (have hz : KeepO m a z := ?_; (on_goal 2 => subst z); clear_value z) | (have hz : KeepF m a z := ?_; (on_goal 2 => subst z); clear_value z) | (have hz : KeepPO m a z := ?_; (on_goal 2 => subst z); clear_value z) | (first | have _ : Mem := z | have _ : Clocks := z | have _ : Snuffer := z | have _ : Keeper := z) | clear_value z)
    | apply keep_ite
    | apply modLantern_keep
    | apply stopStitch_keep
    | apply contribute_keep
    | apply stitchCheck_keep
    | apply issueTo_keep
    | (refine keep_foldl ?_ (fun _ _ _ => ?_))
    | split
    | fail

theorem placeStitch_keep {s : State} {h q e : Nat} (h_s : Keep m a s) (hw : ∀ p ∈ ([.clocks, .lanterns, .fabric, .queues, .contexts] : List StatePart), p ∈ m.parts) (he : ∀ e ∈ ([0x600001, 0x800003, 0x810008] : List Nat), m.entry e) : Keep m a (placeStitch s h q e) := by
  unfold placeStitch
  split
  · exact h_s
  · extract_lets gone s1
    have h1 : Keep m a s1 := by
      refine keep_foldl h_s (fun z p hz => ?_)
      split
      · exact issueTo_keep (modLantern_keep hz (partsSub (by decide) hw)) (partsSub (by decide) hw)
      · exact hz
    split
    · exact finishFlight_keep h_s (partsSub (by decide) hw) (entriesSub (by decide) he)
    · exact modFlight_keep h1 (partsSub (by decide) hw)

theorem stitchChoose_keep {s : State} {h : Nat} (h_s : Keep m a s) (hw : ∀ p ∈ ([.clocks, .lanterns, .hoops, .fabric, .queues, .contexts, .waits] : List StatePart), p ∈ m.parts) (he : ∀ e ∈ ([0x600001, 0x800003, 0x810008] : List Nat), m.entry e) : Keep m a (stitchChoose s h) := by
  unfold stitchChoose
  repeat' with_reducible first
    | assumption
    | (refine partsSub ?_ hw; decide)
    | (refine entriesSub ?_ he; decide)
    | exact he _ (by decide)
    | (intro _)
    | (simp -zeta -zetaDelta only [keep_mk]; apply keepL_of; any_goals first | exact .inr rfl | exact .inl (hw _ (by decide)) | exact .inr (fun x => x) | exact .inr (fun _ => rfl))
    | (fail_if_no_progress extract_lets +onlyGivenNames z; first | (have hz : Keep m a z := ?_; (on_goal 2 => subst z); clear_value z) | (have hz : KeepP m a z := ?_; (on_goal 2 => subst z); clear_value z) | (have hz : KeepO m a z := ?_; (on_goal 2 => subst z); clear_value z) | (have hz : KeepF m a z := ?_; (on_goal 2 => subst z); clear_value z) | (have hz : KeepPO m a z := ?_; (on_goal 2 => subst z); clear_value z) | (first | have _ : Mem := z | have _ : Clocks := z | have _ : Snuffer := z | have _ : Keeper := z) | clear_value z)
    | apply keep_ite
    | apply modHoop_keep
    | apply stall_keep
    | apply showHoop_keep
    | apply takeShares_keep
    | apply placeSaved_keep
    | apply placeStitch_keep
    | split
    | fail

theorem modStrand_keep {s : State} {r : StrandRef} {f : Strand → Strand} (h_s : Keep m a s) (hw : ∀ p ∈ ([.queues] : List StatePart), p ∈ m.parts) : Keep m a (modStrand s r f) := by
  unfold modStrand
  repeat' with_reducible first
    | assumption
    | (refine partsSub ?_ hw; decide)
    | (intro _)
    | (simp -zeta -zetaDelta only [keep_mk]; apply keepL_of; any_goals first | exact .inr rfl | exact .inl (hw _ (by decide)) | exact .inr (fun x => x) | exact .inr (fun _ => rfl))
    | (fail_if_no_progress extract_lets +onlyGivenNames z; first | (have hz : Keep m a z := ?_; (on_goal 2 => subst z); clear_value z) | (have hz : KeepP m a z := ?_; (on_goal 2 => subst z); clear_value z) | (have hz : KeepO m a z := ?_; (on_goal 2 => subst z); clear_value z) | (have hz : KeepF m a z := ?_; (on_goal 2 => subst z); clear_value z) | (have hz : KeepPO m a z := ?_; (on_goal 2 => subst z); clear_value z) | (first | have _ : Mem := z | have _ : Clocks := z | have _ : Snuffer := z | have _ : Keeper := z) | clear_value z)
    | apply keep_ite
    | apply modFlight_keep
    | fail

theorem strandClear_keep {s : State} {l : Nat} (h_s : Keep m a s) (hw : ∀ p ∈ ([.memory, .bytes, .lanterns] : List StatePart), p ∈ m.parts) : Keep m a (strandClear s l) := by
  unfold strandClear
  repeat' with_reducible first
    | assumption
    | (refine partsSub ?_ hw; decide)
    | (intro _)
    | (simp -zeta -zetaDelta only [keep_mk]; apply keepL_of; any_goals first | exact .inr rfl | exact .inl (hw _ (by decide)) | exact .inr (fun x => x) | exact .inr (fun _ => rfl))
    | (fail_if_no_progress extract_lets +onlyGivenNames z; first | (have hz : Keep m a z := ?_; (on_goal 2 => subst z); clear_value z) | (have hz : KeepP m a z := ?_; (on_goal 2 => subst z); clear_value z) | (have hz : KeepO m a z := ?_; (on_goal 2 => subst z); clear_value z) | (have hz : KeepF m a z := ?_; (on_goal 2 => subst z); clear_value z) | (have hz : KeepPO m a z := ?_; (on_goal 2 => subst z); clear_value z) | (first | have _ : Mem := z | have _ : Clocks := z | have _ : Snuffer := z | have _ : Keeper := z) | clear_value z)
    | apply keep_ite
    | apply modLantern_keep
    | apply clearScratch_keep
    | fail

theorem swapTraffic_keep {s : State} {c dir n : Nat} (h_s : Keep m a s) (hw : ∀ p ∈ ([.floss] : List StatePart), p ∈ m.parts) (he : ∀ e ∈ ([0x600001] : List Nat), m.entry e) : Keep m a (swapTraffic s c dir n) := by
  unfold swapTraffic
  repeat' with_reducible first
    | assumption
    | (refine partsSub ?_ hw; decide)
    | (refine entriesSub ?_ he; decide)
    | exact he _ (by decide)
    | (intro _)
    | (fail_if_no_progress extract_lets +onlyGivenNames z; first | (have hz : Keep m a z := ?_; (on_goal 2 => subst z); clear_value z) | (have hz : KeepP m a z := ?_; (on_goal 2 => subst z); clear_value z) | (have hz : KeepO m a z := ?_; (on_goal 2 => subst z); clear_value z) | (have hz : KeepF m a z := ?_; (on_goal 2 => subst z); clear_value z) | (have hz : KeepPO m a z := ?_; (on_goal 2 => subst z); clear_value z) | (first | have _ : Mem := z | have _ : Clocks := z | have _ : Snuffer := z | have _ : Keeper := z) | clear_value z)
    | apply keep_ite
    | apply countB_keep
    | apply portArrive_keep
    | fail

theorem restoreStrand_keep {s : State} {l : Nat} {v : Saved} (h_s : Keep m a s) (hw : ∀ p ∈ ([.memory, .bytes, .lanterns, .contexts, .floss] : List StatePart), p ∈ m.parts) (he : ∀ e ∈ ([0x600001] : List Nat), m.entry e) : Keep m a (restoreStrand s l v) := by
  unfold restoreStrand
  extract_lets s1 base put sp src s2 c s3
  have h1 : Keep m a s1 := by
    refine clearScratch_keep ?_ (partsSub (by decide) hw)
    repeat' with_reducible first
      | assumption
      | (refine partsSub ?_ hw; decide)
      | (refine entriesSub ?_ he; decide)
      | apply swapTraffic_keep
  have h2 : Keep m a s2 := by
    refine keep_mk.2 ?_
    with_reducible apply keepL_of; with_reducible any_goals first | exact .inr rfl | exact .inl (hw _ (by decide)) | exact .inr (fun x => x) | exact .inr (fun _ => rfl) | fail
    · exact h1
    · exact .inl ⟨hw _ (by decide), canonical_foldl_cput (k := fun p : Host.Cell => base + p.1) (v := fun p => p.2) h1.canon.mem⟩
  repeat' with_reducible first
    | assumption
    | (refine partsSub ?_ hw; decide)
    | apply modLantern_keep
    | apply modContext_keep

theorem beginStrand_keep {s : State} {l : Nat} {r : StrandRef} {t : Stitch} {d : Strand} (h_s : Keep m a s) (hw : ∀ p ∈ ([.memory, .bytes, .lanterns, .queues, .contexts, .floss] : List StatePart), p ∈ m.parts) (he : ∀ e ∈ ([0x600001, 0x600003, 0x800003] : List Nat), m.entry e) : Keep m a (beginStrand s l r t d) := by
  unfold beginStrand
  repeat' with_reducible first
    | assumption
    | (refine partsSub ?_ hw; decide)
    | (refine entriesSub ?_ he; decide)
    | exact he _ (by decide)
    | (intro _)
    | (simp -zeta -zetaDelta only [keep_mk]; apply keepL_of; any_goals first | exact .inr rfl | exact .inl (hw _ (by decide)) | exact .inr (fun x => x) | exact .inr (fun _ => rfl))
    | (fail_if_no_progress extract_lets +onlyGivenNames z; first | (have hz : Keep m a z := ?_; (on_goal 2 => subst z); clear_value z) | (have hz : KeepP m a z := ?_; (on_goal 2 => subst z); clear_value z) | (have hz : KeepO m a z := ?_; (on_goal 2 => subst z); clear_value z) | (have hz : KeepF m a z := ?_; (on_goal 2 => subst z); clear_value z) | (have hz : KeepPO m a z := ?_; (on_goal 2 => subst z); clear_value z) | (first | have _ : Mem := z | have _ : Clocks := z | have _ : Snuffer := z | have _ : Keeper := z) | clear_value z)
    | apply keep_ite
    | apply keepO_ok
    | apply keepO_wait
    | apply keepO_fail
    | apply keepO_ite
    | simp -zeta -zetaDelta only [keepP_iff]
    | apply keepP_ite
    | apply selCount_keep
    | apply modLantern_keep
    | apply showHoop_keep
    | apply modStrand_keep
    | apply strandClear_keep
    | apply restoreStrand_keep
    | (apply keep_okE; assumption)
    | (apply keep_waitE; assumption)
    | (apply keep_failE; assumption)
    | (refine keep_of_ok ?_ ‹_ = Out.ok _ _›)
    | (refine keep_of_wait ?_ ‹_ = Out.wait _›)
    | (refine keep_of_fail ?_ ‹_ = Out.fail _ _›)
    | apply keep_state
    | (refine keepO_of_some ?_ ‹_ = some _›)
    | (apply keep_pairE; assumption)
    | (refine keep_of_pair ?_ ‹_ = (_, _)›)
    | simp -zeta -zetaDelta only [keep_snd]
    | split
    | fail

theorem restoreClock_keep {s : State} {r : StrandRef} (h_s : Keep m a s) (hw : ∀ p ∈ ([.clocks] : List StatePart), p ∈ m.parts) : KeepO m a (restoreClock s r) := by
  unfold restoreClock
  repeat' with_reducible first
    | assumption
    | (refine partsSub ?_ hw; decide)
    | (intro _)
    | (fail_if_no_progress extract_lets +onlyGivenNames z; first | (have hz : Keep m a z := ?_; (on_goal 2 => subst z); clear_value z) | (have hz : KeepP m a z := ?_; (on_goal 2 => subst z); clear_value z) | (have hz : KeepO m a z := ?_; (on_goal 2 => subst z); clear_value z) | (have hz : KeepF m a z := ?_; (on_goal 2 => subst z); clear_value z) | (have hz : KeepPO m a z := ?_; (on_goal 2 => subst z); clear_value z) | (first | have _ : Mem := z | have _ : Clocks := z | have _ : Snuffer := z | have _ : Keeper := z) | clear_value z)
    | apply keep_ite
    | apply keepO_ok
    | apply keepO_wait
    | apply keepO_fail
    | apply keepO_ite
    | apply needClock_keep
    | fail

theorem strandStart_keep {s : State} {l : Nat} (h_s : Keep m a s) (hw : ∀ p ∈ ([.clocks, .memory, .bytes, .lanterns, .queues, .contexts, .floss] : List StatePart), p ∈ m.parts) (he : ∀ e ∈ ([0x600001, 0x600003, 0x800003] : List Nat), m.entry e) : Keep m a (strandStart s l) := by
  unfold strandStart
  repeat' with_reducible first
    | assumption
    | (refine partsSub ?_ hw; decide)
    | (refine entriesSub ?_ he; decide)
    | exact he _ (by decide)
    | (intro _)
    | (simp -zeta -zetaDelta only [keep_mk]; apply keepL_of; any_goals first | exact .inr rfl | exact .inl (hw _ (by decide)) | exact .inr (fun x => x) | exact .inr (fun _ => rfl))
    | (fail_if_no_progress extract_lets +onlyGivenNames z; first | (have hz : Keep m a z := ?_; (on_goal 2 => subst z); clear_value z) | (have hz : KeepP m a z := ?_; (on_goal 2 => subst z); clear_value z) | (have hz : KeepO m a z := ?_; (on_goal 2 => subst z); clear_value z) | (have hz : KeepF m a z := ?_; (on_goal 2 => subst z); clear_value z) | (have hz : KeepPO m a z := ?_; (on_goal 2 => subst z); clear_value z) | (first | have _ : Mem := z | have _ : Clocks := z | have _ : Snuffer := z | have _ : Keeper := z) | clear_value z)
    | apply keep_ite
    | apply keepO_ok
    | apply keepO_wait
    | apply keepO_fail
    | apply keepO_ite
    | apply modLantern_keep
    | apply lanternReady_keep
    | apply beginStrand_keep
    | apply restoreClock_keep
    | (refine keepO_andThen ?_ (fun _ _ _ => ?_))
    | (apply keep_okE; assumption)
    | (apply keep_waitE; assumption)
    | (apply keep_failE; assumption)
    | (refine keep_of_ok ?_ ‹_ = Out.ok _ _›)
    | (refine keep_of_wait ?_ ‹_ = Out.wait _›)
    | (refine keep_of_fail ?_ ‹_ = Out.fail _ _›)
    | apply keep_state
    | (refine keepO_of_some ?_ ‹_ = some _›)
    | split
    | fail

theorem releaseLantern_keep {s : State} {l : Nat} (h_s : Keep m a s) (hw : ∀ p ∈ ([.fabric, .ranges, .allocs] : List StatePart), p ∈ m.parts) : Keep m a (releaseLantern s l) := by
  unfold releaseLantern
  repeat' with_reducible first
    | assumption
    | (refine partsSub ?_ hw; decide)
    | (intro _)
    | (simp -zeta -zetaDelta only [keep_mk]; apply keepL_of; any_goals first | exact .inr rfl | exact .inl (hw _ (by decide)) | exact .inr (fun x => x) | exact .inr (fun _ => rfl))
    | (fail_if_no_progress extract_lets +onlyGivenNames z; first | (have hz : Keep m a z := ?_; (on_goal 2 => subst z); clear_value z) | (have hz : KeepP m a z := ?_; (on_goal 2 => subst z); clear_value z) | (have hz : KeepO m a z := ?_; (on_goal 2 => subst z); clear_value z) | (have hz : KeepF m a z := ?_; (on_goal 2 => subst z); clear_value z) | (have hz : KeepPO m a z := ?_; (on_goal 2 => subst z); clear_value z) | (first | have _ : Mem := z | have _ : Clocks := z | have _ : Snuffer := z | have _ : Keeper := z) | clear_value z)
    | apply keep_ite
    | apply dropPicots_keep
    | apply dropEng_keep
    | apply dropEngX_keep
    | (refine keep_foldl ?_ (fun _ _ _ => ?_))
    | fail

theorem strandComplete_keep {s : State} {l : Nat} (h_s : Keep m a s) (hw : ∀ p ∈ ([.lanterns, .fabric, .ranges, .queues, .contexts, .allocs] : List StatePart), p ∈ m.parts) (he : ∀ e ∈ ([0x600001, 0x800003, 0x800004, 0x810008] : List Nat), m.entry e) : Keep m a (strandComplete s l) := by
  unfold strandComplete
  repeat' with_reducible first
    | assumption
    | (refine partsSub ?_ hw; decide)
    | (refine entriesSub ?_ he; decide)
    | exact he _ (by decide)
    | (intro _)
    | (simp -zeta -zetaDelta only [keep_mk]; apply keepL_of; any_goals first | exact .inr rfl | exact .inl (hw _ (by decide)) | exact .inr (fun x => x) | exact .inr (fun _ => rfl))
    | (fail_if_no_progress extract_lets +onlyGivenNames z; first | (have hz : Keep m a z := ?_; (on_goal 2 => subst z); clear_value z) | (have hz : KeepP m a z := ?_; (on_goal 2 => subst z); clear_value z) | (have hz : KeepO m a z := ?_; (on_goal 2 => subst z); clear_value z) | (have hz : KeepF m a z := ?_; (on_goal 2 => subst z); clear_value z) | (have hz : KeepPO m a z := ?_; (on_goal 2 => subst z); clear_value z) | (first | have _ : Mem := z | have _ : Clocks := z | have _ : Snuffer := z | have _ : Keeper := z) | clear_value z)
    | apply keep_ite
    | simp -zeta -zetaDelta only [keepF_iff]
    | apply keepF_ite
    | apply modLantern_keep
    | apply modFlight_keep
    | apply showHoop_keep
    | apply contribute_keep
    | apply stitchCheck_keep
    | apply chargeLantern_keep
    | apply modStrand_keep
    | apply releaseLantern_keep
    | (refine keep_foldl ?_ (fun _ _ _ => ?_))
    | (refine keepF_foldl ?_ (fun _ _ _ => ?_))
    | (apply keep_fstE; assumption)
    | (refine keep_of_fst ?_ ‹_ = (_, _)›)
    | simp -zeta -zetaDelta only [keep_fst]
    | split
    | fail

theorem stitchStop_keep {s : State} {q e : Nat} (h_s : Keep m a s) (hw : ∀ p ∈ ([.lanterns, .fabric, .queues, .contexts, .waits] : List StatePart), p ∈ m.parts) (he : ∀ e ∈ ([0x600001, 0x800003, 0x810008] : List Nat), m.entry e) : Keep m a (stitchStop s q e) := by
  unfold stitchStop
  repeat' with_reducible first
    | assumption
    | (refine partsSub ?_ hw; decide)
    | (refine entriesSub ?_ he; decide)
    | exact he _ (by decide)
    | (intro _)
    | (simp -zeta -zetaDelta only [keep_mk]; apply keepL_of; any_goals first | exact .inr rfl | exact .inl (hw _ (by decide)) | exact .inr (fun x => x) | exact .inr (fun _ => rfl))
    | (fail_if_no_progress extract_lets +onlyGivenNames z; first | (have hz : Keep m a z := ?_; (on_goal 2 => subst z); clear_value z) | (have hz : KeepP m a z := ?_; (on_goal 2 => subst z); clear_value z) | (have hz : KeepO m a z := ?_; (on_goal 2 => subst z); clear_value z) | (have hz : KeepF m a z := ?_; (on_goal 2 => subst z); clear_value z) | (have hz : KeepPO m a z := ?_; (on_goal 2 => subst z); clear_value z) | (have hz : ∀ s, Keep m a s → Keep m a (z s) := ?_; (on_goal 2 => (subst z; intros; beta_reduce)); clear_value z) | (have hz : ∀ s x, Keep m a s → Keep m a (z s x) := ?_; (on_goal 2 => (subst z; intros; beta_reduce)); clear_value z) | (have hz : ∀ s x, Keep m a s → KeepO m a (z s x) := ?_; (on_goal 2 => (subst z; intros; beta_reduce)); clear_value z) | (have hz : ∀ x s, Keep m a s → Keep m a (z x s) := ?_; (on_goal 2 => (subst z; intros; beta_reduce)); clear_value z) | (have hz : ∀ s, Keep m a s → KeepO m a (z s) := ?_; (on_goal 2 => (subst z; intros; beta_reduce)); clear_value z) | (have hz : ∀ x, Keep m a (z x) := ?_; (on_goal 2 => (subst z; intros; beta_reduce)); clear_value z) | (have hz : ∀ x y s, Keep m a s → Keep m a (z x y s) := ?_; (on_goal 2 => (subst z; intros; beta_reduce)); clear_value z) | (have hz : ∀ o x, KeepO m a o → KeepOO m a (z o x) := ?_; (on_goal 2 => (subst z; intros; beta_reduce)); clear_value z) | (have hz : ∀ s, Keep m a s → KeepP m a (z s) := ?_; (on_goal 2 => (subst z; intros; beta_reduce)); clear_value z) | (have hz : ∀ x, KeepP m a (z x) := ?_; (on_goal 2 => (subst z; intros; beta_reduce)); clear_value z) | (have hz : ∀ s x y, Keep m a s → Keep m a (z s x y) := ?_; (on_goal 2 => (subst z; intros; beta_reduce)); clear_value z) | (have hz : ∀ s x, Keep m a s → KeepOO m a (z s x) := ?_; (on_goal 2 => (subst z; intros; beta_reduce)); clear_value z) | (have hz : ∀ x o, KeepO m a o → KeepOO m a (z x o) := ?_; (on_goal 2 => (subst z; intros; beta_reduce)); clear_value z) | (have hz : ∀ x y, KeepP m a (z x y) := ?_; (on_goal 2 => (subst z; intros; beta_reduce)); clear_value z) | (have hz : ∀ s x y w, Keep m a s → Keep m a (z s x y w) := ?_; (on_goal 2 => (subst z; intros; beta_reduce)); clear_value z) | (first | have _ : Mem := z | have _ : Clocks := z | have _ : Snuffer := z | have _ : Keeper := z) | clear_value z)
    | apply hz
    | apply keep_ite
    | apply stopStitch_keep
    | apply stitchCheck_keep
    | fail

end Sys2Proof.Machine
end

