-- ==== Sys2Proof/Laws/State.lean ====
section
/-! SUPPORT. What each named update of the state leaves in each of its fields, and what a record reads as after a write of it or of
another. -/

namespace Sys2Proof.Machine

variable (s : State)

/-! ### setCell -/

theorem withRegs_pending (r : Table Word) : ({ s with regs := r } : State).pending = s.pending := rfl
theorem withRegs_free (r : Table Word) : ({ s with regs := r } : State).free = s.free := rfl
theorem withRegs_clk (r : Table Word) : ({ s with regs := r } : State).clk = s.clk := rfl
theorem withRegs_mem (r : Table Word) : ({ s with regs := r } : State).mem = s.mem := rfl
theorem withRegs_hostMem (r : Table Word) : ({ s with regs := r } : State).hostMem = s.hostMem := rfl
theorem withRegs_hostPoison (r : Table Word) : ({ s with regs := r } : State).hostPoison = s.hostPoison := rfl
theorem withRegs_staged (r : Table Word) : ({ s with regs := r } : State).staged = s.staged := rfl
theorem withRegs_lan (r : Table Word) : ({ s with regs := r } : State).lan = s.lan := rfl
theorem withRegs_hoops (r : Table Word) : ({ s with regs := r } : State).hoops = s.hoops := rfl
theorem withRegs_fab (r : Table Word) : ({ s with regs := r } : State).fab = s.fab := rfl
theorem withRegs_rng (r : Table Word) : ({ s with regs := r } : State).rng = s.rng := rfl
theorem withRegs_queues (r : Table Word) : ({ s with regs := r } : State).queues = s.queues := rfl
theorem withRegs_ctxs (r : Table Word) : ({ s with regs := r } : State).ctxs = s.ctxs := rfl
theorem withRegs_fences (r : Table Word) : ({ s with regs := r } : State).fences = s.fences := rfl
theorem withRegs_waits (r : Table Word) : ({ s with regs := r } : State).waits = s.waits := rfl
theorem withRegs_objs (r : Table Word) : ({ s with regs := r } : State).objs = s.objs := rfl
theorem withRegs_allocQ (r : Table Word) : ({ s with regs := r } : State).allocQ = s.allocQ := rfl
theorem withRegs_movers (r : Table Word) : ({ s with regs := r } : State).movers = s.movers := rfl
theorem withRegs_moverQ (r : Table Word) : ({ s with regs := r } : State).moverQ = s.moverQ := rfl
theorem withRegs_colls (r : Table Word) : ({ s with regs := r } : State).colls = s.colls := rfl
theorem withRegs_slots (r : Table Word) : ({ s with regs := r } : State).slots = s.slots := rfl
theorem withRegs_scrubs (r : Table Word) : ({ s with regs := r } : State).scrubs = s.scrubs := rfl
theorem withRegs_floss (r : Table Word) : ({ s with regs := r } : State).floss = s.floss := rfl
theorem withRegs_power (r : Table Word) : ({ s with regs := r } : State).power = s.power := rfl
theorem withRegs_snuffer (r : Table Word) : ({ s with regs := r } : State).snuffer = s.snuffer := rfl
theorem withRegs_keeper (r : Table Word) : ({ s with regs := r } : State).keeper = s.keeper := rfl
theorem withRegs_tele (r : Table Word) : ({ s with regs := r } : State).tele = s.tele := rfl
theorem withRegs_darner (r : Table Word) : ({ s with regs := r } : State).darner = s.darner := rfl
theorem withRegs_server (r : Table Word) : ({ s with regs := r } : State).server = s.server := rfl
theorem withRegs_ports (r : Table Word) : ({ s with regs := r } : State).ports = s.ports := rfl
theorem withRegs_vfs (r : Table Word) : ({ s with regs := r } : State).vfs = s.vfs := rfl
theorem withRegs_answer (r : Table Word) : ({ s with regs := r } : State).answer = s.answer := rfl

@[simp] theorem setCell_pending (e row w : Nat) (v : Word) : (setCell s e row w v).pending = s.pending := withRegs_pending s _
@[simp] theorem setCell_free (e row w : Nat) (v : Word) : (setCell s e row w v).free = s.free := withRegs_free s _
@[simp] theorem setCell_clk (e row w : Nat) (v : Word) : (setCell s e row w v).clk = s.clk := withRegs_clk s _
@[simp] theorem setCell_mem (e row w : Nat) (v : Word) : (setCell s e row w v).mem = s.mem := withRegs_mem s _
@[simp] theorem setCell_hostMem (e row w : Nat) (v : Word) : (setCell s e row w v).hostMem = s.hostMem := withRegs_hostMem s _
@[simp] theorem setCell_hostPoison (e row w : Nat) (v : Word) : (setCell s e row w v).hostPoison = s.hostPoison := withRegs_hostPoison s _
@[simp] theorem setCell_regs (e row w : Nat) (v : Word) : (setCell s e row w v).regs = cput cellDefault s.regs (cellKey e row w) v := rfl
@[simp] theorem setCell_staged (e row w : Nat) (v : Word) : (setCell s e row w v).staged = s.staged := withRegs_staged s _
@[simp] theorem setCell_lan (e row w : Nat) (v : Word) : (setCell s e row w v).lan = s.lan := withRegs_lan s _
@[simp] theorem setCell_hoops (e row w : Nat) (v : Word) : (setCell s e row w v).hoops = s.hoops := withRegs_hoops s _
@[simp] theorem setCell_fab (e row w : Nat) (v : Word) : (setCell s e row w v).fab = s.fab := withRegs_fab s _
@[simp] theorem setCell_rng (e row w : Nat) (v : Word) : (setCell s e row w v).rng = s.rng := withRegs_rng s _
@[simp] theorem setCell_queues (e row w : Nat) (v : Word) : (setCell s e row w v).queues = s.queues := withRegs_queues s _
@[simp] theorem setCell_ctxs (e row w : Nat) (v : Word) : (setCell s e row w v).ctxs = s.ctxs := withRegs_ctxs s _
@[simp] theorem setCell_fences (e row w : Nat) (v : Word) : (setCell s e row w v).fences = s.fences := withRegs_fences s _
@[simp] theorem setCell_waits (e row w : Nat) (v : Word) : (setCell s e row w v).waits = s.waits := withRegs_waits s _
@[simp] theorem setCell_objs (e row w : Nat) (v : Word) : (setCell s e row w v).objs = s.objs := withRegs_objs s _
@[simp] theorem setCell_allocQ (e row w : Nat) (v : Word) : (setCell s e row w v).allocQ = s.allocQ := withRegs_allocQ s _
@[simp] theorem setCell_movers (e row w : Nat) (v : Word) : (setCell s e row w v).movers = s.movers := withRegs_movers s _
@[simp] theorem setCell_moverQ (e row w : Nat) (v : Word) : (setCell s e row w v).moverQ = s.moverQ := withRegs_moverQ s _
@[simp] theorem setCell_colls (e row w : Nat) (v : Word) : (setCell s e row w v).colls = s.colls := withRegs_colls s _
@[simp] theorem setCell_slots (e row w : Nat) (v : Word) : (setCell s e row w v).slots = s.slots := withRegs_slots s _
@[simp] theorem setCell_scrubs (e row w : Nat) (v : Word) : (setCell s e row w v).scrubs = s.scrubs := withRegs_scrubs s _
@[simp] theorem setCell_floss (e row w : Nat) (v : Word) : (setCell s e row w v).floss = s.floss := withRegs_floss s _
@[simp] theorem setCell_power (e row w : Nat) (v : Word) : (setCell s e row w v).power = s.power := withRegs_power s _
@[simp] theorem setCell_snuffer (e row w : Nat) (v : Word) : (setCell s e row w v).snuffer = s.snuffer := withRegs_snuffer s _
@[simp] theorem setCell_keeper (e row w : Nat) (v : Word) : (setCell s e row w v).keeper = s.keeper := withRegs_keeper s _
@[simp] theorem setCell_tele (e row w : Nat) (v : Word) : (setCell s e row w v).tele = s.tele := withRegs_tele s _
@[simp] theorem setCell_darner (e row w : Nat) (v : Word) : (setCell s e row w v).darner = s.darner := withRegs_darner s _
@[simp] theorem setCell_server (e row w : Nat) (v : Word) : (setCell s e row w v).server = s.server := withRegs_server s _
@[simp] theorem setCell_ports (e row w : Nat) (v : Word) : (setCell s e row w v).ports = s.ports := withRegs_ports s _
@[simp] theorem setCell_vfs (e row w : Nat) (v : Word) : (setCell s e row w v).vfs = s.vfs := withRegs_vfs s _
@[simp] theorem setCell_answer (e row w : Nat) (v : Word) : (setCell s e row w v).answer = s.answer := withRegs_answer s _

/-! ### setReg -/

@[simp] theorem setReg_pending (e row v : Nat) : (setReg s e row v).pending = s.pending := setCell_pending s e row 0 (wd v)
@[simp] theorem setReg_free (e row v : Nat) : (setReg s e row v).free = s.free := setCell_free s e row 0 (wd v)
@[simp] theorem setReg_clk (e row v : Nat) : (setReg s e row v).clk = s.clk := setCell_clk s e row 0 (wd v)
@[simp] theorem setReg_mem (e row v : Nat) : (setReg s e row v).mem = s.mem := setCell_mem s e row 0 (wd v)
@[simp] theorem setReg_hostMem (e row v : Nat) : (setReg s e row v).hostMem = s.hostMem := setCell_hostMem s e row 0 (wd v)
@[simp] theorem setReg_hostPoison (e row v : Nat) : (setReg s e row v).hostPoison = s.hostPoison := setCell_hostPoison s e row 0 (wd v)
@[simp] theorem setReg_staged (e row v : Nat) : (setReg s e row v).staged = s.staged := setCell_staged s e row 0 (wd v)
@[simp] theorem setReg_lan (e row v : Nat) : (setReg s e row v).lan = s.lan := setCell_lan s e row 0 (wd v)
@[simp] theorem setReg_hoops (e row v : Nat) : (setReg s e row v).hoops = s.hoops := setCell_hoops s e row 0 (wd v)
@[simp] theorem setReg_fab (e row v : Nat) : (setReg s e row v).fab = s.fab := setCell_fab s e row 0 (wd v)
@[simp] theorem setReg_rng (e row v : Nat) : (setReg s e row v).rng = s.rng := setCell_rng s e row 0 (wd v)
@[simp] theorem setReg_queues (e row v : Nat) : (setReg s e row v).queues = s.queues := setCell_queues s e row 0 (wd v)
@[simp] theorem setReg_ctxs (e row v : Nat) : (setReg s e row v).ctxs = s.ctxs := setCell_ctxs s e row 0 (wd v)
@[simp] theorem setReg_fences (e row v : Nat) : (setReg s e row v).fences = s.fences := setCell_fences s e row 0 (wd v)
@[simp] theorem setReg_waits (e row v : Nat) : (setReg s e row v).waits = s.waits := setCell_waits s e row 0 (wd v)
@[simp] theorem setReg_objs (e row v : Nat) : (setReg s e row v).objs = s.objs := setCell_objs s e row 0 (wd v)
@[simp] theorem setReg_allocQ (e row v : Nat) : (setReg s e row v).allocQ = s.allocQ := setCell_allocQ s e row 0 (wd v)
@[simp] theorem setReg_movers (e row v : Nat) : (setReg s e row v).movers = s.movers := setCell_movers s e row 0 (wd v)
@[simp] theorem setReg_moverQ (e row v : Nat) : (setReg s e row v).moverQ = s.moverQ := setCell_moverQ s e row 0 (wd v)
@[simp] theorem setReg_colls (e row v : Nat) : (setReg s e row v).colls = s.colls := setCell_colls s e row 0 (wd v)
@[simp] theorem setReg_slots (e row v : Nat) : (setReg s e row v).slots = s.slots := setCell_slots s e row 0 (wd v)
@[simp] theorem setReg_scrubs (e row v : Nat) : (setReg s e row v).scrubs = s.scrubs := setCell_scrubs s e row 0 (wd v)
@[simp] theorem setReg_floss (e row v : Nat) : (setReg s e row v).floss = s.floss := setCell_floss s e row 0 (wd v)
@[simp] theorem setReg_power (e row v : Nat) : (setReg s e row v).power = s.power := setCell_power s e row 0 (wd v)
@[simp] theorem setReg_snuffer (e row v : Nat) : (setReg s e row v).snuffer = s.snuffer := setCell_snuffer s e row 0 (wd v)
@[simp] theorem setReg_keeper (e row v : Nat) : (setReg s e row v).keeper = s.keeper := setCell_keeper s e row 0 (wd v)
@[simp] theorem setReg_tele (e row v : Nat) : (setReg s e row v).tele = s.tele := setCell_tele s e row 0 (wd v)
@[simp] theorem setReg_darner (e row v : Nat) : (setReg s e row v).darner = s.darner := setCell_darner s e row 0 (wd v)
@[simp] theorem setReg_server (e row v : Nat) : (setReg s e row v).server = s.server := setCell_server s e row 0 (wd v)
@[simp] theorem setReg_ports (e row v : Nat) : (setReg s e row v).ports = s.ports := setCell_ports s e row 0 (wd v)
@[simp] theorem setReg_vfs (e row v : Nat) : (setReg s e row v).vfs = s.vfs := setCell_vfs s e row 0 (wd v)
@[simp] theorem setReg_answer (e row v : Nat) : (setReg s e row v).answer = s.answer := setCell_answer s e row 0 (wd v)

/-! ### setRegFld -/

@[simp] theorem setRegFld_pending (e row hi lo v : Nat) : (setRegFld s e row hi lo v).pending = s.pending := setCell_pending s e row 0 _
@[simp] theorem setRegFld_free (e row hi lo v : Nat) : (setRegFld s e row hi lo v).free = s.free := setCell_free s e row 0 _
@[simp] theorem setRegFld_clk (e row hi lo v : Nat) : (setRegFld s e row hi lo v).clk = s.clk := setCell_clk s e row 0 _
@[simp] theorem setRegFld_mem (e row hi lo v : Nat) : (setRegFld s e row hi lo v).mem = s.mem := setCell_mem s e row 0 _
@[simp] theorem setRegFld_hostMem (e row hi lo v : Nat) : (setRegFld s e row hi lo v).hostMem = s.hostMem := setCell_hostMem s e row 0 _
@[simp] theorem setRegFld_hostPoison (e row hi lo v : Nat) : (setRegFld s e row hi lo v).hostPoison = s.hostPoison := setCell_hostPoison s e row 0 _
@[simp] theorem setRegFld_staged (e row hi lo v : Nat) : (setRegFld s e row hi lo v).staged = s.staged := setCell_staged s e row 0 _
@[simp] theorem setRegFld_lan (e row hi lo v : Nat) : (setRegFld s e row hi lo v).lan = s.lan := setCell_lan s e row 0 _
@[simp] theorem setRegFld_hoops (e row hi lo v : Nat) : (setRegFld s e row hi lo v).hoops = s.hoops := setCell_hoops s e row 0 _
@[simp] theorem setRegFld_fab (e row hi lo v : Nat) : (setRegFld s e row hi lo v).fab = s.fab := setCell_fab s e row 0 _
@[simp] theorem setRegFld_rng (e row hi lo v : Nat) : (setRegFld s e row hi lo v).rng = s.rng := setCell_rng s e row 0 _
@[simp] theorem setRegFld_queues (e row hi lo v : Nat) : (setRegFld s e row hi lo v).queues = s.queues := setCell_queues s e row 0 _
@[simp] theorem setRegFld_ctxs (e row hi lo v : Nat) : (setRegFld s e row hi lo v).ctxs = s.ctxs := setCell_ctxs s e row 0 _
@[simp] theorem setRegFld_fences (e row hi lo v : Nat) : (setRegFld s e row hi lo v).fences = s.fences := setCell_fences s e row 0 _
@[simp] theorem setRegFld_waits (e row hi lo v : Nat) : (setRegFld s e row hi lo v).waits = s.waits := setCell_waits s e row 0 _
@[simp] theorem setRegFld_objs (e row hi lo v : Nat) : (setRegFld s e row hi lo v).objs = s.objs := setCell_objs s e row 0 _
@[simp] theorem setRegFld_allocQ (e row hi lo v : Nat) : (setRegFld s e row hi lo v).allocQ = s.allocQ := setCell_allocQ s e row 0 _
@[simp] theorem setRegFld_movers (e row hi lo v : Nat) : (setRegFld s e row hi lo v).movers = s.movers := setCell_movers s e row 0 _
@[simp] theorem setRegFld_moverQ (e row hi lo v : Nat) : (setRegFld s e row hi lo v).moverQ = s.moverQ := setCell_moverQ s e row 0 _
@[simp] theorem setRegFld_colls (e row hi lo v : Nat) : (setRegFld s e row hi lo v).colls = s.colls := setCell_colls s e row 0 _
@[simp] theorem setRegFld_slots (e row hi lo v : Nat) : (setRegFld s e row hi lo v).slots = s.slots := setCell_slots s e row 0 _
@[simp] theorem setRegFld_scrubs (e row hi lo v : Nat) : (setRegFld s e row hi lo v).scrubs = s.scrubs := setCell_scrubs s e row 0 _
@[simp] theorem setRegFld_floss (e row hi lo v : Nat) : (setRegFld s e row hi lo v).floss = s.floss := setCell_floss s e row 0 _
@[simp] theorem setRegFld_power (e row hi lo v : Nat) : (setRegFld s e row hi lo v).power = s.power := setCell_power s e row 0 _
@[simp] theorem setRegFld_snuffer (e row hi lo v : Nat) : (setRegFld s e row hi lo v).snuffer = s.snuffer := setCell_snuffer s e row 0 _
@[simp] theorem setRegFld_keeper (e row hi lo v : Nat) : (setRegFld s e row hi lo v).keeper = s.keeper := setCell_keeper s e row 0 _
@[simp] theorem setRegFld_tele (e row hi lo v : Nat) : (setRegFld s e row hi lo v).tele = s.tele := setCell_tele s e row 0 _
@[simp] theorem setRegFld_darner (e row hi lo v : Nat) : (setRegFld s e row hi lo v).darner = s.darner := setCell_darner s e row 0 _
@[simp] theorem setRegFld_server (e row hi lo v : Nat) : (setRegFld s e row hi lo v).server = s.server := setCell_server s e row 0 _
@[simp] theorem setRegFld_ports (e row hi lo v : Nat) : (setRegFld s e row hi lo v).ports = s.ports := setCell_ports s e row 0 _
@[simp] theorem setRegFld_vfs (e row hi lo v : Nat) : (setRegFld s e row hi lo v).vfs = s.vfs := setCell_vfs s e row 0 _
@[simp] theorem setRegFld_answer (e row hi lo v : Nat) : (setRegFld s e row hi lo v).answer = s.answer := setCell_answer s e row 0 _

/-! ### addCell -/

@[simp] theorem addCell_pending (e row w n : Nat) : (addCell s e row w n).pending = s.pending := setCell_pending s e row w _
@[simp] theorem addCell_free (e row w n : Nat) : (addCell s e row w n).free = s.free := setCell_free s e row w _
@[simp] theorem addCell_clk (e row w n : Nat) : (addCell s e row w n).clk = s.clk := setCell_clk s e row w _
@[simp] theorem addCell_mem (e row w n : Nat) : (addCell s e row w n).mem = s.mem := setCell_mem s e row w _
@[simp] theorem addCell_hostMem (e row w n : Nat) : (addCell s e row w n).hostMem = s.hostMem := setCell_hostMem s e row w _
@[simp] theorem addCell_hostPoison (e row w n : Nat) : (addCell s e row w n).hostPoison = s.hostPoison := setCell_hostPoison s e row w _
@[simp] theorem addCell_staged (e row w n : Nat) : (addCell s e row w n).staged = s.staged := setCell_staged s e row w _
@[simp] theorem addCell_lan (e row w n : Nat) : (addCell s e row w n).lan = s.lan := setCell_lan s e row w _
@[simp] theorem addCell_hoops (e row w n : Nat) : (addCell s e row w n).hoops = s.hoops := setCell_hoops s e row w _
@[simp] theorem addCell_fab (e row w n : Nat) : (addCell s e row w n).fab = s.fab := setCell_fab s e row w _
@[simp] theorem addCell_rng (e row w n : Nat) : (addCell s e row w n).rng = s.rng := setCell_rng s e row w _
@[simp] theorem addCell_queues (e row w n : Nat) : (addCell s e row w n).queues = s.queues := setCell_queues s e row w _
@[simp] theorem addCell_ctxs (e row w n : Nat) : (addCell s e row w n).ctxs = s.ctxs := setCell_ctxs s e row w _
@[simp] theorem addCell_fences (e row w n : Nat) : (addCell s e row w n).fences = s.fences := setCell_fences s e row w _
@[simp] theorem addCell_waits (e row w n : Nat) : (addCell s e row w n).waits = s.waits := setCell_waits s e row w _
@[simp] theorem addCell_objs (e row w n : Nat) : (addCell s e row w n).objs = s.objs := setCell_objs s e row w _
@[simp] theorem addCell_allocQ (e row w n : Nat) : (addCell s e row w n).allocQ = s.allocQ := setCell_allocQ s e row w _
@[simp] theorem addCell_movers (e row w n : Nat) : (addCell s e row w n).movers = s.movers := setCell_movers s e row w _
@[simp] theorem addCell_moverQ (e row w n : Nat) : (addCell s e row w n).moverQ = s.moverQ := setCell_moverQ s e row w _
@[simp] theorem addCell_colls (e row w n : Nat) : (addCell s e row w n).colls = s.colls := setCell_colls s e row w _
@[simp] theorem addCell_slots (e row w n : Nat) : (addCell s e row w n).slots = s.slots := setCell_slots s e row w _
@[simp] theorem addCell_scrubs (e row w n : Nat) : (addCell s e row w n).scrubs = s.scrubs := setCell_scrubs s e row w _
@[simp] theorem addCell_floss (e row w n : Nat) : (addCell s e row w n).floss = s.floss := setCell_floss s e row w _
@[simp] theorem addCell_power (e row w n : Nat) : (addCell s e row w n).power = s.power := setCell_power s e row w _
@[simp] theorem addCell_snuffer (e row w n : Nat) : (addCell s e row w n).snuffer = s.snuffer := setCell_snuffer s e row w _
@[simp] theorem addCell_keeper (e row w n : Nat) : (addCell s e row w n).keeper = s.keeper := setCell_keeper s e row w _
@[simp] theorem addCell_tele (e row w n : Nat) : (addCell s e row w n).tele = s.tele := setCell_tele s e row w _
@[simp] theorem addCell_darner (e row w n : Nat) : (addCell s e row w n).darner = s.darner := setCell_darner s e row w _
@[simp] theorem addCell_server (e row w n : Nat) : (addCell s e row w n).server = s.server := setCell_server s e row w _
@[simp] theorem addCell_ports (e row w n : Nat) : (addCell s e row w n).ports = s.ports := setCell_ports s e row w _
@[simp] theorem addCell_vfs (e row w n : Nat) : (addCell s e row w n).vfs = s.vfs := setCell_vfs s e row w _
@[simp] theorem addCell_answer (e row w n : Nat) : (addCell s e row w n).answer = s.answer := setCell_answer s e row w _

/-! ### bump -/

@[simp] theorem bump_pending (e row : Nat) : (bump s e row).pending = s.pending := addCell_pending s e row 0 1
@[simp] theorem bump_free (e row : Nat) : (bump s e row).free = s.free := addCell_free s e row 0 1
@[simp] theorem bump_clk (e row : Nat) : (bump s e row).clk = s.clk := addCell_clk s e row 0 1
@[simp] theorem bump_mem (e row : Nat) : (bump s e row).mem = s.mem := addCell_mem s e row 0 1
@[simp] theorem bump_hostMem (e row : Nat) : (bump s e row).hostMem = s.hostMem := addCell_hostMem s e row 0 1
@[simp] theorem bump_hostPoison (e row : Nat) : (bump s e row).hostPoison = s.hostPoison := addCell_hostPoison s e row 0 1
@[simp] theorem bump_staged (e row : Nat) : (bump s e row).staged = s.staged := addCell_staged s e row 0 1
@[simp] theorem bump_lan (e row : Nat) : (bump s e row).lan = s.lan := addCell_lan s e row 0 1
@[simp] theorem bump_hoops (e row : Nat) : (bump s e row).hoops = s.hoops := addCell_hoops s e row 0 1
@[simp] theorem bump_fab (e row : Nat) : (bump s e row).fab = s.fab := addCell_fab s e row 0 1
@[simp] theorem bump_rng (e row : Nat) : (bump s e row).rng = s.rng := addCell_rng s e row 0 1
@[simp] theorem bump_queues (e row : Nat) : (bump s e row).queues = s.queues := addCell_queues s e row 0 1
@[simp] theorem bump_ctxs (e row : Nat) : (bump s e row).ctxs = s.ctxs := addCell_ctxs s e row 0 1
@[simp] theorem bump_fences (e row : Nat) : (bump s e row).fences = s.fences := addCell_fences s e row 0 1
@[simp] theorem bump_waits (e row : Nat) : (bump s e row).waits = s.waits := addCell_waits s e row 0 1
@[simp] theorem bump_objs (e row : Nat) : (bump s e row).objs = s.objs := addCell_objs s e row 0 1
@[simp] theorem bump_allocQ (e row : Nat) : (bump s e row).allocQ = s.allocQ := addCell_allocQ s e row 0 1
@[simp] theorem bump_movers (e row : Nat) : (bump s e row).movers = s.movers := addCell_movers s e row 0 1
@[simp] theorem bump_moverQ (e row : Nat) : (bump s e row).moverQ = s.moverQ := addCell_moverQ s e row 0 1
@[simp] theorem bump_colls (e row : Nat) : (bump s e row).colls = s.colls := addCell_colls s e row 0 1
@[simp] theorem bump_slots (e row : Nat) : (bump s e row).slots = s.slots := addCell_slots s e row 0 1
@[simp] theorem bump_scrubs (e row : Nat) : (bump s e row).scrubs = s.scrubs := addCell_scrubs s e row 0 1
@[simp] theorem bump_floss (e row : Nat) : (bump s e row).floss = s.floss := addCell_floss s e row 0 1
@[simp] theorem bump_power (e row : Nat) : (bump s e row).power = s.power := addCell_power s e row 0 1
@[simp] theorem bump_snuffer (e row : Nat) : (bump s e row).snuffer = s.snuffer := addCell_snuffer s e row 0 1
@[simp] theorem bump_keeper (e row : Nat) : (bump s e row).keeper = s.keeper := addCell_keeper s e row 0 1
@[simp] theorem bump_tele (e row : Nat) : (bump s e row).tele = s.tele := addCell_tele s e row 0 1
@[simp] theorem bump_darner (e row : Nat) : (bump s e row).darner = s.darner := addCell_darner s e row 0 1
@[simp] theorem bump_server (e row : Nat) : (bump s e row).server = s.server := addCell_server s e row 0 1
@[simp] theorem bump_ports (e row : Nat) : (bump s e row).ports = s.ports := addCell_ports s e row 0 1
@[simp] theorem bump_vfs (e row : Nat) : (bump s e row).vfs = s.vfs := addCell_vfs s e row 0 1
@[simp] theorem bump_answer (e row : Nat) : (bump s e row).answer = s.answer := addCell_answer s e row 0 1

/-! ### setLantern -/

@[simp] theorem setLantern_pending (l : Nat) (x : Lantern) : (setLantern s l x).pending = s.pending := rfl
@[simp] theorem setLantern_free (l : Nat) (x : Lantern) : (setLantern s l x).free = s.free := rfl
@[simp] theorem setLantern_clk (l : Nat) (x : Lantern) : (setLantern s l x).clk = s.clk := rfl
@[simp] theorem setLantern_mem (l : Nat) (x : Lantern) : (setLantern s l x).mem = s.mem := rfl
@[simp] theorem setLantern_hostMem (l : Nat) (x : Lantern) : (setLantern s l x).hostMem = s.hostMem := rfl
@[simp] theorem setLantern_hostPoison (l : Nat) (x : Lantern) : (setLantern s l x).hostPoison = s.hostPoison := rfl
@[simp] theorem setLantern_regs (l : Nat) (x : Lantern) : (setLantern s l x).regs = s.regs := rfl
@[simp] theorem setLantern_staged (l : Nat) (x : Lantern) : (setLantern s l x).staged = s.staged := rfl
@[simp] theorem setLantern_lan (l : Nat) (x : Lantern) : (setLantern s l x).lan = tput s.lan l x := rfl
@[simp] theorem setLantern_hoops (l : Nat) (x : Lantern) : (setLantern s l x).hoops = s.hoops := rfl
@[simp] theorem setLantern_fab (l : Nat) (x : Lantern) : (setLantern s l x).fab = s.fab := rfl
@[simp] theorem setLantern_rng (l : Nat) (x : Lantern) : (setLantern s l x).rng = s.rng := rfl
@[simp] theorem setLantern_queues (l : Nat) (x : Lantern) : (setLantern s l x).queues = s.queues := rfl
@[simp] theorem setLantern_ctxs (l : Nat) (x : Lantern) : (setLantern s l x).ctxs = s.ctxs := rfl
@[simp] theorem setLantern_fences (l : Nat) (x : Lantern) : (setLantern s l x).fences = s.fences := rfl
@[simp] theorem setLantern_waits (l : Nat) (x : Lantern) : (setLantern s l x).waits = s.waits := rfl
@[simp] theorem setLantern_objs (l : Nat) (x : Lantern) : (setLantern s l x).objs = s.objs := rfl
@[simp] theorem setLantern_allocQ (l : Nat) (x : Lantern) : (setLantern s l x).allocQ = s.allocQ := rfl
@[simp] theorem setLantern_movers (l : Nat) (x : Lantern) : (setLantern s l x).movers = s.movers := rfl
@[simp] theorem setLantern_moverQ (l : Nat) (x : Lantern) : (setLantern s l x).moverQ = s.moverQ := rfl
@[simp] theorem setLantern_colls (l : Nat) (x : Lantern) : (setLantern s l x).colls = s.colls := rfl
@[simp] theorem setLantern_slots (l : Nat) (x : Lantern) : (setLantern s l x).slots = s.slots := rfl
@[simp] theorem setLantern_scrubs (l : Nat) (x : Lantern) : (setLantern s l x).scrubs = s.scrubs := rfl
@[simp] theorem setLantern_floss (l : Nat) (x : Lantern) : (setLantern s l x).floss = s.floss := rfl
@[simp] theorem setLantern_power (l : Nat) (x : Lantern) : (setLantern s l x).power = s.power := rfl
@[simp] theorem setLantern_snuffer (l : Nat) (x : Lantern) : (setLantern s l x).snuffer = s.snuffer := rfl
@[simp] theorem setLantern_keeper (l : Nat) (x : Lantern) : (setLantern s l x).keeper = s.keeper := rfl
@[simp] theorem setLantern_tele (l : Nat) (x : Lantern) : (setLantern s l x).tele = s.tele := rfl
@[simp] theorem setLantern_darner (l : Nat) (x : Lantern) : (setLantern s l x).darner = s.darner := rfl
@[simp] theorem setLantern_server (l : Nat) (x : Lantern) : (setLantern s l x).server = s.server := rfl
@[simp] theorem setLantern_ports (l : Nat) (x : Lantern) : (setLantern s l x).ports = s.ports := rfl
@[simp] theorem setLantern_vfs (l : Nat) (x : Lantern) : (setLantern s l x).vfs = s.vfs := rfl
@[simp] theorem setLantern_answer (l : Nat) (x : Lantern) : (setLantern s l x).answer = s.answer := rfl

/-! ### modLantern -/

@[simp] theorem modLantern_pending (l : Nat) (g : Lantern → Lantern) : (modLantern s l g).pending = s.pending := rfl
@[simp] theorem modLantern_free (l : Nat) (g : Lantern → Lantern) : (modLantern s l g).free = s.free := rfl
@[simp] theorem modLantern_clk (l : Nat) (g : Lantern → Lantern) : (modLantern s l g).clk = s.clk := rfl
@[simp] theorem modLantern_mem (l : Nat) (g : Lantern → Lantern) : (modLantern s l g).mem = s.mem := rfl
@[simp] theorem modLantern_hostMem (l : Nat) (g : Lantern → Lantern) : (modLantern s l g).hostMem = s.hostMem := rfl
@[simp] theorem modLantern_hostPoison (l : Nat) (g : Lantern → Lantern) : (modLantern s l g).hostPoison = s.hostPoison := rfl
@[simp] theorem modLantern_regs (l : Nat) (g : Lantern → Lantern) : (modLantern s l g).regs = s.regs := rfl
@[simp] theorem modLantern_staged (l : Nat) (g : Lantern → Lantern) : (modLantern s l g).staged = s.staged := rfl
@[simp] theorem modLantern_lan (l : Nat) (g : Lantern → Lantern) : (modLantern s l g).lan = tput s.lan l (g (lantern s l)) := rfl
@[simp] theorem modLantern_hoops (l : Nat) (g : Lantern → Lantern) : (modLantern s l g).hoops = s.hoops := rfl
@[simp] theorem modLantern_fab (l : Nat) (g : Lantern → Lantern) : (modLantern s l g).fab = s.fab := rfl
@[simp] theorem modLantern_rng (l : Nat) (g : Lantern → Lantern) : (modLantern s l g).rng = s.rng := rfl
@[simp] theorem modLantern_queues (l : Nat) (g : Lantern → Lantern) : (modLantern s l g).queues = s.queues := rfl
@[simp] theorem modLantern_ctxs (l : Nat) (g : Lantern → Lantern) : (modLantern s l g).ctxs = s.ctxs := rfl
@[simp] theorem modLantern_fences (l : Nat) (g : Lantern → Lantern) : (modLantern s l g).fences = s.fences := rfl
@[simp] theorem modLantern_waits (l : Nat) (g : Lantern → Lantern) : (modLantern s l g).waits = s.waits := rfl
@[simp] theorem modLantern_objs (l : Nat) (g : Lantern → Lantern) : (modLantern s l g).objs = s.objs := rfl
@[simp] theorem modLantern_allocQ (l : Nat) (g : Lantern → Lantern) : (modLantern s l g).allocQ = s.allocQ := rfl
@[simp] theorem modLantern_movers (l : Nat) (g : Lantern → Lantern) : (modLantern s l g).movers = s.movers := rfl
@[simp] theorem modLantern_moverQ (l : Nat) (g : Lantern → Lantern) : (modLantern s l g).moverQ = s.moverQ := rfl
@[simp] theorem modLantern_colls (l : Nat) (g : Lantern → Lantern) : (modLantern s l g).colls = s.colls := rfl
@[simp] theorem modLantern_slots (l : Nat) (g : Lantern → Lantern) : (modLantern s l g).slots = s.slots := rfl
@[simp] theorem modLantern_scrubs (l : Nat) (g : Lantern → Lantern) : (modLantern s l g).scrubs = s.scrubs := rfl
@[simp] theorem modLantern_floss (l : Nat) (g : Lantern → Lantern) : (modLantern s l g).floss = s.floss := rfl
@[simp] theorem modLantern_power (l : Nat) (g : Lantern → Lantern) : (modLantern s l g).power = s.power := rfl
@[simp] theorem modLantern_snuffer (l : Nat) (g : Lantern → Lantern) : (modLantern s l g).snuffer = s.snuffer := rfl
@[simp] theorem modLantern_keeper (l : Nat) (g : Lantern → Lantern) : (modLantern s l g).keeper = s.keeper := rfl
@[simp] theorem modLantern_tele (l : Nat) (g : Lantern → Lantern) : (modLantern s l g).tele = s.tele := rfl
@[simp] theorem modLantern_darner (l : Nat) (g : Lantern → Lantern) : (modLantern s l g).darner = s.darner := rfl
@[simp] theorem modLantern_server (l : Nat) (g : Lantern → Lantern) : (modLantern s l g).server = s.server := rfl
@[simp] theorem modLantern_ports (l : Nat) (g : Lantern → Lantern) : (modLantern s l g).ports = s.ports := rfl
@[simp] theorem modLantern_vfs (l : Nat) (g : Lantern → Lantern) : (modLantern s l g).vfs = s.vfs := rfl
@[simp] theorem modLantern_answer (l : Nat) (g : Lantern → Lantern) : (modLantern s l g).answer = s.answer := rfl

/-! ### setHoop -/

@[simp] theorem setHoop_pending (h : Nat) (x : Hoop) : (setHoop s h x).pending = s.pending := rfl
@[simp] theorem setHoop_free (h : Nat) (x : Hoop) : (setHoop s h x).free = s.free := rfl
@[simp] theorem setHoop_clk (h : Nat) (x : Hoop) : (setHoop s h x).clk = s.clk := rfl
@[simp] theorem setHoop_mem (h : Nat) (x : Hoop) : (setHoop s h x).mem = s.mem := rfl
@[simp] theorem setHoop_hostMem (h : Nat) (x : Hoop) : (setHoop s h x).hostMem = s.hostMem := rfl
@[simp] theorem setHoop_hostPoison (h : Nat) (x : Hoop) : (setHoop s h x).hostPoison = s.hostPoison := rfl
@[simp] theorem setHoop_regs (h : Nat) (x : Hoop) : (setHoop s h x).regs = s.regs := rfl
@[simp] theorem setHoop_staged (h : Nat) (x : Hoop) : (setHoop s h x).staged = s.staged := rfl
@[simp] theorem setHoop_lan (h : Nat) (x : Hoop) : (setHoop s h x).lan = s.lan := rfl
@[simp] theorem setHoop_hoops (h : Nat) (x : Hoop) : (setHoop s h x).hoops = tput s.hoops h x := rfl
@[simp] theorem setHoop_fab (h : Nat) (x : Hoop) : (setHoop s h x).fab = s.fab := rfl
@[simp] theorem setHoop_rng (h : Nat) (x : Hoop) : (setHoop s h x).rng = s.rng := rfl
@[simp] theorem setHoop_queues (h : Nat) (x : Hoop) : (setHoop s h x).queues = s.queues := rfl
@[simp] theorem setHoop_ctxs (h : Nat) (x : Hoop) : (setHoop s h x).ctxs = s.ctxs := rfl
@[simp] theorem setHoop_fences (h : Nat) (x : Hoop) : (setHoop s h x).fences = s.fences := rfl
@[simp] theorem setHoop_waits (h : Nat) (x : Hoop) : (setHoop s h x).waits = s.waits := rfl
@[simp] theorem setHoop_objs (h : Nat) (x : Hoop) : (setHoop s h x).objs = s.objs := rfl
@[simp] theorem setHoop_allocQ (h : Nat) (x : Hoop) : (setHoop s h x).allocQ = s.allocQ := rfl
@[simp] theorem setHoop_movers (h : Nat) (x : Hoop) : (setHoop s h x).movers = s.movers := rfl
@[simp] theorem setHoop_moverQ (h : Nat) (x : Hoop) : (setHoop s h x).moverQ = s.moverQ := rfl
@[simp] theorem setHoop_colls (h : Nat) (x : Hoop) : (setHoop s h x).colls = s.colls := rfl
@[simp] theorem setHoop_slots (h : Nat) (x : Hoop) : (setHoop s h x).slots = s.slots := rfl
@[simp] theorem setHoop_scrubs (h : Nat) (x : Hoop) : (setHoop s h x).scrubs = s.scrubs := rfl
@[simp] theorem setHoop_floss (h : Nat) (x : Hoop) : (setHoop s h x).floss = s.floss := rfl
@[simp] theorem setHoop_power (h : Nat) (x : Hoop) : (setHoop s h x).power = s.power := rfl
@[simp] theorem setHoop_snuffer (h : Nat) (x : Hoop) : (setHoop s h x).snuffer = s.snuffer := rfl
@[simp] theorem setHoop_keeper (h : Nat) (x : Hoop) : (setHoop s h x).keeper = s.keeper := rfl
@[simp] theorem setHoop_tele (h : Nat) (x : Hoop) : (setHoop s h x).tele = s.tele := rfl
@[simp] theorem setHoop_darner (h : Nat) (x : Hoop) : (setHoop s h x).darner = s.darner := rfl
@[simp] theorem setHoop_server (h : Nat) (x : Hoop) : (setHoop s h x).server = s.server := rfl
@[simp] theorem setHoop_ports (h : Nat) (x : Hoop) : (setHoop s h x).ports = s.ports := rfl
@[simp] theorem setHoop_vfs (h : Nat) (x : Hoop) : (setHoop s h x).vfs = s.vfs := rfl
@[simp] theorem setHoop_answer (h : Nat) (x : Hoop) : (setHoop s h x).answer = s.answer := rfl

/-! ### modHoop -/

@[simp] theorem modHoop_pending (h : Nat) (g : Hoop → Hoop) : (modHoop s h g).pending = s.pending := rfl
@[simp] theorem modHoop_free (h : Nat) (g : Hoop → Hoop) : (modHoop s h g).free = s.free := rfl
@[simp] theorem modHoop_clk (h : Nat) (g : Hoop → Hoop) : (modHoop s h g).clk = s.clk := rfl
@[simp] theorem modHoop_mem (h : Nat) (g : Hoop → Hoop) : (modHoop s h g).mem = s.mem := rfl
@[simp] theorem modHoop_hostMem (h : Nat) (g : Hoop → Hoop) : (modHoop s h g).hostMem = s.hostMem := rfl
@[simp] theorem modHoop_hostPoison (h : Nat) (g : Hoop → Hoop) : (modHoop s h g).hostPoison = s.hostPoison := rfl
@[simp] theorem modHoop_regs (h : Nat) (g : Hoop → Hoop) : (modHoop s h g).regs = s.regs := rfl
@[simp] theorem modHoop_staged (h : Nat) (g : Hoop → Hoop) : (modHoop s h g).staged = s.staged := rfl
@[simp] theorem modHoop_lan (h : Nat) (g : Hoop → Hoop) : (modHoop s h g).lan = s.lan := rfl
@[simp] theorem modHoop_hoops (h : Nat) (g : Hoop → Hoop) : (modHoop s h g).hoops = tput s.hoops h (g (hoop s h)) := rfl
@[simp] theorem modHoop_fab (h : Nat) (g : Hoop → Hoop) : (modHoop s h g).fab = s.fab := rfl
@[simp] theorem modHoop_rng (h : Nat) (g : Hoop → Hoop) : (modHoop s h g).rng = s.rng := rfl
@[simp] theorem modHoop_queues (h : Nat) (g : Hoop → Hoop) : (modHoop s h g).queues = s.queues := rfl
@[simp] theorem modHoop_ctxs (h : Nat) (g : Hoop → Hoop) : (modHoop s h g).ctxs = s.ctxs := rfl
@[simp] theorem modHoop_fences (h : Nat) (g : Hoop → Hoop) : (modHoop s h g).fences = s.fences := rfl
@[simp] theorem modHoop_waits (h : Nat) (g : Hoop → Hoop) : (modHoop s h g).waits = s.waits := rfl
@[simp] theorem modHoop_objs (h : Nat) (g : Hoop → Hoop) : (modHoop s h g).objs = s.objs := rfl
@[simp] theorem modHoop_allocQ (h : Nat) (g : Hoop → Hoop) : (modHoop s h g).allocQ = s.allocQ := rfl
@[simp] theorem modHoop_movers (h : Nat) (g : Hoop → Hoop) : (modHoop s h g).movers = s.movers := rfl
@[simp] theorem modHoop_moverQ (h : Nat) (g : Hoop → Hoop) : (modHoop s h g).moverQ = s.moverQ := rfl
@[simp] theorem modHoop_colls (h : Nat) (g : Hoop → Hoop) : (modHoop s h g).colls = s.colls := rfl
@[simp] theorem modHoop_slots (h : Nat) (g : Hoop → Hoop) : (modHoop s h g).slots = s.slots := rfl
@[simp] theorem modHoop_scrubs (h : Nat) (g : Hoop → Hoop) : (modHoop s h g).scrubs = s.scrubs := rfl
@[simp] theorem modHoop_floss (h : Nat) (g : Hoop → Hoop) : (modHoop s h g).floss = s.floss := rfl
@[simp] theorem modHoop_power (h : Nat) (g : Hoop → Hoop) : (modHoop s h g).power = s.power := rfl
@[simp] theorem modHoop_snuffer (h : Nat) (g : Hoop → Hoop) : (modHoop s h g).snuffer = s.snuffer := rfl
@[simp] theorem modHoop_keeper (h : Nat) (g : Hoop → Hoop) : (modHoop s h g).keeper = s.keeper := rfl
@[simp] theorem modHoop_tele (h : Nat) (g : Hoop → Hoop) : (modHoop s h g).tele = s.tele := rfl
@[simp] theorem modHoop_darner (h : Nat) (g : Hoop → Hoop) : (modHoop s h g).darner = s.darner := rfl
@[simp] theorem modHoop_server (h : Nat) (g : Hoop → Hoop) : (modHoop s h g).server = s.server := rfl
@[simp] theorem modHoop_ports (h : Nat) (g : Hoop → Hoop) : (modHoop s h g).ports = s.ports := rfl
@[simp] theorem modHoop_vfs (h : Nat) (g : Hoop → Hoop) : (modHoop s h g).vfs = s.vfs := rfl
@[simp] theorem modHoop_answer (h : Nat) (g : Hoop → Hoop) : (modHoop s h g).answer = s.answer := rfl

/-! ### setQueue -/

@[simp] theorem setQueue_pending (q : Nat) (x : Queue) : (setQueue s q x).pending = s.pending := rfl
@[simp] theorem setQueue_free (q : Nat) (x : Queue) : (setQueue s q x).free = s.free := rfl
@[simp] theorem setQueue_clk (q : Nat) (x : Queue) : (setQueue s q x).clk = s.clk := rfl
@[simp] theorem setQueue_mem (q : Nat) (x : Queue) : (setQueue s q x).mem = s.mem := rfl
@[simp] theorem setQueue_hostMem (q : Nat) (x : Queue) : (setQueue s q x).hostMem = s.hostMem := rfl
@[simp] theorem setQueue_hostPoison (q : Nat) (x : Queue) : (setQueue s q x).hostPoison = s.hostPoison := rfl
@[simp] theorem setQueue_regs (q : Nat) (x : Queue) : (setQueue s q x).regs = s.regs := rfl
@[simp] theorem setQueue_staged (q : Nat) (x : Queue) : (setQueue s q x).staged = s.staged := rfl
@[simp] theorem setQueue_lan (q : Nat) (x : Queue) : (setQueue s q x).lan = s.lan := rfl
@[simp] theorem setQueue_hoops (q : Nat) (x : Queue) : (setQueue s q x).hoops = s.hoops := rfl
@[simp] theorem setQueue_fab (q : Nat) (x : Queue) : (setQueue s q x).fab = s.fab := rfl
@[simp] theorem setQueue_rng (q : Nat) (x : Queue) : (setQueue s q x).rng = s.rng := rfl
@[simp] theorem setQueue_queues (q : Nat) (x : Queue) : (setQueue s q x).queues = tput s.queues q x := rfl
@[simp] theorem setQueue_ctxs (q : Nat) (x : Queue) : (setQueue s q x).ctxs = s.ctxs := rfl
@[simp] theorem setQueue_fences (q : Nat) (x : Queue) : (setQueue s q x).fences = s.fences := rfl
@[simp] theorem setQueue_waits (q : Nat) (x : Queue) : (setQueue s q x).waits = s.waits := rfl
@[simp] theorem setQueue_objs (q : Nat) (x : Queue) : (setQueue s q x).objs = s.objs := rfl
@[simp] theorem setQueue_allocQ (q : Nat) (x : Queue) : (setQueue s q x).allocQ = s.allocQ := rfl
@[simp] theorem setQueue_movers (q : Nat) (x : Queue) : (setQueue s q x).movers = s.movers := rfl
@[simp] theorem setQueue_moverQ (q : Nat) (x : Queue) : (setQueue s q x).moverQ = s.moverQ := rfl
@[simp] theorem setQueue_colls (q : Nat) (x : Queue) : (setQueue s q x).colls = s.colls := rfl
@[simp] theorem setQueue_slots (q : Nat) (x : Queue) : (setQueue s q x).slots = s.slots := rfl
@[simp] theorem setQueue_scrubs (q : Nat) (x : Queue) : (setQueue s q x).scrubs = s.scrubs := rfl
@[simp] theorem setQueue_floss (q : Nat) (x : Queue) : (setQueue s q x).floss = s.floss := rfl
@[simp] theorem setQueue_power (q : Nat) (x : Queue) : (setQueue s q x).power = s.power := rfl
@[simp] theorem setQueue_snuffer (q : Nat) (x : Queue) : (setQueue s q x).snuffer = s.snuffer := rfl
@[simp] theorem setQueue_keeper (q : Nat) (x : Queue) : (setQueue s q x).keeper = s.keeper := rfl
@[simp] theorem setQueue_tele (q : Nat) (x : Queue) : (setQueue s q x).tele = s.tele := rfl
@[simp] theorem setQueue_darner (q : Nat) (x : Queue) : (setQueue s q x).darner = s.darner := rfl
@[simp] theorem setQueue_server (q : Nat) (x : Queue) : (setQueue s q x).server = s.server := rfl
@[simp] theorem setQueue_ports (q : Nat) (x : Queue) : (setQueue s q x).ports = s.ports := rfl
@[simp] theorem setQueue_vfs (q : Nat) (x : Queue) : (setQueue s q x).vfs = s.vfs := rfl
@[simp] theorem setQueue_answer (q : Nat) (x : Queue) : (setQueue s q x).answer = s.answer := rfl

/-! ### modQueue -/

@[simp] theorem modQueue_pending (q : Nat) (g : Queue → Queue) : (modQueue s q g).pending = s.pending := rfl
@[simp] theorem modQueue_free (q : Nat) (g : Queue → Queue) : (modQueue s q g).free = s.free := rfl
@[simp] theorem modQueue_clk (q : Nat) (g : Queue → Queue) : (modQueue s q g).clk = s.clk := rfl
@[simp] theorem modQueue_mem (q : Nat) (g : Queue → Queue) : (modQueue s q g).mem = s.mem := rfl
@[simp] theorem modQueue_hostMem (q : Nat) (g : Queue → Queue) : (modQueue s q g).hostMem = s.hostMem := rfl
@[simp] theorem modQueue_hostPoison (q : Nat) (g : Queue → Queue) : (modQueue s q g).hostPoison = s.hostPoison := rfl
@[simp] theorem modQueue_regs (q : Nat) (g : Queue → Queue) : (modQueue s q g).regs = s.regs := rfl
@[simp] theorem modQueue_staged (q : Nat) (g : Queue → Queue) : (modQueue s q g).staged = s.staged := rfl
@[simp] theorem modQueue_lan (q : Nat) (g : Queue → Queue) : (modQueue s q g).lan = s.lan := rfl
@[simp] theorem modQueue_hoops (q : Nat) (g : Queue → Queue) : (modQueue s q g).hoops = s.hoops := rfl
@[simp] theorem modQueue_fab (q : Nat) (g : Queue → Queue) : (modQueue s q g).fab = s.fab := rfl
@[simp] theorem modQueue_rng (q : Nat) (g : Queue → Queue) : (modQueue s q g).rng = s.rng := rfl
@[simp] theorem modQueue_queues (q : Nat) (g : Queue → Queue) : (modQueue s q g).queues = tput s.queues q (g (queue s q)) := rfl
@[simp] theorem modQueue_ctxs (q : Nat) (g : Queue → Queue) : (modQueue s q g).ctxs = s.ctxs := rfl
@[simp] theorem modQueue_fences (q : Nat) (g : Queue → Queue) : (modQueue s q g).fences = s.fences := rfl
@[simp] theorem modQueue_waits (q : Nat) (g : Queue → Queue) : (modQueue s q g).waits = s.waits := rfl
@[simp] theorem modQueue_objs (q : Nat) (g : Queue → Queue) : (modQueue s q g).objs = s.objs := rfl
@[simp] theorem modQueue_allocQ (q : Nat) (g : Queue → Queue) : (modQueue s q g).allocQ = s.allocQ := rfl
@[simp] theorem modQueue_movers (q : Nat) (g : Queue → Queue) : (modQueue s q g).movers = s.movers := rfl
@[simp] theorem modQueue_moverQ (q : Nat) (g : Queue → Queue) : (modQueue s q g).moverQ = s.moverQ := rfl
@[simp] theorem modQueue_colls (q : Nat) (g : Queue → Queue) : (modQueue s q g).colls = s.colls := rfl
@[simp] theorem modQueue_slots (q : Nat) (g : Queue → Queue) : (modQueue s q g).slots = s.slots := rfl
@[simp] theorem modQueue_scrubs (q : Nat) (g : Queue → Queue) : (modQueue s q g).scrubs = s.scrubs := rfl
@[simp] theorem modQueue_floss (q : Nat) (g : Queue → Queue) : (modQueue s q g).floss = s.floss := rfl
@[simp] theorem modQueue_power (q : Nat) (g : Queue → Queue) : (modQueue s q g).power = s.power := rfl
@[simp] theorem modQueue_snuffer (q : Nat) (g : Queue → Queue) : (modQueue s q g).snuffer = s.snuffer := rfl
@[simp] theorem modQueue_keeper (q : Nat) (g : Queue → Queue) : (modQueue s q g).keeper = s.keeper := rfl
@[simp] theorem modQueue_tele (q : Nat) (g : Queue → Queue) : (modQueue s q g).tele = s.tele := rfl
@[simp] theorem modQueue_darner (q : Nat) (g : Queue → Queue) : (modQueue s q g).darner = s.darner := rfl
@[simp] theorem modQueue_server (q : Nat) (g : Queue → Queue) : (modQueue s q g).server = s.server := rfl
@[simp] theorem modQueue_ports (q : Nat) (g : Queue → Queue) : (modQueue s q g).ports = s.ports := rfl
@[simp] theorem modQueue_vfs (q : Nat) (g : Queue → Queue) : (modQueue s q g).vfs = s.vfs := rfl
@[simp] theorem modQueue_answer (q : Nat) (g : Queue → Queue) : (modQueue s q g).answer = s.answer := rfl

/-! ### setContext -/

@[simp] theorem setContext_pending (c : Nat) (x : Context) : (setContext s c x).pending = s.pending := rfl
@[simp] theorem setContext_free (c : Nat) (x : Context) : (setContext s c x).free = s.free := rfl
@[simp] theorem setContext_clk (c : Nat) (x : Context) : (setContext s c x).clk = s.clk := rfl
@[simp] theorem setContext_mem (c : Nat) (x : Context) : (setContext s c x).mem = s.mem := rfl
@[simp] theorem setContext_hostMem (c : Nat) (x : Context) : (setContext s c x).hostMem = s.hostMem := rfl
@[simp] theorem setContext_hostPoison (c : Nat) (x : Context) : (setContext s c x).hostPoison = s.hostPoison := rfl
@[simp] theorem setContext_regs (c : Nat) (x : Context) : (setContext s c x).regs = s.regs := rfl
@[simp] theorem setContext_staged (c : Nat) (x : Context) : (setContext s c x).staged = s.staged := rfl
@[simp] theorem setContext_lan (c : Nat) (x : Context) : (setContext s c x).lan = s.lan := rfl
@[simp] theorem setContext_hoops (c : Nat) (x : Context) : (setContext s c x).hoops = s.hoops := rfl
@[simp] theorem setContext_fab (c : Nat) (x : Context) : (setContext s c x).fab = s.fab := rfl
@[simp] theorem setContext_rng (c : Nat) (x : Context) : (setContext s c x).rng = s.rng := rfl
@[simp] theorem setContext_queues (c : Nat) (x : Context) : (setContext s c x).queues = s.queues := rfl
@[simp] theorem setContext_ctxs (c : Nat) (x : Context) : (setContext s c x).ctxs = tput s.ctxs c x := rfl
@[simp] theorem setContext_fences (c : Nat) (x : Context) : (setContext s c x).fences = s.fences := rfl
@[simp] theorem setContext_waits (c : Nat) (x : Context) : (setContext s c x).waits = s.waits := rfl
@[simp] theorem setContext_objs (c : Nat) (x : Context) : (setContext s c x).objs = s.objs := rfl
@[simp] theorem setContext_allocQ (c : Nat) (x : Context) : (setContext s c x).allocQ = s.allocQ := rfl
@[simp] theorem setContext_movers (c : Nat) (x : Context) : (setContext s c x).movers = s.movers := rfl
@[simp] theorem setContext_moverQ (c : Nat) (x : Context) : (setContext s c x).moverQ = s.moverQ := rfl
@[simp] theorem setContext_colls (c : Nat) (x : Context) : (setContext s c x).colls = s.colls := rfl
@[simp] theorem setContext_slots (c : Nat) (x : Context) : (setContext s c x).slots = s.slots := rfl
@[simp] theorem setContext_scrubs (c : Nat) (x : Context) : (setContext s c x).scrubs = s.scrubs := rfl
@[simp] theorem setContext_floss (c : Nat) (x : Context) : (setContext s c x).floss = s.floss := rfl
@[simp] theorem setContext_power (c : Nat) (x : Context) : (setContext s c x).power = s.power := rfl
@[simp] theorem setContext_snuffer (c : Nat) (x : Context) : (setContext s c x).snuffer = s.snuffer := rfl
@[simp] theorem setContext_keeper (c : Nat) (x : Context) : (setContext s c x).keeper = s.keeper := rfl
@[simp] theorem setContext_tele (c : Nat) (x : Context) : (setContext s c x).tele = s.tele := rfl
@[simp] theorem setContext_darner (c : Nat) (x : Context) : (setContext s c x).darner = s.darner := rfl
@[simp] theorem setContext_server (c : Nat) (x : Context) : (setContext s c x).server = s.server := rfl
@[simp] theorem setContext_ports (c : Nat) (x : Context) : (setContext s c x).ports = s.ports := rfl
@[simp] theorem setContext_vfs (c : Nat) (x : Context) : (setContext s c x).vfs = s.vfs := rfl
@[simp] theorem setContext_answer (c : Nat) (x : Context) : (setContext s c x).answer = s.answer := rfl

/-! ### modContext -/

@[simp] theorem modContext_pending (c : Nat) (g : Context → Context) : (modContext s c g).pending = s.pending := rfl
@[simp] theorem modContext_free (c : Nat) (g : Context → Context) : (modContext s c g).free = s.free := rfl
@[simp] theorem modContext_clk (c : Nat) (g : Context → Context) : (modContext s c g).clk = s.clk := rfl
@[simp] theorem modContext_mem (c : Nat) (g : Context → Context) : (modContext s c g).mem = s.mem := rfl
@[simp] theorem modContext_hostMem (c : Nat) (g : Context → Context) : (modContext s c g).hostMem = s.hostMem := rfl
@[simp] theorem modContext_hostPoison (c : Nat) (g : Context → Context) : (modContext s c g).hostPoison = s.hostPoison := rfl
@[simp] theorem modContext_regs (c : Nat) (g : Context → Context) : (modContext s c g).regs = s.regs := rfl
@[simp] theorem modContext_staged (c : Nat) (g : Context → Context) : (modContext s c g).staged = s.staged := rfl
@[simp] theorem modContext_lan (c : Nat) (g : Context → Context) : (modContext s c g).lan = s.lan := rfl
@[simp] theorem modContext_hoops (c : Nat) (g : Context → Context) : (modContext s c g).hoops = s.hoops := rfl
@[simp] theorem modContext_fab (c : Nat) (g : Context → Context) : (modContext s c g).fab = s.fab := rfl
@[simp] theorem modContext_rng (c : Nat) (g : Context → Context) : (modContext s c g).rng = s.rng := rfl
@[simp] theorem modContext_queues (c : Nat) (g : Context → Context) : (modContext s c g).queues = s.queues := rfl
@[simp] theorem modContext_ctxs (c : Nat) (g : Context → Context) : (modContext s c g).ctxs = tput s.ctxs c (g (context s c)) := rfl
@[simp] theorem modContext_fences (c : Nat) (g : Context → Context) : (modContext s c g).fences = s.fences := rfl
@[simp] theorem modContext_waits (c : Nat) (g : Context → Context) : (modContext s c g).waits = s.waits := rfl
@[simp] theorem modContext_objs (c : Nat) (g : Context → Context) : (modContext s c g).objs = s.objs := rfl
@[simp] theorem modContext_allocQ (c : Nat) (g : Context → Context) : (modContext s c g).allocQ = s.allocQ := rfl
@[simp] theorem modContext_movers (c : Nat) (g : Context → Context) : (modContext s c g).movers = s.movers := rfl
@[simp] theorem modContext_moverQ (c : Nat) (g : Context → Context) : (modContext s c g).moverQ = s.moverQ := rfl
@[simp] theorem modContext_colls (c : Nat) (g : Context → Context) : (modContext s c g).colls = s.colls := rfl
@[simp] theorem modContext_slots (c : Nat) (g : Context → Context) : (modContext s c g).slots = s.slots := rfl
@[simp] theorem modContext_scrubs (c : Nat) (g : Context → Context) : (modContext s c g).scrubs = s.scrubs := rfl
@[simp] theorem modContext_floss (c : Nat) (g : Context → Context) : (modContext s c g).floss = s.floss := rfl
@[simp] theorem modContext_power (c : Nat) (g : Context → Context) : (modContext s c g).power = s.power := rfl
@[simp] theorem modContext_snuffer (c : Nat) (g : Context → Context) : (modContext s c g).snuffer = s.snuffer := rfl
@[simp] theorem modContext_keeper (c : Nat) (g : Context → Context) : (modContext s c g).keeper = s.keeper := rfl
@[simp] theorem modContext_tele (c : Nat) (g : Context → Context) : (modContext s c g).tele = s.tele := rfl
@[simp] theorem modContext_darner (c : Nat) (g : Context → Context) : (modContext s c g).darner = s.darner := rfl
@[simp] theorem modContext_server (c : Nat) (g : Context → Context) : (modContext s c g).server = s.server := rfl
@[simp] theorem modContext_ports (c : Nat) (g : Context → Context) : (modContext s c g).ports = s.ports := rfl
@[simp] theorem modContext_vfs (c : Nat) (g : Context → Context) : (modContext s c g).vfs = s.vfs := rfl
@[simp] theorem modContext_answer (c : Nat) (g : Context → Context) : (modContext s c g).answer = s.answer := rfl

/-! ### setFence -/

@[simp] theorem setFence_pending (f : Nat) (x : Fence) : (setFence s f x).pending = s.pending := rfl
@[simp] theorem setFence_free (f : Nat) (x : Fence) : (setFence s f x).free = s.free := rfl
@[simp] theorem setFence_clk (f : Nat) (x : Fence) : (setFence s f x).clk = s.clk := rfl
@[simp] theorem setFence_mem (f : Nat) (x : Fence) : (setFence s f x).mem = s.mem := rfl
@[simp] theorem setFence_hostMem (f : Nat) (x : Fence) : (setFence s f x).hostMem = s.hostMem := rfl
@[simp] theorem setFence_hostPoison (f : Nat) (x : Fence) : (setFence s f x).hostPoison = s.hostPoison := rfl
@[simp] theorem setFence_regs (f : Nat) (x : Fence) : (setFence s f x).regs = s.regs := rfl
@[simp] theorem setFence_staged (f : Nat) (x : Fence) : (setFence s f x).staged = s.staged := rfl
@[simp] theorem setFence_lan (f : Nat) (x : Fence) : (setFence s f x).lan = s.lan := rfl
@[simp] theorem setFence_hoops (f : Nat) (x : Fence) : (setFence s f x).hoops = s.hoops := rfl
@[simp] theorem setFence_fab (f : Nat) (x : Fence) : (setFence s f x).fab = s.fab := rfl
@[simp] theorem setFence_rng (f : Nat) (x : Fence) : (setFence s f x).rng = s.rng := rfl
@[simp] theorem setFence_queues (f : Nat) (x : Fence) : (setFence s f x).queues = s.queues := rfl
@[simp] theorem setFence_ctxs (f : Nat) (x : Fence) : (setFence s f x).ctxs = s.ctxs := rfl
@[simp] theorem setFence_fences (f : Nat) (x : Fence) : (setFence s f x).fences = tput s.fences f x := rfl
@[simp] theorem setFence_waits (f : Nat) (x : Fence) : (setFence s f x).waits = s.waits := rfl
@[simp] theorem setFence_objs (f : Nat) (x : Fence) : (setFence s f x).objs = s.objs := rfl
@[simp] theorem setFence_allocQ (f : Nat) (x : Fence) : (setFence s f x).allocQ = s.allocQ := rfl
@[simp] theorem setFence_movers (f : Nat) (x : Fence) : (setFence s f x).movers = s.movers := rfl
@[simp] theorem setFence_moverQ (f : Nat) (x : Fence) : (setFence s f x).moverQ = s.moverQ := rfl
@[simp] theorem setFence_colls (f : Nat) (x : Fence) : (setFence s f x).colls = s.colls := rfl
@[simp] theorem setFence_slots (f : Nat) (x : Fence) : (setFence s f x).slots = s.slots := rfl
@[simp] theorem setFence_scrubs (f : Nat) (x : Fence) : (setFence s f x).scrubs = s.scrubs := rfl
@[simp] theorem setFence_floss (f : Nat) (x : Fence) : (setFence s f x).floss = s.floss := rfl
@[simp] theorem setFence_power (f : Nat) (x : Fence) : (setFence s f x).power = s.power := rfl
@[simp] theorem setFence_snuffer (f : Nat) (x : Fence) : (setFence s f x).snuffer = s.snuffer := rfl
@[simp] theorem setFence_keeper (f : Nat) (x : Fence) : (setFence s f x).keeper = s.keeper := rfl
@[simp] theorem setFence_tele (f : Nat) (x : Fence) : (setFence s f x).tele = s.tele := rfl
@[simp] theorem setFence_darner (f : Nat) (x : Fence) : (setFence s f x).darner = s.darner := rfl
@[simp] theorem setFence_server (f : Nat) (x : Fence) : (setFence s f x).server = s.server := rfl
@[simp] theorem setFence_ports (f : Nat) (x : Fence) : (setFence s f x).ports = s.ports := rfl
@[simp] theorem setFence_vfs (f : Nat) (x : Fence) : (setFence s f x).vfs = s.vfs := rfl
@[simp] theorem setFence_answer (f : Nat) (x : Fence) : (setFence s f x).answer = s.answer := rfl

/-! ### setObj -/

@[simp] theorem setObj_pending (o : Nat) (x : Obj) : (setObj s o x).pending = s.pending := rfl
@[simp] theorem setObj_free (o : Nat) (x : Obj) : (setObj s o x).free = s.free := rfl
@[simp] theorem setObj_clk (o : Nat) (x : Obj) : (setObj s o x).clk = s.clk := rfl
@[simp] theorem setObj_mem (o : Nat) (x : Obj) : (setObj s o x).mem = s.mem := rfl
@[simp] theorem setObj_hostMem (o : Nat) (x : Obj) : (setObj s o x).hostMem = s.hostMem := rfl
@[simp] theorem setObj_hostPoison (o : Nat) (x : Obj) : (setObj s o x).hostPoison = s.hostPoison := rfl
@[simp] theorem setObj_regs (o : Nat) (x : Obj) : (setObj s o x).regs = s.regs := rfl
@[simp] theorem setObj_staged (o : Nat) (x : Obj) : (setObj s o x).staged = s.staged := rfl
@[simp] theorem setObj_lan (o : Nat) (x : Obj) : (setObj s o x).lan = s.lan := rfl
@[simp] theorem setObj_hoops (o : Nat) (x : Obj) : (setObj s o x).hoops = s.hoops := rfl
@[simp] theorem setObj_fab (o : Nat) (x : Obj) : (setObj s o x).fab = s.fab := rfl
@[simp] theorem setObj_rng (o : Nat) (x : Obj) : (setObj s o x).rng = s.rng := rfl
@[simp] theorem setObj_queues (o : Nat) (x : Obj) : (setObj s o x).queues = s.queues := rfl
@[simp] theorem setObj_ctxs (o : Nat) (x : Obj) : (setObj s o x).ctxs = s.ctxs := rfl
@[simp] theorem setObj_fences (o : Nat) (x : Obj) : (setObj s o x).fences = s.fences := rfl
@[simp] theorem setObj_waits (o : Nat) (x : Obj) : (setObj s o x).waits = s.waits := rfl
@[simp] theorem setObj_objs (o : Nat) (x : Obj) : (setObj s o x).objs = tput s.objs o x := rfl
@[simp] theorem setObj_allocQ (o : Nat) (x : Obj) : (setObj s o x).allocQ = s.allocQ := rfl
@[simp] theorem setObj_movers (o : Nat) (x : Obj) : (setObj s o x).movers = s.movers := rfl
@[simp] theorem setObj_moverQ (o : Nat) (x : Obj) : (setObj s o x).moverQ = s.moverQ := rfl
@[simp] theorem setObj_colls (o : Nat) (x : Obj) : (setObj s o x).colls = s.colls := rfl
@[simp] theorem setObj_slots (o : Nat) (x : Obj) : (setObj s o x).slots = s.slots := rfl
@[simp] theorem setObj_scrubs (o : Nat) (x : Obj) : (setObj s o x).scrubs = s.scrubs := rfl
@[simp] theorem setObj_floss (o : Nat) (x : Obj) : (setObj s o x).floss = s.floss := rfl
@[simp] theorem setObj_power (o : Nat) (x : Obj) : (setObj s o x).power = s.power := rfl
@[simp] theorem setObj_snuffer (o : Nat) (x : Obj) : (setObj s o x).snuffer = s.snuffer := rfl
@[simp] theorem setObj_keeper (o : Nat) (x : Obj) : (setObj s o x).keeper = s.keeper := rfl
@[simp] theorem setObj_tele (o : Nat) (x : Obj) : (setObj s o x).tele = s.tele := rfl
@[simp] theorem setObj_darner (o : Nat) (x : Obj) : (setObj s o x).darner = s.darner := rfl
@[simp] theorem setObj_server (o : Nat) (x : Obj) : (setObj s o x).server = s.server := rfl
@[simp] theorem setObj_ports (o : Nat) (x : Obj) : (setObj s o x).ports = s.ports := rfl
@[simp] theorem setObj_vfs (o : Nat) (x : Obj) : (setObj s o x).vfs = s.vfs := rfl
@[simp] theorem setObj_answer (o : Nat) (x : Obj) : (setObj s o x).answer = s.answer := rfl

/-! ### modEyelet -/

@[simp] theorem modEyelet_pending (e : Nat) (g : Eyelet → Eyelet) : (modEyelet s e g).pending = s.pending := rfl
@[simp] theorem modEyelet_free (e : Nat) (g : Eyelet → Eyelet) : (modEyelet s e g).free = s.free := rfl
@[simp] theorem modEyelet_clk (e : Nat) (g : Eyelet → Eyelet) : (modEyelet s e g).clk = s.clk := rfl
@[simp] theorem modEyelet_mem (e : Nat) (g : Eyelet → Eyelet) : (modEyelet s e g).mem = s.mem := rfl
@[simp] theorem modEyelet_hostMem (e : Nat) (g : Eyelet → Eyelet) : (modEyelet s e g).hostMem = s.hostMem := rfl
@[simp] theorem modEyelet_hostPoison (e : Nat) (g : Eyelet → Eyelet) : (modEyelet s e g).hostPoison = s.hostPoison := rfl
@[simp] theorem modEyelet_regs (e : Nat) (g : Eyelet → Eyelet) : (modEyelet s e g).regs = s.regs := rfl
@[simp] theorem modEyelet_staged (e : Nat) (g : Eyelet → Eyelet) : (modEyelet s e g).staged = s.staged := rfl
@[simp] theorem modEyelet_lan (e : Nat) (g : Eyelet → Eyelet) : (modEyelet s e g).lan = s.lan := rfl
@[simp] theorem modEyelet_hoops (e : Nat) (g : Eyelet → Eyelet) : (modEyelet s e g).hoops = s.hoops := rfl
@[simp] theorem modEyelet_fab (e : Nat) (g : Eyelet → Eyelet) : (modEyelet s e g).fab = { s.fab with eyes := s.fab.eyes.set e (g (eyelet s e)) } := rfl
@[simp] theorem modEyelet_rng (e : Nat) (g : Eyelet → Eyelet) : (modEyelet s e g).rng = s.rng := rfl
@[simp] theorem modEyelet_queues (e : Nat) (g : Eyelet → Eyelet) : (modEyelet s e g).queues = s.queues := rfl
@[simp] theorem modEyelet_ctxs (e : Nat) (g : Eyelet → Eyelet) : (modEyelet s e g).ctxs = s.ctxs := rfl
@[simp] theorem modEyelet_fences (e : Nat) (g : Eyelet → Eyelet) : (modEyelet s e g).fences = s.fences := rfl
@[simp] theorem modEyelet_waits (e : Nat) (g : Eyelet → Eyelet) : (modEyelet s e g).waits = s.waits := rfl
@[simp] theorem modEyelet_objs (e : Nat) (g : Eyelet → Eyelet) : (modEyelet s e g).objs = s.objs := rfl
@[simp] theorem modEyelet_allocQ (e : Nat) (g : Eyelet → Eyelet) : (modEyelet s e g).allocQ = s.allocQ := rfl
@[simp] theorem modEyelet_movers (e : Nat) (g : Eyelet → Eyelet) : (modEyelet s e g).movers = s.movers := rfl
@[simp] theorem modEyelet_moverQ (e : Nat) (g : Eyelet → Eyelet) : (modEyelet s e g).moverQ = s.moverQ := rfl
@[simp] theorem modEyelet_colls (e : Nat) (g : Eyelet → Eyelet) : (modEyelet s e g).colls = s.colls := rfl
@[simp] theorem modEyelet_slots (e : Nat) (g : Eyelet → Eyelet) : (modEyelet s e g).slots = s.slots := rfl
@[simp] theorem modEyelet_scrubs (e : Nat) (g : Eyelet → Eyelet) : (modEyelet s e g).scrubs = s.scrubs := rfl
@[simp] theorem modEyelet_floss (e : Nat) (g : Eyelet → Eyelet) : (modEyelet s e g).floss = s.floss := rfl
@[simp] theorem modEyelet_power (e : Nat) (g : Eyelet → Eyelet) : (modEyelet s e g).power = s.power := rfl
@[simp] theorem modEyelet_snuffer (e : Nat) (g : Eyelet → Eyelet) : (modEyelet s e g).snuffer = s.snuffer := rfl
@[simp] theorem modEyelet_keeper (e : Nat) (g : Eyelet → Eyelet) : (modEyelet s e g).keeper = s.keeper := rfl
@[simp] theorem modEyelet_tele (e : Nat) (g : Eyelet → Eyelet) : (modEyelet s e g).tele = s.tele := rfl
@[simp] theorem modEyelet_darner (e : Nat) (g : Eyelet → Eyelet) : (modEyelet s e g).darner = s.darner := rfl
@[simp] theorem modEyelet_server (e : Nat) (g : Eyelet → Eyelet) : (modEyelet s e g).server = s.server := rfl
@[simp] theorem modEyelet_ports (e : Nat) (g : Eyelet → Eyelet) : (modEyelet s e g).ports = s.ports := rfl
@[simp] theorem modEyelet_vfs (e : Nat) (g : Eyelet → Eyelet) : (modEyelet s e g).vfs = s.vfs := rfl
@[simp] theorem modEyelet_answer (e : Nat) (g : Eyelet → Eyelet) : (modEyelet s e g).answer = s.answer := rfl

/-! ### modPort -/

@[simp] theorem modPort_pending (p : Nat) (g : Port → Port) : (modPort s p g).pending = s.pending := rfl
@[simp] theorem modPort_free (p : Nat) (g : Port → Port) : (modPort s p g).free = s.free := rfl
@[simp] theorem modPort_clk (p : Nat) (g : Port → Port) : (modPort s p g).clk = s.clk := rfl
@[simp] theorem modPort_mem (p : Nat) (g : Port → Port) : (modPort s p g).mem = s.mem := rfl
@[simp] theorem modPort_hostMem (p : Nat) (g : Port → Port) : (modPort s p g).hostMem = s.hostMem := rfl
@[simp] theorem modPort_hostPoison (p : Nat) (g : Port → Port) : (modPort s p g).hostPoison = s.hostPoison := rfl
@[simp] theorem modPort_regs (p : Nat) (g : Port → Port) : (modPort s p g).regs = s.regs := rfl
@[simp] theorem modPort_staged (p : Nat) (g : Port → Port) : (modPort s p g).staged = s.staged := rfl
@[simp] theorem modPort_lan (p : Nat) (g : Port → Port) : (modPort s p g).lan = s.lan := rfl
@[simp] theorem modPort_hoops (p : Nat) (g : Port → Port) : (modPort s p g).hoops = s.hoops := rfl
@[simp] theorem modPort_fab (p : Nat) (g : Port → Port) : (modPort s p g).fab = s.fab := rfl
@[simp] theorem modPort_rng (p : Nat) (g : Port → Port) : (modPort s p g).rng = s.rng := rfl
@[simp] theorem modPort_queues (p : Nat) (g : Port → Port) : (modPort s p g).queues = s.queues := rfl
@[simp] theorem modPort_ctxs (p : Nat) (g : Port → Port) : (modPort s p g).ctxs = s.ctxs := rfl
@[simp] theorem modPort_fences (p : Nat) (g : Port → Port) : (modPort s p g).fences = s.fences := rfl
@[simp] theorem modPort_waits (p : Nat) (g : Port → Port) : (modPort s p g).waits = s.waits := rfl
@[simp] theorem modPort_objs (p : Nat) (g : Port → Port) : (modPort s p g).objs = s.objs := rfl
@[simp] theorem modPort_allocQ (p : Nat) (g : Port → Port) : (modPort s p g).allocQ = s.allocQ := rfl
@[simp] theorem modPort_movers (p : Nat) (g : Port → Port) : (modPort s p g).movers = s.movers := rfl
@[simp] theorem modPort_moverQ (p : Nat) (g : Port → Port) : (modPort s p g).moverQ = s.moverQ := rfl
@[simp] theorem modPort_colls (p : Nat) (g : Port → Port) : (modPort s p g).colls = s.colls := rfl
@[simp] theorem modPort_slots (p : Nat) (g : Port → Port) : (modPort s p g).slots = s.slots := rfl
@[simp] theorem modPort_scrubs (p : Nat) (g : Port → Port) : (modPort s p g).scrubs = s.scrubs := rfl
@[simp] theorem modPort_floss (p : Nat) (g : Port → Port) : (modPort s p g).floss = s.floss := rfl
@[simp] theorem modPort_power (p : Nat) (g : Port → Port) : (modPort s p g).power = s.power := rfl
@[simp] theorem modPort_snuffer (p : Nat) (g : Port → Port) : (modPort s p g).snuffer = s.snuffer := rfl
@[simp] theorem modPort_keeper (p : Nat) (g : Port → Port) : (modPort s p g).keeper = s.keeper := rfl
@[simp] theorem modPort_tele (p : Nat) (g : Port → Port) : (modPort s p g).tele = s.tele := rfl
@[simp] theorem modPort_darner (p : Nat) (g : Port → Port) : (modPort s p g).darner = s.darner := rfl
@[simp] theorem modPort_server (p : Nat) (g : Port → Port) : (modPort s p g).server = s.server := rfl
@[simp] theorem modPort_ports (p : Nat) (g : Port → Port) : (modPort s p g).ports = s.ports.set p (g (port s p)) := rfl
@[simp] theorem modPort_vfs (p : Nat) (g : Port → Port) : (modPort s p g).vfs = s.vfs := rfl
@[simp] theorem modPort_answer (p : Nat) (g : Port → Port) : (modPort s p g).answer = s.answer := rfl

/-! ### modVf -/

@[simp] theorem modVf_pending (n : Nat) (g : Vf → Vf) : (modVf s n g).pending = s.pending := rfl
@[simp] theorem modVf_free (n : Nat) (g : Vf → Vf) : (modVf s n g).free = s.free := rfl
@[simp] theorem modVf_clk (n : Nat) (g : Vf → Vf) : (modVf s n g).clk = s.clk := rfl
@[simp] theorem modVf_mem (n : Nat) (g : Vf → Vf) : (modVf s n g).mem = s.mem := rfl
@[simp] theorem modVf_hostMem (n : Nat) (g : Vf → Vf) : (modVf s n g).hostMem = s.hostMem := rfl
@[simp] theorem modVf_hostPoison (n : Nat) (g : Vf → Vf) : (modVf s n g).hostPoison = s.hostPoison := rfl
@[simp] theorem modVf_regs (n : Nat) (g : Vf → Vf) : (modVf s n g).regs = s.regs := rfl
@[simp] theorem modVf_staged (n : Nat) (g : Vf → Vf) : (modVf s n g).staged = s.staged := rfl
@[simp] theorem modVf_lan (n : Nat) (g : Vf → Vf) : (modVf s n g).lan = s.lan := rfl
@[simp] theorem modVf_hoops (n : Nat) (g : Vf → Vf) : (modVf s n g).hoops = s.hoops := rfl
@[simp] theorem modVf_fab (n : Nat) (g : Vf → Vf) : (modVf s n g).fab = s.fab := rfl
@[simp] theorem modVf_rng (n : Nat) (g : Vf → Vf) : (modVf s n g).rng = s.rng := rfl
@[simp] theorem modVf_queues (n : Nat) (g : Vf → Vf) : (modVf s n g).queues = s.queues := rfl
@[simp] theorem modVf_ctxs (n : Nat) (g : Vf → Vf) : (modVf s n g).ctxs = s.ctxs := rfl
@[simp] theorem modVf_fences (n : Nat) (g : Vf → Vf) : (modVf s n g).fences = s.fences := rfl
@[simp] theorem modVf_waits (n : Nat) (g : Vf → Vf) : (modVf s n g).waits = s.waits := rfl
@[simp] theorem modVf_objs (n : Nat) (g : Vf → Vf) : (modVf s n g).objs = s.objs := rfl
@[simp] theorem modVf_allocQ (n : Nat) (g : Vf → Vf) : (modVf s n g).allocQ = s.allocQ := rfl
@[simp] theorem modVf_movers (n : Nat) (g : Vf → Vf) : (modVf s n g).movers = s.movers := rfl
@[simp] theorem modVf_moverQ (n : Nat) (g : Vf → Vf) : (modVf s n g).moverQ = s.moverQ := rfl
@[simp] theorem modVf_colls (n : Nat) (g : Vf → Vf) : (modVf s n g).colls = s.colls := rfl
@[simp] theorem modVf_slots (n : Nat) (g : Vf → Vf) : (modVf s n g).slots = s.slots := rfl
@[simp] theorem modVf_scrubs (n : Nat) (g : Vf → Vf) : (modVf s n g).scrubs = s.scrubs := rfl
@[simp] theorem modVf_floss (n : Nat) (g : Vf → Vf) : (modVf s n g).floss = s.floss := rfl
@[simp] theorem modVf_power (n : Nat) (g : Vf → Vf) : (modVf s n g).power = s.power := rfl
@[simp] theorem modVf_snuffer (n : Nat) (g : Vf → Vf) : (modVf s n g).snuffer = s.snuffer := rfl
@[simp] theorem modVf_keeper (n : Nat) (g : Vf → Vf) : (modVf s n g).keeper = s.keeper := rfl
@[simp] theorem modVf_tele (n : Nat) (g : Vf → Vf) : (modVf s n g).tele = s.tele := rfl
@[simp] theorem modVf_darner (n : Nat) (g : Vf → Vf) : (modVf s n g).darner = s.darner := rfl
@[simp] theorem modVf_server (n : Nat) (g : Vf → Vf) : (modVf s n g).server = s.server := rfl
@[simp] theorem modVf_ports (n : Nat) (g : Vf → Vf) : (modVf s n g).ports = s.ports := rfl
@[simp] theorem modVf_vfs (n : Nat) (g : Vf → Vf) : (modVf s n g).vfs = tput s.vfs n (g (vf s n)) := rfl
@[simp] theorem modVf_answer (n : Nat) (g : Vf → Vf) : (modVf s n g).answer = s.answer := rfl

/-! ### reply -/

@[simp] theorem reply_pending (d : List Byte) (b : Bool) (n : Nat) : (reply s d b n).pending = s.pending := rfl
@[simp] theorem reply_free (d : List Byte) (b : Bool) (n : Nat) : (reply s d b n).free = s.free := rfl
@[simp] theorem reply_clk (d : List Byte) (b : Bool) (n : Nat) : (reply s d b n).clk = s.clk := rfl
@[simp] theorem reply_mem (d : List Byte) (b : Bool) (n : Nat) : (reply s d b n).mem = s.mem := rfl
@[simp] theorem reply_hostMem (d : List Byte) (b : Bool) (n : Nat) : (reply s d b n).hostMem = s.hostMem := rfl
@[simp] theorem reply_hostPoison (d : List Byte) (b : Bool) (n : Nat) : (reply s d b n).hostPoison = s.hostPoison := rfl
@[simp] theorem reply_regs (d : List Byte) (b : Bool) (n : Nat) : (reply s d b n).regs = s.regs := rfl
@[simp] theorem reply_staged (d : List Byte) (b : Bool) (n : Nat) : (reply s d b n).staged = s.staged := rfl
@[simp] theorem reply_lan (d : List Byte) (b : Bool) (n : Nat) : (reply s d b n).lan = s.lan := rfl
@[simp] theorem reply_hoops (d : List Byte) (b : Bool) (n : Nat) : (reply s d b n).hoops = s.hoops := rfl
@[simp] theorem reply_fab (d : List Byte) (b : Bool) (n : Nat) : (reply s d b n).fab = s.fab := rfl
@[simp] theorem reply_rng (d : List Byte) (b : Bool) (n : Nat) : (reply s d b n).rng = s.rng := rfl
@[simp] theorem reply_queues (d : List Byte) (b : Bool) (n : Nat) : (reply s d b n).queues = s.queues := rfl
@[simp] theorem reply_ctxs (d : List Byte) (b : Bool) (n : Nat) : (reply s d b n).ctxs = s.ctxs := rfl
@[simp] theorem reply_fences (d : List Byte) (b : Bool) (n : Nat) : (reply s d b n).fences = s.fences := rfl
@[simp] theorem reply_waits (d : List Byte) (b : Bool) (n : Nat) : (reply s d b n).waits = s.waits := rfl
@[simp] theorem reply_objs (d : List Byte) (b : Bool) (n : Nat) : (reply s d b n).objs = s.objs := rfl
@[simp] theorem reply_allocQ (d : List Byte) (b : Bool) (n : Nat) : (reply s d b n).allocQ = s.allocQ := rfl
@[simp] theorem reply_movers (d : List Byte) (b : Bool) (n : Nat) : (reply s d b n).movers = s.movers := rfl
@[simp] theorem reply_moverQ (d : List Byte) (b : Bool) (n : Nat) : (reply s d b n).moverQ = s.moverQ := rfl
@[simp] theorem reply_colls (d : List Byte) (b : Bool) (n : Nat) : (reply s d b n).colls = s.colls := rfl
@[simp] theorem reply_slots (d : List Byte) (b : Bool) (n : Nat) : (reply s d b n).slots = s.slots := rfl
@[simp] theorem reply_scrubs (d : List Byte) (b : Bool) (n : Nat) : (reply s d b n).scrubs = s.scrubs := rfl
@[simp] theorem reply_floss (d : List Byte) (b : Bool) (n : Nat) : (reply s d b n).floss = s.floss := rfl
@[simp] theorem reply_power (d : List Byte) (b : Bool) (n : Nat) : (reply s d b n).power = s.power := rfl
@[simp] theorem reply_snuffer (d : List Byte) (b : Bool) (n : Nat) : (reply s d b n).snuffer = s.snuffer := rfl
@[simp] theorem reply_keeper (d : List Byte) (b : Bool) (n : Nat) : (reply s d b n).keeper = s.keeper := rfl
@[simp] theorem reply_tele (d : List Byte) (b : Bool) (n : Nat) : (reply s d b n).tele = s.tele := rfl
@[simp] theorem reply_darner (d : List Byte) (b : Bool) (n : Nat) : (reply s d b n).darner = s.darner := rfl
@[simp] theorem reply_server (d : List Byte) (b : Bool) (n : Nat) : (reply s d b n).server = s.server := rfl
@[simp] theorem reply_ports (d : List Byte) (b : Bool) (n : Nat) : (reply s d b n).ports = s.ports := rfl
@[simp] theorem reply_vfs (d : List Byte) (b : Bool) (n : Nat) : (reply s d b n).vfs = s.vfs := rfl
@[simp] theorem reply_answer (d : List Byte) (b : Bool) (n : Nat) : (reply s d b n).answer = { data := d, poison := b, status := n } := rfl

/-! ### Records -/

@[simp] theorem lantern_setLantern_same (k : Nat) (x : Lantern) : lantern (setLantern s k x) k = x := by simp [lantern, tget_tput_same]
theorem lantern_setLantern_other (k j : Nat) (x : Lantern) (h : j ≠ k) : lantern (setLantern s k x) j = lantern s j := by simp [lantern, tget_tput_other, h]
@[simp] theorem lantern_modLantern_same (k : Nat) (g : Lantern → Lantern) : lantern (modLantern s k g) k = g (lantern s k) := lantern_setLantern_same s k _
theorem lantern_modLantern_other (k j : Nat) (g : Lantern → Lantern) (h : j ≠ k) : lantern (modLantern s k g) j = lantern s j := lantern_setLantern_other s k j _ h
@[simp] theorem hoop_setHoop_same (k : Nat) (x : Hoop) : hoop (setHoop s k x) k = x := by simp [hoop, tget_tput_same]
theorem hoop_setHoop_other (k j : Nat) (x : Hoop) (h : j ≠ k) : hoop (setHoop s k x) j = hoop s j := by simp [hoop, tget_tput_other, h]
@[simp] theorem hoop_modHoop_same (k : Nat) (g : Hoop → Hoop) : hoop (modHoop s k g) k = g (hoop s k) := hoop_setHoop_same s k _
theorem hoop_modHoop_other (k j : Nat) (g : Hoop → Hoop) (h : j ≠ k) : hoop (modHoop s k g) j = hoop s j := hoop_setHoop_other s k j _ h
@[simp] theorem queue_setQueue_same (k : Nat) (x : Queue) : queue (setQueue s k x) k = x := by simp [queue, tget_tput_same]
theorem queue_setQueue_other (k j : Nat) (x : Queue) (h : j ≠ k) : queue (setQueue s k x) j = queue s j := by simp [queue, tget_tput_other, h]
@[simp] theorem queue_modQueue_same (k : Nat) (g : Queue → Queue) : queue (modQueue s k g) k = g (queue s k) := queue_setQueue_same s k _
theorem queue_modQueue_other (k j : Nat) (g : Queue → Queue) (h : j ≠ k) : queue (modQueue s k g) j = queue s j := queue_setQueue_other s k j _ h
@[simp] theorem context_setContext_same (k : Nat) (x : Context) : context (setContext s k x) k = x := by simp [context, tget_tput_same]
theorem context_setContext_other (k j : Nat) (x : Context) (h : j ≠ k) : context (setContext s k x) j = context s j := by simp [context, tget_tput_other, h]
@[simp] theorem context_modContext_same (k : Nat) (g : Context → Context) : context (modContext s k g) k = g (context s k) := context_setContext_same s k _
theorem context_modContext_other (k j : Nat) (g : Context → Context) (h : j ≠ k) : context (modContext s k g) j = context s j := context_setContext_other s k j _ h
@[simp] theorem fence_setFence_same (k : Nat) (x : Fence) : fence (setFence s k x) k = x := by simp [fence, tget_tput_same]
theorem fence_setFence_other (k j : Nat) (x : Fence) (h : j ≠ k) : fence (setFence s k x) j = fence s j := by simp [fence, tget_tput_other, h]
@[simp] theorem obj_setObj_same (k : Nat) (x : Obj) : obj (setObj s k x) k = x := by simp [obj, tget_tput_same]
theorem obj_setObj_other (k j : Nat) (x : Obj) (h : j ≠ k) : obj (setObj s k x) j = obj s j := by simp [obj, tget_tput_other, h]
@[simp] theorem vf_modVf_same (k : Nat) (g : Vf → Vf) : vf (modVf s k g) k = g (vf s k) := by simp [vf, tget_tput_same]
theorem vf_modVf_other (k j : Nat) (g : Vf → Vf) (h : j ≠ k) : vf (modVf s k g) j = vf s j := by simp [vf, tget_tput_other, h]

end Sys2Proof.Machine
end

