-- ==== Sys2Proof/Tests/Slice0.lean ====
section
/-! SUPPORT. Tests of single steps on small states, ill-formed commands for each check of WellFormed, and for each statement with
hypotheses states and operands that meet them. -/

namespace Sys2Proof.Tests

open Sys2Proof Sys2Proof.Machine Sys2Proof.Safety

-- The proofs of this file one after the other: many at once need more memory than the check has.
set_option Elab.async false

/-! ### Small states -/

/-- After reset, with every PLL running. -/
def run0 : State := { State.reset with clk := { State.reset.clk with pll := [.running, .running, .running, .running] } }
/-- `run0` with lantern 0 (an M-lantern) in a power state. -/
def lanIn (p : Power) : State := setLantern run0 0 { Lantern.reset 0 with power := p }
/-- `run0` in safe state. -/
def safe0 : State := { run0 with snuffer := { run0.snuffer with safe := true } }
/-- `run0` at wick time `n`. -/
def at_ (n : Nat) (s : State) : State := { s with clk := { s.clk with wick := n } }
/-- A word of a field `v` with low bit `n`. -/
def at2 (v n : Nat) : Word := wd (v * 2 ^ n)
/-- Queue 0 of context 1, hoop 1, with one entry in flight, its first word of type `ty`. -/
def flightIn (s : State) (ty : Nat) (ph : Phase) (desc : List Word) (t : Option Stitch) : State :=
  setQueue s 0 { queueFree with row := [wd (2 ^ 49 + 2 ^ 39)], flights := [{ entry := 0, words := [at2 ty 56, 0, 0, 0, 0, 0, 0, 0], desc := desc, phase := ph, status := .ok, origin := 0, detail := 0, start := 0, doneAt := 0, stitch := t, aux := 0, waitOn := [], wrote := [] }] }
/-- A strand of one op. -/
def strand1 (kind : Nat) (op : List Word) : Strand :=
  { kind := kind, slot := 0, ops := 1, off := 0, entryVa := 0, first := [op], started := true, finished := false }
/-- A stitch of one strand. -/
def stitch1 (kind : Nat) (op : List Word) : Stitch :=
  { va := 0, variant := 0, widthM := 1, widthV := 0, widthS := 0, det := false, round := 0, sat := 0, floss := 0, seed := 0, strands := [strand1 kind op] }
/-- The only strand of the entry in flight, in position 0. -/
def running1 : Running :=
  { ref := { queue := 0, entry := 0, idx := 0 }, ctx := 1, pos := 0, row := 0, begun := false, pois := false, bad := [], busy := [], waitOp := none, waiting := false, status := .ok, ended := false, since := 0 }
/-- Lantern `l` awake with a strand of one op. -/
def strandIn (l kind : Nat) (op : List Word) : State :=
  setLantern (flightIn (setContext run0 1 { ctxFree with hoop := 1 }) 1 .running [] (some (stitch1 kind op))) l { Lantern.reset l with power := .awake, cur := some running1 }
/-- An op of opcode `c` whose other words are 0. -/
def opOf (c : Nat) : List Word := [at2 c 56, 0, 0, 0, 0, 0, 0, 0]
/-- S-lantern 128 with a strand, its core 0 at address 0 with that line in its cache, and x1, x2. -/
def coreIn (a b : Word) : State :=
  modLantern (strandIn 128 2 []) 128 (fun x => { x with cores := [{ coreOff with on := true, il1 := [(1, 0, 0, 64)], x := [0, a, b] ++ List.replicate 29 0 }] })
/-- Addresses 0 to 0xFFFFF of hoop 1, address space 0, translated in lookaside `lk` to the quarter store of quarter 0. -/
def mapped (lk : Nat) (s : State) : State :=
  { s with rng := { s.rng with look := [{ lk := lk, hoop := 1, aspace := 0, row := 0, start := 0, len := 0x100000, target := 0xC000000000, rd := true, wr := true, atomic := true, countAt := none }] } }
/-- Bytes of the quarter store of quarter 0, from its start. -/
def stored (xs : List (Nat × Byte)) (s : State) : State := { s with mem := { s.mem with cells := xs.map (fun p => (0xC000000000 + p.1, p.2)) } }
/-- Hoop 1 with M-lantern 0, context 1 resident and live, queue 0 ACTIVE. -/
def hoop1 (s : State) : State :=
  setHoop { s with regs := [(cellKey 0x800003 1 0, at2 1 60), (cellKey 0x900012 0 0, at2 1 60)] } 1 { hoopFree with desc := [0, 1] ++ List.replicate 20 0 }
/-- `opens` as a check. -/
def opensB (s : State) (who : Req) (e : Nat) : Bool := !writeClosed s who e && decide (s.power.sleep ≠ 2)
theorem opensB_iff (s : State) (who : Req) (e : Nat) : opensB s who e = true ↔ opens s who e := by simp [opensB, opens]

theorem witness_AccumulatorsCombine : -(2 ^ 639) ≤ accZero.a ∧ accZero.a < 2 ^ 639 := by
  have h : (0 : Int) < 2 ^ 639 := by positivity
  show -(2 ^ 639) ≤ (0 : Int) ∧ (0 : Int) < 2 ^ 639
  generalize (2 : Int) ^ 639 = k at *
  omega
theorem witness_AccumulatorsCombine_edge (l : LongAcc) (h : l.a = 2 ^ 639 - 1) : -(2 ^ 639) ≤ l.a ∧ l.a < 2 ^ 639 := by
  have h0 : (0 : Int) < 2 ^ 639 := by positivity
  rw [h]
  generalize (2 : Int) ^ 639 = k at *
  omega
theorem witness_SumDoesNotDependOnOrder : (∀ x ∈ [Machine.Num.fin false 3 1, .nan], ∀ (neg : Bool) (n d : Nat), x = .fin neg n d →
    n * 2 ^ 320 / d < 2 ^ 639) ∧ [Machine.Num.fin false 3 1, .nan].Perm [.nan, .fin false 3 1] := by
  refine ⟨?_, List.Perm.swap _ _ _⟩
  intro x hx neg n d h
  simp at hx
  rcases hx with rfl | rfl
  · injection h with h1 h2 h3; subst h2 h3
    rw [Nat.div_one]
    calc 3 * 2 ^ 320 < 2 ^ 2 * 2 ^ 320 := Nat.mul_lt_mul_of_pos_right (by norm_num) (by positivity)
      _ = 2 ^ 322 := by rw [← pow_add]
      _ ≤ 2 ^ 639 := Nat.pow_le_pow_right (by norm_num) (by norm_num)
  · cases h
theorem witness_ElementCodesRoundTrip : Fmt.e4m3 ∈ [Fmt.e4m3, .e5m2, .e3m2, .e2m3, .e2m1, .mxint8, .int8, .int4] ∧
    126 < 2 ^ fmtBits .e4m3 ∧ numIsNan (decodeElem .e4m3 126) = false ∧ numIsNan (decodeElem .e2m1 15) = false := by decide
theorem witness_QuarterStoreAccesses : (3 < 4 ∧ 0x4000000 - 8 + 8 ≤ 0x4000000 ∧ pll run0 3 = .running) ∧
    run0.snuffer.safe = false := by decide
theorem witness_StoreWriteReadsBack : 3 < 4 ∧ 128 + (List.replicate 128 (1 : Byte)).length ≤ 0x4000000 ∧ pll run0 3 = .running ∧
    List.replicate 128 (1 : Byte) ≠ [] := ⟨by decide, by simp, by decide, by simp⟩
theorem witness_StoreWriteBytes : 0 < 4 ∧ 0x4000000 - 1 + ([1] : List Byte).length ≤ 0x4000000 ∧ pll run0 0 = .running := by decide
theorem witness_StoppedQuarterHolds : State.reset.clk.pll.length = 4 ∧ pll State.reset 3 = .stopped ∧
    pll State.reset (bobQuarter 11) = .stopped ∧ 0xFC0000000 - 4 + 4 ≤ 0xFC0000000 ∧ pll (setPll State.reset 2 .starting) 2 = .starting := by decide
theorem witness_ClocksAdvance : run0.power.started = true ∧ pll run0 1 = .running ∧ quarterBusy run0 1 = false ∧
    quarterBusy (lanIn .awake) 0 = true := by decide
theorem witness_LanternWakesAndGates : (lantern (lanIn (.waking true)) 0).power = .waking true ∧
    (lantern (lanIn (.waking false)) 0).power = .waking false ∧ (lantern (lanIn .awake) 0).power = .awake ∧
    lanternIdle (lanIn .awake) 0 = true ∧ lanternHoop (lanIn .awake) 0 = none ∧ pll run0 (lanQuarter 0) = .running := by decide
theorem witness_ColdWakeClears : (lantern (lanIn (.waking true)) 0).power = .waking true ∧ (lanIn (.waking true)).clk.held = [] ∧
    (lanIn (.waking true)).snuffer.safe = false := by decide
theorem witness_BobbinAccesses : 11 < 12 ∧ 0xFC0000000 - 512 + 512 ≤ 0xFC0000000 ∧ (0xFC0000000 - 512) % 512 = 0 ∧
    pll run0 (bobQuarter 11) = .running ∧ 508 % 512 + ([1, 2, 3, 4] : List Byte).length ≤ 512 := by decide
theorem witness_WholeBlockWriteSeals : pll run0 (bobQuarter 0) = .running ∧ run0.darner.remaps = [] ∧ run0.darner.queue = [] ∧
    run0.darner.retired = [] ∧ run0.mem.corruptNext = [] ∧ run0.mem.merges = [] := by decide
theorem witness_WindowAccesses : run0.power.sleep ≠ 2 ∧ bar4Ok run0 (.pf 0) (bar4Base run0 (.pf 0)) 8 = true ∧
    bar4Ok run0 (.vf 3) (bar4Base run0 (.vf 3)) 8 = false ∧ isManager (.pf 1) = true ∧ lanOk 0 = true ∧
    scratchSize (lanKind 0) - 8 + 8 ≤ scratchSize (lanKind 0) ∧ lanternResetting (lanIn .awake) 0 = false := by decide
theorem witness_ScratchWriteBytes : isManager .mgmt = true ∧ lanOk 0 = true ∧ 0 < scratchSize (lanKind 0) ∧
    lanternResetting (lanIn .awake) 0 = false ∧ pll (lanIn .awake) (lanQuarter 0) = .running ∧ (lantern (lanIn .awake) 0).power = .awake := by decide
/-- After reset, in backup step 6, every PLL stopped. -/
def backup6 : State := { State.reset with power := { State.reset.power with backup := true, backupStep := 6 } }
theorem witness_StoppedQuarterHolds_backup : backupDrowse State.reset = false ∧ State.reset.snuffer.safe = false ∧
    pll backup6 3 = .stopped ∧ backupDrowse backup6 = true ∧ imageHolds State.reset (11 * 0x1000000000) 4 = false := by decide
/-- `run0` with a write of part of a block of bobbin 11 that waits to be merged. -/
def merging1 : State := { run0 with mem := { run0.mem with merges := [{ addr := 11 * 0x1000000000 + 64, data := [1], poison := false }] } }
theorem witness_BobbinAccesses_merge : merging1.snuffer.safe = false ∧ merging1.mem.merges = [] ++ { addr := 11 * 0x1000000000 + 64, data := [1], poison := false } :: [] ∧
    (11 * 0x1000000000 + 64) / 0x1000000000 = 11 ∧ remapping merging1 (11 * 0x1000000000 + 64) = false ∧
    remapping { merging1 with darner := { merging1.darner with queue := [{ b := 11, granule := 11 * 0x1000000000, place := 0, held := [] }] } } (11 * 0x1000000000 + 64) = true ∧
    safe0.snuffer.safe = true ∧ imageHolds run0 (11 * 0x1000000000 + 64) 1 = false := by decide
/-- Hoop 1, live with M-lantern 0. -/
def window0 (s : State) : State := setHoop { s with regs := [(cellKey 0x800003 1 0, at2 1 60), (cellKey 0x300003 1 0, at2 1 60)] } 1 { hoopFree with desc := [0, 1] ++ List.replicate 20 0 }
theorem bar4_size (who : Req) (n : Nat) (h : n ≤ 2 ^ 30) : n ≤ bar4Size who :=
  Nat.le_trans h (Nat.pow_le_pow_right (by norm_num) (Nat.le_add_right ..))
theorem witness_WindowAccesses_bar4 : 0x1000 + 8 ≤ bar4Size (.pf 0) ∧ bar4Size (.pf 0) < 2 ^ 40 + 8 := by
  refine ⟨bar4_size _ _ (by norm_num), ?_⟩
  have h : bar4Size (.pf 0) ≤ 2 ^ 40 := Nat.pow_le_pow_right (by norm_num) (by omega)
  omega
set_option maxRecDepth 100000 in
theorem witness_WindowAccesses_bar4_ready : (∃ t, localReady run0 (bar4Who run0 (.pf 0)) (bar4Base run0 (.pf 0) + 0) 8 false false = .ok () t ∧
      writeHeldAt t (.pf 0) (addrQuarter (bar4Base run0 (.pf 0) + 0)) = false ∧ imageMeets t (bar4Base run0 (.pf 0) + 0) 8 = false) ∧
    (∃ t, localReady run0 (bar4Who run0 (.pf 0)) (bar4Base run0 (.pf 0) + 0) 8 true false = .ok () t) ∧
    imageMeets (setContext (window0 run0) 1 { ctxFree with hoop := 1, image := some 0 }) (bar4Base run0 (.pf 0) + 0) 8 = true :=
  ⟨⟨_, rfl, by decide, by decide⟩, ⟨_, rfl⟩, by decide⟩
set_option maxRecDepth 100000 in
theorem witness_WindowAccesses_scratch : (lanternHoop (window0 (lanIn .awake)) 0).isSome = true ∧ lanternHoop run0 0 = none ∧
    rowHeld (window0 (lanIn .awake)) .fe (.loc (scratchBase 0)) 8 = false ∧ 0x200000 < 0x1FFFFF + 2 := by decide

/-- An image of one variant and one M strand of one ZERO op. -/
def image1 : List (Nat × Byte) :=
  [(1, 1), (6, 0x10), (7, 1), (16, 32), (20, 4), (23, 1), (33, 0), (32, 64), (37, 0x20), (71, 7)]
theorem witness_StitchStages : (∃ f t, flight (mapped 1028 (flightIn run0 1 .admitted [] none)) 0 0 = some f ∧ f.phase = .admitted ∧
    fld (wordAt f.words 0) 63 56 = 1 ∧ stageStitch (mapped 1028 (flightIn (setContext run0 1 { ctxFree with hoop := 1 }) 1 .admitted [] none)) 0 0 f.desc = .fail .format t) ∧
    (∃ f t, flight (flightIn run0 1 .admitted [] none) 0 0 = some f ∧ f.phase = .admitted ∧
    fld (wordAt f.words 0) 63 56 = 1 ∧ stageStitch (flightIn run0 1 .admitted [] none) 0 0 f.desc = .wait t) ∧
    flight run0 0 0 = none := ⟨⟨_, _, rfl, by decide, by decide, rfl⟩, ⟨_, _, rfl, by decide, by decide, rfl⟩, rfl⟩
set_option maxRecDepth 100000 in
theorem witness_StitchStages_ok : ∃ t u, stageStitch (stored image1 (mapped 1028 (flightIn (setContext (hoop1 run0) 1 { ctxFree with hoop := 1 }) 1 .admitted [] none))) 0 0 [] = .ok t u ∧
    t.widthM = 1 ∧ t.strands.length = 1 := ⟨_, _, rfl, by decide, by decide⟩
theorem witness_VariantSelection : selectVariant [{ m := 4, v := 0, sc := 0, strands := 1, table := 32 }, { m := 2, v := 1, sc := 0, strands := 1, table := 48 }] 3 1 0 =
    some (1, { m := 2, v := 1, sc := 0, strands := 1, table := 48 }) := by decide
/-- A stitch staged and ready to be chosen. -/
def staged1 : State := flightIn (setContext (hoop1 run0) 1 { ctxFree with hoop := 1 }) 1 .staged [] (some (stitch1 0 (opOf 7)))
/-- The image of a stitch with its entry admitted, translated in the front end's lookaside and, where `b`, in lantern 0's. -/
def image2 (b : Bool) : State :=
  let s := stored image1 (mapped 1028 (flightIn (setContext (hoop1 run0) 1 { ctxFree with hoop := 1 }) 1 .admitted [] none))
  if b then { s with rng := { s.rng with look := s.rng.look ++ s.rng.look.map (fun x => { x with lk := 0 }) } } else s
set_option maxRecDepth 100000 in
theorem witness_StitchStages_prefetch : ∃ t u w ps, stageStitch (image2 true) 0 0 [] = .ok t u ∧ prefetches u 0 t.floss t.strands.zipIdx = .ok ps w := ⟨_, _, _, _, rfl, rfl⟩
/-- The strand's first op is a LOAD of 128 bytes, whose address no lookaside translates. -/
def loadOp1 : List Word := [at2 1 56, 0, at2 128 0, 0, 0, 0, 0, 0]
set_option maxRecDepth 100000 in
theorem witness_StitchStages_waits : (∃ w, prefetches (flightIn (setContext (hoop1 run0) 1 { ctxFree with hoop := 1 }) 1 .admitted [] none) 0 0 [(strand1 0 loadOp1, 0)] = .wait w) ∧
    (∃ f, flight staged1 0 0 = some f ∧ f.phase ≠ .admitted) ∧ (∃ f, flight (flightIn run0 2 .admitted [] none) 0 0 = some f ∧ fld (wordAt f.words 0) 63 56 ≠ 1) :=
  ⟨⟨_, rfl⟩, ⟨_, rfl, by decide⟩, ⟨_, rfl, by decide⟩⟩
/-- Lantern 0 with that strand at the head of its run list. -/
def listed1 : State := setLantern staged1 0 { Lantern.reset 0 with power := .awake, runList := [running1.ref] }
/-- The same with a strand saved in its context, or over in lantern 0. -/
def saved1 : State :=
  setContext staged1 1 { ctxFree with hoop := 1, saved := [{ l := 0, running := running1, scratch := [], poison := [], engines := [], chain := [], cores := [], dma := [], waits := [] }] }
def over1 (ended : Bool) : State := modLantern (strandIn 0 0 (opOf 7)) 0 (fun x => { x with cur := some { running1 with pos := 1, ended := ended } })
set_option maxRecDepth 100000 in
theorem witness_StrandsRun : (staged1.snuffer.safe = false ∧ enginesRun staged1 = true ∧ (hoopCtxs staged1 1).find? (mayRestore staged1 1) = none ∧
    (hoopCtxs staged1 1).any (restores staged1) = false ∧ nextContext staged1 1 = some 1 ∧ firstStaged staged1 1 = some (0, 0)) ∧
    (hoopCtxs saved1 1).find? (mayRestore saved1 1) = some 1 ∧ enginesRun safe0 = false := by decide
theorem witness_StrandsRun_start : (lantern listed1 0).cur = none ∧ (lantern listed1 0).runList = running1.ref :: [] ∧
    lanternResetting listed1 0 = false ∧ (context listed1 (queueCtx listed1 0)).leaving = false ∧ (∃ f t d, (lanternReady listed1 0).andThen (fun _ s => restoreClock s running1.ref) = .ok () listed1 ∧ flight listed1 0 0 = some f ∧
    f.stitch = some t ∧ t.strands[0]? = some d) ∧ (lantern (strandIn 0 0 []) 0).cur ≠ none := by
  refine ⟨by decide, by decide, by decide, by decide, ⟨_, _, _, rfl, rfl, rfl, rfl⟩, by decide⟩
/-- Its context is being swapped out; lantern 0, on which its saved strand runs, has a full run list. -/
def leaving1 : State := modContext listed1 1 (fun x => { x with leaving := true })
def full1 : State := setLantern saved1 0 { Lantern.reset 0 with runList := List.replicate 4 { running1.ref with queue := 1, entry := 1 } }
set_option maxRecDepth 100000 in
theorem witness_StrandsRun_waits : (lantern leaving1 0).runList = running1.ref :: [] ∧ (context leaving1 (queueCtx leaving1 0)).leaving = true ∧
    (hoopCtxs full1 1).find? (mayRestore full1 1) = none ∧ (hoopCtxs full1 1).any (restores full1) = true ∧ full1.snuffer.safe = false ∧ enginesRun full1 = true := by decide
theorem witness_StrandsRun_end : strandOver (over1 false) 0 { running1 with pos := 1 } = true ∧ strandOver (strandIn 0 0 (opOf 7)) 0 running1 = false ∧
    0 ∈ stitchLanterns (over1 true) 0 0 ∧ (lantern (over1 true) 0).cur = some { running1 with pos := 1, ended := true } ∧
    stitchLanterns staged1 0 0 = [] := by decide
theorem witness_StrandStartIsolates : (context listed1 (queueCtx listed1 0)).saved = [] ∧ (lantern listed1 0).lastCtx ≠ some (queueCtx listed1 0) ∧
    (lantern (modLantern listed1 0 (fun x => { x with lastCtx := some 1 })) 0).lastCtx = some (queueCtx listed1 0) ∧ (lantern listed1 0).rebound = false := by decide
/-- `nextOp` of a strand of one op that may issue. -/
theorem nextOp_of (l kind : Nat) (op : List Word) (h : ∀ o ∈ [op], nextOp (strandIn l kind o) l =
    .ok { run := running1, st := stitch1 kind o, strand := strand1 kind o, ws := o } (strandIn l kind o)) :
    ∃ i t, nextOp (strandIn l kind op) l = .ok i t ∧ i.ws = op := ⟨_, _, h op (by simp), rfl⟩
theorem witness_TileUnitOps : ∀ c ∈ [3, 4, 5, 6, 7, 16], opCode (opOf c) = c ∧ ∃ i t, nextOp (strandIn 0 0 (opOf c)) 0 = .ok i t ∧ i.ws = opOf c := by
  intro c h
  simp at h
  rcases h with rfl | rfl | rfl | rfl | rfl | rfl <;> exact ⟨by decide, _, _, rfl, rfl⟩
theorem witness_TileUnitOps_mma : mmaFits (lantern (strandIn 0 0 (opOf 3)) 0) (opOf 3) = true ∧
    mmaFits { lantern (strandIn 0 0 (opOf 3)) 0 with engines := [some { rows := 2, cols := 1, fmtA := 0, fmtB := 0, long := [], fast := [], nanIn := [], poison := false }] } (opOf 3) = false := by decide
theorem witness_ZeroBytes : ∃ i t, nextOp (strandIn 0 0 (opOf 7)) 0 = .ok i t ∧ opCode i.ws = 7 := ⟨_, _, rfl, by decide⟩

/-! ### Tile ops that move data, wait or signal; cores and DMA -/

/-- Fence 0, which every context may use, with a value, and whether it carries an error. -/
def fenced0 (v : Nat) (err : Bool) (s : State) : State :=
  { s with fences := [(0, { valid := true, error := err, orphan := false, use := 2, remote := false, alias_ := false, hoop := 1, owner := 0, aliasNode := 0, aliasFence := 0, result := 0, value := v, discards := 0, init := 0 })] }
/-- Core 0 of lantern 128 as `f` makes it. -/
def coreWith (f : Core → Core) (a b : Word) : State := modCore (coreIn a b) 128 0 f
/-- An op that waits on fence 0 for the value 1. -/
def waitOp1 : List Word := [at2 9 56, 0, 1, 0, 0, 0, 0, 0]
theorem witness_Moves : ∀ c ∈ [1, 2, 8], ∃ i t r, nextOp (strandIn 0 0 (opOf c)) 0 = .ok i t ∧ opCode i.ws = c ∧
    prefetched t 0 i = none ∧ (lantern t 0).cur = some r := by
  intro c h
  simp at h
  rcases h with rfl | rfl | rfl <;> exact ⟨_, _, _, rfl, by decide, by decide, rfl⟩
theorem witness_Moves_prefetch : ∃ i t, nextOp (modLantern (strandIn 0 0 (opOf 1)) 0 (fun x => { x with prefetch := some (running1.ref, [1]) })) 0 = .ok i t ∧
    opCode i.ws = 1 ∧ prefetched t 0 i = some [1] := ⟨_, _, rfl, by decide, by decide⟩
theorem witness_Waits :
    (∃ i t, nextOp (strandIn 0 0 waitOp1) 0 = .ok i t ∧ opCode i.ws = 9 ∧ waitNow t (opFence i.ws) i.run.ctx 1 = .denied) ∧
    (∃ i t, nextOp (fenced0 1 false (strandIn 0 0 waitOp1)) 0 = .ok i t ∧ waitNow t (opFence i.ws) i.run.ctx 1 = .met) ∧
    (∃ i t, nextOp (fenced0 0 false (strandIn 0 0 waitOp1)) 0 = .ok i t ∧ waitNow t (opFence i.ws) i.run.ctx 1 = .later) :=
  ⟨⟨_, _, rfl, by decide, by decide⟩, ⟨_, _, rfl, by decide⟩, ⟨_, _, rfl, by decide⟩⟩
theorem witness_Waits_error : (∃ i t, nextOp (fenced0 1 true (strandIn 0 0 waitOp1)) 0 = .ok i t ∧ opCode i.ws = 9 ∧ waitNow t (opFence i.ws) i.run.ctx 1 = .error) ∧
    (∃ t, nextOp (over1 false) 0 = .wait t) := ⟨⟨_, _, rfl, by decide, by decide⟩, ⟨_, rfl⟩⟩
theorem witness_Signals :
    (∃ i t, nextOp (fenced0 0 false (strandIn 0 0 (opOf 10))) 0 = .ok i t ∧ opCode i.ws = 10 ∧
      fenceMay t (opFence i.ws) i.run.ctx = true ∧ (fence t (opFence i.ws)).alias_ = false) ∧
    (∃ i t, nextOp (strandIn 0 0 (opOf 10)) 0 = .ok i t ∧ fenceMay t (opFence i.ws) i.run.ctx = false) :=
  ⟨⟨_, _, rfl, by decide, by decide, by decide⟩, ⟨_, _, rfl, by decide⟩⟩
theorem witness_Inval : (∃ i t, nextOp (strandIn 64 1 (opOf 11)) 64 = .ok i t ∧ opCode i.ws = 11 ∧ opParam i.ws 15 15 = 0) ∧
    (∃ i t, nextOp (strandIn 64 1 [at2 11 56 ||| 0x8000, 0, 0, 0, 0, 0, 0, 0]) 64 = .ok i t ∧ opParam i.ws 15 15 = 1) :=
  ⟨⟨_, _, rfl, by decide, by decide⟩, ⟨_, _, rfl, by decide⟩⟩
theorem witness_TileOpComplete : ∃ r, (lantern (modLantern (strandIn 0 0 (opOf 1)) 0 (fun x => { x with cur := some { running1 with busy := [0] } })) 0).cur = some r ∧
    0 ∈ r.busy ∧ r.waitOp ≠ some 0 ∧ remapHeld (strandIn 0 0 (opOf 1)) (fun e => decide (e = .lan 0)) = false := ⟨_, rfl, by decide, by decide, by decide⟩
theorem witness_coreGoes : ∃ u, coreGoes (coreIn 1 2) u 128 0 ∧ (Machine.core u 128 0).x.length = 32 ∧ (Machine.core u 128 0).f.length = 32 :=
  ⟨_, ⟨by decide, rfl, by decide, by decide, by decide, ⟨_, rfl⟩, by decide⟩, by decide, by decide⟩
theorem witness_coreGoes_short : ∃ u, coreGoes (coreIn 1 2) u 128 0 2 := ⟨_, ⟨by decide, rfl, by decide, by decide, by decide, ⟨_, rfl⟩, by decide⟩⟩
/-- ADDI x1, x2, 1; an undefined OP word; CSRRS x3, fcsr, x0; CSRRW x3, fcsr, x1; CSRRW x3, cycle, x1; CSRRS x3, mstatus, x0. -/
theorem witness_CoreRegisterResults : (∃ u, coreGoes (coreIn 1 2) u 128 0 ∧ WellFormed.intWordOk (BitVec.toNat (0x00110093 : BitVec 32)) = true ∧ WellFormed.intWordOk (BitVec.toNat (0x80110033 : BitVec 32)) = false) ∧
    (∃ u v old, coreGoes (coreIn 1 2) u 128 0 ∧ csrValue u 128 0 ((0x003021F3 : BitVec 32).toNat / 2 ^ 20) = (some old, v) ∧ (0x003021F3 : BitVec 32).toNat / 2 ^ 12 % 4 ≠ 0 ∧
      (0x003021F3 : BitVec 32).toNat / 2 ^ 12 % 4 ≠ 1 ∧ (0x003021F3 : BitVec 32).toNat / 2 ^ 15 % 32 = 0 ∧ (0x003091F3 : BitVec 32).toNat / 2 ^ 12 % 8 = 1 ∧ (0x003091F3 : BitVec 32).toNat / 2 ^ 7 % 32 ≠ 0 ∧
      (csrPut 3 1 (Machine.core v 128 0)).isSome = true ∧ csrPut 0xC02 1 (Machine.core v 128 0) = none ∧ (csrPut 3 1 (Machine.core v 128 0)).map Core.x = some (Machine.core v 128 0).x ∧ (Machine.core v 128 0).x.length = 32) ∧
    (∃ u v old, coreGoes (coreIn 1 2) u 128 0 ∧ csrValue u 128 0 ((0xC02091F3 : BitVec 32).toNat / 2 ^ 20) = (some old, v) ∧ (0xC02091F3 : BitVec 32).toNat / 2 ^ 12 % 8 = 1) ∧
    (∃ u v, coreGoes (coreIn 1 2) u 128 0 ∧ csrValue u 128 0 ((0x300021F3 : BitVec 32).toNat / 2 ^ 20) = (none, v)) :=
  ⟨⟨_, ⟨by decide, rfl, by decide, by decide, by decide, ⟨_, rfl⟩, by decide⟩, by decide, by decide⟩,
   ⟨_, _, _, ⟨by decide, rfl, by decide, by decide, by decide, ⟨_, rfl⟩, by decide⟩, rfl, by decide, by decide, by decide, by decide, by decide, by decide, by decide, by decide, by decide⟩,
   ⟨_, _, _, ⟨by decide, rfl, by decide, by decide, by decide, ⟨_, rfl⟩, by decide⟩, rfl, by decide⟩, ⟨_, _, ⟨by decide, rfl, by decide, by decide, by decide, ⟨_, rfl⟩, by decide⟩, rfl⟩⟩
theorem witness_CoreAccesses : (∃ u d t, coreGoes (mapped 128 (coreIn 64 0)) u 128 0 ∧ coreRead u 128 0 (coreAddr u 128 0 1 0) 8 = .ok d t ∧ d.poison = false) ∧
    (∃ u t, coreGoes (mapped 128 (coreIn 64 0)) u 128 0 ∧ coreWrite u 128 0 (coreAddr u 128 0 1 0) (leBytes 8 1) = .ok () t) ∧
    (∃ u t, coreGoes (mapped 128 (coreIn 64 0)) u 128 0 ∧ coreWrite u 128 0 (alignDown ((xr u 128 0 1).toNat % 2 ^ 57) 64) (List.replicate 64 0) = .ok () t) :=
  ⟨⟨_, _, _, ⟨by decide, rfl, by decide, by decide, by decide, ⟨_, rfl⟩, by decide⟩, rfl, by decide⟩,
   ⟨_, _, ⟨by decide, rfl, by decide, by decide, by decide, ⟨_, rfl⟩, by decide⟩, rfl⟩,
   ⟨_, _, ⟨by decide, rfl, by decide, by decide, by decide, ⟨_, rfl⟩, by decide⟩, rfl⟩⟩
theorem witness_CoreAccesses_traps : ∃ u, coreGoes (coreIn 2 0) u 128 0 ∧ ((xr u 128 0 1).toNat % 2 ^ 57) % 4 ≠ 0 ∧ ((xr u 128 0 1).toNat % 2 ^ 57) % 8 ≠ 0 :=
  ⟨_, ⟨by decide, rfl, by decide, by decide, by decide, ⟨_, rfl⟩, by decide⟩, by decide, by decide⟩
/-- A picot write that core 0 of lantern 128 has not landed, to the line of address 0. -/
def picot0 (e : Eng) : Picot :=
  { id := 0, eng := e, hoop := 1, ctx := 1, aspace := 0, entry := 0, row := 1, place := .loc 0xC000000000, data := leBytes 8 7, poison := false, page := none, after := [], sender := none, tag := 0, epoch := 0, cls := 0, failed := none }
/-- A state with that write held. -/
def held0 (e : Eng) (s : State) : State := { s with fab := { s.fab with picots := [picot0 e] } }
theorem witness_CoreAccesses_busy : (∃ u, coreGoes (coreIn 0 0) u 128 0 ∧ lineBusy u 128 0 (xr u 128 0 1).toNat = false ∧ engBusy u (.core 128 0) = false) ∧
    (∃ u, coreGoes (held0 (.core 128 0) (coreIn 0 0)) u 128 0 ∧ lineBusy u 128 0 (xr u 128 0 1).toNat = true ∧ engBusy u (.core 128 0) = true) :=
  ⟨⟨_, ⟨by decide, rfl, by decide, by decide, by decide, ⟨_, rfl⟩, by decide⟩, by decide, by decide⟩,
   ⟨_, ⟨by decide, rfl, by decide, by decide, by decide, ⟨_, rfl⟩, by decide⟩, by decide, by decide⟩⟩
theorem witness_CoreAccesses_atomics : (∃ u t h, coreGoes (mapped 128 (coreIn 64 0)) u 128 0 ∧ atomicHome u 128 0 64 8 true true = .ok h t ∧ h = 0xC000000040 ∧ t.mem.resv = []) ∧
    (∃ u t h, coreGoes (mapped 128 (coreIn 64 0)) u 128 0 ∧ atomicHome u 128 0 64 4 false false = .ok h t) ∧
    (∃ u t, coreGoes (let s := mapped 128 (coreIn 64 0); { s with mem := { s.mem with resv := [{ l := 128, c := 0, row := 0xC000000000 }] } }) u 128 0 ∧ atomicHome u 128 0 64 8 true true = .ok 0xC000000040 t ∧
      { l := 128, c := 0, row := alignDown 0xC000000040 128 } ∈ t.mem.resv) ∧
    (∃ u, coreGoes (held0 (.core 128 0) (coreIn 0 0)) u 128 0 ∧ releaseWaits u 128 0 = true) :=
  ⟨⟨_, _, _, ⟨by decide, rfl, by decide, by decide, by decide, ⟨_, rfl⟩, by decide⟩, rfl, by decide, rfl⟩, ⟨_, _, _, ⟨by decide, rfl, by decide, by decide, by decide, ⟨_, rfl⟩, by decide⟩, rfl⟩, ⟨_, _, ⟨by decide, rfl, by decide, by decide, by decide, ⟨_, rfl⟩, by decide⟩, rfl, by decide⟩, ⟨_, ⟨by decide, rfl, by decide, by decide, by decide, ⟨_, rfl⟩, by decide⟩, by decide⟩⟩
theorem witness_ApertureAtomics_clear : ∃ u, coreGoes (coreIn (wd apertureBase) 5) u 128 0 ∧ releaseWaits u 128 0 = false ∧
    rowHeld u (.core 128 0) (.loc (apertureAt 128 ((xr u 128 0 1).toNat % 2 ^ 57))) 8 = false := ⟨_, ⟨by decide, rfl, by decide, by decide, by decide, ⟨_, rfl⟩, by decide⟩, by decide, by decide⟩
theorem witness_ApertureAtomics : ∃ u, coreGoes (coreIn (wd apertureBase) 5) u 128 0 ∧ ((xr u 128 0 1).toNat % 2 ^ 57) % 8 = 0 ∧
    inAperture ((xr u 128 0 1).toNat % 2 ^ 57) = true ∧ scratchPoisoned u (apertureAt 128 ((xr u 128 0 1).toNat % 2 ^ 57)) 8 = false ∧ u.mem.resv = [] :=
  ⟨_, ⟨by decide, rfl, by decide, by decide, by decide, ⟨_, rfl⟩, by decide⟩, by decide, by decide, by decide, rfl⟩
theorem witness_ApertureAtomics_reserved : ∃ u, coreGoes (let s := coreIn (wd apertureBase) 5; { s with mem := { s.mem with resv := [{ l := 128, c := 0, row := scratchBase 128 }] } }) u 128 0 ∧
    { l := 128, c := 0, row := alignDown (apertureAt 128 ((xr u 128 0 1).toNat % 2 ^ 57)) 128 } ∈ u.mem.resv :=
  ⟨_, ⟨by decide, rfl, by decide, by decide, by decide, ⟨_, rfl⟩, by decide⟩, by decide⟩
theorem witness_CoreFences :
    (∃ u, coreGoes (fenced0 1 false (coreIn 0 1)) u 128 0 ∧ xFence (xr u 128 0 1) = some 0 ∧ fenceMay u 0 (lanCtx u 128) = true ∧
      waitNow u 0 (lanCtx u 128) (xr u 128 0 2).toNat = .met ∧ coreQuiet u 128 0 = true ∧ (fence u 0).alias_ = false) ∧
    (∃ u, coreGoes (fenced0 1 true (coreIn 0 1)) u 128 0 ∧ waitNow u 0 (lanCtx u 128) (xr u 128 0 2).toNat = .error) ∧
    (∃ u, coreGoes (fenced0 0 false (coreIn 0 1)) u 128 0 ∧ waitNow u 0 (lanCtx u 128) (xr u 128 0 2).toNat = .later) ∧
    (∃ u, coreGoes (coreIn 0 1) u 128 0 ∧ xFence (xr u 128 0 1) = some 0 ∧ fenceMay u 0 (lanCtx u 128) = false) ∧
    (∃ u, coreGoes (coreIn 0x4000 1) u 128 0 ∧ xFence (xr u 128 0 1) = none) :=
  ⟨⟨_, ⟨by decide, rfl, by decide, by decide, by decide, ⟨_, rfl⟩, by decide⟩, by decide, by decide, by decide, by decide, by decide⟩,
   ⟨_, ⟨by decide, rfl, by decide, by decide, by decide, ⟨_, rfl⟩, by decide⟩, by decide⟩,
   ⟨_, ⟨by decide, rfl, by decide, by decide, by decide, ⟨_, rfl⟩, by decide⟩, by decide⟩,
   ⟨_, ⟨by decide, rfl, by decide, by decide, by decide, ⟨_, rfl⟩, by decide⟩, by decide, by decide⟩,
   ⟨_, ⟨by decide, rfl, by decide, by decide, by decide, ⟨_, rfl⟩, by decide⟩, by decide⟩⟩
/-- The bytes of a ZERO op of one row of one byte. -/
def zeroBytes : List (Nat × Byte) := [(7, 7)]
theorem witness_CoreXetp_tile : ∃ u d t, coreGoes (stored zeroBytes (mapped 128 (coreIn 0 0))) u 128 0 ∧ (xr u 128 0 1).toNat % 2 ^ 57 % 64 = 0 ∧
    (lantern u 128).dma.length < 32 ∧ coreRead u 128 0 ((xr u 128 0 1).toNat % 2 ^ 57) 64 = .ok d t ∧ d.poison = false ∧
    (Machine.core t 128 0).on = true ∧ (Machine.core t 128 0).x.length = 32 ∧
    tileOpOk 2 (((lantern u 128).cur.bind (strandOf u)).map (fun p => p.1.det) == some true) (toWords d.bytes) = true :=
  ⟨_, _, _, ⟨by decide, rfl, by decide, by decide, by decide, ⟨_, rfl⟩, by decide⟩, by decide, by decide, rfl, by decide, by decide, by decide, by decide⟩
theorem witness_CoreXetp_sync : (∃ u, coreGoes (coreIn 0 0) u 128 0 ∧ (xr u 128 0 1).toNat ≤ (Machine.core u 128 0).tickets ∧
      (∀ d ∈ (lantern u 128).dma, d.core = 0 → (xr u 128 0 1).toNat < d.ticket) ∧ (xr u 128 0 2).toNat = 0 ∧ (xr u 128 0 1).toNat ≤ 1) ∧
    (∃ u, coreGoes (coreIn 2 21) u 128 0 ∧ (Machine.core u 128 0).tickets < (xr u 128 0 1).toNat ∧ (xr u 128 0 1).toNat ≠ 0 ∧
      (xr u 128 0 2).toNat ≤ 21 ∧ 1 < (xr u 128 0 1).toNat ∧ (xr u 128 0 1).toNat % 2 ^ 57 % 64 ≠ 0) :=
  ⟨⟨_, ⟨by decide, rfl, by decide, by decide, by decide, ⟨_, rfl⟩, by decide⟩, by decide, by decide, by decide, by decide⟩,
   ⟨_, ⟨by decide, rfl, by decide, by decide, by decide, ⟨_, rfl⟩, by decide⟩, by decide, by decide, by decide, by decide, by decide⟩⟩
theorem witness_CoreXetp_picot : ∃ u p t, coreGoes (mapped 128 (coreIn 8 3)) u 128 0 ∧ (xr u 128 0 1).toNat % 2 ^ 57 % 8 = 0 ∧
    inAperture ((xr u 128 0 1).toNat % 2 ^ 57) = false ∧
    placeVa u (storeAcc u 128 0 ((xr u 128 0 1).toNat % 2 ^ 57)) ((xr u 128 0 1).toNat % 2 ^ 57) 8 1 true = .ok p t ∧ p.place = .loc 0xC000000008 :=
  ⟨_, _, _, ⟨by decide, rfl, by decide, by decide, by decide, ⟨_, rfl⟩, by decide⟩, by decide, by decide, rfl, by decide⟩
theorem witness_CoreXetp_end : (coreLive (coreWith (fun k => { k with pc := exitAddr }) 0 0) 128 0 = true ∧
      lanternReady (coreWith (fun k => { k with pc := exitAddr }) 0 0) 128 = .ok () (coreWith (fun k => { k with pc := exitAddr }) 0 0) ∧
      wrsOver (coreWith (fun k => { k with pc := exitAddr }) 0 0) 128 0 = false) ∧
    (coreLive (coreWith (fun k => { k with stall := .wrs true }) 0 0) 128 0 = true ∧
      (Machine.core (coreWith (fun k => { k with stall := .wrs true }) 0 0) 128 0).stall = .wrs true) := by
  refine ⟨⟨by decide, rfl, by decide⟩, by decide, by decide⟩
/-- The core's strand with the address of a trap record in its first op. -/
def trapped (va : Word) : State :=
  mapped 128 (modLantern (setLantern (flightIn (setContext run0 1 { ctxFree with hoop := 1 }) 1 .running [] (some (stitch1 2 [0, va, 0, 0, 0, 0, 0, 0]))) 128 { Lantern.reset 128 with power := .awake, cur := some running1 }) 128 (fun x => { x with cores := [{ coreOff with on := true }] }))
theorem witness_CoreXetp_traps : (∃ r t d, coreLive (trapped 0) 128 0 = true ∧ (lantern (trapped 0) 128).cur = some r ∧ strandOf (trapped 0) r = some (t, d) ∧
      causeStatus 5 = some .rights ∧ (wordAt (d.first.getD 0 []) 1).toNat = 0) ∧
    (∃ r t d u, (lantern (trapped 64) 128).cur = some r ∧ strandOf (trapped 64) r = some (t, d) ∧ (wordAt (d.first.getD 0 []) 1).toNat ≠ 0 ∧
      writeTrap (trapped 64) 128 0 64 (trapRecord (trapped 64) 128 0 5 .rights 0) = .ok () u) ∧
    (coreLive run0 128 0 = false ∧ xetpOk 0x700B = true ∧ xetpOk (BitVec.toNat (0xF000000B : BitVec 32)) = false) ∧
    (∃ r, coreLive { coreIn 0 0 with queues := [] } 128 0 = true ∧ (lantern (coreIn 0 0) 128).cur = some r ∧ strandOf { coreIn 0 0 with queues := [] } r = none) :=
  ⟨⟨_, _, _, by decide, rfl, rfl, by decide, by decide⟩, ⟨_, _, _, _, rfl, rfl, by decide, rfl⟩, by decide, ⟨_, by decide, rfl, by decide⟩⟩
/-- A ZERO in the DMA queue of lantern 128. -/
def dma0 (go : Bool) : DmaOp :=
  { core := 0, ticket := 1, op := opOf 7, running := go, issued := go, waiting := false, row := 0, poison := false, bad := [] }
theorem witness_DmaOps : (∃ r t d u, (lantern (modLantern (coreIn 0 0) 128 (fun x => { x with dma := [dma0 false] })) 128).cur = some r ∧
      strandOf (modLantern (coreIn 0 0) 128 (fun x => { x with dma := [dma0 false] })) r = some (t, d) ∧
      lanternReady (modLantern (coreIn 0 0) 128 (fun x => { x with dma := [dma0 false] })) 128 = .ok () u ∧ dmaMay [] (dma0 false) = true ∧ opCode (dma0 false).op = 7) ∧
    (dma0 true).issued = true ∧ remapHeld (coreIn 0 0) (fun e => decide (e = .dma 128)) = false ∧ (lantern (coreIn 0 0) 128).dma = [] :=
  ⟨⟨_, _, _, _, rfl, rfl, rfl, by decide, by decide⟩, by decide⟩

/-! ### Sequence slots, movers, links, collectives and ports -/

/-- A slot descriptor of a ring of `n` members (position 0), its fences all fence 0, its work area at address 0. -/
def slotDesc (n : Nat) : List Word :=
  [wd (2 ^ 56 + (n - 1) * 2 ^ 50 + 2 ^ 28 + 2 ^ 24), 0, 0, at2 1 19, at2 1 32 ||| (if n = 1 then 0 else 1000), 0, 0, 0] ++ List.replicate 3 (if n = 1 then 0 else 8) ++ List.replicate 5 0
/-- The OPEN slot 0 of context 1, in a ring of `n` members. -/
def slotOf (n : Nat) : Slot := { slotFree with state := 1, hoop := 1, ctx := 1, desc := slotDesc n, qFree := [0, 1], pFree := [0, 1] }
/-- Hoop 1, which holds slot 0 where `b`, with context 1 and slot 0 as given. -/
def slotIn (b : Bool) (x : Slot) : State :=
  let s := setHoop (hoop1 (setContext run0 1 { ctxFree with hoop := 1 })) 1 { hoopFree with desc := [0, 1] ++ List.replicate 10 0 ++ [if b then 1 else 0] ++ List.replicate 9 0 }
  mapped 1024 { s with slots := if x.state = 0 then [] else [(0, x)] }
/-- A request that the member in position 0 works on. -/
def req1 (own : Bool) : SlotReq :=
  { home := 0, num := 1, own := own, w0 := 0, w4 := 0, out := 0, body := [], badBody := [], buf := 0, freed := false, started := 0, forwarded := true, pass := 0, passing := false, count := 0, block := 0, parts := [], maxIn := none, maxSent := false, gmax := none, gmaxSent := false, partIn := none, merged := false, partSent := false, status := .ok, chain := .ok, outDone := false, w7 := false, part := 0, loading := false }
/-- A write of an engine to node 9 that no answer has come to. -/
def remote0 (eng : Eng) (s : State) : State :=
  { s with fab := { s.fab with remotes := [{ id := 1, eng := eng, hoop := 1, ctx := 1, row := 0, aspace := 0, entry := 0, msg := 2, node := 9, eye := 0, cands := [0], tag := 0, epoch := 0, key := 0, addr := 0, len := 64, data := List.replicate 64 0, poison := false, sent := 0, limit := 0, answer := none }] } }
theorem witness_SlotsOpenAndClose :
    (∃ f, flight (flightIn (slotIn true slotFree) 5 .admitted [] none) 0 0 = some f ∧ f.phase = .admitted ∧ fld (wordAt f.words 0) 63 56 = 5 ∧ slotDescOk f.desc = false) ∧
    slotDescOk (slotDesc 1) = true ∧ slotDescOk (slotDesc 2) = true ∧ (slot (slotIn true (slotOf 1)) 0).state ≠ 0 ∧
    descSlot (hoop (slotIn true slotFree) 1).desc 0 = true ∧ descSlot (hoop (slotIn false slotFree) 1).desc 0 = false ∧
    queueHoop (flightIn (slotIn true slotFree) 5 .admitted [] none) 0 = 1 ∧ queueCtx (flightIn (slotIn true slotFree) 5 .admitted [] none) 0 = 1 ∧
    fenceMay (fenced0 0 false (slotIn true slotFree)) (csReqFence (slotDesc 1)) 1 = true ∧ (slot (slotIn true slotFree) 0).state = 0 :=
  ⟨⟨_, rfl, by decide, by decide, by decide⟩, by decide⟩
theorem witness_SlotsOpenAndClose_close : slotQuiet (closeSlot (slotIn true (slotOf 1)) 0) 0 = true ∧
    slotQuiet (closeSlot (remote0 (.cse 0) (slotIn true (slotOf 1))) 0) 0 = false ∧ (slot (slotIn true (slotOf 1)) 0).ctx = 1 := by decide
/-- `slotIn` with every PLL stopped. -/
def slotCold (x : Slot) : State := { slotIn true x with clk := State.reset.clk }
theorem witness_SlotsOpenAndClose_clock : (∃ t, needClock (flightIn (slotCold slotFree) 5 .admitted [] none) 0 = .wait t) ∧
    pll (flightIn (slotIn true slotFree) 5 .admitted [] none) 0 = .running ∧ (slot (slotCold (slotOf 1)) 0).state ≠ 0 ∧
    (∃ t, needClock (flightIn (slotCold (slotOf 1)) 6 .admitted [] none) 0 = .wait t) := ⟨⟨_, rfl⟩, by decide, by decide, ⟨_, rfl⟩⟩
theorem witness_SlotPasses :
    (slot (runSlot (slotIn true slotFree) 0) 0).state ≠ 1 ∧ (slot (slotIn true slotFree) 0).reqs = [] ∧
    (∃ u b v, u = runSlot (fenced0 1 false (slotIn true (slotOf 1))) 0 ∧ (slot u 0).state = 1 ∧ quarterRuns u 0 = true ∧ (hoop u (slot u 0).hoop).inst = .running ∧
      (slot u 0).next ≤ (fence u (csReqFence (slot u 0).desc)).value ∧ csN (slot u 0).desc = 1 ∧ pll u 0 = .running ∧
      readVa u (slotAcc 0 (slot u 0)) 0 64 0 = .ok b v ∧ b.poison = false ∧ (fence u (csReqFence (slot u 0).desc)).error = false) :=
  ⟨by decide, by decide, _, _, _, rfl, by decide, by decide, by decide, by decide, by decide, by decide, rfl, by decide, by decide⟩
theorem witness_SlotPasses_start : (∀ b ∈ [true, false], ∃ u, u = runSlot (fenced0 1 b (slotIn true (slotOf 1))) 0 ∧ (∀ r ∈ (slot u 0).reqs, r.loading = false) ∧
      engineResetting u (engCode (.cse (64 * (0 / 64)))) = false ∧ (slot u 0).next ≤ (fence u (csReqFence (slot u 0).desc)).value ∧
      (1 < csN (slot u 0).desc → 2 ≤ (slot u 0).qFree.length) ∧ (fence u (csReqFence (slot u 0).desc)).error = b) ∧
    (∃ u, u = runSlot (fenced0 0 false (slotIn true (slotOf 1))) 0 ∧ (∀ r ∈ (slot u 0).reqs, r.loading = false) ∧ (fence u (csReqFence (slot u 0).desc)).value < (slot u 0).next) ∧
    2 ≤ (slotOf 2).qFree.length ∧ 1 < csN (slotOf 2).desc := by
  refine ⟨fun b _ => ?_, ⟨_, rfl, by decide, by decide⟩, by decide⟩
  cases b <;> exact ⟨_, rfl, by decide, by decide, by decide, by decide, by decide⟩
theorem witness_SlotPasses_load : (∃ u r i, u = runSlot (fenced0 1 false (slotIn true { slotOf 1 with reqs := [{ req1 true with loading := true }] })) 0 ∧ (slot u 0).state = 1 ∧
      (slot u 0).reqs.zipIdx.find? (fun p => p.1.loading) = some (r, i)) ∧
    (∃ b v, readVa (slotIn true (slotOf 1)) (slotAcc 0 (slotOf 1)) 0 64 0 = .ok b v ∧ b.poison = false ∧ entryOk (slotOf 1).desc (toWords b.bytes) = false) ∧
    (∃ b v, readVa (let s := slotIn true (slotOf 1); { s with mem := { s.mem with storePoison := [0xC000000000] } }) (slotAcc 0 (slotOf 1)) 0 64 0 = .ok b v ∧ b.poison = true) :=
  ⟨⟨_, _, _, rfl, by decide, rfl⟩, ⟨_, _, rfl, by decide, by decide⟩, ⟨_, _, rfl, by decide⟩⟩
theorem witness_SlotPasses_pass : (∃ u x r, u = runSlot (fenced0 1 false (slotIn true { slotOf 1 with reqs := [req1 true] })) 0 ∧ tget u.slots 0 = some x ∧
      x.state = 1 ∧ x.reqs = [r] ∧ r.passing = false ∧ r.outDone = false ∧ r.pass = 0 ∧ (fence u (csCountFence x.desc)).error = false ∧
      (fence u (csCountFence x.desc)).value ≤ 16 * fld (wordAt x.desc 4) 63 32) ∧
    (∃ p v u, passBlocks (slotAcc 0 (slotOf 1)) (slotDesc 1) (((req1 true).count + 15) / 16 + 1) { req1 true with passing := true }
        (slotIn true { slotOf 1 with reqs := [{ req1 true with passing := true }] }) = (p, .ok () v) ∧ saveParts v 0 (slotOf 1) p = .ok () u) :=
  ⟨⟨_, _, _, rfl, rfl, by decide, rfl, by decide, by decide, by decide, by decide, by decide⟩, ⟨_, _, _, rfl, rfl⟩⟩
theorem witness_SlotPasses_timeout : 1 < csN (slotOf 2).desc ∧ slotAwaits { slotOf 2 with qFree := [0] } = true ∧
    (slotOf 2).heard + 1000 * fld (wordAt (slotOf 2).desc 4) 31 0 ≤ (at_ 1000000 run0).clk.wick := by decide
/-- A ring word of a type for request 1 of member 0, of its pool. -/
def ringWord (ty : Nat) : Word := wd (ty * 2 ^ 60 + (if ty = 2 ∨ ty = 3 ∨ ty = 4 then 2 ^ 58 else 0) + 1)
/-- Slot 0 of a ring of two that works on a request of member 0, a word for it landed. -/
def ring2 (ty : Nat) (bad : Bool) : State :=
  let s := slotIn true { slotOf 2 with reqs := [req1 true] }
  let s := stored ((leBytes 8 (wordAt (slotDesc 2) 0).toNat).zipIdx.map (fun p => (16 + p.2, p.1))) s
  { s with mem := { s.mem with mail := [(0, ringWord ty, bad)] } }
theorem witness_RingWords : (∀ ty ∈ [1, 2, 3, 4, 5, 6], wordFor (ring2 ty false) 0 ty (ringWord ty)) ∧
    (∀ ty ∈ [2, 3, 4], namedReq { slotOf 2 with reqs := [req1 true] } (ringWord ty) = some (req1 true, 0)) ∧
    wordBad (ring2 1 true) 0 (ringWord 1) = true ∧ (slot (slotIn true slotFree) 0).state ≠ 1 ∧
    fld (ringWord 1 ||| at2 1 24) 39 24 ≠ fld (wordAt (slotDesc 2) 11) 63 48 := by
  refine ⟨?_, by decide, by decide, by decide, by decide⟩
  intro ty h
  simp at h
  rcases h with rfl | rfl | rfl | rfl | rfl | rfl <;> exact ⟨by decide, by decide, by decide, by decide, by decide, by decide⟩
set_option maxRecDepth 100000 in
theorem witness_RingWords_query : ∃ x h u p v y, tget (ring2 1 false).slots 0 = some x ∧
    readPayload (wordTaken (ring2 1 false) 0 (ringWord 1)) 0 x 0 (fld (ringWord 1) 59 59) 0 = .ok h u ∧
    wordAt h.1 2 = setFld (wordAt x.desc 0) 49 44 0 ∧
    readPayload u 0 x 0 (fld (ringWord 1) 59 59) (8 * (fld (wordAt h.1 0) 46 40 + 1) +
      csH x.desc * (fld (wordAt h.1 0) 46 40 + 1) * csD x.desc * elemBytes (fmtD (fld (wordAt h.1 0) 59 56))) = .ok p v ∧ tget v.slots 0 = some y :=
  ⟨_, _, _, _, _, _, rfl, rfl, by decide, rfl, rfl⟩
set_option maxRecDepth 100000 in
theorem witness_RingWords_body : ∃ x v y z p, tget (ring2 3 false).slots 0 = some x ∧
    readPayload (wordTaken (ring2 3 false) 0 (ringWord 3)) 0 x 1 (fld (ringWord 3) 59 59) (4 * (csH x.desc * rqRows (req1 true))) = .ok p v ∧
    tget v.slots 0 = some y ∧ y.reqs[0]? = some z := ⟨_, _, _, _, _, rfl, rfl, rfl, rfl⟩
/-- A mover descriptor: one row of sixteen INT8 elements from address 0 to address 4096. -/
def moverDesc (op : Nat) : List Word :=
  [wd (op * 2 ^ 56 + 9 * 2 ^ 52 + 9 * 2 ^ 48), if op = 4 then 0 else 0, 4096, wd (2 ^ 32 + 16), if op = 4 then 0 else 16, 16, 0, 0, 0, 0, 0, 0, 0, 0, 0, 0, 0, 0, 0, 0]
/-- The job of mover 0 of quarter 0. -/
def job1 (op : Nat) : MoverJob :=
  { queue := 0, entry := 0, work := 0, desc := moverDesc op, hoop := 1, ctx := 1, aspace := 0, rows := [], put := 0, round := 0, sat := 0, status := .ok, flagSent := false, finished := false, since := 0, key := 0 }
/-- Mover 0 of quarter 0 with that job. -/
def moverIn (op : Nat) : State :=
  { mapped 1024 (hoop1 (setContext run0 1 { ctxFree with hoop := 1 })) with movers := [(0, job1 op)] }
set_option maxRecDepth 100000 in
theorem witness_Movers :
    (∃ f, flight (flightIn run0 3 .admitted [] none) 0 0 = some f ∧ f.phase = .admitted ∧ fld (wordAt f.words 0) 63 56 = 3 ∧ mvOk f.desc = false) ∧
    (∀ op ∈ [1, 2, 3, 4], mvOk (moverDesc op) = true) ∧ mvJob run0 0 0 = none ∧ quarterRuns run0 0 = true ∧ moveAhead run0 0 (job1 1) = false ∧
    engBusy (moverIn 1) (.mover 0 0) = false ∧ engFailure (moverIn 1) (.mover 0 0) = none ∧ mvJob (moverIn 1) 0 0 = some (job1 1) :=
  ⟨⟨_, rfl, by decide, by decide, by decide⟩, by decide, by decide, by decide, by decide, by decide, by decide, rfl⟩
set_option maxRecDepth 100000 in
theorem witness_Movers_run : ∀ op ∈ [1, 2, 3, 4], ∃ w, moverGoes (moverIn op) w 0 0 op (job1 op) := by
  intro op h
  simp at h
  rcases h with rfl | rfl | rfl | rfl <;>
    exact ⟨_, ⟨by decide, by decide, by decide, by decide, by decide, ⟨_, _, _, rfl, by decide, rfl, ⟨_, rfl, rfl, by decide, rfl⟩⟩⟩⟩
theorem witness_LinksPicotsAndZeroing : LinkId.hub 0 ∉ run0.mem.badLinks ∧ run0.fab.picots.filter (picotDue run0) = [] ∧
    (∃ u, (held0 (.mover 0 0) run0).fab.picots.filter (picotDue (held0 (.mover 0 0) run0)) = [picot0 (.mover 0 0)] ∧ landPicot (held0 (.mover 0 0) run0) (picot0 (.mover 0 0)) = .ok () u) ∧
    picotDue (held0 (.mover 0 0) run0) { picot0 (.mover 0 0) with failed := some .rights } = true ∧
    wipePending run0 = false ∧ 5 ≤ run0.power.step ∧ run0.power.backup = false ∧ run0.power.sleep = 0 :=
  ⟨by decide, by decide, ⟨_, by decide, rfl⟩, by decide⟩
/-- A collective descriptor of op `op` and `n` members, of FP32, timeout 1 ms, its work area at address 0. -/
def collDesc (op n : Nat) : List Word :=
  [wd (op * 2 ^ 56 + (n - 1) * 2 ^ 30), 32, 0, 4096, 0, 0, 0, at2 1000 32] ++ List.replicate 12 0
/-- Engine 0 of quarter 0 with a member of it. -/
def coll1 (op n : Nat) : CollJob :=
  { queue := 0, entry := 0, desc := (collDesc op n).take 16, hoop := 1, ctx := 1, aspace := 0, det := false, round := 0, sat := 0, begun := true, next := 0, ready := false, load := [], badLoad := [], seen := 0, inCount := 0, freeCount := 0, freeOut := none, finished := false, status := .ok, stop := none, tellDown := false, tellUp := false, heard := 0, since := 0 }
/-- A state with that member, its IN_FLAG and FREE_FLAG a word of a kind with count 1. -/
def collIn (op n kind : Nat) : State :=
  { stored ((leBytes 8 (kind * 2 ^ 60 + 1) ++ leBytes 8 (kind * 2 ^ 60 + 1)).zipIdx.map (fun p => (p.2, p.1))) (mapped 1024 (hoop1 (setContext run0 1 { ctxFree with hoop := 1 }))) with colls := [(0, coll1 op n)] }
theorem witness_Collectives :
    (∃ f, flight (flightIn run0 4 .admitted [] none) 0 0 = some f ∧ f.phase = .admitted ∧ fld (wordAt f.words 0) 63 56 = 4 ∧ clOk f.desc = false) ∧
    (∀ op ∈ [1, 2, 3], ∀ n ∈ [1, 2, 32], clOk (collDesc op n) = true ∧ clJob (collIn op n 1) 0 0 = some (coll1 op n) ∧ clOp (coll1 op n).desc = op) ∧
    hoopRole (slotIn true slotFree) 1 ≠ 1 ∧ clJob run0 0 0 = none ∧ quarterRuns (collIn 1 2 1) 0 = true ∧ clN (coll1 1 2).desc ≠ 1 ∧
    clAwaits (coll1 1 2) = true ∧ (coll1 1 2).heard + 1000 * fld (wordAt (coll1 1 2).desc 7) 63 32 ≤ (at_ 1000000 run0).clk.wick :=
  ⟨⟨_, rfl, by decide, by decide, by decide⟩, by decide, by decide, by decide, by decide, by decide, by decide, by decide⟩
theorem witness_Collectives_flags : (∀ off ∈ [0, 8], ∃ w u, clReadFlag (collIn 1 2 1) 0 0 (coll1 1 2) off = .ok (some w) u ∧ fld w 63 60 = 1 ∧ 0 < fld w 31 0) ∧
    (∀ off ∈ [0, 8], ∃ w u, clReadFlag (collIn 1 2 2) 0 0 (coll1 1 2) off = .ok (some w) u ∧ fld w 63 60 = 2) := by
  constructor <;> intro off h <;> simp at h <;> rcases h with rfl | rfl
  all_goals first | exact ⟨_, _, rfl, by decide, by decide⟩ | exact ⟨_, _, rfl, by decide⟩
/-- A request of flow 8, 64 bytes, waiting at port 3. -/
def waits3 : State := { run0 with floss := { run0.floss with waiting := [{ port := 3, flow := some 8, bytes := 64, arrived := 0, fn := none }] } }
theorem witness_PortsServe : nextServed waits3 3 = some { port := 3, flow := some 8, bytes := 64, arrived := 0, fn := none } ∧
    (∀ r ∈ waits3.floss.waiting, r.port ≠ 4) ∧ waits3.power.slowMem.getD (3 / 3) false = false ∧
    { waits3 with power := { waits3.power with slowMem := [false, true] } }.power.slowMem.getD (3 / 3) false = true := by decide

/-! ### Translation -/

/-- Hoop 1 ACTIVE, with a range block of rows 0 to 63 and quarter 0. -/
def rangeIn : State := setHoop { run0 with regs := [(cellKey 0x300003 1 0, at2 1 60)] } 1 { hoopFree with desc := at2 1 50 :: List.replicate 21 0 }
/-- A range row of one 4 KiB page at address 0, READ, of the quarter store of quarter 0; every word but W0. -/
def rangeWs : List Word := [0, 0, wd 0xC000000000, 0, 0, 0, 0]
/-- `rangeIn` with those words staged in row 3. -/
def stagedRow : State := { rangeIn with regs := rangeIn.regs ++ [(cellKey 0x700001 3 3, wd 0xC000000000)] }
/-- `rangeIn` with the entry in force in row 3, of words with another W0 or W2. -/
def inForce (w0 w4 : Word) : State := { rangeIn with rng := { rangeIn.rng with rows := [(3, [w0, 0, wd 15, wd 0xC000000000, w4, 0, 0, 0])] } }
/-- A translation in progress of an address of hoop 1. -/
def xreq1 (va : Nat) (ph : XPhase) : XReq := { eng := .lan 0, hoop := 1, aspace := 0, ctx := 1, va := va, kind := 0, row := 0, repeated := false, phase := ph }
/-- A state with that translation in progress. -/
def walks (x : XReq) (s : State) : State := { s with rng := { s.rng with xreqs := [x] } }
theorem witness_RangeCommitAnswers : opensB stagedRow .mgmt 0x700001 = true ∧ isManager .mgmt = true ∧
    commitCode (result stagedRow 0) .mgmt 3 (at2 49 58 :: (List.range 7).map (fun i => cell stagedRow 0x700001 3 (i + 1))) = 2 ∧
    commitCode (result stagedRow 0) .mgmt 3 (at2 3 62 :: (List.range 7).map (fun i => cell stagedRow 0x700001 3 (i + 1))) = 0 := by decide
theorem witness_RangeRefusals : commitCode rangeIn .mgmt 3 (at2 3 62 :: rangeWs) = 0 ∧ bit (wordAt (at2 3 62 :: rangeWs) 0) 63 = true ∧
    (List.range 64).find? (fun k => inBlock rangeIn k 3) = some 1 := by decide
theorem witness_WalksEnd (b : Bool) : walkAt (walks (xreq1 5 (.walking b)) rangeIn) 0 (xreq1 5 (.walking b)) := ⟨rfl, by simp [xreq1]⟩
theorem witness_WalksEnd_ends : (∃ e t, walk (inForce (at2 3 62) 0) (xreq1 5 (.walking false)) = (.entry e, t)) ∧
    (∃ t, walk (inForce (at2 5 61) 0) (xreq1 5 (.walking false)) = (.fail .rights, t)) ∧
    (∃ t, walk rangeIn (xreq1 5 (.walking false)) = (.fault 1 0, t)) ∧
    (∃ t, walk (inForce (at2 3 62 ||| at2 1 59) (wd 0xC000000000)) (xreq1 5 (.walking false)) = (.fault 2 3, t)) ∧
    (∃ t, walk { inForce (at2 3 62 ||| at2 1 59) (wd 0xC000000000) with clk := State.reset.clk } (xreq1 5 (.walking false)) = (.wait, t)) ∧
    rangeIn.snuffer.safe = false ∧ rangeIn.rng.xreqs[0]? = none :=
  ⟨⟨_, _, rfl⟩, ⟨_, rfl⟩, ⟨_, rfl⟩, ⟨_, rfl⟩, ⟨_, rfl⟩, by decide, rfl⟩
/-- A waiting record of hoop 1, the ring of hoop 1 as its FR_CONFIG word 1 says. -/
def record1 (w1 : Word) : State :=
  { rangeIn with regs := rangeIn.regs ++ [(cellKey 0x710001 1 1, w1)], rng := { rangeIn.rng with records := [{ type := 1, repeated := false, kind := 0, hoop := 1, aspace := 0, ctx := 1, eng := .lan 0, va := 5, entry := 0, since := 0 }] } }
theorem witness_FaultRings : frBlocked (record1 (at2 1 8)) 1 = false ∧ frBlocked (record1 0) 1 = true ∧
    (∃ r, (record1 (at2 1 8)).rng.records.find? (fun r => decide (r.hoop = 1)) = some r) ∧
    (∃ r, (at_ 8000000 (record1 0)).rng.records.find? (fun r => decide (r.hoop = 1) && decide (r.since + 8000000 ≤ (at_ 8000000 (record1 0)).clk.wick)) = some r) ∧
    (record1 0).snuffer.safe = false ∧ (record1 0).snuffer.resets = [] ∧ opensB rangeIn .mgmt 0x710002 = true ∧ opensB rangeIn .mgmt 0x710001 = true ∧
    reqOwns rangeIn .mgmt 1 = true ∧ frConfigCode rangeIn .mgmt 1 (wd 1) (at2 1 8) ≠ 0 ∧ frEnabled rangeIn 1 = false :=
  ⟨by decide, by decide, ⟨_, rfl⟩, ⟨_, rfl⟩, by decide⟩
/-- `rangeIn` with invalidations of hoop 1 pending. -/
def pends (n : Nat) (ws : List Nat) (s : State) : State :=
  { s with rng := { s.rng with invals := List.replicate n { op := 2, hoop := 1, entry := 0, fence := none, via := none, seq := 3, waits := ws } } }
theorem witness_Invalidations : rangeIn.power.sleep ≠ 2 ∧ bellWaits rangeIn .mgmt = false ∧ reqOwns rangeIn .mgmt 1 = true ∧ reqOwns rangeIn (.vf 0) 1 = false ∧
    bellWaits rangeIn (.vf 0) = false ∧ bellWaits (bellHeld rangeIn (.sqTail (.vf 0) 0 0)) (.vf 0) = true ∧ rangeIn.rng.invals = [] ∧ rangeIn.rng.doorbells = [] ∧
    fld (at2 1 56) 61 56 = 1 ∧ inBlock rangeIn 1 (fld (at2 1 56) 55 40) = true ∧ invalWaits (pends 1 [] rangeIn) { op := 2, hoop := 1, entry := 0, fence := none, via := none, seq := 3, waits := [] } = false ∧
    regN (pends 1 [] rangeIn) 0x700004 1 = 0 ∧ inBlock rangeIn 1 (3 * 2 ^ 28 / 2 ^ 28) = true ∧ rangeIn.rng.counts = [] := by decide
theorem witness_Invalidations_clock : pageClock rangeIn (3 * 2 ^ 28) = .ok () rangeIn := rfl
theorem witness_Invalidations_many (ws : List Nat) : 256 ≤ (pends 256 ws rangeIn).rng.invals.length := (List.length_replicate ..).ge
/-- A request to node 9 outstanding since time 0, of the context of hoop 1. -/
def remote9 : Remote :=
  { id := 7, eng := .lan 0, hoop := 1, ctx := 1, row := 0, aspace := 0, entry := 3, msg := 1, node := 9, eye := 0, cands := [0], tag := 4, epoch := 0, key := 0, addr := 0, len := 8, data := [], poison := false, sent := 0, limit := 100, answer := none }
/-- A state with that request. -/
def asked9 (s : State) : State := { s with fab := { s.fab with remotes := [remote9] } }
theorem witness_Invalidations_waits : remote9 ∈ outstanding (asked9 (pends 1 [7] rangeIn)) ∧
    ∃ i rest, (asked9 (pends 1 [7] rangeIn)).rng.invals = i :: rest ∧ i.hoop = 1 ∧ remote9.id ∈ i.waits := ⟨by decide, _, _, rfl, by decide, by decide⟩
theorem witness_InvalidationDropsTranslations : (asked9 rangeIn).power.sleep ≠ 2 ∧ bellWaits (asked9 rangeIn) .mgmt = false ∧
    reqOwns (asked9 rangeIn) .mgmt 1 = true ∧ (asked9 rangeIn).rng.invals = [] ∧ (asked9 rangeIn).rng.doorbells = [] ∧ remote9 ∈ outstanding (asked9 rangeIn) := by decide

/-! ### Eyelets and the fabric -/

/-- Node 3, hoop 1 of fabric ID 5 with node 9 as its peer and quarter 0, eyelet 0 changed from DOWN as `f` says. -/
def eyeIn (f : Eyelet → Eyelet) : State :=
  modEyelet { rangeIn with regs := rangeIn.regs ++ [(cellKey 0x310001 0 0, wd 0x8003)], fab := { run0.fab with banks := [{ state := .current, epoch := 0, routes := [], hoops := [(1, [wd (5 * 2 ^ 48 + 2 ^ 44), wd 9, 0, 0])] }, bankEmpty] } } 0 f
/-- Eyelet 0 in a link state. -/
def link (n : Nat) (b : Bool) : State := eyeIn (fun y => { y with state := n, retrain := b, version := 2, cfg := 0 })
/-- A flit of a body of 252 bytes with its CRC. -/
def flitOf (xs : List Byte) : List Byte := xs ++ leBytes 4 (crc32 xs)
/-- A flit of SEQ 0 whose first message begins in unit 0, and one of SEQ 1. -/
def flit0 : List Byte := flitOf (List.replicate 252 0)
def flit1 : List Byte := flitOf (List.replicate 10 0 ++ [0, 8] ++ List.replicate 240 0)
theorem witness_EyeletLinks : opensB (link 0 false) .mgmt 0x320001 = true ∧
    eyeletCode .mgmt 0 (wd (fld (wd 3) 3 0 + fld (wd 3) 31 16 * 2 ^ 16)) = 0 ∧ bit (wd (fld (wd 3) 3 0 + fld (wd 3) 31 16 * 2 ^ 16)) 0 = true ∧
    eyeletCode .mgmt 0 (wd (fld (wd 1) 3 0 + fld (wd 1) 31 16 * 2 ^ 16)) ≠ 0 ∧ (eyelet (link 0 false) 0).state = 0 ∧ 0 < (link 0 false).fab.eyes.length ∧
    (eyelet (link 1 false) 0).state = 1 ∧ (eyelet (link 1 false) 0).retrain = false ∧ (link 1 false).keeper.conf = false ∧
    { link 1 false with keeper := { run0.keeper with conf := true } }.keeper.conf = true ∧ (eyelet (link 1 true) 0).retrain = true ∧
    (eyelet (link 1 false) 0).version ≠ 0 ∧ 3 % 256 = ownNode (link 1 false) ∧ 9 % 256 ≠ ownNode (link 1 false) ∧ bit (cell (link 1 false) 0x310001 0 0) 15 = true ∧
    eyeUp (link 2 false) 0 = true ∧ eyeUp (link 0 false) 0 = false ∧ (link 1 true).snuffer.safe = false ∧ (eyelet (at_ 20000000 (link 1 true)) 0).since + 20000000 ≤ (at_ 20000000 (link 1 true)).clk.wick ∧
    (eyelet (eyeIn (fun y => { y with txAsked := some 2, rxAsked := some 4 })) 0).txAsked = some 2 ∧ (eyelet (eyeIn (fun y => { y with txAsked := some 2, rxAsked := some 4 })) 0).rxAsked = some 4 ∧
    2 ∉ (eyelet (link 2 false) 0).failing ∧ 2 ∈ (eyelet (link 2 false) 0).rxMap ∧ bit (eyelet (link 2 false) 0).cfg 3 = false := by decide
theorem witness_EyeletLinks_flits : flitGood [] = false ∧ flitGood flit0 = true ∧ flitGood flit1 = true ∧ flitFld flit1 91 80 ≠ (eyelet (link 2 false) 0).rxNext ∧
    flitFld flit0 91 80 = (eyelet (link 2 false) 0).rxNext ∧ flitFld flit0 48 45 < 15 := by decide +kernel
set_option maxRecDepth 100000 in
theorem witness_EyeletLinks_taken : (∃ u body, u = modEyelet (takeHeader (countE (link 2 false) 0 1 1) 0 flit0) 0 (fun y => { y with rxNext := (y.rxNext + 1) % 4096 }) ∧
      flitBody u flit0 = some body ∧ (eyelet u 0).rxBytes = []) ∧
    (eyelet (takeHeader (countE (link 2 false) 0 1 1) 0 flit0) 0).rxNext = flitFld flit0 91 80 :=
  ⟨⟨_, _, rfl, rfl, by decide +kernel⟩, by decide +kernel⟩
theorem witness_EyeletLinks_nak : ∃ s u, s = eyeIn (fun y => { y with state := 2, version := 2, replay := [(3, flit0)] }) ∧ eyeUp s 0 = true ∧ flitGood flit0 = true ∧
    u = takeHeader (countE s 0 1 1) 0 flit0 ∧ (eyelet u 0).replay ≠ [] := ⟨_, _, rfl, by decide, by decide +kernel, rfl, by decide +kernel⟩
theorem witness_EyeletLinks_resends : (∃ n ∈ (eyelet (eyeIn (fun y => { y with resends := [1, 8] })) 0).resends, 8 ≤ n) ∧
    ¬(∃ n ∈ (eyelet (eyeIn (fun y => { y with resends := [7, 7] })) 0).resends, 8 ≤ n) := by decide
/-- Word 0 of a message of node 9 to the hoop of fabric ID 5: type, data length, tag. -/
def msgW0 (ty len tag : Nat) : Nat := ty * 2 ^ 60 + (len - 1) * 2 ^ 44 + tag * 2 ^ 32 + 9 * 2 ^ 16 + 5
/-- Eyelet 0 up, with a message of two words and 16 bytes of data waiting. -/
def gets (w0 w1 : Nat) : State :=
  eyeIn (fun y => { y with state := 2, version := 2, rxMsgs := [{ num := 0, key := 0, bytes := leBytes 8 w0 ++ leBytes 8 w1 ++ List.replicate 16 0 }] })
/-- A word 1 that names the quarter store of quarter 0 of node 3, or of node 4. -/
def to3 (n : Nat) : Nat := n * 2 ^ 44 + 0xC000000000
theorem witness_ElpMessages : (∀ k ∈ [1, 2, 3, 4, 8, 9], headMsg run0 0 k = none) ∧ run0.snuffer.safe = false ∧
    opensB run0 .mgmt 0x310007 = true ∧ isManager .mgmt = true ∧ heldPicots (gets (msgW0 3 8 0) (to3 3)) < 64 := by decide
set_option maxRecDepth 100000 in
theorem witness_ElpMessages_refused : (∃ rx m, headMsg (gets (msgW0 1 8 0) (to3 4)) 0 1 = some (rx, m) ∧ memoryRequest (gets (msgW0 1 8 0) (to3 4)) m m.len = .error .rights) ∧
    (∃ rx m, headMsg (gets (msgW0 2 8 0) (to3 4)) 0 2 = some (rx, m) ∧ memoryRequest (gets (msgW0 2 8 0) (to3 4)) m m.data.length = .error .rights) ∧
    (∃ rx m, headMsg (gets (msgW0 3 8 0) (to3 4)) 0 3 = some (rx, m) ∧ memoryRequest (gets (msgW0 3 8 0) (to3 4)) m 8 = .error .rights) :=
  ⟨⟨_, _, rfl, rfl⟩, ⟨_, _, rfl, rfl⟩, ⟨_, _, rfl, rfl⟩⟩
set_option maxRecDepth 100000 in
theorem witness_ElpMessages_read : ∃ s rx m a h u r, s = gets (msgW0 1 8 0) (to3 3) ∧ headMsg s 0 1 = some (rx, m) ∧ memoryRequest s m m.len = .ok (h, a) ∧
    behindPicot s rx m a m.len = false ∧ localReady s (peerWho s h rx.key m) a m.len false false = .ok () u ∧ r = readRun u (peerWho s h rx.key m) a m.len 0 :=
  ⟨_, _, _, _, _, _, _, rfl, rfl, rfl, by decide, rfl, rfl⟩
set_option maxRecDepth 100000 in
theorem witness_ElpMessages_write : ∃ s rx m a h u, s = gets (msgW0 2 8 0) (to3 3) ∧ headMsg s 0 2 = some (rx, m) ∧ memoryRequest s m m.data.length = .ok (h, a) ∧
    behindPicot s rx m a m.data.length = false ∧ localReady s (peerWho s h rx.key m) a m.data.length true false = .ok () u :=
  ⟨_, _, _, _, _, _, rfl, rfl, rfl, by decide, rfl⟩
set_option maxRecDepth 100000 in
theorem witness_ElpMessages_picot : ∃ rx m h a, headMsg (gets (msgW0 3 8 0) (to3 3)) 0 3 = some (rx, m) ∧ memoryRequest (gets (msgW0 3 8 0) (to3 3)) m 8 = .ok (h, a) :=
  ⟨_, _, _, _, rfl, rfl⟩
set_option maxRecDepth 100000 in
theorem witness_ElpMessages_fence : (∃ rx m b k, headMsg (gets (msgW0 4 8 0) 0) 0 4 = some (rx, m) ∧ requestHoop (gets (msgW0 4 8 0) 0) m = .ok (b, k) ∧
      (fence (gets (msgW0 4 8 0) 0) (m.addr % 16384)).valid = false) ∧
    (∃ s rx m b k, s = setFence (gets (msgW0 4 8 0) 0) 0 { fence (fenced0 0 false run0) 0 with remote := true } ∧ headMsg s 0 4 = some (rx, m) ∧ requestHoop s m = .ok (b, k) ∧
      (fence s (m.addr % 16384)).valid = true ∧ (fence s (m.addr % 16384)).remote = true ∧ (fence s (m.addr % 16384)).alias_ = false ∧
      bankFhid b (fence s (m.addr % 16384)).hoop = m.fhid) :=
  ⟨⟨_, _, _, _, rfl, rfl, by decide⟩, ⟨_, _, _, _, _, rfl, rfl, rfl, by decide, by decide, by decide, by decide⟩⟩
set_option maxRecDepth 100000 in
theorem witness_ElpMessages_answers : (∃ rx m r, headMsg (asked9 (gets (msgW0 8 8 4) 0)) 0 8 = some (rx, m) ∧ respondedTo (asked9 (gets (msgW0 8 8 4) 0)) 0 m.tag true = some r) ∧
    (∃ s rx m r, s = { asked9 (gets (msgW0 9 1 4) 0) with fab := { (gets (msgW0 9 1 4) 0).fab with remotes := [{ remote9 with msg := 2 }] } } ∧ headMsg s 0 9 = some (rx, m) ∧ respondedTo s 0 m.tag false = some r) ∧
    remote9 ∈ outstanding (at_ 100 (asked9 run0)) ∧ remote9.sent + remote9.limit ≤ (at_ 100 (asked9 run0)).clk.wick :=
  ⟨⟨_, _, _, rfl, rfl⟩, ⟨_, _, _, _, rfl, rfl, rfl⟩, by decide, by decide⟩

/-! ### Hoops, epochs and units -/

/-- Hoop 1 in a state, its descriptor M-lantern 0 and quarter 0, and that row staged with W5 as given. -/
def hoopIn (st : Nat) (w5 : Word) (pend : Option (List Word)) : State :=
  let s := setHoop { run0 with mem := { run0.mem with zeroed := true }, regs := [(cellKey 0x300001 1 0, at2 65 50), (cellKey 0x300001 1 1, 1), (cellKey 0x300001 1 5, w5), (cellKey 0x300003 1 0, at2 st 60)] } 1
    { hoopFree with desc := [at2 65 50, 1] ++ List.replicate 14 0, pending := pend }
  { s with regs := s.regs.filter (fun p => p.2 ≠ 0) }
/-- The word of a command to hoop 1. -/
def hoopW : Word := at2 1 54
set_option maxRecDepth 100000 in
theorem witness_HoopCommands : opensB (hoopIn 1 0 none) .mgmt 0x300002 = true ∧ opensB (hoopIn 1 0 none) (.vf 0) 0x300002 = true ∧ isManager .mgmt = true ∧ fld (hoopW ||| 1) 53 0 ≠ 0 ∧ fld hoopW 53 0 = 0 ∧
    bindCode (result (hoopIn 1 0 none) 0) 1 true = 0 ∧ bindCode (result (hoopIn 0 0 none) 0) 1 false = 0 ∧ hoopState (hoopIn 1 0 none) 1 = 1 ∧
    hoopCtxs (hoopIn 1 0 none) 1 = [] ∧ fhidLive (hoopIn 1 0 none) 1 = false ∧ hoopState (hoopIn 2 0 (some [])) 1 = 2 ∧ (hoop (hoopIn 2 0 (some [])) 1).pending = some [] ∧
    opensB run0 .mgmt 0x310003 = true ∧ opensB run0 .mgmt 0x310001 = true ∧ nodeIdOk (result run0 0) = true ∧ (eyelet (link 1 false) 0).state ≠ 0 ∧
    opensB (link 1 false) .mgmt 0x310001 = true := by decide
/-- Unit 3 of bobbin 0 waits for its scrub. -/
def scrubs3 : State := { run0 with scrubs := [(0, [3])] }
/-- Hoop 1 ACTIVE with its lantern retired. -/
def retired0 : State := modLantern (hoopIn 1 0 none) 0 (fun x => { x with retired := true })
/-- A bank DRAINING since time 0. -/
def drains : State :=
  { run0 with fab := { run0.fab with banks := [{ state := .current, epoch := 1, routes := [], hoops := [] }, { state := .draining, epoch := 0, routes := [], hoops := [] }], drained := false, drainMs := 1, openAt := 0 } }
set_option maxRecDepth 100000 in
theorem witness_HoopEvents : run0.snuffer.safe = false ∧ (hoop (hoopIn 2 0 (some [])) 1).pending = some [] ∧ hoopState (hoopIn 2 0 (some [])) 1 = 2 ∧ hoopAtSeam (hoopIn 2 0 (some [])) 1 = true ∧
    hoopState (hoopIn 3 0 none) 1 = 3 ∧ keysRise (hoopIn 3 0 none).hoops = true ∧ hoopState (hoopIn 1 0 none) 1 ≠ 3 ∧ tget scrubs3.scrubs 0 = some [3] ∧
    keysRise scrubs3.scrubs = true ∧ pll scrubs3 (bobQuarter 0) = .running ∧ pll { scrubs3 with clk := State.reset.clk } (bobQuarter 0) ≠ .running ∧ tget run0.scrubs 0 = none ∧ hoopLive retired0 1 = true ∧ dropRetired retired0 (hoop retired0 1).desc ≠ (hoop retired0 1).desc ∧
    hoopAtSeam retired0 1 = true ∧ dropRetired (hoopIn 1 0 none) (hoop (hoopIn 1 0 none) 1).desc = (hoop (hoopIn 1 0 none) 1).desc ∧ bankIn (at_ 1000000 drains) .draining = some 1 ∧
    (at_ 1000000 drains).fab.drained = false ∧ drains.fab.openAt + 1000000 * drains.fab.drainMs ≤ (at_ 1000000 drains).clk.wick ∧ bankIn run0 .draining = none := by decide
set_option maxRecDepth 100000 in
theorem witness_HoopEvents_seam : hoopAtSeam (flightIn { rangeIn with regs := rangeIn.regs ++ [(cellKey 0x900012 0 0, at2 1 60)] } 1 .running [] none) 1 = false := by decide

/-! ### Queues, entries and images -/

/-- Row 0 of QUEUE_TABLE: hoop 1, context 1, rings of 16 at addresses 0 and 8192. -/
def queueRow : List Word := [wd (2 ^ 56 + 2 ^ 55 + 2 ^ 49 + 2 ^ 39 + 4 * 2 ^ 34 + 4 * 2 ^ 29), 0, wd 8192, 0, 0, 0, 0, 0]
/-- Hoop 1 ACTIVE with context 1 RESIDENT, that row staged, queue 0 in a state and as given. -/
def queueIn (st : Nat) (x : Queue) : State :=
  setQueue (setContext (setHoop { run0 with regs := [(cellKey 0x300003 1 0, at2 1 60), (cellKey 0x800003 1 0, at2 1 60), (cellKey 0x900010 0 0, wordAt queueRow 0), (cellKey 0x900010 0 2, 8192)] ++ (if st = 0 then [] else [(cellKey 0x900012 0 0, at2 st 60)]) } 1
    { hoopFree with desc := [at2 65 50, 1, 0, 0, 0, 1] ++ List.replicate 10 0 }) 1 { ctxFree with hoop := 1 }) 0 { x with row := queueRow }
/-- A queue being destroyed. -/
def destroying : Queue := { queueFree with destroy := some { abort := false, fence := none, via := none, tail := 0, was := 2, silent := false, lost := false } }
theorem witness_QueueCommands : opensB (queueIn 0 queueFree) .mgmt 0x900011 = true ∧ queueCode (result (queueIn 0 queueFree) 0) .mgmt (setFld 0 63 60 1) = 0 ∧
    queueCode (result (queueIn 1 queueFree) 0) .mgmt (setFld 0 63 60 1) ≠ 0 ∧ queueCode (result (queueIn 1 queueFree) 0) .mgmt (setFld 0 63 60 2) = 0 ∧
    queueCode (result (queueIn 0 queueFree) 0) .mgmt (setFld 0 63 60 2) ≠ 0 ∧ queueCode (result (queueIn 1 queueFree) 0) .mgmt (setFld 0 63 60 3) = 0 ∧
    queueCode (result (queueIn 0 queueFree) 0) .mgmt (setFld 0 63 60 3) ≠ 0 ∧ queueCode (result (queueIn 2 queueFree) 0) .mgmt (setFld 0 63 60 4) = 0 ∧
    queueCode (result (queueIn 0 queueFree) 0) .mgmt (setFld 0 63 60 4) ≠ 0 ∧ (queueIn 1 queueFree).power.sleep ≠ 2 ∧ bellWaits (queueIn 1 queueFree) .mgmt = false ∧
    bellWaits (bellHeld (queueIn 1 queueFree) (.sqTail .mgmt 0 0)) .mgmt = true ∧ ownsQueue (queueIn 1 queueFree) .mgmt 0 = true ∧ queueState (queueIn 0 queueFree) 0 = 0 ∧
    queueState (queueIn 4 destroying) 0 = 4 ∧ queueState (queueIn 1 queueFree) 0 = 1 ∧ fld (wd 16) 31 0 ≠ (queue (queueIn 1 queueFree) 0).tail ∧
    sub32 (fld (wd 16) 31 0) (queue (queueIn 1 queueFree) 0).tail ≤ sqSize (queue (queueIn 1 queueFree) 0) - sub32 (queue (queueIn 1 queueFree) 0).tail (sqHead (queue (queueIn 1 queueFree) 0)) ∧
    ¬ sub32 (fld (wd 17) 31 0) (queue (queueIn 1 queueFree) 0).tail ≤ sqSize (queue (queueIn 1 queueFree) 0) - sub32 (queue (queueIn 1 queueFree) 0).tail (sqHead (queue (queueIn 1 queueFree) 0)) ∧
    sub32 (fld (wd 0) 31 0) (queue (queueIn 1 queueFree) 0).cqHead ≤ sub32 (queue (queueIn 1 queueFree) 0).written (queue (queueIn 1 queueFree) 0).cqHead ∧
    ¬ sub32 (fld (wd 1) 31 0) (queue (queueIn 1 queueFree) 0).cqHead ≤ sub32 (queue (queueIn 1 queueFree) 0).written (queue (queueIn 1 queueFree) 0).cqHead := by decide
theorem witness_QueueCommands_done : ∃ d, (queueIn 4 destroying).snuffer.safe = false ∧ (queue (queueIn 4 destroying) 0).destroy = some d ∧ queueDrained (queue (queueIn 4 destroying) 0) = true ∧
    d.silent = false ∧ d.was = 2 ∧ d.fence = none ∧ keysRise (queueIn 4 destroying).queues = true := ⟨_, by decide, rfl, by decide, rfl, rfl, rfl, by decide⟩
/-- A queue with one entry submitted, and that with it read, its first word of type `ty`, its waits fence 0 for 5 where `b`. -/
def submits : Queue := { queueFree with tail := 1 }
def fronts (ty : Nat) (b : Bool) : Queue := { queueFree with tail := 1, entries := [(0, [at2 ty 56 ||| (if b then at2 1 50 else 0), 0, 0, 5] ++ List.replicate 12 0)] }
/-- The ring mapped to the quarter store. -/
def ringMapped (s : State) : State := mapped 1028 s
/-- The translation of the ring has failed. -/
def ringFails (s : State) : State := walks { xreq1 0 (.failed .xlateFault) with eng := .fe } s
def cqFails (s : State) : State := walks { xreq1 8192 (.failed .xlateFault) with eng := .fe, kind := 1 } s
theorem witness_QueueEntries : run0.snuffer.safe = false ∧ queueState (queueIn 1 submits) 0 = 1 ∧ sqHead (queue (queueIn 1 submits) 0) ≠ (queue (queueIn 1 submits) 0).tail ∧
    queueRuns (queueIn 1 submits) 0 = true ∧ isQf2 (queue (queueIn 1 submits) 0) = false ∧ sqHead (queue (queueIn 1 queueFree) 0) = (queue (queueIn 1 queueFree) 0).tail ∧
    (queue (queueIn 1 (fronts 2 false)) 0).destroy = none ∧ (queue (queueIn 1 queueFree) 0).entries = [] ∧ entryRulesOk 0 false [at2 255 56] = false ∧
    entryRulesOk (hoopRole (queueIn 1 (fronts 2 false)) 1) false (at2 2 56 :: List.replicate 15 0) = true ∧ nextRecord (queueIn 1 queueFree) 0 = none := by decide
set_option maxRecDepth 100000 in
theorem witness_QueueEntries_read : (∃ ws u, feWords (ringMapped (queueIn 1 submits)) (feAcc (ringMapped (queueIn 1 submits)) 0 (houseClass (ringMapped (queueIn 1 submits)) (queueHoop (ringMapped (queueIn 1 submits)) 0)))
      (ent (queue (ringMapped (queueIn 1 submits)) 0).row 1 + 128 * (sqHead (queue (ringMapped (queueIn 1 submits)) 0) % sqSize (queue (ringMapped (queueIn 1 submits)) 0))) 16 = .ok ws u) ∧
    (∃ u, feWords (ringFails (queueIn 1 submits)) (feAcc (ringFails (queueIn 1 submits)) 0 (houseClass (ringFails (queueIn 1 submits)) (queueHoop (ringFails (queueIn 1 submits)) 0)))
      (ent (queue (ringFails (queueIn 1 submits)) 0).row 1 + 128 * (sqHead (queue (ringFails (queueIn 1 submits)) 0) % sqSize (queue (ringFails (queueIn 1 submits)) 0))) 16 = .fail .xlateFault u) :=
  ⟨⟨_, _, rfl⟩, ⟨_, rfl⟩⟩
theorem admits_of (r : Bool × State) (h : r.1 = true) : r = (true, r.2) := by
  obtain ⟨a, b⟩ := r
  simpa using h
theorem witness_QueueEntries_admit : ∃ k ws back u, (queue (queueIn 1 (fronts 2 false)) 0).entries = (k, ws) :: back ∧ admissible (queueIn 1 (fronts 2 false)) 0 ws = (true, u) ∧
    entryGate (queueIn 1 (fronts 2 false)) 0 k ws = .pass :=
  ⟨_, _, _, _, rfl, admits_of _ (by decide), by
    simp only [entryGate]
    exact if_pos (by decide)⟩
theorem witness_QueueEntries_flight (ty : Nat) : ∃ f, flight (flightIn run0 ty .admitted [] none) 0 0 = some f ∧ f.phase = .admitted := ⟨_, rfl, rfl⟩
theorem witness_QueueEntries_types : ∀ ty ∈ [2, 7, 8, 9], ∃ f, flight (flightIn run0 ty .admitted [] none) 0 0 = some f ∧ entryOp f.words = ty ∧ ent f.words 8 = 0 ∧ (hoop (flightIn run0 ty .admitted [] none) 1).images = [] := by
  intro ty h
  simp at h
  rcases h with rfl | rfl | rfl | rfl <;> exact ⟨_, rfl, by decide, by decide, rfl⟩
/-- An image of one empty data section, as R153 and R154 lay it out. -/
def imageBytes1 : List Byte :=
  leBytes 4 0x4B494D47 ++ leBytes 2 1 ++ [0, 0] ++ leBytes 8 0 ++ leBytes 4 0x4160 ++ leBytes 4 1 ++ leBytes 8 128 ++ leBytes 32 0 ++ [3] ++ leBytes 31 0 ++ leBytes 160 0
/-- An image held for entry 0 of queue 0, loading or loaded under handle 0. -/
def image256 (b : Bool) : Image := { queue := 0, entry := 0, handle := 0, loading := b, parts := [(0xC000000000, 256)], code := [] }
/-- Entry 0 of queue 0, an IMAGE_LOAD or IMAGE_UNLOAD, its status and place in its course as given; hoop 1 holds the image. -/
def imageIn (ty : Nat) (ph : Phase) (aux : Nat) (st : Status) (imgs : List Image) (bs : List Byte) : State :=
  let s := queueIn 1 { queueFree with flights := [{ entry := 0, words := [at2 ty 56, 0, 0, 0, 0, 0, 0, 0, 64], desc := [], phase := ph, status := st, origin := 0, detail := 0, start := 0, doneAt := 0, stitch := none, aux := aux, waitOn := [], wrote := [] }] }
  let s := modHoop s 1 (fun x => { x with images := imgs })
  { s with rng := { s.rng with rows := [(0, [at2 7 61, 0, wd 15, 0, 0, 0, 0, 0])] }, mem := { s.mem with zeroed := true, cells := bs.zipIdx.map (fun p => (0xC000000000 + p.2, p.1)) } }
/-- An admitted IMAGE_LOAD whose destination is held. -/
theorem witness_QueueEntries_image : ∃ f i, flight (imageIn 8 .admitted 0 .ok [image256 true] []) 0 0 = some f ∧ f.phase = .admitted ∧ entryOp f.words = 8 ∧
    loadingImage (imageIn 8 .admitted 0 .ok [image256 true] []) (queueHoop (imageIn 8 .admitted 0 .ok [image256 true] []) 0) 0 0 = some i ∧
    loadingImage (imageIn 8 .admitted 0 .ok [] []) (queueHoop (imageIn 8 .admitted 0 .ok [] []) 0) 0 0 = none := ⟨_, _, rfl, rfl, by decide, rfl, rfl⟩
/-- The words of an IMAGE_LOAD of `n` bytes to address 0. -/
def loadWords (n : Nat) : List Word := [at2 8 56, 0, 0, 0, 0, 0, 0, 0, wd n, 0, 0, 0, 0, 0, 0, 0]
set_option maxRecDepth 100000 in
theorem witness_QueueEntries_front : entryOp (loadWords 0) = 8 ∧ ent (loadWords 0) 8 = 0 ∧ ent (loadWords 64) 8 ≠ 0 ∧
    (∃ parts u, imageDest (imageIn 8 .admitted 0 .ok [image256 true] []) 0 (ent (loadWords 64) 7) (ent (loadWords 64) 8) = .ok parts u) ∧
    (∃ st u, imageDest (ringFails (queueIn 1 queueFree)) 0 (ent (loadWords 64) 7) (ent (loadWords 64) 8) = .fail st u) ∧
    imageHolds (modHoop run0 1 (fun x => { x with images := [image256 true] })) 0xC000000000 64 = true := by
  refine ⟨by decide, by decide, by decide, ⟨_, _, rfl⟩, ⟨_, _, rfl⟩, by decide +kernel⟩
/-- A completed FENCE, its record next; the queue in a state, resuming where `b`, its confirming read outstanding where `c`. -/
def recorded (st : Nat) (b c : Bool) : State :=
  let s := queueIn st { queueFree with tail := 1, admitted := 1, order := [0], resuming := b, flights := [{ entry := 0, words := [at2 7 56, 0, 0, 0, 0, 0, 0, 0], desc := [], phase := .done, status := .ok, origin := 0, detail := 0, start := 0, doneAt := 0, stitch := none, aux := 0, waitOn := [], wrote := [] }] }
  { s with fab := { s.fab with confirms := if c then [(.work 0 0, 0)] else [] } }
set_option maxRecDepth 100000 in
theorem witness_QueueEntries_record : (∃ f u, nextRecord (ringMapped (recorded 1 false false)) 0 = some f ∧ (∀ c ∈ (ringMapped (recorded 1 false false)).fab.confirms, c.1 ≠ .work 0 f.entry) ∧
      putRecord (ringMapped (recorded 1 false false)) 0 (flightRecord (queue (ringMapped (recorded 1 false false)) 0) f) = .ok () u) ∧
    (∃ f st u, nextRecord (cqFails (recorded 1 false false)) 0 = some f ∧ putRecord (cqFails (recorded 1 false false)) 0 (flightRecord (queue (cqFails (recorded 1 false false)) 0) f) = .fail st u) ∧
    (∃ f, nextRecord (recorded 1 false true) 0 = some f ∧ (.work 0 f.entry, 0) ∈ (recorded 1 false true).fab.confirms) ∧
    (∃ f, nextRecord (recorded 2 true false) 0 = some f) ∧ queueState (recorded 1 false true) 0 = 1 ∧ queueState (recorded 2 true false) 0 = 2 ∧
    (queue (recorded 2 true false) 0).resuming = true ∧ (queue (recorded 2 false false) 0).resuming = false ∧ (queue (queueIn 1 submits) 0).destroy = none := by
  refine ⟨⟨_, _, rfl, by decide, rfl⟩, ⟨_, _, _, rfl, rfl⟩, ⟨_, rfl, by decide⟩, ⟨_, rfl⟩, by decide⟩
set_option maxRecDepth 100000 in
theorem witness_QueueEntries_load : ∃ s f parts u, s = imageIn 8 .admitted 0 .ok [] [] ∧ flight s 0 0 = some f ∧ f.phase = .admitted ∧ entryOp f.words = 8 ∧ ent f.words 8 ≠ 0 ∧
    imageDest s 0 (ent f.words 7) (ent f.words 8) = .ok parts u ∧ parts = [(0, 64)] ∧ (∀ p ∈ parts, imageHolds u p.1 p.2 = false) :=
  ⟨_, _, [(0, 64)], _, rfl, rfl, rfl, by decide +kernel, by decide +kernel, rfl, rfl, by decide +kernel⟩
theorem witness_QueueEntries_unload : ∃ f i, flight (imageIn 9 .admitted 0 .ok [image256 false] []) 0 0 = some f ∧ f.phase = .admitted ∧ entryOp f.words = 9 ∧
    i ∈ (hoop (imageIn 9 .admitted 0 .ok [image256 false] []) (queueHoop (imageIn 9 .admitted 0 .ok [image256 false] []) 0)).images ∧ i.loading = false ∧ i.handle = fld (wordAt f.words 0) 3 0 ∧ f.waitOn = [] :=
  ⟨_, image256 false, rfl, rfl, by decide, by decide, rfl, by decide, rfl⟩
theorem witness_QueueEntries_failed : ∃ f i, flight (imageIn 8 .running 2 .rights [image256 true] []) 0 0 = some f ∧ entryOp f.words = 8 ∧ f.phase = .running ∧ f.aux = 2 ∧
    loadingImage (imageIn 8 .running 2 .rights [image256 true] []) (queueHoop (imageIn 8 .running 2 .rights [image256 true] []) 0) 0 0 = some i ∧ f.status = .rights :=
  ⟨_, _, rfl, by decide, rfl, rfl, rfl, rfl⟩
theorem parts_of (r : (List Byte × Bool) × State) (h : r.1.2 = false) : r = ((r.1.1, false), r.2) := by
  obtain ⟨⟨a, b⟩, c⟩ := r
  simpa using h
set_option maxRecDepth 100000 in
theorem image1_ok (s : State) (h : Config.signatureOk 0 (imageBytes1.take 128) ((imageBytes1.drop 128).take 96) (leNat s.keeper.imageKey) = true)
    (h2 : regN s 0x11000B 0 = 0) (h3 : regN s 0x11000A 0 = 0) : validateImage s imageBytes1 = .ok := by
  have a : imgFld imageBytes1 0 4 = 0x4B494D47 ∧ imgFld imageBytes1 4 2 = 1 ∧ imgFld imageBytes1 16 4 = 0x4160 ∧ imgFld imageBytes1 7 1 = 0 ∧
      imgFld imageBytes1 40 24 = 0 ∧ imgFld imageBytes1 24 8 = 128 ∧ imageBytes1.length = 256 ∧ imgFld imageBytes1 6 1 = 0 := by decide +kernel
  have b : sectionsOk imageBytes1 = true ∧ imageOpsOk imageBytes1 = true := by decide +kernel
  have c : imageTrusted s imageBytes1 = true := by
    simp only [imageTrusted, a.2.2.2.1, a.2.2.2.2.2.1, h2, h3]
    simpa [sigBytes] using h
  simp [validateImage, a, b, c, sigBytes]
/-- The queue's entry that loads that image, and what the front end reads of its parts. -/
def loads1 : State := imageIn 8 .running 2 .ok [image256 true] imageBytes1
def parts1 : (List Byte × Bool) × State :=
  readParts loads1 { eng := .fe, hoop := some (queueHoop loads1 0), ctx := some (queueCtx loads1 0), flow := houseFlow loads1 (queueHoop loads1 0) } (image256 true).parts
set_option maxRecDepth 100000 in
theorem witness_QueueEntries_loaded : ∃ f i, flight loads1 0 0 = some f ∧ f.aux = 2 ∧ f.status = .ok ∧ loadingImage loads1 (queueHoop loads1 0) 0 0 = some i ∧ i = image256 true ∧
    parts1 = ((imageBytes1, false), parts1.2) ∧ freeHandle parts1.2 (queueHoop loads1 0) = some 0 ∧
    (Config.signatureOk 0 (imageBytes1.take 128) ((imageBytes1.drop 128).take 96) (leNat parts1.2.keeper.imageKey) = true → validateImage parts1.2 imageBytes1 = .ok) := by
  have h : parts1.1.1 = imageBytes1 ∧ parts1.1.2 = false := by decide +kernel
  refine ⟨_, _, rfl, rfl, rfl, rfl, rfl, ?_, by decide +kernel, fun k => image1_ok _ k (by decide +kernel) (by decide +kernel)⟩
  have p := parts_of parts1 h.2
  rwa [h.1] at p
/-- Sixteen images loaded. -/
theorem witness_QueueEntries_full : freeHandle (modHoop run0 1 (fun x => { x with images := (List.range 16).map (fun k => { image256 false with handle := k }) })) 1 = none ∧
    validateImage run0 [] = .format := by decide +kernel

/-! ### Host ports and the debug port -/

/-- Hoop 1 ACTIVE in memory role with unit 0 of bobbin 0, bound by decoder 0 of port 0 in CXL mode; VF 0 of port 0 enabled, fronting it. -/
def memIn : State :=
  let s := setHoop { run0 with regs := [(cellKey 0x300003 1 0, at2 1 60), (cellKey 0x900004 0 0, wd 1)], mem := { run0.mem with zeroed := true } } 1 { hoopFree with desc := [at2 65 50 ||| at2 1 54, 0, 0, 0, 0, 1] ++ List.replicate 10 0 }
  let s := modPort s 0 (fun x => { x with cxl := true, perst := false, trained := true, vfEnable := true, decoders := [{ hoop := some 1, base := 0, size := 4096, ways := 1, gran := 256 }] })
  { s with vfs := [(0, { hoop := some 1, first := 0, count := 64, tdisp := .locked })] }
/-- The same where an image holds all of it. -/
def memHeld : State := modHoop memIn 1 (fun x => { x with images := [{ queue := 0, entry := 0, handle := 0, loading := false, parts := [(0, 4096)], code := [] }] })
/-- The same in confidential mode. -/
def memConf : State := { memIn with keeper := { memIn.keeper with conf := true } }
theorem witness_HostPorts : vfEnabled memIn 0 = true ∧ vfHoop memIn 0 = some 1 ∧ hoopLive memIn 1 = true ∧ vfSplit memIn + regN memIn 0x900004 1 ≤ 1 ∧ memIn.ports.length = 2 ∧
    (port memIn 0).perst = false ∧ perstHeld { memIn with power := { memIn.power with backup := true } } = true ∧ perstHeld memIn = false ∧ (port run0 1).perst = true ∧
    (port memIn 0).ready = true ∧ 5 ≤ memIn.power.step ∧ regN memIn 0x900001 0 = 0 ∧ 1 ≤ regN memIn 0x900002 0 ∧ (port memIn 0).cxl = true ∧ (port memIn 0).trained = true ∧
    memRun run0 0 0 0 8 = none ∧ memRun memIn 0 0 0 8 = some (1, 0) ∧ keyRetired memIn (memWho memIn 0 1) 0 = false ∧ imageHolds memIn 0 8 = false ∧
    imageHolds memHeld 0 8 = true ∧ memRun memHeld 0 0 0 8 = some (1, 0) ∧ windowFence memIn .mgmt 0 = true ∧ (fence memIn 0).valid = false ∧ keysRise memIn.vfs = true ∧
    (vf memIn 0).tdisp = .locked ∧ (vf run0 0).tdisp = .unlocked ∧ memConf.keeper.conf = true ∧ (port memConf (vfPort memConf 0)).ideSel = [] ∧ vfEnabled memConf 0 = true ∧
    queueState (queueIn 1 queueFree) 0 = 1 ∧ (queueIn 1 queueFree).snuffer.safe = false := by decide +kernel
theorem witness_HostPorts_ready : (∃ u, localReady memIn (memWho memIn 0 1) 0 8 false false = .ok () u) ∧ (∃ u, needClock memIn (addrQuarter 0) = .ok () u) := ⟨⟨_, rfl⟩, ⟨_, rfl⟩⟩
/-- A VF 0 that is enabled and unlocked. -/
theorem witness_HostPorts_unlocked : vfEnabled { memIn with vfs := [(0, { hoop := some 1, first := 0, count := 64, tdisp := .unlocked })] } 0 = true := by decide
theorem witness_HostPorts_debug : (∃ u, localReady run0 devWho 0xC000000000 8 false false = .ok () u) ∧ debugOk run0 .scan = true ∧ debugOk run0 (.readLocal 0xC000000000 8) = true ∧
    debugOk { run0 with keeper := { run0.keeper with lc := 3 } } .scan = false ∧ region run0 0xC500000000 = none ∧ debugOk run0 (.readLocal 0xC500000000 8) = true ∧
    debugExists run0 0xC000000000 8 = true ∧ debugBacked run0 0xC000000000 8 = true ∧ debugOk run0 (.readState 0) = true := ⟨⟨_, rfl⟩, by decide⟩
/-- A confirming read of a kind outstanding on port 0. -/
def confirms1 (what : Confirm) : State :=
  let s := queueIn 1 queueFree
  { s with fab := { s.fab with confirms := [(what, 0)] } }
theorem witness_HostPorts_confirms : (∀ what ∈ [Confirm.ring 0, .work 0 0, .faults 1, .dump], (confirms1 what).fab.confirms.find? (fun c => decide (c.1 = what)) = some (what, 0) ∧
      queueState (confirms1 what) 0 = 1 ∧ (confirms1 what).snuffer.safe = false) ∧ (∀ c ∈ run0.fab.confirms, c.1 ≠ Confirm.dump) := by decide
theorem witness_HostPorts_windows : deviceResetting memIn = false ∧ memIn.snuffer.safe = false ∧ meetsRemap memIn 0 8 = false ∧ ownsQueue (queueIn 1 queueFree) .mgmt 0 = true ∧
    ownsQueue (queueIn 1 queueFree) (.vf 5) 0 = false ∧ debugOk run0 (.control 0 1) = true := by decide +kernel

/-! ### Objects, contexts and the scheduler -/

/-- Hoop 1 ACTIVE with M-lantern 0 and unit 0 of bobbin 0, contexts 1 and 2 RESIDENT, context 3 SWAPPED; rows staged for an object 5 of context 1, a
context 4 and a fence 6 of value 9. -/
def objIn (f : List (Nat × Obj)) (g : List (Nat × Fence)) : State :=
  { setHoop { run0 with regs := [(cellKey 0x300003 1 0, at2 1 60), (cellKey 0x800001 4 0, at2 1 56 ||| at2 1 50), (cellKey 0x800003 1 0, at2 1 60), (cellKey 0x800003 2 0, at2 1 60), (cellKey 0x800003 3 0, at2 2 60), (cellKey 0x800005 0 0, wd (1000 + 2 ^ 22)), (cellKey 0x810002 6 0, at2 1 51), (cellKey 0x810002 6 3, 9), (cellKey 0x810004 5 0, at2 1 56 ||| at2 1 46)] } 1
    { hoopFree with desc := [at2 65 50, 1, 0, 0, 0, 1] ++ List.replicate 10 0 } with ctxs := [(1, { ctxFree with hoop := 1, refs := [5] }), (2, { ctxFree with hoop := 1 }), (3, { ctxFree with hoop := 1 })], objs := f, fences := g }
/-- Object 5 with two references, one of context 1. -/
def obj5 : List (Nat × Obj) := [(5, { objNone with valid := true, hoop := 1, owner := 1, refs := 2, length := 4096 })]
/-- Fence 6 VALID with a value. -/
def fence6 : List (Nat × Fence) := [(6, { fence run0 0 with valid := true, hoop := 1, value := 3, init := 3 })]
/-- The word of an object command for object 5 in context 1. -/
def objW : Word := wd (2 ^ 20 + 5)
set_option maxRecDepth 100000 in
theorem witness_ObjectCommands : opensB (objIn [] []) .mgmt 0x810005 = true ∧ opensB (objIn [] []) .mgmt 0x810003 = true ∧ opensB (objIn [] []) .mgmt 0x800002 = true ∧
    objectCode (result (objIn [] []) 0) .mgmt (setFld objW 63 60 1) = 0 ∧ objectCode (result (objIn obj5 []) 0) .mgmt (setFld objW 63 60 1) ≠ 0 ∧
    objectCode (result (objIn obj5 []) 0) .mgmt (setFld objW 63 60 2) = 0 ∧ objectCode (result (objIn [] []) 0) .mgmt (setFld objW 63 60 2) ≠ 0 ∧
    objectCode (result (objIn obj5 []) 0) .mgmt (setFld objW 63 60 3) = 0 ∧ objectCode (result (objIn [] []) 0) .mgmt (setFld objW 63 60 3) ≠ 0 ∧ 2 ≤ (obj (objIn obj5 []) 5).refs ∧
    fenceCode (result (objIn [] []) 0) .mgmt (setFld 6 63 60 1) = 0 ∧ fenceCode (result (objIn [] fence6) 0) .mgmt (setFld 6 63 60 1) ≠ 0 ∧
    fenceCode (result (objIn [] fence6) 0) .mgmt (setFld 6 63 60 2) = 0 ∧ fenceCode (result (objIn [] []) 0) .mgmt (setFld 6 63 60 2) ≠ 0 ∧
    fenceCode (result (objIn [] fence6) 0) .mgmt (setFld 6 63 60 3) = 0 ∧ fenceCode (result (objIn [] []) 0) .mgmt (setFld 6 63 60 3) ≠ 0 ∧
    contextCode (result (objIn [] []) 0) .mgmt (setFld 4 63 60 1) = 0 ∧ contextCode (result (objIn [] []) 0) .mgmt (setFld 1 63 60 1) ≠ 0 ∧
    contextCode (result (objIn [] []) 0) .mgmt (setFld 1 63 60 2) = 0 ∧ contextCode (result (objIn [] []) 0) .mgmt (setFld 4 63 60 2) ≠ 0 := by decide
set_option maxRecDepth 100000 in
theorem witness_ObjectCommands_rest : ctxState (objIn [] []) 1 ≠ 3 ∧ (fence run0 6).valid = false ∧ (fence (objIn [] fence6) 6).valid = true ∧ (fence (objIn [] fence6) 6).alias_ = false ∧
    (fence (objIn [] fence6) 6).error = false ∧ (objIn [] fence6).snuffer.safe = false ∧ (fence (objIn [] fence6) 6).value ≤ (5 : Word).toNat ∧ (5 : Word).toNat ≠ allOnes ∧ (objIn [] fence6).waits = [] ∧
    opensB (objIn [] []) .mgmt 0x810006 = true ∧ opensB (objIn [] []) .mgmt 0x800007 = true ∧ opensB (objIn [] []) .mgmt 0x800006 = true ∧
    heapConfigCode (result (objIn [] []) 0) .mgmt 1 [1, 0, 0, 0] ≠ 0 ∧ heapConfigCode (result (objIn [] []) 0) .mgmt 1 [0, 0, wd 0x200000, 1] = 0 ∧
    swapAreaCode (result (objIn [] []) 0) .mgmt 1 [1, 1] ≠ 0 ∧ swapAreaCode (result (objIn [] []) 0) .mgmt 1 [0, 2] = 0 ∧
    samplerCode (result (objIn [] []) 0) .mgmt 1 [at2 1 63, 0] ≠ 0 ∧ samplerCode (result (objIn [] []) 0) .mgmt 1 [at2 1 63 ||| 1, 0] = 0 := by decide
/-- Context 1 being torn down, a mover busy for it where `b`. -/
def tears (b : Bool) : State :=
  let s := setRegFld (objIn [] []) 0x800003 1 63 60 3
  if b then { s with movers := [(0, job1 1)] } else s
set_option maxRecDepth 100000 in
theorem witness_ObjectCommands_teardown : ctxState (tears false) 1 = 3 ∧ (ctxSlots (tears false) 1).foldl endSlot (tears false) = tears false ∧ ctxStopped (tears true) 1 = false ∧
    (ctxSlots (tears true) 1).foldl endSlot (tears true) = tears true ∧ (tears true).snuffer.safe = false ∧ ctxState (tears true) 1 = 3 ∧
    ctxStopped (tears false) 1 = true ∧ (tears false).snuffer.resets = [] ∧ (context (tears false) 1).tearFence = none :=
  ⟨by decide, rfl, by decide, rfl, by decide⟩
/-- The allocator's queue with a core's request, the core waiting, and its hoop's heap the first 2 MiB of unit 0. -/
def allocs (r : AllocReq) (objs : List (Nat × Obj)) : State :=
  let s := modLantern (coreIn 0 0) 128 (fun x => { x with cores := x.cores.map (fun c => { c with stall := .alloc }) })
  { s with allocQ := [r], objs := objs, regs := s.regs ++ [(cellKey 0x810006 1 2, wd 0x200000), (cellKey 0x810006 1 3, 1)] }
set_option maxRecDepth 100000 in
theorem witness_SchedulerEvents_alloc : run0.allocQ = [] ∧ (∃ a u, heapAlloc { allocs (.coreAlloc 128 0 1 1 64 6 1 false) [] with allocQ := [] } 1 1 64 6 = (a, u) ∧ (Machine.core u 128 0).stall = .alloc) ∧
    (∃ u, heapFree (countHub { allocs (.coreFree 128 0 1 1 0) [(5, { objNone with valid := true, heap := true, hoop := 1, owner := 1, refs := 1, length := 64 })] with allocQ := [] } 3 1) 1 0 = some u ∧ (Machine.core u 128 0).stall = .alloc) ∧
    (allocs (.coreAlloc 128 0 1 1 64 6 1 false) []).snuffer.safe = false := ⟨rfl, ⟨_, _, rfl, by decide⟩, ⟨_, rfl, by decide⟩, by decide⟩
/-- The same for an op of lantern 0, its strand of context 1 in that op. -/
def opAllocs (busy : List Nat) : State :=
  let s := setLantern (allocs (.opAlloc 0 0 1 1 64 6 0 false) []) 0 { Lantern.reset 0 with power := .awake, cur := some { running1 with busy := busy } }
  s
set_option maxRecDepth 100000 in
theorem witness_SchedulerEvents_allocOp : (opAllocs [0]).allocQ = .opAlloc 0 0 1 1 64 6 0 false :: [] ∧ (∃ k, (lantern (opAllocs [0]) 0).cur = some k ∧ k.ctx = 1 ∧ 0 ∈ k.busy) ∧
    (∃ k, (lantern (opAllocs []) 0).cur = some k ∧ k.ctx = 1 ∧ 0 ∉ k.busy) ∧ (opAllocs []).snuffer.safe = false ∧
    (Machine.core (coreIn 0 0) 128 0).stall ≠ .alloc := ⟨by decide, ⟨_, rfl, by decide, by decide⟩, ⟨_, rfl, by decide, by decide⟩, by decide, by decide⟩
/-- Context 1 leaving. -/
def leaves1 : State := modContext (objIn [] []) 1 (fun x => { x with leaving := true })
/-- A sampler of two slots, in its first. -/
def sampler2 : Sampler := { first := 0, count := 2, start := 0, began := 0, slots := [1000, 1000], cur := 0 }
set_option maxRecDepth 100000 in
theorem witness_SchedulerEvents : (context (objIn [] []) 1).leaving = false ∧ (context leaves1 1).leaving = true ∧ ctxState leaves1 1 = 1 ∧ ctxLanterns leaves1 1 = [] ∧ ctxState (objIn [] []) 3 = 2 ∧
    (residents (objIn [] []) (context (objIn [] []) 3).hoop).length < 16 ∧ (hoop (objIn [] []) (context (objIn [] []) 3).hoop).stuck = [] ∧ ctxState (objIn [] []) 9 ≠ 1 ∧ ctxState (objIn [] []) 9 ≠ 2 ∧
    bit (at2 1 63) 63 = true ∧ bit (0 : Word) 63 = false ∧ (0 : Word).toNat ≤ wick (objIn [] []) ∧ (hoop (objIn [] []) 1).sampler = none ∧ (hoop (objIn [] []) 1).samplerNew = none ∧ leaves1.snuffer.safe = false ∧ periodOver (objIn [] []) 1 [0, 0, 0] ((samplerSlots (objIn [] []) 0 0).map (openSlot (objIn [] []))) = true ∧ periodOver (objIn [] []) 1 [at2 1 63 ||| 1, 0, 0] ((samplerSlots (objIn [] []) 0 1).map (openSlot (objIn [] []))) = true ∧ wick (objIn [] []) < sampler2.began + slotsTime sampler2.slots ∧
    (hoop (modHoop (objIn [] []) 1 (fun x => { x with sampler := some sampler2, samplerNew := some [0, 0, 0] })) 1).sampler = some sampler2 ∧
    (hoop (modHoop (objIn [] []) 1 (fun x => { x with sampler := some sampler2, samplerNew := some [0, 0, 0] })) 1).samplerNew = some [0, 0, 0] := by decide
/-- Context 1 leaving, pinned. -/
def pinned1 : State := modHoop leaves1 1 (fun x => { x with sampler := some { sampler2 with slots := [2 ^ 22 + 1000, 1000] } })
set_option maxRecDepth 100000 in
theorem witness_SchedulerEvents_swap : isPinned leaves1 1 = false ∧ isPinned pinned1 1 = true ∧ pinned1.snuffer.safe = false ∧ (context pinned1 1).leaving = true ∧ ctxState pinned1 1 = 1 ∧
    pll leaves1 (addrQuarter (swapImage leaves1 1)) = .running ∧ pll { leaves1 with clk := State.reset.clk } (addrQuarter (swapImage leaves1 1)) ≠ .running ∧
    ctxLanterns { leaves1 with clk := State.reset.clk } 1 = [] := by decide
/-- Contexts 1 to 16 of hoop 1 RESIDENT and IDLE, context 17 SWAPPED with a saved strand whose fence wait is met, stuck first. -/
def stuck17 : State :=
  { setHoop run0 1 { hoopFree with stuck := [17], desc := [at2 65 50, 1] ++ List.replicate 14 0 } with
    regs := (List.range 16).map (fun c => (cellKey 0x800003 (c + 1) 0, at2 1 60)) ++ [(cellKey 0x800003 17 0, at2 2 60)]
    ctxs := (List.range 16).map (fun c => (c + 1, { ctxFree with hoop := 1 })) ++ [(17, { ctxFree with hoop := 1, saved := [{ l := 0, running := running1, scratch := [], poison := [], engines := [], chain := [], cores := [], dma := [], waits := [(6, 0)] }] })] }
set_option maxRecDepth 100000 in
theorem witness_SchedulerEvents_stuck : ctxState stuck17 17 = 2 ∧ (context stuck17 17).hoop = 1 ∧ 16 ≤ (residents stuck17 1).length ∧ (∀ o ∈ residents stuck17 1, activity stuck17 o = 3 ∨ activity stuck17 o = 0) ∧
    savedMet stuck17 17 = true ∧ (hoop stuck17 1).stuck = [17] ∧ (∀ o ∈ hoopCtxs stuck17 1, (context stuck17 o).leaving = false) ∧ longest stuck17 (idleContexts stuck17 1) = some 1 ∧ stuck17.snuffer.safe = false := by decide
/-- The strand of a context in a wait, on lantern 0, with three more waiting to run there. -/
def blocked0 (c : Nat) (s : State) : State :=
  setLantern s 0 { Lantern.reset 0 with power := .awake, cur := some { running1 with ctx := c, waiting := true }, runList := [{ queue := 0, entry := 0, idx := 1 }, { queue := 0, entry := 0, idx := 2 }, { queue := 0, entry := 0, idx := 3 }] }
set_option maxRecDepth 100000 in
theorem witness_SchedulerEvents_blocked : longest (blocked0 1 stuck17) (idleContexts (blocked0 1 stuck17) 1) = some 2 := by decide
/-- Only context 1 RESIDENT in every place, BLOCKED. -/
def stuckAll : State := { blocked0 1 stuck17 with hoops := (modHoop stuck17 1 (fun x => { x with sampler := some { sampler2 with slots := (List.range 15).map (fun c => (c + 2) * 2 ^ 22 + 1000) } })).hoops }
set_option maxRecDepth 100000 in
theorem witness_SchedulerEvents_leave : longest stuckAll (idleContexts stuckAll 1) = none ∧ longest stuckAll ((takeable stuckAll 1).filter (fun o => activity stuckAll o = 3)) = some 1 ∧ savedMet stuckAll 17 = true ∧
    (∀ o ∈ residents stuckAll 1, activity stuckAll o = 3 ∨ activity stuckAll o = 0) ∧ (hoop stuckAll 1).stuck = [17] := by decide
/-- A stitch of context 2 that needs lantern 0, held by context 1. -/
def holds1 : State :=
  setQueue (blocked0 1 { objIn [] [] with clk := { (objIn [] []).clk with wick := 10000000000 }, regs := (objIn [] []).regs ++ [(cellKey 0x900012 0 0, at2 1 60)] }) 0
    { queueFree with row := [wd (2 ^ 49 + 2 ^ 40)], flights := [{ entry := 0, words := [at2 1 56], desc := [], phase := .staged, status := .ok, origin := 0, detail := 0, start := 0, doneAt := 0, stitch := some (stitch1 0 []), aux := 0, waitOn := [], wrote := [] }] }
set_option maxRecDepth 100000 in
theorem witness_SchedulerEvents_holder : ∃ f, nextStaged holds1 2 = some f ∧ longest holds1 ((holders holds1 1 f).filter (fun o => decide (o ≠ 2))) = some 1 ∧ ctxState holds1 2 = 1 ∧
    (context holds1 2).hoop = 1 ∧ (∀ o ∈ hoopCtxs holds1 1, (context holds1 o).leaving = false) := ⟨_, rfl, by decide, by decide, by decide, by decide⟩
set_option maxRecDepth 100000 in
theorem witness_SchedulerEvents_holderLeaves : (context (beginLeave { holds1 with regs := holds1.regs ++ [(cellKey 0x800007 1 1, 2)] } 1 1) 1).leaving = true ∧ (context (beginLeave holds1 1 1) 1).leaving = false := by decide

/-! ### Power -/

/-- `run0` with its power changed. -/
def powerIn (f : PowerUnit → PowerUnit) : State := { run0 with power := f run0.power }
theorem witness_Power : (powerIn fun p => { p with started := false }).power.started = false ∧ run0.power.started = true ∧ (powerIn fun p => { p with mainPresent := false }).power.mainPresent = false ∧
    (powerIn fun p => { p with mainOk := false }).power.mainOk = false ∧ run0.power.backup = false ∧ run0.power.sleep ≠ 3 ∧ run0.power.mainPresent = true ∧ (powerIn fun p => { p with step := 4 }).power.step = 4 ∧
    run0.power.step = 6 ∧ run0.power.ready = true ∧ run0.power.auxOk = true ∧ bit (statusWord run0) 19 = false ∧ (powerIn fun p => { p with mainPresent := false, auxOk := false }).power.auxOk = false ∧
    opensB run0 (.vf 0) 0x200003 = true ∧ opensB run0 .mgmt 0x200003 = true ∧ powerReqCode (result run0 0) .mgmt false = 0 ∧ powerReqCode (result run0 0) .mgmt true = 0 ∧
    powerReqCode (result (link 2 false) 0) .mgmt false = 2 ∧ powerReqCode (result (link 2 false) 0) .mgmt true = 2 ∧ (powerIn fun p => { p with sleep := 2 }).power.sleep = 2 ∧ run0.power.sleep ≠ 2 ∧
    run0.power.op.length = 4 ∧ coreRails run0 = true ∧ run0.power.op.getD 0 0 = opTarget run0 0 ∧ (powerIn fun p => { p with op := [3, 0, 0, 0] }).power.op.getD 0 0 ≠ opTarget (powerIn fun p => { p with op := [3, 0, 0, 0] }) 0 ∧
    1000 * regN run0 0x201001 0 < 1000 * regN run0 0x201001 0 + 1 ∧ (∀ q < 4, 7 ≤ (powerIn fun p => { p with op := [7, 7, 7, 7] }).power.op.getD q 0) ∧ 1 ≤ run0.power.capG ∧
    run0.power.thermOp.length = 4 ∧ run0.power.op.getD 0 0 < 7 ∧ (powerIn fun p => { p with op := [7, 7, 7, 7] }).power.op.getD 0 0 = 7 ∧ run0.power.thermG.length = 4 := by decide
theorem witness_Power_backup : ∃ s, s = (powerIn fun p => { p with backup := true, backupStep := 2, mainOk := false, mainPresent := false }) ∧ s.power.backup = true ∧ s.power.backupStep < 6 ∧ s.power.mainOk = false :=
  ⟨_, rfl, by decide⟩
theorem witness_Power_hot : throttleT { run0 with regs := [(cellKey 0x210002 0 0, i32 1040)] } ≤ hottest { run0 with regs := [(cellKey 0x210002 0 0, i32 1040)] } 0 := by decide
theorem witness_Power_samples : (List.replicate 272 (250 : Int)).length = 272 ∧ (∀ x ∈ List.replicate 272 (250 : Int), x < 1050) ∧ (List.replicate 12 (250 : Int)).length = 12 ∧ (∀ x ∈ List.replicate 12 (250 : Int), x < 950) ∧
    (List.replicate 14 (0 : Nat)).length = 14 := by
  refine ⟨List.length_replicate, ?_, List.length_replicate, ?_, List.length_replicate⟩ <;> intro x h <;> rw [List.eq_of_mem_replicate h] <;> decide
theorem witness_Power_cycle : (powerIn fun p => { p with mainOk := false }).snuffer.pwrcyc = false ∧
    { (powerIn fun p => { p with mainOk := false }) with snuffer := { run0.snuffer with pwrcyc := true } }.snuffer.pwrcyc = true := by decide
/-- Backup power at a step, the operating points as given. -/
def backs (n : Nat) (ops : List Nat) : State := powerIn fun p => { p with backup := true, backupStep := n, mainOk := false, mainPresent := false, op := ops, activity := [0, 0, 0, 0] }
theorem witness_Power_backupSteps : outstanding (asked9 (backs 4 [0, 0, 0, 0])) ≠ [] ∧ outstanding (backs 3 [0, 0, 0, 0]) = [] ∧ (backs 3 [0, 0, 0, 0]).power.op ≠ [7, 7, 7, 7] ∧
    (backs 4 [7, 7, 7, 7]).power.op = [7, 7, 7, 7] ∧ outstanding (backs 4 [7, 7, 7, 7]) = [] ∧ (backs 4 [7, 7, 7, 7]).power.activity = [0, 0, 0, 0] ∧ (backs 6 []).power.backupStep ≠ 4 ∧ (backs 6 []).power.backupStep ≠ 5 ∧
    (powerIn fun p => { p with mainPresent := false }).power.auxOk = true ∧ (powerIn fun p => { p with mainPresent := false }).power.backup = false ∧ (powerIn fun p => { p with mainPresent := false }).power.ready = true ∧
    (backs 6 []).power.auxOk = true ∧ (backs 6 []).power.backup = true ∧ 64 * 1 + 100 ≤ 64 * 10 := by decide
/-- A rail that carries more than its limit has no headroom, whatever it rises by. -/
theorem witness_Power_headroom : railHeadroom (powerIn fun p => { p with rails := [[2 ^ 32]] }) 0 = false := by
  have h : ¬(2 ^ 32 + Config.railRise 0 ≤ 0) := by omega
  have e : (railWindows ((powerIn fun p => { p with rails := [[2 ^ 32]] }).power.rails.getD 0 [])).zip (railLimits (powerIn fun p => { p with rails := [[2 ^ 32]] }) 0) =
      [(2 ^ 32, (railLimits run0 0).getD 0 0), (2 ^ 32, (railLimits run0 0).getD 1 0), (2 ^ 32, (railLimits run0 0).getD 2 0)] := by decide
  have l : (railLimits run0 0).getD 0 0 < 2 ^ 32 := by decide
  simp only [railHeadroom, List.all_cons]
  rw [e]
  simp only [List.all_cons]
  have k : decide (2 ^ 32 + Config.railRise 0 ≤ (railLimits run0 0).getD 0 0) = false := decide_eq_false (by omega)
  rw [k]
  simp
theorem witness_Power_low : run0.power.mainPresent = true ∧ run0.power.activity = [0, 0, 0, 0] := by decide

/-! ### Faults, resets and dumps -/

/-- A fault of a class. -/
def faultOf (c k : Nat) (a : Option Nat) : FaultInfo := { cls := c, access := 0, addr := a, masterKind := k, master := 0, hoop := none, ctx := none, detail := 7 }
/-- A class 7 fault's timer runs, its current level as given. -/
def timer7 (n : Nat) : State := setRegFld { run0 with snuffer := { run0.snuffer with timers := [(7, (faultOf 7 0 none, 10, 0))] } } 0x500006 7 31 28 n
theorem witness_FaultsAndResets : (∀ c < 28, bit (statusWord run0) c = false) ∧ statusWord run0 = 0 ∧ statusWord { run0 with regs := [(cellKey 0x500001 0 0, 2)] } ≠ 0 ∧
    bit (statusWord { run0 with regs := [(cellKey 0x500001 0 0, 2)] }) 7 = false ∧ (∃ c < 28, classFences run0 c = false) ∧ run0.slots = [] ∧
    (3 * 2 ^ 44 + 0xC000000000) / 2 ^ 44 = ownNode (link 2 false) ∧ region run0 0xC000000000 = some .store ∧ region run0 ((3 * 2 ^ 44 + 0xC000000000) % 2 ^ 44) = some .store ∧
    opensB run0 .mgmt 0x500001 = true ∧ opensB run0 (.vf 0) 0x500001 = true ∧ safe0.snuffer.safe = true ∧ opensB run0 .mgmt 0x500009 = true ∧
    currentLevel (timer7 0) 7 = 0 ∧ currentLevel (timer7 2) 7 ≠ 0 ∧ tget run0.snuffer.timers 7 = none ∧ run0.snuffer.fencing = [] ∧ run0.snuffer.safe = false := by decide
theorem witness_FaultsAndResets_timer : ∃ f n k, tget (timer7 2).snuffer.timers 7 = some (f, n, k) ∧ f.cls = 7 ∧
    k + 1000000 * fld (cell (timer7 2) 0x500006 7 0) 15 0 ≤ (timer7 2).clk.wick ∧ k + 1000000 * fld (cell (timer7 0) 0x500006 7 0) 15 0 ≤ (timer7 0).clk.wick ∧
    (timer7 2).clk.wick < k + 1000000 * fld (cell (setRegFld (timer7 2) 0x500006 7 15 0 1000) 0x500006 7 0) 15 0 := ⟨_, _, _, rfl, rfl, by decide, by decide, by decide⟩
/-- A reaction of class 14 in progress. -/
def fences14 : Fencing := { cls := 14, kind := 0, master := 0, addr := 0, logAt := 0, start := 0, done := 0 }
theorem witness_FaultsAndResets_reaction : ∃ s f n u, s = { run0 with snuffer := { run0.snuffer with fencing := [f] } } ∧ f = fences14 ∧ fencedBusy s f = false ∧ darnerActs s f [] = some (n, u) :=
  ⟨_, _, _, _, rfl, rfl, by decide, rfl⟩
/-- `run0` in FACTORY_TEST, where INJECT works. -/
def factory0 : State := { run0 with keeper := { run0.keeper with lc := 1 } }
theorem witness_FaultsAndResets_inject : opensB factory0 .mgmt 0x500009 = true ∧ injectCode (result factory0 0) .mgmt 0 = 0 ∧ fld (0 : Word) 35 32 = 0 ∧ injectCode (result factory0 0) .mgmt (at2 6 56 ||| at2 1 32) = 0 ∧
    fld (at2 6 56 ||| at2 1 32) 35 32 ≠ 0 ∧ injectCode (result factory0 0) .mgmt (at2 63 56) ≠ 0 := by decide
theorem witness_FaultsAndResets_request : (∀ k ∈ [1, 2, 3, 4, 5, 6], resetCode run0 .mgmt (setFld (wd 0) 63 60 k) = 0) ∧ (∀ k ∈ [1, 4], resetCode run0 .mgmt (setFld (at2 1 16) 63 60 k) = 1) := by decide
/-- A running reset of a level and target, in a phase, since time 0. -/
def resetOf (level target phase : Nat) : Reset :=
  { level := level, target := target, trigger := 0, cause := .aborted, fences := [], start := 0, phase := phase, dumped := false, logAt := none, allowance := 100 }
/-- `run0` with that reset running. -/
def resetIn (r : Reset) : State := { run0 with snuffer := { run0.snuffer with resets := [r], pwrcyc := decide (r.level = 6) } }
theorem witness_FaultsAndResets_running : findReset run0 2 0 = none ∧ (∀ k ∈ [1, 2, 3, 4, 5, 6], findReset (resetIn (resetOf k 0 0)) k 0 = some (resetOf k 0 0)) ∧
    wick (resetIn (resetOf 3 0 0)) < (resetOf 3 0 0).start + (resetOf 3 0 0).allowance ∧ wick (resetIn (resetOf 3 0 0)) < (resetOf 3 0 0).start + boundOf (resetOf 3 0 0) ∧
    (resetOf 3 0 0).start + (resetOf 3 0 0).allowance ≤ wick (at_ 100 (resetIn (resetOf 3 0 0))) ∧ findReset (resetIn (resetOf 2 0 1)) 2 0 = some (resetOf 2 0 1) ∧
    findReset (resetIn (resetOf 2 0 2)) 2 0 = some (resetOf 2 0 2) ∧ findReset (resetIn (resetOf 3 1 1)) 3 1 = some (resetOf 3 1 1) ∧ hoopQuiet (resetIn (resetOf 3 1 1)) 1 = true ∧
    (resetOf 5 0 1).start + 20000000000 + (resetOf 5 0 1).waited ≤ wick (at_ 20000000000 run0) ∧ (resetOf 3 0 1).trigger ≠ 4 ∧
    (resetOf 3 0 1).start + 50000000 + (if (resetOf 3 0 1).trigger = 4 then 0 else (resetOf 3 0 1).waited) ≤ wick (at_ 50000000 run0) ∧ (resetOf 6 0 0).phase ≠ 2 ∧ findReset (resetIn (resetOf 6 0 2)) 6 0 = some (resetOf 6 0 2) ∧ (resetIn (resetOf 6 0 0)).snuffer.pwrcyc = true ∧
    (resetOf 6 0 0).start + 10000000000 ≤ wick (at_ 10000000000 run0) ∧ run0.snuffer.pwrcyc = false := by decide
theorem witness_FaultsAndResets_dumpReady : dumpReady (resetIn (resetOf 3 0 0)) (resetOf 3 0 0) = .ok () (resetIn (resetOf 3 0 0)) ∧
    (∃ u, dumpReady { resetIn (resetOf 3 0 0) with clk := State.reset.clk } { resetOf 3 0 0 with dumpSel := true } = .wait u) ∧ pll run0 0 = .running ∧ fences14.again = false ∧
    { fences14 with again := true }.again = true := ⟨rfl, ⟨_, rfl⟩, by decide⟩
/-- A stitch in progress on lantern 0 for longer than the watchdog of a second allows; and a queue with an entry admitted. -/
def late1 : State :=
  let s := at_ 1000000000 (strandIn 0 0 (opOf 3))
  { s with regs := s.regs ++ [(cellKey 0x510005 0 0, wd 1000), (cellKey 0x510006 0 0, wd 1000), (cellKey 0x900012 0 0, at2 1 60)] }
theorem witness_FaultsAndResets_detectors : flight run0 0 0 = none ∧ regN run0 0x510006 0 = 0 ∨ queueState run0 0 ≠ 1 := by decide
theorem witness_FaultsAndResets_watchdog : ∃ f l, flight late1 0 0 = some f ∧ entryOp f.words = 1 ∧ regN late1 0x510005 0 ≠ 0 ∧ f.phase = .running ∧ stitchLanterns late1 0 0 ≠ [] ∧
    l = oldestOp late1 (stitchLanterns late1 0 0 ++ (late1.lan.filter (fun p => p.2.runList.any (fun r => decide (r.queue = 0) && decide (r.entry = 0)))).map (fun p => p.1)) ∧
    stitchProgress late1 0 0 f + 1000000 * regN late1 0x510005 0 ≤ wick late1 ∧ late1.power.backup = false ∧ stitchStalled late1 0 0 f = false ∧ late1.snuffer.safe = false :=
  ⟨_, _, rfl, by decide, by decide, rfl, by decide, rfl, by decide, by decide, by decide, by decide⟩
theorem witness_FaultsAndResets_progress : ∃ u v, u = hang late1 2 0 15 0 (some (queueHoop late1 0)) (some (queueCtx late1 0)) ∧ v = (queue u 0).flights.foldl (fun s f => stopEntry s 0 .timeout f.entry) u ∧
    queueState late1 0 = 1 ∧ regN late1 0x510006 0 ≠ 0 ∧ queueOwes (queue late1 0) = true ∧ (queue late1 0).moved + 1000000 * regN late1 0x510006 0 ≤ wick late1 ∧ (hoop late1 (queueHoop late1 0)).inst = .running ∧ (queue v 0).entries = [] :=
  ⟨_, _, rfl, rfl, by decide, by decide, by decide, by decide, by decide, by decide⟩
theorem witness_FaultsAndResets_early : (∃ f, flight (at_ 5 late1) 0 0 = some f ∧ wick (at_ 5 late1) < stitchProgress (at_ 5 late1) 0 0 f + 1000000 * regN (at_ 5 late1) 0x510005 0) ∧
    queueOwes (queue run0 0) = false ∧ wick (at_ 5 late1) < (queue (at_ 5 late1) 0).moved + 1000000 * regN (at_ 5 late1) 0x510006 0 := ⟨⟨_, rfl, by decide⟩, by decide⟩
theorem witness_FaultsAndResets_heartbeat : (lantern (lanIn .awake) 0).power = .awake ∧ (lantern (lanIn .awake) 0).fenced = false ∧ (lantern (lanIn .awake) 0).cur = none ∧ (lanIn .awake).snuffer.resets = [] ∧
    pll (lanIn .awake) (lanQuarter 0) = .running ∧ (lantern (lanIn .cold) 0).power ≠ .awake := by decide
theorem witness_FaultsAndResets_dump : opensB run0 .mgmt 0x520005 = true ∧ bit (1 : Word) 0 = true ∧ opensB run0 .mgmt 0x520006 = true ∧ rwsWriteCode (result run0 0) 0x520006 (1 : Word).toNat ≠ 0 ∧ rwsWriteCode (result run0 0) 0x520006 (wd 0xD000000000).toNat = 0 ∧
    run0.snuffer.exportTo = none ∧ { run0 with snuffer := { run0.snuffer with exportTo := some 0 } }.snuffer.exportTo = some 0 := by decide

/-! ### Life cycle, tokens, confidential mode, instances -/

theorem leNat_leBytes (n v : Nat) : leNat (leBytes n v) = v % 256 ^ n := by
  induction n generalizing v with
  | zero => simp [leBytes, leNat, Nat.mod_one]
  | succ n ih =>
    have h : leNat (leBytes (n + 1) v) = v % 256 + 256 * leNat (leBytes n (v / 256)) := by simp [leBytes, leNat, BitVec.toNat_ofNat]
    rw [h, ih, Nat.pow_succ, Nat.mul_comm (256 ^ n) 256, Nat.mod_mul]
/-- A signed request of a type, scheme 0, for this device (R530). -/
def reqOf (type target signer notAfter counter : Nat) (payload : List Byte) : List Byte :=
  leBytes 4 0x5351524B ++ leBytes 2 1 ++ leBytes 1 type ++ [0] ++ leBytes 8 Config.uid.toNat ++ leBytes 8 counter ++ leBytes 2 target ++ leBytes 1 signer ++ [0] ++ leBytes 4 0 ++
    leBytes 8 notAfter ++ leBytes 4 payload.length ++ leBytes 20 0 ++ payload ++ leBytes 96 0
theorem uid_of (type target signer notAfter counter : Nat) (payload : List Byte) : (parseRequest (reqOf type target signer notAfter counter payload)).uid = Config.uid.toNat := by
  have h : (parseRequest (reqOf type target signer notAfter counter payload)).uid = leNat (leBytes 8 Config.uid.toNat) := rfl
  rw [h, leNat_leBytes]
  exact Nat.mod_eq_of_lt Config.uid.isLt
/-- What the vendor's or the owner's signature over such a request says, as the device checks it. -/
def signedOk (s : State) (bs : List Byte) : Prop :=
  Config.signatureOk (parseRequest bs).scheme (bs.take (64 + reqPayloadLen bs)) ((bs.drop (64 + reqPayloadLen bs)).take (sigBytes (parseRequest bs).scheme))
    (if (parseRequest bs).signer = 0 then Config.vendorKey else leNat s.keeper.ctrlKey) = true
theorem code_zero {s : State} {bs : List Byte} {type : Nat} (a : requestFormatOk s bs type = true) (b : (parseRequest bs).uid = Config.uid.toNat)
    (c : endsToken (parseRequest bs) = true ∨ (signerOf s type = some (parseRequest bs).signer ∧ regN s 0x11000B 0 ≠ 1 ∧ signedOk s bs))
    (d : ((parseRequest bs).notAfter = 0 ∧ (parseRequest bs).epoch = 0) ∨ ((parseRequest bs).notAfter ≠ 0 ∧ wick s ≤ (parseRequest bs).notAfter ∧ (parseRequest bs).epoch = regN s 0x11000D 0)) (e : counterOk s (parseRequest bs) = true)
    (f : requestAllowed s (parseRequest bs) = true) (g : transitioning s = false) (k : (parseRequest bs).type = 4 → confBusy s (imgFld (parseRequest bs).payload 0 1) = false) : requestCode s bs type = 0 := by
  have d' : ¬(((parseRequest bs).notAfter ≠ 0 ∧ (parseRequest bs).notAfter < wick s) ∨ (parseRequest bs).epoch ≠ (if (parseRequest bs).notAfter = 0 then 0 else regN s 0x11000D 0)) := by
    rcases d with ⟨d1, d2⟩ | ⟨d0, d1, d2⟩
    · simp [d1, d2]
    · simp [d0, d2]; omega
  have g' : ¬(transitioning s = true ∨ ((parseRequest bs).type = 4 ∧ confBusy s (imgFld (parseRequest bs).payload 0 1) = true)) := by
    rintro (x | ⟨x, y⟩)
    · simp [g] at x
    · simp [k x] at y
  rcases c with c | ⟨c1, c2, c3⟩
  · simp only [requestCode, a, b, c, d', e, f, g']
    simp
  · simp only [signedOk] at c3
    simp only [requestCode, a, b, c1, c3, d', e, f, g']
    simp [c2]
/-- BLANK to FACTORY_TEST, vendor's; a token ended; HOST_AUTH_REQ or the like set to 1; EXIT, ENTER and CHANGE. -/
def toFactory : List Byte := reqOf 1 1 0 0 1 []
def endToken : List Byte := reqOf 2 0 1 5 0 []
def setRws : List Byte := reqOf 3 0 0 0 1 (leBytes 2 0x1200 ++ leBytes 6 8 ++ leBytes 8 1)
def confReq (op : Nat) : List Byte := reqOf 4 0 1 0 1 (leBytes 8 op ++ leBytes 152 0)
/-- `run0` in MISSION, confidential mode as given. -/
def mission0 (b : Bool) : State := { run0 with keeper := { run0.keeper with lc := 3, conf := b } }
theorem witness_Security_transition : opensB run0 .mgmt 0x110002 = true ∧ run0.keeper.lc ≠ 5 ∧ { run0 with keeper := { run0.keeper with lc := 5 } }.keeper.lc = 5 ∧
    requestCode (result run0 0) [] 1 ≠ 0 ∧ (signedOk (result run0 0) toFactory → requestCode (result run0 0) toFactory 1 = 0) :=
  ⟨by decide, by decide, rfl, by decide, fun h => code_zero (by decide +kernel) (uid_of ..) (.inr ⟨by decide +kernel, by decide, h⟩) (.inl (by decide +kernel)) (by decide +kernel) (by decide +kernel) (by decide) (by decide +kernel)⟩
theorem witness_Security_write : opensB run0 .mgmt 0x11000E = true ∧ requestCode (result run0 0) [] 3 ≠ 0 ∧ (signedOk (result run0 0) setRws → requestCode (result run0 0) setRws 3 = 0) :=
  ⟨by decide, by decide, fun h => code_zero (by decide +kernel) (uid_of ..) (.inr ⟨by decide +kernel, by decide, h⟩) (.inl (by decide +kernel)) (by decide +kernel) (by decide +kernel) (by decide) (by decide +kernel)⟩
theorem witness_Security_token : opensB run0 .mgmt 0x110007 = true ∧ requestCode (result run0 0) [] 2 ≠ 0 ∧ requestCode (result run0 0) endToken 2 = 0 ∧ (parseRequest endToken).target = 0 :=
  ⟨by decide, by decide, code_zero (by decide +kernel) (uid_of ..) (.inl (by decide +kernel)) (.inr (by decide +kernel)) (by decide +kernel) (by decide +kernel) (by decide) (by decide +kernel), by decide +kernel⟩
theorem witness_Security_conf : opensB (mission0 false) .mgmt 0x110010 = true ∧ (mission0 false).keeper.lc = 3 ∧ run0.keeper.lc ≠ 3 ∧ requestCode (result (mission0 false) 0) [] 4 ≠ 0 ∧
    (signedOk (result (mission0 true) 0) (confReq 3) → requestCode (result (mission0 true) 0) (confReq 3) 4 = 0) :=
  ⟨by decide, rfl, by decide, by decide, fun h => code_zero (by decide +kernel) (uid_of ..) (.inr ⟨by decide +kernel, by decide, h⟩) (.inl (by decide +kernel)) (by decide +kernel) (by decide +kernel) (by decide) (fun _ => by decide +kernel)⟩
/-- The last mark is of a phase of BLANK to FACTORY_TEST. -/
def marked (n : Nat) : State := { run0 with keeper := { run0.keeper with markA := markBytes { seq := 0, src := 0, dst := 1, phase := n, wipePending := false, counter := 1, hash := 0 } } }
/-- A debug token until time 5. -/
def token5 : Token := { rights := 3, signer := 0, notAfter := 5, epoch := 0 }
/-- Epoch 0 of a state, epoch 1 ACTIVE, at a step of a change that began at time 0. -/
def keysIn (a : KeyState) (n : Nat) : State := { mission0 true with keeper := { (mission0 true).keeper with keys := [a, .active, .empty, .empty], step := n } }
/-- A mover works under epoch 0. -/
def drains0 : State := { keysIn .draining 2 with movers := [(0, job1 1)] }
set_option maxRecDepth 100000 in
theorem witness_Security : latestMark run0 = none ∧ (∃ m, latestMark (marked 7) = some m ∧ 7 ≤ m.phase) ∧ (∃ m, latestMark (marked 1) = some m ∧ m.phase < 7 ∧ m.phase ≠ 2 ∧ m.seq + 1 < 2 ^ 64) ∧
    (token5.notAfter < wick (at_ 6 run0)) ∧ wick run0 ≤ token5.notAfter ∧ token5.epoch = regN run0 0x11000D 0 ∧ { run0 with keeper := { run0.keeper with token := some token5 } }.keeper.token = some token5 ∧
    run0.keeper.step ≠ 2 ∧ run0.keeper.step ≠ 4 ∧ (keysIn .draining 2).keeper.step = 2 ∧ epochIn (keysIn .draining 2) .draining = some 0 ∧ keyDrain (keysIn .draining 2) 0 = [0, 0, 0] ∧
    (keysIn .draining 2).keeper.step = 2 ∧ epochIn drains0 .draining = some 0 ∧ keyDrain drains0 0 = [1, 0, 0] ∧ wick drains0 < drains0.keeper.drainAt + 10000000 ∧ drains0.keeper.step = 2 ∧
    (keysIn .destroyed 4).keeper.step = 4 ∧ epochIn (keysIn .destroyed 4) .destroyed = some 0 ∧ activeEpoch (keysIn .destroyed 4) = some 1 :=
  ⟨rfl, ⟨_, rfl, by decide⟩, ⟨_, rfl, by decide⟩, by decide⟩
/-- Hoop 1 with an instance state, since time 0. -/
def instIn (i : Inst) (b : Bool) : State :=
  setRegFld (modHoop rangeIn 1 (fun x => { x with inst := i, instAt := 0, freezing := b })) 0x110019 1 3 0 1
theorem witness_Security_instances : opensB rangeIn (.vf 0) 0x110018 = true ∧ opensB rangeIn .mgmt 0x110018 = true ∧ isManager .mgmt = true ∧ fld (wd 64) 59 6 ≠ 0 ∧ fld (wd 1) 59 6 = 0 ∧ fld (wd 1) 5 0 = 1 ∧
    hoopLive run0 1 = false ∧ hoopLive rangeIn 1 = true ∧ (hoop (instIn .running false) 1).inst = .running ∧ (hoop (instIn .quiesced false) 1).inst = .quiesced ∧ rangeIn.keeper.conf = false ∧
    hoopOpenSlots rangeIn 1 = false ∧ hoopState rangeIn 1 = 1 ∧ (hoop (instIn .frozen false) 1).inst = .frozen ∧ hoopBare rangeIn 1 = true ∧ hoopState (hoopIn 2 0 none) 1 ≠ 1 ∧ hoopLive (hoopIn 2 0 none) 1 = true ∧
    (hoop (instIn .quiescing true) 1).inst = .quiescing ∧ hoopAtRest (instIn .quiescing true) 1 = true ∧ (hoop (instIn .quiescing true) 1).freezing = true ∧ (hoop (instIn .quiescing false) 1).freezing = false ∧
    hoopAtRest (instIn .quiescing false) 1 = true ∧ (hoop (instIn .quiescing true) 1).instAt ≤ wick (instIn .quiescing true) ∧ fld (cell (instIn .quiescing true) 0x110019 1 0) 3 0 = 1 ∧
    (instIn .quiescing true).snuffer.safe = false ∧ { rangeIn with keeper := { rangeIn.keeper with conf := true } }.keeper.conf = true ∧ Req.mgmt ∉ run0.keeper.opening ∧
    Req.mgmt ∈ { run0 with keeper := { run0.keeper with opening := [.mgmt] } }.keeper.opening := by decide

/-! ### Telemetry and the Darner -/

/-- `run0` at time `n`, its DUMP_CONFIG of period 100 µs enabled, its ring in ERROR. -/
def dumps (n : Nat) : State :=
  at_ n { run0 with regs := [(cellKey 0x600007 0 1, at2 1 48 ||| at2 4 32 ||| wd 100)], tele := { run0.tele with error := true } }
/-- A class 7 fault of granule 0 of bobbin 0 waits for the Darner. -/
def wants0 : State := { run0 with snuffer := { run0.snuffer with fencing := [{ fences14 with cls := 7 }] } }
/-- A remap of that granule under way. -/
def remap0 : Remap := { b := 0, granule := 0, place := 0xFE0000000, held := [] }
theorem witness_Telemetry : opensB run0 .mgmt 0x600002 = true ∧ selConfigCode .mgmt 0 0 = 0 ∧ selConfigCode .mgmt 300 0 ≠ 0 ∧ opensB run0 .mgmt 0x600004 = true ∧ windowUsCode .mgmt 0 ≠ 0 ∧ windowUsCode .mgmt 10 = 0 ∧
    opensB run0 .mgmt 0x600006 = true ∧ isManager .mgmt = true ∧ opensB run0 (.vf 0) 0x600006 = true ∧ isManager (.vf 0) = false ∧ 1 < (2 : Word).toNat ∧ opensB run0 .mgmt 0x600008 = true ∧ opensB run0 (.vf 0) 0x600008 = true ∧ run0.tele.staged = [] ∧
    opensB run0 .mgmt 0x600007 = true ∧ dumpConfigCode (result run0 0) .mgmt 0 0 = 0 ∧ dumpConfigCode (result run0 0) (.vf 0) 0 0 ≠ 0 ∧ { run0 with tele := { run0.tele with windowNew := some 10 } }.tele.windowNew = some 10 ∧
    wick (at_ 1 run0) % (1000 * 10) ≠ 0 ∧ wick run0 % (1000 * 10) = 0 ∧ run0.tele.windowNew = none ∧ alignDown (wick run0) (1000 * regN run0 0x600004 0) ≤ run0.tele.windowFrom ∧
    run0.tele.windowFrom < alignDown (wick (at_ (1000 * regN run0 0x600004 0) run0)) (1000 * regN run0 0x600004 0) ∧
    run0.tele.windowFrom + 1000 * regN run0 0x600004 0 ≤ alignDown (wick (at_ (1000 * regN run0 0x600004 0) run0)) (1000 * regN run0 0x600004 0) ∧
    { run0 with tele := { run0.tele with windowFrom := 5 } }.tele.windowFrom < 1000 * regN run0 0x600004 0 ∧ 1000 * regN run0 0x600004 0 < 5 + 1000 * regN run0 0x600004 0 := by decide
theorem witness_Telemetry_dump : dumpOn (dumpCfg (dumps 0)) = true ∧ wick (dumps 0) < (dumps 0).tele.dumpAt + 1000 * dumpPeriodUs (dumpCfg (dumps 0)) ∧ dumpOn (dumpCfg (dumps 100000)) = true ∧
    (dumps 100000).tele.dumpAt + 1000 * dumpPeriodUs (dumpCfg (dumps 100000)) ≤ wick (dumps 100000) ∧ (dumps 100000).staged = [] ∧ (dumps 100000).keeper.conf = false ∧ (dumps 100000).tele.error = true ∧
    ((dumps 100000).tele.staged.length + 1) * 8 * (dumpRecordOf (dumps 100000) (dumpCfg (dumps 100000))).length ≤ stagingBytes := by decide +kernel
theorem witness_Telemetry_darner : tget run0.darner.ces 0 = none ∧ 2 ≤ regN run0 0xA00003 0 ∧ regN { run0 with regs := [(cellKey 0xA00003 0 0, 1)] } 0xA00003 0 ≤ 1 ∧ run0.snuffer.fencing = [] ∧ wants0.snuffer.safe = false ∧ wants0.darner.queue = [] ∧
    policyBit wants0 2 = true ∧ remapsOf wants0 0 < 8192 ∧ run0.darner.queue.find? (fun r => decide (r.b = 0)) = none ∧
    { run0 with darner := { run0.darner with queue := [remap0] } }.darner.queue.find? (fun x => decide (x.b = 0)) = some remap0 ∧ remap0.held = [] := by decide
theorem witness_Telemetry_remap : ∃ f p, wants0.snuffer.fencing.find? (wantsRemap wants0 0) = some f ∧ granuleOf wants0 (faultLocal f.addr) = alignDown (0 * 0x1000000000 + 0) 8192 ∧ findPlace wants0 0 = some p :=
  ⟨{ fences14 with cls := 7 }, 0xFE0000000, by decide, by decide, by decide +kernel⟩
theorem witness_Telemetry_clock : pll run0 (bobQuarter 0) = .running ∧ pll State.reset (bobQuarter 0) ≠ .running ∧ run0.clk.held = [] ∧ run0.snuffer.fencing = [] := by decide

/-! ### The dictionary, its server and the management port -/

/-- A request of a session, a sequence number, an index, sub-index and one row, without data. -/
def sdp (session seq index sub : Nat) : SdpMsg :=
  { session := session, seq := seq, index := index, sub := sub, flags := 0, first := 0, count := 1, result := 0, reserved := 0, length := 0, data := [] }
/-- A request of a wrong reserved field. -/
def sdpBad : SdpMsg := { sdp 0 0 0 0 with reserved := 1 }
/-- An answer. -/
def answer1 : Answer := { Answer.none with status := 8 }
/-- An open session of a number whose last SEQ is 4. -/
def session4 (n : Nat) : Session := { num := n, mctp := true, secured := false, seq := 4, peer := 0, time := 0, last := some answer1 }
/-- `run0` in PROVISIONED with sessions 1 to `n`. -/
def serves (n : Nat) : State := { run0 with keeper := { run0.keeper with lc := 2 }, server := { run0.server with sessions := (List.range n).map (fun k => session4 (k + 1)) } }
theorem witness_Dictionary_sessions : requestOk 1 1408 sdpBad = false ∧ requestOk 1 1408 (sdp 0 0 0 0) = true ∧ (serves 0).server.sessions = [] ∧ (serves 8).server.sessions.length = 8 ∧
    (∀ x ∈ (serves 8).server.sessions, sessionOver (serves 8) x = false) ∧ sessionOf run0 1 = none ∧ (∀ op ∈ [2, 3, 4, 5, 6], requestOk op 1408 (sdp 1 4 0x1000 0) = true ∧ requestOk op 1408 (sdp 1 5 0x1000 0) = true) ∧
    sessionOf (serves 1) 1 = some (session4 1) ∧ (sdp 1 4 0x1000 0).seq = (session4 1).seq ∧ (session4 1).last = some answer1 ∧ (sdp 1 5 0x1000 0).seq = (session4 1).seq + 1 ∧ factoryOpen (serves 1) 0x1000 = false := by decide
theorem witness_Dictionary_functions : Req.pf 0 ≠ .mgmt ∧ wickOnly (powerIn fun p => { p with sleep := 3 }) = true ∧ wickOnly run0 = false ∧ factoryOpen run0 0x1000 = false ∧ factoryOpen run0 0xF000 = true ∧
    (∀ op ∈ [3, 4, 5, 6], requestOk op 65536 { sdp 0 0 0x1000 0 with session := 0 } = true) ∧ requestOk 3 65536 { sdpBad with session := 0 } = false ∧ (mailbox run0 (.pf 0)).control ≠ 1 ∧
    apertureOkAccess 0 3 = false ∧ apertureOkAccess 0 8 = true ∧ factoryOpen run0 (fld (0 : Word) 23 8) = false ∧ factoryOpen run0 (fld (wd 0xF00000) 23 8) = true := by decide
theorem witness_Dictionary_entries : findEntry? (0xABC0 * 256) = none ∧ (∃ x, findEntry? 0x500001 = some x ∧ vfReads 0x500001 = false) ∧ findEntry? (fld (0 : Word) 23 0) = none ∧ findEntry? (fld (wd 0xF00000) 23 0) = none ∧
    findEntry? (0xF000 * 256 + 0) = none :=
  ⟨by decide +kernel, ⟨_, rfl, by decide +kernel⟩, by decide +kernel, by decide +kernel, by decide +kernel⟩
theorem witness_Dictionary_aperture : ∃ x, findEntry? (fld (wd 0x210005) 23 0) = some x ∧ readCode run0 (.pf 0) (fld (wd 0x210005) 23 0) (some x) = 0 ∧ apertureEntry x = true ∧ 0 + 8 ≤ x.size * x.rows :=
  ⟨_, rfl, by decide +kernel, by decide +kernel, by decide +kernel⟩
theorem witness_Dictionary_writes : ∃ x, findEntry? (0x3200 * 256 + 1) = some x ∧ writeCode run0 (.vf 0) x [(0, [0])] true ≠ 0 ∧ writeCode run0 .mgmt x [(9, [0])] true = 0 ∧ x.rows ≤ 9 ∧
    writeCode run0 .mgmt x [(0, [0])] true = 0 ∧ 0 < x.rows ∧ x.type ≠ 7 ∧ x.type ≠ 5 :=
  ⟨_, rfl, by decide +kernel, by decide +kernel, by decide +kernel, by decide +kernel, by decide +kernel, by decide +kernel, by decide +kernel⟩

/-! ### Well-formed commands: an ill-formed term for each check of WellFormed, which refuses it -/

/-- Is every one of these refused? -/
def noneWf (is : List Instr) : Bool := is.all (fun i => !i.wf)
/-- A message of SESSION 0 with no data. -/
def msg0 : SdpMsg := { session := 0, seq := 0, index := 0, sub := 0, flags := 0, first := 0, count := 0, result := 0, reserved := 0, length := 0, data := [] }
/-- A fault of class 0 without hoop or context. -/
def fault0 : FaultInfo := { cls := 0, access := 0, addr := none, masterKind := 0, master := 0, hoop := none, ctx := none, detail := 0 }

theorem test_wf_accepts : [Instr.pllStop 3, .lanternGate 39, .strandStart 79, .load 135, .load 1023, .stitch 4095 65535, .wickTimeAdvance, .nop .mgmt msg0, .faultLatch fault0, .coreInstruction 128 7 false (.load 31 0 0 8 true)].map Instr.wf = [true, true, true, true, false, true, true, true, true, true] := by decide
theorem test_wf_quarter : noneWf [.pllStop 4, .quarterStoreRead 4 0 1, .moverDispatch 4, .ringTimeout 256, .copy 0 16, .allReduce 0 2] = true := by decide
theorem test_wf_store_range : noneWf [.quarterStoreRead 0 0x3FFFFFF 2, .quarterStoreWrite 0 0x4000000 [0] false, .mergeWindowExpire 0 0x4000000, .bobbinRead 12 0 1, .bobbinRead 0 0xFC0000000 1, .bobbinWrite 0 0xFBFFFFFFF [0, 0] false, .scratchpadWindowAccess .mgmt 0 0x1FFFFF none 2] = true := by decide
theorem test_wf_lantern : noneWf [.lanternGate 40, .lanternGate 80, .lanternGate 136, .lanternGate 192, .lanternGate 1024, .load 63] = true := by decide
theorem test_wf_hoop : noneWf [.stitchChoose 64, .rebindApply 64, .invalComplete 64, .frHeadWrite .mgmt 64 0] = true := by decide
theorem test_wf_requester : noneWf [.powerReqActive (.pf 2), .powerReqActive (.vf 64), .replay (.vf 64) 0] = true := by decide
theorem test_wf_core : noneWf [.xwait 128 8 0 0 0 false, .xdrain 128 8, .xfree 128 0 32, .xtile 128 0 32 0, .coreException 128 0 64 0] = true := by decide
theorem test_wf_core_op : noneWf ([CoreOp.load 32 0 0 8 true, .load 0 0 0 3 true, .store 0 32 0 8, .fence 4 0, .csr 0x33, .csr 0x4073, .int 0x80110033, .setX 0 0 32, .setV 31 [0, 0] 0 false].map (Instr.coreInstruction 128 0 false)) = true := by decide
theorem test_wf_link : noneWf [.linkCrcError (.mesh 4) 0, .linkCrcError (.bridge 8) 0, .linkCrcError (.hub 4) 0] = true := by decide
theorem test_wf_confirm : noneWf [.confirmingReadDone (.ring 4096) true, .confirmingReadDone (.work 0 65536) true, .confirmingReadDone (.save 64) true] = true := by decide
theorem test_wf_fault : noneWf [.faultLatch { fault0 with cls := 28 }, .faultLatch { fault0 with hoop := some 64 }, .faultLatch { fault0 with ctx := some 1024 }, .graceExpiry 28] = true := by decide
theorem test_wf_target : noneWf [.drainAllowanceEnd 0 0, .drainAllowanceEnd 1 1024, .drainAllowanceEnd 3 64, .resetOverrun 7 0, .selfCheckDone 40 true, .resetEnd 4 1] = true := by decide
theorem test_wf_message : noneWf [.nop .mgmt { msg0 with length := 1 }, .sessionClose { msg0 with sub := 256 }, .read .mgmt { msg0 with seq := 2 ^ 32 }, .mbControlGo .mgmt true 256 msg0] = true := by decide
theorem test_wf_drop : noneWf [.barAccessDrop ⟨.mgmt, 1, 0, 8⟩ true, .barAccessDrop ⟨.mgmt, 0, 0, 9⟩ true, .barAccessDrop ⟨.mgmt, 0, 0x3FFFFFF, 2⟩ true, .barAccessDrop ⟨.vf 0, 2, 4096, 8⟩ false] = true := by decide
theorem test_wf_debug : noneWf [.debugPortAccess (.control 0 3), .debugPortAccess (.readLocal (2 ^ 40) 1), .debugPortAccess (.writeLocal (2 ^ 40 - 1) [0, 0]), .debugPortAccess (.readState 40)] = true := by decide
theorem test_wf_engine : noneWf [.hostReadError (.lan 40) ⟨0, false, 0⟩, .hostReadError (.core 128 8) ⟨0, true, 0⟩, .hostReadError (.mover 0 16) ⟨0, false, 0⟩, .hostReadError (.coll 4 0) ⟨0, false, 0⟩, .hostReadError (.cse 256) ⟨0, false, 0⟩, .hostReadError .fe ⟨4096, false, 0⟩, .hostReadError (.host (.pf 2)) ⟨0, false, 0⟩] = true := by decide
theorem test_wf_eyelet : noneWf [.elpRead 8, .flitData 0 [0], .laneFailing 0 9, .ctrlHello 0 256 0 true 0 0 0] = true := by decide
theorem test_wf_port : noneWf [.perst 2, .cxlMemRead 0 4 0 64, .cxlMemWrite 0 0 0 [0], .bar4Read .mgmt 0 0, .hostLinkTrained 0 3 1 true true, .hdmDecoderCommit 0 0 0 0 3 256, .ideStreamSetup 0 4 true, .tdispRequest 64 .lock] = true := by decide
theorem test_wf_samples : noneWf [.railSample [], .activityInterval [0], .sensorRead [0], .stackTempRead [], .registerWrite .mgmt 0 0 0 [], .apertureAccess .mgmt 0 0 (some 0) 3, .setEndpointId 7, .challenge .mgmt (2 ^ 256)] = true := by decide

/-- No row of the table gives bits. -/
theorem test_decode_none : [(16, 0), (32, 0x13), (64, 1)].map (fun p => decodeTableWord p.1 p.2) = [none, none, none] := by decide


/-- One command waiting. -/
def waiting1 : State := { run0 with pending := [.wickTimeAdvance] }
/-- A state that meets the premises of `StepKeepsCanon`. -/
theorem witness_StepKeepsCanon : Canon waiting1 ∧ ∃ t, step waiting1 = .next t := ⟨⟨rfl, rfl⟩, _, rfl⟩
/-- A state and a command that meet the premises of `CommandFrame`. -/
theorem witness_CommandFrame : Canon run0 ∧ ∃ t, exec .wickTimeAdvance run0 = .next t := ⟨⟨rfl, rfl⟩, _, rfl⟩

end Sys2Proof.Tests
end

section
/-! SUPPORT. What an update of one field of the state keeps: the rules that the lemmas about the Keeper, the host ports, power,
telemetry, instances and the dictionary cite instead of unfolding the state. -/

namespace Sys2Proof.Machine

open Sys2Proof.Safety

variable {m : May} {a s t : State}

/-- An update that leaves the queue, the dictionary's cells and the bytes of memory alone is judged part by part. -/
theorem keep_of_parts (h : Keep m a s) (hpend : t.pending = s.pending) (hregs : t.regs = s.regs)
    (hbytes : t.mem.cells = s.mem.cells) (hpart : ∀ p, p ∈ m.parts ∨ p.same s t) : Keep m a t where
  canon := ⟨(congrArg (canonical memDefault) hbytes).trans h.canon.mem, (congrArg (canonical cellDefault) hregs).trans h.canon.regs⟩
  pend := hpend.trans h.pend
  part p := by
    rcases hpart p with hp | hst
    · exact .inl hp
    · refine (h.part p).imp_right fun has => ?_
      cases p with
      | safeExit => exact fun hs => hst (has hs)
      | _ => exact Eq.trans hst has
  cells k := (h.cells k).imp_right (congrArg (fun r => cget cellDefault r k) hregs).trans

theorem keep_clk {x : Clocks} (h : Keep m a s) (hp : .clocks ∈ m.parts) (hx : .wick ∈ m.parts ∨ x.wick = s.clk.wick) :
    Keep m a { s with clk := x } :=
  keep_of_parts h rfl rfl rfl fun p => by
    cases p with
    | clocks => exact .inl hp
    | wick => exact hx
    | safeExit => exact .inr id
    | _ => exact .inr rfl

theorem keep_snuffer {x : Snuffer} (h : Keep m a s) (hp : .snuffer ∈ m.parts) (hx : s.snuffer.safe = true → x.safe = true) :
    Keep m a { s with snuffer := x } :=
  keep_of_parts h rfl rfl rfl fun p => by
    cases p with
    | snuffer => exact .inl hp
    | safeExit => exact .inr hx
    | _ => exact .inr rfl

theorem keep_keeper {x : Keeper} (h : Keep m a s) (hp : .keeper ∈ m.parts) (hx : .lifeCycle ∈ m.parts ∨ x.lc = s.keeper.lc) :
    Keep m a { s with keeper := x } :=
  keep_of_parts h rfl rfl rfl fun p => by
    cases p with
    | keeper => exact .inl hp
    | lifeCycle => exact hx
    | safeExit => exact .inr id
    | _ => exact .inr rfl

/-- Memory changes, its bytes apart. -/
theorem keep_mem {x : Mem} (h : Keep m a s) (hp : .memory ∈ m.parts) (hx : x.cells = s.mem.cells) : Keep m a { s with mem := x } :=
  keep_of_parts h rfl rfl hx fun p => by
    cases p with
    | memory => exact .inl hp
    | bytes => exact .inr hx
    | safeExit => exact .inr id
    | _ => exact .inr rfl

theorem keep_hostMem {x : List Host.Cell} (h : Keep m a s) (hp : .hostBytes ∈ m.parts) : Keep m a { s with hostMem := x } :=
  keep_of_parts h rfl rfl rfl fun p => by
    cases p with
    | hostBytes => exact .inl hp
    | safeExit => exact .inr id
    | _ => exact .inr rfl

theorem keep_staged {x : Table Word} (h : Keep m a s) (hp : .staged ∈ m.parts) : Keep m a { s with staged := x } :=
  keep_of_parts h rfl rfl rfl fun p => by
    cases p with
    | staged => exact .inl hp
    | safeExit => exact .inr id
    | _ => exact .inr rfl

theorem keep_lan {x : Table Lantern} (h : Keep m a s) (hp : .lanterns ∈ m.parts) : Keep m a { s with lan := x } :=
  keep_of_parts h rfl rfl rfl fun p => by
    cases p with
    | lanterns => exact .inl hp
    | safeExit => exact .inr id
    | _ => exact .inr rfl

theorem keep_fab {x : Fabric} (h : Keep m a s) (hp : .fabric ∈ m.parts) : Keep m a { s with fab := x } :=
  keep_of_parts h rfl rfl rfl fun p => by
    cases p with
    | fabric => exact .inl hp
    | safeExit => exact .inr id
    | _ => exact .inr rfl

theorem keep_rng {x : RangeUnit} (h : Keep m a s) (hp : .ranges ∈ m.parts) : Keep m a { s with rng := x } :=
  keep_of_parts h rfl rfl rfl fun p => by
    cases p with
    | ranges => exact .inl hp
    | safeExit => exact .inr id
    | _ => exact .inr rfl

theorem keep_power {x : PowerUnit} (h : Keep m a s) (hp : .power ∈ m.parts) : Keep m a { s with power := x } :=
  keep_of_parts h rfl rfl rfl fun p => by
    cases p with
    | power => exact .inl hp
    | safeExit => exact .inr id
    | _ => exact .inr rfl

theorem keep_tele {x : Telemetry} (h : Keep m a s) (hp : .telemetry ∈ m.parts) : Keep m a { s with tele := x } :=
  keep_of_parts h rfl rfl rfl fun p => by
    cases p with
    | telemetry => exact .inl hp
    | safeExit => exact .inr id
    | _ => exact .inr rfl

theorem keep_darner {x : Darner} (h : Keep m a s) (hp : .darner ∈ m.parts) : Keep m a { s with darner := x } :=
  keep_of_parts h rfl rfl rfl fun p => by
    cases p with
    | darner => exact .inl hp
    | safeExit => exact .inr id
    | _ => exact .inr rfl

theorem keep_server {x : Server} (h : Keep m a s) (hp : .server ∈ m.parts) : Keep m a { s with server := x } :=
  keep_of_parts h rfl rfl rfl fun p => by
    cases p with
    | server => exact .inl hp
    | safeExit => exact .inr id
    | _ => exact .inr rfl

theorem keep_ports {x : List Port} (h : Keep m a s) (hp : .ports ∈ m.parts) : Keep m a { s with ports := x } :=
  keep_of_parts h rfl rfl rfl fun p => by
    cases p with
    | ports => exact .inl hp
    | safeExit => exact .inr id
    | _ => exact .inr rfl

theorem keep_answer {x : Answer} (h : Keep m a s) (hp : .answer ∈ m.parts) : Keep m a { s with answer := x } :=
  keep_of_parts h rfl rfl rfl fun p => by
    cases p with
    | answer => exact .inl hp
    | safeExit => exact .inr id
    | _ => exact .inr rfl

/-- The counter of free values is no part of the frame. -/
theorem keep_free {x : Nat} (h : Keep m a s) : Keep m a { s with free := x } :=
  keep_of_parts h rfl rfl rfl fun p => by
    cases p with
    | safeExit => exact .inr id
    | _ => exact .inr rfl

/-- The bytes of memory change too, and stay in canonical form. -/
theorem keep_memBytes {x : Mem} (h : Keep m a s) (hp : .memory ∈ m.parts) (hb : .bytes ∈ m.parts)
    (hx : canonical memDefault x.cells = true) : Keep m a { s with mem := x } where
  canon := ⟨hx, h.canon.regs⟩
  pend := h.pend
  part p := by
    cases p with
    | memory => exact .inl hp
    | bytes => exact .inl hb
    | _ => exact h.part _
  cells := h.cells

/-- The cells of some entries are dropped, so that they read as their defaults. -/
theorem keep_dropCells {f : Nat × Word → Bool} (h : Keep m a s) (hf : ∀ p, m.entry (p.1 / 2 ^ 24) ∨ f p = true) :
    Keep m a { s with regs := s.regs.filter f } where
  canon := ⟨h.canon.mem, canonical_filter f h.canon.regs⟩
  pend := h.pend
  part p := by cases p <;> exact h.part _
  cells k := (cells_filter hf k).elim .inl fun e => (h.cells k).imp_right e.trans

/-! ### Outcomes of a command -/

/-- What the frame of a command lets it change. -/
def may (c : Instr) : May := ⟨mayChange c, (Safety.mayWrite c).getD [], (Safety.mayWrite c).isNone⟩

/-- One list lies in another, by evaluation: unlike `decide`, `rfl` evaluates where a command's operands are variables. -/
theorem subOf {α : Type} [BEq α] [LawfulBEq α] {l l' : List α} (h : l.all l'.contains = true) : ∀ x ∈ l, x ∈ l' := by
  simpa using h

theorem partOf {p : StatePart} (h : m.parts.contains p = true) : p ∈ m.parts := by simpa using h

theorem entriesOf {l : List Nat} (h : l.all m.entries.contains = true) : ∀ e ∈ l, m.entry e := fun e he => .inr (subOf h e he)

theorem entryOf {e : Nat} (h : m.entries.contains e = true) : m.entry e := .inr (by simpa using h)

/-- `Keep` of the next state that a command answers; nothing is asked of a fault or a refusal. -/
def KeepX (m : May) (a : State) (o : Host.Outcome State Fault Refusal) : Prop := ∀ t, o = .next t → Keep m a t

theorem keepX_next (h : Keep m a s) : KeepX m a (.next s) := by rintro _ ⟨⟩; exact h
theorem keepX_unlessSafe (hs : Canon s) (h : Keep m s t) : KeepX m s (.next (unlessSafe s t)) :=
  keepX_next (unlessSafe_keep (keep_refl hs) h)
theorem keepX_gateWrite {who : Req} {e : Nat} {vfs : Bool} {f : State → State} (hs : Canon s)
    (hf : ∀ z, Keep m s z → Keep m s (f z)) (hw : ∀ p ∈ ([.clocks, .fabric, .power, .answer] : List StatePart), p ∈ m.parts) :
    KeepX m s (.next (gateWrite s who e vfs f)) := keepX_next (gateWrite_keep (keep_refl hs) hf hw)
theorem keepX_ite {c : Prop} [Decidable c] {x y : Host.Outcome State Fault Refusal} (hx : KeepX m a x) (hy : KeepX m a y) :
    KeepX m a (if c then x else y) := by
  split
  · exact hx
  · exact hy
theorem keepX_fault {f : Fault} : KeepX m a (.fault f) := by rintro _ ⟨⟩
theorem keepX_refused {r : Refusal} : KeepX m a (.refused r) := by rintro _ ⟨⟩

end Sys2Proof.Machine
end

section
/-! SUPPORT. What each operation of Machine/Keeper.lean keeps (`Keep`). -/

namespace Sys2Proof.Machine

open Sys2Proof.Safety

variable {m : May} {a s : State}

/-! ### Signed requests and transitions -/

theorem lcStatus_keep {bs : List Byte} {code : Nat} (h : Keep m a s) (he : ∀ e ∈ ([0x110003] : List Nat), m.entry e) :
    Keep m a (lcStatus s bs code) := setReg_keep h (he _ (by decide))

theorem signedRequest_keep {bs : List Byte} {type : Nat} {f : State → Request → State} (h : Keep m a s)
    (hf : ∀ z r, Keep m a z → Keep m a (f z r)) (hw : ∀ p ∈ ([.answer] : List StatePart), p ∈ m.parts)
    (he : ∀ e ∈ ([0x110003] : List Nat), m.entry e) : Keep m a (signedRequest s bs type f) := by
  have h1 := result_keep (code := 0) (lcStatus_keep (bs := bs) (code := requestCode s bs type) h he) hw
  exact keep_ite (hf _ _ h1) h1

@[simp] theorem writeMark_lc (s : State) (k : Mark) : (writeMark s k).keeper.lc = s.keeper.lc := by
  unfold writeMark
  split <;> rfl

/-- The life-cycle state stays when the mark's state is the one in force. -/
theorem enterPhase_keep {k : Mark} (h : Keep m a s) (hlc : .lifeCycle ∈ m.parts ∨ markState k = s.keeper.lc)
    (hw : ∀ p ∈ ([.snuffer, .keeper] : List StatePart), p ∈ m.parts) (he : ∀ e ∈ ([0x510002] : List Nat), m.entry e) :
    Keep m a (enterPhase s k) := by
  have h1 : Keep m a { writeMark s k with keeper := { (writeMark s k).keeper with lc := markState k } } :=
    keep_keeper (writeMark_keep h (partsSub (by decide) hw)) (hw _ (by decide)) (by simpa using hlc)
  exact keep_ite (startReset_keep h1 (partsSub (by decide) hw) he) h1

/-- Accepting a transition leaves the state in force: the first mark's phase is STAGED (R536). -/
theorem acceptTransition_keep {r : Request} {hash : Nat} (h : Keep m a s)
    (hw : ∀ p ∈ ([.snuffer, .keeper] : List StatePart), p ∈ m.parts)
    (he : ∀ e ∈ ([0x110005, 0x510002] : List Nat), m.entry e) : Keep m a (acceptTransition s r hash) := by
  unfold acceptTransition
  extract_lets n seq k s1 _ s2
  have h2 : Keep m a s2 := keep_keeper (setReg_keep h (he _ (by decide))) (hw _ (by decide)) (.inr rfl)
  exact enterPhase_keep h2 (.inr (show markState k = s.keeper.lc by simp [markState, k])) hw (entriesSub (by decide) he)

theorem lcRequest_keep {who : Req} {bs : List Byte} (h : Keep m a s)
    (hw : ∀ p ∈ ([.clocks, .fabric, .power, .snuffer, .keeper, .answer] : List StatePart), p ∈ m.parts)
    (he : ∀ e ∈ ([0x110003, 0x110005, 0x510002] : List Nat), m.entry e) : Keep m a (lcRequest s who bs) :=
  gateWrite_keep h (fun _ hz => keep_ite (result_keep hz (partsSub (by decide) hw))
    (signedRequest_keep hz (fun _ _ hz => acceptTransition_keep hz (partsSub (by decide) hw) (entriesSub (by decide) he))
      (partsSub (by decide) hw) (entriesSub (by decide) he))) (partsSub (by decide) hw)

/-! ### The work of the phases -/

theorem clearSrams_keep (h : Keep m a s) (hw : ∀ p ∈ ([.memory, .bytes, .lanterns] : List StatePart), p ∈ m.parts) :
    Keep m a (clearSrams s) := by
  have h1 := zeroStores_keep h (partsSub (by decide) hw)
  exact keep_lan (keep_memBytes h1 (hw _ (by decide)) (hw _ (by decide)) (canonical_filter _ h1.canon.mem)) (hw _ (by decide))

theorem wipeData_keep (h : Keep m a s) (hw : ∀ p ∈ ([.memory, .bytes, .lanterns] : List StatePart), p ∈ m.parts)
    (he : ∀ e ∈ ([0x520003] : List Nat), m.entry e) : Keep m a (wipeData s) := by
  unfold wipeData
  extract_lets s1
  have h1 : Keep m a s1 := setRegFld_keep (clearSrams_keep h hw) (he _ (by decide))
  split
  · exact keep_mem h1 (hw _ (by decide)) rfl
  · exact keep_memBytes h1 (hw _ (by decide)) (hw _ (by decide)) canonical_nil

theorem wipeOwner_keep (h : Keep m a s) (hw : ∀ p ∈ ([.keeper] : List StatePart), p ∈ m.parts)
    (he : ∀ e ∈ ([0x110009, 0x11000A, 0x11000B] : List Nat), m.entry e) : Keep m a (wipeOwner s) := by
  have h1 := keep_keeper (x := { (endConf s).keeper with ctrlKey := [], imageKey := [], token := none })
    (endConf_keep h hw) (hw _ (by decide)) (.inr rfl)
  exact setReg_keep (setReg_keep (setReg_keep h1 (he _ (by decide))) (he _ (by decide))) (he _ (by decide))

theorem wipeWick_keep {k : Mark} (h : Keep m a s)
    (hw : ∀ p ∈ ([.lanterns, .snuffer, .keeper, .darner] : List StatePart), p ∈ m.parts)
    (he : ∀ e ∈ ([0x110009, 0x11000A, 0x11000B, 0x500007, 0x520003, 0xA00007, 0xA00008] : List Nat), m.entry e) :
    Keep m a (wipeWick s k) := by
  unfold wipeWick
  extract_lets _ s1 s2 s3
  have h1 : Keep m a s1 := setRegFld_keep (keep_snuffer h (hw _ (by decide)) id) (he _ (by decide))
  have h2 : Keep m a s2 := keep_ite h1 (keep_dropCells h1 fun p => by
    by_cases hp : p.1 / 2 ^ 24 = 0x500007
    · exact .inl (hp ▸ he _ (by decide))
    · exact .inr (decide_eq_true hp))
  have h3 : Keep m a s3 := wipeOwner_keep h2 (partsSub (by decide) hw) (entriesSub (by decide) he)
  split
  · have h4 := keep_darner (x := { deadPhys := [], remaps := [], retired := [], queue := [], ces := [], chanRemaps := [], deadEngines := [] })
      h3 (hw _ (by decide))
    refine keep_lan (keep_dropCells h4 fun p => ?_) (hw _ (by decide))
    by_cases hp : p.1 / 2 ^ 24 ∈ [0xA00007, 0xA00008]
    · exact .inl (entriesSub (by decide) he _ hp)
    · exact .inr (by simpa using hp)
  · exact h3

theorem installOwner_keep (h : Keep m a s) (hw : ∀ p ∈ ([.keeper] : List StatePart), p ∈ m.parts)
    (he : ∀ e ∈ ([0x11000A, 0x11000B] : List Nat), m.entry e) : Keep m a (installOwner s) :=
  setReg_keep (setReg_keep (keep_keeper h (hw _ (by decide)) (.inr rfl)) (he _ (by decide))) (he _ (by decide))

theorem phaseWork_keep {k : Mark} (h : Keep m a s)
    (hw : ∀ p ∈ ([.memory, .bytes, .lanterns, .snuffer, .keeper, .darner] : List StatePart), p ∈ m.parts)
    (he : ∀ e ∈ ([0x110009, 0x11000A, 0x11000B, 0x500007, 0x520003, 0xA00007, 0xA00008] : List Nat), m.entry e) :
    Keep m a (phaseWork s k) := by
  unfold phaseWork
  split
  · exact wipeData_keep h (partsSub (by decide) hw) (entriesSub (by decide) he)
  · exact wipeWick_keep h (partsSub (by decide) hw) he
  · exact installOwner_keep h (partsSub (by decide) hw) (entriesSub (by decide) he)
  · exact keep_keeper h (hw _ (by decide)) (.inr rfl)
  · exact h

theorem transitionPhaseDone_keep (h : Keep m a s)
    (hw : ∀ p ∈ (may .transitionPhaseDone).parts, p ∈ m.parts)
    (he : ∀ e ∈ (may .transitionPhaseDone).entries, m.entry e) : Keep m a (transitionPhaseDone s) := by
  unfold transitionPhaseDone
  split
  · exact h
  split
  · exact h
  extract_lets _ go
  have hgo : ∀ z, Keep m a z → Keep m a (go z) := fun z hz =>
    enterPhase_keep (phaseWork_keep hz (partsSub (by decide) hw) (entriesSub (by decide) he)) (.inl (hw _ (by decide)))
      (partsSub (by decide) hw) (entriesSub (by decide) he)
  split
  · exact keep_ite (hgo _ (endReset_keep h (partsSub (by decide) hw) (entriesSub (by decide) he))) h
  · exact hgo _ h

theorem resumeMarks_keep (h : Keep m a s) (hw : ∀ p ∈ ([.keeper, .lifeCycle] : List StatePart), p ∈ m.parts) :
    Keep m a (resumeMarks s) := by
  unfold resumeMarks
  split <;> exact keep_keeper h (hw _ (by decide)) (.inl (hw _ (by decide)))

/-! ### Crash dumps sent out, and signed writes -/

theorem startExport_keep {x : Nat} (h : Keep m a s) (hw : ∀ p ∈ ([.snuffer] : List StatePart), p ∈ m.parts)
    (he : ∀ e ∈ ([0x520003, 0x520006] : List Nat), m.entry e) : Keep m a (startExport s x) :=
  setRegFld_keep (keep_snuffer (setReg_keep h (he _ (by decide))) (hw _ (by decide)) id) (he _ (by decide))

theorem rwsApply_keep {e v : Nat} (h : Keep m a s) (hw : ∀ p ∈ ([.snuffer] : List StatePart), p ∈ m.parts)
    (ha : m.any = true) : Keep m a (rwsApply s e v) :=
  keep_ite (startExport_keep h hw (entriesAny ha)) (setReg_keep h (entryAny ha))

theorem signedWrite_keep {who : Req} {bs : List Byte} (h : Keep m a s)
    (hw : ∀ p ∈ ([.clocks, .fabric, .power, .snuffer, .answer] : List StatePart), p ∈ m.parts) (ha : m.any = true) :
    Keep m a (signedWrite s who bs) :=
  gateWrite_keep h (fun _ hz => signedRequest_keep hz
    (fun _ _ hz => rwsApply_keep (setReg_keep hz (entryAny ha)) (partsSub (by decide) hw) ha)
    (partsSub (by decide) hw) (entriesAny ha)) (partsSub (by decide) hw)

theorem dumpExport_keep {who : Req} {v : Word} (h : Keep m a s)
    (hw : ∀ p ∈ ([.clocks, .fabric, .power, .snuffer, .answer] : List StatePart), p ∈ m.parts)
    (he : ∀ e ∈ ([0x520003, 0x520006] : List Nat), m.entry e) : Keep m a (dumpExport s who v) := by
  have hr : ∀ {z : State} {code : Nat}, Keep m a z → Keep m a (result z code) := fun hz => result_keep hz (partsSub (by decide) hw)
  exact gateWrite_keep h (fun _ hz => keep_ite (hr hz)
    (keep_ite (hr (startExport_keep hz (partsSub (by decide) hw) he)) (hr hz))) (partsSub (by decide) hw)

theorem dumpExportDone_keep {ok : Bool} (h : Keep m a s)
    (hw : ∀ p ∈ ([.hostBytes, .fabric, .floss, .snuffer] : List StatePart), p ∈ m.parts)
    (he : ∀ e ∈ ([0x520003, 0x600001, 0x810008] : List Nat), m.entry e) : Keep m a (dumpExportDone s ok) := by
  unfold dumpExportDone
  split
  · exact h
  extract_lets _ s1 _ _ s2
  have h1 : Keep m a s1 := keep_snuffer h (hw _ (by decide)) id
  have h2 : Keep m a s2 := portArrive_keep (countP_keep h1 (entriesSub (by decide) he)) (partsSub (by decide) hw)
  exact keep_ite (issueConfirm_keep (keep_hostMem h2 (hw _ (by decide))) (partsSub (by decide) hw) (entriesSub (by decide) he))
    (setRegFld_keep h1 (he _ (by decide)))

/-! ### Debug tokens -/

theorem debugToken_keep {who : Req} {bs : List Byte} (h : Keep m a s)
    (hw : ∀ p ∈ ([.clocks, .fabric, .power, .keeper, .answer] : List StatePart), p ∈ m.parts)
    (he : ∀ e ∈ ([0x110003] : List Nat), m.entry e) : Keep m a (debugToken s who bs) :=
  gateWrite_keep h (fun _ hz => signedRequest_keep hz (fun _ _ hz => keep_keeper hz (hw _ (by decide)) (.inr rfl))
    (partsSub (by decide) hw) he) (partsSub (by decide) hw)

theorem debugTokenExpire_keep (h : Keep m a s) (hw : ∀ p ∈ ([.keeper] : List StatePart), p ∈ m.parts) :
    Keep m a (debugTokenExpire s) := by
  unfold debugTokenExpire
  split
  · exact keep_ite (keep_keeper h (hw _ (by decide)) (.inr rfl)) h
  · exact h

/-! ### Confidential mode -/

theorem clearSelValues_keep (h : Keep m a s) (he : ∀ e ∈ ([0x600003] : List Nat), m.entry e) : Keep m a (clearSelValues s) :=
  keep_dropCells h fun p => by
    by_cases hp : p.1 / 2 ^ 24 = 0x600003
    · exact .inl (hp ▸ he _ (by decide))
    · exact .inr (decide_eq_true hp)

theorem dropStagedDumps_keep (h : Keep m a s) (hw : ∀ p ∈ ([.telemetry] : List StatePart), p ∈ m.parts) :
    Keep m a (dropStagedDumps s) := keep_tele h (hw _ (by decide))

theorem openEpoch_keep {e : Nat} {key : Option Nat} (h : Keep m a s) (hw : ∀ p ∈ ([.keeper] : List StatePart), p ∈ m.parts) :
    Keep m a (openEpoch s e key) := keep_keeper h (hw _ (by decide)) (.inr rfl)

theorem confEnter_keep {bs : List Byte} (h : Keep m a s)
    (hw : ∀ p ∈ ([.clocks, .scrubs, .keeper, .telemetry] : List StatePart), p ∈ m.parts)
    (he : ∀ e ∈ ([0x300004, 0x600003] : List Nat), m.entry e) : Keep m a (confEnter s bs) := by
  unfold confEnter
  extract_lets _ k s1
  have h1 : Keep m a s1 := openEpoch_keep (keep_keeper h (hw _ (by decide)) (.inr rfl)) (partsSub (by decide) hw)
  have h2 := keep_foldl (l := allUnits) h1 fun _ u hz => scrubUnit_keep (u := u) hz (partsSub (by decide) hw) (entriesSub (by decide) he)
  exact dropStagedDumps_keep (clearSelValues_keep h2 (entriesSub (by decide) he)) (partsSub (by decide) hw)

theorem confChange_keep {bs : List Byte} {leave : Bool} (h : Keep m a s)
    (hw : ∀ p ∈ ([.staged, .power, .keeper] : List StatePart), p ∈ m.parts)
    (he : ∀ e ∈ ([0x220003] : List Nat), m.entry e) : Keep m a (confChange s bs leave) := by
  unfold confChange
  extract_lets e s1 _ s2 s3
  have h1 : Keep m a s1 := takeStaged_keep (tickThrottle_keep h (partsSub (by decide) hw)) (partsSub (by decide) hw) he
  have h2 : Keep m a s2 := keep_keeper h1 (hw _ (by decide)) (.inr rfl)
  have h3 : Keep m a s3 := openEpoch_keep h2 (partsSub (by decide) hw)
  exact keep_ite h3 (keep_keeper h3 (hw _ (by decide)) (.inr rfl))

theorem confCommand_keep {who : Req} {bs : List Byte} (h : Keep m a s)
    (hw : ∀ p ∈ ([.clocks, .staged, .fabric, .scrubs, .power, .keeper, .telemetry, .answer] : List StatePart), p ∈ m.parts)
    (he : ∀ e ∈ ([0x110003, 0x110006, 0x220003, 0x300004, 0x600003] : List Nat), m.entry e) : Keep m a (confCommand s who bs) := by
  refine gateWrite_keep h (fun _ hz => keep_ite (result_keep hz (partsSub (by decide) hw)) ?_) (partsSub (by decide) hw)
  refine signedRequest_keep hz (fun z r hz => ?_) (partsSub (by decide) hw) (entriesSub (by decide) he)
  have h1 := setReg_keep (row := 0) (v := r.counter) hz (he 0x110006 (by decide))
  split
  · exact confEnter_keep h1 (partsSub (by decide) hw) (entriesSub (by decide) he)
  · exact confChange_keep h1 (partsSub (by decide) hw) (entriesSub (by decide) he)

theorem keyEpochDrained_keep (h : Keep m a s) (hw : ∀ p ∈ (may .keyEpochDrained).parts, p ∈ m.parts)
    (he : ∀ e ∈ (may .keyEpochDrained).entries, m.entry e) : Keep m a (keyEpochDrained s) := by
  unfold keyEpochDrained
  split
  · split
    · exact h
    extract_lets _ k s1 s2 old s3 late
    have h1 : Keep m a s1 := keep_keeper h (hw _ (by decide)) (.inr rfl)
    have h2 : Keep m a s2 := completeRemotes_keep h1 (partsSub (by decide) hw) (entriesSub (by decide) he)
    have h3 : Keep m a s3 := keep_foldl h2 fun _ _ hz => killMover_keep hz (partsSub (by decide) hw) (entriesSub (by decide) he)
    exact keep_foldl h3 fun _ _ hz => stopEntry_keep hz (partsSub (by decide) hw) (entriesSub (by decide) he)
  · exact h

theorem keyScrubDone_keep (h : Keep m a s)
    (hw : ∀ p ∈ ([.memory, .bytes, .floss, .power, .keeper] : List StatePart), p ∈ m.parts)
    (he : ∀ e ∈ ([0x600001, 0x600003] : List Nat), m.entry e) : Keep m a (keyScrubDone s) := by
  unfold keyScrubDone
  split
  · extract_lets s1 units s2
    have h1 : Keep m a s1 := tickThrottle_keep h (partsSub (by decide) hw)
    have h2 : Keep m a s2 := keep_foldl h1 fun _ _ hz => keep_keeper (portArrive_keep (countB_keep (zeroRun_keep hz (partsSub (by decide) hw))
      (entriesSub (by decide) he)) (partsSub (by decide) hw)) (hw _ (by decide)) (.inr rfl)
    split
    · exact clearSelValues_keep (keep_keeper h2 (hw _ (by decide)) (.inr rfl)) (entriesSub (by decide) he)
    · exact keep_keeper h2 (hw _ (by decide)) (.inr rfl)
  · exact h

/-! ### SPDM -/

theorem spdmFree_keep {n : Nat} (h : Keep m a s) (hw : ∀ p ∈ ([.answer] : List StatePart), p ∈ m.parts) : Keep m a (spdmFree s n) :=
  reply_keep (freeBytes_keep h) hw

theorem getMeasurements_keep {who : Req} (h : Keep m a s) (hw : ∀ p ∈ ([.answer] : List StatePart), p ∈ m.parts) :
    Keep m a (getMeasurements s who) := reply_keep (freeBytes_keep h) hw

theorem keyExchange_keep {who : Req} (h : Keep m a s) (hw : ∀ p ∈ ([.keeper, .answer] : List StatePart), p ∈ m.parts) :
    Keep m a (keyExchange s who) :=
  spdmFree_keep (keep_keeper h (hw _ (by decide)) (.inr rfl)) (partsSub (by decide) hw)

theorem finish_keep {who : Req} (h : Keep m a s) (hw : ∀ p ∈ ([.keeper, .answer] : List StatePart), p ∈ m.parts) :
    Keep m a (finish s who) :=
  keep_ite (spdmFree_keep (keep_keeper h (hw _ (by decide)) (.inr rfl)) (partsSub (by decide) hw))
    (reply_keep h (partsSub (by decide) hw))

end Sys2Proof.Machine
end

section
/-! SUPPORT. What each operation of Machine/HostPort.lean keeps (`Keep`). -/

namespace Sys2Proof.Machine

open Sys2Proof.Safety

variable {m : May} {a s : State}

/-! ### Resets from a port -/

theorem portReset_keep {level target : Nat} (h : Keep m a s) (hw : ∀ p ∈ ([.snuffer] : List StatePart), p ∈ m.parts)
    (he : ∀ e ∈ ([0x510002] : List Nat), m.entry e) : Keep m a (portReset s level target) :=
  keep_ite h (startReset_keep h hw he)

theorem flrVf_keep {n : Nat} (h : Keep m a s) (hw : ∀ p ∈ ([.snuffer, .server, .ports, .vfs] : List StatePart), p ∈ m.parts)
    (he : ∀ e ∈ ([0x510002] : List Nat), m.entry e) : Keep m a (flrVf s n) := by
  unfold flrVf
  split
  · exact h
  extract_lets p s1 s2 s3
  have h1 : Keep m a s1 := by
    unfold s1
    split
    · exact keep_ite (portReset_keep h (partsSub (by decide) hw) he) h
    · exact h
  have h2 : Keep m a s2 := modPort_keep h1 (partsSub (by decide) hw)
  have h3 : Keep m a s3 := modVf_keep h2 (partsSub (by decide) hw)
  exact keep_server h3 (hw _ (by decide))

theorem flrPf_keep {n : Nat} (h : Keep m a s) (hw : ∀ p ∈ ([.snuffer, .server, .ports, .vfs] : List StatePart), p ∈ m.parts)
    (he : ∀ e ∈ ([0x510002] : List Nat), m.entry e) : Keep m a (flrPf s n) := by
  unfold flrPf
  split
  · exact h
  extract_lets hs s1 vfs s2 _ s3
  have h1 : Keep m a s1 := modPort_keep h (partsSub (by decide) hw)
  have h2 : Keep m a s2 := keep_foldl h1 fun _ _ hz => modVf_keep hz (partsSub (by decide) hw)
  have h3 : Keep m a s3 := keep_server h2 (hw _ (by decide))
  exact keep_foldl h3 fun _ _ hz => portReset_keep hz (partsSub (by decide) hw) he

theorem perstNow_keep {n : Nat} (h : Keep m a s) (hw : ∀ p ∈ ([.snuffer, .ports] : List StatePart), p ∈ m.parts)
    (he : ∀ e ∈ ([0x510002] : List Nat), m.entry e) : Keep m a (perstNow s n) :=
  keep_ite (portReset_keep h (partsSub (by decide) hw) he)
    (keep_ite (keep_foldl (modPort_keep h (partsSub (by decide) hw)) fun _ _ hz => portReset_keep hz (partsSub (by decide) hw) he) h)

theorem recordPerst_keep {k : Nat} (h : Keep m a s) (hw : ∀ p ∈ ([.snuffer] : List StatePart), p ∈ m.parts) :
    Keep m a (recordPerst s k) := keep_snuffer h (hw _ (by decide)) id

theorem perst_keep {n : Nat} (h : Keep m a s) (hw : ∀ p ∈ ([.snuffer, .ports] : List StatePart), p ∈ m.parts)
    (he : ∀ e ∈ ([0x510002] : List Nat), m.entry e) : Keep m a (perst s n) :=
  keep_ite h (keep_ite (recordPerst_keep (modPort_keep h (partsSub (by decide) hw)) (partsSub (by decide) hw))
    (perstNow_keep (modPort_keep h (partsSub (by decide) hw)) hw he))

theorem perstRelease_keep {n : Nat} (h : Keep m a s) (hw : ∀ p ∈ ([.snuffer, .ports] : List StatePart), p ∈ m.parts) :
    Keep m a (perstRelease s n) := by
  have h1 := modPort_keep (p := n) (f := fun x => { x with perst := false }) h (partsSub (by decide) hw)
  exact keep_ite h (keep_ite (recordPerst_keep h1 (partsSub (by decide) hw)) h1)

theorem takePerst_keep (h : Keep m a s) (hw : ∀ p ∈ ([.snuffer, .ports] : List StatePart), p ∈ m.parts)
    (he : ∀ e ∈ ([0x510002] : List Nat), m.entry e) : Keep m a (takePerst s) :=
  keep_foldl (keep_snuffer h (hw _ (by decide)) id) fun _ _ hz =>
    keep_ite (perstNow_keep (modPort_keep hz (partsSub (by decide) hw)) hw he) hz

theorem hostLinkTrained_keep {p width speed : Nat} {flit cxl : Bool} (h : Keep m a s)
    (hw : ∀ p ∈ ([.ports] : List StatePart), p ∈ m.parts) : Keep m a (hostLinkTrained s p width speed flit cxl) :=
  keep_ite h (modPort_keep h hw)

/-! ### CXL .mem, the fence window and BAR drops -/

theorem hdmDecoderCommit_keep {p d base size ways gran : Nat} (h : Keep m a s)
    (hw : ∀ p ∈ ([.ports] : List StatePart), p ∈ m.parts) : Keep m a (hdmDecoderCommit s p d base size ways gran) :=
  keep_ite h (modPort_keep h hw)

theorem cxlMemRead_keep {p d dpa len : Nat} (h : Keep m a s)
    (hw : ∀ p ∈ (may (.cxlMemRead 0 0 0 0)).parts, p ∈ m.parts) (he : ∀ e ∈ (may (.cxlMemRead 0 0 0 0)).entries, m.entry e) :
    Keep m a (cxlMemRead s p d dpa len) := by
  unfold cxlMemRead
  split
  · exact reply_keep (countP_keep h (entriesSub (by decide) he)) (partsSub (by decide) hw)
  · exact cxlAccess_keep h (partsSub (by decide) hw) (entriesSub (by decide) he)

theorem cxlMemWrite_keep {p d dpa : Nat} {data : List Byte} (h : Keep m a s)
    (hw : ∀ p ∈ (may (.cxlMemWrite 0 0 0 [])).parts, p ∈ m.parts) (he : ∀ e ∈ (may (.cxlMemWrite 0 0 0 [])).entries, m.entry e) :
    Keep m a (cxlMemWrite s p d dpa data) := by
  unfold cxlMemWrite
  split
  · exact countP_keep h (entriesSub (by decide) he)
  · exact cxlAccess_keep h (partsSub (by decide) hw) (entriesSub (by decide) he)

theorem fenceWindowRead_keep {who : Req} {f : Nat} (h : Keep m a s)
    (hw : ∀ p ∈ ([.floss, .answer] : List StatePart), p ∈ m.parts) (he : ∀ e ∈ ([0x600001] : List Nat), m.entry e) :
    Keep m a (fenceWindowRead s who f) := by
  have h1 := hostCross_keep (who := who) (dir := 0) (flow := none) (n := 8) h (partsSub (by decide) hw) he
  exact keep_ite (reply_keep h (partsSub (by decide) hw))
    (keep_ite (reply_keep h1 (partsSub (by decide) hw)) (reply_keep (countP_keep h1 he) (partsSub (by decide) hw)))

theorem bar0Drop_keep {off : Nat} {isRead : Bool} (h : Keep m a s) (he : ∀ e ∈ ([0x600001, 0x900014] : List Nat), m.entry e) :
    Keep m a (bar0Drop s off isRead) :=
  keep_ite (dropDoorbell_keep h (entriesSub (by decide) he)) (keep_ite h
    (keep_ite (invalDropped_keep h (entriesSub (by decide) he)) (dropDoorbell_keep h (entriesSub (by decide) he))))

theorem barAccessDrop_keep {who : Req} {bar off len : Nat} {isRead : Bool} (h : Keep m a s)
    (hw : ∀ p ∈ ([.answer] : List StatePart), p ∈ m.parts) (he : ∀ e ∈ ([0x600001, 0x900014] : List Nat), m.entry e) :
    Keep m a (barAccessDrop s who bar off len isRead) :=
  keep_ite (reply_keep (bar0Drop_keep h he) hw)
    (keep_ite (reply_keep h hw) (reply_keep (dropDoorbell_keep h (entriesSub (by decide) he)) hw))

/-! ### IDE, TDISP and confirming reads -/

theorem ideStreamSetup_keep {p stream : Nat} {selective : Bool} (h : Keep m a s)
    (hw : ∀ p ∈ ([.ports] : List StatePart), p ∈ m.parts) : Keep m a (ideStreamSetup s p stream selective) :=
  keep_ite h (keep_ite (modPort_keep h hw) (modPort_keep h hw))

theorem tdispRequest_keep {n : Nat} {r : TdispReq} (h : Keep m a s)
    (hw : ∀ p ∈ ([.vfs, .answer] : List StatePart), p ∈ m.parts) : Keep m a (tdispRequest s n r) := by
  have no : Keep m a (reply s [] false 1) := reply_keep h (partsSub (by decide) hw)
  unfold tdispRequest
  split
  · exact no
  extract_lets set
  have yes : ∀ x, Keep m a (set x) := fun x => reply_keep (modVf_keep h (partsSub (by decide) hw)) (partsSub (by decide) hw)
  split
  · exact yes _
  · exact keep_ite no (yes _)
  · exact yes _
  · exact no

theorem confirmed_keep {what : Confirm} {p : Nat} {ok : Bool} (h : Keep m a s)
    (hw : ∀ p ∈ ([.fabric, .queues, .telemetry] : List StatePart), p ∈ m.parts)
    (he : ∀ e ∈ (may (.confirmingReadDone .dump true)).entries, m.entry e) : Keep m a (confirmed s what p ok) := by
  unfold confirmed
  split
  · split
    · exact keep_tele h (hw _ (by decide))
    · exact setRegFld_keep h (he _ (by decide))
    · exact h
  extract_lets s1
  have h1 : Keep m a s1 := countP_keep h (entriesSub (by decide) he)
  split
  · exact keep_ite (queueError_keep h1 (partsSub (by decide) hw) (entriesSub (by decide) he)) h1
  · exact workUndelivered_keep h1 (partsSub (by decide) hw)
  · exact setReg_keep h1 (he _ (by decide))
  · exact bump_keep h1 (he _ (by decide))
  · exact keep_tele (keep_fab h1 (hw _ (by decide))) (hw _ (by decide))
  · exact setRegFld_keep h1 (he _ (by decide))
  · exact setRegFld_keep h1 (he _ (by decide))

theorem confirmingReadDone_keep {what : Confirm} {ok : Bool} (h : Keep m a s)
    (hw : ∀ p ∈ ([.fabric, .queues, .telemetry] : List StatePart), p ∈ m.parts)
    (he : ∀ e ∈ (may (.confirmingReadDone .dump true)).entries, m.entry e) : Keep m a (confirmingReadDone s what ok) := by
  unfold confirmingReadDone
  split
  · exact h
  · exact confirmed_keep (keep_fab h (hw _ (by decide))) hw he

/-! ### The debug port -/

theorem execDebugPortAccess_keep {acc : DebugAcc} (h : Keep m a s) (hw : ∀ p ∈ (may (.debugPortAccess .scan)).parts, p ∈ m.parts)
    (he : ∀ e ∈ withLatch [0x600001, 0x600003], m.entry e) : KeepX m a (execDebugPortAccess acc s) := by
  have hno : KeepX m a (.next (refuse s .rights)) := keepX_next (refuse_keep h (partsSub (by decide) hw))
  have hreply : ∀ {z : State} {bs : List Byte}, Keep m a z → KeepX m a (.next (reply z bs false 0)) := fun hz =>
    keepX_next (reply_keep hz (partsSub (by decide) hw))
  have hlocal : ∀ {a' n : Nat} {w : Option (List Byte)}, KeepX m a (.next (debugLocal s a' n w)) :=
    keepX_next (debugLocal_keep h (partsSub (by decide) hw) (entriesSub (by decide) he))
  refine keepX_ite (keepX_next (refuse_keep (debugTokenExpire_keep h (partsSub (by decide) hw)) (partsSub (by decide) hw))) ?_
  split
  · exact keepX_refused
  · exact keepX_ite keepX_fault (keepX_ite hno (keepX_ite (keepX_next (answerData_keep
      (readHost_keep h (partsSub (by decide) hw) (entriesSub (by decide) he)) (partsSub (by decide) hw))) hlocal))
  · exact keepX_ite keepX_fault (keepX_ite hno (keepX_ite
      (hreply (writeHost_keep h (partsSub (by decide) hw) (entriesSub (by decide) he))) hlocal))
  · exact hreply h
  · exact hreply (modLantern_keep h (partsSub (by decide) hw))

end Sys2Proof.Machine
end

section
/-! SUPPORT. What each operation of Machine/Power.lean keeps (`Keep`). -/

namespace Sys2Proof.Machine

open Sys2Proof.Safety

variable {m : May} {a s : State}

/-! ### Supplies -/

/-- OFF keeps the host's memory and the life-cycle state; every other part may be at its start (R459). -/
theorem powerOff_keep (h : Keep m a s) (hw : ∀ p ∈ (may .auxLost).parts, p ∈ m.parts) (ha : m.any = true) :
    Keep m a (powerOff s) where
  canon := ⟨canonical_nil, canonical_cput _ _ (canonical_filter _ h.canon.regs)⟩
  pend := h.pend
  part p := by
    cases p with
    | hostBytes | hostPoison | lifeCycle => exact h.part _
    | _ => exact .inl (hw _ (by decide))
  cells _ := .inl (entryAny ha)

theorem railsDown_keep {main : Bool} (h : Keep m a s) (hw : ∀ p ∈ ([.memory, .power, .ports] : List StatePart), p ∈ m.parts) :
    Keep m a (railsDown s main) := by
  have h1 := keep_power (x := { s.power with
    mainPresent := main, mainOk := false, ready := false, step := min s.power.step (if main then 3 else 2) }) h (hw _ (by decide))
  have h2 := keep_ports (x := s.ports.map fun p => { Port.reset with perst := p.perst, ready := false }) h1 (hw _ (by decide))
  exact keep_mem (x := { s.mem with zeroed := false }) h2 (hw _ (by decide)) rfl

theorem mainLost_keep (h : Keep m a s) (hw : ∀ p ∈ (may .mainLost).parts, p ∈ m.parts) (ha : m.any = true) :
    Keep m a (mainLost s) := by
  unfold mainLost
  split
  · exact h
  extract_lets _ s1 _ s2 _ s3 s4
  have h1 : Keep m a s1 := keep_power h (hw _ (by decide))
  have h2 : Keep m a s2 := tickThrottle_keep h1 (partsSub (by decide) hw)
  have h4 : Keep m a s4 := setRegFld_keep (keep_power h2 (hw _ (by decide))) (entryAny ha)
  refine keep_ite (keep_power h1 (hw _ (by decide))) (keep_ite ?_ (keep_ite ?_ (keep_power h1 (hw _ (by decide)))))
  · exact keep_ite (railsDown_keep h1 (partsSub (by decide) hw)) (powerOff_keep h1 (partsSub (by decide) hw) ha)
  · exact latch_keep h4 (partsSub (by decide) hw) (entriesAny ha)

theorem eyesDown_keep {l : List Nat} (h : Keep m a s) (hw : ∀ p ∈ (may .backupStopped).parts, p ∈ m.parts)
    (he : ∀ e ∈ (may .backupStopped).entries, m.entry e) : Keep m a (l.foldl eyeDown s) :=
  keep_foldl h fun _ _ hz => eyeDown_keep hz (partsSub (by decide) hw) (entriesSub (by decide) he)

theorem engineRailsOff_keep (h : Keep m a s) (hw : ∀ p ∈ (may .backupStopped).parts, p ∈ m.parts)
    (he : ∀ e ∈ (may .backupStopped).entries, m.entry e) : Keep m a (engineRailsOff s) := by
  unfold engineRailsOff
  extract_lets s1 joins gate s2
  have h1 : Keep m a s1 := eyesDown_keep h hw he
  have h2 : Keep m a s2 := keep_lan h1 (hw _ (by decide))
  clear_value s2
  exact keep_clk h2 (hw _ (by decide)) (.inr rfl)

theorem loseHeldBack_keep (h : Keep m a s) (hw : ∀ p ∈ ([.memory, .bytes] : List StatePart), p ∈ m.parts) :
    Keep m a (loseHeldBack s) :=
  keep_memBytes h (hw _ (by decide)) (hw _ (by decide)) (canonical_filter _ h.canon.mem)

theorem endPowerCycle_keep (h : Keep m a s) (hw : ∀ p ∈ ([.memory, .bytes, .snuffer] : List StatePart), p ∈ m.parts)
    (he : ∀ e ∈ ([0x500007, 0x510003] : List Nat), m.entry e) : Keep m a (endPowerCycle s) := by
  unfold endPowerCycle
  extract_lets s1
  have h1 : Keep m a s1 := by
    unfold s1
    split
    · exact completeLogs_keep (logReset_keep h (partsSub (by decide) hw) (entriesSub (by decide) he)) (entriesSub (by decide) he)
    · exact h
  exact loseHeldBack_keep (keep_snuffer h1 (hw _ (by decide)) id) (partsSub (by decide) hw)

theorem leaveBackup_keep (h : Keep m a s)
    (hw : ∀ p ∈ ([.clocks, .memory, .bytes, .fabric, .power, .snuffer, .ports] : List StatePart), p ∈ m.parts)
    (he : ∀ e ∈ ([0x500007, 0x510002, 0x510003] : List Nat), m.entry e) : Keep m a (leaveBackup s) := by
  unfold leaveBackup
  extract_lets s1 _ s2 pll _ s3 s4
  have h1 : Keep m a s1 := tickThrottle_keep h (partsSub (by decide) hw)
  have h2 : Keep m a s2 := keep_power h1 (hw _ (by decide))
  have h3 : Keep m a s3 := keep_clk h2 (hw _ (by decide)) (.inr rfl)
  have h4 : Keep m a s4 := takePerst_keep (bringUpEyes_keep h3 (partsSub (by decide) hw)) (partsSub (by decide) hw) (entriesSub (by decide) he)
  exact keep_ite (startReset_keep (endPowerCycle_keep h4 (partsSub (by decide) hw) (entriesSub (by decide) he))
    (partsSub (by decide) hw) (entriesSub (by decide) he)) h4

theorem backupSettle_keep (h : Keep m a s) (hw : ∀ p ∈ (may .backupStopped).parts, p ∈ m.parts)
    (he : ∀ e ∈ (may .backupStopped).entries, m.entry e) : Keep m a (backupSettle s) := by
  unfold backupSettle
  extract_lets s1 _ s2 s3 _ s4
  have h1 : Keep m a s1 := eyesDown_keep h hw he
  clear_value s1
  have h2 : Keep m a s2 := keep_ite (keep_power h1 (hw _ (by decide))) h
  clear_value s2
  have h4 : Keep m a s4 := keep_power (engineRailsOff_keep h2 hw he) (hw _ (by decide))
  exact keep_ite (keep_ite (leaveBackup_keep h4 (partsSub (by decide) hw) (entriesSub (by decide) he)) h4) h2

theorem backupStopped_keep (h : Keep m a s) (hw : ∀ p ∈ (may .backupStopped).parts, p ∈ m.parts)
    (he : ∀ e ∈ (may .backupStopped).entries, m.entry e) : Keep m a (backupStopped s) :=
  keep_ite h (backupSettle_keep (keep_ite (keep_power h (hw _ (by decide))) h) hw he)

theorem mainQualified_keep (h : Keep m a s) (hw : ∀ p ∈ (may .mainQualified).parts, p ∈ m.parts) (ha : m.any = true) :
    Keep m a (mainQualified s) := by
  unfold mainQualified
  split
  · exact h
  extract_lets _ s1 s2
  have h1 : Keep m a s1 := keep_power h (hw _ (by decide))
  have h2 : Keep m a s2 := keep_ite (clearCold_keep (clearWarm_keep (endPowerCycle_keep h1 (partsSub (by decide) hw) (entriesAny ha))
    (partsSub (by decide) hw) (entriesAny ha)) (partsSub (by decide) hw) ha) h1
  exact keep_ite (keep_ite (leaveBackup_keep h1 (partsSub (by decide) hw) (entriesAny ha)) h1)
    (keep_ite h2 (keep_ite (keep_power h2 (hw _ (by decide))) h2))

theorem holdUpExhausted_keep (h : Keep m a s) (hw : ∀ p ∈ (may .auxLost).parts, p ∈ m.parts) (ha : m.any = true) :
    Keep m a (holdUpExhausted s) := keep_ite h (powerOff_keep h hw ha)

theorem auxLost_keep (h : Keep m a s) (hw : ∀ p ∈ (may .auxLost).parts, p ∈ m.parts) (ha : m.any = true) :
    Keep m a (auxLost s) := keep_ite h (powerOff_keep h hw ha)

theorem auxOutOfRange_keep (h : Keep m a s) (hw : ∀ p ∈ ([.power] : List StatePart), p ∈ m.parts) : Keep m a (auxOutOfRange s) :=
  keep_ite (keep_power h (hw _ (by decide))) h

theorem auxInRange_keep (h : Keep m a s) (hw : ∀ p ∈ ([.power] : List StatePart), p ∈ m.parts) : Keep m a (auxInRange s) :=
  keep_ite (keep_power h (hw _ (by decide))) h

theorem mainApplied_keep (h : Keep m a s) (hw : ∀ p ∈ ([.power] : List StatePart), p ∈ m.parts) : Keep m a (mainApplied s) :=
  keep_ite h (keep_power h (hw _ (by decide)))

theorem mainLow_keep {low : Bool} (h : Keep m a s) (hw : ∀ p ∈ ([.power] : List StatePart), p ∈ m.parts) : Keep m a (mainLow s low) :=
  keep_ite (keep_power h (hw _ (by decide))) h

theorem supplyApplied_keep {main : Bool} (h : Keep m a s)
    (hw : ∀ p ∈ ([.clocks, .wick, .power, .keeper, .lifeCycle] : List StatePart), p ∈ m.parts)
    (he : ∀ e ∈ ([0x11000D] : List Nat), m.entry e) : Keep m a (supplyApplied s main) := by
  unfold supplyApplied
  split
  · exact h
  extract_lets _ p _ s1 s2
  have h0 : Keep m a { s with power := p } := keep_power h (hw _ (by decide))
  have h1 : Keep m a s1 := keep_clk h0 (hw _ (by decide)) (.inl (hw _ (by decide)))
  have h2 : Keep m a s2 := setReg_keep h1 (he _ (by decide))
  exact resumeMarks_keep (keep_keeper h2 (hw _ (by decide)) (.inr rfl)) (partsSub (by decide) hw)

theorem hubSelfCheckDone_keep {ok : Bool} (h : Keep m a s)
    (hw : ∀ p ∈ ([.memory, .power, .ports] : List StatePart), p ∈ m.parts) : Keep m a (hubSelfCheckDone s ok) := by
  have h1 := keep_power (x := { s.power with step := 5 }) h (hw _ (by decide))
  have h2 := keep_mem (x := { s.mem with zeroed := false }) h1 (hw _ (by decide)) rfl
  exact keep_ite h (keep_ports h2 (hw _ (by decide)))

/-! ### Power states -/

theorem powerResult_keep {code : Nat} (h : Keep m a s) (he : ∀ e ∈ ([0x200002] : List Nat), m.entry e) :
    Keep m a (powerResult s code) := setRegFld_keep h (he _ (by decide))

theorem enterDrowse_keep (h : Keep m a s) (hw : ∀ p ∈ (may .backupStopped).parts, p ∈ m.parts)
    (he : ∀ e ∈ (may .backupStopped).entries, m.entry e) : Keep m a (enterDrowse s) :=
  keep_power (engineRailsOff_keep h hw he) (hw _ (by decide))

theorem enterWickOnly_keep (h : Keep m a s) (hw : ∀ p ∈ (may .backupStopped).parts, p ∈ m.parts)
    (he : ∀ e ∈ (may .backupStopped).entries, m.entry e) : Keep m a (enterWickOnly s) := by
  unfold enterWickOnly
  extract_lets s1 _ ports
  have h1 : Keep m a s1 := engineRailsOff_keep h hw he
  clear_value s1
  have h2 := keep_power (x := { s1.power with sleep := 3, ready := false }) h1 (hw _ (by decide))
  have h3 := keep_ports (x := ports) h2 (hw _ (by decide))
  exact keep_memBytes (x := { State.reset.mem with zeroed := false }) h3 (hw _ (by decide)) (hw _ (by decide)) canonical_nil

/-- Leaving WICK_ONLY clears as a cold L4 does; it is refused in safe state, so safe state is not left by it (R500, R501). -/
theorem powerReq_keep {who : Req} {target : Nat} (h : Keep m a s)
    (hw : ∀ p ∈ (may (.powerReqActive .mgmt)).parts, p ∈ m.parts) (ha : m.any = true) : Keep m a (powerReq s who target) := by
  have hr : ∀ {z : State} {code : Nat}, Keep m a z → Keep m a (result z code) := fun hz => result_keep hz (partsSub (by decide) hw)
  unfold powerReq
  split
  · exact hr h
  split
  · split
    · exact hr h
    rename_i hsafe
    split
    · refine keep_of_unsafe h (by simp_all) ?_
      have hw' := partsCons hw
      have h1 := clearCold_keep (clearWarm_keep (keep_unsafe h) (partsSub (by decide) hw') (entriesAny ha)) (partsSub (by decide) hw') ha
      exact result_keep (powerResult_keep (keep_power h1 (hw' _ (by decide))) (entriesAny ha)) (partsSub (by decide) hw')
    · exact hr (powerResult_keep h (entriesAny ha))
  · extract_lets code s1
    have h1 : Keep m a s1 := hr (powerResult_keep h (entriesAny ha))
    exact keep_ite h1 (keep_ite (enterDrowse_keep h1 (partsSub (by decide) hw) (entriesAny ha))
      (enterWickOnly_keep h1 (partsSub (by decide) hw) (entriesAny ha)))

/-! ### Operating points and limiters -/

theorem opStepDone_keep {q : Nat} (h : Keep m a s) (hw : ∀ p ∈ (may .backupStopped).parts, p ∈ m.parts)
    (he : ∀ e ∈ (may .backupStopped).entries, m.entry e) : Keep m a (opStepDone s q) :=
  keep_ite h (backupSettle_keep (keep_power h (hw _ (by decide))) hw he)

theorem takeLimits_keep (h : Keep m a s) (hw : ∀ p ∈ ([.staged] : List StatePart), p ∈ m.parts)
    (he : ∀ e ∈ ([0x202001] : List Nat), m.entry e) : Keep m a (takeLimits s) := keep_ite (takeStaged_keep h hw he) h

theorem railSample_keep {currents : List Nat} (h : Keep m a s)
    (hw : ∀ p ∈ ([.staged, .power] : List StatePart), p ∈ m.parts) (he : ∀ e ∈ ([0x202001, 0x202002] : List Nat), m.entry e) :
    Keep m a (railSample s currents) := by
  unfold railSample
  split
  · exact h
  extract_lets s1 rails _ s2 slow slowMem _ s3
  have h1 : Keep m a s1 := takeLimits_keep (tickThrottle_keep h (partsSub (by decide) hw)) (partsSub (by decide) hw) (entriesSub (by decide) he)
  have h2 : Keep m a s2 := keep_power h1 (hw _ (by decide))
  have h3 : Keep m a s3 := keep_power h2 (hw _ (by decide))
  exact keep_foldl h3 fun _ _ hz => setCells_keep hz (he _ (by decide))

theorem activityInterval_keep {ask : List Nat} (h : Keep m a s) (hw : ∀ p ∈ (may .backupStopped).parts, p ∈ m.parts)
    (he : ∀ e ∈ (may .backupStopped).entries, m.entry e) : Keep m a (activityInterval s ask) := by
  unfold activityInterval
  extract_lets s1 now wants held asks next wait g taper _ s2
  have h1 : Keep m a s1 := tickThrottle_keep h (partsSub (by decide) hw)
  have h2 : Keep m a s2 := keep_power h1 (hw _ (by decide))
  exact backupSettle_keep (keep_foldl h2 fun _ _ hz => countQ_keep (takeFree_keep hz) (entriesSub (by decide) he)) hw he

theorem pickQuarter_keep {qs : List Nat} {key : Nat → Nat} {power : Bool} (h : Keep m a s) :
    KeepP m a (pickQuarter s qs key power) := takeFree_keep h

theorem takeCeiling_keep (h : Keep m a s) (hw : ∀ p ∈ ([.power] : List StatePart), p ∈ m.parts) : Keep m a (takeCeiling s) :=
  keep_power h (hw _ (by decide))

theorem capStep_keep {mw fixed vary : Nat} (h : Keep m a s) (hw : ∀ p ∈ ([.power] : List StatePart), p ∈ m.parts) :
    Keep m a (capStep s mw fixed vary) := by
  unfold capStep
  extract_lets s1 p op cap down g up
  have h1 : Keep m a s1 := takeCeiling_keep (tickThrottle_keep h hw) hw
  refine keep_ite (keep_ite (keep_power h1 (hw _ (by decide))) ?_) (keep_ite (keep_power h1 (hw _ (by decide))) ?_)
  · split
    · rename_i e
      exact keep_power (keep_of_pair (pickQuarter_keep h1) e) (hw _ (by decide))
    · rename_i e
      exact keep_of_pair (pickQuarter_keep h1) e
  · split
    · rename_i e
      exact keep_power (keep_of_pair (pickQuarter_keep h1) e) (hw _ (by decide))
    · rename_i e
      exact keep_of_pair (pickQuarter_keep h1) e

/-! ### Temperature -/

theorem tripQuarters_keep {qs : List Nat} (h : Keep m a s)
    (hw : ∀ p ∈ ([.clocks, .fabric, .ranges, .power, .snuffer] : List StatePart), p ∈ m.parts)
    (he : ∀ e ∈ latchEntries, m.entry e) : Keep m a (tripQuarters s qs) :=
  keep_ite h (latch_keep (keep_power h (hw _ (by decide))) (partsSub (by decide) hw) he)

theorem takeThrottleC_keep (h : Keep m a s) (hw : ∀ p ∈ ([.staged] : List StatePart), p ∈ m.parts)
    (he : ∀ e ∈ ([0x210001] : List Nat), m.entry e) : Keep m a (takeThrottleC s) := takeStaged_keep h hw he

theorem sensorRead_keep {temps : List Int} (h : Keep m a s)
    (hw : ∀ p ∈ ([.clocks, .staged, .fabric, .ranges, .power, .snuffer] : List StatePart), p ∈ m.parts)
    (he : ∀ e ∈ withLatch [0x210001, 0x210002, 0x210005], m.entry e) : Keep m a (sensorRead s temps) := by
  unfold sensorRead
  split
  · exact h
  extract_lets s1 group top s2 s3 cool _ s4
  have h1 : Keep m a s1 := takeThrottleC_keep h (partsSub (by decide) hw) (entriesSub (by decide) he)
  have h2 : Keep m a s2 := keep_foldl h1 fun _ _ hz => setCell_keep hz (he _ (by decide))
  have h3 : Keep m a s3 := keep_foldl h2 fun _ _ hz => setCell_keep hz (he _ (by decide))
  have h4 : Keep m a s4 := keep_power h3 (hw _ (by decide))
  exact tripQuarters_keep h4 (partsSub (by decide) hw) (entriesSub (by decide) he)

theorem thermalStep_keep {q : Nat} (h : Keep m a s) (hw : ∀ p ∈ ([.power] : List StatePart), p ∈ m.parts) :
    Keep m a (thermalStep s q) := by
  have h1 := tickThrottle_keep h hw
  have hp : ∀ x, Keep m a { tickThrottle s with power := x } := fun _ => keep_power h1 (hw _ (by decide))
  exact keep_ite (keep_ite (hp _) (hp _)) (keep_ite (keep_ite (hp _) (hp _)) h1)

theorem stackTempRead_keep {temps : List Int} (h : Keep m a s)
    (hw : ∀ p ∈ ([.clocks, .fabric, .ranges, .power, .snuffer] : List StatePart), p ∈ m.parts)
    (he : ∀ e ∈ withLatch [0x210004], m.entry e) : Keep m a (stackTempRead s temps) := by
  unfold stackTempRead
  split
  · exact h
  extract_lets s1 s2 hot _ s3
  have h1 : Keep m a s1 := tickThrottle_keep h (partsSub (by decide) hw)
  have h2 : Keep m a s2 := keep_foldl h1 fun _ _ hz => setCell_keep hz (he _ (by decide))
  have h3 : Keep m a s3 := keep_power h2 (hw _ (by decide))
  exact tripQuarters_keep h3 hw (entriesSub (by decide) he)

end Sys2Proof.Machine
end

section
/-! SUPPORT. What each operation of Machine/Telemetry.lean keeps (`Keep`). -/

namespace Sys2Proof.Machine

open Sys2Proof.Safety

variable {m : May} {a s : State}

/-! ### Selectable counters and windowed bandwidth -/

theorem selConfigWrite_keep {who : Req} {row : Nat} {v : Word} (h : Keep m a s)
    (hw : ∀ p ∈ ([.telemetry, .answer] : List StatePart), p ∈ m.parts) (he : ∀ e ∈ ([0x600003] : List Nat), m.entry e) :
    Keep m a (selConfigWrite s who row v) :=
  keep_ite (result_keep h (partsSub (by decide) hw))
    (result_keep (keep_tele (setReg_keep h (he _ (by decide))) (hw _ (by decide))) (partsSub (by decide) hw))

theorem clearPeaks_keep (h : Keep m a s) (he : ∀ e ∈ ([0x600005] : List Nat), m.entry e) : Keep m a (clearPeaks s) :=
  keep_foldl h fun _ _ hz => setCell_keep (setCell_keep hz (he _ (by decide))) (he _ (by decide))

theorem windowUsWrite_keep {who : Req} {v : Word} (h : Keep m a s)
    (hw : ∀ p ∈ ([.telemetry, .answer] : List StatePart), p ∈ m.parts) (he : ∀ e ∈ ([0x600005] : List Nat), m.entry e) :
    Keep m a (windowUsWrite s who v) :=
  keep_ite (result_keep h (partsSub (by decide) hw))
    (result_keep (keep_tele (clearPeaks_keep h he) (hw _ (by decide))) (partsSub (by decide) hw))

theorem peakReset_keep {who : Req} {v : Word} (h : Keep m a s)
    (hw : ∀ p ∈ ([.answer] : List StatePart), p ∈ m.parts) (he : ∀ e ∈ ([0x600005] : List Nat), m.entry e) :
    Keep m a (peakReset s who v) :=
  keep_ite (result_keep h hw) (keep_ite (result_keep h hw) (result_keep (keep_ite (clearPeaks_keep h he) h) hw))

theorem bwWindowEnd_keep (h : Keep m a s) (hw : ∀ p ∈ ([.telemetry] : List StatePart), p ∈ m.parts)
    (he : ∀ e ∈ ([0x600004, 0x600005] : List Nat), m.entry e) : Keep m a (bwWindowEnd s) := by
  unfold bwWindowEnd
  split
  · exact keep_ite (setReg_keep (keep_tele h (hw _ (by decide))) (he _ (by decide))) h
  · extract_lets w end_ go
    have hgo : ∀ {z : State}, Keep m a z → Keep m a (go z) := fun hz => keep_tele hz (hw _ (by decide))
    exact keep_ite h (keep_ite (hgo h) (hgo (keep_foldl h fun _ _ hz => setCells_keep hz (he _ (by decide)))))

/-! ### Periodic dumps -/

theorem putRecordRing_keep {ws : List Word} (h : Keep m a s)
    (hw : ∀ p ∈ ([.clocks, .memory, .bytes, .hostBytes, .hostPoison, .fabric, .ranges, .queues, .floss,
      .snuffer, .telemetry, .darner] : List StatePart), p ∈ m.parts)
    (he : ∀ e ∈ withLatch [0x600001, 0x600003, 0x810008], m.entry e) : Keep m a (putRecordRing s ws) := by
  have ht : ∀ x, Keep m a { s with tele := x } := fun _ => keep_tele h (hw _ (by decide))
  exact keep_ite (issueConfirm_keep (writeHost_keep (ht _) (partsSub (by decide) hw) (entriesSub (by decide) he))
      (partsSub (by decide) hw) (entriesSub (by decide) he))
    (keep_ite (ht _) (deviceWrite_keep (ht _) (partsSub (by decide) hw) (entriesSub (by decide) he)))

theorem drainStaged_keep {n : Nat} (h : Keep m a s)
    (hw : ∀ p ∈ ([.clocks, .memory, .bytes, .hostBytes, .hostPoison, .fabric, .ranges, .queues, .floss,
      .snuffer, .telemetry, .darner] : List StatePart), p ∈ m.parts)
    (he : ∀ e ∈ withLatch [0x600001, 0x600003, 0x810008], m.entry e) : Keep m a (drainStaged n s) := by
  induction n generalizing s with
  | zero => exact h
  | succ n ih =>
    unfold drainStaged
    split
    · exact h
    · exact keep_ite (ih (putRecordRing_keep (keep_tele h (hw _ (by decide))) hw he)) h

theorem applyDumpConfig_keep (h : Keep m a s) (hw : ∀ p ∈ ([.staged, .telemetry] : List StatePart), p ∈ m.parts)
    (he : ∀ e ∈ ([0x600007] : List Nat), m.entry e) : Keep m a (applyDumpConfig s) := by
  unfold applyDumpConfig
  split
  · exact h
  · extract_lets old s1 s2 _ s3
    have h1 : Keep m a s1 := setCells_keep h (he _ (by decide))
    have h3 : Keep m a s3 := keep_tele (keep_staged h1 (hw _ (by decide))) (hw _ (by decide))
    exact keep_ite (keep_tele h3 (hw _ (by decide))) h3

theorem dumpPeriod_keep (h : Keep m a s) (hw : ∀ p ∈ (may .dumpPeriod).parts, p ∈ m.parts)
    (he : ∀ e ∈ withLatch [0x600001, 0x600003, 0x600007, 0x810008], m.entry e) : Keep m a (dumpPeriod s) := by
  unfold dumpPeriod
  extract_lets due s1 c ws _ s2 s3
  have h1 : Keep m a s1 := applyDumpConfig_keep h (partsSub (by decide) hw) (entriesSub (by decide) he)
  have h2 : Keep m a s2 := keep_tele h1 (hw _ (by decide))
  have h3 : Keep m a s3 := drainStaged_keep h2 (partsSub (by decide) hw) (entriesSub (by decide) he)
  clear_value s3
  have ht : ∀ x, Keep m a { s3 with tele := x } := fun _ => keep_tele h3 (hw _ (by decide))
  exact keep_ite h (keep_ite h1 (keep_ite (putRecordRing_keep h3 (partsSub (by decide) hw) (entriesSub (by decide) he)) (keep_ite (ht _) (ht _))))

theorem dumpHeadWrite_keep {who : Req} {v : Word} (h : Keep m a s)
    (hw : ∀ p ∈ (may (.dumpHeadWrite .mgmt 0)).parts, p ∈ m.parts)
    (he : ∀ e ∈ withLatch [0x600001, 0x600003, 0x600008, 0x810008], m.entry e) : Keep m a (dumpHeadWrite s who v) := by
  have h1 := setReg_keep (row := 0) (v := fld v 31 0) h (he 0x600008 (by decide))
  exact keep_ite (result_keep h (partsSub (by decide) hw))
    (result_keep (keep_ite (drainStaged_keep h1 (partsSub (by decide) hw) (entriesSub (by decide) he)) h1) (partsSub (by decide) hw))

theorem dumpConfigWrite_keep {who : Req} {w0 w1 : Word} (h : Keep m a s)
    (hw : ∀ p ∈ ([.staged, .answer] : List StatePart), p ∈ m.parts) : Keep m a (dumpConfigWrite s who w0 w1) :=
  keep_ite (result_keep h (partsSub (by decide) hw)) (result_keep (keep_staged h (hw _ (by decide))) (partsSub (by decide) hw))

/-! ### HBM granules and channels -/

theorem markFencing_keep {f : Fencing → Bool} {v : Nat} (h : Keep m a s)
    (hw : ∀ p ∈ ([.snuffer] : List StatePart), p ∈ m.parts) : Keep m a (markFencing s f v) :=
  keep_snuffer h (hw _ (by decide)) id

theorem retireGranule_keep {b g cls addr : Nat} (h : Keep m a s)
    (hw : ∀ p ∈ ([.clocks, .fabric, .ranges, .snuffer, .darner] : List StatePart), p ∈ m.parts)
    (he : ∀ e ∈ withLatch [0xA0000A, 0xA0000B], m.entry e) : Keep m a (retireGranule s b g cls addr) :=
  latch_keep (repairRecord_keep (keep_darner h (hw _ (by decide))) (entriesSub (by decide) he)) (partsSub (by decide) hw)
    (entriesSub (by decide) he)

theorem granuleRemap_keep {b off : Nat} (h : Keep m a s)
    (hw : ∀ p ∈ ([.clocks, .fabric, .ranges, .snuffer, .darner] : List StatePart), p ∈ m.parts)
    (he : ∀ e ∈ withLatch [0xA0000A, 0xA0000B], m.entry e) : Keep m a (granuleRemap s b off) := by
  have hclk : KeepO m a (needClock s (bobQuarter b)) := needClock_keep h (partsSub (by decide) hw)
  unfold granuleRemap
  split
  · exact h
  · refine keep_ite h ?_
    split
    next e => exact keep_of_wait hclk e
    next e => exact keep_of_fail hclk e
    next e =>
      have h1 := keep_of_ok hclk e
      split
      · exact keep_darner h1 (hw _ (by decide))
      · exact retireGranule_keep (markFencing_keep h1 (partsSub (by decide) hw)) hw he

theorem countChannel_keep {b c cls : Nat} (h : Keep m a s) (hw : ∀ p ∈ ([.darner] : List StatePart), p ∈ m.parts)
    (he : ∀ e ∈ ([0xA00007, 0xA0000A, 0xA0000B] : List Nat), m.entry e) : Keep m a (countChannel s b c cls) := by
  unfold countChannel
  extract_lets k n _ s1 w
  have h1 : Keep m a s1 := keep_darner h (hw _ (by decide))
  exact keep_ite (repairRecord_keep (setCell_keep h1 (he _ (by decide))) (entriesSub (by decide) he)) h1

theorem endRemap_keep {b : Nat} {r : Remap} (h : Keep m a s) (hw : ∀ p ∈ (may (.remapCopyDone 0)).parts, p ∈ m.parts)
    (he : ∀ e ∈ (may (.remapCopyDone 0)).entries, m.entry e) : Keep m a (endRemap s b r) := by
  unfold endRemap
  extract_lets f bs s1 s2 _ d s3 s4
  have h1 : Keep m a s1 := portArrive_keep (portArrive_keep h (partsSub (by decide) hw)) (partsSub (by decide) hw)
  have h2 : Keep m a s2 := wbs_keep h1 (partsSub (by decide) hw)
  have h3 : Keep m a s3 := keep_darner h2 (hw _ (by decide))
  clear_value f s3
  have h4 : Keep m a s4 := by
    unfold s4
    split
    · exact countChannel_keep (repairRecord_keep (markFencing_keep h3 (partsSub (by decide) hw)) (entriesSub (by decide) he))
        (partsSub (by decide) hw) (entriesSub (by decide) he)
    · exact h3
  clear_value s4
  have h5 := keep_foldl (l := r.held) (g := landHeld) h4 fun _ _ hz =>
    landHeld_keep hz (partsSub (by decide) hw) (entriesSub (by decide) he)
  exact serveBells_keep (deliverHeld_keep h5 (partsSub (by decide) hw) (entriesSub (by decide) he)) (partsSub (by decide) hw)
    (entriesSub (by decide) he)

theorem remapCopyDone_keep {b : Nat} (h : Keep m a s) (hw : ∀ p ∈ (may (.remapCopyDone 0)).parts, p ∈ m.parts)
    (he : ∀ e ∈ (may (.remapCopyDone 0)).entries, m.entry e) : Keep m a (remapCopyDone s b) := by
  have hclk : KeepO m a (needClock s (bobQuarter b)) := needClock_keep h (partsSub (by decide) hw)
  unfold remapCopyDone
  split
  · exact h
  · split
    next e => exact endRemap_keep (keep_of_ok hclk e) hw he
    next => exact keep_state hclk

theorem hbmCorrectedError_keep {b off : Nat} (h : Keep m a s)
    (hw : ∀ p ∈ ([.clocks, .fabric, .ranges, .snuffer, .darner] : List StatePart), p ∈ m.parts)
    (he : ∀ e ∈ withLatch [0x600001], m.entry e) : Keep m a (hbmCorrectedError s b off) := by
  unfold hbmCorrectedError
  extract_lets i g t window e rest oldest rest' s1
  have h1 : Keep m a s1 := countB_keep h (entriesSub (by decide) he)
  have hd : ∀ x, Keep m a { s1 with darner := x } := fun _ => keep_darner h1 (hw _ (by decide))
  exact keep_ite (latch_keep (hd _) (partsSub (by decide) hw) (entriesSub (by decide) he)) (hd _)

/-! ### The end of a FENCE reaction -/

theorem retireSpares_keep {q kind cls : Nat} {failed : List Nat} (h : Keep m a s)
    (hw : ∀ p ∈ ([.darner] : List StatePart), p ∈ m.parts) (he : ∀ e ∈ ([0xA0000A, 0xA0000B] : List Nat), m.entry e) :
    Keep m a (retireSpares s q kind cls failed) :=
  keep_foldl (keep_darner h (hw _ (by decide))) fun _ _ hz => repairRecord_keep hz he

theorem replaceLantern_keep {f : Fencing} {failed : List Nat} (h : Keep m a s)
    (hw : ∀ p ∈ (may (.fenceReactionDone 0 [])).parts, p ∈ m.parts)
    (he : ∀ e ∈ (may (.fenceReactionDone 0 [])).entries, m.entry e) : KeepP m a (replaceLantern s f failed) := by
  unfold replaceLantern
  extract_lets dead
  split
  · exact keep_darner h (hw _ (by decide))
  next l _ =>
    extract_lets s1 s2 s3
    have h1 : Keep m a s1 := clearLantern_keep (killLantern_keep h (partsSub (by decide) hw) (entriesSub (by decide) he))
      (partsSub (by decide) hw)
    have h2 : Keep m a s2 := keep_darner h1 (hw _ (by decide))
    have h3 : Keep m a s3 := keep_ite (retireSpares_keep h2 (partsSub (by decide) hw) (entriesSub (by decide) he)) h2
    have hend : ∀ (g : Lantern → Lantern) (action spare : Nat), Keep m a
        (repairRecord (joinAwake (modLantern s3 l g) l) 1 action f.cls f.master spare 0) := fun _ _ _ =>
      repairRecord_keep (joinAwake_keep (modLantern_keep h3 (partsSub (by decide) hw)) (partsSub (by decide) hw)
        (entriesSub (by decide) he)) (entriesSub (by decide) he)
    split
    · exact hend _ 1 _
    · exact hend _ 2 _

theorem replaceStore_keep {f : Fencing} (h : Keep m a s) (he : ∀ e ∈ ([0xA00008, 0xA0000A, 0xA0000B] : List Nat), m.entry e) :
    KeepP m a (replaceStore s f) := by
  have hr : ∀ hi lo v action spare : Nat, Keep m a (repairRecord (setRegFld s 0xA00008 (sliceOf (faultLocal f.addr)) hi lo v) 2 action
      f.cls (sliceOf (faultLocal f.addr) * 64 + faultLocal f.addr % 0x4000000 / 2048 * 128 / 65536 % 64) spare 0) :=
    fun _ _ _ _ _ => repairRecord_keep (setRegFld_keep h (he _ (by decide))) (entriesSub (by decide) he)
  exact keepP_ite (hr _ _ _ _ _) (hr _ _ _ _ _)

theorem retireEngine_keep {f : Fencing} {kind : Nat} (h : Keep m a s)
    (hw : ∀ p ∈ (may (.fenceReactionDone 0 [])).parts, p ∈ m.parts)
    (he : ∀ e ∈ (may (.fenceReactionDone 0 [])).entries, m.entry e) : KeepP m a (retireEngine s f kind) := by
  have h1 := stopEngine_keep (t := 2 ^ 14 + f.master % 1024) h (partsSub (by decide) hw) (entriesSub (by decide) he)
  exact repairRecord_keep (keep_darner h1 (hw _ (by decide))) (entriesSub (by decide) he)

theorem darnerActs_keep {f : Fencing} {failed : List Nat} (h : Keep m a s)
    (hw : ∀ p ∈ (may (.fenceReactionDone 0 [])).parts, p ∈ m.parts)
    (he : ∀ e ∈ (may (.fenceReactionDone 0 [])).entries, m.entry e) : KeepOP m a (darnerActs s f failed) := by
  unfold darnerActs
  split
  · exact keepOP_some (replaceLantern_keep h hw he)
  · exact keepOP_some (replaceLantern_keep h hw he)
  · exact keepOP_some (replaceLantern_keep h hw he)
  · exact keepOP_some (keepP_ite (replaceStore_keep h (entriesSub (by decide) he)) h)
  · exact keepOP_ite keepOP_none (keepOP_some h)
  · exact keepOP_ite keepOP_none (keepOP_some h)
  · exact keepOP_ite keepOP_none (keepOP_some h)
  · exact keepOP_some (retireEngine_keep h hw he)
  · exact keepOP_some (retireEngine_keep h hw he)
  · exact keepOP_some h

theorem fenceReactionDone_keep {c : Nat} {failed : List Nat} (h : Keep m a s)
    (hw : ∀ p ∈ (may (.fenceReactionDone 0 [])).parts, p ∈ m.parts)
    (he : ∀ e ∈ (may (.fenceReactionDone 0 [])).entries, m.entry e) : Keep m a (fenceReactionDone s c failed) := by
  unfold fenceReactionDone
  split
  · exact h
  · refine keep_ite h ?_
    split
    · exact h
    next e =>
      extract_lets _ s1 s2
      have h1 : Keep m a s1 := keep_snuffer (keep_of_someP (darnerActs_keep h hw he) e) (hw _ (by decide)) id
      have h2 : Keep m a s2 := completeLog_keep h1 (entriesSub (by decide) he)
      exact keep_ite h2 (clearBits_keep h2 (partsSub (by decide) hw) (entriesSub (by decide) he))

end Sys2Proof.Machine
end

section
/-! SUPPORT. What each operation of Machine/Instances.lean keeps (`Keep`). -/

namespace Sys2Proof.Machine

open Sys2Proof.Safety

variable {m : May} {a s : State}

theorem instResult_keep {h code : Nat} (hs : Keep m a s) (he : ∀ e ∈ ([0x110019] : List Nat), m.entry e) :
    Keep m a (instResult s h code) := setRegFld_keep hs (he _ (by decide))

theorem setInst_keep {h : Nat} {i : Inst} {freezing : Bool} (hs : Keep m a s)
    (hw : ∀ p ∈ ([.hoops] : List StatePart), p ∈ m.parts) : Keep m a (setInst s h i freezing) := modHoop_keep hs hw

theorem startQuiesce_keep {h : Nat} {freezing : Bool} (hs : Keep m a s)
    (hw : ∀ p ∈ ([.hoops] : List StatePart), p ∈ m.parts) (he : ∀ e ∈ ([0x110019] : List Nat), m.entry e) :
    Keep m a (startQuiesce s h freezing) := by
  unfold startQuiesce
  exact instResult_keep (modHoop_keep hs hw) he

theorem saveBlob_keep {h : Nat} (hs : Keep m a s)
    (hw : ∀ p ∈ ([.hostBytes, .hostPoison, .fabric, .queues, .floss] : List StatePart), p ∈ m.parts)
    (he : ∀ e ∈ ([0x110019, 0x600001, 0x810008] : List Nat), m.entry e) : Keep m a (saveBlob s h) := by
  unfold saveBlob
  exact keep_ite (instResult_keep hs (entriesSub (by decide) he))
    (instResult_keep (issueConfirm_keep (writeHost_keep hs (partsSub (by decide) hw) (entriesSub (by decide) he))
      (partsSub (by decide) hw) (entriesSub (by decide) he)) (entriesSub (by decide) he))

/-! ### Reading a blob back -/

theorem restoreRanges_keep {who : Req} {h : Nat} {ws : List Word} (hs : Keep m a s)
    (hw : ∀ p ∈ ([.ranges] : List StatePart), p ∈ m.parts) (he : ∀ e ∈ ([0x700001] : List Nat), m.entry e) :
    KeepE m a (restoreRanges s who h ws) := by
  refine keepE_foldlM hs fun z r hz => ?_
  extract_lets row
  split
  · exact keepE_ite keepE_error (keepE_ok (keep_rng (setCells_keep hz (he _ (by decide))) (hw _ (by decide))))
  · exact keepE_error

theorem restoreContexts_keep {who : Req} {h : Nat} {ws : List Word} (hs : Keep m a s)
    (hw : ∀ p ∈ ([.contexts] : List StatePart), p ∈ m.parts)
    (he : ∀ e ∈ ([0x800001, 0x800003, 0x800004] : List Nat), m.entry e) : KeepE m a (restoreContexts s who h ws) :=
  keepE_foldlM hs fun _ _ hz => keepE_ite keepE_error (keepE_ok (setCells_keep (modContext_keep (createContext_keep
    (setCells_keep hz (he _ (by decide))) hw (entriesSub (by decide) he)) hw) (he _ (by decide))))

theorem restoreQueues_keep {who : Req} {h : Nat} {ws : List Word} (hs : Keep m a s)
    (hw : ∀ p ∈ ([.queues] : List StatePart), p ∈ m.parts) (he : ∀ e ∈ ([0x900010, 0x900012] : List Nat), m.entry e) :
    KeepE m a (restoreQueues s who h ws) :=
  keepE_foldlM hs fun _ _ hz => keepE_ite keepE_error (keepE_ok (showQueue_keep (setCell_keep (setQueue_keep
    (setCells_keep hz (he _ (by decide))) hw) (he _ (by decide))) (entriesSub (by decide) he)))

theorem restoreFences_keep {who : Req} {h : Nat} {ws : List Word} (hs : Keep m a s)
    (hw : ∀ p ∈ ([.fences] : List StatePart), p ∈ m.parts) (he : ∀ e ∈ ([0x810002] : List Nat), m.entry e) :
    KeepE m a (restoreFences s who h ws) :=
  keepE_foldlM hs fun _ _ hz => keepE_ite keepE_error (keepE_ok (setFence_keep
    (setCell_keep (setCell_keep hz (he _ (by decide))) (he _ (by decide))) hw))

theorem restoreObjects_keep {who : Req} {h : Nat} {ws : List Word} (hs : Keep m a s)
    (hw : ∀ p ∈ ([.contexts, .objects] : List StatePart), p ∈ m.parts) (he : ∀ e ∈ ([0x810004] : List Nat), m.entry e) :
    KeepE m a (restoreObjects s who h ws) := by
  refine keepE_bind (keepE_foldlM hs fun z r hz => ?_) fun u hu => keepE_foldlM hu fun z w hz => ?_
  · extract_lets o w
    split
    · exact keepE_error
    · exact keepE_ite keepE_error (keepE_ite keepE_error
        (keepE_ok (setObj_keep (setCells_keep hz (he _ (by decide))) (partsSub (by decide) hw))))
  · exact keepE_ite keepE_error (keepE_ite keepE_error
      (keepE_ok (modContext_keep (setObj_keep hz (partsSub (by decide) hw)) (partsSub (by decide) hw))))

theorem restoreHeap_keep {who : Req} {h : Nat} {ws : List Word} (hs : Keep m a s)
    (hw : ∀ p ∈ ([.objects] : List StatePart), p ∈ m.parts) (he : ∀ e ∈ ([0x810004, 0x810006] : List Nat), m.entry e) :
    KeepE m a (restoreHeap s who h ws) := by
  unfold restoreHeap
  split
  · exact keepE_error
  · exact keepE_ite keepE_error (keepE_foldlM (setCells_keep hs (he _ (by decide))) fun _ _ hz =>
      keepE_ite keepE_error (keepE_ite keepE_error (keepE_ok (makeHeapObj_keep hz hw (entriesSub (by decide) he)))))

theorem restoreFloss_keep {h : Nat} {ws : List Word} (hs : Keep m a s)
    (he : ∀ e ∈ ([0x400001, 0x400002] : List Nat), m.entry e) : KeepE m a (restoreFloss s h ws) :=
  keepE_ite (keepE_ok (setCell_keep (keep_foldl hs fun _ _ hz => setCell_keep hz (he _ (by decide))) (he _ (by decide)))) keepE_error

theorem restoreSampler_keep {who : Req} {h : Nat} {ws : List Word} (hs : Keep m a s)
    (hw : ∀ p ∈ ([.hoops, .answer] : List StatePart), p ∈ m.parts)
    (he : ∀ e ∈ ([0x800005, 0x800006] : List Nat), m.entry e) : KeepE m a (restoreSampler s who h ws) :=
  keepE_ite keepE_error (keepE_ok (samplerControlWrite_keep (keep_foldl hs fun _ _ hz => setCell_keep hz (he _ (by decide))) hw
    (entriesSub (by decide) he)))

theorem restoreFr_keep {who : Req} {h : Nat} {ws : List Word} (hs : Keep m a s)
    (hw : ∀ p ∈ ([.hoops] : List StatePart), p ∈ m.parts)
    (he : ∀ e ∈ ([0x700004, 0x710001, 0x710002, 0x710003, 0x710004] : List Nat), m.entry e) : KeepE m a (restoreFr s who h ws) := by
  unfold restoreFr
  extract_lets w0 w1 rec_ code s1 s2 s3
  have h1 : Keep m a s1 := setCells_keep hs (he _ (by decide))
  have h2 : Keep m a s2 := setReg_keep (setReg_keep h1 (he _ (by decide))) (he _ (by decide))
  have h3 : Keep m a s3 := setReg_keep (frShow_keep (setReg_keep h2 (he _ (by decide))) (entriesSub (by decide) he)) (he _ (by decide))
  exact keepE_ite keepE_error (keepE_ite keepE_error (keepE_ok (modHoop_keep h3 hw)))

theorem restoreSwap_keep {who : Req} {h : Nat} {ws : List Word} (hs : Keep m a s)
    (hw : ∀ p ∈ ([.hoops, .answer] : List StatePart), p ∈ m.parts) (he : ∀ e ∈ ([0x800007] : List Nat), m.entry e) :
    KeepE m a (restoreSwap s who h ws) := by
  unfold restoreSwap
  split
  · exact keepE_error
  · exact keepE_ite keepE_error (keepE_ok (swapAreaWrite_keep hs hw he))

theorem restoreImages_keep {h : Nat} {ws : List Word} (hs : Keep m a s)
    (hw : ∀ p ∈ ([.clocks, .memory, .bytes, .hoops, .fabric, .ranges, .floss, .snuffer, .darner] : List StatePart), p ∈ m.parts)
    (he : ∀ e ∈ withLatch [0x600001, 0x600003], m.entry e) : KeepE m a (restoreImages s h ws) := by
  refine keepE_foldlM hs fun z i hz => ?_
  extract_lets parts r
  have hr : KeepP m a r := readParts_keep hz (partsSub (by decide) hw) (entriesSub (by decide) he)
  exact keepE_ite keepE_error (keepE_ite keepE_error
    (keepE_ite (keepE_ok (modHoop_keep (keep_snd.mpr hr) (partsSub (by decide) hw))) keepE_error))

theorem givenSection_keep {secs : List (Nat × List Word)} {k : Nat} {f : List Word → Except Nat State} (hs : Keep m a s)
    (hf : ∀ ws, KeepE m a (f ws)) : KeepE m a (givenSection secs k f s) := keepE_ite (keepE_ok hs) (hf _)

theorem restoreAll_keep {who : Req} {h : Nat} {bs : List Byte} (hs : Keep m a s)
    (hw : ∀ p ∈ (may (.restore .mgmt 0)).parts, p ∈ m.parts) (he : ∀ e ∈ (may (.restore .mgmt 0)).entries, m.entry e) :
    KeepE m a (restoreAll s who h bs) := by
  unfold restoreAll
  extract_lets secs
  refine keepE_ite keepE_error (keepE_ite keepE_error (keepE_ite keepE_error (keepE_ite keepE_error ?_)))
  refine keepE_bind2 (givenSection_keep hs fun _ => restoreRanges_keep hs (partsSub (by decide) hw) (entriesSub (by decide) he)) fun _ h1 => ?_
  refine keepE_bind2 (givenSection_keep h1 fun _ => restoreContexts_keep h1 (partsSub (by decide) hw) (entriesSub (by decide) he)) fun _ h2 => ?_
  refine keepE_bind2 (givenSection_keep h2 fun _ => restoreQueues_keep h2 (partsSub (by decide) hw) (entriesSub (by decide) he)) fun _ h3 => ?_
  refine keepE_bind2 (givenSection_keep h3 fun _ => restoreFences_keep h3 (partsSub (by decide) hw) (entriesSub (by decide) he)) fun _ h4 => ?_
  refine keepE_bind2 (givenSection_keep h4 fun _ => restoreObjects_keep h4 (partsSub (by decide) hw) (entriesSub (by decide) he)) fun _ h5 => ?_
  refine keepE_bind2 (givenSection_keep h5 fun _ => restoreHeap_keep h5 (partsSub (by decide) hw) (entriesSub (by decide) he)) fun _ h6 => ?_
  refine keepE_bind2 (givenSection_keep h6 fun _ => restoreFloss_keep h6 (entriesSub (by decide) he)) fun _ h7 => ?_
  refine keepE_bind2 (givenSection_keep h7 fun _ => restoreSampler_keep h7 (partsSub (by decide) hw) (entriesSub (by decide) he)) fun _ h8 => ?_
  refine keepE_bind2 (givenSection_keep h8 fun _ => restoreFr_keep h8 (partsSub (by decide) hw) (entriesSub (by decide) he)) fun _ h9 => ?_
  refine keepE_bind2 (givenSection_keep h9 fun _ => restoreSwap_keep h9 (partsSub (by decide) hw) (entriesSub (by decide) he)) fun _ h10 => ?_
  exact givenSection_keep h10 fun _ => restoreImages_keep h10 (partsSub (by decide) hw) (entriesSub (by decide) he)

theorem restoreBlob_keep {who : Req} {h : Nat} (hs : Keep m a s)
    (hw : ∀ p ∈ (may (.restore .mgmt 0)).parts, p ∈ m.parts) (he : ∀ e ∈ (may (.restore .mgmt 0)).entries, m.entry e) :
    Keep m a (restoreBlob s who h) := by
  unfold restoreBlob
  extract_lets i r len t
  have hi : ∀ {z : State} {code : Nat}, Keep m a z → Keep m a (instResult z h code) := fun hz => instResult_keep hz (entriesSub (by decide) he)
  have hr : Keep m a r.2 := readHost_keep hs (partsSub (by decide) hw) (entriesSub (by decide) he)
  have ht : Keep m a t.2 := readHost_keep hr (partsSub (by decide) hw) (entriesSub (by decide) he)
  refine keep_ite (hi hs) (keep_ite (hi hr) ?_)
  split
  · exact hi ht
  next e => exact hi (setInst_keep (keep_of_except (restoreAll_keep ht hw he) e) (partsSub (by decide) hw))

/-! ### The commands -/

theorem instanceCommand_keep {who : Req} {w : Word} (hs : Keep m a s)
    (hw : ∀ p ∈ (may (.restore .mgmt 0)).parts, p ∈ m.parts) (he : ∀ e ∈ (may (.restore .mgmt 0)).entries, m.entry e) :
    Keep m a (instanceCommand s who w) := by
  have hr : ∀ code, Keep m a (result s code) := fun _ => result_keep hs (partsSub (by decide) hw)
  have hi : ∀ {h code : Nat}, Keep m a (instResult (result s 0) h code) := instResult_keep (hr 0) (entriesSub (by decide) he)
  have hset : ∀ {h code : Nat} {i : Inst} {f : Bool}, Keep m a (instResult (setInst (result s 0) h i f) h code) :=
    instResult_keep (setInst_keep (hr 0) (partsSub (by decide) hw)) (entriesSub (by decide) he)
  have hq : ∀ {h : Nat} {f : Bool}, Keep m a (startQuiesce (result s 0) h f) :=
    startQuiesce_keep (hr 0) (partsSub (by decide) hw) (entriesSub (by decide) he)
  unfold instanceCommand
  extract_lets op h x s1
  clear_value op
  refine keep_ite (hr 4) (keep_ite hi (keep_ite hi ?_))
  split
  · split
    · exact hq
    · exact hq
    · exact hi
    · exact hi
  · exact keep_ite hi hset
  · refine keep_ite hi (keep_ite hi (keep_ite hi ?_))
    split
    · exact hq
    · exact hq
    · exact hset
    · exact hset
  · exact keep_ite hi (keep_ite hi (saveBlob_keep (hr 0) (partsSub (by decide) hw) (entriesSub (by decide) he)))
  · exact keep_ite hi (restoreBlob_keep (hr 0) hw he)

theorem quiescedReached_keep {h : Nat} (hs : Keep m a s)
    (hw : ∀ p ∈ ([.hoops] : List StatePart), p ∈ m.parts) (he : ∀ e ∈ ([0x110019] : List Nat), m.entry e) :
    Keep m a (quiescedReached s h) := by
  have hset : ∀ {i : Inst} {code : Nat}, Keep m a (instResult (setInst s h i false) h code) := instResult_keep (setInst_keep hs hw) he
  exact keep_ite hs (keep_ite hset (keep_ite hset hset))

theorem quiesceTimeout_keep {h : Nat} (hs : Keep m a s) (he : ∀ e ∈ ([0x110019] : List Nat), m.entry e) :
    Keep m a (quiesceTimeout s h) := keep_ite (instResult_keep hs he) hs

end Sys2Proof.Machine
end

section
/-! SUPPORT. What each operation of Machine/Dictionary.lean keeps (`Keep`). -/

namespace Sys2Proof.Machine

open Sys2Proof.Safety

variable {m : May} {a s : State}

/-- What a write through the dictionary may change. -/
def dictParts : List StatePart := mayChange (.registerWrite .mgmt 0 0 0 [])

/-! ### The write of one row -/

theorem plainWrite_keep {who : Req} {e row : Nat} {ws : List Word} (h : Keep m a s)
    (hw : ∀ p ∈ ([.staged, .answer] : List StatePart), p ∈ m.parts) (he : m.entry e) : Keep m a (plainWrite s who e row ws) := by
  have hr : ∀ code, Keep m a (result s code) := fun _ => result_keep h (partsSub (by decide) hw)
  exact keep_ite (hr _) (keep_ite (hr _) (keep_foldl h fun _ _ hz =>
    keep_ite (keep_staged hz (hw _ (by decide))) (keep_ite hz (setCell_keep hz he))))

theorem classConfigWrite_keep {who : Req} {c : Nat} {ws : List Word} (h : Keep m a s)
    (hw : ∀ p ∈ ([.staged, .answer] : List StatePart), p ∈ m.parts) (he : ∀ e ∈ ([0x500005, 0x500006] : List Nat), m.entry e) :
    Keep m a (classConfigWrite s who c ws) := by
  have h1 := plainWrite_keep (who := who) (row := c) (ws := ws) h hw (he 0x500005 (by decide))
  exact keep_ite h1 (setRegFld_keep h1 (he _ (by decide)))

theorem rangeRowWrite_keep {who : Req} {row : Nat} {ws : List Word} {commit : Bool} (h : Keep m a s)
    (hw : ∀ p ∈ ([.ranges] : List StatePart), p ∈ m.parts) (he : ∀ e ∈ ([0x700001, 0x700002] : List Nat), m.entry e) :
    Keep m a (rangeRowWrite s who row ws commit) := by
  have h1 := setCells_keep (row := row) (w := 1) (ws := ws.drop 1) h (he 0x700001 (by decide))
  exact keep_ite (rangeCommit_keep h1 hw he) h1

theorem bankRowWrite_keep {row : Nat} {v : Word} (h : Keep m a s)
    (hw : ∀ p ∈ ([.fabric, .answer] : List StatePart), p ∈ m.parts) (he : ∀ e ∈ ([0x310002] : List Nat), m.entry e) :
    Keep m a (bankRowWrite s row v) := by
  have h1 := setCell_keep (row := row) (w := 0) (v := v &&& wd (bankMask row)) h (he 0x310002 (by decide))
  exact keep_ite (result_keep h (partsSub (by decide) hw)) (keep_ite (keep_fab h1 (hw _ (by decide))) h1)

theorem tenantOpWrite_keep {v : Word} (h : Keep m a s)
    (hw : ∀ p ∈ ([.staged, .answer] : List StatePart), p ∈ m.parts) (he : ∀ e ∈ ([0x220003] : List Nat), m.entry e) :
    Keep m a (tenantOpWrite s v) :=
  keep_ite (result_keep h (partsSub (by decide) hw)) (keep_ite (keep_staged h (hw _ (by decide))) (setCell_keep h (he _ (by decide))))

theorem rowWrite_keep {who : Req} {e row : Nat} {ws : List Word} {commit : Bool} (h : Keep m a s)
    (hw : ∀ p ∈ dictParts, p ∈ m.parts) (ha : m.any = true) : Keep m a (rowWrite s who e row ws commit) := by
  unfold rowWrite
  extract_lets s0 w0 w1
  have h0 : Keep m a s0 := result_keep h (partsSub (by decide) hw)
  have hr : ∀ code, Keep m a (result s0 code) := fun _ => result_keep h0 (partsSub (by decide) hw)
  clear_value s0 w0 w1
  split
  · exact rangeRowWrite_keep h0 (partsSub (by decide) hw) (entriesAny ha)
  · exact frConfigWrite_keep h0 (partsSub (by decide) hw) (entriesAny ha)
  · exact frHeadWrite_keep h0 (partsSub (by decide) hw) (entriesAny ha)
  · exact hoopCommand_keep h0 (partsSub (by decide) hw) (entriesAny ha)
  · exact nodeIdWrite_keep h0 (partsSub (by decide) hw) (entriesAny ha)
  · exact bankRowWrite_keep h0 (partsSub (by decide) hw) (entriesAny ha)
  · exact epochCommand_keep h0 (partsSub (by decide) hw) (entriesAny ha)
  · exact markLost_keep h0 (partsSub (by decide) hw) (entriesAny ha)
  · exact eyeletEnable_keep h0 (partsSub (by decide) hw) (entriesAny ha)
  · exact queueCommand_keep h0 (partsSub (by decide) hw) (entriesAny ha)
  · exact contextCommand_keep h0 (partsSub (by decide) hw) (entriesAny ha)
  · exact fenceCommand_keep h0 (partsSub (by decide) hw)
  · exact objectCommand_keep h0 (partsSub (by decide) hw) (entriesAny ha)
  · exact samplerControlWrite_keep h0 (partsSub (by decide) hw) (entriesAny ha)
  · exact swapAreaWrite_keep h0 (partsSub (by decide) hw) (entriesAny ha)
  · exact heapConfigWrite_keep h0 (partsSub (by decide) hw) (entriesAny ha)
  · exact keep_ite (powerReq_keep h0 (partsSub (by decide) hw) ha) (hr _)
  · exact statusWordWrite_keep h0 (partsSub (by decide) hw) (entriesAny ha)
  · exact keep_ite (hr _) (classConfigWrite_keep h0 (partsSub (by decide) hw) (entriesAny ha))
  · exact resetRequest_keep h0 (partsSub (by decide) hw) (entriesAny ha)
  · exact keep_ite (hr _) (dumpRelease_keep h0 (partsSub (by decide) hw) (entriesAny ha))
  · exact selConfigWrite_keep h0 (partsSub (by decide) hw) (entriesAny ha)
  · exact windowUsWrite_keep h0 (partsSub (by decide) hw) (entriesAny ha)
  · exact peakReset_keep h0 (partsSub (by decide) hw) (entriesAny ha)
  · exact dumpHeadWrite_keep h0 (partsSub (by decide) hw) (entriesAny ha)
  · exact instanceCommand_keep h0 (partsSub (by decide) hw) (entriesAny ha)
  · exact tenantOpWrite_keep h0 (partsSub (by decide) hw) (entriesAny ha)
  · exact keep_ite (keep_ite (rwsApply_keep h0 (partsSub (by decide) hw) ha) (hr _))
      (plainWrite_keep h0 (partsSub (by decide) hw) (entryAny ha))

theorem writeRows_keep {who : Req} {e : Nat} {rows : List (Nat × List Word × Bool)} (h : Keep m a s)
    (hw : ∀ p ∈ dictParts, p ∈ m.parts) (ha : m.any = true) : Keep m a (writeRows s who e rows) :=
  keep_ite (result_keep h (partsSub (by decide) hw))
    (result_keep (keep_foldl (wakeUp_keep h (partsSub (by decide) hw)) fun _ _ hz => rowWrite_keep hz hw ha) (partsSub (by decide) hw))

/-! ### The write of a BLOB -/

theorem blobWrite_keep {who : Req} {e : Nat} {bs : List Byte} (h : Keep m a s) (hw : ∀ p ∈ dictParts, p ∈ m.parts) (ha : m.any = true) :
    Keep m a (blobWrite s who e bs) := by
  unfold blobWrite
  extract_lets s0 ws
  have h0 : Keep m a s0 := result_keep h (partsSub (by decide) hw)
  clear_value s0
  split
  · exact lcRequest_keep h0 (partsSub (by decide) hw) (entriesAny ha)
  · exact debugToken_keep h0 (partsSub (by decide) hw) (entriesAny ha)
  · exact signedWrite_keep h0 (partsSub (by decide) hw) ha
  · exact confCommand_keep h0 (partsSub (by decide) hw) (entriesAny ha)
  · exact inject_keep h0 (partsSub (by decide) hw) (entriesAny ha)
  · exact dumpConfigWrite_keep h0 (partsSub (by decide) hw)
  · exact setCells_keep h0 (entryAny ha)

theorem dropStaging_keep {who : Req} {e : Nat} (h : Keep m a s) (hw : ∀ p ∈ ([.server] : List StatePart), p ∈ m.parts) :
    Keep m a (dropStaging s who e) := keep_server h (hw _ (by decide))

theorem blobSegment_keep {who : Req} {x : Entry} {off : Nat} {bs : List Byte} {final : Bool} (h : Keep m a s)
    (hw : ∀ p ∈ dictParts, p ∈ m.parts) (ha : m.any = true) : Keep m a (blobSegment s who x off bs final) := by
  unfold blobSegment
  extract_lets e mine all others sizeBad busy code s1 y
  have h1 : Keep m a s1 := dropStaging_keep (wakeUp_keep h (partsSub (by decide) hw)) (partsSub (by decide) hw)
  exact keep_ite (result_keep h (partsSub (by decide) hw)) (keep_ite (blobWrite_keep h1 hw ha)
    (result_keep (keep_server h1 (hw _ (by decide))) (partsSub (by decide) hw)))

/-! ### The operations -/

theorem factoryAnswer_keep {n : Nat} (h : Keep m a s) (hw : ∀ p ∈ ([.answer] : List StatePart), p ∈ m.parts) :
    Keep m a (factoryAnswer s n) := reply_keep (freeBytes_keep (takeFree_keep h)) hw

theorem answerRead_keep {r : Nat × List Byte × Nat} (h : Keep m a s) (hw : ∀ p ∈ ([.answer] : List StatePart), p ∈ m.parts) :
    Keep m a (answerRead s r) := keep_answer (keep_free h) (hw _ (by decide))

theorem writeOp_keep {who : Req} {secure : Bool} {x : SdpMsg} (h : Keep m a s) (hw : ∀ p ∈ dictParts, p ∈ m.parts) (ha : m.any = true) :
    Keep m a (writeOp s who secure x) := by
  have hr : ∀ code, Keep m a (result s code) := fun _ => result_keep h (partsSub (by decide) hw)
  unfold writeOp
  extract_lets e final
  split
  · exact hr _
  · exact keep_ite (hr _) (keep_ite (hr _) (keep_ite (keep_ite (hr _) (blobSegment_keep h hw ha))
      (keep_ite (hr _) (keep_ite (hr _) (writeRows_keep h hw ha)))))

theorem performRead_keep {who : Req} {x : SdpMsg} {secure : Bool} {limit : Nat} (h : Keep m a s)
    (hw : ∀ p ∈ ([.answer] : List StatePart), p ∈ m.parts) : Keep m a (performRead who x secure limit s) :=
  keep_ite (factoryAnswer_keep h hw) (answerRead_keep h hw)

theorem performWrite_keep {who : Req} {x : SdpMsg} {secure : Bool} {limit : Nat} (h : Keep m a s)
    (hw : ∀ p ∈ dictParts, p ∈ m.parts) (ha : m.any = true) : Keep m a (performWrite who x secure limit s) :=
  keep_ite (factoryAnswer_keep h (partsSub (by decide) hw)) (writeOp_keep h hw ha)

theorem performDescribe_keep {x : SdpMsg} {secure : Bool} {limit : Nat} (h : Keep m a s)
    (hw : ∀ p ∈ ([.answer] : List StatePart), p ∈ m.parts) : Keep m a (performDescribe x secure limit s) :=
  keep_ite (factoryAnswer_keep h hw) (reply_keep h hw)

theorem performNop_keep {secure : Bool} {limit : Nat} (h : Keep m a s)
    (hw : ∀ p ∈ ([.answer] : List StatePart), p ∈ m.parts) : Keep m a (performNop secure limit s) := result_keep h hw

theorem performOp_keep {who : Req} {op : Nat} {x : SdpMsg} {secure : Bool} {limit : Nat} (h : Keep m a s)
    (hw : ∀ p ∈ dictParts, p ∈ m.parts) (ha : m.any = true) : Keep m a (performOp who op x secure limit s) := by
  unfold performOp
  split
  · exact performRead_keep h (partsSub (by decide) hw)
  · exact performWrite_keep h hw ha
  · exact performDescribe_keep h (partsSub (by decide) hw)
  · exact performNop_keep h (partsSub (by decide) hw)

/-! ### SDP sessions -/

theorem modSessions_keep {f : List Session → List Session} (h : Keep m a s)
    (hw : ∀ p ∈ ([.server] : List StatePart), p ∈ m.parts) : Keep m a (modSessions s f) := keep_server h (hw _ (by decide))

theorem countSdp_keep {row : Nat} (h : Keep m a s) (he : ∀ e ∈ ([0x120007] : List Nat), m.entry e) : Keep m a (countSdp s row) :=
  bump_keep h (he _ (by decide))

theorem sdpRefuse_keep {code : Nat} (h : Keep m a s) (hw : ∀ p ∈ ([.answer] : List StatePart), p ∈ m.parts)
    (he : ∀ e ∈ ([0x120007] : List Nat), m.entry e) : Keep m a (sdpRefuse s code) := countSdp_keep (result_keep h hw) he

theorem countRefusal_keep (h : Keep m a s) (he : ∀ e ∈ ([0x120007] : List Nat), m.entry e) : Keep m a (countRefusal s) :=
  keep_ite h (countSdp_keep h he)

theorem resend_keep {x : Session} (h : Keep m a s) (hw : ∀ p ∈ ([.server, .answer] : List StatePart), p ∈ m.parts)
    (he : ∀ e ∈ ([0x120007] : List Nat), m.entry e) : Keep m a (resend s x) :=
  keep_answer (modSessions_keep (countSdp_keep h he) (partsSub (by decide) hw)) (hw _ (by decide))

theorem sdpRequest_keep {op : Nat} {x : SdpMsg} {perform : Bool → Nat → State → State} (h : Keep m a s)
    (hf : ∀ b n z, Keep m a z → Keep m a (perform b n z))
    (hw : ∀ p ∈ ([.server, .answer] : List StatePart), p ∈ m.parts) (he : ∀ e ∈ ([0x120007] : List Nat), m.entry e) :
    Keep m a (sdpRequest s op x perform) := by
  unfold sdpRequest
  extract_lets s0
  have h0 : Keep m a s0 := countSdp_keep h he
  clear_value s0
  have hr : ∀ code, Keep m a (sdpRefuse s0 code) := fun _ => sdpRefuse_keep h0 (partsSub (by decide) hw) he
  refine keep_ite (hr _) ?_
  split
  · exact hr _
  · have h1 := fun b n => countRefusal_keep (hf b n _ h0) he
    exact keep_ite (resend_keep h0 hw he) (keep_ite (hr _) (keep_ite (modSessions_keep (h1 _ _) (partsSub (by decide) hw))
      (modSessions_keep (h1 _ _) (partsSub (by decide) hw))))

theorem sessionOpen_keep {mctp : Bool} {peer : Nat} {x : SdpMsg} (h : Keep m a s)
    (hw : ∀ p ∈ ([.server, .answer] : List StatePart), p ∈ m.parts) (he : ∀ e ∈ ([0x120007] : List Nat), m.entry e) :
    Keep m a (sessionOpen s mctp peer x) := by
  have h0 : Keep m a (countSdp s 0) := countSdp_keep h he
  refine keep_ite (sdpRefuse_keep h0 (partsSub (by decide) hw) he) ?_
  have h1 := modSessions_keep (f := fun l => l.filter (fun x => !sessionOver (countSdp s 0) x)) h0 (partsSub (by decide) hw)
  exact keep_ite (sdpRefuse_keep h1 (partsSub (by decide) hw) he) (keep_answer (keep_server h1 (hw _ (by decide))) (hw _ (by decide)))

theorem dictRequest_keep {who : Req} {op : Nat} {x : SdpMsg} {perform : Bool → Nat → State → State} (h : Keep m a s)
    (hf : ∀ b n z, Keep m a z → Keep m a (perform b n z))
    (hw : ∀ p ∈ ([.server, .answer] : List StatePart), p ∈ m.parts) (he : ∀ e ∈ ([0x120007] : List Nat), m.entry e) :
    Keep m a (dictRequest s who op x perform) := by
  unfold dictRequest
  split
  · exact sdpRequest_keep h hf hw he
  · exact keep_ite h (keep_ite (result_keep h (partsSub (by decide) hw)) (hf _ _ _ h))

theorem seqRepeat_keep {n : Nat} (h : Keep m a s) (hw : ∀ p ∈ ([.server, .answer] : List StatePart), p ∈ m.parts)
    (he : ∀ e ∈ ([0x120007] : List Nat), m.entry e) : Keep m a (seqRepeat s n) := by
  unfold seqRepeat
  split
  · exact keep_ite (resend_keep (countSdp_keep h he) hw he) h
  · exact h

theorem blobStagingTimeout_keep {e : Nat} (h : Keep m a s) (hw : ∀ p ∈ ([.server] : List StatePart), p ∈ m.parts)
    (he : ∀ e ∈ ([0x120007] : List Nat), m.entry e) : Keep m a (blobStagingTimeout s e) :=
  addCell_keep (keep_server h (hw _ (by decide))) (he _ (by decide))

/-! ### The BAR0 window -/

theorem setMailbox_keep {who : Req} {x : Mailbox} (h : Keep m a s) (hw : ∀ p ∈ ([.server] : List StatePart), p ∈ m.parts) :
    Keep m a (setMailbox s who x) := keep_server h (hw _ (by decide))

theorem mailboxGo_keep {who : Req} {magicOk : Bool} {op : Nat} {x : SdpMsg} (h : Keep m a s) (hw : ∀ p ∈ dictParts, p ∈ m.parts)
    (ha : m.any = true) : Keep m a (mailboxGo s who magicOk op x) :=
  keep_ite h (keep_ite (countSdp_keep h (entriesAny ha)) (setMailbox_keep
    (keep_ite (dictRequest_keep h (fun _ _ _ hz => performOp_keep hz hw ha) (partsSub (by decide) hw) (entriesAny ha))
      (result_keep h (partsSub (by decide) hw))) (partsSub (by decide) hw)))

theorem apertureWrite_keep {who : Req} {x : Entry} {off : Nat} {bs : List Byte} (h : Keep m a s) (hw : ∀ p ∈ dictParts, p ∈ m.parts)
    (ha : m.any = true) : Keep m a (apertureWrite s who x off bs) := by
  have hr : ∀ code, Keep m a (result s code) := fun _ => result_keep h (partsSub (by decide) hw)
  exact keep_ite (hr _) (keep_ite (hr _) (keep_ite (blobSegment_keep h hw ha) (writeRows_keep h hw ha)))

theorem apertureAccess_keep {who : Req} {select : Word} {off : Nat} {write : Option Word} {len : Nat} (h : Keep m a s)
    (hw : ∀ p ∈ dictParts, p ∈ m.parts) (ha : m.any = true) : Keep m a (apertureAccess s who select off write len) := by
  have hf : ∀ {z : State} {n : Nat}, Keep m a z → Keep m a (factoryAnswer z n) := fun hz => factoryAnswer_keep hz (partsSub (by decide) hw)
  have hbox : ∀ {z : State} {x : Mailbox}, Keep m a z → Keep m a (setMailbox z who x) := fun hz => setMailbox_keep hz (partsSub (by decide) hw)
  have hr : ∀ code, Keep m a (result s code) := fun _ => result_keep h (partsSub (by decide) hw)
  refine keep_ite h (keep_ite (barAccessDrop_keep h (partsSub (by decide) hw) (entriesAny ha)) ?_)
  extract_lets e _ box found code s1
  clear_value code found
  split
  · split
    · exact answerRead_keep (hbox h) (partsSub (by decide) hw)
    · exact keep_ite (hf (hbox h)) (reply_keep (hbox h) (partsSub (by decide) hw))
  · refine hbox ?_
    split
    · exact keep_ite (hf h) (hr _)
    · exact keep_ite (apertureWrite_keep h hw ha) (hr _)

/-! ### The management port and any other entry -/

theorem neighbourDiscovery_keep {target : Nat} (h : Keep m a s) (hw : ∀ p ∈ ([.answer] : List StatePart), p ∈ m.parts) :
    Keep m a (neighbourDiscovery s target) := keep_ite (reply_keep h hw) h

theorem registerWrite_keep {who : Req} {index sub row : Nat} {ws : List Word} (h : Keep m a s)
    (hw : ∀ p ∈ dictParts, p ∈ m.parts) (ha : m.any = true) : Keep m a (registerWrite s who index sub row ws) := by
  have hr : ∀ code, Keep m a (result s code) := fun _ => result_keep h (partsSub (by decide) hw)
  unfold registerWrite
  extract_lets e
  split
  · exact keep_ite (factoryAnswer_keep h (partsSub (by decide) hw)) (hr _)
  · exact keep_ite (hr _) (keep_ite (hr _) (keep_ite (blobSegment_keep h hw ha) (keep_ite (hr _) (writeRows_keep h hw ha))))

end Sys2Proof.Machine
end

section
/-! SUPPORT. What each command keeps (`KeepX`), from what its operation keeps. -/

namespace Sys2Proof.Machine

open Sys2Proof.Safety

variable {s : State}

/-- Every command keeps what its frame does not list. One arm for each command: the operation that gives it its meaning keeps as
much, and what the operation may change lies, by evaluation, among what the command may change. -/
theorem exec_keep (hs : Canon s) (c : Instr) : KeepX (may c) s (exec c s) := by
  have hk : ∀ {m : May}, Keep m s s := keep_refl hs
  cases c with
  | quarterStoreRead => exact keepX_next (quarterStoreRead_keep hk (subOf rfl) (entriesOf rfl))
  | mergeWindowExpire => exact keepX_unlessSafe hs (mergeWindowExpire_keep hk (subOf rfl))
  | quarterStoreWrite => exact keepX_next (quarterStoreWrite_keep hk (subOf rfl) (entriesOf rfl))
  | pllStop => exact keepX_next (pllStop_keep hk (subOf rfl))
  | pllLock => exact keepX_next (serveBells_keep (pllLock_keep hk (subOf rfl) (entriesOf rfl)) (subOf rfl) (entriesOf rfl))
  | lanternWakeDone => exact keepX_unlessSafe hs (serveBells_keep (lanternWakeDone_keep hk (subOf rfl) (entriesOf rfl)) (subOf rfl) (entriesOf rfl))
  | lanternGate => exact keepX_unlessSafe hs (lanternGate_keep hk (subOf rfl))
  | stitch => exact keepX_next (stitch_keep hk (subOf rfl) (entriesOf rfl))
  | stitchChoose => exact keepX_unlessSafe hs (stitchChoose_keep hk (subOf rfl) (entriesOf rfl))
  | strandStart => exact keepX_unlessSafe hs (strandStart_keep hk (subOf rfl) (entriesOf rfl))
  | load => exact keepX_next (load_keep hk (subOf rfl) (entriesOf rfl))
  | store => exact keepX_next (store_keep hk (subOf rfl) (entriesOf rfl))
  | mma => exact keepX_next (mma_keep hk (subOf rfl) (entriesOf rfl))
  | transpose => exact keepX_next (transpose_keep hk (subOf rfl) (entriesOf rfl))
  | convert => exact keepX_next (convertOp_keep hk (subOf rfl) (entriesOf rfl))
  | bcastAdd => exact keepX_next (bcastAdd_keep hk (subOf rfl) (entriesOf rfl))
  | zero => exact keepX_next (zero_keep hk (subOf rfl) (entriesOf rfl))
  | alloc => exact keepX_next (alloc_keep hk (subOf rfl) (entriesOf rfl))
  | wait => exact keepX_next (wait_keep hk (subOf rfl) (entriesOf rfl))
  | signal => exact keepX_next (signal_keep hk (subOf rfl) (entriesOf rfl))
  | inval => exact keepX_next (inval_keep hk (subOf rfl) (entriesOf rfl))
  | chain => exact keepX_next (chainOp_keep hk (subOf rfl) (entriesOf rfl))
  | tileOpComplete => exact keepX_unlessSafe hs (tileOpComplete_keep hk (subOf rfl) (entriesOf rfl))
  | strandComplete => exact keepX_unlessSafe hs (strandComplete_keep hk (subOf rfl) (entriesOf rfl))
  | stitchStop => exact keepX_unlessSafe hs (stitchStop_keep hk (subOf rfl) (entriesOf rfl))
  | xwait => exact keepX_next (xwait_keep hk (subOf rfl) (entriesOf rfl))
  | xsignal => exact keepX_next (xsignal_keep hk (subOf rfl) (entriesOf rfl))
  | xfread => exact keepX_next (xfread_keep hk (subOf rfl) (entriesOf rfl))
  | xtile => exact keepX_next (xtile_keep hk (subOf rfl) (entriesOf rfl))
  | xtsync => exact keepX_unlessSafe hs (xtsync_keep hk (subOf rfl) (entriesOf rfl))
  | xpicot => exact keepX_next (xpicot_keep hk (subOf rfl) (entriesOf rfl))
  | xcinv => exact keepX_next (xcinv_keep hk (subOf rfl) (entriesOf rfl))
  | xdrain => exact keepX_next (xdrain_keep hk (subOf rfl) (entriesOf rfl))
  | xalloc => exact keepX_next (xalloc_keep hk (subOf rfl) (entriesOf rfl))
  | xfree => exact keepX_next (xfree_keep hk (subOf rfl) (entriesOf rfl))
  | xexit => exact keepX_next (xexit_keep hk (subOf rfl) (entriesOf rfl))
  | cboInval => exact keepX_next (cboInval_keep hk (subOf rfl) (entriesOf rfl))
  | cboClean => exact keepX_next (cboClean_keep hk (subOf rfl) (entriesOf rfl))
  | cboFlush => exact keepX_next (cboFlush_keep hk (subOf rfl) (entriesOf rfl))
  | cboZero => exact keepX_next (cboZero_keep hk (subOf rfl) (entriesOf rfl))
  | amo => exact keepX_next (amo_keep hk (subOf rfl) (entriesOf rfl))
  | lr => exact keepX_next (lr_keep hk (subOf rfl) (entriesOf rfl))
  | sc => exact keepX_next (sc_keep hk (subOf rfl) (entriesOf rfl))
  | wrsStoTimeout => exact keepX_unlessSafe hs (wrsStoTimeout_keep hk (subOf rfl) (entriesOf rfl))
  | coreException => exact keepX_next (coreException_keep hk (subOf rfl) (entriesOf rfl))
  | dmaOpStart => exact keepX_unlessSafe hs (dmaOpStart_keep hk (subOf rfl) (entriesOf rfl))
  | dmaOpComplete => exact keepX_unlessSafe hs (dmaOpComplete_keep hk (subOf rfl))
  | slotOpen => exact keepX_next (slotOpen_keep hk (subOf rfl) (entriesOf rfl))
  | slotClose => exact keepX_next (slotClose_keep hk (subOf rfl) (entriesOf rfl))
  | cseRequestStart => exact keepX_unlessSafe hs (cseRequestStart_keep hk (subOf rfl) (entriesOf rfl))
  | csePassStart => exact keepX_unlessSafe hs (csePassStart_keep hk (subOf rfl) (entriesOf rfl))
  | csePassEnd => exact keepX_unlessSafe hs (csePassEnd_keep hk (subOf rfl) (entriesOf rfl))
  | query => exact keepX_next (query_keep hk (subOf rfl) (entriesOf rfl))
  | partialMsg => exact keepX_next (partialWord_keep hk (subOf rfl) (entriesOf rfl))
  | max => exact keepX_next (maxWord_keep hk (subOf rfl) (entriesOf rfl))
  | gmax => exact keepX_next (gmaxWord_keep hk (subOf rfl) (entriesOf rfl))
  | credit => exact keepX_next (creditWord_keep hk (subOf rfl) (entriesOf rfl))
  | fail => exact keepX_next (failWord_keep hk (subOf rfl) (entriesOf rfl))
  | mailboxAccessDrop => exact keepX_next (countQ_keep hk (entriesOf rfl))
  | ringTimeout => exact keepX_unlessSafe hs (ringTimeout_keep hk (subOf rfl) (entriesOf rfl))
  | bobbinRead => exact keepX_next (bobbinRead_keep hk (subOf rfl) (entriesOf rfl))
  | bobbinWrite => exact keepX_next (bobbinWrite_keep hk (subOf rfl) (entriesOf rfl))
  | partialBlockMerge => exact keepX_unlessSafe hs (partialBlockMerge_keep hk (subOf rfl) (entriesOf rfl))
  | linkCrcError => exact keepX_next (linkCrcError_keep hk (subOf rfl) (entriesOf rfl))
  | move => exact keepX_next (move_keep hk (subOf rfl) (entriesOf rfl))
  | moverDispatch => exact keepX_unlessSafe hs (moverDispatch_keep hk (subOf rfl))
  | copy => exact keepX_next (copy_keep hk (subOf rfl) (entriesOf rfl))
  | gather => exact keepX_next (gather_keep hk (subOf rfl) (entriesOf rfl))
  | scatter => exact keepX_next (scatter_keep hk (subOf rfl) (entriesOf rfl))
  | fill => exact keepX_next (fill_keep hk (subOf rfl) (entriesOf rfl))
  | moverDescriptorComplete => exact keepX_unlessSafe hs (moverDescriptorComplete_keep hk (subOf rfl) (entriesOf rfl))
  | scratchpadWindowAccess => exact keepX_next (scratchpadWindowAccess_keep hk (subOf rfl) (entriesOf rfl))
  | rangeCommit => exact keepX_gateWrite hs (fun _ hz => rangeCommit_keep hz (subOf rfl) (entriesOf rfl)) (subOf rfl)
  | walkComplete => exact keepX_unlessSafe hs (walkComplete_keep hk (subOf rfl) (entriesOf rfl))
  | faultRecordWrite => exact keepX_unlessSafe hs (faultRecordWrite_keep hk (subOf rfl) (entriesOf rfl))
  | faultRecordTimeout => exact keepX_unlessSafe hs (faultRecordTimeout_keep hk (subOf rfl) (entriesOf rfl))
  | frHeadWrite => exact keepX_gateWrite hs (fun _ hz => frHeadWrite_keep hz (subOf rfl) (entriesOf rfl)) (subOf rfl)
  | frConfigWrite => exact keepX_gateWrite hs (fun _ hz => frConfigWrite_keep hz (subOf rfl) (entriesOf rfl)) (subOf rfl)
  | hotWriteBack => exact keepX_unlessSafe hs (hotWriteBack_keep hk (subOf rfl) (entriesOf rfl))
  | invalEntry | invalAspace | invalHoop | replay => exact keepX_next (invalDoorbell_keep hk (subOf rfl) (entriesOf rfl))
  | invalComplete => exact keepX_unlessSafe hs (invalComplete_keep hk (subOf rfl) (entriesOf rfl))
  | hoopCreate | hoopRebind => exact keepX_gateWrite hs (fun _ hz => hoopCommand_keep hz (subOf rfl) (entriesOf rfl)) (subOf rfl)
  | rebindApply => exact keepX_unlessSafe hs (rebindApply_keep hk (subOf rfl) (entriesOf rfl))
  | hoopDestroy => exact keepX_gateWrite hs (fun _ hz => hoopCommand_keep hz (subOf rfl) (entriesOf rfl)) (subOf rfl)
  | destroyDone => exact keepX_unlessSafe hs (destroyDone_keep hk (subOf rfl) (entriesOf rfl))
  | hoopCancel => exact keepX_gateWrite hs (fun _ hz => hoopCommand_keep hz (subOf rfl) (entriesOf rfl)) (subOf rfl)
  | unitScrubDone => exact keepX_unlessSafe hs (unitScrubDone_keep hk (subOf rfl) (entriesOf rfl))
  | retiredLanternRemove => exact keepX_unlessSafe hs (retiredLanternRemove_keep hk (subOf rfl) (entriesOf rfl))
  | nodeIdWrite => exact keepX_gateWrite hs (fun _ hz => nodeIdWrite_keep hz (subOf rfl) (entriesOf rfl)) (subOf rfl)
  | epochStage | epochOpen | epochCommit | epochAbandon =>
    exact keepX_gateWrite hs (fun _ hz => epochCommand_keep hz (subOf rfl) (entriesOf rfl)) (subOf rfl)
  | remoteTimeout => exact keepX_unlessSafe hs (remoteTimeout_keep hk (subOf rfl) (entriesOf rfl))
  | markLost =>
    exact keepX_gateWrite hs (fun _ hz => keep_ite (result_keep (markLost_keep hz (subOf rfl) (entriesOf rfl)) (subOf rfl)) (result_keep hz
      (subOf rfl))) (subOf rfl)
  | elpRead => exact keepX_next (elpRead_keep hk (subOf rfl) (entriesOf rfl))
  | elpWrite => exact keepX_next (elpWrite_keep hk (subOf rfl) (entriesOf rfl))
  | elpPicot => exact keepX_next (elpPicot_keep hk (subOf rfl) (entriesOf rfl))
  | elpFence => exact keepX_next (elpFence_keep hk (subOf rfl) (entriesOf rfl))
  | elpReadData => exact keepX_next (elpReadData_keep hk (subOf rfl) (entriesOf rfl))
  | elpAck => exact keepX_next (elpAck_keep hk (subOf rfl) (entriesOf rfl))
  | flitData => exact keepX_next (flitData_keep hk (subOf rfl) (entriesOf rfl))
  | flitIdle => exact keepX_next (flitIdle_keep hk (subOf rfl) (entriesOf rfl))
  | flitNak => exact keepX_next (flitNak_keep hk (subOf rfl) (entriesOf rfl))
  | ctrlHello => exact keepX_next (ctrlHello_keep hk (subOf rfl) (entriesOf rfl))
  | ctrlSpareRequest => exact keepX_next (ctrlSpareRequest_keep hk (subOf rfl) (entriesOf rfl))
  | ctrlSpareSwitch => exact keepX_next (ctrlSpareSwitch_keep hk (subOf rfl) (entriesOf rfl))
  | laneFailing => exact keepX_next (laneFailing_keep hk (subOf rfl) (entriesOf rfl))
  | spareTrained => exact keepX_next (spareTrained_keep hk (subOf rfl) (entriesOf rfl))
  | retrainTimeout => exact keepX_unlessSafe hs (retrainTimeout_keep hk (subOf rfl) (entriesOf rfl))
  | eyeletEnable => exact keepX_gateWrite hs (fun _ hz => eyeletEnable_keep hz (subOf rfl) (entriesOf rfl)) (subOf rfl)
  | eyeletTrained => exact keepX_next (eyeletTrained_keep hk (subOf rfl) (entriesOf rfl))
  | collective => exact keepX_next (collective_keep hk (subOf rfl) (entriesOf rfl))
  | allReduce | reduceScatter | allGather => exact keepX_next (collRun_keep hk (subOf rfl) (entriesOf rfl))
  | collectiveInFlag => exact keepX_next (collInFlag_keep hk (subOf rfl) (entriesOf rfl))
  | collectiveFreeFlag => exact keepX_next (collFreeFlag_keep hk (subOf rfl) (entriesOf rfl))
  | collectiveAbortFlag => exact keepX_next (collAbortFlag_keep hk (subOf rfl) (entriesOf rfl))
  | collectiveTimeout => exact keepX_unlessSafe hs (collTimeout_keep hk (subOf rfl) (entriesOf rfl))
  | flrVf => exact keepX_next (flrVf_keep hk (subOf rfl) (entriesOf rfl))
  | flrPf => exact keepX_next (flrPf_keep hk (subOf rfl) (entriesOf rfl))
  | perst => exact keepX_next (perst_keep hk (subOf rfl) (entriesOf rfl))
  | perstRelease => exact keepX_next (perstRelease_keep hk (subOf rfl))
  | cxlMemRead => exact keepX_next (cxlMemRead_keep hk (subOf rfl) (entriesOf rfl))
  | cxlMemWrite => exact keepX_next (cxlMemWrite_keep hk (subOf rfl) (entriesOf rfl))
  | bar4Read => exact keepX_next (bar4Read_keep hk (subOf rfl) (entriesOf rfl))
  | bar4Write => exact keepX_next (bar4Write_keep hk (subOf rfl) (entriesOf rfl))
  | fenceWindowRead => exact keepX_next (fenceWindowRead_keep hk (subOf rfl) (entriesOf rfl))
  | queueCreate | destroyDrain | destroyAbort => exact keepX_gateWrite hs (fun _ hz => queueCommand_keep hz (subOf rfl) (entriesOf rfl)) (subOf rfl)
  | queueDestroyDone => exact keepX_unlessSafe hs (queueDestroyDone_keep hk (subOf rfl) (entriesOf rfl))
  | queueResume => exact keepX_gateWrite hs (fun _ hz => queueCommand_keep hz (subOf rfl) (entriesOf rfl)) (subOf rfl)
  | sqTailWrite => exact keepX_next (sqTailWrite_keep hk (subOf rfl) (entriesOf rfl))
  | cqHeadWrite => exact keepX_next (cqHeadWrite_keep hk (subOf rfl) (entriesOf rfl))
  | entryRead => exact keepX_unlessSafe hs (entryRead_keep hk (subOf rfl) (entriesOf rfl))
  | entryAdmit => exact keepX_unlessSafe hs (entryAdmit_keep hk (subOf rfl) (entriesOf rfl))
  | seam | fence => exact keepX_next (completeOp_keep hk (subOf rfl) (entriesOf rfl))
  | imageLoad => exact keepX_next (imageLoad_keep hk (subOf rfl))
  | imageLoadDone => exact keepX_unlessSafe hs (imageLoadDone_keep hk (subOf rfl) (entriesOf rfl))
  | imageUnload => exact keepX_next (imageUnload_keep hk (subOf rfl) (entriesOf rfl))
  | completionRecordWrite => exact keepX_unlessSafe hs (completionRecordWrite_keep hk (subOf rfl) (entriesOf rfl))
  | confirmingReadDone => exact keepX_unlessSafe hs (confirmingReadDone_keep hk (subOf rfl) (entriesOf rfl))
  | hostReadError => exact keepX_unlessSafe hs (hostReadError_keep hk (subOf rfl) (entriesOf rfl))
  | contextCreate | contextTeardown => exact keepX_gateWrite hs (fun _ hz => contextCommand_keep hz (subOf rfl) (entriesOf rfl)) (subOf rfl)
  | teardownDone => exact keepX_unlessSafe hs (teardownDone_keep hk (subOf rfl) (entriesOf rfl))
  | fenceAlloc | fenceFree | fenceReset => exact keepX_gateWrite hs (fun _ hz => fenceCommand_keep hz (subOf rfl)) (subOf rfl)
  | fenceSignal => exact keepX_next (commandSignal_keep hk (subOf rfl) (entriesOf rfl))
  | objectCreate | objectRef | objectUnref => exact keepX_gateWrite hs (fun _ hz => objectCommand_keep hz (subOf rfl) (entriesOf rfl)) (subOf rfl)
  | heapConfigWrite => exact keepX_gateWrite hs (fun _ hz => heapConfigWrite_keep hz (subOf rfl) (entriesOf rfl)) (subOf rfl)
  | contextStuck => exact keepX_unlessSafe hs (contextStuck_keep hk (subOf rfl) (entriesOf rfl))
  | swapOut => exact keepX_unlessSafe hs (swapOut_keep hk (subOf rfl) (entriesOf rfl))
  | swapIn => exact keepX_unlessSafe hs (swapIn_keep hk (subOf rfl) (entriesOf rfl))
  | swapAreaWrite => exact keepX_gateWrite hs (fun _ hz => swapAreaWrite_keep hz (subOf rfl) (entriesOf rfl)) (subOf rfl)
  | samplerControlWrite => exact keepX_gateWrite hs (fun _ hz => samplerControlWrite_keep hz (subOf rfl) (entriesOf rfl)) (subOf rfl)
  | samplerPeriod => exact keepX_unlessSafe hs (samplerPeriod_keep hk (subOf rfl) (entriesOf rfl))
  | samplerSlot => exact keepX_unlessSafe hs (samplerSlot_keep hk (subOf rfl))
  | portServe => exact keepX_next (portServe_keep hk (subOf rfl) (entriesOf rfl))
  | powerReqActive | powerReqDrowse | powerReqWickOnly => exact keepX_gateWrite hs (fun _ hz => powerReq_keep hz (subOf rfl) rfl) (subOf rfl)
  | opStepDone => exact keepX_next (opStepDone_keep hk (subOf rfl) (entriesOf rfl))
  | railSample => exact keepX_next (railSample_keep hk (subOf rfl) (entriesOf rfl))
  | activityInterval => exact keepX_next (activityInterval_keep hk (subOf rfl) (entriesOf rfl))
  | capStep => exact keepX_next (capStep_keep hk (subOf rfl))
  | sensorRead => exact keepX_next (sensorRead_keep hk (subOf rfl) (entriesOf rfl))
  | thermalStep => exact keepX_next (thermalStep_keep hk (subOf rfl))
  | stackTempRead => exact keepX_next (stackTempRead_keep hk (subOf rfl) (entriesOf rfl))
  | faultLatch => exact keepX_next (faultLatch_keep hk (subOf rfl) (entriesOf rfl))
  | fenceReactionDone => exact keepX_unlessSafe hs (fenceReactionDone_keep hk (subOf rfl) (entriesOf rfl))
  | graceExpiry => exact keepX_next (graceExpiry_keep hk (subOf rfl) (entriesOf rfl))
  | statusWordWrite => exact keepX_gateWrite hs (fun _ hz => statusWordWrite_keep hz (subOf rfl) (entriesOf rfl)) (subOf rfl)
  | inject => exact keepX_gateWrite hs (fun _ hz => inject_keep hz (subOf rfl) (entriesOf rfl)) (subOf rfl)
  | stitchWatchdog => exact keepX_unlessSafe hs (stitchWatchdog_keep hk (subOf rfl) (entriesOf rfl))
  | queueNoprogress => exact keepX_unlessSafe hs (queueNoprogress_keep hk (subOf rfl) (entriesOf rfl))
  | lanternHeartbeat => exact keepX_unlessSafe hs (lanternHeartbeat_keep hk (subOf rfl) (entriesOf rfl))
  | resetL1 | resetL2 | resetL3 | resetL4Warm | resetL4Cold | resetL5 => exact keepX_next (resetRequest_keep hk (subOf rfl) (entriesOf rfl))
  | drainAllowanceEnd => exact keepX_next (drainAllowanceEnd_keep hk (subOf rfl) (entriesOf rfl))
  | selfCheckDone => exact keepX_next (selfCheckDone_keep hk (subOf rfl) (entriesOf rfl))
  | resetOverrun => exact keepX_next (resetOverrun_keep hk (subOf rfl) (entriesOf rfl))
  | dumpRelease => exact keepX_gateWrite hs (fun _ hz => dumpRelease_keep hz (subOf rfl) (entriesOf rfl)) (subOf rfl)
  | dumpExport => exact keepX_next (dumpExport_keep hk (subOf rfl) (entriesOf rfl))
  | dumpExportDone => exact keepX_next (dumpExportDone_keep hk (subOf rfl) (entriesOf rfl))
  | transitionFactoryTest | transitionProvisioned | transitionMission | transitionFieldReturn | transitionScrap =>
    exact keepX_next (lcRequest_keep hk (subOf rfl) (entriesOf rfl))
  | signedWrite => exact keepX_next (signedWrite_keep hk (subOf rfl) rfl)
  | debugToken => exact keepX_next (debugToken_keep hk (subOf rfl) (entriesOf rfl))
  | enter | change | exit => exact keepX_next (confCommand_keep hk (subOf rfl) (entriesOf rfl))
  | quiesce => exact keepX_gateWrite hs (fun _ hz => instanceCommand_keep hz (subOf rfl) (entriesOf rfl)) (subOf rfl)
  | quiescedReached => exact keepX_unlessSafe hs (quiescedReached_keep hk (subOf rfl) (entriesOf rfl))
  | quiesceTimeout => exact keepX_unlessSafe hs (quiesceTimeout_keep hk (entriesOf rfl))
  | instanceResume | freeze | save | restore => exact keepX_gateWrite hs (fun _ hz => instanceCommand_keep hz (subOf rfl) (entriesOf rfl)) (subOf rfl)
  | selConfigWrite => exact keepX_gateWrite hs (fun _ hz => selConfigWrite_keep hz (subOf rfl) (entriesOf rfl)) (subOf rfl)
  | windowUsWrite => exact keepX_gateWrite hs (fun _ hz => windowUsWrite_keep hz (subOf rfl) (entriesOf rfl)) (subOf rfl)
  | peakReset => exact keepX_gateWrite hs (fun _ hz => peakReset_keep hz (subOf rfl) (entriesOf rfl)) (subOf rfl)
  | dumpHeadWrite => exact keepX_gateWrite hs (fun _ hz => dumpHeadWrite_keep hz (subOf rfl) (entriesOf rfl)) (subOf rfl)
  | dumpConfigWrite => exact keepX_gateWrite hs (fun _ hz => dumpConfigWrite_keep hz (subOf rfl)) (subOf rfl)
  | hbmCorrectedError => exact keepX_next (hbmCorrectedError_keep hk (subOf rfl) (entriesOf rfl))
  | granuleRemap => exact keepX_unlessSafe hs (granuleRemap_keep hk (subOf rfl) (entriesOf rfl))
  | remapCopyDone => exact keepX_unlessSafe hs (remapCopyDone_keep hk (subOf rfl) (entriesOf rfl))
  | sessionOpen => exact keepX_next (sessionOpen_keep hk (subOf rfl) (entriesOf rfl))
  | sessionClose => exact keepX_next (sdpRequest_keep hk (fun _ _ _ hz => performNop_keep hz (subOf rfl)) (subOf rfl) (entriesOf rfl))
  | read => exact keepX_next (dictRequest_keep hk (fun _ _ _ hz => performRead_keep hz (subOf rfl)) (subOf rfl) (entriesOf rfl))
  | write => exact keepX_next (dictRequest_keep hk (fun _ _ _ hz => performWrite_keep hz (subOf rfl) rfl) (subOf rfl) (entriesAny rfl))
  | describe => exact keepX_next (dictRequest_keep hk (fun _ _ _ hz => performDescribe_keep hz (subOf rfl)) (subOf rfl) (entriesOf rfl))
  | nop => exact keepX_next (dictRequest_keep hk (fun _ _ _ hz => performNop_keep hz (subOf rfl)) (subOf rfl) (entriesOf rfl))
  | seqRepeat => exact keepX_next (seqRepeat_keep hk (subOf rfl) (entriesOf rfl))
  | mbControlGo => exact keepX_next (mailboxGo_keep hk (subOf rfl) rfl)
  | apertureAccess => exact keepX_next (apertureAccess_keep hk (subOf rfl) rfl)
  | sessionTimeout => exact keepX_next (modSessions_keep hk (subOf rfl))
  | registerWrite => exact keepX_next (registerWrite_keep hk (subOf rfl) rfl)
  | supplyApplied => exact keepX_next (supplyApplied_keep hk (subOf rfl) (entriesOf rfl))
  | hubSelfCheckDone => exact keepX_next (hubSelfCheckDone_keep hk (subOf rfl))
  | coreInstruction => exact keepX_unlessSafe hs (coreInstruction_keep hk (subOf rfl) (entriesOf rfl))
  | mainLow => exact keepX_next (mainLow_keep hk (subOf rfl))
  | hostLinkTrained => exact keepX_next (hostLinkTrained_keep hk (subOf rfl))
  | hdmDecoderCommit => exact keepX_next (hdmDecoderCommit_keep hk (subOf rfl))
  | debugPortAccess => exact execDebugPortAccess_keep hk (subOf rfl) (entriesOf rfl)
  | resetEnd => exact keepX_next (resetEnd_keep hk (subOf rfl) rfl)
  | barAccessDrop => exact keepX_next (barAccessDrop_keep hk (subOf rfl) (entriesOf rfl))
  | timestampRealign => exact keepX_next (timestampRealign_keep hk (subOf rfl))
  | getVersion | getCapabilities | negotiateAlgorithms => exact keepX_next (spdmFree_keep hk (subOf rfl))
  | getDigests | getCertificate => exact keepX_next (reply_keep hk (subOf rfl))
  | challenge => exact keepX_next (spdmFree_keep hk (subOf rfl))
  | getMeasurements => exact keepX_next (getMeasurements_keep hk (subOf rfl))
  | keyExchange => exact keepX_next (keyExchange_keep hk (subOf rfl))
  | finish => exact keepX_next (finish_keep hk (subOf rfl))
  | blobStagingTimeout => exact keepX_next (blobStagingTimeout_keep hk (subOf rfl) (entriesOf rfl))
  | setEndpointId => exact keepX_next (result_keep (keep_server hk (partOf rfl)) (subOf rfl))
  | neighbourDiscovery => exact keepX_next (neighbourDiscovery_keep hk (subOf rfl))
  | icmpv6Echo => exact keepX_next (reply_keep hk (subOf rfl))
  | tdispRequest => exact keepX_next (tdispRequest_keep hk (subOf rfl))
  | ideStreamSetup => exact keepX_next (ideStreamSetup_keep hk (subOf rfl))
  | wickTimeAdvance => exact keepX_next (wickTimeAdvance_keep hk (subOf rfl) (entriesOf rfl))
  | hbmZeroDone => exact keepX_next (hbmZeroDone_keep hk (subOf rfl) (entriesOf rfl))
  | picotWriteLand => exact keepX_unlessSafe hs (picotWriteLand_keep hk (subOf rfl) (entriesOf rfl))
  | epochDrainTimeout => exact keepX_unlessSafe hs (epochDrainTimeout_keep hk (subOf rfl) (entriesOf rfl))
  | allocatorRequest => exact keepX_unlessSafe hs (allocatorRequest_keep hk (subOf rfl) (entriesOf rfl))
  | flossWindowEnd => exact keepX_unlessSafe hs (flossWindowEnd_keep hk (subOf rfl) (entriesOf rfl))
  | mainLost => exact keepX_next (mainLost_keep hk (subOf rfl) rfl)
  | backupStopped => exact keepX_next (backupStopped_keep hk (subOf rfl) (entriesOf rfl))
  | mainQualified => exact keepX_next (mainQualified_keep hk (subOf rfl) rfl)
  | holdUpExhausted => exact keepX_next (holdUpExhausted_keep hk (subOf rfl) rfl)
  | auxOutOfRange => exact keepX_next (auxOutOfRange_keep hk (subOf rfl))
  | drowseWake => exact keepX_next (wakeUp_keep hk (subOf rfl))
  | pwrcycTimeout => exact keepX_next (pwrcycTimeout_keep hk (subOf rfl) (entriesOf rfl))
  | transitionPhaseDone => exact keepX_next (transitionPhaseDone_keep hk (subOf rfl) (entriesOf rfl))
  | debugTokenExpire => exact keepX_next (debugTokenExpire_keep hk (subOf rfl))
  | keyEpochDrained => exact keepX_next (keyEpochDrained_keep hk (subOf rfl) (entriesOf rfl))
  | keyScrubDone => exact keepX_next (keyScrubDone_keep hk (subOf rfl) (entriesOf rfl))
  | bwWindowEnd => exact keepX_next (bwWindowEnd_keep hk (subOf rfl) (entriesOf rfl))
  | dumpPeriod => exact keepX_next (dumpPeriod_keep hk (subOf rfl) (entriesOf rfl))
  | sdpMessageDrop => exact keepX_next (countSdp_keep hk (entriesOf rfl))
  | mainApplied => exact keepX_next (mainApplied_keep hk (subOf rfl))
  | auxInRange => exact keepX_next (auxInRange_keep hk (subOf rfl))
  | auxLost => exact keepX_next (auxLost_keep hk (subOf rfl) rfl)
end Sys2Proof.Machine
end

section
/-! PROOFS. The frame of every command, and the canonical form as an invariant of every step. -/

namespace Sys2Proof.Machine

open Sys2Proof.Safety

variable {s t : State}

/-- A cell of an entry that may not be written reads as it did. -/
theorem cell_of_keep {m : May} {e row w : Nat} (h : Keep m s t) (he : ¬ m.entry e) : cell t e row w = cell s e row w :=
  (h.cells (cellKey e row w)).resolve_left (by rwa [cellKey_entry])

/-- An entry outside a command's list may not be written; only a command with no list may reach every entry. -/
theorem not_may_entry {c : Instr} {es : List Nat} {e : Nat} (hes : Safety.mayWrite c = some es) (he : e ∉ es) : ¬ (may c).entry e := by
  rintro (hany | hmem)
  · simp [may, hes] at hany
  · exact he (by simpa [may, hes] using hmem)

/-- Settles O4: `exec_keep` says of every command that it changes only what its lists name. -/
theorem commandFrame : Obligations.CommandFrame := by
  intro c s t hs hexec
  have h : Keep (may c) s t := exec_keep hs c t hexec
  exact ⟨h.pend, fun p hp => (h.part p).resolve_left hp, fun _ hes _ _ _ he => cell_of_keep h (not_may_entry hes he)⟩

/-- A command leaves the canonical form and the commands that wait. -/
theorem canon_of_exec {c : Instr} (hs : Canon s) (hexec : exec c s = .next t) : Canon t ∧ t.pending = s.pending :=
  have h : Keep (may c) s t := exec_keep hs c t hexec
  ⟨h.canon, h.pend⟩

/-- Settles O3: a step of an empty queue leaves the state as it is; any other runs the queue's first command. -/
theorem stepKeepsCanon : Obligations.StepKeepsCanon := by
  intro s t hs hstep
  unfold step at hstep
  split at hstep
  next hq =>
    cases hstep
    exact ⟨hs, by rw [hq, List.tail_nil]⟩
  next c rest hq =>
    have hs' : Canon { s with pending := rest } := ⟨hs.mem, hs.regs⟩
    obtain ⟨ht, hp⟩ := canon_of_exec hs' hstep
    exact ⟨ht, by rw [hp, hq, List.tail_cons]⟩

end Sys2Proof.Machine
end

section
/-! PROOFS. The state after reset, and the clocks of the package: quarter-store accesses, requests held for a stopped PLL, wick time
and the PLLs (R40 to R53). -/

namespace Sys2Proof.Machine

open Sys2Proof.Safety

variable {s t : State} {q : Nat}

/-- Settles O2: every part of the reset state is a closed term; the first word of 0x500001 has the default 0. -/
theorem resetState : Obligations.ResetState := by
  refine ⟨⟨canonical_nil, canonical_nil⟩, rfl, rfl, rfl, rfl, rfl, rfl, rfl, rfl, rfl, by decide, rfl, ?_⟩
  decide

/-! ### A quarter's clocks -/

theorem unlessSafe_of_false {s t : State} (h : s.snuffer.safe = false) : unlessSafe s t = t := by
  simp [unlessSafe, h]

/-- An event that would leave the state as it is leaves it so in safe state too. -/
@[simp] theorem unlessSafe_self (s : State) : unlessSafe s s = s := by simp [unlessSafe]

theorem needClock_running (h : pll s q = .running) : needClock s q = .ok () s := by
  simp only [needClock, h]

theorem needClock_starting (h : pll s q = .starting) : needClock s q = .wait s := by
  simp only [needClock, h]

/-- The DROWSE of backup operation, which no request ends (R463). -/
theorem needClock_drowse (h : pll s q = .stopped) (hb : backupDrowse s = true) : needClock s q = .wait s := by
  simp only [needClock, h, hb, if_true]

theorem needClock_stopped (h : pll s q = .stopped) (hb : backupDrowse s = false) : needClock s q = .wait
    { s with clk := { s.clk with pll := s.clk.pll.set q .starting, since := s.clk.since.set q s.clk.wick } } := by
  simp only [needClock, h, hb, Bool.false_eq_true, if_false]
  rfl

theorem pll_setPll_same {p : Pll} (h : q < s.clk.pll.length) : pll (setPll s q p) q = p := by
  simp [pll, setPll, h]

/-- A request that finds a quarter's PLL stopped starts it, and is held behind those held before it (R53). -/
theorem holdReq_of_stopped (r : HeldReq) (hq : q < 4) (hl : s.clk.pll.length = 4) (hp : pll s q = .stopped)
    (hb : backupDrowse s = false) :
    ∃ t, needClock s q = .wait t ∧ pll (holdReq t q r) q = .starting ∧ (holdReq t q r).clk.held = s.clk.held ++ [(q, r)] ∧
      (holdReq t q r).answer = s.answer ∧ (holdReq t q r).mem = s.mem ∧ (holdReq t q r).regs = s.regs := by
  refine ⟨_, needClock_stopped hp hb, ?_, rfl, rfl, rfl, rfl⟩
  exact pll_setPll_same (s := s) (p := .starting) (hl ▸ hq)

/-! ### Quarter stores and bobbins -/

theorem quarterStoreRead_ok {off len : Nat} (hq : q < 4) (ho : off + len ≤ 0x4000000) (h : needClock s q = .ok () t) :
    quarterStoreRead s q off len = answerData (readRun t devWho (storeBase q + off) len 0) := by
  rw [quarterStoreRead, if_neg (by omega), h]

theorem quarterStoreRead_wait {off len : Nat} (hq : q < 4) (ho : off + len ≤ 0x4000000) (h : needClock s q = .wait t) :
    quarterStoreRead s q off len = holdReq t q (.storeRead q off len) := by
  rw [quarterStoreRead, if_neg (by omega), h]
  rfl

theorem quarterStoreWrite_ok {off : Nat} {d : List Byte} {poison : Bool} (hq : q < 4) (ho : off + d.length ≤ 0x4000000)
    (h : needClock s q = .ok () t) :
    quarterStoreWrite s q off d poison = reply (writeRun t devWho (storeBase q + off) d poison) [] false 0 := by
  rw [quarterStoreWrite, if_neg (by omega), h]

theorem quarterStoreWrite_wait {off : Nat} {d : List Byte} {poison : Bool} (hq : q < 4) (ho : off + d.length ≤ 0x4000000)
    (h : needClock s q = .wait t) : quarterStoreWrite s q off d poison = holdReq t q (.storeWrite q off d poison) := by
  rw [quarterStoreWrite, if_neg (by omega), h]
  rfl

theorem bobbinRead_wait {b off len : Nat} (hb : b < 12) (ho : off + len ≤ 0xFC0000000) (hs : s.snuffer.safe = false)
    (h : needClock s (bobQuarter b) = .wait t) :
    bobbinRead s b off len = holdReq t (bobQuarter b) (.bobbinRead b off len) := by
  rw [bobbinRead, if_neg (by simp only [hs, Bool.false_eq_true, or_false]; omega), h]
  rfl

theorem bobbinWrite_wait {b off : Nat} {d : List Byte} {poison : Bool} (hb : b < 12) (ho : off + d.length ≤ 0xFC0000000)
    (hs : s.snuffer.safe = false) (hi : imageHolds s (b * 0x1000000000 + off) d.length = false)
    (h : needClock s (bobQuarter b) = .wait t) :
    bobbinWrite s b off d poison = holdReq t (bobQuarter b) (.bobbinWrite b off d poison) := by
  rw [bobbinWrite, if_neg (by simp only [hs, hi, Bool.false_eq_true, or_false]; omega), h]
  rfl

/-- Settles O10: with the clocks running each access is made at once; the end of a merge window is `closeWindow`. -/
theorem quarterStoreAccesses : Obligations.QuarterStoreAccesses := by
  refine ⟨?_, ?_, ?_⟩
  · intro s q off len hq ho hp
    exact congrArg Host.Outcome.next (quarterStoreRead_ok hq ho (needClock_running hp))
  · intro s q off d poison hq ho hp
    exact congrArg Host.Outcome.next (quarterStoreWrite_ok hq ho (needClock_running hp))
  · intro s q line hs
    exact ⟨_, congrArg Host.Outcome.next (unlessSafe_of_false hs), rfl⟩

theorem bobQuarter_lt {b : Nat} (h : b < 12) : bobQuarter b < 4 := by
  unfold bobQuarter
  omega

/-- Settles O13: the first four requests take the same way, `holdReq_of_stopped`; PLL_LOCK is its definition with its guard met. -/
theorem stoppedQuarterHolds : Obligations.StoppedQuarterHolds := by
  refine ⟨?_, ?_, ?_, ?_, ?_, ?_⟩
  · intro s q off len hq hl ho hp hb
    obtain ⟨t, hw, held⟩ := holdReq_of_stopped (.storeRead q off len) hq hl hp hb
    exact ⟨_, congrArg Host.Outcome.next (quarterStoreRead_wait hq ho hw), held⟩
  · intro s q off d poison hq hl ho hp hb
    obtain ⟨t, hw, held⟩ := holdReq_of_stopped (.storeWrite q off d poison) hq hl hp hb
    exact ⟨_, congrArg Host.Outcome.next (quarterStoreWrite_wait hq ho hw), held⟩
  · intro s b off len hb hl ho hs hp hd
    obtain ⟨t, hw, held⟩ := holdReq_of_stopped (.bobbinRead b off len) (bobQuarter_lt hb) hl hp hd
    exact ⟨_, congrArg Host.Outcome.next (bobbinRead_wait hb ho hs hw), held⟩
  · intro s b off d poison hb hl ho hs hi hp hd
    obtain ⟨t, hw, held⟩ := holdReq_of_stopped (.bobbinWrite b off d poison) (bobQuarter_lt hb) hl hp hd
    exact ⟨_, congrArg Host.Outcome.next (bobbinWrite_wait hb ho hs hi hw), held⟩
  · intro s q off len hq ho hp
    have hw : needClock s q = .wait s := by
      obtain hp | ⟨hp, hb⟩ := hp
      · exact needClock_starting hp
      · exact needClock_drowse hp hb
    exact congrArg Host.Outcome.next (quarterStoreRead_wait hq ho hw)
  · intro s q hp hr
    refine ⟨_, rfl, ?_⟩
    have hlock : pll s q = .starting ∧ coreRails s = true := ⟨hp, hr⟩
    show Host.Outcome.next (serveBells (pllLock s q)) = _
    rw [pllLock, if_pos hlock]

/-! ### Wick time -/

theorem foldl_setReg_clk {β : Type} (e : Nat) (k v : β → Nat) (l : List β) (s : State) :
    (l.foldl (fun s p => setReg s e (k p) (v p)) s).clk = s.clk := by
  induction l generalizing s with
  | nil => rfl
  | cons p l ih => rw [List.foldl_cons, ih, setReg_clk]

/-- What a cycle moves besides the clocks, SEL_CONFIG rows that take effect, leaves the clocks alone (R48, R562). -/
theorem wickTick_clk (h : s.power.started = true) :
    (wickTick s).clk = { s.clk with
      wick := s.clk.wick + 25, ts := s.clk.ts.zipIdx.map (fun p => if pll s p.2 = .running then p.1 + 25 else p.1) } := by
  rw [wickTick, if_pos h]
  dsimp only
  split
  · exact foldl_setReg_clk _ _ _ _ _
  · rfl

theorem wickTimeAdvance_clk (h : s.power.started = true) :
    (wickTimeAdvance s).clk = { s.clk with
      wick := s.clk.wick + 25, ts := s.clk.ts.zipIdx.map (fun p => if pll s p.2 = .running then p.1 + 25 else p.1) } := by
  rw [wickTimeAdvance, if_pos h]
  exact wickTick_clk (s := holdTimers s) h

/-- Settles O14: the clocks after a cycle by `wickTimeAdvance_clk`; the other commands are their definitions, guards met or not. -/
theorem clocksAdvance : Obligations.ClocksAdvance := by
  refine ⟨?_, ?_, ?_, ?_⟩
  · intro s hs
    refine ⟨_, rfl, ?_⟩
    rw [wickTimeAdvance_clk hs]
    refine ⟨rfl, by simp, fun q hq => ?_⟩
    by_cases hp : pll s q = .running <;> simp [hq, hp]
  · intro s q hp
    exact congrArg Host.Outcome.next (if_pos hp)
  · intro s q hp hb
    have hstop : pll s q = .running ∧ quarterBusy s q = false := ⟨hp, hb⟩
    exact congrArg Host.Outcome.next (if_pos hstop)
  · intro s q hb
    have hstay : ¬(pll s q = .running ∧ quarterBusy s q = false) := by simp [hb]
    exact congrArg Host.Outcome.next (if_neg hstay)

end Sys2Proof.Machine
end

section
/-! PROOFS. Lanterns that wake and are gated (R55 to R59): what a wake changes, and what a lantern waking from cold gating reads as. -/

namespace Sys2Proof.Machine

open Sys2Proof.Safety

variable {s : State} {l : Nat}

/-! ### Waking and gating -/

/-- A lantern as awake, once a wake of it is done: cleared first when it was cold-gated, and joined to its hoop (R57 to R59). -/
def wokenLantern (s : State) (l : Nat) (fromCold : Bool) : State :=
  joinAwake (modLantern (if fromCold then clearLantern s l else s) l
    (fun x => { x with power := .awake, idleAt := max x.idleAt s.clk.wick })) l

/-- A wake that comes to its end: the lantern is awake, and what waited for it goes on. -/
theorem exec_lanternWakeDone {fromCold : Bool} (hs : s.snuffer.safe = false) (hw : (lantern s l).power = .waking fromCold)
    (hr : coreRails s = true) (hp : pll s (lanQuarter l) = .running) :
    exec (.lanternWakeDone l) s = .next (serveBells (deliverHeld (wokenLantern s l fromCold) (lanQuarter l))) := by
  have hwake : lanternWakeDone s l = deliverHeld (wokenLantern s l fromCold) (lanQuarter l) := by
    rw [lanternWakeDone, hw]
    simp only [hr, needClock_running hp]
    cases fromCold <;> rfl
  exact congrArg Host.Outcome.next ((unlessSafe_of_false hs).trans (congrArg serveBells hwake))

/-- LANTERN_GATE outside safe state. -/
theorem exec_lanternGate (hs : s.snuffer.safe = false) : exec (.lanternGate l) s = .next (lanternGate s l) :=
  congrArg Host.Outcome.next (unlessSafe_of_false hs)

theorem lanternGate_unbound (ha : (lantern s l).power = .awake) (hi : lanternIdle s l = true) (hn : lanternHoop s l = none) :
    lanternGate s l = modLantern (clearLantern s l) l (fun x => { x with power := .cold }) := by
  simp [lanternGate, ha, hi, hn]

theorem lanternGate_bound {h : Nat} (ha : (lantern s l).power = .awake) (hi : lanternIdle s l = true) (hn : lanternHoop s l = some h)
    (hg : (lantern s l).idleAt + regN s 0x201005 0 ≤ s.clk.wick) :
    lanternGate s l = modLantern s l (fun x => { x with power := .retained }) := by
  simp [lanternGate, ha, hi, hn, wick, hg]

theorem lanternGate_busy (hi : lanternIdle s l = false) : lanternGate s l = s := by
  simp [lanternGate, hi]

/-- Settles O15: the end of a wake by `exec_lanternWakeDone`, a gating by its three cases. -/
theorem lanternWakesAndGates : Obligations.LanternWakesAndGates := by
  refine ⟨?_, ?_, ?_, ?_⟩
  · intro s l fromCold hs hw hr hp
    exact exec_lanternWakeDone hs hw hr hp
  · intro s l hs ha hi hn
    rw [exec_lanternGate hs, lanternGate_unbound ha hi hn]
  · intro s l h hs ha hi hn hg
    rw [exec_lanternGate hs, lanternGate_bound ha hi hn hg]
    rfl
  · intro s l hi
    exact congrArg Host.Outcome.next ((congrArg (unlessSafe s) (lanternGate_busy hi)).trans (unlessSafe_self s))

/-! ### What joins a hoop, and what waits for a lantern -/

/-- A lantern that joins its hoop changes hoop records and dictionary cells only (R59, R325). -/
theorem joinAwake_frame (s : State) (l : Nat) : (joinAwake s l).mem = s.mem ∧ (joinAwake s l).lan = s.lan ∧
    (joinAwake s l).clk = s.clk ∧ (joinAwake s l).fab = s.fab := by
  unfold joinAwake
  split
  · exact ⟨rfl, rfl, rfl, rfl⟩
  · dsimp only
    split <;> simp [rebindDone]

theorem deliverHeld_of_none {q : Nat} (h : ∀ p ∈ s.clk.held, p.1 ≠ q) : deliverHeld s q = s := by
  have hmine : s.clk.held.filter (fun p => decide (p.1 = q)) = [] :=
    List.filter_eq_nil_iff.2 fun p hp => by simpa using h p hp
  have hrest : s.clk.held.filter (fun p => decide (p.1 ≠ q)) = s.clk.held :=
    List.filter_eq_self.2 fun p hp => by simpa using h p hp
  rw [deliverHeld, hmine, hrest]
  rfl

theorem serveBells_of_nil (h : s.fab.bells = []) : serveBells s = s := by
  rw [serveBells, h, List.foldl_nil, ← h]

/-! ### A cleared scratchpad -/

theorem scratchBase_lt (hl : l < 1024) : 0xC800000000 ≤ scratchBase l ∧ scratchBase l + 0x200000 ≤ 0xC880000000 := by
  unfold scratchBase
  omega

theorem memDefault_scratch {x : Nat} (h : 0xC000000000 ≤ x) : memDefault x = 0 := by
  unfold memDefault
  exact if_neg fun hc => absurd hc.1 (by omega)

theorem tget_eq_none_of_filter {α : Type} {t : Table α} {k : Nat} {f : Nat × α → Bool} (hf : ∀ v, f (k, v) = false) :
    tget (t.filter f) k = none := by
  induction t with
  | nil => rfl
  | cons p t ih =>
    obtain ⟨j, v⟩ := p
    by_cases hj : k = j
    · subst hj
      rwa [List.filter_cons_of_neg (by simp [hf])]
    · rw [List.filter_cons]
      split
      · rwa [tget, if_neg hj]
      · exact ih

/-- After a scratchpad is cleared its window reads as zero, and every other byte as before (R57). -/
theorem rb_clearScratch (hl : l < 1024) (x : Nat) :
    rb (clearScratch s l) x = if scratchBase l ≤ x ∧ x < scratchBase l + 0x200000 then 0 else rb s x := by
  have hbase := (scratchBase_lt hl).1
  split
  next hx =>
    have hgone : cget memDefault (clearScratch s l).mem.cells x = memDefault x := by
      unfold cget
      rw [clearScratch, tget_eq_none_of_filter (fun v => by simp; omega)]
      rfl
    exact hgone.trans (memDefault_scratch (by omega))
  next hx => exact cget_filter _ _ fun v => by simp; omega

/-- No word of a cleared scratchpad is poisoned (R57, R108). -/
theorem scratchPoison_clearScratch {w : Nat} (hw : w ∈ (clearScratch s l).mem.scratchPoison) :
    w < scratchBase l ∨ scratchBase l + 0x200000 ≤ w := by
  simpa using (List.mem_filter.1 hw).2

/-- A lantern woken from cold gating is awake with an empty cache, and memory is as `clearScratch` leaves it (R57). -/
theorem wokenLantern_cold (s : State) (l : Nat) : (wokenLantern s l true).mem = (clearScratch s l).mem ∧
    (wokenLantern s l true).clk = s.clk ∧ (wokenLantern s l true).fab = s.fab ∧
    (lantern (wokenLantern s l true) l).power = .awake ∧ (lantern (wokenLantern s l true) l).cache = [] := by
  obtain ⟨hmem, hlan, hclk, hfab⟩ := joinAwake_frame (modLantern (clearLantern s l) l
    (fun x => { x with power := .awake, idleAt := max x.idleAt s.clk.wick })) l
  have hwoken := congrArg (fun t => (tget t l).getD (Lantern.reset l)) hlan
  refine ⟨hmem, hclk, hfab, (congrArg Lantern.power hwoken).trans ?_, (congrArg Lantern.cache hwoken).trans ?_⟩
  · simp [tget_tput_same]
  · simp [tget_tput_same, clearLantern]

/-- Settles O16: with nothing held and no doorbell the wake ends in `wokenLantern`, whose memory is that of `clearScratch`. -/
theorem coldWakeClears : Obligations.ColdWakeClears := by
  intro s l hl hs hw hr hp hheld hbells
  obtain ⟨hmem, hclk, hfab, hpower, hcache⟩ := wokenLantern_cold s l
  have hdeliver : deliverHeld (wokenLantern s l true) (lanQuarter l) = wokenLantern s l true :=
    deliverHeld_of_none (by rwa [hclk])
  have hserve : serveBells (wokenLantern s l true) = wokenLantern s l true := serveBells_of_nil (by rw [hfab, hbells])
  refine ⟨wokenLantern s l true, by rw [exec_lanternWakeDone hs hw hr hp, hdeliver, hserve], hpower, hcache, ?_, ?_⟩
  · intro w hpois
    exact scratchPoison_clearScratch (s := s) (hmem ▸ hpois)
  · intro x
    rw [rb, hmem]
    exact rb_clearScratch hl x

end Sys2Proof.Machine
end

section
/-! PROOFS. Accesses through the windows of the host: BAR4 and the scratchpad windows (R58, R108, R284, R364, R367). -/

namespace Sys2Proof.Machine

open Sys2Proof.Safety

variable {s t : State} {who : Req} {l off n len : Nat} {d : List Byte}

/-! ### BAR4 -/

theorem wakeUp_of_awake (h : s.power.sleep ≠ 2) : wakeUp s = s := by simp [wakeUp, h]

/-- An access is refused exactly where it lies beyond the BAR or `bar4Ok` refuses it. -/
theorem bar4_refuses_iff : (bar4Size who < off + n || !bar4Ok s who (bar4Base s who + off) n) = true ↔
    bar4Size who < off + n ∨ bar4Ok s who (bar4Base s who + off) n = false := by simp

theorem bar4_allows (hin : off + n ≤ bar4Size who) (hok : bar4Ok s who (bar4Base s who + off) n = true) :
    ¬(bar4Size who < off + n || !bar4Ok s who (bar4Base s who + off) n) = true := by
  rw [bar4_refuses_iff, hok]
  exact fun h => h.elim (Nat.not_lt.2 hin) Bool.noConfusion

theorem bar4Read_refused (hz : s.power.sleep ≠ 2)
    (hno : bar4Size who < off + len ∨ bar4Ok s who (bar4Base s who + off) len = false) :
    bar4Read s who off len = refuse s .rights := by
  rw [bar4Read, wakeUp_of_awake hz]
  exact if_pos (bar4_refuses_iff.2 hno)

theorem bar4Write_refused (hz : s.power.sleep ≠ 2)
    (hno : bar4Size who < off + d.length ∨ bar4Ok s who (bar4Base s who + off) d.length = false) :
    bar4Write s who off d = bump s 0x900014 0 := by
  rw [bar4Write, wakeUp_of_awake hz]
  exact if_pos (bar4_refuses_iff.2 hno)

/-- A read that may be made and is behind no earlier write of the function: the bytes, or free values where an image of a swapped
context is met (log 58). -/
theorem bar4Read_ready (hz : s.power.sleep ≠ 2) (hin : off + len ≤ bar4Size who) (hok : bar4Ok s who (bar4Base s who + off) len = true)
    (hready : localReady s (bar4Who s who) (bar4Base s who + off) len false false = .ok () t)
    (hheld : writeHeldAt t who (addrQuarter (bar4Base s who + off)) = false) {r : Data × State}
    (hr : r = readRun (hostCross t who 0 (bar4Who t who).flow len) (bar4Who t who) (bar4Base s who + off) len 0) :
    bar4Read s who off len = if imageMeets t (bar4Base s who + off) len then
      answerData ({ r.1 with bytes := (freeBytes len r.2).1 }, (freeBytes len r.2).2) else answerData r := by
  subst hr
  rw [bar4Read, wakeUp_of_awake hz]
  dsimp only
  rw [if_neg (bar4_allows hin hok), hready]
  dsimp only
  rw [if_neg (by simp [hheld])]

theorem bar4Write_ready (hz : s.power.sleep ≠ 2) (hin : off + d.length ≤ bar4Size who)
    (hok : bar4Ok s who (bar4Base s who + off) d.length = true)
    (hready : localReady s (bar4Who s who) (bar4Base s who + off) d.length true false = .ok () t) :
    bar4Write s who off d =
      writeRun (hostCross t who 1 (bar4Who t who).flow d.length) (bar4Who t who) (bar4Base s who + off) d false := by
  rw [bar4Write, wakeUp_of_awake hz, if_neg (bar4_allows hin hok), hready]

/-! ### Scratchpad windows -/

theorem scratchSize_le (k : Nat) : scratchSize k ≤ 0x200000 := by
  unfold scratchSize
  split <;> decide

theorem lt_of_lanOk (h : lanOk l = true) : l < 1024 := by
  simp only [lanOk, Bool.and_eq_true, decide_eq_true_eq] at h
  exact h.1

theorem region_scratch (hl : l < 1024) (ho : off < 0x200000) : region s (scratchBase l + off) = some .scratch := by
  have hbase := scratchBase_lt hl
  unfold region
  iterate 5 rw [if_neg (by omega)]
  rw [if_pos (by omega)]

/-- The lantern and the offset that an address in a window names (R282). -/
theorem scratch_index (ho : off < 0x200000) : (scratchBase l + off - 0xC800000000) / 0x200000 = l ∧
    (scratchBase l + off - 0xC800000000) % 0x200000 = off := by
  unfold scratchBase
  omega

theorem windowOk_scratch {h : Option Nat} (ho : off < 0x200000) : windowOk s h (scratchBase l + off) n =
    (lanOk l && decide (off + n ≤ scratchSize (lanKind l)) && (lanternHoop s l).isSome && (h.isNone || lanternHoop s l == h)) := by
  obtain ⟨hlan, hoff⟩ := scratch_index (l := l) ho
  rw [windowOk, hlan, hoff]

/-- An access from inside the device to a window that R284 allows, of a lantern awake and in no reset, with clocks: it is open. -/
theorem localOpen_window {w : Who} {write : Bool} (hw : fromHost w = false) (hl : l < 1024) (ho : off < 0x200000)
    (hok : windowOk s w.hoop (scratchBase l + off) n = true) (hreset : lanternResetting s l = false)
    (hp : pll s (lanQuarter l) = .running) (ha : (lantern s l).power = .awake) :
    localOpen s w (scratchBase l + off) n write false = .ok () s := by
  simp only [localOpen, hw, region_scratch hl ho, (scratch_index ho).1, hok, hreset, needClock_running hp, Out.andThen, wakeLantern, ha,
    Bool.not_true, Bool.and_false, Bool.false_and, Bool.false_eq_true, if_false]

theorem localOpen_window_refused {w : Who} {write own : Bool} (hw : fromHost w = false) (hl : l < 1024) (ho : off < 0x200000)
    (hno : windowOk s w.hoop (scratchBase l + off) n = false) :
    localOpen s w (scratchBase l + off) n write own = .fail .rights s := by
  simp only [localOpen, hw, region_scratch hl ho, hno, Bool.false_and, Bool.false_eq_true, Bool.not_false, if_false, if_true]

/-- A manager's access of a window stands for no hoop. -/
theorem windowWho_manager (h : isManager who = true) : windowWho s who = devWho ∧ windowForeign s who = false := by
  cases who with
  | vf v => simp [isManager] at h
  | pf p => exact ⟨rfl, rfl⟩
  | mgmt => exact ⟨rfl, rfl⟩

theorem scratchpadWindowAccess_beyond {write : Option (List Byte)} (h : 0x200000 < off + (write.map List.length).getD len) :
    scratchpadWindowAccess s who l off write len = refuse s .rights :=
  if_pos (.inr (.inl h))

/-- A lantern of no hoop is off: its window is refused to every requester (log 131). -/
theorem scratchpadWindowAccess_unbound {write : Option (List Byte)} (hn : lanternHoop s l = none) (ho : off < 0x200000) :
    scratchpadWindowAccess s who l off write len = refuse s .rights := by
  by_cases hin : 1024 ≤ l ∨ 0x200000 < off + (write.map List.length).getD len ∨ windowForeign s who = true
  case pos => exact if_pos hin
  case neg =>
    have hl : l < 1024 := by omega
    have hno : windowOk s (windowWho s who).hoop (scratchBase l + off) ((write.map List.length).getD len) = false := by
      simp [windowOk_scratch ho, hn]
    refine (if_neg hin).trans ?_
    rw [localReady, localOpen_window_refused rfl hl ho hno]
    rfl

/-- A manager's access within the backed bytes of a bound, awake lantern's window is made at once, counted at the host port (R437). -/
theorem scratchpadWindowAccess_manager {write : Option (List Byte)} (hm : isManager who = true) (hlan : lanOk l = true)
    (ho : off < scratchSize (lanKind l)) (hn : (write.map List.length).getD len = n) (hin : off + n ≤ scratchSize (lanKind l))
    (hbound : (lanternHoop s l).isSome = true) (hreset : lanternResetting s l = false) (hp : pll s (lanQuarter l) = .running)
    (ha : (lantern s l).power = .awake) (hheld : rowHeld s .fe (.loc (scratchBase l + off)) n = false) :
    scratchpadWindowAccess s who l off write len =
      windowGo (hostCross s who (if write.isSome then 1 else 0) none n) devWho (scratchBase l + off) n write := by
  have hl := lt_of_lanOk hlan
  have hsize := scratchSize_le (lanKind l)
  have ho' : off < 0x200000 := by omega
  obtain ⟨hdev, hforeign⟩ := windowWho_manager (s := s) hm
  have hok : windowOk s devWho.hoop (scratchBase l + off) n = true := by
    simp [windowOk_scratch ho', hlan, hin, hbound, devWho]
  have hready : localReady s devWho (scratchBase l + off) n write.isSome false = .ok () s := by
    rw [localReady, localOpen_window rfl hl ho' hok hreset hp ha]
    show (if rowHeld s .fe (.loc (scratchBase l + off)) n = true then Out.wait s else .ok () s) = _
    rw [hheld]
    rfl
  subst hn
  have hno : ¬(1024 ≤ l ∨ 0x200000 < off + (write.map List.length).getD len ∨ windowForeign s who = true) := by
    simp only [hforeign, Bool.false_eq_true, or_false]
    omega
  refine (if_neg hno).trans ?_
  rw [hdev, hready]
  show windowGo (hostCross s who _ (windowWho s who).flow _) (windowWho (hostCross s who _ (windowWho s who).flow _) who) _ _ _ = _
  rw [hdev, windowWho_manager hm |>.1]
  rfl

theorem readRun_scratch {w : Who} {access : Nat} (hl : l < 1024) :
    readRun s w (scratchBase l + off) n access =
      ({ bytes := rbs s (scratchBase l + off) n, poison := scratchPoisoned s (scratchBase l + off) n }, s) := by
  have hbase := (scratchBase_lt hl).1
  unfold readRun
  iterate 3 rw [if_neg (by omega)]

theorem writeRun_scratch {w : Who} {poison : Bool} (hl : l < 1024) :
    writeRun s w (scratchBase l + off) d poison = writeScratch s (scratchBase l + off) d poison := by
  have hbase := (scratchBase_lt hl).1
  unfold writeRun
  iterate 3 rw [if_neg (by omega)]

/-- What crosses a host port is counted; memory is as before (R437). -/
theorem hostCross_mem {dir : Nat} {flow : Option Nat} : (hostCross s who dir flow n).mem = s.mem := by
  cases who <;> rfl

/-- Settles O19: BAR4 by `bar4Read_ready` and `bar4Write_ready` or a refusal, the windows by `scratchpadWindowAccess_manager`. -/
theorem windowAccesses : Obligations.WindowAccesses := by
  refine ⟨?_, ?_, ?_, ?_, ?_, ?_, ?_, ?_⟩
  · intro s t who off len hz hin hok hready hheld
    have hread := bar4Read_ready hz hin hok hready hheld rfl
    exact ⟨_, rfl, fun hi => congrArg Host.Outcome.next (hread.trans (by rw [hi]; rfl)),
      fun hi => congrArg Host.Outcome.next (hread.trans (by rw [hi]; rfl))⟩
  · intro s who off len hz hno
    exact congrArg Host.Outcome.next (bar4Read_refused hz hno)
  · intro s t who off d hz hin hok hready
    exact congrArg Host.Outcome.next (bar4Write_ready hz hin hok hready)
  · intro s who off d hz hno
    exact congrArg Host.Outcome.next (bar4Write_refused hz hno)
  · intro s who l off d hm hlan ho hin hbound hreset hp ha hheld
    refine congrArg Host.Outcome.next ((scratchpadWindowAccess_manager (n := d.length) hm hlan ho rfl hin hbound hreset hp ha hheld).trans ?_)
    show reply (writeRun _ _ _ _ _) [] false 0 = _
    rw [writeRun_scratch (lt_of_lanOk hlan)]
    rfl
  · intro s who l off n hm hlan ho hin hbound hreset hp ha hheld
    refine congrArg Host.Outcome.next ((scratchpadWindowAccess_manager (n := n) hm hlan ho rfl hin hbound hreset hp ha hheld).trans ?_)
    show answerData (readRun _ _ _ _ _) = _
    rw [readRun_scratch (lt_of_lanOk hlan)]
    simp only [answerData, reply, rbs, rb, scratchPoisoned, hostCross_mem]
    rfl
  · intro s who l off n hn ho
    exact congrArg Host.Outcome.next (scratchpadWindowAccess_unbound hn ho)
  · intro s who l off n h
    exact congrArg Host.Outcome.next (scratchpadWindowAccess_beyond h)

end Sys2Proof.Machine
end

section
/-! PROOFS. SLOT_OPEN and SLOT_CLOSE (R195 to R200, R228, R229). -/

namespace Sys2Proof.Machine

open Sys2Proof.Safety

variable {s t : State} {q e : Nat} {f : Flight}

/-- An admitted entry of an op passes the op's first check. -/
theorem admittedOp_guard {op : Nat} (ha : f.phase = .admitted) (hop : fld (wordAt f.words 0) 63 56 = op) :
    ¬(f.phase ≠ .admitted ∨ fld (wordAt f.words 0) 63 56 ≠ op) :=
  not_or.2 ⟨not_not.2 ha, not_not.2 hop⟩

/-! ### SLOT_OPEN -/

/-- SLOT_OPEN answers RIGHTS: slot `n` is not FREE or not of the queue's hoop, or the context may not use a fence of the descriptor (R199). -/
def slotRefuses (s : State) (q n : Nat) (d : List Word) : Bool :=
  (slot s n).state ≠ 0 || !descSlot (hoop s (queueHoop s q)).desc n
    || !([csCountFence d, csReqFence d, csDoneFence d].all (fun g => fenceMay s g (queueCtx s q)))

theorem slotRefuses_iff {n : Nat} {d : List Word} : slotRefuses s q n d = true ↔ (slot s n).state ≠ 0 ∨
    descSlot (hoop s (queueHoop s q)).desc n = false ∨
    ∃ g ∈ [csCountFence d, csReqFence d, csDoneFence d], fenceMay s g (queueCtx s q) = false := by
  simp only [slotRefuses, Bool.or_eq_true, decide_eq_true_eq, Bool.not_eq_true', List.all_eq_false, Bool.not_eq_true, or_assoc]

theorem slotRefuses_eq_false {n : Nat} {d : List Word} (hfree : (slot s n).state = 0)
    (hslot : descSlot (hoop s (queueHoop s q)).desc n = true)
    (hfences : ∀ g ∈ [csCountFence d, csReqFence d, csDoneFence d], fenceMay s g (queueCtx s q) = true) :
    slotRefuses s q n d = false := by
  rw [slotRefuses, hfree, hslot, List.all_eq_true.2 hfences]
  rfl

section opening
variable (hf : flight s q e = some f) (ha : f.phase = .admitted) (hop : fld (wordAt f.words 0) 63 56 = 5)
include hf ha hop

theorem slotOpen_malformed (hd : slotDescOk f.desc = false) : slotOpen s q e = finishFlight s q e .format := by
  simp [slotOpen, hf, ha, hop, hd]

theorem slotOpen_refused (hd : slotDescOk f.desc = true) (hno : slotRefuses s q (fld (wordAt f.words 0) 7 0) f.desc = true) :
    slotOpen s q e = finishFlight s q e .rights := by
  simp only [slotOpen, hf, hd]
  exact (if_neg (admittedOp_guard ha hop)).trans ((if_neg Bool.noConfusion).trans (if_pos hno))

/-- The clocks of the slot's quarter do not run yet (R53). -/
theorem slotOpen_waits (hd : slotDescOk f.desc = true) (hgo : slotRefuses s q (fld (wordAt f.words 0) 7 0) f.desc = false)
    (hw : needClock s (fld (wordAt f.words 0) 7 0 / 64) = .wait t) : slotOpen s q e = t := by
  simp only [slotOpen, hf, hd, hw]
  exact (if_neg (admittedOp_guard ha hop)).trans ((if_neg Bool.noConfusion).trans (if_neg (Bool.eq_false_iff.1 hgo)))

theorem slotOpen_opens (hd : slotDescOk f.desc = true) (hgo : slotRefuses s q (fld (wordAt f.words 0) 7 0) f.desc = false)
    (hp : pll s (fld (wordAt f.words 0) 7 0 / 64) = .running) {n : Nat} (hn : n = fld (wordAt f.words 0) 7 0) {u : State}
    (hu : u = dropMail s n) :
    slotOpen s q e =
      finishFlight (armSlot (pumpOut 2 { u with slots := tput u.slots n (openedSlot u q f.desc) } n) n) q e .ok := by
  subst hn hu
  simp only [slotOpen, hf, hd, needClock_running hp]
  exact (if_neg (admittedOp_guard ha hop)).trans ((if_neg Bool.noConfusion).trans (if_neg (Bool.eq_false_iff.1 hgo)))

end opening

/-! ### SLOT_CLOSE -/

section closing
variable (hf : flight s q e = some f) (ha : f.phase = .admitted) (hop : fld (wordAt f.words 0) 63 56 = 6)
include hf ha hop

theorem slotClose_refused (hno : (slot s (fld (wordAt f.words 0) 7 0)).state = 0 ∨
    (slot s (fld (wordAt f.words 0) 7 0)).ctx ≠ queueCtx s q) : slotClose s q e = finishFlight s q e .rights := by
  simp only [slotClose, hf, ha, hop]
  simp [hno]

variable {n : Nat} (hn : n = fld (wordAt f.words 0) 7 0) (hs : (slot s n).state ≠ 0) (hc : (slot s n).ctx = queueCtx s q)
include hn hs hc

theorem slotClose_waits (hw : needClock s (n / 64) = .wait t) : slotClose s q e = t := by
  subst hn
  simp [slotClose, hf, ha, hop, hs, hc, hw]

/-- Something is left to write or unacknowledged: the slot closes and the entry stays (R228). -/
theorem slotClose_closes (hp : pll s (n / 64) = .running) (hq : slotQuiet (closeSlot s n) n = false) :
    slotClose s q e = closeSlot s n := by
  subst hn
  simp [slotClose, hf, ha, hop, hs, hc, needClock_running hp, hq]

/-- Nothing is left: the slot is FREE, and the completion carries the reason when it had FAILED (R229). -/
theorem slotClose_frees (hp : pll s (n / 64) = .running) (hq : slotQuiet (closeSlot s n) n = true) :
    slotClose s q e = finishFlight (freeSlot (closeSlot s n) n) q e (slot s n).reason := by
  subst hn
  simp [slotClose, hf, ha, hop, hs, hc, needClock_running hp, hq]
  exact congrArg (finishFlight _ q e) (ite_eq_right_iff.2 Eq.symm)

end closing

/-- Settles O34: each clause is one case of `slotOpen` or `slotClose`. -/
theorem slotsOpenAndClose : Obligations.SlotsOpenAndClose := by
  refine ⟨?_, ?_, ?_, ?_, ?_, ?_, ?_⟩
  · intro s q e f hf ha hop hd
    exact congrArg Host.Outcome.next (slotOpen_malformed hf ha hop hd)
  · intro s q e f hf ha hop hd hno
    exact congrArg Host.Outcome.next (slotOpen_refused hf ha hop hd (slotRefuses_iff.2 hno))
  · intro s q e n f hf ha hop hn hd hfree hslot hfences
    have hgo : slotRefuses s q (fld (wordAt f.words 0) 7 0) f.desc = false := hn ▸ slotRefuses_eq_false hfree hslot hfences
    refine ⟨fun t hw => ?_, fun hp => ⟨_, rfl, ?_⟩⟩
    · exact congrArg Host.Outcome.next (slotOpen_waits hf ha hop hd hgo (hn ▸ hw))
    · exact congrArg Host.Outcome.next (slotOpen_opens hf ha hop hd hgo (hn ▸ hp) hn rfl)
  · intro s q e f hf ha hop hno
    exact congrArg Host.Outcome.next (slotClose_refused hf ha hop hno)
  · intro s q e n f hf ha hop hn hs hc hp hq
    exact congrArg Host.Outcome.next (slotClose_frees hf ha hop hn hs hc hp hq)
  · intro s q e n f hf ha hop hn hs hc hp hq
    exact congrArg Host.Outcome.next (slotClose_closes hf ha hop hn hs hc hp hq)
  · intro s t q e n f hf ha hop hn hs hc hw
    exact congrArg Host.Outcome.next (slotClose_waits hf ha hop hn hs hc hw)

end Sys2Proof.Machine
end

section
/-! PROOFS. WALK_COMPLETE (R291 to R306). -/

namespace Sys2Proof.Machine

open Sys2Proof.Safety

variable {s t : State} {n : Nat} {x : XReq}

/-! ### The return of one walk -/

section returning
variable (hx : s.rng.xreqs[n]? = some x)
include hx

/-- An invalidation passed during the walk: it is made again (R300). -/
theorem walkReturns_stale (hp : x.phase = .walking true) : walkReturns s n =
    { s with rng := { s.rng with xreqs := s.rng.xreqs.set n { x with phase := .walking false } } } := by
  simp only [walkReturns, hx, hp]

variable (hp : x.phase = .walking false)
include hp

theorem walkReturns_entry {l : LookEntry} (hw : walk s x = (.entry l, t)) :
    walkReturns s n = fillLook { t with rng := { t.rng with xreqs := t.rng.xreqs.eraseIdx n } } l := by
  simp only [walkReturns, hx, hp, hw]

theorem walkReturns_fail {st : Status} (hw : walk s x = (.fail st, t)) : walkReturns s n =
    { t with rng := { t.rng with xreqs := t.rng.xreqs.eraseIdx n ++ [{ x with phase := .failed st }] } } := by
  simp only [walkReturns, hx, hp, hw]

theorem walkReturns_fault {type row : Nat} (hw : walk s x = (.fault type row, t)) :
    walkReturns s n = parkAccess t x type row := by
  simp only [walkReturns, hx, hp, hw]

theorem walkReturns_wait (hw : walk s x = (.wait, t)) : walkReturns s n = t := by
  simp only [walkReturns, hx, hp, hw]

end returning

/-! ### The walk that WALK_COMPLETE names -/

/-- Where `n` is in its turn, its walk is the one that returns (R305). -/
theorem walkComplete_of_walkAt (h : walkAt s n x) : walkComplete s n = startWalks (walkReturns s n) := by
  simp only [walkComplete, h.here]
  by_cases hr : x.repeated = true
  · simp only [hr, if_true, h.first hr, Option.getD_some]
  · simp only [hr, Bool.false_eq_true, if_false]

theorem walkComplete_of_none (h : s.rng.xreqs[n]? = none) : walkComplete s n = startWalks s := by
  simp only [walkComplete, h, walkReturns]

theorem exec_walkComplete (hs : s.snuffer.safe = false) : exec (.walkComplete n) s = .next (walkComplete s n) :=
  congrArg Host.Outcome.next (unlessSafe_of_false hs)

/-- Settles O43: one case of `walkReturns` for each outcome of the walk. -/
theorem walksEnd : Obligations.WalksEnd := by
  refine ⟨?_, ?_, ?_, ?_, ?_, ?_⟩
  · intro s n x hs h hp
    rw [exec_walkComplete hs, walkComplete_of_walkAt h, walkReturns_stale h.here hp]
  · intro s t n x e hs h hp hw
    rw [exec_walkComplete hs, walkComplete_of_walkAt h, walkReturns_entry h.here hp hw]
  · intro s t n x st hs h hp hw
    rw [exec_walkComplete hs, walkComplete_of_walkAt h, walkReturns_fail h.here hp hw]
  · intro s t n type row x hs h hp hw
    rw [exec_walkComplete hs, walkComplete_of_walkAt h, walkReturns_fault h.here hp hw]
  · intro s t n x hs h hp hw
    rw [exec_walkComplete hs, walkComplete_of_walkAt h, walkReturns_wait h.here hp hw]
  · intro s n hs hn
    rw [exec_walkComplete hs, walkComplete_of_none hn]

end Sys2Proof.Machine
end

section
/-! PROOFS. The long accumulator: combining (R94), special addends (R90), and sums in any order (R88, R97). -/

namespace Sys2Proof.Machine

variable {l k j : LongAcc} {x : Num} {xs ys : List Num}

/-- The value A + W × 2^640 that an accumulator stands for (R88). -/
def accTotal (l : LongAcc) : Int := l.a + l.w * 2 ^ 640

/-- A lies in the 640-bit range (R88). -/
def AccInRange (l : LongAcc) : Prop := -(2 ^ 639) ≤ l.a ∧ l.a < 2 ^ 639

/-- An addend that is finite is, scaled by 2^320, smaller in magnitude than 2^639. -/
def AccFits (x : Num) : Prop := ∀ (neg : Bool) (n d : Nat), x = .fin neg n d → n * 2 ^ 320 / d < 2 ^ 639

theorem two_pow_640 : (2 : Int) ^ 640 = 2 * 2 ^ 639 := pow_succ' 2 639

theorem accZero_inRange : AccInRange accZero := by
  have h : (0 : Int) < 2 ^ 639 := by positivity
  exact ⟨by simp only [accZero]; omega, h⟩

/-! ### Wrapping -/

theorem accWrap_of_inRange {s : Int} (w : Int) (hlo : -(2 ^ 639) ≤ s) (hhi : s < 2 ^ 639) : accWrap s w = (s, w) := by
  rw [accWrap, if_neg (not_le.2 hhi), if_neg (not_lt.2 hlo)]

/-- A wrap moves 2^640 from A to W: the value stands. -/
theorem accWrap_total (s w : Int) : (accWrap s w).1 + (accWrap s w).2 * 2 ^ 640 = s + w * 2 ^ 640 := by
  unfold accWrap
  generalize (2 : Int) ^ 640 = m
  split_ifs <;> ring

/-- One wrap brings a sum of two numbers of the range back into it. -/
theorem accWrap_inRange {s : Int} (w : Int) (hlo : -(2 ^ 640) ≤ s) (hhi : s < 2 ^ 640) :
    -(2 ^ 639) ≤ (accWrap s w).1 ∧ (accWrap s w).1 < 2 ^ 639 := by
  unfold accWrap
  rw [two_pow_640] at *
  generalize (2 : Int) ^ 639 = h at *
  split_ifs <;> constructor <;> dsimp only <;> omega

/-- In range, A and W are determined by the value: A is its balanced remainder modulo 2^640. -/
theorem eq_of_accTotal_eq (hl : AccInRange l) (hk : AccInRange k) (h : accTotal l = accTotal k) : l.a = k.a ∧ l.w = k.w := by
  obtain ⟨hl₁, hl₂⟩ := hl
  obtain ⟨hk₁, hk₂⟩ := hk
  unfold accTotal at h
  rw [two_pow_640] at h
  have hpos : (0 : Int) < 2 ^ 639 := by positivity
  generalize (2 : Int) ^ 639 = p at *
  have hw : l.w = k.w := by
    refine le_antisymm (not_lt.1 fun hlt => ?_) (not_lt.1 fun hlt => ?_) <;> nlinarith
  rw [hw] at h
  exact ⟨add_right_cancel h, hw⟩

/-- Accumulators in range of one value and the same flags are equal. -/
theorem acc_ext (hl : AccInRange l) (hk : AccInRange k) (h : accTotal l = accTotal k) (hn : l.nanSeen = k.nanSeen)
    (hp : l.posInf = k.posInf) (hi : l.negInf = k.negInf) : l = k := by
  obtain ⟨ha, hw⟩ := eq_of_accTotal_eq hl hk h
  cases l
  cases k
  simp only [LongAcc.mk.injEq]
  exact ⟨ha, hw, hn, hp, hi⟩

/-! ### Combining -/

@[simp] theorem accCombine_nanSeen : (accCombine l k).nanSeen = (l.nanSeen || k.nanSeen) := rfl
@[simp] theorem accCombine_posInf : (accCombine l k).posInf = (l.posInf || k.posInf) := rfl
@[simp] theorem accCombine_negInf : (accCombine l k).negInf = (l.negInf || k.negInf) := rfl

@[simp] theorem accCombine_total : accTotal (accCombine l k) = accTotal l + accTotal k := by
  refine (accWrap_total (l.a + k.a) (l.w + k.w)).trans ?_
  unfold accTotal
  generalize (2 : Int) ^ 640 = m
  ring

theorem accCombine_inRange (hl : AccInRange l) (hk : AccInRange k) : AccInRange (accCombine l k) := by
  obtain ⟨hl₁, hl₂⟩ := hl
  obtain ⟨hk₁, hk₂⟩ := hk
  apply accWrap_inRange <;> rw [two_pow_640] <;> generalize (2 : Int) ^ 639 = h at * <;> omega

theorem accCombine_comm (l k : LongAcc) : accCombine l k = accCombine k l := by
  simp only [accCombine, add_comm l.a, add_comm l.w, Bool.or_comm l.nanSeen, Bool.or_comm l.posInf, Bool.or_comm l.negInf]

theorem accCombine_assoc (hl : AccInRange l) (hk : AccInRange k) (hj : AccInRange j) :
    accCombine (accCombine l k) j = accCombine l (accCombine k j) := by
  refine acc_ext (accCombine_inRange (accCombine_inRange hl hk) hj) (accCombine_inRange hl (accCombine_inRange hk hj)) ?_ ?_ ?_ ?_
  · simp only [accCombine_total, add_assoc]
  · simp only [accCombine_nanSeen, Bool.or_assoc]
  · simp only [accCombine_posInf, Bool.or_assoc]
  · simp only [accCombine_negInf, Bool.or_assoc]

/-- Settles O5: a combination is determined by its value and its flags, which add up and are ORed. -/
theorem accumulatorsCombine : Obligations.AccumulatorsCombine := by
  intro l k j hl₁ hl₂ hk₁ hk₂ hj₁ hj₂
  obtain ⟨hlo, hhi⟩ : AccInRange (accCombine l k) := accCombine_inRange ⟨hl₁, hl₂⟩ ⟨hk₁, hk₂⟩
  exact ⟨accCombine_total, rfl, rfl, rfl, hlo, hhi, accCombine_comm l k, accCombine_assoc ⟨hl₁, hl₂⟩ ⟨hk₁, hk₂⟩ ⟨hj₁, hj₂⟩⟩

/-! ### Special addends -/

/-- Settles O6: the product of a special and any operand is a special, and each special addend has its flag. -/
theorem accumulatorTakesSpecials : Obligations.AccumulatorTakesSpecials := by
  intro l
  refine ⟨rfl, rfl, rfl, fun _ _ => ⟨rfl, rfl⟩, fun a b _ _ => ⟨rfl, ?_, rfl⟩, fun x => ⟨rfl, ?_⟩⟩
  · exact congrArg (fun sign => accAdd l (.inf sign)) (bne_comm (a := b) (b := a))
  · cases x <;> rfl

/-! ### Sums in any order -/

/-- What a finite addend adds to A: its value scaled by 2^320, the fraction dropped (R88, R89). -/
def accTerm (neg : Bool) (n d : Nat) : Int := if neg then -((n * 2 ^ 320 / d : Nat) : Int) else ((n * 2 ^ 320 / d : Nat) : Int)

theorem accAdd_fin (l : LongAcc) (neg : Bool) (n d : Nat) : accAdd l (.fin neg n d) =
    { l with a := (accWrap (l.a + accTerm neg n d) l.w).1, w := (accWrap (l.a + accTerm neg n d) l.w).2 } := rfl

theorem accTerm_bounds {neg : Bool} {n d : Nat} (hx : AccFits (.fin neg n d)) :
    -(2 ^ 639) ≤ accTerm neg n d ∧ accTerm neg n d < 2 ^ 639 := by
  have ht : ((n * 2 ^ 320 / d : Nat) : Int) < 2 ^ 639 := by exact_mod_cast hx neg n d rfl
  have hnonneg : (0 : Int) ≤ (n * 2 ^ 320 / d : Nat) := Int.natCast_nonneg _
  unfold accTerm
  generalize ((n * 2 ^ 320 / d : Nat) : Int) = a at *
  generalize (2 : Int) ^ 639 = p at *
  split_ifs <;> omega

/-- A finite addend that fits, alone in an accumulator: nothing wraps. -/
theorem accAdd_accZero_fin {neg : Bool} {n d : Nat} (hx : AccFits (.fin neg n d)) :
    accAdd accZero (.fin neg n d) = { accZero with a := accTerm neg n d } := by
  obtain ⟨hlo, hhi⟩ := accTerm_bounds hx
  simp only [accAdd_fin, accZero, zero_add, accWrap_of_inRange 0 hlo hhi]

/-- An addend that fits leaves an empty accumulator in range. -/
theorem accAdd_accZero_inRange (hx : AccFits x) : AccInRange (accAdd accZero x) := by
  cases x with
  | nan => exact accZero_inRange
  | inf neg => cases neg <;> exact accZero_inRange
  | zero => exact accZero_inRange
  | fin neg n d =>
    rw [accAdd_accZero_fin hx]
    exact accTerm_bounds hx

theorem accCombine_accZero (hl : AccInRange l) : accCombine l accZero = l := by
  simp [accCombine, accZero, accWrap_of_inRange l.w hl.1 hl.2]

/-- Adding an addend that fits is combining with the accumulator that holds it alone. -/
theorem accAdd_eq_accCombine (hl : AccInRange l) (hx : AccFits x) : accAdd l x = accCombine l (accAdd accZero x) := by
  have hwrap : accWrap l.a l.w = (l.a, l.w) := accWrap_of_inRange _ hl.1 hl.2
  cases x with
  | nan => simp [accAdd, accCombine, accZero, hwrap]
  | inf neg => cases neg <;> simp [accAdd, accCombine, accZero, hwrap]
  | zero => exact (accCombine_accZero hl).symm
  | fin neg n d =>
    rw [accAdd_accZero_fin hx]
    simp only [accAdd_fin, accCombine, accZero, add_zero, Bool.or_false]

theorem accAdd_inRange (hl : AccInRange l) (hx : AccFits x) : AccInRange (accAdd l x) := by
  rw [accAdd_eq_accCombine hl hx]
  exact accCombine_inRange hl (accAdd_accZero_inRange hx)

theorem accAdd_right_comm {y : Num} (hl : AccInRange l) (hx : AccFits x) (hy : AccFits y) :
    accAdd (accAdd l x) y = accAdd (accAdd l y) x := by
  have hx₀ := accAdd_accZero_inRange hx
  have hy₀ := accAdd_accZero_inRange hy
  calc accAdd (accAdd l x) y
      = accCombine (accCombine l (accAdd accZero x)) (accAdd accZero y) := by
        rw [accAdd_eq_accCombine (accAdd_inRange hl hx) hy, accAdd_eq_accCombine hl hx]
    _ = accCombine (accCombine l (accAdd accZero y)) (accAdd accZero x) := by
        rw [accCombine_assoc hl hx₀ hy₀, accCombine_comm (accAdd accZero x), accCombine_assoc hl hy₀ hx₀]
    _ = accAdd (accAdd l y) x := by
        rw [accAdd_eq_accCombine (accAdd_inRange hl hy) hx, accAdd_eq_accCombine hl hy]

theorem accAddAll_inRange (hl : AccInRange l) (hx : ∀ x ∈ xs, AccFits x) : AccInRange (accAddAll l xs) := by
  induction xs generalizing l with
  | nil => exact hl
  | cons x xs ih =>
    obtain ⟨hx, hxs⟩ := List.forall_mem_cons.1 hx
    exact ih (accAdd_inRange hl hx) hxs

theorem accAddAll_perm (hp : xs.Perm ys) (hl : AccInRange l) (hx : ∀ x ∈ xs, AccFits x) : accAddAll l xs = accAddAll l ys := by
  induction hp generalizing l with
  | nil => rfl
  | cons x _ ih =>
    obtain ⟨hx, hxs⟩ := List.forall_mem_cons.1 hx
    exact ih (accAdd_inRange hl hx) hxs
  | swap x y zs =>
    obtain ⟨hy, hx⟩ := List.forall_mem_cons.1 hx
    exact congrArg (accAddAll · zs) (accAdd_right_comm hl hy (hx x List.mem_cons_self))
  | trans hxy _ ih₁ ih₂ => exact (ih₁ hl hx).trans (ih₂ hl fun x hm => hx x (hxy.mem_iff.2 hm))

/-- Adding a list is combining with the partial that holds its sum (R94). -/
theorem accAddAll_eq_accCombine (hl : AccInRange l) (hx : ∀ x ∈ xs, AccFits x) :
    accAddAll l xs = accCombine l (accAddAll accZero xs) := by
  induction xs generalizing l with
  | nil => exact (accCombine_accZero hl).symm
  | cons x xs ih =>
    obtain ⟨hx, hxs⟩ := List.forall_mem_cons.1 hx
    have hx₀ := accAdd_accZero_inRange hx
    calc accAddAll (accAdd l x) xs
        = accCombine (accCombine l (accAdd accZero x)) (accAddAll accZero xs) := by
          rw [ih (accAdd_inRange hl hx) hxs, accAdd_eq_accCombine hl hx]
      _ = accCombine l (accAddAll (accAdd accZero x) xs) := by
          rw [accCombine_assoc hl hx₀ (accAddAll_inRange accZero_inRange hxs), ← ih hx₀ hxs]

/-- Settles O7: additions commute, so a permutation leaves the sum, and a list's sum is combined as one partial. -/
theorem sumDoesNotDependOnOrder : Obligations.SumDoesNotDependOnOrder := by
  refine ⟨fun l xs ys hlo hhi hx hp => accAddAll_perm hp ⟨hlo, hhi⟩ hx, fun l xs ys hlo hhi hx => ?_⟩
  obtain ⟨hxs, hys⟩ := List.forall_mem_append.1 hx
  rw [accAddAll, List.foldl_append]
  exact accAddAll_eq_accCombine (accAddAll_inRange ⟨hlo, hhi⟩ hxs) hys

end Sys2Proof.Machine
end

section
/-! PROOFS. Conversion and encoding of single elements (R61 to R84): a value on a format's grid rounds to itself in every mode, and the
value of a code is on the grid. -/

namespace Sys2Proof.Machine

variable {f : Fmt} {mode : Rnd} {sat neg : Bool} {r n d k c : Nat} {u : Int}

/-! ### Integer formats (R84) -/

theorem convert_int8_fin (neg : Bool) : convert .int8 mode sat r (.fin neg n d) =
    if min (roundCount mode neg r n d 0) (if neg then 128 else 127) = 0 then .zero false
    else .fin neg (min (roundCount mode neg r n d 0) (if neg then 128 else 127)) 1 := by
  cases neg <;> rfl

theorem convert_int4_fin (neg : Bool) : convert .int4 mode sat r (.fin neg n d) =
    if min (roundCount mode neg r n d 0) (if neg then 8 else 7) = 0 then .zero false
    else .fin neg (min (roundCount mode neg r n d 0) (if neg then 8 else 7)) 1 := by
  cases neg <;> rfl

/-- Settles O8: finite values by the two lemmas before; zeros, NaN and infinities have a case of their own in `convert`. -/
theorem integerConversion : Obligations.IntegerConversion := by
  intro mode sat r
  exact ⟨fun _ _ => convert_int8_fin true, fun _ _ => convert_int8_fin false, fun _ _ => convert_int4_fin true,
    fun _ _ => convert_int4_fin false, rfl, rfl, rfl, rfl, rfl, rfl⟩

/-! ### Values on a grid -/

/-- `k` times the spacing `2 ^ u`, with a sign. -/
def gridNum (neg : Bool) (k : Nat) (u : Int) : Num := .fin neg (k * (pow2 u).1) (pow2 u).2

theorem pow2_fst_pos (u : Int) : 0 < (pow2 u).1 := by
  unfold pow2
  split_ifs <;> simp

theorem pow2_snd_pos (u : Int) : 0 < (pow2 u).2 := by
  unfold pow2
  split_ifs <;> simp

/-- `pow2` is the power of two, as a fraction. -/
theorem pow2_cast (u : Int) : ((pow2 u).1 : ℚ) / (pow2 u).2 = 2 ^ u := by
  unfold pow2
  split_ifs with h
  · lift u to ℕ using h
    simp
  · obtain ⟨j, rfl⟩ := Int.exists_eq_neg_ofNat (not_le.1 h).le
    simp

/-- Of two powers of two the one with the larger exponent is the larger, multiplied crosswise. -/
theorem pow2_mono {v : Int} (h : u ≤ v) : (pow2 u).1 * (pow2 v).2 ≤ (pow2 v).1 * (pow2 u).2 := by
  have hu : (0 : ℚ) < (pow2 u).2 := by exact_mod_cast pow2_snd_pos u
  have hv : (0 : ℚ) < (pow2 v).2 := by exact_mod_cast pow2_snd_pos v
  have hle : ((pow2 u).1 : ℚ) / (pow2 u).2 ≤ (pow2 v).1 / (pow2 v).2 := by
    rw [pow2_cast, pow2_cast]
    exact zpow_le_zpow_right₀ one_le_two h
  exact_mod_cast (div_le_div_iff₀ hu hv).1 hle

theorem pow2_add (a : Nat) (u : Int) : (pow2 (a + u)).1 * (pow2 u).2 = 2 ^ a * (pow2 u).1 * (pow2 (a + u)).2 := by
  have hu : ((pow2 u).2 : ℚ) ≠ 0 := by exact_mod_cast (pow2_snd_pos u).ne'
  have hv : ((pow2 (a + u)).2 : ℚ) ≠ 0 := by exact_mod_cast (pow2_snd_pos _).ne'
  have heq : ((pow2 (a + u)).1 : ℚ) / (pow2 (a + u)).2 = 2 ^ a * (pow2 u).1 / (pow2 u).2 := by
    rw [mul_div_assoc, pow2_cast, pow2_cast, zpow_add₀ two_ne_zero, zpow_natCast]
  exact_mod_cast (div_eq_div_iff hv hu).1 heq

theorem log2_mul_two_pow (hk : k ≠ 0) (j : Nat) : Nat.log2 (k * 2 ^ j) = Nat.log2 k + j := by
  rw [Nat.log2_eq_iff (by positivity), add_right_comm, pow_add, pow_add]
  exact ⟨Nat.mul_le_mul_right _ (Nat.log2_self_le hk), Nat.mul_lt_mul_of_pos_right Nat.lt_log2_self (by positivity)⟩

theorem log2_grid (hk : k ≠ 0) (u : Int) : (Nat.log2 (k * (pow2 u).1) : Int) - Nat.log2 (pow2 u).2 = Nat.log2 k + u := by
  unfold pow2
  split_ifs with h
  · rw [log2_mul_two_pow hk, show Nat.log2 1 = 0 from Nat.log2_two_pow (n := 0)]
    omega
  · rw [Nat.mul_one, Nat.log2_two_pow]
    omega

/-- Scaling by a power of two moves the exponent. -/
theorem floorLog2_grid (hk : k ≠ 0) (u : Int) : floorLog2 (k * (pow2 u).1) (pow2 u).2 = Nat.log2 k + u := by
  have hle : (pow2 u).2 * (pow2 (Nat.log2 k + u)).1 ≤ k * (pow2 u).1 * (pow2 (Nat.log2 k + u)).2 := by
    rw [mul_comm, pow2_add]
    gcongr
    exact Nat.log2_self_le hk
  rw [floorLog2]
  simp only [log2_grid hk, if_pos hle]

theorem grid_div (k : Nat) (u : Int) : k * (pow2 u).1 * (pow2 u).2 / ((pow2 u).2 * (pow2 u).1) = k := by
  rw [mul_assoc, mul_comm (pow2 u).2]
  exact Nat.mul_div_cancel k (Nat.mul_pos (pow2_fst_pos u) (pow2_snd_pos u))

theorem grid_mod (k : Nat) (u : Int) : k * (pow2 u).1 * (pow2 u).2 % ((pow2 u).2 * (pow2 u).1) = 0 := by
  rw [mul_assoc, mul_comm (pow2 u).2]
  exact Nat.mul_mod_left k _

/-- A multiple of the spacing is its own rounding, whatever the mode (R72 to R75). -/
theorem roundCount_grid : roundCount mode neg r (k * (pow2 u).1) (pow2 u).2 u = k := by
  simp only [roundCount, grid_mod, grid_div, if_true]

/-! ### Conversion leaves a value on the grid -/

/-- Is the format a floating-point one, with an exponent and a mantissa (R61)? -/
def fmtIsFloat (f : Fmt) : Bool :=
  match f with
  | .int8 | .int4 | .mxint8 => false
  | _ => true

/-- A value on its format's grid and within the format's range is its own conversion, in every mode (R72, R79). -/
theorem convert_grid (hf : fmtIsInt f = false) (hk : k ≠ 0) (hu : fmtUlp f (k * (pow2 u).1) (pow2 u).2 = u)
    (hmax : k * (pow2 u).1 * (fmtMax f).2 ≤ (fmtMax f).1 * (pow2 u).2) :
    convert f mode sat r (gridNum neg k u) = gridNum neg k u := by
  cases f with
  | int8 | int4 => exact absurd hf (by decide)
  | _ => simp only [convert, gridNum, hu, roundCount_grid, if_neg (not_lt.2 hmax), if_neg hk]

theorem fmtUlp_float (hf : fmtIsFloat f = true) (n d : Nat) :
    fmtUlp f n d = max (floorLog2 n d) (1 - (fmtBias f : Int)) - (fmtMan f : Int) := by
  cases f with
  | int8 | int4 | mxint8 => exact absurd hf (by decide)
  | _ => rfl

/-- Scale a bound on count and exponent to a bound on the value. -/
theorem grid_le {K a b : Nat} {v : Int} (hk : k ≤ K) (hu : u ≤ v) (h : K * (pow2 v).1 * b ≤ a * (pow2 v).2) :
    k * (pow2 u).1 * b ≤ a * (pow2 u).2 := by
  refine Nat.le_of_mul_le_mul_right ?_ (pow2_snd_pos v)
  calc k * (pow2 u).1 * b * (pow2 v).2
      = k * b * ((pow2 u).1 * (pow2 v).2) := by ring
    _ ≤ K * b * ((pow2 v).1 * (pow2 u).2) := Nat.mul_le_mul (Nat.mul_le_mul_right b hk) (pow2_mono hu)
    _ = K * (pow2 v).1 * b * (pow2 u).2 := by ring
    _ ≤ a * (pow2 v).2 * (pow2 u).2 := Nat.mul_le_mul_right _ h
    _ = a * (pow2 u).2 * (pow2 v).2 := by ring

/-! ### The fields of a code (R61) -/

/-- The mantissa field. -/
def codeMan (f : Fmt) (c : Nat) : Nat := c % 2 ^ fmtMan f
/-- The exponent field. -/
def codeExp (f : Fmt) (c : Nat) : Nat := c / 2 ^ fmtMan f % 2 ^ fmtExp f
/-- The sign bit. -/
def codeNeg (f : Fmt) (c : Nat) : Bool := decide (c / 2 ^ (fmtMan f + fmtExp f) % 2 = 1)
/-- Is the code an infinity or a NaN (R65 to R67)? -/
def codeSpecial (f : Fmt) (c : Nat) : Bool :=
  match f with
  | .fp64 | .fp32 | .bf16 | .fp16 | .e5m2 => codeExp f c = 2 ^ fmtExp f - 1
  | .e4m3 => codeExp f c = 2 ^ fmtExp f - 1 && codeMan f c = 7
  | _ => false
/-- The count of spacings: the mantissa, with the leading one of a normal. -/
def codeCount (f : Fmt) (c : Nat) : Nat := if codeExp f c = 0 then codeMan f c else 2 ^ fmtMan f + codeMan f c
/-- The exponent of the spacing; subnormals have that of the smallest normals. -/
def codeUlp (f : Fmt) (c : Nat) : Int := max (codeExp f c : Int) 1 - fmtBias f - fmtMan f

theorem codeMan_lt : codeMan f c < 2 ^ fmtMan f := Nat.mod_lt _ (by positivity)

theorem codeExp_lt : codeExp f c < 2 ^ fmtExp f := Nat.mod_lt _ (by positivity)

theorem numMk_grid (neg : Bool) (k : Nat) (u : Int) :
    numMk neg (k * (pow2 u).1) (pow2 u).2 = if k = 0 then .zero neg else gridNum neg k u := by
  have h : k * (pow2 u).1 = 0 ↔ k = 0 := by simp [(pow2_fst_pos u).ne']
  simp only [numMk, h, gridNum]

theorem decodeElem_special (hf : fmtIsFloat f = true) (hs : codeSpecial f c = true) :
    decodeElem f c = if f = .e4m3 || codeMan f c ≠ 0 then .nan else .inf (codeNeg f c) := by
  cases f with
  | int8 | int4 | mxint8 => exact absurd hf (by decide)
  | _ => exact if_pos hs

theorem codeUlp_subnormal (h : codeExp f c = 0) : codeUlp f c = 1 - (fmtBias f : Int) - fmtMan f := by
  simp [codeUlp, h]

theorem codeUlp_normal (h : codeExp f c ≠ 0) : codeUlp f c = (codeExp f c : Int) - fmtBias f - fmtMan f := by
  rw [codeUlp, max_eq_left (by omega)]

/-- Any other code stands for a zero, or for a value on the grid. -/
theorem decodeElem_grid (hf : fmtIsFloat f = true) (hs : codeSpecial f c = false) :
    decodeElem f c = if codeCount f c = 0 then .zero (codeNeg f c) else gridNum (codeNeg f c) (codeCount f c) (codeUlp f c) := by
  have hdec : decodeElem f c = if codeExp f c = 0
      then numMk (codeNeg f c) (codeMan f c * (pow2 (1 - (fmtBias f : Int) - fmtMan f)).1) (pow2 (1 - (fmtBias f : Int) - fmtMan f)).2
      else gridNum (codeNeg f c) (2 ^ fmtMan f + codeMan f c) ((codeExp f c : Int) - fmtBias f - fmtMan f) := by
    cases f with
    | int8 | int4 | mxint8 => exact absurd hf (by decide)
    | e3m2 | e2m3 | e2m1 => rfl
    | _ => exact if_neg (Bool.eq_false_iff.1 hs)
  rw [hdec]
  by_cases he : codeExp f c = 0
  · rw [if_pos he, numMk_grid, codeUlp_subnormal he, codeCount, if_pos he]
  · rw [if_neg he, codeUlp_normal he, codeCount, if_neg he, if_neg (by positivity)]

/-- The code with these sign, exponent and mantissa fields. -/
def joinFields (f : Fmt) (neg : Bool) (ex man : Nat) : Nat :=
  (if neg then 2 ^ (fmtMan f + fmtExp f) else 0) + ex * 2 ^ fmtMan f + man

theorem fmtBits_float (hf : fmtIsFloat f = true) : fmtBits f = fmtMan f + fmtExp f + 1 := by
  cases f with
  | int8 | int4 | mxint8 => exact absurd hf (by decide)
  | _ => rfl

/-- The fields of a code make it up. -/
theorem joinFields_code (hf : fmtIsFloat f = true) (hc : c < 2 ^ fmtBits f) :
    joinFields f (codeNeg f c) (codeExp f c) (codeMan f c) = c := by
  have hsign : c / 2 ^ (fmtMan f + fmtExp f) < 2 := by
    rw [fmtBits_float hf, pow_succ] at hc
    exact Nat.div_lt_of_lt_mul hc
  have hneg : (if codeNeg f c then 2 ^ (fmtMan f + fmtExp f) else 0) =
      2 ^ (fmtMan f + fmtExp f) * (c / 2 ^ (fmtMan f + fmtExp f)) := by
    unfold codeNeg
    generalize c / 2 ^ (fmtMan f + fmtExp f) = b at *
    interval_cases b <;> simp
  calc joinFields f (codeNeg f c) (codeExp f c) (codeMan f c)
      = 2 ^ fmtMan f * (2 ^ fmtExp f * (c / 2 ^ fmtMan f / 2 ^ fmtExp f) + c / 2 ^ fmtMan f % 2 ^ fmtExp f) + c % 2 ^ fmtMan f := by
        rw [joinFields, hneg, pow_add, ← Nat.div_div_eq_div_mul, codeExp, codeMan]
        ring
    _ = c := by rw [Nat.div_add_mod, Nat.div_add_mod]

theorem log2_codeCount_subnormal (he : codeExp f c = 0) (hk : codeCount f c ≠ 0) : Nat.log2 (codeCount f c) < fmtMan f := by
  rw [Nat.log2_lt hk, codeCount, if_pos he]
  exact codeMan_lt

theorem log2_codeCount_normal (he : codeExp f c ≠ 0) : Nat.log2 (codeCount f c) = fmtMan f := by
  have hman : codeMan f c < 2 ^ fmtMan f := codeMan_lt
  rw [codeCount, if_neg he, Nat.log2_eq_iff (by positivity), pow_succ]
  omega

/-- The spacing at the value of a code is the code's own. -/
theorem fmtUlp_code (hf : fmtIsFloat f = true) (hk : codeCount f c ≠ 0) :
    fmtUlp f (codeCount f c * (pow2 (codeUlp f c)).1) (pow2 (codeUlp f c)).2 = codeUlp f c := by
  rw [fmtUlp_float hf, floorLog2_grid hk]
  by_cases he : codeExp f c = 0
  · have hlog := log2_codeCount_subnormal he hk
    rw [codeUlp_subnormal he]
    omega
  · rw [codeUlp_normal he, log2_codeCount_normal he]
    omega

theorem encodeElem_float (hf : fmtIsFloat f = true) (neg : Bool) (n d : Nat) :
    encodeElem f (.fin neg n d) =
      if floorLog2 n d < 1 - (fmtBias f : Int) then
        (if neg then 2 ^ (fmtMan f + fmtExp f) else 0)
          + n * (pow2 (1 - (fmtBias f : Int) - fmtMan f)).2 / (d * (pow2 (1 - (fmtBias f : Int) - fmtMan f)).1)
      else joinFields f neg (floorLog2 n d + fmtBias f).toNat
        (n * (pow2 (floorLog2 n d - fmtMan f)).2 / (d * (pow2 (floorLog2 n d - fmtMan f)).1) - 2 ^ fmtMan f) := by
  cases f with
  | int8 | int4 | mxint8 => exact absurd hf (by decide)
  | _ => rfl

theorem encodeElem_grid (hf : fmtIsFloat f = true) (hk : codeCount f c ≠ 0) (neg : Bool) :
    encodeElem f (gridNum neg (codeCount f c) (codeUlp f c)) = joinFields f neg (codeExp f c) (codeMan f c) := by
  rw [gridNum, encodeElem_float hf, floorLog2_grid hk]
  by_cases he : codeExp f c = 0
  · have hlog := log2_codeCount_subnormal he hk
    rw [codeUlp_subnormal he, if_pos (by omega), grid_div, joinFields, codeCount, if_pos he, he]
    omega
  · have hexp : (fmtMan f : Int) + codeUlp f c = codeExp f c - fmtBias f := by
      rw [codeUlp_normal he]
      omega
    rw [log2_codeCount_normal he, hexp, ← codeUlp_normal he, grid_div, if_neg (by omega), codeCount, if_neg he,
      Int.sub_add_cancel, Int.toNat_natCast, Nat.add_sub_cancel_left]

/-! ### Codes of the narrow formats -/

theorem codeCount_lt : codeCount f c < 2 ^ (fmtMan f + 1) := by
  have hman : codeMan f c < 2 ^ fmtMan f := codeMan_lt
  rw [codeCount, pow_succ]
  split_ifs <;> omega

theorem codeUlp_le {top : Nat} (htop : 1 ≤ top) (h : codeExp f c ≤ top) : codeUlp f c ≤ top - fmtBias f - fmtMan f := by
  rw [codeUlp]
  omega

/-- A code of a narrow floating-point format stands for no value beyond the format's range: the largest count with the largest exponent is
the limit, but in E4M3, where the largest count with the largest exponent is the NaN. -/
theorem code_le_max (hf : f ∈ [Fmt.e4m3, .e5m2, .e3m2, .e2m3, .e2m1]) (hs : codeSpecial f c = false) :
    codeCount f c * (pow2 (codeUlp f c)).1 * (fmtMax f).2 ≤ (fmtMax f).1 * (pow2 (codeUlp f c)).2 := by
  have hexp : codeExp f c < 2 ^ fmtExp f := codeExp_lt
  have hcount : codeCount f c ≤ 2 ^ (fmtMan f + 1) - 1 := Nat.le_pred_of_lt codeCount_lt
  cases f with
  | e5m2 =>
    have htop : codeExp .e5m2 c ≠ 31 := of_decide_eq_false hs
    exact grid_le hcount (codeUlp_le (top := 30) (by decide) (by simp only [fmtExp] at hexp; omega)) (by decide)
  | e3m2 => exact grid_le hcount (codeUlp_le (top := 7) (by decide) (Nat.le_of_lt_succ hexp)) (by decide)
  | e2m3 => exact grid_le hcount (codeUlp_le (top := 3) (by decide) (Nat.le_of_lt_succ hexp)) (by decide)
  | e2m1 => exact grid_le hcount (codeUlp_le (top := 3) (by decide) (Nat.le_of_lt_succ hexp)) (by decide)
  | e4m3 =>
    by_cases htop : codeExp .e4m3 c = 15
    · have hman : codeMan .e4m3 c < 8 := codeMan_lt
      have hnan : codeMan .e4m3 c ≠ 7 := by
        intro h
        simp [codeSpecial, htop, h, fmtExp] at hs
      have hk : codeCount .e4m3 c ≤ 14 := by
        rw [codeCount, htop, if_neg (by decide)]
        simp only [fmtMan]
        omega
      exact grid_le hk (codeUlp_le (top := 15) (by decide) htop.le) (by decide)
    · exact grid_le hcount (codeUlp_le (top := 14) (by decide) (by simp only [fmtExp] at hexp; omega)) (by decide)
  | _ => exact absurd hf (by decide)

theorem encodeElem_zero (hf : fmtIsFloat f = true) (neg : Bool) : encodeElem f (.zero neg) = joinFields f neg 0 0 := by
  cases f with
  | int8 | int4 | mxint8 => exact absurd hf (by decide)
  | _ => rw [joinFields, Nat.zero_mul]; rfl

theorem encodeElem_inf (hf : fmtIsFloat f = true) (neg : Bool) :
    encodeElem f (.inf neg) = joinFields f neg (2 ^ fmtExp f - 1) 0 := by
  cases f with
  | int8 | int4 | mxint8 => exact absurd hf (by decide)
  | _ => exact (Nat.add_zero _).symm

theorem convert_zero (hf : fmtIsInt f = false) (neg : Bool) : convert f mode sat r (.zero neg) = .zero neg := by
  cases f with
  | int8 | int4 => exact absurd hf (by decide)
  | _ => rfl

/-- A format with codes for infinities keeps an infinity. -/
theorem convert_inf (hs : codeSpecial f c = true) (hf : f ≠ .e4m3) (neg : Bool) : convert f mode sat r (.inf neg) = .inf neg := by
  cases f with
  | fp32 | bf16 | fp16 | e5m2 | fp64 => rfl
  | e4m3 => exact absurd rfl hf
  | _ => exact absurd hs Bool.false_ne_true

theorem codeExp_special (hs : codeSpecial f c = true) (hf : f ≠ .e4m3) : codeExp f c = 2 ^ fmtExp f - 1 := by
  cases f with
  | fp32 | bf16 | fp16 | e5m2 | fp64 => exact of_decide_eq_true hs
  | e4m3 => exact absurd rfl hf
  | _ => exact absurd hs Bool.false_ne_true

theorem decodeElem_inf (hf : fmtIsFloat f = true) (hs : codeSpecial f c = true) (hn : numIsNan (decodeElem f c) = false) :
    decodeElem f c = .inf (codeNeg f c) ∧ codeMan f c = 0 ∧ f ≠ .e4m3 := by
  rw [decodeElem_special hf hs] at hn ⊢
  split_ifs at hn ⊢ with h
  · cases hn
  · obtain ⟨hne, hman⟩ : f ≠ .e4m3 ∧ codeMan f c = 0 := by simpa using h
    exact ⟨rfl, hman, hne⟩

/-- The count of a code is 0 for the codes of the two zeros only. -/
theorem codeCount_eq_zero (h : codeCount f c = 0) : codeExp f c = 0 ∧ codeMan f c = 0 := by
  unfold codeCount at h
  split_ifs at h with he
  · exact ⟨he, h⟩
  · have : 0 < 2 ^ fmtMan f := by positivity
    omega

/-- The value of a floating-point code is written as the code. -/
theorem encodeElem_decodeElem_float (hf : fmtIsFloat f = true) (hc : c < 2 ^ fmtBits f) (hn : numIsNan (decodeElem f c) = false) :
    encodeElem f (decodeElem f c) = c := by
  refine Eq.trans ?_ (joinFields_code hf hc)
  by_cases hs : codeSpecial f c = true
  · obtain ⟨hd, hman, hne⟩ := decodeElem_inf hf hs hn
    rw [hd, encodeElem_inf hf, codeExp_special hs hne, hman]
  · rw [decodeElem_grid hf (Bool.eq_false_iff.2 hs)]
    by_cases hk : codeCount f c = 0
    · obtain ⟨he, hman⟩ := codeCount_eq_zero hk
      rw [if_pos hk, encodeElem_zero hf, he, hman]
    · rw [if_neg hk, encodeElem_grid hf hk]

/-- The value of a narrow floating-point code is its own conversion. -/
theorem convert_decodeElem_float (hf : f ∈ [Fmt.e4m3, .e5m2, .e3m2, .e2m3, .e2m1]) (hn : numIsNan (decodeElem f c) = false) :
    convert f mode sat r (decodeElem f c) = decodeElem f c := by
  obtain ⟨hfloat, hint⟩ : fmtIsFloat f = true ∧ fmtIsInt f = false := by
    clear hn
    revert f
    decide
  by_cases hs : codeSpecial f c = true
  · obtain ⟨hd, -, hne⟩ := decodeElem_inf hfloat hs hn
    rw [hd, convert_inf hs hne]
  · have hs : codeSpecial f c = false := Bool.eq_false_iff.2 hs
    rw [decodeElem_grid hfloat hs]
    by_cases hk : codeCount f c = 0
    · rw [if_pos hk, convert_zero hint]
    · rw [if_neg hk, convert_grid hint hk (fmtUlp_code hfloat hk) (code_le_max hf hs)]

/-! ### Codes in two's complement (R62) -/

/-- The count of codes of each sign. -/
def fmtHalf (f : Fmt) : Nat := if f = .int4 then 8 else 128
/-- The exponent of the fixed spacing. -/
def fmtFixedUlp (f : Fmt) : Int := if f = .mxint8 then -6 else 0
/-- The magnitude of a code, in spacings. -/
def codeAbs (f : Fmt) (c : Nat) : Nat := if c < fmtHalf f then c else 2 * fmtHalf f - c

theorem fixed_two_pow (hf : fmtIsFloat f = false) : 2 ^ fmtBits f = 2 * fmtHalf f := by
  cases f with
  | int8 | int4 | mxint8 => rfl
  | _ => exact absurd hf (by decide)

theorem pow2_fixedUlp_fst : (pow2 (fmtFixedUlp f)).1 = 1 := by
  unfold fmtFixedUlp
  split_ifs <;> rfl

theorem codeAbs_ne_zero (hf : fmtIsFloat f = false) (hc : c < 2 ^ fmtBits f) (h0 : c ≠ 0) : codeAbs f c ≠ 0 := by
  rw [fixed_two_pow hf] at hc
  unfold codeAbs
  split_ifs <;> omega

/-- Each code stands for a multiple of the spacing. -/
theorem decodeElem_fixed (hf : fmtIsFloat f = false) (hc : c < 2 ^ fmtBits f) :
    decodeElem f c = if c = 0 then .zero false else gridNum (decide (fmtHalf f ≤ c)) (codeAbs f c) (fmtFixedUlp f) := by
  rw [fixed_two_pow hf] at hc
  have hdec : decodeElem f c = if c % (2 * fmtHalf f) < fmtHalf f
      then numMk false (c % (2 * fmtHalf f)) (pow2 (fmtFixedUlp f)).2
      else .fin true (2 * fmtHalf f - c % (2 * fmtHalf f)) (pow2 (fmtFixedUlp f)).2 := by
    cases f with
    | int8 | int4 | mxint8 => rfl
    | _ => exact absurd hf (by decide)
  rw [hdec, Nat.mod_eq_of_lt hc, gridNum, codeAbs, pow2_fixedUlp_fst, Nat.mul_one]
  by_cases h : c < fmtHalf f
  · rw [if_pos h, if_pos h, decide_eq_false (not_le.2 h)]
    rfl
  · rw [if_neg h, if_neg h, decide_eq_true (not_lt.1 h), if_neg]
    unfold fmtHalf at h
    split_ifs at h <;> omega

/-- A multiple of the spacing is written as its count, in two's complement. -/
theorem encodeElem_fixed (hf : fmtIsFloat f = false) (neg : Bool) (k : Nat) :
    encodeElem f (gridNum neg k (fmtFixedUlp f)) = if neg then (2 * fmtHalf f - k) % (2 * fmtHalf f) else k := by
  have henc (n d : Nat) : encodeElem f (.fin neg n d) =
      if neg then (2 * fmtHalf f - n * (pow2 (fmtFixedUlp f)).2 / d) % (2 * fmtHalf f) else n * (pow2 (fmtFixedUlp f)).2 / d := by
    cases f with
    | int8 | int4 | mxint8 => rfl
    | _ => exact absurd hf (by decide)
  rw [gridNum, henc, Nat.mul_div_cancel _ (pow2_snd_pos _), pow2_fixedUlp_fst, Nat.mul_one]

theorem encodeElem_decodeElem_fixed (hf : fmtIsFloat f = false) (hc : c < 2 ^ fmtBits f) :
    encodeElem f (decodeElem f c) = c := by
  rw [decodeElem_fixed hf hc]
  rw [fixed_two_pow hf] at hc
  by_cases h0 : c = 0
  · rw [if_pos h0, h0]
    cases f with
    | int8 | int4 | mxint8 => rfl
    | _ => exact absurd hf (by decide)
  · rw [if_neg h0, encodeElem_fixed hf, codeAbs]
    by_cases h : c < fmtHalf f
    · simp [h, not_le.2 h]
    · rw [if_neg h, if_pos (decide_eq_true (not_lt.1 h)), Nat.sub_sub_self hc.le, Nat.mod_eq_of_lt hc]

/-- An integer format keeps a value of its range. -/
theorem convert_int_grid (hf : fmtIsInt f = true) (hk : k ≠ 0) (hmax : k ≤ if neg then fmtHalf f else fmtHalf f - 1) :
    convert f mode sat r (gridNum neg k 0) = gridNum neg k 0 := by
  have hconv : convert f mode sat r (gridNum neg k 0) =
      if min (roundCount mode neg r (k * (pow2 0).1) (pow2 0).2 0) (if neg then fmtHalf f else fmtHalf f - 1) = 0 then .zero false
      else .fin neg (min (roundCount mode neg r (k * (pow2 0).1) (pow2 0).2 0) (if neg then fmtHalf f else fmtHalf f - 1)) 1 := by
    cases f with
    | int8 | int4 => cases neg <;> rfl
    | _ => exact absurd hf (by decide)
  rw [hconv, roundCount_grid, min_eq_left hmax, if_neg hk, gridNum]
  exact congrArg (Num.fin neg · 1) (Nat.mul_one k).symm

/-- A code's magnitude is at most 2^(bits − 1) below zero, and less above. -/
theorem codeAbs_le (hf : fmtIsFloat f = false) (hc : c < 2 ^ fmtBits f) :
    codeAbs f c ≤ if decide (fmtHalf f ≤ c) then fmtHalf f else fmtHalf f - 1 := by
  rw [fixed_two_pow hf] at hc
  unfold codeAbs
  by_cases h : c < fmtHalf f
  · rw [if_pos h, decide_eq_false (not_le.2 h), if_neg Bool.false_ne_true]
    omega
  · rw [if_neg h, decide_eq_true (not_lt.1 h), if_pos rfl]
    omega

/-- The value of a code in two's complement is its own conversion, but for MXINT8's −2, which is beyond its range (R62). -/
theorem convert_decodeElem_fixed (hf : fmtIsFloat f = false) (hc : c < 2 ^ fmtBits f) (hmx : ¬(f = .mxint8 ∧ c = 128)) :
    convert f mode sat r (decodeElem f c) = decodeElem f c := by
  rw [decodeElem_fixed hf hc]
  by_cases h0 : c = 0
  · rw [if_pos h0]
    cases f with
    | int8 | int4 | mxint8 => rfl
    | _ => exact absurd hf (by decide)
  · rw [if_neg h0]
    have hk : codeAbs f c ≠ 0 := codeAbs_ne_zero hf hc h0
    have hle := codeAbs_le hf hc
    cases f with
    | int8 | int4 => exact convert_int_grid rfl hk hle
    | mxint8 =>
      have h127 : codeAbs .mxint8 c ≤ 127 := by
        have hc : c < 256 := hc
        have hne : c ≠ 128 := fun h => hmx ⟨rfl, h⟩
        show (if c < 128 then c else 256 - c) ≤ 127
        split_ifs <;> omega
      exact convert_grid rfl hk rfl (grid_le h127 le_rfl (by decide))
    | _ => exact absurd hf (by decide)

/-- Settles O9: the value of a code is on its format's grid, and there both ways lead back to the code. -/
theorem elementCodesRoundTrip : Obligations.ElementCodesRoundTrip := by
  intro f hf c hc hn
  have henc : encodeElem f (decodeElem f c) = c := by
    cases hfloat : fmtIsFloat f
    · exact encodeElem_decodeElem_fixed hfloat hc
    · exact encodeElem_decodeElem_float hfloat hc hn
  refine ⟨henc, fun hmx mode r => ?_⟩
  have hconv : convert f mode true r (decodeElem f c) = decodeElem f c := by
    cases hfloat : fmtIsFloat f
    · exact convert_decodeElem_fixed hfloat hc hmx
    · have hnarrow : f ∈ [Fmt.e4m3, .e5m2, .e3m2, .e2m3, .e2m1] := by
        clear hc hn henc hmx
        revert f
        decide
      exact convert_decodeElem_float hnarrow hn
  rw [hconv, henc]

end Sys2Proof.Machine
end

section
/-! PROOFS. The staging of a stitch (R111 to R115, R385, R386), and the tile ops that are done at their issue (R122 to R142). -/

namespace Sys2Proof.Machine

variable {s t u w : State} {q e : Nat} {f : Flight} {st : Status}

/-! ### STITCH -/

theorem stitch_of_no_flight (hf : flight s q e = none) : stitch s q e = s := by
  simp only [stitch, hf]

theorem stitch_of_other (hf : flight s q e = some f) (h : f.phase ≠ .admitted ∨ fld (wordAt f.words 0) 63 56 ≠ 1) :
    stitch s q e = s := by
  simp only [stitch, hf, if_pos h]

section staging
variable (hf : flight s q e = some f) (ha : f.phase = .admitted) (hop : fld (wordAt f.words 0) 63 56 = 1)
include hf ha hop

theorem stitch_of_stage_fail (hs : stageStitch s q (wordAt f.words 6).toNat f.desc = .fail st t) :
    stitch s q e = finishFlight (feDone t q) q e st := by
  simp only [stitch, hf, if_neg (admittedOp_guard ha hop), hs, Out.andThen]

theorem stitch_of_stage_wait (hs : stageStitch s q (wordAt f.words 6).toNat f.desc = .wait t) : stitch s q e = t := by
  simp only [stitch, hf, if_neg (admittedOp_guard ha hop), hs, Out.andThen]

variable {x : Stitch} (hs : stageStitch s q (wordAt f.words 6).toNat f.desc = .ok x u)
include hs

theorem stitch_of_prefetch_wait (hp : prefetches u q x.floss x.strands.zipIdx = .wait w) : stitch s q e = w := by
  simp only [stitch, hf, if_neg (admittedOp_guard ha hop), hs, hp, Out.andThen]

/-- Everything is read: the entry is staged, each prefetch stands in its lantern's buffer, and the context's activity is shown. -/
theorem stitch_of_staged {ps : List (Nat × Nat × List Byte)} (hp : prefetches u q x.floss x.strands.zipIdx = .ok ps w)
    {v : State} (hv : v = ps.foldl
      (fun s p => modLantern s p.1 (fun x => { x with prefetch := some ({ queue := q, entry := e, idx := p.2.1 }, p.2.2) }))
      (modFlight (feDone w q) q e (fun f => { f with phase := .staged, detail := x.variant, stitch := some x }))) :
    stitch s q e = showActivity v (queueCtx v q) := by
  subst hv
  simp only [stitch, hf, if_neg (admittedOp_guard ha hop), hs, hp, Out.andThen]

end staging

/-- Settles O21: each clause is one case of `stitch`, by what the reads of the stitch and of its prefetches come to. -/
theorem stitchStages : Obligations.StitchStages := by
  refine ⟨?_, ?_, ?_, ?_, ?_, ?_⟩
  · intro s t q e f st hf ha hop hs
    exact congrArg Host.Outcome.next (stitch_of_stage_fail hf ha hop hs)
  · intro s t q e f hf ha hop hs
    exact congrArg Host.Outcome.next (stitch_of_stage_wait hf ha hop hs)
  · intro s u w q e f x hf ha hop hs hp
    exact congrArg Host.Outcome.next (stitch_of_prefetch_wait hf ha hop hs hp)
  · intro s u w q e f x ps hf ha hop hs hp
    exact ⟨_, rfl, congrArg Host.Outcome.next (stitch_of_staged hf ha hop hs hp rfl)⟩
  · intro s q e hf
    exact congrArg Host.Outcome.next (stitch_of_no_flight hf)
  · intro s q e f hf h
    exact congrArg Host.Outcome.next (stitch_of_other hf h)

/-! ### Ops done at their issue -/

section issuing
variable {l code : Nat} {i : Issue}

/-- The next op may issue and has the command's opcode: the command does what it does with it. -/
theorem issueOp_of_nextOp {g : State → Issue → State} (hn : nextOp s l = .ok i t) (hc : opCode i.ws = code) :
    issueOp s l code g = g t i := by
  simp only [issueOp, hn, if_pos hc]

theorem mma_of_fits (hn : nextOp s l = .ok i t) (hc : opCode i.ws = 3) (hfit : mmaFits (lantern t l) i.ws = true) :
    mma s l = atOnce l (doMma t l i.st i.ws) :=
  (issueOp_of_nextOp hn hc).trans (if_pos hfit)

/-- The op continues an accumulation of another shape or format (R125). -/
theorem mma_of_unfit (hn : nextOp s l = .ok i t) (hc : opCode i.ws = 3) (hfit : mmaFits (lantern t l) i.ws = false) :
    mma s l = opFails t l .format :=
  (issueOp_of_nextOp hn hc).trans (if_neg (Bool.eq_false_iff.1 hfit))

end issuing

/-- Settles O25: each command is `issueOp` of its opcode, and what it does with the op is its definition. -/
theorem tileUnitOps : Obligations.TileUnitOps := by
  refine ⟨?_, ?_, ?_, ?_, ?_, ?_, ?_⟩
  · intro s t l i hn hc hfit
    exact congrArg Host.Outcome.next (mma_of_fits hn hc hfit)
  · intro s t l i hn hc hfit
    exact congrArg Host.Outcome.next (mma_of_unfit hn hc hfit)
  all_goals
    intro s t l i hn hc
    exact congrArg Host.Outcome.next (issueOp_of_nextOp hn hc)

end Sys2Proof.Machine
end

section
/-! SUPPORT. What the keeping of books leaves alone: counters, activity and charges change contexts and dictionary cells only, and what
is done with an entry in flight changes queues and confirming reads besides. -/

namespace Sys2Proof.Machine

variable {s t u : State}

/-- A fold over a list keeps what each of its steps keeps. -/
theorem foldl_field {β γ : Type} (f : State → γ) {g : State → β → State} (h : ∀ s b, f (g s b) = f s) (l : List β) (s : State) :
    f (l.foldl g s) = f s := by
  induction l generalizing s with
  | nil => rfl
  | cons b l ih => rw [List.foldl_cons, ih, h]

/-- A byte reads as memory has it. -/
theorem rb_of_mem (h : t.mem = s.mem) (a : Nat) : rb t a = rb s a := by rw [rb, h, rb]

/-! ### Safe state -/

/-- Outside safe state a command of the engines is its operation. -/
theorem next_unlessSafe {s t u : State} (hs : s.snuffer.safe = false) (h : t = u) :
    (Host.Outcome.next (unlessSafe s t) : Host.Outcome State Fault Refusal) = .next u :=
  congrArg Host.Outcome.next ((unlessSafe_of_false hs).trans h)

/-- An operation that leaves the state as it is does so in safe state too. -/
theorem next_unlessSafe_self {s t : State} (h : t = s) :
    (Host.Outcome.next (unlessSafe s t) : Host.Outcome State Fault Refusal) = .next s := by
  rw [h, unlessSafe_self]

/-! ### Contexts and cells -/

/-- `t` is `s` but for the records of contexts and the cells of the dictionary. -/
def booked (s t : State) : Prop := ∃ cs rs, t = { s with ctxs := cs, regs := rs }

theorem booked.refl (s : State) : booked s s := ⟨_, _, rfl⟩

theorem booked.trans (h : booked s t) (h' : booked t u) : booked s u := by
  obtain ⟨cs, rs, rfl⟩ := h
  obtain ⟨cs', rs', rfl⟩ := h'
  exact ⟨cs', rs', rfl⟩

theorem booked.mem (h : booked s t) : t.mem = s.mem := by obtain ⟨_, _, rfl⟩ := h; rfl
theorem booked.waits (h : booked s t) : t.waits = s.waits := by obtain ⟨_, _, rfl⟩ := h; rfl

theorem booked.lantern (h : booked s t) (l : Nat) : lantern t l = lantern s l := by obtain ⟨_, _, rfl⟩ := h; rfl
theorem booked.hoop (h : booked s t) (k : Nat) : hoop t k = hoop s k := by obtain ⟨_, _, rfl⟩ := h; rfl
theorem booked.queue (h : booked s t) (q : Nat) : queue t q = queue s q := by obtain ⟨_, _, rfl⟩ := h; rfl

theorem booked_foldl {β : Type} {g : State → β → State} (h : ∀ s b, booked s (g s b)) (l : List β) (s : State) :
    booked s (l.foldl g s) := by
  induction l generalizing s with
  | nil => exact .refl s
  | cons b l ih => exact (h s b).trans (ih _)

theorem booked_setCell (s : State) (e row w : Nat) (v : Word) : booked s (setCell s e row w v) := ⟨_, _, rfl⟩

theorem booked_setCells (s : State) (e row w : Nat) (ws : List Word) : booked s (setCells s e row w ws) := by
  induction ws generalizing s w with
  | nil => exact .refl s
  | cons v ws ih => exact (booked_setCell s e row w v).trans (ih _ _)

theorem booked_modContext (s : State) (c : Nat) (f : Context → Context) : booked s (modContext s c f) := ⟨_, _, rfl⟩

theorem booked_selCount (s : State) (q : Option Nat) (ev n : Nat) (h c x : Option Nat) : booked s (selCount s q ev n h c x) := by
  unfold selCount
  split
  · exact .refl s
  · refine booked_foldl (fun s r => ?_) _ s
    split
    · exact booked_setCell _ _ _ _ _
    · exact .refl s

theorem booked_raiseV (s : State) (c : Nat) : booked s (raiseV s c) := by
  unfold raiseV
  dsimp only
  split
  · exact .refl s
  · exact booked_modContext _ _ _

theorem booked_showActivity (s : State) (c : Nat) : booked s (showActivity s c) := by
  unfold showActivity
  dsimp only
  split
  · exact .refl s
  · split
    · exact .refl s
    · refine booked.trans ?_ ((booked_modContext _ _ _).trans (booked_setCell _ _ _ _ _))
      split
      · exact booked_raiseV s c
      · exact .refl s

theorem booked_showHoop (s : State) (h : Nat) : booked s (showHoop s h) := booked_foldl booked_showActivity _ s

theorem booked_showQueue (s : State) (q : Nat) : booked s (showQueue s q) := (booked_setCell _ _ _ _ _).trans (booked_setCell _ _ _ _ _)

theorem booked_chargeLantern (s : State) (c kind since : Nat) : booked s (chargeLantern s c kind since) :=
  (booked_modContext _ _ _).trans (booked_setCells _ _ _ _ _)

/-! ### Entries in flight -/

/-- `t` is `s` but for queues, confirming reads and what else the fabric holds, contexts and cells. -/
def worked (s t : State) : Prop := ∃ qs fb cs rs, t = { s with queues := qs, fab := fb, ctxs := cs, regs := rs }

theorem worked.refl (s : State) : worked s s := ⟨_, _, _, _, rfl⟩

theorem worked.trans (h : worked s t) (h' : worked t u) : worked s u := by
  obtain ⟨_, _, _, _, rfl⟩ := h
  obtain ⟨qs, fb, cs, rs, rfl⟩ := h'
  exact ⟨qs, fb, cs, rs, rfl⟩

theorem booked.worked (h : booked s t) : worked s t := by
  obtain ⟨cs, rs, rfl⟩ := h
  exact ⟨_, _, cs, rs, rfl⟩

theorem worked.mem (h : worked s t) : t.mem = s.mem := by obtain ⟨_, _, _, _, rfl⟩ := h; rfl
theorem worked.lantern (h : worked s t) (l : Nat) : lantern t l = lantern s l := by obtain ⟨_, _, _, _, rfl⟩ := h; rfl
theorem worked.hoop (h : worked s t) (k : Nat) : hoop t k = hoop s k := by obtain ⟨_, _, _, _, rfl⟩ := h; rfl

theorem worked_foldl {β : Type} {g : State → β → State} (h : ∀ s b, worked s (g s b)) (l : List β) (s : State) :
    worked s (l.foldl g s) := by
  induction l generalizing s with
  | nil => exact .refl s
  | cons b l ih => exact (h s b).trans (ih _)

theorem worked_modQueue (s : State) (q : Nat) (f : Queue → Queue) : worked s (modQueue s q f) := ⟨_, _, _, _, rfl⟩

theorem worked_modFlight (s : State) (q e : Nat) (f : Flight → Flight) : worked s (modFlight s q e f) := worked_modQueue _ _ _

theorem worked_modStrand (s : State) (r : StrandRef) (f : Strand → Strand) : worked s (modStrand s r f) := worked_modFlight _ _ _ _

theorem worked_feDone (s : State) (q : Nat) : worked s (feDone s q) := ⟨_, _, _, _, rfl⟩

theorem worked_issueConfirm (s : State) (p : Nat) (c : Confirm) : worked s (issueConfirm s p c) := by
  have hstall : booked s (if tagsFull s p then tagStall s p else s) := by
    split
    · exact (booked_setCell _ _ _ _ _).trans (booked_setCell _ _ _ _ _)
    · exact .refl s
  exact hstall.worked.trans ⟨_, _, _, _, rfl⟩

theorem worked_finishFlight (s : State) (q e : Nat) (st : Status) : worked s (finishFlight s q e st) := by
  unfold finishFlight
  split
  · exact .refl s
  · split
    · exact .refl s
    · refine worked.trans ?_ (booked_showActivity _ _).worked
      refine worked.trans ?_ (worked_foldl (fun _ _ => worked_issueConfirm _ _ _) _ _)
      exact (worked_modFlight s q e _).trans (worked_modQueue _ q _)

theorem worked_stitchCheck (s : State) (q e : Nat) : worked s (stitchCheck s q e) := by
  unfold stitchCheck
  split
  · exact .refl s
  · split
    · split
      · exact worked_finishFlight _ _ _ _
      · exact .refl s
    · exact .refl s

end Sys2Proof.Machine
end

section
/-! PROOFS. The choice of a variant (R114): the exact match, else the largest that fits. -/

namespace Sys2Proof.Machine

variable {vs : List Variant} {m v sc : Nat}

/-- The variants of a table with their places. -/
def placedVariants (vs : List Variant) : List (Nat × Variant) := vs.zipIdx.map (fun p => (p.2, p.1))

/-- Are a variant's widths exactly a hoop's? -/
def exactWidths (m v sc : Nat) (p : Nat × Variant) : Bool := decide (p.2.m = m) && decide (p.2.v = v) && decide (p.2.sc = sc)
/-- Do a variant's widths lie within a hoop's? -/
def fitsWidths (m v sc : Nat) (p : Nat × Variant) : Bool := decide (p.2.m ≤ m) && decide (p.2.v ≤ v) && decide (p.2.sc ≤ sc)

/-- The better of the variant kept so far and the next one: a step of the search of `selectVariant`. -/
def preferred (best : Option (Nat × Variant)) (p : Nat × Variant) : Option (Nat × Variant) :=
  match best with
  | none => some p
  | some b => if variantLess b.2 p.2 then some p else some b

theorem selectVariant_of_exact {p : Nat × Variant} (h : (placedVariants vs).find? (exactWidths m v sc) = some p) :
    selectVariant vs m v sc = some p := by
  unfold placedVariants exactWidths at h
  simp only [selectVariant, h]

theorem selectVariant_of_inexact (h : (placedVariants vs).find? (exactWidths m v sc) = none) :
    selectVariant vs m v sc = ((placedVariants vs).filter (fitsWidths m v sc)).foldl preferred none := by
  unfold placedVariants exactWidths at h
  simp only [selectVariant, h]
  rfl

theorem mem_placedVariants {p : Nat × Variant} : p ∈ placedVariants vs ↔ vs[p.1]? = some p.2 := by
  obtain ⟨i, x⟩ := p
  simp [placedVariants, List.mem_zipIdx_iff_getElem?]

theorem exists_placed {y : Variant} (h : y ∈ vs) : ∃ i, (i, y) ∈ placedVariants vs :=
  (List.getElem?_of_mem h).imp fun _ hi => mem_placedVariants.2 hi

@[simp] theorem exactWidths_iff {p : Nat × Variant} : exactWidths m v sc p = true ↔ p.2.m = m ∧ p.2.v = v ∧ p.2.sc = sc := by
  simp [exactWidths, and_assoc]

@[simp] theorem fitsWidths_iff {p : Nat × Variant} : fitsWidths m v sc p = true ↔ p.2.m ≤ m ∧ p.2.v ≤ v ∧ p.2.sc ≤ sc := by
  simp [fitsWidths, and_assoc]

/-! ### The order of preference -/

/-- No variant is preferred to another that is at least as large in the lexicographic order of the widths (R114 step 2). -/
theorem variantLess_eq_false {x y : Variant} :
    variantLess x y = false ↔ y.m < x.m ∨ x.m = y.m ∧ (y.v < x.v ∨ x.v = y.v ∧ y.sc ≤ x.sc) := by
  rw [← Bool.not_eq_true]
  simp only [variantLess, Bool.or_eq_true, Bool.and_eq_true, decide_eq_true_eq]
  omega

theorem variantLess_irrefl (x : Variant) : variantLess x x = false := variantLess_eq_false.2 (by omega)

theorem variantLess_asymm {x y : Variant} (h : variantLess x y = true) : variantLess y x = false := by
  rw [← Bool.not_eq_false, variantLess_eq_false] at h
  exact variantLess_eq_false.2 (by omega)

theorem not_variantLess_trans {x y z : Variant} (hxy : variantLess x y = false) (hyz : variantLess y z = false) :
    variantLess x z = false := by
  rw [variantLess_eq_false] at *
  omega

/-- A step of the search keeps one of the two, and neither is preferred to it. -/
theorem preferred_some (b p : Nat × Variant) : ∃ w, preferred (some b) p = some w ∧ (w = b ∨ w = p) ∧
    variantLess w.2 b.2 = false ∧ variantLess w.2 p.2 = false := by
  by_cases hless : variantLess b.2 p.2 = true
  case pos => exact ⟨p, if_pos hless, .inr rfl, variantLess_asymm hless, variantLess_irrefl _⟩
  case neg => exact ⟨b, if_neg hless, .inl rfl, variantLess_irrefl _, Bool.eq_false_iff.2 hless⟩

/-- The search keeps one of the variants that it meets, and none of them is preferred to it. -/
theorem foldl_preferred (b : Nat × Variant) (l : List (Nat × Variant)) : ∃ z, l.foldl preferred (some b) = some z ∧
    z ∈ b :: l ∧ ∀ y ∈ b :: l, variantLess z.2 y.2 = false := by
  induction l generalizing b with
  | nil => exact ⟨b, rfl, List.mem_cons_self, by simp [variantLess_irrefl]⟩
  | cons p l ih =>
    obtain ⟨w, hw, hwbp, hwb, hwp⟩ := preferred_some b p
    obtain ⟨z, hz, hmem, hbest⟩ := ih w
    have hzw := hbest w List.mem_cons_self
    refine ⟨z, by rw [List.foldl_cons, hw, hz], ?_, ?_⟩
    · rcases List.mem_cons.1 hmem with rfl | hl
      · rcases hwbp with rfl | rfl <;> simp
      · simp [hl]
    · simp only [List.forall_mem_cons]
      exact ⟨not_variantLess_trans hzw hwb, not_variantLess_trans hzw hwp, fun y hy => hbest y (List.mem_cons_of_mem _ hy)⟩

/-- Without an exact match the search ends with a fitting variant to which no fitting one is preferred, or none fits. -/
theorem selectVariant_largest (h : (placedVariants vs).find? (exactWidths m v sc) = none) :
    (selectVariant vs m v sc = none ∧ ∀ p ∈ placedVariants vs, fitsWidths m v sc p = false) ∨
    ∃ z ∈ placedVariants vs, selectVariant vs m v sc = some z ∧ fitsWidths m v sc z = true ∧
      ∀ p ∈ placedVariants vs, fitsWidths m v sc p = true → variantLess z.2 p.2 = false := by
  rw [selectVariant_of_inexact h]
  rcases hfit : (placedVariants vs).filter (fitsWidths m v sc) with _ | ⟨b, l⟩
  case nil => exact .inl ⟨rfl, fun p hp => Bool.eq_false_iff.2 (List.filter_eq_nil_iff.1 hfit p hp)⟩
  case cons =>
    obtain ⟨z, hz, hmem, hbest⟩ := foldl_preferred b l
    rw [← hfit, List.mem_filter] at hmem
    refine .inr ⟨z, hmem.1, hz, hmem.2, fun p hp hpf => hbest p ?_⟩
    exact hfit ▸ List.mem_filter.2 ⟨hp, hpf⟩

/-- Settles O22: an exact match is the variant found, and no fitting one is larger; else the search of `selectVariant_largest` decides. -/
theorem variantSelection : Obligations.VariantSelection := by
  intro vs m v sc
  rcases hexact : (placedVariants vs).find? (exactWidths m v sc) with _ | p
  case some =>
    obtain ⟨j, z⟩ := p
    obtain ⟨hm, hv, hsc⟩ : z.m = m ∧ z.v = v ∧ z.sc = sc := exactWidths_iff.1 (List.find?_some hexact)
    have hplace := mem_placedVariants.1 (List.mem_of_find?_eq_some hexact)
    rw [selectVariant_of_exact hexact]
    refine ⟨?_, iff_of_false nofun fun hnone => hnone z (List.mem_of_getElem? hplace) (by omega)⟩
    rintro i x ⟨⟩
    exact ⟨hplace, by omega, by omega, by omega, fun _ => ⟨hm, hv, hsc⟩, fun y _ hym hyv hysc =>
      variantLess_eq_false.2 (by omega)⟩
  case none =>
    have hinexact : ¬∃ y ∈ vs, y.m = m ∧ y.v = v ∧ y.sc = sc := fun ⟨y, hy, hw⟩ => by
      obtain ⟨i, hi⟩ := exists_placed hy
      exact List.find?_eq_none.1 hexact _ hi (exactWidths_iff.2 hw)
    rcases selectVariant_largest hexact with ⟨hnone, hfit⟩ | ⟨z, hz, hsome, hfit, hbest⟩
    · rw [hnone]
      refine ⟨nofun, iff_of_true rfl fun y hy hw => ?_⟩
      obtain ⟨i, hi⟩ := exists_placed hy
      exact Bool.false_ne_true ((hfit _ hi).symm.trans (fitsWidths_iff.2 hw))
    · obtain ⟨hm, hv, hsc⟩ := fitsWidths_iff.1 hfit
      have hplace := mem_placedVariants.1 hz
      rw [hsome]
      refine ⟨?_, iff_of_false nofun fun hnone => hnone z.2 (List.mem_of_getElem? hplace) ⟨hm, hv, hsc⟩⟩
      rintro i x ⟨⟩
      refine ⟨hplace, hm, hv, hsc, fun h => absurd h hinexact, fun y hy hym hyv hysc => ?_⟩
      obtain ⟨j, hj⟩ := exists_placed hy
      exact hbest _ hj (fitsWidths_iff.2 ⟨hym, hyv, hysc⟩)

end Sys2Proof.Machine
end

section
/-! PROOFS. Strands (R110, R147, R149, R165, R418 to R431): what the start of a strand clears, and the choice, start, end and stop of a
stitch's strands. -/

namespace Sys2Proof.Machine

variable {s t : State} {l : Nat}

/-! ### The start of a strand -/

/-- The window of any lantern lies above the bobbins, where an unlisted byte reads as zero: `rb_clearScratch` holds of it too. -/
theorem rb_clearScratch_window (s : State) (l x : Nat) :
    rb (clearScratch s l) x = if scratchBase l ≤ x ∧ x < scratchBase l + 0x200000 then 0 else rb s x := by
  split
  next hx =>
    have hgone : tget (clearScratch s l).mem.cells x = none := tget_eq_none_of_filter fun v => by simp; omega
    have habove : 0xC000000000 ≤ x := Nat.le_trans (by unfold scratchBase; omega) hx.1
    rw [rb, cget, hgone, Option.getD_none, memDefault_scratch habove]
  next hx => exact cget_filter _ _ fun v => by simp; omega

/-- A lantern as a strand of context `c` that no image holds finds it: cleared when its last strand was another context's or its hoop slot
was re-bound since (R110, R165). -/
def takenLantern (s : State) (l c : Nat) : State :=
  let u := modLantern s l (fun y => { y with runList := y.runList.drop 1 })
  if (lantern s l).lastCtx ≠ some c ∨ (lantern s l).rebound = true then strandClear u l else u

/-- What is noted of a strand that has begun changes no lantern and no memory. -/
theorem worked_strandBegun (u : State) (r : StrandRef) (f : Strand → Strand) (q : Option Nat) (n : Nat) (h c x : Option Nat) (k : Nat) :
    worked u (showHoop (selCount (modStrand u r f) q 0x05 n h c x) k) :=
  (worked_modStrand u r f).trans ((booked_selCount _ q 0x05 n h c x).trans (booked_showHoop _ k)).worked

theorem beginStrand_unsaved (r : StrandRef) (x : Stitch) (d : Strand) (hs : (context s (queueCtx s r.queue)).saved = []) :
    (beginStrand s l r x d).mem = (takenLantern s l (queueCtx s r.queue)).mem ∧
    (lantern (beginStrand s l r x d) l).cache = (lantern (takenLantern s l (queueCtx s r.queue)) l).cache := by
  have hfind : (context (modLantern s l (fun y => { y with runList := y.runList.drop 1 })) (queueCtx s r.queue)).saved.find?
      (fun v => v.running.ref = r) = none := by
    show (context s (queueCtx s r.queue)).saved.find? _ = none
    rw [hs, List.find?_nil]
  unfold beginStrand
  dsimp only
  rw [hfind]
  refine ⟨(worked_strandBegun _ r _ _ _ _ _ _ _).mem, (congrArg Lantern.cache ((worked_strandBegun _ r _ _ _ _ _ _ _).lantern l)).trans ?_⟩
  simp only [lantern_modLantern_same]
  rfl

/-- Settles O24: a strand that no image holds finds what `takenLantern` leaves. -/
theorem strandStartIsolates : Obligations.StrandStartIsolates := by
  intro s l r x d hs
  obtain ⟨hmem, hcache⟩ := beginStrand_unsaved (l := l) r x d hs
  refine ⟨fun hother => ?_, fun hlast hbound a => ?_⟩
  · rw [takenLantern, if_pos hother] at hmem hcache
    refine ⟨by rw [hcache, strandClear, lantern_modLantern_same], fun a => ?_⟩
    exact (rb_of_mem (t := beginStrand s l r x d) (s := clearScratch s l) hmem a).trans (rb_clearScratch_window s l a)
  · have hsame : ¬((lantern s l).lastCtx ≠ some (queueCtx s r.queue) ∨ (lantern s l).rebound = true) := by simp [hlast, hbound]
    rw [takenLantern, if_neg hsame] at hmem
    exact rb_of_mem hmem a

/-! ### STITCH_CHOOSE and STRAND_START -/

section choice
variable {h c : Nat}

theorem stitchChoose_of_stopped (hr : enginesRun s = false) : stitchChoose s h = s := by
  rw [stitchChoose, hr]
  rfl

section running
variable (hr : enginesRun s = true)
include hr

theorem stitchChoose_of_restore (hc : (hoopCtxs s h).find? (mayRestore s h) = some c) :
    stitchChoose s h = showHoop (placeSaved s h c) h := by
  simp only [stitchChoose, hr, hc]
  rfl

variable (hn : (hoopCtxs s h).find? (mayRestore s h) = none)
include hn

/-- Saved strands wait for room: nothing new is chosen (R425, R431). -/
theorem stitchChoose_of_saved (hw : (hoopCtxs s h).any (restores s) = true) : stitchChoose s h = stall s 3 := by
  simp only [stitchChoose, hr, hn, hw]
  rfl

theorem stitchChoose_of_staged {q e : Nat} (hw : (hoopCtxs s h).any (restores s) = false) (hc : nextContext s h = some c)
    (hf : firstStaged s c = some (q, e)) :
    stitchChoose s h = showHoop (placeStitch (takeShares (modHoop s h (fun x => { x with favored := none })) h) h q e) h := by
  simp only [stitchChoose, hr, hn, hw, hc, hf]
  rfl

end running
end choice

section starting
variable {r : StrandRef} {rest : List StrandRef}

theorem strandStart_of_busy (hc : (lantern s l).cur ≠ none) : strandStart s l = s := by
  obtain ⟨r, hr⟩ := Option.ne_none_iff_exists'.1 hc
  simp only [strandStart, hr]

theorem strandStart_of_leaving (hl : (lantern s l).runList = r :: rest) (hx : (context s (queueCtx s r.queue)).leaving = true) :
    strandStart s l = s := by
  cases hc : (lantern s l).cur with
  | some x => exact strandStart_of_busy (by simp [hc])
  | none => simp only [strandStart, hc, hl, hx, Bool.or_true, if_true]

/-- The lantern, and for a saved strand the clocks of its image, are ready (R53, R110, R425). -/
theorem strandStart_begins {u : State} {f : Flight} {x : Stitch} {d : Strand} (hc : (lantern s l).cur = none)
    (hl : (lantern s l).runList = r :: rest) (hreset : lanternResetting s l = false)
    (hx : (context s (queueCtx s r.queue)).leaving = false)
    (hready : (lanternReady s l).andThen (fun _ s => restoreClock s r) = .ok () u) (hf : flight u r.queue r.entry = some f)
    (ht : f.stitch = some x) (hd : x.strands[r.idx]? = some d) : strandStart s l = beginStrand u l r x d := by
  simp only [strandStart, hc, hl, hreset, hx, hready, hf, Option.bind_some, ht, hd, Bool.or_self, Bool.false_eq_true, if_false]

end starting

/-! ### STRAND_COMPLETE and STITCH_STOP -/

theorem dropEngines_mem (engs : List Eng) (s : State) : (engs.foldl (fun s g => dropEngX (dropEng s g) g) s).mem = s.mem :=
  foldl_field State.mem (g := fun s g => dropEngX (dropEng s g) g) (fun _ _ => rfl) engs s

@[simp] theorem releaseLantern_mem (s : State) (l : Nat) : (releaseLantern s l).mem = s.mem := by
  unfold releaseLantern
  dsimp only [dropPicots]
  rw [dropEngines_mem]

theorem strandComplete_of_running {r : Running} (hc : (lantern s l).cur = some r) (ho : strandOver s l r = false) :
    strandComplete s l = s := by
  simp only [strandComplete, hc, ho]
  rfl

/-- A lantern whose strand `r` is over: its time is charged, and the lantern holds nothing of it but what its L1s do (R147, R421, R433). -/
def laidDown (s : State) (l : Nat) (r : Running) : State :=
  let u := releaseLantern (chargeLantern s r.ctx (lanKind l) r.since) l
  modLantern u l (fun x => { x with
    cur := none, engines := [none, none, none, none], chain := [[], [], [], []], idleAt := wick u, dma := [],
    prefetch := x.prefetch.bind (fun p => if p.1 = r.ref then none else some p),
    cores := x.cores.map (fun c => { coreOff with l1 := c.l1, il1 := c.il1 }) })

theorem laidDown_mem (s : State) (l : Nat) (r : Running) : (laidDown s l r).mem = s.mem := by
  rw [laidDown, modLantern_mem, releaseLantern_mem, (booked_chargeLantern _ _ _ _).mem]

/-- What is then noted of the strand and its stitch changes no lantern and no memory. -/
theorem strandComplete_of_over {r : Running} (hc : (lantern s l).cur = some r) (ho : strandOver s l r = true) :
    worked (laidDown s l r) (strandComplete s l) := by
  simp only [strandComplete, hc, ho, Bool.not_true, Bool.false_eq_true, if_false]
  refine worked.trans ?_ ((worked_stitchCheck _ _ _).trans (booked_showHoop _ _).worked)
  exact (worked_modFlight _ _ _ _).trans ((worked_modFlight _ _ _ _).trans (worked_modStrand _ _ _))

theorem stitchStop_of_ended {q e : Nat} {r : Running} (hl : l ∈ stitchLanterns s q e) (hc : (lantern s l).cur = some r)
    (he : r.ended = true) : stitchStop s q e = stitchCheck (stopStitch s q e) q e :=
  if_pos (List.any_eq_true.2 ⟨l, hl, by simp only [hc, he]⟩)

theorem stitchStop_of_none {q e : Nat} (hl : stitchLanterns s q e = []) : stitchStop s q e = s := by
  simp only [stitchStop, hl, List.any_nil, Bool.false_eq_true, if_false]

/-- Settles O23: each clause is one case of `stitchChoose`, `strandStart`, `strandComplete` or `stitchStop`. -/
theorem strandsRun : Obligations.StrandsRun := by
  refine ⟨?_, ?_, ?_, ?_, ?_, ?_, ?_, ?_, ?_, ?_, ?_⟩
  · intro s h c q e hs hr hn hw hc hf
    exact next_unlessSafe hs (stitchChoose_of_staged hr hn hw hc hf)
  · intro s h hs hr hn hw
    exact next_unlessSafe hs (stitchChoose_of_saved hr hn hw)
  · intro s h c hs hr hc
    exact next_unlessSafe hs (stitchChoose_of_restore hr hc)
  · intro s h hr
    exact next_unlessSafe_self (stitchChoose_of_stopped hr)
  · intro s u l r rest f x d hs hc hl hreset hx hready hf ht hd
    exact next_unlessSafe hs (strandStart_begins hc hl hreset hx hready hf ht hd)
  · intro s l hc
    exact next_unlessSafe_self (strandStart_of_busy hc)
  · intro s l r rest hl hx
    exact next_unlessSafe_self (strandStart_of_leaving hl hx)
  · intro s l r hs hc ho
    have hover := strandComplete_of_over hc ho
    refine ⟨_, next_unlessSafe hs rfl, ?_, hover.mem.trans (laidDown_mem s l r)⟩
    rw [hover.lantern, laidDown, lantern_modLantern_same]
  · intro s l r hc ho
    exact next_unlessSafe_self (strandComplete_of_running hc ho)
  · intro s q e l r hs hl hc he
    exact next_unlessSafe hs (stitchStop_of_ended hl hc he)
  · intro s q e hl
    exact next_unlessSafe_self (stitchStop_of_none hl)

end Sys2Proof.Machine
end

section
/-! PROOFS. Accesses of the bobbins (R157, R239 to R243, R500, R570). -/

namespace Sys2Proof.Machine

variable {s : State} {b off : Nat} {data : List Byte} {poison : Bool}

/-- A run that crosses no multiple of `k` is one piece. -/
theorem cut_eq_singleton {k a n : Nat} (hn : n ≠ 0) (h : a % k + n ≤ k) : cut k a n = [(a, n)] := by
  have hlen : min n (k - a % k) = n := Nat.min_eq_left (by omega)
  have hrest : ∀ fuel, pieces k fuel (a + n) 0 = [] := by rintro (_ | _) <;> rfl
  rw [cut, pieces, if_neg hn]
  dsimp only
  rw [hlen, Nat.sub_self, hrest]

theorem bobbinRead_running {len : Nat} (hb : b < 12) (ho : off + len ≤ 0xFC0000000) (hp : pll s (bobQuarter b) = .running)
    (hs : s.snuffer.safe = false) : bobbinRead s b off len = answerData (readRun s devWho (b * 0x1000000000 + off) len 0) := by
  rw [bobbinRead, if_neg (by simp only [hs, Bool.false_eq_true, or_false]; omega), needClock_running hp]

/-- A write of a part of a block waits at the controller behind the merges that wait there (R240). -/
def mergeWaits (s : State) (a : Nat) (data : List Byte) (poison : Bool) : State :=
  let u := clearResv s a data.length
  { u with mem := { u.mem with merges := u.mem.merges ++ [{ addr := a, data := data, poison := poison }] } }

/-- A write within one block, its clocks running and its memory held by no image: the block is stored, or the part waits (R239, R240). -/
theorem bobbinWrite_within (hb : b < 12) (hd : data ≠ []) (hin : off % 512 + data.length ≤ 512)
    (ho : off + data.length ≤ 0xFC0000000) (hi : imageHolds s (b * 0x1000000000 + off) data.length = false)
    (hp : pll s (bobQuarter b) = .running) (hs : s.snuffer.safe = false) :
    bobbinWrite s b off data poison = reply
      (if data.length = 512 then writeBlock s devWho (b * 0x1000000000 + off) data poison
       else mergeWaits s (b * 0x1000000000 + off) data poison) [] false 0 := by
  have hcut : cut 512 (b * 0x1000000000 + off) data.length = [(b * 0x1000000000 + off, data.length)] :=
    cut_eq_singleton (by simpa using hd) (by omega)
  rw [bobbinWrite]
  dsimp only
  rw [if_neg (by simp only [hs, hi, Bool.false_eq_true, or_false]; omega), needClock_running hp, hcut]
  simp only [List.foldl_cons, List.foldl_nil, Nat.sub_self, List.drop_zero, List.take_length]
  rfl

theorem bobbinWrite_refused (h : s.snuffer.safe = true ∨ imageHolds s (b * 0x1000000000 + off) data.length = true) :
    bobbinWrite s b off data poison = refuse s .rights :=
  if_pos (.inr (.inr h))

theorem bobbinRead_refused {len : Nat} (hs : s.snuffer.safe = true) : bobbinRead s b off len = refuse s .rights :=
  if_pos (.inr (.inr hs))

/-- Dropping the first element that is equal to one. -/
theorem dropFirst_append {α : Type} [DecidableEq α] {front back : List α} {m : α} (h : m ∉ front) :
    dropFirst (fun x => x == m) (front ++ m :: back) = front ++ back := by
  induction front with
  | nil => simp [dropFirst]
  | cons x front ih =>
    rw [List.mem_cons, not_or] at h
    rw [List.cons_append, dropFirst, if_neg (by simpa using Ne.symm h.1), ih h.2, List.cons_append]

/-- The oldest merge that waits at a bobbin leaves the queue from among those of other bobbins, and is performed (R240). -/
theorem partialBlockMerge_oldest {m : Merge} {front back : List Merge} (hq : s.mem.merges = front ++ m :: back)
    (hfront : ∀ x ∈ front, x.addr / 0x1000000000 ≠ b) (hm : m.addr / 0x1000000000 = b) :
    partialBlockMerge s b = performMerge { s with mem := { s.mem with merges := front ++ back } } m := by
  have hfind : s.mem.merges.find? (fun m => decide (m.addr / 0x1000000000 = b)) = some m := by
    rw [hq, List.find?_append, List.find?_eq_none.2 fun x hx => by simpa using hfront x hx, Option.none_or,
      List.find?_cons_of_pos (by simpa using hm)]
  have hnew : m ∉ front := fun h => hfront m h hm
  rw [partialBlockMerge, hfind]
  dsimp only
  rw [hq, dropFirst_append hnew]

/-- Settles O17: accesses within one block by `bobbinWrite_within`, a merge by `performMerge` on the queue without it. -/
theorem bobbinAccesses : Obligations.BobbinAccesses := by
  refine ⟨?_, ?_, ?_, ?_, ?_, ?_⟩
  · intro s b off len hb ho hp hs
    exact congrArg Host.Outcome.next (bobbinRead_running hb ho hp hs)
  · intro s b off d poison hb hoff hlen ho hi hp hs
    refine congrArg Host.Outcome.next ((bobbinWrite_within hb (List.ne_nil_of_length_pos (by omega)) (by omega) (by omega)
      (hlen.symm ▸ hi) hp hs).trans ?_)
    rw [if_pos hlen]
  · intro s b off d poison hb hd hin hlen ho hi hp hs
    refine ⟨reply (mergeWaits s (b * 0x1000000000 + off) d poison) [] false 0,
      congrArg Host.Outcome.next ((bobbinWrite_within hb hd hin ho hi hp hs).trans ?_), rfl, rfl, rfl⟩
    rw [if_neg (by omega)]
  · intro s b m front back hs hq hfront hm
    have hmerge := partialBlockMerge_oldest hq hfront hm
    subst hm
    refine ⟨_, rfl, fun hr => next_unlessSafe hs (hmerge.trans (if_neg (by simp [hr]))), fun hr =>
      next_unlessSafe hs (hmerge.trans (if_pos hr))⟩
  · intro s b off d poison hi
    exact congrArg Host.Outcome.next (bobbinWrite_refused (.inr hi))
  · intro s b off len d poison hs
    exact ⟨congrArg Host.Outcome.next (bobbinRead_refused hs), congrArg Host.Outcome.next (bobbinWrite_refused (.inl hs))⟩

end Sys2Proof.Machine
end

section
/-! PROOFS. The ops of a strand that move data, hold it or signal (R109, R120, R121, R131, R132, R142 to R148). -/

namespace Sys2Proof.Machine

open Sys2Proof.Safety

variable {s t : State} {l : Nat} {i : Issue}

/-! ### The issue of an op -/

theorem issueOp_of_wait {code : Nat} {g : State → Issue → State} (hn : nextOp s l = .wait t) : issueOp s l code g = t := by
  simp only [issueOp, hn]

theorem lantern_issued_cur (st : Status) : (lantern (issued t l st) l).cur = (lantern t l).cur.map (fun r => { r with
    busy := r.busy ++ [r.pos], pos := r.pos + 1, row := 0, begun := false, pois := false, bad := [],
    status := statusMax r.status st }) := by
  rw [issued, lantern_modLantern_same]

@[simp] theorem lantern_issued_cache (st : Status) : (lantern (issued t l st) l).cache = (lantern t l).cache := by
  rw [issued, lantern_modLantern_same]

@[simp] theorem issued_mem (st : Status) : (issued t l st).mem = t.mem := rfl

/-- An op that has issued, `op`, holds back the later ones, and waits or not (R146). -/
def heldAfter (s : State) (l op : Nat) (w : Bool) : State :=
  modLantern (issued s l .ok) l (fun x => { x with cur := x.cur.map (fun r => { r with waitOp := some op, waiting := w }) })

theorem cur_heldAfter {r : Running} (hr : (lantern t l).cur = some r) (op : Nat) (w : Bool) :
    (lantern (heldAfter t l op w) l).cur = some { strandHeld r op with waiting := w } := by
  rw [heldAfter, lantern_modLantern_same, lantern_issued_cur, hr]
  rfl

/-- A WAIT whose fence is to be waited for has issued, and its wait is registered (R407). -/
def waitRegistered (s : State) (l : Nat) (i : Issue) : State :=
  addWait (heldAfter s l i.run.pos true) { fence := opFence i.ws, who := .lan l, value := (wordAt i.ws 2).toNat, qf2 := false }

theorem mem_waits_addWait (s : State) (w : Wait) : w ∈ (addWait s w).waits := by
  unfold addWait
  split
  next h => simpa using h
  next => simp

/-! ### LOAD and ALLOC -/

section issuing
variable (hn : nextOp s l = .ok i t)
include hn

theorem load_by_pieces (hc : opCode i.ws = 1) (hp : prefetched t l i = none) :
    load s l = byPieces l (doLoad t (opAcc t l i) (scratchBase l) (some l) i.ws (movedOf i.run)) := by
  refine (issueOp_of_nextOp hn hc).trans ?_
  simp only [hp]

/-- The rows come from the prefetch buffer, which is empty afterwards (R386). -/
theorem load_of_prefetched {bs : List Byte} (hc : opCode i.ws = 1) (hp : prefetched t l i = some bs) :
    load s l = issued (modLantern (writeRuns t ((List.range (lsRows i.ws)).map (fun r =>
      (scratchBase l + lsOff i.ws r, (bs.drop (r * lsLen i.ws)).take (lsLen i.ws)))) false) l
      (fun x => { x with prefetch := none })) l .ok := by
  refine (issueOp_of_nextOp hn hc).trans ?_
  simp only [hp]

/-- The request stands last in the allocator's queue, and the op holds back the later ones (R132, R416). -/
theorem alloc_of_nextOp (hc : opCode i.ws = 8) : alloc s l = modLantern (issued { t with allocQ := t.allocQ ++
      [.opAlloc l i.run.pos (context t i.run.ctx).hoop i.run.ctx (wordAt i.ws 1).toNat (opParam i.ws 5 0)
        (fld (wordAt i.ws 2) 63 43) (decide (opParam i.ws 15 15 = 1))] } l .ok) l
      (fun x => { x with cur := x.cur.map (fun r => { r with waitOp := some i.run.pos }) }) :=
  issueOp_of_nextOp hn hc

theorem cur_alloc {r : Running} (hc : opCode i.ws = 8) (hr : (lantern t l).cur = some r) :
    (lantern (alloc s l) l).cur = some (strandHeld r i.run.pos) := by
  have hr' (q : List AllocReq) : (lantern { t with allocQ := q } l).cur = some r := hr
  rw [alloc_of_nextOp hn hc, lantern_modLantern_same, lantern_issued_cur, hr']
  rfl

/-! ### WAIT -/

section waiting
variable (hc : opCode i.ws = 9)
include hc

theorem wait_of_denied (hw : waitNow t (opFence i.ws) i.run.ctx (wordAt i.ws 2).toNat = .denied) : wait s l = opFails t l .rights := by
  refine (issueOp_of_nextOp hn hc).trans ?_
  simp only [hw]

theorem wait_of_met (hw : waitNow t (opFence i.ws) i.run.ctx (wordAt i.ws 2).toNat = .met) :
    wait s l = heldAfter t l i.run.pos false := by
  refine (issueOp_of_nextOp hn hc).trans ?_
  simp only [hw, heldAfter]

theorem wait_of_error (hw : waitNow t (opFence i.ws) i.run.ctx (wordAt i.ws 2).toNat = .error) :
    wait s l = endStrand (heldAfter t l i.run.pos false) l .fenceError := by
  refine (issueOp_of_nextOp hn hc).trans ?_
  simp only [hw, heldAfter]

/-- The wait is registered, and the activity of the hoop's contexts is shown (R407, R422). -/
theorem wait_of_later (hw : waitNow t (opFence i.ws) i.run.ctx (wordAt i.ws 2).toNat = .later) :
    wait s l = showHoop (waitRegistered t l i) (context (waitRegistered t l i) i.run.ctx).hoop := by
  refine (issueOp_of_nextOp hn hc).trans ?_
  simp only [hw, waitRegistered, heldAfter]

end waiting

/-! ### SIGNAL -/

section signalling
variable (hc : opCode i.ws = 10)
include hc

theorem signal_of_denied (hf : fenceMay t (opFence i.ws) i.run.ctx = false) : signal s l = opFails t l .rights := by
  refine (issueOp_of_nextOp hn hc).trans ?_
  simp only [hf, Bool.not_false, if_true]

theorem signal_of_local (hf : fenceMay t (opFence i.ws) i.run.ctx = true) (ha : (fence t (opFence i.ws)).alias_ = false) :
    signal s l = signalLocal (issued t l .ok) (opFence i.ws) (wordAt i.ws 2).toNat (decide (opParam i.ws 12 12 = 1)) false := by
  have hlocal : (fence (issued t l .ok) (opFence i.ws)).alias_ = false := ha
  refine (issueOp_of_nextOp hn hc).trans ?_
  simp only [hf, engineSignal, hlocal, Bool.not_true, Bool.false_eq_true, if_false]

end signalling
end issuing

/-! ### INVAL -/

/-- Does an INVAL drop a line of the data cache: it drops all, or its run, not empty, meets the line (R109, R131)? -/
def invalHits (a : Acc) (ws : List Word) (x : Line) : Bool :=
  let va := (wordAt ws 1).toNat % 2 ^ 57
  let n := (wordAt ws 2).toNat
  decide (opParam ws 15 15 = 1)
    || (decide (0 < n) && decide (x.hoop = a.hoop) && decide (x.aspace = a.aspace) && decide (x.va < va + n) && decide (va < x.va + 128))

theorem invalHits_of_all {a : Acc} {ws : List Word} {x : Line} (h : opParam ws 15 15 = 1) : invalHits a ws x = true := by
  simp [invalHits, h]

theorem invalHits_of_run {a : Acc} {ws : List Word} {x : Line} (h : opParam ws 15 15 = 0) : invalHits a ws x = true ↔
    wordAt ws 2 ≠ 0 ∧ x.hoop = a.hoop ∧ x.aspace = a.aspace ∧ x.va < (wordAt ws 1).toNat % 2 ^ 57 + (wordAt ws 2).toNat ∧
      (wordAt ws 1).toNat % 2 ^ 57 < x.va + 128 := by
  have hpos : 0 < (wordAt ws 2).toNat ↔ wordAt ws 2 ≠ 0 := by
    bv_omega
  simp [invalHits, h, hpos, and_assoc]

theorem inval_of_nextOp (hn : nextOp s l = .ok i t) (hc : opCode i.ws = 11) :
    (lantern (inval s l) l).cache = (lantern t l).cache.filter (fun x => !invalHits (opAcc t l i) i.ws x) ∧ (inval s l).mem = t.mem := by
  have hinval : inval s l = issued (modLantern t l (fun x => { x with
      cache := x.cache.filter (fun y => !invalHits (opAcc t l i) i.ws y) })) l .ok := issueOp_of_nextOp hn hc
  rw [hinval]
  simp

/-! ### TILE_OP_COMPLETE -/

theorem tileOpComplete_of_absent {op : Nat} {r : Running} (hr : (lantern s l).cur = some r) (ho : op ∉ r.busy) :
    tileOpComplete s l op = s := by
  simp only [tileOpComplete, hr]
  rw [if_pos (by simp [ho])]

/-- Nothing of the op is outstanding and no remap holds a write of the lantern: the op has completed (R142, R145, R505). -/
theorem tileOpComplete_of_quiet {op : Nat} {r : Running} (hr : (lantern s l).cur = some r) (ho : op ∈ r.busy)
    (hw : r.waitOp ≠ some op) (hq : s.fab.remotes = []) (hh : remapHeld s (fun e => decide (e = .lan l)) = false) :
    (tileOpComplete s l op).mem = s.mem ∧
    (lantern (tileOpComplete s l op) l).cur = some { r with busy := r.busy.filter (fun i => i ≠ op), opAt := s.clk.wick } := by
  simp only [tileOpComplete, hr, hq, List.filter_nil, List.any_nil, hh, List.filterMap_nil, List.foldl_nil, if_true]
  rw [if_neg (by simp [ho, hw])]
  refine ⟨(booked_selCount _ _ _ _ _ _ _).mem, (congrArg Lantern.cur ((booked_selCount _ _ _ _ _ _ _).lantern l)).trans ?_⟩
  have hcur : (lantern (dropAnswered s (.lan l) op) l).cur = some r := hr
  rw [progressed, lantern_modLantern_same, lantern_modLantern_same]
  dsimp only
  rw [hcur, Option.map_some, Option.map_some, if_neg hw]
  rfl

/-- Settles O27: each command is `issueOp` of its opcode, and the cases of what it does with the op are the lemmas before. -/
theorem movesAndControlOps : Obligations.MovesAndControlOps := by
  refine ⟨?_, ?_, ?_, ?_, ?_, ?_, ?_, ?_, ?_, ?_, ?_, ?_, ?_, ?_, ?_⟩
  · intro s t l i hn hc hp
    exact congrArg Host.Outcome.next (load_by_pieces hn hc hp)
  · intro s t l i bs hn hc hp
    exact congrArg Host.Outcome.next (load_of_prefetched hn hc hp)
  · intro s t l i hn hc
    exact congrArg Host.Outcome.next (issueOp_of_nextOp hn hc)
  · intro s t l i r hn hc hr
    refine ⟨alloc s l, rfl, ?_, cur_alloc hn hc hr, ?_⟩
    · rw [alloc_of_nextOp hn hc]; rfl
    · rw [alloc_of_nextOp hn hc]; rfl
  · intro s t l i hn hc hw
    exact congrArg Host.Outcome.next (wait_of_denied hn hc hw)
  · intro s t l i r hn hc hr hw
    refine ⟨_, congrArg Host.Outcome.next (wait_of_met hn hc hw), rfl, cur_heldAfter hr _ _⟩
  · intro s t l i hn hc hw
    refine ⟨_, congrArg Host.Outcome.next (wait_of_later hn hc hw), ?_⟩
    rw [(booked_showHoop _ _).waits]
    exact mem_waits_addWait _ _
  · intro s t l i hn hc hw
    exact congrArg Host.Outcome.next (wait_of_error hn hc hw)
  · intro s t l i hn hc hf ha
    exact congrArg Host.Outcome.next (signal_of_local hn hc hf ha)
  · intro s t l i hn hc hf
    exact congrArg Host.Outcome.next (signal_of_denied hn hc hf)
  · intro s t l i hn hc ha
    obtain ⟨hcache, hmem⟩ := inval_of_nextOp hn hc
    refine ⟨_, rfl, ?_, hmem⟩
    rw [hcache]
    simp [invalHits_of_all ha]
  · intro s t l i hn hc ha
    obtain ⟨hcache, hmem⟩ := inval_of_nextOp hn hc
    refine ⟨_, rfl, hmem, fun x => ?_⟩
    rw [hcache, List.mem_filter, Bool.not_eq_true', ← Bool.not_eq_true, invalHits_of_run ha]
    rfl
  · intro s l op r hs hr ho hw hq hh
    exact ⟨_, next_unlessSafe hs rfl, tileOpComplete_of_quiet hr ho hw hq hh⟩
  · intro s l op r hr ho
    exact next_unlessSafe_self (tileOpComplete_of_absent hr ho)
  · intro s t l hn
    refine ⟨?_, ?_, ?_, ?_, ?_, ?_⟩ <;> exact congrArg Host.Outcome.next (issueOp_of_wait hn)

end Sys2Proof.Machine
end

section
/-! PROOFS. The DMA engine of an S lantern (R145, R146, R177, R178). -/

namespace Sys2Proof.Machine

variable {s u : State} {l : Nat} {o : DmaOp} {back : List DmaOp}

/-! ### Readiness -/

theorem eq_of_needClock {q : Nat} (h : needClock s q = .ok () u) : u = s := by
  cases hp : pll s q with
  | running => rw [needClock_running hp] at h; exact (Out.ok.inj h).2.symm
  | starting => rw [needClock_starting hp] at h; cases h
  | stopped =>
    cases hb : backupDrowse s with
    | true => rw [needClock_drowse hp hb] at h; cases h
    | false => rw [needClock_stopped hp hb] at h; cases h

theorem eq_of_wakeLantern (h : wakeLantern s l = .ok () u) : u = s := by
  unfold wakeLantern at h
  split at h
  · exact (Out.ok.inj h).2.symm
  · cases h
  · split at h <;> cases h
  · split at h <;> cases h

theorem eq_ok_of_andThen {α β : Type} {x : Out α} {f : α → State → Out β} {v : β} (h : x.andThen f = .ok v u) :
    ∃ a w, x = .ok a w ∧ f a w = .ok v u := by
  cases x with
  | ok a w => exact ⟨a, w, rfl, h⟩
  | wait w => cases h
  | fail st w => cases h

/-- A lantern that may issue is awake with its clocks, and finding that out changes nothing. -/
theorem eq_of_lanternReady (h : lanternReady s l = .ok () u) : u = s := by
  have hclocks : (needClock s (lanQuarter l)).andThen (fun _ s => wakeLantern s l) = .ok () u := by
    unfold lanternReady at h
    dsimp only at h
    by_contra hno
    rw [ite_eq_iff] at h
    exact h.elim (fun h => nomatch h.2) (fun h => hno h.2)
  obtain ⟨_, w, hclock, hwake⟩ := eq_ok_of_andThen hclocks
  rw [eq_of_wakeLantern hwake, eq_of_needClock hclock]

/-! ### Scratchpad writes and lantern records -/

theorem writeScratch_modLantern (s : State) (l a : Nat) (g : Lantern → Lantern) (bs : List Byte) (poison : Bool) :
    writeScratch (modLantern s l g) a bs poison = modLantern (writeScratch s a bs poison) l g := by
  cases poison <;> rfl

theorem writeRuns_modLantern (s : State) (l : Nat) (g : Lantern → Lantern) (runs : List (Nat × List Byte)) :
    writeRuns (modLantern s l g) runs false = modLantern (writeRuns s runs false) l g := by
  have hfold : runs.foldl (fun s r => writeScratch s r.1 r.2 false) (modLantern s l g) =
      modLantern (runs.foldl (fun s r => writeScratch s r.1 r.2 false) s) l g :=
    List.foldl_hom (fun s => modLantern s l g) fun s r => writeScratch_modLantern s l r.1 g r.2 false
  rw [writeRuns, hfold]
  rfl

/-- A ZERO writes memory alone: it and a change of a lantern record may change places (R130). -/
theorem doZero_modLantern (s : State) (l base : Nat) (g : Lantern → Lantern) (ws : List Word) :
    doZero (modLantern s l g) base ws = modLantern (doZero s base ws) l g := writeRuns_modLantern _ _ _ _

theorem lantern_doZero (s : State) (l base : Nat) (ws : List Word) : lantern (doZero s base ws) l = lantern s l := by
  have hrun (s : State) (r : Nat × List Byte) : lantern (writeScratch s r.1 r.2 false) l = lantern s l := rfl
  exact foldl_field (fun s => lantern s l) (g := fun s r => writeScratch s r.1 r.2 false) hrun _ s

/-! ### DMA_OP_START -/

/-- A change of the op at the front of the queue leaves it there. -/
theorem dma_modDma_head {c k : Nat} {f : DmaOp → DmaOp} (h : (lantern s l).dma = o :: back) (hc : o.core = c) (hk : o.ticket = k) :
    ∃ rest, (lantern (modDma s l c k f) l).dma = f o :: rest := by
  rw [modDma, lantern_modLantern_same]
  exact ⟨_, by rw [h, List.map_cons, if_pos ⟨hc, hk⟩]⟩

/-- The op at the front has not started and may: the engine works on it (R177). -/
theorem dmaOpStart_next {r : Running} {t : Stitch} {d : Strand} (hd : (lantern s l).dma = o :: back) (ho : o.running = false)
    (hr : (lantern s l).cur = some r) (he : r.ended = false) (hs : strandOf s r = some (t, d)) (hready : lanternReady s l = .ok () u)
    (hmay : dmaMay [] o = true) : dmaOpStart s l = dmaWork u l r t o := by
  simp only [dmaOpStart, hr, hd, hs, hready, List.takeWhile_cons, ho, Bool.false_eq_true, if_false, List.length_nil, List.drop_zero,
    List.head?_cons, hmay, he, Bool.not_false, Bool.and_self, if_true]

theorem dmaOpStart_of_empty (hd : (lantern s l).dma = []) (hready : lanternReady s l = .ok () s) : dmaOpStart s l = s := by
  cases hr : (lantern s l).cur with
  | none => simp only [dmaOpStart, hr]
  | some r =>
    cases hs : strandOf s r with
    | none => simp only [dmaOpStart, hr, hs]
    | some x => simp only [dmaOpStart, hr, hs, hready, hd, List.takeWhile_nil, List.drop_nil, List.head?_nil, List.filter_nil, List.foldl_nil]

/-- A ZERO is done at its start: the zeros stand in memory, and the op is issued, at the front of the queue (R130, R177). -/
theorem dmaWork_zero (r : Running) (t : Stitch) (hd : (lantern u l).dma = o :: back) (hop : opCode o.op = 7) :
    (dmaWork u l r t o).mem = (doZero u (scratchBase l) o.op).mem ∧
    ∃ o' rest, (lantern (dmaWork u l r t o) l).dma = o' :: rest ∧ o'.issued = true ∧ o'.core = o.core ∧ o'.ticket = o.ticket := by
  simp only [dmaWork, dmaPerform, hop]
  refine ⟨?_, ?_⟩
  · rw [modLantern_mem, modDma, modLantern_mem, modDma, modLantern_mem, modDma, doZero_modLantern, modLantern_mem]
  · obtain ⟨rest, h⟩ := dma_modDma_head (f := fun x => { x with running := true }) hd rfl rfl
    rw [← lantern_doZero _ l (scratchBase l) o.op] at h
    obtain ⟨rest, h⟩ := dma_modDma_head (f := fun x => { x with row := o.row, poison := o.poison, bad := o.bad }) h rfl rfl
    obtain ⟨rest, h⟩ := dma_modDma_head (f := fun x => { x with issued := true }) h rfl rfl
    rw [lantern_modLantern_same]
    exact ⟨_, rest, h, rfl, rfl, rfl⟩

/-! ### DMA_OP_COMPLETE -/

theorem dma_modCore (s : State) (l c : Nat) (f : Core → Core) : (lantern (modCore s l c f) l).dma = (lantern s l).dma := by
  rw [modCore, lantern_modLantern_same]

theorem dmaOpComplete_of_absent {c k : Nat} (h : ∀ d ∈ (lantern s l).dma, ¬(d.core = c ∧ d.ticket = k)) : dmaOpComplete s l c k = s := by
  have hfind : (lantern s l).dma.find? (fun d => decide (d.core = c) && decide (d.ticket = k)) = none :=
    List.find?_eq_none.2 fun d hd => by simpa using h d hd
  rw [dmaOpComplete, hfind]

/-- Nothing of the op at the front is outstanding: it leaves the queue (R178). -/
theorem dmaOpComplete_of_quiet (hd : (lantern s l).dma = o :: back) (hi : o.issued = true) (hw : o.waiting = false)
    (hq : s.fab.remotes = []) (hh : remapHeld s (fun e => decide (e = .dma l)) = false) :
    (dmaOpComplete s l o.core o.ticket).mem = s.mem ∧
    (lantern (dmaOpComplete s l o.core o.ticket) l).dma =
      (lantern s l).dma.filter (fun e => !(decide (e.core = o.core) && decide (e.ticket = o.ticket))) := by
  have hfind : (lantern s l).dma.find? (fun d => decide (d.core = o.core) && decide (d.ticket = o.ticket)) = some o := by
    rw [hd, List.find?_cons_of_pos (by simp)]
  rw [dmaOpComplete, hfind]
  simp only [hi, hw, hq, hh, List.filter_nil, List.any_nil, List.filterMap_nil, List.foldl_nil, Bool.not_true, Bool.or_self,
    Bool.false_eq_true, if_false, if_true]
  split
  · exact ⟨rfl, by rw [dma_modCore, lantern_modLantern_same]; rfl⟩
  · exact ⟨rfl, by rw [lantern_modLantern_same]; rfl⟩

/-- Settles O33: a start by `dmaOpStart_next` and `dmaWork_zero`, a completion by `dmaOpComplete_of_quiet`. -/
theorem dmaOps : Obligations.DmaOps := by
  refine ⟨?_, ?_, ?_, ?_⟩
  · intro s u l r t d o back hs hd ho hr he hstrand hready hmay hop
    refine ⟨_, next_unlessSafe hs (dmaOpStart_next hd ho hr he hstrand hready hmay), ?_⟩
    obtain rfl := eq_of_lanternReady hready
    exact dmaWork_zero r t hd hop
  · intro s l hd hready
    exact next_unlessSafe_self (dmaOpStart_of_empty hd hready)
  · intro s l o back hs hd hi hw hq hh
    obtain ⟨hmem, hdma⟩ := dmaOpComplete_of_quiet hd hi hw hq hh
    refine ⟨_, next_unlessSafe hs rfl, hmem, fun e => ?_⟩
    rw [hdma, List.mem_filter, Bool.not_eq_true', ← Bool.not_eq_true, Bool.and_eq_true, decide_eq_true_eq, decide_eq_true_eq]
  · intro s l c k h
    exact next_unlessSafe_self (dmaOpComplete_of_absent h)

end Sys2Proof.Machine
end

section
/-! PROOFS. Queue entries: their reading and admission (R379 to R383), SEAM and FENCE (R150, R376), kernel images (R156, R157, R377,
R378), completion records (R388 to R394) and refused reads of host memory (R184, R382, R615). -/

namespace Sys2Proof.Machine

open Sys2Proof.Safety

variable {s t u : State} {q e k : Nat} {f : Flight} {ws : List Word} {st : Status}

/-! ### ENTRY_READ -/

theorem entryRead_of_empty (h : sqHead (queue s q) = (queue s q).tail) : entryRead s q = s := by
  simp only [entryRead, h, decide_true, Bool.or_true, Bool.true_or, if_true]

section reading
variable (ha : queueState s q = 1) (ht : sqHead (queue s q) ≠ (queue s q).tail) (hr : queueRuns s q = true)
  (hf : isQf2 (queue s q) = false)
include ha ht hr hf

theorem entryRead_of_read (hw : feWords s (feAcc s q (houseClass s (queueHoop s q))) (ent (queue s q).row 1 +
      128 * (sqHead (queue s q) % sqSize (queue s q))) 16 = .ok ws u) :
    entryRead s q = showQueue (modQueue (feDone u q) q (fun x => { x with entries := x.entries ++ [(sqHead (queue s q), ws)] })) q := by
  simp [entryRead, ha, ht, hr, hf, hw]

/-- The ring cannot be read (R382). -/
theorem entryRead_of_fail (hw : feWords s (feAcc s q (houseClass s (queueHoop s q))) (ent (queue s q).row 1 +
      128 * (sqHead (queue s q) % sqSize (queue s q))) 16 = .fail st u) : entryRead s q = queueError (feDone u q) q 2 := by
  simp [entryRead, ha, ht, hr, hf, hw]

end reading

/-! ### ENTRY_ADMIT -/

theorem entryAdmit_of_empty (h : (queue s q).entries = []) : entryAdmit s q = s := by
  simp only [entryAdmit, h]

section admitting
variable {back : List (Nat × List Word)} (ha : queueState s q = 1) (hd : (queue s q).destroy = none)
  (hq : (queue s q).entries = (k, ws) :: back) (hadm : admissible s q ws = (true, u))
include ha hd hq hadm

theorem entryAdmit_of_malformed (hr : entryRulesOk (hoopRole s (queueHoop s q)) (isQf2 (queue s q)) ws = false) :
    entryAdmit s q = finishFlight (admitEntry s q k ws [] []) q k .format := by
  simp [entryAdmit, hq, ha, hd, hadm, hr]

theorem entryAdmit_of_pass (hr : entryRulesOk (hoopRole s (queueHoop s q)) (isQf2 (queue s q)) ws = true)
    (hg : entryGate s q k ws = .pass) : entryAdmit s q = admitFront s q k ws := by
  simp [entryAdmit, hq, ha, hd, hadm, hr, hg]

end admitting

/-! ### The admission of an image -/

theorem queue_feDone (s : State) (q p : Nat) : queue (feDone s q) p = queue s p := rfl

/-- An admission changes no image, and leaves the queue's row as it is. -/
theorem admitEntry_frame (s : State) (q k : Nat) (ws desc : List Word) (waitOn : List Nat) :
    (∀ h, hoop (admitEntry s q k ws desc waitOn) h = hoop s h) ∧
    (queue (admitEntry s q k ws desc waitOn) q).row = (queue s q).row := by
  refine ⟨fun h => ?_, ?_⟩
  · rw [admitEntry, (booked_showActivity _ _).hoop, (booked_showQueue _ _).hoop, (worked_feDone _ _).hoop,
      (booked_selCount _ _ _ _ _ _ _).hoop, (worked_modQueue _ _ _).hoop]
  · rw [admitEntry, (booked_showActivity _ _).queue, (booked_showQueue _ _).queue, queue_feDone,
      (booked_selCount _ _ _ _ _ _ _).queue, queue_modQueue_same]

theorem imageHolds_congr (h : ∀ n, hoop t n = hoop s n) (a n : Nat) : imageHolds t a n = imageHolds s a n := by
  simp only [imageHolds, h]

section imaging
variable (hop : entryOp ws = 8)
include hop

theorem admitFront_of_image : admitFront s q k ws = admitImage s q k ws := if_pos hop

theorem admitFront_of_emptyImage (h0 : ent ws 8 = 0) : admitFront s q k ws = finishFlight (admitEntry s q k ws [] []) q k .format :=
  (admitFront_of_image hop).trans (if_pos h0)

variable (h0 : ent ws 8 ≠ 0)
include h0

theorem admitFront_of_badDest (hd : imageDest s q (ent ws 7) (ent ws 8) = .fail st u) :
    admitFront s q k ws = finishFlight (admitEntry u q k ws [] []) q k .rights := by
  rw [admitFront_of_image hop, admitImage, if_neg h0, hd]

variable {parts : List (Nat × Nat)} (hd : imageDest s q (ent ws 7) (ent ws 8) = .ok parts u)
include hd

theorem admitFront_of_heldDest (hp : ∃ p ∈ parts, imageHolds u p.1 p.2 = true) :
    admitFront s q k ws = finishFlight (admitEntry u q k ws [] []) q k .rights := by
  rw [admitFront_of_image hop, admitImage, if_neg h0, hd]
  have hheld : parts.any (fun p => imageHolds (admitEntry u q k ws [] []) p.1 p.2) = true := by
    simpa [imageHolds_congr (admitEntry_frame u q k ws [] []).1] using hp
  exact if_pos hheld

/-- The destination is held by an image that is loading (R377). -/
theorem images_admitFront (hp : ∀ p ∈ parts, imageHolds u p.1 p.2 = false) :
    (hoop (admitFront s q k ws) (queueHoop u q)).images = (hoop u (queueHoop u q)).images ++
      [{ queue := q, entry := k, handle := 0, loading := true, parts := parts, code := [] }] := by
  obtain ⟨hhoop, hrow⟩ := admitEntry_frame u q k ws [] []
  have hfree : ¬parts.any (fun p => imageHolds (admitEntry u q k ws [] []) p.1 p.2) = true := by
    simpa [imageHolds_congr hhoop] using hp
  have hqueue : queueHoop (admitEntry u q k ws [] []) q = queueHoop u q := by rw [queueHoop, hrow, queueHoop]
  rw [admitFront_of_image hop, admitImage, if_neg h0, hd]
  dsimp only
  rw [if_neg hfree, hqueue, hoop_modHoop_same, hhoop]

end imaging

/-! ### SEAM and FENCE -/

theorem completeOp_of_admitted {op : Nat} (hf : flight s q e = some f) (ha : f.phase = .admitted) (hop : entryOp f.words = op) :
    completeOp s q e op = finishFlight s q e .ok := by
  simp only [completeOp, hf, ha, hop, and_self, if_true]

/-! ### IMAGE_LOAD, IMAGE_LOAD_DONE and IMAGE_UNLOAD -/

theorem imageLoad_of_absent (hi : loadingImage s (queueHoop s q) q e = none) : imageLoad s q e = s := by
  unfold imageLoad
  rw [hi]
  split
  next h => cases h
  next => rfl

theorem mem_waitForMover (s : State) (a : Nat) (j : MoverJob) : (a, j) ∈ (waitForMover s a j).moverQ := by
  simp [waitForMover]

theorem flight_modFlight {g : Flight → Flight} (hf : flight s q e = some f) (hg : ∀ x, (g x).entry = x.entry) :
    flight (modFlight s q e g) q e = some (g f) := by
  have hentry : f.entry = e := by simpa using List.find?_some hf
  have hsame : (fun x : Flight => decide (x.entry = e)) ∘ (fun y => if y.entry = e then g y else y) = fun x => decide (x.entry = e) := by
    funext x
    by_cases hx : x.entry = e <;> simp [hx, hg]
  rw [flight, modFlight, queue_modQueue_same]
  dsimp only
  rw [List.find?_map, hsame]
  show Option.map _ (flight s q e) = _
  rw [hf, Option.map_some, if_pos hentry]

theorem inPhase_of_flight {ph : Phase} (hf : flight s q e = some f) (hp : f.phase = ph) : inPhase s q e ph = true := by
  simp only [inPhase, hf, hp, decide_true]

/-- The instruction L1s of a hoop's S cores are emptied (R166). -/
def codeDropped (s : State) (h : Nat) : State :=
  (descLanterns (hoop s h).desc 2).foldl
    (fun s l => modLantern s l (fun x => { x with cores := x.cores.map (fun c => { c with il1 := [] }) })) s

theorem codeDropped_frame (s : State) (h : Nat) : (codeDropped s h).mem = s.mem ∧ (codeDropped s h).hoops = s.hoops :=
  Prod.mk.inj (foldl_field (fun s => (s.mem, s.hoops))
    (g := fun s l => modLantern s l (fun x => { x with cores := x.cores.map (fun c => { c with il1 := [] }) })) (fun _ _ => rfl) _ s)

section imaging
variable {i : Image} (hf : flight s q e = some f)
include hf

/-- The copy is handed to a mover of the destination's quarter, and the entry runs (R377). -/
theorem imageLoad_hands_over (ha : f.phase = .admitted) (hop : entryOp f.words = 8)
    (hi : loadingImage s (queueHoop s q) q e = some i) :
    ∃ j, (addrQuarter (i.parts.headD (0, 0)).1, j) ∈ (imageLoad s q e).moverQ ∧ j.work = 1 ∧ j.queue = q ∧ j.entry = e ∧
      inPhase (imageLoad s q e) q e .running = true := by
  have hgo : ¬(f.phase ≠ .admitted ∨ entryOp f.words ≠ 8) := by simp [ha, hop]
  unfold imageLoad
  simp only [hf, hi, if_neg hgo]
  exact ⟨_, mem_waitForMover _ _ _, rfl, rfl, rfl, inPhase_of_flight (flight_modFlight hf fun _ => rfl) rfl⟩

theorem imageUnload_of_absent (ha : f.phase = .admitted) (hop : entryOp f.words = 9)
    (hi : ∀ i ∈ (hoop s (queueHoop s q)).images, i.loading = true ∨ i.handle ≠ fld (wordAt f.words 0) 3 0) :
    imageUnload s q e = finishFlight s q e .format := by
  have hnone : (hoop s (queueHoop s q)).images.any (fun i => !i.loading && decide (i.handle = fld (wordAt f.words 0) 3 0)) = false :=
    List.any_eq_false.2 fun i h => by
      rcases hi i h with hl | hh
      · simp [hl]
      · simp [hh]
  simp only [imageUnload, hf, ha, hop, hnone, ne_eq, not_true_eq_false, or_self, if_false, Bool.not_false, if_true]

/-- No strand is waited for: the image is gone from the hoop, and the code of its cores (R166, R378). -/
theorem imageUnload_of_loaded (ha : f.phase = .admitted) (hop : entryOp f.words = 9)
    (hi : i ∈ (hoop s (queueHoop s q)).images) (hl : i.loading = false) (hh : i.handle = fld (wordAt f.words 0) 3 0)
    (hw : f.waitOn = []) : imageUnload s q e = finishFlight (modHoop (codeDropped s (queueHoop s q)) (queueHoop s q)
      (fun x => { x with images := x.images.filter (fun i => i.loading || decide (i.handle ≠ fld (wordAt f.words 0) 3 0)) })) q e .ok := by
  have hsome : (hoop s (queueHoop s q)).images.any (fun i => !i.loading && decide (i.handle = fld (wordAt f.words 0) 3 0)) = true :=
    List.any_eq_true.2 ⟨i, hi, by simp [hl, hh]⟩
  simp only [imageUnload, hf, ha, hop, hsome, hw, ne_eq, not_true_eq_false, or_self, if_false, Bool.not_true, Bool.false_eq_true,
    List.any_nil]
  rfl

end imaging

/-- What IMAGE_LOAD_DONE finds of a copy: the failure it ended with, poison, or what the validation of its bytes says (R156, R377). -/
def imageVerdict (s : State) (f : Flight) (bs : List Byte) (bad : Bool) : Status :=
  if f.status ≠ .ok then f.status else if bad then .poison else validateImage s bs

section copied
variable {i : Image} {h : Nat} {bs : List Byte} {bad : Bool} (hf : flight s q e = some f) (hop : entryOp f.words = 8)
  (hp : f.phase = .running) (hx : f.aux = 2) (hh : h = queueHoop s q) (hi : loadingImage s h q e = some i)
  (hr : readParts s { eng := .fe, hoop := some h, ctx := some (queueCtx s q), flow := houseFlow s h } i.parts = ((bs, bad), u))
include hf hop hp hx hh hi hr

theorem imageLoadDone_of_bad (hv : imageVerdict u f bs bad ≠ .ok) :
    imageLoadDone s q e = finishFlight (dropImage u q e) q e (imageVerdict u f bs bad) := by
  subst hh
  simp only [imageLoadDone, hf, hop, hp, hx, hi, hr, ne_eq, not_true_eq_false, or_self, if_false]
  split
  next h _ => exact absurd h hv
  next h _ => exact absurd h hv
  next => rfl

theorem imageLoadDone_of_full (hv : imageVerdict u f bs bad = .ok) (hk : freeHandle u h = none) :
    imageLoadDone s q e = finishFlight (dropImage u q e) q e .allocFail := by
  subst hh
  unfold imageVerdict at hv
  unfold freeHandle at hk
  simp only [imageLoadDone, hf, hop, hp, hx, hi, hr, ne_eq, not_true_eq_false, or_self, if_false]
  rw [hv, hk]

/-- The image is loaded under the lowest free handle, which is the entry's detail (R157). -/
theorem imageLoadDone_of_valid (hv : imageVerdict u f bs bad = .ok) (hk : freeHandle u h = some k) :
    imageLoadDone s q e = finishFlight (modFlight (modHoop u h (fun x => { x with images := x.images.map (fun y =>
      if y = i then { y with loading := false, handle := k, code := imageCode bs i.parts } else y) })) q e
      (fun f => { f with detail := k })) q e .ok := by
  subst hh
  unfold imageVerdict at hv
  unfold freeHandle at hk
  simp only [imageLoadDone, hf, hop, hp, hx, hi, hr, ne_eq, not_true_eq_false, or_self, if_false]
  rw [hv, hk]

end copied

/-! ### COMPLETION_RECORD_WRITE -/

theorem completionRecordWrite_of_none (h : nextRecord s q = none) : completionRecordWrite s q = s := by
  simp only [completionRecordWrite, h]

theorem confirms_any_work (h : ∀ c ∈ s.fab.confirms, c.1 ≠ .work q e) :
    s.fab.confirms.any (fun c => decide (c.1 = .work q e)) = false :=
  List.any_eq_false.2 fun c hc => by simpa using h c hc

section recording
variable (hn : nextRecord s q = some f)
include hn

/-- A confirming read behind the entry's own host writes is outstanding (R390). -/
theorem completionRecordWrite_of_unconfirmed {p : Nat} (hs : queueState s q ≠ 2) (hc : (.work q f.entry, p) ∈ s.fab.confirms) :
    completionRecordWrite s q = s := by
  have hwait : s.fab.confirms.any (fun c => decide (c.1 = .work q f.entry)) = true :=
    List.any_eq_true.2 ⟨_, hc, by simp⟩
  simp only [completionRecordWrite, hn, if_neg hs, hwait, or_true, if_true]

theorem completionRecordWrite_of_undeliverable (hs : queueState s q = 2) :
    completionRecordWrite s q = if (queue s q).resuming = true then resumeQueue s q else s := by
  simp only [completionRecordWrite, hn, hs, if_true]

section active
variable (hs : queueState s q = 1) (hd : (queue s q).destroy = none) (hc : ∀ c ∈ s.fab.confirms, c.1 ≠ .work q f.entry)
include hs hd hc

theorem completionRecordWrite_of_written (hput : putRecord s q (flightRecord (queue s q) f) = .ok () u) :
    completionRecordWrite s q = endEntry u q f := by
  simp [completionRecordWrite, hn, hs, confirms_any_work hc, recordsDropped, hd, hput]

/-- A record that faults is held: the queue is UNDELIVERABLE, and the record's address is shown (R393). -/
theorem completionRecordWrite_of_faulted (hput : putRecord s q (flightRecord (queue s q) f) = .fail st u) :
    completionRecordWrite s q = setReg (setQueueState u q 2) 0x900013 q (recordVa (queue s q)) := by
  simp [completionRecordWrite, hn, hs, confirms_any_work hc, recordsDropped, hd, hput]

end active
end recording

/-! ### HOST_READ_ERROR -/

/-- The front end's read of an entry that its queue still has to read is refused: counted at the port, and the queue is in ERROR (R382). -/
theorem hostReadError_of_entry {va : Word} (ha : queueState s q = 1) (hd : (queue s q).destroy = none)
    (ht : sqHead (queue s q) ≠ (queue s q).tail) :
    hostReadError s .fe q true va = queueError (feDone (countP s (hoopPort s (queueHoop s q)) 7 1) q) q 2 := by
  have hstate (p : Nat) : queueState (countP s p 7 1) q = 1 :=
    (congrArg (fun w => fld w 63 60) (cell_setCell_entry s _ _ _ _ _ _ _ (by decide))).trans ha
  have hopen : ringLost (queue s q) = false := by rw [ringLost, hd]
  exact if_pos ⟨.inl (hstate _), hopen, ht⟩

/-- Settles O52: each clause is one case of its command, by the lemmas before; what becomes of an image at its admission by
`admitEntry_frame`. -/
theorem queueEntries : Obligations.QueueEntries := by
  refine ⟨?_, ?_, ?_, ?_, ?_, ?_, ?_, ?_, ?_, ?_, ?_, ?_, ?_, ?_, ?_, ?_, ?_⟩
  · intro s u q ws hs ha ht hr hf hw
    exact next_unlessSafe hs (entryRead_of_read ha ht hr hf hw)
  · intro s u q st hs ha ht hr hf hw
    exact next_unlessSafe hs (entryRead_of_fail ha ht hr hf hw)
  · intro s q h
    exact next_unlessSafe_self (entryRead_of_empty h)
  · intro s u q k ws back hs ha hd hq hadm
    exact ⟨fun hr => next_unlessSafe hs (entryAdmit_of_malformed ha hd hq hadm hr), fun hr hg =>
      next_unlessSafe hs (entryAdmit_of_pass ha hd hq hadm hr hg)⟩
  · intro s q h
    exact next_unlessSafe_self (entryAdmit_of_empty h)
  · intro s q e f hf ha
    exact ⟨fun hop => congrArg Host.Outcome.next (completeOp_of_admitted hf ha hop),
      fun hop => congrArg Host.Outcome.next (completeOp_of_admitted hf ha hop),
      fun _ hi => congrArg Host.Outcome.next (imageLoad_of_absent hi),
      fun hop hi => congrArg Host.Outcome.next (imageUnload_of_absent hf ha hop hi)⟩
  · intro s q k ws hop
    exact ⟨admitFront_of_emptyImage hop, fun st u h0 hd => admitFront_of_badDest hop h0 hd, fun parts u h0 hd =>
      ⟨admitFront_of_heldDest hop h0 hd, images_admitFront hop h0 hd⟩⟩
  · intro s q e f i hf ha hop hi
    obtain ⟨j, hj⟩ := imageLoad_hands_over hf ha hop hi
    exact ⟨_, j, rfl, hj⟩
  · intro s q e f i hf ha hop hi hl hh hw
    refine ⟨_, congrArg Host.Outcome.next (imageUnload_of_loaded hf ha hop hi hl hh hw), ?_, fun x hx => ?_⟩
    · rw [(worked_finishFlight _ _ _ _).mem, modHoop_mem, (codeDropped_frame _ _).1]
    · rw [(worked_finishFlight _ _ _ _).hoop, hoop_modHoop_same] at hx
      dsimp only at hx
      simpa using (List.mem_filter.1 hx).2
  · intro s q e f i hs hf hop hp hx hi hst
    rcases hr : readParts s { eng := .fe, hoop := some (queueHoop s q), ctx := some (queueCtx s q), flow := houseFlow s (queueHoop s q) }
      i.parts with ⟨⟨bs, bad⟩, u⟩
    have hv : imageVerdict u f bs bad = .rights := by simp [imageVerdict, hst]
    exact ⟨u, next_unlessSafe hs ((imageLoadDone_of_bad hf hop hp hx rfl hi hr (by simp [hv])).trans (by rw [hv]))⟩
  · intro s u q e h f i bs hs hf hop hp hx hh hi hst hr
    have hv : imageVerdict u f bs false = validateImage u bs := by simp [imageVerdict, hst]
    refine ⟨fun hok k hk => ?_, fun hok hk => ?_, fun hbad => ?_⟩
    · exact next_unlessSafe hs (imageLoadDone_of_valid hf hop hp hx hh hi hr (hv.trans hok) hk)
    · exact next_unlessSafe hs (imageLoadDone_of_full hf hop hp hx hh hi hr (hv.trans hok) hk)
    · exact next_unlessSafe hs ((imageLoadDone_of_bad hf hop hp hx hh hi hr (hv ▸ hbad)).trans (by rw [hv]))
  · intro s u q f hs ha hd hn hc
    exact ⟨fun hput => next_unlessSafe hs (completionRecordWrite_of_written hn ha hd hc hput),
      fun st hput => next_unlessSafe hs (completionRecordWrite_of_faulted hn ha hd hc hput)⟩
  · intro s q hn
    exact next_unlessSafe_self (completionRecordWrite_of_none hn)
  · intro s q p f hs hn hc
    exact next_unlessSafe_self (completionRecordWrite_of_unconfirmed hn hs hc)
  · intro s q f hs h2 hn
    exact next_unlessSafe hs (completionRecordWrite_of_undeliverable hn h2)
  · intro s l c q fetch va hs
    exact ⟨next_unlessSafe hs rfl, next_unlessSafe hs rfl⟩
  · intro s q va hs ha hd ht
    exact next_unlessSafe hs (hostReadError_of_entry ha hd ht)

end Sys2Proof.Machine
end

section
/-! SUPPORT. The cores of an S lantern: what an issued instruction does, and what a change of a core and a retirement leave alone (R157,
R162, R184). -/

namespace Sys2Proof.Machine

open Sys2Proof.Safety

variable {s t u : State} {l c len : Nat} {f : Core → Core} {g : State → State}

/-! ### The issue of an instruction -/

theorem safe_of_coreLive (h : coreLive s l c = true) : s.snuffer.safe = false := by
  by_contra hs
  simp [coreLive, enginesRun, hs] at h

/-- A core that goes on does what its instruction does, from the state that the fetch leaves. -/
theorem coreStep_of_goes (h : coreGoes s u l c len) (g : State → State) : coreStep s l c len g = g u := by
  obtain ⟨va, hf⟩ := h.fetched
  simp [coreStep, h.live, h.ready, h.wrs, h.stall, h.elsewhere, hf]

theorem next_coreStep (h : coreGoes s u l c len) (hg : g u = t) :
    (Host.Outcome.next (coreStep s l c len g) : Host.Outcome State Fault Refusal) = .next t :=
  congrArg Host.Outcome.next ((coreStep_of_goes h g).trans hg)

/-- A core that goes on is not in safe state: CORE_INSTRUCTION does what the instruction does. -/
theorem exec_coreInstruction (h : coreGoes s u l c len) (short : Bool) (hlen : len = if short then 2 else 4) (op : CoreOp) :
    exec (.coreInstruction l c short op) s = .next (coreOp u l c len op) := by
  subst hlen
  exact next_unlessSafe (safe_of_coreLive h.live) (coreStep_of_goes h _)

/-! ### Core records -/

/-- A core that is started is one of its lantern's. -/
theorem cores_of_on (h : (core s l c).on = true) : (lantern s l).cores[c]? = some (core s l c) := by
  rw [core, List.getD_eq_getElem?_getD] at h ⊢
  cases hc : (lantern s l).cores[c]? with
  | none => rw [hc] at h; exact absurd h (by decide)
  | some k => rfl

theorem core_modCore_same (h : (core s l c).on = true) (f : Core → Core) : core (modCore s l c f) l c = f (core s l c) := by
  have hc := cores_of_on h
  have hlt : c < (lantern s l).cores.length := (List.getElem?_eq_some_iff.1 hc).1
  conv_lhs => rw [core, modCore, lantern_modLantern_same]
  simp only [hc]
  rw [List.getD_eq_getElem?_getD, List.getElem?_set_self hlt]
  rfl

theorem core_modCore_other {k : Nat} (hk : k ≠ c) (f : Core → Core) : core (modCore s l c f) l k = core s l k := by
  conv_lhs => rw [core, modCore, lantern_modLantern_same]
  rw [core]
  cases (lantern s l).cores[c]? with
  | none => rfl
  | some _ => simp [hk.symm]

theorem core_of_lantern (h : (lantern t l).cores = (lantern s l).cores) (k : Nat) : core t l k = core s l k := by
  rw [core, h, core]

/-! ### Retirement -/

/-- A core that has retired an instruction of `len` bytes (R162). -/
def retiredCore (len : Nat) (k : Core) : Core := { k with pc := k.pc + wd len, instret := k.instret + 1, stall := .none }

theorem booked_countRetired (s : State) (l : Nat) : booked s (countRetired s l) := by
  unfold countRetired
  split
  · exact .refl s
  · exact booked_selCount _ _ _ _ _ _ _

/-- A retirement changes the core, notes the lantern's progress, and counts. -/
theorem booked_retire (s : State) (l c len : Nat) (f : Core → Core) : booked
    (progressed (modLantern (modCore s l c (fun k => retiredCore len (f k))) l (fun x => { x with run := min x.run 1 })) l)
    (retire s l c len f) := booked_countRetired _ l

@[simp] theorem retire_mem (s : State) (l c len : Nat) (f : Core → Core) : (retire s l c len f).mem = s.mem := (booked_retire s l c len f).mem

theorem retire_fab (s : State) (l c len : Nat) (f : Core → Core) : (retire s l c len f).fab = s.fab := by
  obtain ⟨cs, rs, h⟩ := booked_retire s l c len f
  rw [h]
  rfl

theorem cores_retire (s : State) (l c len : Nat) (f : Core → Core) :
    (lantern (retire s l c len f) l).cores = (lantern (modCore s l c (fun k => retiredCore len (f k))) l).cores := by
  rw [(booked_retire s l c len f).lantern, progressed, lantern_modLantern_same, lantern_modLantern_same]

theorem dma_retire (s : State) (l c len : Nat) (f : Core → Core) : (lantern (retire s l c len f) l).dma = (lantern s l).dma := by
  rw [(booked_retire s l c len f).lantern, progressed, lantern_modLantern_same, lantern_modLantern_same, dma_modCore]

theorem core_retire_same (h : (core s l c).on = true) (len : Nat) (f : Core → Core) :
    core (retire s l c len f) l c = retiredCore len (f (core s l c)) := by
  rw [core_of_lantern (cores_retire s l c len f), core_modCore_same h]

theorem core_retire_other {k : Nat} (hk : k ≠ c) (len : Nat) (f : Core → Core) : core (retire s l c len f) l k = core s l k := by
  rw [core_of_lantern (cores_retire s l c len f), core_modCore_other hk]

/-! ### Registers -/

theorem getD_set {α : Type} {xs : List α} {i : Nat} (hi : i < xs.length) (j : Nat) (v d : α) :
    (xs.set i v).getD j d = if j = i then v else xs.getD j d := by
  by_cases h : j = i
  · subst h
    simp [hi]
  · simp [h, Ne.symm h]

/-- x[rd] after a write of it, x0 apart; every other register is as before. -/
theorem getD_setX {k : Core} {rd : Nat} (hx : k.x.length = 32) (hrd : rd < 32) (v : Word) (r : Nat) :
    (setX rd v k).x.getD r 0 = if rd ≠ 0 ∧ r = rd then v else k.x.getD r 0 := by
  by_cases h0 : rd = 0
  · simp [setX, h0]
  · simp only [setX, h0, if_false, getD_set (hx ▸ hrd), ne_eq, not_false_eq_true, true_and]

/-- What a retired instruction leaves in x[r] is what its effect on the core leaves there. -/
theorem xr_retire (h : (core s l c).on = true) (len : Nat) (f : Core → Core) (r : Nat) :
    xr (retire s l c len f) l c r = (f (core s l c)).x.getD r 0 := by
  rw [xr, core_retire_same h, retiredCore]

end Sys2Proof.Machine
end

section
/-! PROOFS. The register results of a core's instructions, and its CSRs (R158, R159, R183 to R185). -/

namespace Sys2Proof.Machine

open Sys2Proof.Safety

variable {s u v : State} {l c w : Nat} {old new : Word}

/-! ### Integer instructions -/

theorem intOp_of_illegal (h : WellFormed.intWordOk w = false) : intOp u l c w = coreTrap u l c 2 (wd w) := by
  simp [intOp, h]

/-- What an integer instruction does to its core, its pc set back by its own length (R159). -/
def intEffect (w : Nat) (k : Core) : Core :=
  { (match (intResult k w).1 with | some v => setX (w / 2 ^ 7 % 32) v k | none => k) with pc := (intResult k w).2 - 4 }

theorem intOp_of_legal (h : WellFormed.intWordOk w = true) : intOp u l c w = retire u l c 4 (intEffect w) := by
  simp only [intOp, h, Bool.not_true, Bool.false_eq_true, if_false]
  rfl

theorem getD_intEffect {k : Core} (hx : k.x.length = 32) (r : Nat) : (intEffect w k).x.getD r 0 =
    if r ≠ 0 ∧ r = w / 2 ^ 7 % 32 then (intResult k w).1.getD (k.x.getD r 0) else k.x.getD r 0 := by
  have hrd : w / 2 ^ 7 % 32 < 32 := Nat.mod_lt _ (by decide)
  unfold intEffect
  cases (intResult k w).1 with
  | none => simp
  | some v =>
    have hsame : (w / 2 ^ 7 % 32 ≠ 0 ∧ r = w / 2 ^ 7 % 32) ↔ (r ≠ 0 ∧ r = w / 2 ^ 7 % 32) :=
      and_congr_left fun e => by rw [e]
    exact (getD_setX hx hrd v r).trans (if_congr hsame rfl rfl)

theorem instret_intEffect {k : Core} : (retiredCore 4 (intEffect w k)).instret = k.instret + 1 := by
  unfold intEffect
  cases (intResult k w).1 <;> rfl

/-! ### CSRs -/

/-- A CSR that can be written is read without a change of the state (R159, R183). -/
theorem eq_of_csrPut {csr : Nat} {k k' : Core} {o : Option Word} (hp : csrPut csr new k = some k') (hv : csrValue u l c csr = (o, v)) :
    v = u := by
  unfold csrPut at hp
  split at hp
  case h_8 => cases hp
  all_goals
    simp only [csrValue] at hv
    exact (congrArg Prod.snd hv).symm

section value
variable (hv : csrValue u l c (w / 2 ^ 20) = (some old, v))
include hv

/-- The read alone: CSRRS or CSRRC of x0 or 0. -/
theorem csrOp_of_read (hf : w / 2 ^ 12 % 4 ≠ 0) (h1 : w / 2 ^ 12 % 4 ≠ 1) (hr : w / 2 ^ 15 % 32 = 0) :
    csrOp u l c 4 w = retire v l c 4 (setX (w / 2 ^ 7 % 32) old) := by
  have hmod : w / 2 ^ 12 % 8 % 4 = w / 2 ^ 12 % 4 := by omega
  simp only [csrOp, hv, hmod]
  rw [if_neg hf, if_pos ⟨h1, hr⟩]

section csrrw
variable (h1 : w / 2 ^ 12 % 8 = 1)
include h1

/-- CSRRW of a CSR that takes the value. -/
theorem csrOp_of_written {k : Core} (hp : csrPut (w / 2 ^ 20) (xr u l c (w / 2 ^ 15 % 32)) (core v l c) = some k) :
    csrOp u l c 4 w = retire v l c 4 (fun k =>
      setX (w / 2 ^ 7 % 32) old ((csrPut (w / 2 ^ 20) (xr u l c (w / 2 ^ 15 % 32)) k).getD k)) := by
  simp only [csrOp, hv, h1, hp, Nat.reduceMod, Nat.reduceLeDiff, one_ne_zero, ne_eq, not_true, false_and, if_false]

/-- CSRRW of a CSR that is read-only. -/
theorem csrOp_of_readOnly (hp : csrPut (w / 2 ^ 20) (xr u l c (w / 2 ^ 15 % 32)) (core v l c) = none) :
    csrOp u l c 4 w = coreTrap u l c 2 (wd w) := by
  simp only [csrOp, hv, h1, hp, Nat.reduceMod, Nat.reduceLeDiff, one_ne_zero, ne_eq, not_true, false_and, if_false]

end csrrw
end value

theorem csrOp_of_none (hv : csrValue u l c (w / 2 ^ 20) = (none, v)) : csrOp u l c 4 w = coreTrap u l c 2 (wd w) := by
  simp only [csrOp, hv]

/-- Settles O28: each clause is what `retire` leaves of the core, with the instruction's own effect on it. -/
theorem coreRegisterResults : Obligations.CoreRegisterResults := by
  refine ⟨?_, ?_, ?_, ?_, ?_, ?_, ?_⟩
  · intro s u l c rd flags short v hgo hx hrd
    refine ⟨_, exec_coreInstruction hgo short rfl _, fun r _ => ?_, ?_⟩
    · exact (xr_retire hgo.stays _ _ r).trans (getD_setX hx hrd v r)
    · simp only [coreOp, core_retire_same hgo.stays]
      exact ⟨rfl, rfl, by cases short <;> rfl, rfl, rfl, retire_mem _ _ _ _ _, fun k hk => core_retire_other hk _ _⟩
  · intro s u l c rd flags short v hgo hf hrd
    refine ⟨_, exec_coreInstruction hgo short rfl _, ?_⟩
    simp only [coreOp, core_retire_same hgo.stays]
    exact ⟨fun r _ => getD_set (hf ▸ hrd) r v 0, rfl, by cases short <;> rfl, retire_mem _ _ _ _ _⟩
  · intro s u l c rd short target hgo hx hrd
    refine ⟨_, exec_coreInstruction hgo short rfl _, ?_, fun r _ => ?_⟩
    · simp only [coreOp, core_retire_same hgo.stays]
      exact sub_add_cancel target _
    · refine (xr_retire hgo.stays _ _ r).trans ((getD_setX hx hrd _ r).trans ?_)
      cases short <;> rfl
  · intro s u l c w hgo hx hw
    refine ⟨_, _, rfl, (exec_coreInstruction hgo false rfl _).trans (congrArg Host.Outcome.next (intOp_of_legal hw)), ?_, ?_, ?_, ?_⟩
    · rw [core_retire_same hgo.stays]
      exact sub_add_cancel _ _
    · exact fun r _ => (xr_retire hgo.stays _ _ r).trans (getD_intEffect hx r)
    · rw [core_retire_same hgo.stays]
      exact instret_intEffect
    · exact retire_mem _ _ _ _ _
  · intro s u l c w hgo hw
    exact (exec_coreInstruction hgo false rfl _).trans (congrArg Host.Outcome.next (intOp_of_illegal hw))
  · intro s u v l c w old hgo hx hv hf
    refine ⟨_, rfl, fun h1 hr => ?_, fun h1 k hp => ?_, fun h1 hp => ?_⟩
    · exact (exec_coreInstruction hgo false rfl _).trans (congrArg Host.Outcome.next (csrOp_of_read hv hf h1 hr))
    · have hsame := eq_of_csrPut hp hv
      subst hsame
      have hrd : w.toNat / 2 ^ 7 % 32 < 32 := Nat.mod_lt _ (by decide)
      refine ⟨_, (exec_coreInstruction hgo false rfl _).trans (congrArg Host.Outcome.next (csrOp_of_written hv h1 hp)), ?_⟩
      rw [core_retire_same hgo.stays, xr_retire hgo.stays, hp]
      exact ⟨rfl, rfl, rfl, fun h0 hkx _ => (getD_setX (hkx ▸ hx) hrd old _).trans (if_pos ⟨h0, rfl⟩)⟩
    · exact (exec_coreInstruction hgo false rfl _).trans (congrArg Host.Outcome.next (csrOp_of_readOnly hv h1 hp))
  · intro s u v l c w hgo hv
    exact (exec_coreInstruction hgo false rfl _).trans (congrArg Host.Outcome.next (csrOp_of_none hv))

end Sys2Proof.Machine
end

section
/-! PROOFS. A core's loads, stores, atomics, cache operations and fences (R159 to R164, R180, R246, R266, R270). -/

namespace Sys2Proof.Machine

open Sys2Proof.Safety

variable {s t u : State} {l c len rd rs1 rs2 : Nat}

/-! ### Loads and stores -/

theorem coreDone_ok {α : Type} {o : Out α} {x : α} (h : o = .ok x t) (l c cause va : Nat) (f : α → State → State) :
    coreDone o l c cause va f = f x t := by
  rw [h, coreDone]

theorem coreDone_wait {α : Type} {o : Out α} (h : o = .wait t) (l c cause va : Nat) (f : α → State → State) :
    coreDone o l c cause va f = t := by
  rw [h, coreDone]

/-- A load that is answered: poison ends the strand (R246). -/
theorem loadDone_ok {va n : Nat} {d : Data} (h : coreRead u l c va n = .ok d t) (f : List Byte → State → State) :
    loadDone u l c va n f = if d.poison = true then endStrand t l .poison else f d.bytes t := coreDone_ok h _ _ _ _ _

/-! ### Atomics -/

/-- An atomic with rl waits while a write of the core to this node's memory has not landed (R270). -/
theorem coreDone_of_release (h : releaseWaits u l c = true) (va n : Nat) (write : Bool) (cause va' : Nat) (f : Nat → State → State) :
    coreDone (atomicHome u l c va n write true) l c cause va' f = u :=
  coreDone_wait (by simp [atomicHome, h]) _ _ _ _ _

/-- The test for a core's reservation of a row finds that reservation (R164). -/
theorem any_resv (rs : List Resv) (l c row : Nat) : rs.any (fun x => decide (x.l = l) && decide (x.c = c) && decide (x.row = row)) =
    decide ({ l := l, c := c, row := row } ∈ rs) := by
  rw [Bool.eq_iff_iff, List.any_eq_true, decide_eq_true_eq]
  constructor
  · rintro ⟨⟨_, _, _⟩, hx, he⟩
    simp only [Bool.and_eq_true, decide_eq_true_eq] at he
    obtain ⟨⟨rfl, rfl⟩, rfl⟩ := he
    exact hx
  · exact fun h => ⟨_, h, by simp⟩

/-- Settles O29: each instruction is issued by `coreStep_of_goes`, and its guards choose the branch that its clause names. -/
theorem coreAccesses : Obligations.CoreAccesses := by
  refine ⟨?_, ?_, ?_, ?_, ?_, ?_, ?_, ?_, ?_, ?_, ?_, ?_, ?_, ?_⟩
  · intro s u t l c rd rs1 size off short signed d hgo hr
    exact (exec_coreInstruction hgo short rfl _).trans (congrArg Host.Outcome.next
      (loadDone_ok hr (fun bs s => retire s l c _ (setX rd (extend bs signed)))))
  · intro s u t l c rs1 rs2 size off short hgo hw
    exact (exec_coreInstruction hgo short rfl _).trans (congrArg Host.Outcome.next (coreDone_ok hw _ _ _ _ _))
  · intro s u l c rd rs1 rs2 op double aq rl hgo hmis
    exact ⟨next_coreStep hgo (if_pos hmis), next_coreStep hgo (if_pos hmis), next_coreStep hgo (if_pos hmis)⟩
  · intro s u l c rs1 hgo
    exact next_coreStep hgo rfl
  · intro s u l c rs1 hgo hb
    have hidle : ¬lineBusy u l c (xr u l c rs1).toNat = true := by simp [hb]
    exact ⟨next_coreStep hgo (if_neg hidle), next_coreStep hgo (if_neg hidle)⟩
  · intro s u l c hgo hb
    have hidle : ¬engBusy u (.core l c) = true := by simp [hb]
    exact next_coreStep hgo (if_neg hidle)
  · intro s u l c rs1 hgo hb
    exact ⟨next_coreStep hgo (if_pos hb), next_coreStep hgo (if_pos hb)⟩
  · intro s u l c hgo hb
    exact next_coreStep hgo (if_pos hb)
  · intro s u t l c rs1 hgo hw
    exact next_coreStep hgo (coreDone_ok hw _ _ _ _ _)
  · intro s u t l c rd rs1 rs2 home va n op double aq rl hgo hva hn hal hh
    subst hva hn
    exact ⟨_, _, rfl, rfl, next_coreStep hgo ((if_neg (not_not.2 hal)).trans (coreDone_ok hh _ _ _ _ _))⟩
  · intro s u t l c rd rs1 home va n double aq rl hgo hva hn hal hh
    subst hva hn
    exact ⟨_, _, rfl, rfl, next_coreStep hgo ((if_neg (not_not.2 hal)).trans (coreDone_ok hh _ _ _ _ _))⟩
  · intro s u t l c rd rs1 rs2 home va n double aq rl hgo hva hn hal hh
    subst hva hn
    refine ⟨_, rfl, next_coreStep hgo ((if_neg (not_not.2 hal)).trans ((coreDone_ok hh _ _ _ _ _).trans ?_))⟩
    simp only [any_resv, decide_eq_true_eq]
  · intro s u l c rd rs1 rs2 va n op double aq hgo hva hn hal hb
    subst hva hn
    exact ⟨next_coreStep hgo ((if_neg (not_not.2 hal)).trans (coreDone_of_release hb _ _ _ _ _ _)),
      next_coreStep hgo ((if_neg (not_not.2 hal)).trans (coreDone_of_release hb _ _ _ _ _ _)),
      next_coreStep hgo ((if_neg (not_not.2 hal)).trans (coreDone_of_release hb _ _ _ _ _ _))⟩
  · intro s u l c pred succ hgo
    refine (exec_coreInstruction hgo false rfl _).trans (congrArg Host.Outcome.next (if_congr ?_ rfl rfl))
    rw [Bool.and_eq_true, decide_eq_true_eq]

end Sys2Proof.Machine
end

section
/-! PROOFS. XWAIT, XSIGNAL and XFREAD (R171 to R174, R406, R407, R410). -/

namespace Sys2Proof.Machine

open Sys2Proof.Safety

variable {s t u : State} {l c rd rs1 rs2 f : Nat} {b : Bool}

section named
variable (hf : xFence (xr u l c rs1) = some f)
include hf

theorem xfreadOp_of_fence : xfreadOp u l c rd rs1 =
    if fenceMay u f (lanCtx u l) then coreRet u l c rd (wd (fence u f).value) else endStrand u l .rights := by
  rw [xfreadOp, hf]

theorem xwaitOp_of_denied (hw : waitNow u f (lanCtx u l) (xr u l c rs2).toNat = .denied) :
    xwaitOp u l c rd rs1 rs2 b = endStrand u l .rights := by
  simp only [xwaitOp, hf, hw]

theorem xwaitOp_of_met (hw : waitNow u f (lanCtx u l) (xr u l c rs2).toNat = .met) :
    xwaitOp u l c rd rs1 rs2 b = coreRet u l c rd 0 := by
  simp only [xwaitOp, hf, hw]

theorem xwaitOp_of_error (hw : waitNow u f (lanCtx u l) (xr u l c rs2).toNat = .error) :
    xwaitOp u l c rd rs1 rs2 b = if b = true then coreRet u l c rd 1 else endStrand u l .fenceError := by
  simp only [xwaitOp, hf, hw]

/-- The core stalls, and its wait is registered (R172, R407). -/
theorem xwaitOp_of_later (hw : waitNow u f (lanCtx u l) (xr u l c rs2).toNat = .later) :
    booked (addWait (modCore u l c (fun k => { k with stall := .fence f rd b }))
      { fence := f, who := .core l c, value := (xr u l c rs2).toNat, qf2 := false }) (xwaitOp u l c rd rs1 rs2 b) := by
  simp only [xwaitOp, hf, hw]
  exact booked_showActivity _ _

theorem xsignalOp_of_denied (hm : fenceMay u f (lanCtx u l) = false) : xsignalOp u l c rs1 rs2 b = endStrand u l .rights := by
  simp only [xsignalOp, hf, hm, Bool.not_false, if_true]

/-- The core's earlier work has completed, and the fence is one of this node (R173). -/
theorem xsignalOp_of_local (hm : fenceMay u f (lanCtx u l) = true) (ha : (fence u f).alias_ = false) (hq : coreQuiet u l c = true) :
    xsignalOp u l c rs1 rs2 b = retire (signalLocal u f (xr u l c rs2).toNat b false) l c 4 id := by
  simp only [xsignalOp, hf, hm, ha, hq, Bool.not_true, Bool.and_false, Bool.false_eq_true, if_false]

end named

theorem waitNow_of_mayNot {ctx v : Nat} (h : fenceMay u f ctx = false) : waitNow u f ctx v = .denied := by
  simp [waitNow, h]

theorem lantern_addWait (s : State) (w : Wait) (k : Nat) : lantern (addWait s w) k = lantern s k := by
  unfold addWait
  split <;> rfl

/-- Settles O31: what the instruction does is told apart by the fence it names and by `waitNow`. -/
theorem coreFences : Obligations.CoreFences := by
  refine ⟨?_, ?_, ?_, ?_, ?_, ?_, ?_⟩
  · intro s u l c rd rs1 f hgo hf hm
    exact next_coreStep hgo ((xfreadOp_of_fence hf).trans (if_pos hm))
  · intro s u l c rd rs1 rs2 f b hgo hf hw
    exact next_coreStep hgo (xwaitOp_of_met hf hw)
  · intro s u l c rd rs1 rs2 f b hgo hf hw
    exact next_coreStep hgo (xwaitOp_of_error hf hw)
  · intro s u l c rd rs1 rs2 f b hgo hf hw
    have hbook := xwaitOp_of_later (rd := rd) (b := b) hf hw
    have hcore : core (xwaitOp u l c rd rs1 rs2 b) l c = { core u l c with stall := .fence f rd b } := by
      rw [core_of_lantern (congrArg Lantern.cores ((hbook.lantern l).trans (lantern_addWait _ _ l))), core_modCore_same hgo.stays]
    refine ⟨_, next_coreStep hgo rfl, ?_, ?_, ?_⟩
    · rw [hcore]
    · rw [hbook.waits]
      exact mem_waits_addWait _ _
    · rw [hcore]
  · intro s u l c rs1 rs2 f err hgo hf hm ha hq
    exact next_coreStep hgo (xsignalOp_of_local hf hm ha hq)
  · intro s u l c rd rs1 rs2 f b hgo hf hm
    have hread : ¬fenceMay u f (lanCtx u l) = true := by simp [hm]
    exact ⟨next_coreStep hgo ((xfreadOp_of_fence hf).trans (if_neg hread)),
      next_coreStep hgo (xwaitOp_of_denied hf (waitNow_of_mayNot hm)), next_coreStep hgo (xsignalOp_of_denied hf hm)⟩
  · intro s u l c rd rs1 rs2 b hgo hf
    refine ⟨next_coreStep hgo ?_, next_coreStep hgo ?_, next_coreStep hgo ?_⟩
    · rw [xfreadOp, hf]
    · rw [xwaitOp, hf]
    · rw [xsignalOp, hf]

end Sys2Proof.Machine
end

section
/-! PROOFS. The Xetp instructions of a core and their words, its exceptions, and the end of a WRS.STO wait (R160, R169 to R185). -/

namespace Sys2Proof.Machine

open Sys2Proof.Safety

variable {s t u : State} {l c rd rs1 rs2 cause : Nat} {tval : Word}

/-! ### XTILE and XTSYNC -/

/-- A tile op joins the DMA queue under the core's next ticket, which goes to x[rd] (R176). -/
def tileSubmitted (s : State) (l c rd : Nat) (ws : List Word) : State :=
  let n := (core s l c).tickets + 1
  coreRet (modCore (modLantern s l (fun x => { x with dma := x.dma ++ [submitted c n ws] })) l c (fun k => { k with tickets := n }))
    l c rd (wd n)

theorem xtileOp_of_misaligned (h : (xr u l c rs1).toNat % 2 ^ 57 % 64 ≠ 0) : xtileOp u l c rd rs1 = endStrand u l .format := if_pos h

theorem xtileOp_of_read {d : Data} (ha : (xr u l c rs1).toNat % 2 ^ 57 % 64 = 0) (hq : (lantern u l).dma.length < 32)
    (hr : coreRead u l c ((xr u l c rs1).toNat % 2 ^ 57) 64 = .ok d t) (hp : d.poison = false)
    (hok : tileOpOk 2 (((lantern u l).cur.bind (strandOf u)).map (fun p => p.1.det) == some true) (toWords d.bytes) = true) :
    xtileOp u l c rd rs1 = tileSubmitted t l c rd (toWords d.bytes) := by
  have hdet (o : Option Bool) : o.getD false = (o == some true) := by rcases o with _ | _ | _ <;> rfl
  refine (if_neg (not_not.2 ha)).trans ((if_neg (Nat.not_le.2 hq)).trans ((loadDone_ok hr _).trans ?_))
  rw [if_neg (by rw [hp]; exact Bool.false_ne_true), if_neg (by rw [hdet, hok]; exact Bool.false_ne_true)]
  rfl

theorem core_withDma (s : State) (l : Nat) (g : List DmaOp → List DmaOp) (k : Nat) :
    core (modLantern s l (fun x => { x with dma := g x.dma })) l k = core s l k :=
  core_of_lantern (by rw [lantern_modLantern_same]) k

theorem core_tileSubmitted (hon : (core t l c).on = true) (ws : List Word) : core (tileSubmitted t l c rd ws) l c =
    retiredCore 4 (setX rd (wd ((core t l c).tickets + 1)) { core t l c with tickets := (core t l c).tickets + 1 }) := by
  rw [← core_withDma t l (· ++ [submitted c ((core t l c).tickets + 1) ws])] at hon
  rw [tileSubmitted, coreRet, core_retire_same, core_modCore_same hon, core_withDma t l (· ++ [_])]
  rw [core_modCore_same hon]
  exact hon

theorem dma_tileSubmitted (ws : List Word) :
    (lantern (tileSubmitted t l c rd ws) l).dma = (lantern t l).dma ++ [submitted c ((core t l c).tickets + 1) ws] := by
  rw [tileSubmitted, coreRet, dma_retire, dma_modCore, lantern_modLantern_same]

theorem xtsyncOp_of_ungiven (h : (core u l c).tickets < (xr u l c rs1).toNat) : xtsyncOp u l c rd rs1 = endStrand u l .format := if_pos h

theorem xtsyncOp_of_completed (hg : (xr u l c rs1).toNat ≤ (core u l c).tickets)
    (hd : ∀ d ∈ (lantern u l).dma, d.core = c → (xr u l c rs1).toNat < d.ticket) : xtsyncOp u l c rd rs1 =
      coreRet u l c rd (if (core u l c).poisoned.any (fun t => decide (t ≤ (xr u l c rs1).toNat)) = true then 5 else 0) := by
  refine (if_neg (Nat.not_lt.2 hg)).trans (if_neg ?_)
  simpa using hd

/-! ### XPICOT, XCINV, the heap and XEXIT -/

theorem issuePicot_of_local {p : Piece} {a : Nat} (h : p.place = .loc a) (acc : Acc) (data : List Byte) :
    issuePicot s acc p data = .ok () (holdPicot s acc p data) := by
  simp only [issuePicot, h]

theorem xpicotOp_of_local {p : Piece} {a : Nat} (ha : (xr u l c rs1).toNat % 2 ^ 57 % 8 = 0)
    (hap : inAperture ((xr u l c rs1).toNat % 2 ^ 57) = false)
    (hp : placeVa u (storeAcc u l c ((xr u l c rs1).toNat % 2 ^ 57)) ((xr u l c rs1).toNat % 2 ^ 57) 8 1 true = .ok p t)
    (hl : p.place = .loc a) : xpicotOp u l c rs1 rs2 =
      retire (holdPicot t (storeAcc u l c ((xr u l c rs1).toNat % 2 ^ 57)) p (leBytes 8 (xr t l c rs2).toNat)) l c 4 id := by
  refine (if_neg (not_not.2 ha)).trans ((if_neg (by rw [hap]; exact Bool.false_ne_true)).trans ((coreDone_ok hp _ _ _ _ _).trans ?_))
  rw [issuePicot_of_local hl]

/-- Without a length the whole data L1 is dropped (R180). -/
theorem xcinvOp_of_all (h : (xr u l c rs2).toNat = 0) :
    xcinvOp u l c rs1 rs2 false = retire (modCore u l c (fun x => { x with l1 := [] })) l c 4 id := by
  simp only [xcinvOp, h, Bool.false_eq_true, if_false, if_true, List.foldl_cons, List.foldl_nil]

/-- A core waits for the allocator, its request the last in the queue (R181, R416, R417). -/
def allocWaits (s : State) (l c : Nat) (q : AllocReq) : State :=
  modCore { s with allocQ := s.allocQ ++ [q] } l c (fun k => { k with stall := .alloc })

theorem core_allocWaits (hon : (core s l c).on = true) (q : AllocReq) : core (allocWaits s l c q) l c = { core s l c with stall := .alloc } :=
  core_modCore_same (s := { s with allocQ := s.allocQ ++ [q] }) hon _

theorem xallocOp_of_request {soft : Bool} (hs : (xr u l c rs1).toNat ≠ 0) (ha : (xr u l c rs2).toNat ≤ 21) :
    xallocOp u l c rd rs1 rs2 soft = allocWaits u l c (.coreAlloc l c (context u (lanCtx u l)).hoop (lanCtx u l) (xr u l c rs1).toNat
      (max 6 (xr u l c rs2).toNat) rd soft) := if_neg (by omega)

theorem coreExit_of_end {v : Word} (h : v.toNat ≤ 1) : coreExit u l c v =
    modCore (retire u l c 4 id) l c (fun k => { k with ended := true, status := if v = 1 then .aborted else .ok }) :=
  if_pos (by bv_omega)

theorem coreExit_of_other {v : Word} (h : 1 < v.toNat) : coreExit u l c v = endStrand u l .format := if_neg (by bv_omega)

/-- At the exit address whatever is issued is an XEXIT with a0 (R169). -/
theorem coreStep_at_exit (hlive : coreLive s l c = true) (hready : lanternReady s l = .ok () s) (hw : wrsOver s l c = false)
    (hst : (core s l c).stall = .none) (hpc : (core s l c).pc = exitAddr) (len : Nat) (g : State → State) :
    coreStep s l c len g = coreExit s l c (xr s l c 10) := by
  simp [coreStep, hlive, hready, hw, hst, hpc]

/-! ### Exceptions and WRS.STO -/

theorem coreException_of_live (h : coreLive s l c = true) : coreException s l c cause tval = coreTrap s l c cause tval := if_pos h

section trap
variable {r : Running} {st : Status} (hr : (lantern s l).cur = some r) (hst : causeStatus cause = some st)
include hr hst

theorem coreTrap_of_noStrand (hs : strandOf s r = none) : coreTrap s l c cause tval = endStrand s l st := by
  simp only [coreTrap, hst, hr, hs, if_true]

variable {x : Stitch} {d : Strand} (hs : strandOf s r = some (x, d))
include hs

theorem coreTrap_of_noRecord (h0 : (wordAt (d.first.getD 0 []) 1).toNat = 0) : coreTrap s l c cause tval = endStrand s l st := by
  simp only [coreTrap, hst, hr, hs, h0, if_true]

/-- The strand gives an address for the record (R185). -/
theorem coreTrap_of_record (h0 : (wordAt (d.first.getD 0 []) 1).toNat ≠ 0)
    (hw : writeTrap s l c (wordAt (d.first.getD 0 []) 1).toNat (trapRecord s l c cause st tval) = .ok () u) :
    coreTrap s l c cause tval = endStrand u l st := by
  simp only [coreTrap, hst, hr, hs, h0, hw, if_false]

end trap

theorem wrsStoTimeout_of_stalled (h : coreLive s l c = true) (hst : (core s l c).stall = .wrs true) :
    wrsStoTimeout s l c = retire s l c 4 id := by
  simp only [wrsStoTimeout, hst, h, if_true]

/-! ### The words of custom-0 and custom-1 -/

/-- The fields of an Xetp word as `xetp` reads them (R170). -/
structure XetpFields (w opcode fn rd rs1 rs2 : Nat) (flag : Bool) : Prop where
  opcode : w / 2 ^ 0 % 2 ^ (6 + 1 - 0) = opcode
  rd : w / 2 ^ 7 % 2 ^ (11 + 1 - 7) = rd
  fn : w / 2 ^ 12 % 2 ^ (14 + 1 - 12) = fn
  rs1 : w / 2 ^ 15 % 2 ^ (19 + 1 - 15) = rs1
  rs2 : w / 2 ^ 20 % 2 ^ (24 + 1 - 20) = rs2
  zero25 : w / 2 ^ 25 % 2 ^ (26 + 1 - 25) = 0
  flag : w / 2 ^ 27 % 2 ^ (27 + 1 - 27) = b1 flag
  zero28 : w / 2 ^ 28 % 2 ^ (31 + 1 - 28) = 0

theorem xetpFields_xWord {opcode fn : Nat} (hof : opcode < 128 ∧ fn < 8) (hd : rd < 32) (h1 : rs1 < 32) (h2 : rs2 < 32) (flag : Bool) :
    XetpFields (xWord opcode fn rd rs1 rs2 flag).toNat opcode fn rd rs1 rs2 flag := by
  obtain ⟨ho, hf⟩ := hof
  have hb : b1 flag < 2 := by cases flag <;> decide
  have hw : (xWord opcode fn rd rs1 rs2 flag).toNat =
      opcode + rd * 2 ^ 7 + fn * 2 ^ 12 + rs1 * 2 ^ 15 + rs2 * 2 ^ 20 + b1 flag * 2 ^ 27 :=
    (BitVec.toNat_ofNat _ _).trans (Nat.mod_eq_of_lt (by change _ + b1 flag * _ < _; omega))
  constructor <;> rw [hw] <;> omega

/-- An instruction given by its word does what the same instruction does by its name. -/
theorem exec_custom (hgo : coreGoes s u l c) {w : BitVec 32} {g : State → State} (h : xetp u l c w.toNat = g u) :
    exec (.coreInstruction l c false (.custom w)) s = .next (coreStep s l c 4 g) :=
  (exec_coreInstruction hgo false rfl _).trans (congrArg Host.Outcome.next (h.trans (coreStep_of_goes hgo g).symm))

theorem xetp_of_illegal {w : Nat} (h : xetpOk w = false) : xetp u l c w = coreTrap u l c 2 (wd w) := by
  simp only [xetp, h, Bool.not_false, if_true]

/-- The instruction that the fields of a word name (R171): major opcode and FUNCT3 choose it, and the fields it does not use are 0. -/
theorem xetp_of_fields (u : State) (l c rd rs1 rs2 : Nat) (b : Bool) :
    (∀ w, XetpFields w 0x0B 0 rd rs1 rs2 b → xetp u l c w = xwaitOp u l c rd rs1 rs2 b) ∧
    (∀ w, XetpFields w 0x0B 1 0 rs1 rs2 b → xetp u l c w = xsignalOp u l c rs1 rs2 b) ∧
    (∀ w, XetpFields w 0x0B 2 rd rs1 0 false → xetp u l c w = xfreadOp u l c rd rs1) ∧
    (∀ w, XetpFields w 0x0B 3 rd rs1 0 false → xetp u l c w = xtileOp u l c rd rs1) ∧
    (∀ w, XetpFields w 0x0B 4 rd rs1 0 false → xetp u l c w = xtsyncOp u l c rd rs1) ∧
    (∀ w, XetpFields w 0x0B 5 0 rs1 rs2 false → xetp u l c w = xpicotOp u l c rs1 rs2) ∧
    (∀ w, XetpFields w 0x0B 6 0 rs1 rs2 b → xetp u l c w = xcinvOp u l c rs1 rs2 b) ∧
    (∀ w, XetpFields w 0x0B 7 0 0 0 false → xetp u l c w = xdrainOp u l c) ∧
    (∀ w, XetpFields w 0x2B 0 rd rs1 rs2 b → xetp u l c w = xallocOp u l c rd rs1 rs2 b) ∧
    (∀ w, XetpFields w 0x2B 1 0 rs1 0 false → xetp u l c w = xfreeOp u l c rs1) ∧
    (∀ w, XetpFields w 0x2B 2 0 rs1 0 false → xetp u l c w = coreExit u l c (xr u l c rs1)) := by
  refine ⟨?_, ?_, ?_, ?_, ?_, ?_, ?_, ?_, ?_, ?_, ?_⟩
  all_goals
    intro w h
    simp only [xetp, xetpOk, h.opcode, h.rd, h.fn, h.rs1, h.rs2, h.flag, h.zero25, h.zero28]
    cases b <;> rfl

/-- Settles O32: each instruction by the lemma on its operation, each word by the fields it is made of, each exception by `coreTrap`. -/
theorem coreXetp : Obligations.CoreXetp := by
  refine ⟨?_, ?_, ?_, ?_, ?_, ?_, ?_, ?_, ?_, ?_, ?_, ?_, ?_, ?_, ?_, ?_, ?_⟩
  · intro s u t l c rd rs1 d hgo ha hq hr hp hok hon hx hrd
    refine ⟨_, next_coreStep hgo (xtileOp_of_read ha hq hr hp hok), ?_, dma_tileSubmitted _, fun h0 => ?_⟩
    · rw [core_tileSubmitted hon]
      rfl
    · rw [xr, core_tileSubmitted hon]
      exact (getD_setX hx hrd _ rd).trans (if_pos ⟨h0, rfl⟩)
  · intro s u l c rd rs1 hgo ha
    exact next_coreStep hgo (xtileOp_of_misaligned ha)
  · intro s u l c rd rs1 hgo hg hd
    exact next_unlessSafe (safe_of_coreLive hgo.live) ((coreStep_of_goes hgo _).trans (xtsyncOp_of_completed hg hd))
  · intro s u l c rd rs1 hgo hg
    exact next_unlessSafe (safe_of_coreLive hgo.live) ((coreStep_of_goes hgo _).trans (xtsyncOp_of_ungiven hg))
  · intro s u t l c rs1 rs2 p a hgo ha hap hp hl
    exact ⟨_, _, next_coreStep hgo (xpicotOp_of_local ha hap hp hl), congrArg Fabric.picots (retire_fab _ _ _ _ _), hl, rfl,
      retire_mem _ _ _ _ _⟩
  · intro s u l c rs1 rs2 hgo hn
    have hon : (core (modCore u l c (fun x => { x with l1 := [] })) l c).on = true := by
      rw [core_modCore_same hgo.stays]
      exact hgo.stays
    refine ⟨_, next_coreStep hgo (xcinvOp_of_all hn), ?_, retire_mem _ _ _ _ _, ?_⟩
    all_goals rw [core_retire_same hon, core_modCore_same hgo.stays]; rfl
  · intro s u l c rd rs1 rs2 soft hgo hs ha
    refine ⟨_, next_coreStep hgo (xallocOp_of_request hs ha), ?_, rfl⟩
    rw [core_allocWaits hgo.stays]
  · intro s u l c rs1 hgo
    refine ⟨_, next_coreStep hgo (rfl : _ = allocWaits u l c _), ?_, rfl⟩
    rw [core_allocWaits hgo.stays]
  · intro s u l c rs1 hgo hv
    refine ⟨_, next_coreStep hgo (coreExit_of_end hv), ?_⟩
    have hon : (core (retire u l c 4 id) l c).on = true := by
      rw [core_retire_same hgo.stays]
      exact hgo.stays
    rw [core_modCore_same hon]
    exact ⟨rfl, rfl⟩
  · intro s u l c rs1 hgo hv
    exact next_coreStep hgo (coreExit_of_other hv)
  · intro s l c rs1 hlive hready hw hst hpc
    exact congrArg Host.Outcome.next (coreStep_at_exit hlive hready hw hst hpc _ _)
  · intro s l c cause tval r st hlive hr hs hst
    exact congrArg Host.Outcome.next ((coreException_of_live hlive).trans (coreTrap_of_noStrand hr hst hs))
  · intro s l c cause tval r x d st hlive hr hs hst
    refine ⟨fun h0 => ?_, fun u h0 hw => ?_⟩
    · exact congrArg Host.Outcome.next ((coreException_of_live hlive).trans (coreTrap_of_noRecord hr hst hs h0))
    · exact congrArg Host.Outcome.next ((coreException_of_live hlive).trans (coreTrap_of_record hr hst hs h0 hw))
  · intro s l c cause tval hlive
    exact congrArg Host.Outcome.next (if_neg (by simp [hlive]))
  · intro s u l c rd rs1 rs2 b hgo hd h1 h2
    have h0 : 0 < 32 := by decide
    obtain ⟨xwait, xsignal, xfread, xtile, xtsync, xpicot, xcinv, xdrain, xalloc, xfree, xexit⟩ := xetp_of_fields u l c rd rs1 rs2 b
    refine ⟨?_, ?_, ?_, ?_, ?_, ?_, ?_, ?_, ?_, ?_, ?_⟩
    · exact exec_custom hgo (xwait _ (xetpFields_xWord (by decide) hd h1 h2 b))
    · exact exec_custom hgo (xsignal _ (xetpFields_xWord (by decide) h0 h1 h2 b))
    · exact exec_custom hgo (xfread _ (xetpFields_xWord (by decide) hd h1 h0 false))
    · exact exec_custom hgo (xtile _ (xetpFields_xWord (by decide) hd h1 h0 false))
    · have hword := xtsync _ (xetpFields_xWord (by decide) hd h1 h0 false)
      exact (exec_custom hgo (g := fun s => xtsyncOp s l c rd rs1) hword).trans (next_unlessSafe (safe_of_coreLive hgo.live) rfl).symm
    · exact exec_custom hgo (xpicot _ (xetpFields_xWord (by decide) h0 h1 h2 false))
    · exact exec_custom hgo (xcinv _ (xetpFields_xWord (by decide) h0 h1 h2 b))
    · exact exec_custom hgo (xdrain _ (xetpFields_xWord (by decide) h0 h0 h0 false))
    · exact exec_custom hgo (xalloc _ (xetpFields_xWord (by decide) hd h1 h2 b))
    · exact exec_custom hgo (xfree _ (xetpFields_xWord (by decide) h0 h1 h0 false))
    · exact exec_custom hgo (xexit _ (xetpFields_xWord (by decide) h0 h1 h0 false))
  · intro s u l c w hgo hw
    exact (exec_coreInstruction hgo false rfl _).trans (congrArg Host.Outcome.next (xetp_of_illegal hw))
  · intro s l c hlive hst
    exact next_unlessSafe (safe_of_coreLive hlive) (wrsStoTimeout_of_stalled hlive hst)

end Sys2Proof.Machine
end

section
/-! SUPPORT. The state of a context as CONTEXT_STATUS shows it, and what residency leaves of contexts and hoops (R420 to R425, R434). -/

namespace Sys2Proof.Machine

variable {s t : State} {c h : Nat}

/-! ### STATE of CONTEXT_STATUS -/

/-- A cell written with another value than its default reads back, whatever the table lists. -/
theorem cell_setCell_of_ne {e row w : Nat} {v : Word} (h : v ≠ cellDefault (cellKey e row w)) : cell (setCell s e row w v) e row w = v := by
  unfold cell cget
  rw [setCell_regs, cput, if_neg h, tget_tput_same]
  rfl

theorem cellDefault_status (c : Nat) : cellDefault (cellKey 0x800003 c 0) = 0 := by
  have he : cellKey 0x800003 c 0 / 2 ^ 24 = 0x800003 := by
    unfold cellKey
    omega
  have hw : cellKey 0x800003 c 0 % 16 = 0 := by
    unfold cellKey
    omega
  simp only [cellDefault, he, hw]
  rfl

theorem ctxState_of_cell (hc : cell t 0x800003 c 0 = cell s 0x800003 c 0) : ctxState t c = ctxState s c := by
  rw [ctxState, hc, ctxState]

theorem ctxState_setCell_entry {e : Nat} (he : e ≠ 0x800003) (row w : Nat) (v : Word) : ctxState (setCell s e row w v) c = ctxState s c :=
  ctxState_of_cell (cell_setCell_entry _ _ _ _ _ _ _ _ he.symm)

@[simp] theorem ctxState_schedCount (s : State) (h i c : Nat) : ctxState (schedCount s h i) c = ctxState s c :=
  ctxState_setCell_entry (by decide) _ _ _

theorem ctxState_modContext (s : State) (o : Nat) (f : Context → Context) (c : Nat) : ctxState (modContext s o f) c = ctxState s c := rfl

/-- A STATE other than FREE reads back. -/
theorem ctxState_setCtxState (s : State) (c : Nat) {n : Nat} (h0 : n ≠ 0) (hn : n < 16) : ctxState (setCtxState s c n) c = n := by
  have hf : fld (setFld (cell s 0x800003 c 0) 63 60 n) 63 60 = n := by
    have hw := (cell s 0x800003 c 0).isLt
    simp only [fld, setFld, wd, BitVec.toNat_ofNat]
    omega
  rw [ctxState, setCtxState, setRegFld, cell_setCell_of_ne]
  · exact hf
  · intro hz
    rw [hz, cellDefault_status] at hf
    exact h0 hf.symm

/-- A write of the ACTIVITY of any context leaves the STATE of a live one alone. -/
theorem ctxState_setActivity (hc : ctxState s c ≠ 0) (o n : Nat) : ctxState (setRegFld s 0x800003 o 59 56 n) c = ctxState s c := by
  by_cases hk : cellKey 0x800003 c 0 = cellKey 0x800003 o 0
  · have hcell (t : State) : cell t 0x800003 c 0 = cell t 0x800003 o 0 := by rw [cell, hk, cell]
    have hf : fld (setFld (cell s 0x800003 o 0) 59 56 n) 63 60 = fld (cell s 0x800003 o 0) 63 60 := by
      have hw := (cell s 0x800003 o 0).isLt
      simp only [fld, setFld, wd, BitVec.toNat_ofNat]
      omega
    rw [ctxState, hcell] at hc ⊢
    rw [setRegFld, cell_setCell_of_ne, ctxState, hcell]
    · exact hf
    · intro hz
      rw [hz, cellDefault_status] at hf
      exact hc hf.symm
  · exact ctxState_of_cell (cell_setCell_other _ _ _ _ _ _ _ _ hk)

theorem ctxState_leaveResidence (s : State) (c : Nat) : ctxState (leaveResidence s c) c = 2 := by
  have hstate := ctxState_setCtxState s c (n := 2) (by decide) (by decide)
  rw [leaveResidence, ctxState_setActivity (by rw [hstate]; decide), hstate]

/-- Raising a context's virtual time changes a context's record alone. -/
theorem regs_raiseV (s : State) (c : Nat) : (raiseV s c).regs = s.regs := by
  unfold raiseV
  dsimp only
  split <;> rfl

theorem ctxState_raiseV (s : State) (o c : Nat) : ctxState (raiseV s o) c = ctxState s c := by
  rw [ctxState, cell, regs_raiseV, ctxState, cell]

/-- What showing a context's activity can do: nothing, or note the time and write the ACTIVITY, its virtual time raised or not (R420, R422). -/
theorem showActivity_cases (s : State) (o : Nat) : showActivity s o = s ∨ ∃ t n, (t = s ∨ t = raiseV s o) ∧
    showActivity s o = setRegFld (modContext t o (fun x => { x with since := wick t })) 0x800003 o 59 56 n := by
  unfold showActivity
  dsimp only
  split
  · exact .inl rfl
  · split
    · exact .inl rfl
    · refine .inr ⟨_, _, ?_, rfl⟩
      split
      · exact .inr rfl
      · exact .inl rfl

theorem ctxState_showActivity (hc : ctxState s c ≠ 0) (o : Nat) : ctxState (showActivity s o) c = ctxState s c := by
  obtain he | ⟨t, n, ht, he⟩ := showActivity_cases s o
  · rw [he]
  · have hstate : ctxState (modContext t o (fun x => { x with since := wick t })) c = ctxState s c := by
      obtain rfl | rfl := ht
      · rfl
      · exact ctxState_raiseV s o c
    rw [he, ctxState_setActivity (hstate.trans_ne hc), hstate]

theorem ctxState_showHoop (hc : ctxState s c ≠ 0) (h : Nat) : ctxState (showHoop s h) c = ctxState s c := by
  unfold showHoop
  generalize hoopCtxs s h = os
  induction os generalizing s with
  | nil => rfl
  | cons o os ih =>
    have ho := ctxState_showActivity hc o
    rw [List.foldl_cons, ih (ho.trans_ne hc), ho]

/-! ### Records of contexts -/

theorem context_setCell (s : State) (e row w : Nat) (v : Word) (c : Nat) : context (setCell s e row w v) c = context s c := by
  rw [context, setCell_ctxs, context]

theorem context_setRegFld (s : State) (e row hi lo v c : Nat) : context (setRegFld s e row hi lo v) c = context s c :=
  context_setCell _ _ _ _ _ _

section field
variable {γ : Type} {p : Context → γ}

/-- What a change of a context's record keeps of every record. -/
theorem context_modContext_field {f : Context → Context} (hf : ∀ x, p (f x) = p x) (s : State) (o c : Nat) :
    p (context (modContext s o f) c) = p (context s c) := by
  by_cases hc : c = o
  · rw [hc, context_modContext_same, hf]
  · rw [context_modContext_other _ _ _ _ hc]

theorem context_raiseV_field (hv : ∀ x n, p { x with vtime := n } = p x) (s : State) (o c : Nat) :
    p (context (raiseV s o) c) = p (context s c) := by
  unfold raiseV
  dsimp only
  split
  · rfl
  · exact context_modContext_field (fun x => hv x _) _ _ _

/-- What a context's activity shown keeps of every record: all but its virtual time and the time of its activity (R420, R422). -/
theorem context_showActivity_field (hv : ∀ x n, p { x with vtime := n } = p x) (hw : ∀ x n, p { x with since := n } = p x)
    (s : State) (o c : Nat) : p (context (showActivity s o) c) = p (context s c) := by
  obtain he | ⟨t, n, ht, he⟩ := showActivity_cases s o
  · rw [he]
  · have hraise : p (context t c) = p (context s c) := by
      obtain rfl | rfl := ht
      · rfl
      · exact context_raiseV_field hv _ _ _
    rw [he, context_setRegFld, context_modContext_field (fun x => hw x _), hraise]

end field

theorem leaving_showHoop (s : State) (h c : Nat) : (context (showHoop s h) c).leaving = (context s c).leaving :=
  foldl_field (fun s => (context s c).leaving)
    (fun s o => context_showActivity_field (p := Context.leaving) (fun _ _ => rfl) (fun _ _ => rfl) s o c) _ s

theorem booked.clk (h : booked s t) : t.clk = s.clk := by obtain ⟨_, _, rfl⟩ := h; rfl

/-- A context whose activity began now shows that after its activity is shown too. -/
theorem since_showActivity (hs : (context s c).since = wick s) : (context (showActivity s c) c).since = wick s := by
  obtain he | ⟨t, n, ht, he⟩ := showActivity_cases s c
  · rw [he, hs]
  · have hwick : wick t = wick s := by
      obtain rfl | rfl := ht
      · rfl
      · exact congrArg Clocks.wick (booked_raiseV s c).clk
    rw [he, context_setRegFld, context_modContext_same, hwick]

/-! ### A context that becomes RESIDENT -/

/-- The context's row and record as RESIDENT, its activity not shown yet (R420, R425). -/
def madeResident (s : State) (c : Nat) : State :=
  modContext (setCtxState (modHoop s (context s c).hoop (fun x => { x with stuck := x.stuck.filter (fun o => decide (o ≠ c)) })) c 1) c
    (fun x => { x with since := wick s })

theorem takeResidence_eq (s : State) (c : Nat) : takeResidence s c = showActivity (raiseV (madeResident s c) c) c := rfl

theorem ctxState_takeResidence (s : State) (c : Nat) : ctxState (takeResidence s c) c = 1 := by
  have hraised : ctxState (raiseV (madeResident s c) c) c = 1 := by
    rw [ctxState_raiseV, madeResident, ctxState_modContext, ctxState_setCtxState _ _ (by decide) (by decide)]
  rw [takeResidence_eq, ctxState_showActivity (by rw [hraised]; decide), hraised]

theorem wick_madeResident (s : State) (c : Nat) : wick (madeResident s c) = wick s := by
  rw [wick, madeResident, modContext_clk, setCtxState, setRegFld_clk, modHoop_clk, wick]

theorem since_takeResidence (s : State) (c : Nat) : (context (takeResidence s c) c).since = wick s := by
  have hwick : wick (raiseV (madeResident s c) c) = wick s := by
    rw [wick, (booked_raiseV _ _).clk, ← wick, wick_madeResident]
  have hsince : (context (raiseV (madeResident s c) c) c).since = wick s := by
    rw [context_raiseV_field (p := Context.since) (fun _ _ => rfl), madeResident, context_modContext_same]
  rw [takeResidence_eq, since_showActivity (hsince.trans hwick.symm), hwick]

/-! ### Records of hoops -/

section hoops
variable {γ : Type} {p : Hoop → γ} (hp : ∀ x os, p { x with stuck := os } = p x)
include hp

theorem hoop_modStuck_field (s : State) (h : Nat) (g : List Nat → List Nat) (k : Nat) :
    p (hoop (modHoop s h (fun x => { x with stuck := g x.stuck })) k) = p (hoop s k) := by
  by_cases hk : k = h
  · rw [hk, hoop_modHoop_same, hp]
  · rw [hoop_modHoop_other _ _ _ _ hk]

/-- A context that becomes RESIDENT leaves of the hoops' records all but the lists of stuck contexts (R423). -/
theorem hoop_takeResidence_field (s : State) (c k : Nat) : p (hoop (takeResidence s c) k) = p (hoop s k) := by
  have hbook : booked (modHoop s (context s c).hoop (fun x => { x with stuck := x.stuck.filter (fun o => decide (o ≠ c)) }))
      (takeResidence s c) :=
    (((booked_setCell _ _ _ _ _).trans (booked_modContext _ _ _)).trans (booked_raiseV _ _)).trans (booked_showActivity _ _)
  rw [hbook.hoop]
  exact hoop_modStuck_field hp s _ (fun os => os.filter (fun o => decide (o ≠ c))) k

theorem hoop_serveStuck_field (s : State) (h k : Nat) : p (hoop (serveStuck s h) k) = p (hoop s k) := by
  have hleave (v : Nat) : booked s (schedCount (leaveResidence s v) h 2) :=
    ((booked_setCell _ _ _ _ _).trans (booked_setCell _ _ _ _ _)).trans (booked_setCell _ _ _ _ _)
  have hbegin (v : Nat) : booked s (beginLeave s h v) := by
    unfold beginLeave
    split
    · exact booked_setCell _ _ _ _ _
    · exact booked_modContext _ _ _
  unfold serveStuck
  split
  · rfl
  · split
    · rfl
    · dsimp only
      split
      next v _ => rw [hoop_takeResidence_field hp, (hleave v).hoop]
      next =>
        split
        next v _ => rw [(hbegin v).hoop]
        next => rfl

theorem hoop_bringPinned_field (s : State) (h k : Nat) : p (hoop (bringPinned s h) k) = p (hoop s k) := by
  refine foldl_field (fun s => p (hoop s k)) (fun s c => ?_) _ s
  split
  · exact (congrArg p ((booked_setCell _ _ _ _ _).hoop k)).trans (hoop_takeResidence_field hp s c k)
  · rw [hoop_serveStuck_field hp]
    exact hoop_modStuck_field hp s h (fun os => c :: os.filter (fun o => decide (o ≠ c))) k

end hoops

end Sys2Proof.Machine
end

section
/-! PROOFS. The events of the scheduler: the allocator's requests, contexts that swap or are stuck, and the sampler (R181, R416 to R430). -/

namespace Sys2Proof.Machine

open Sys2Proof.Safety

variable {s t u : State} {l c h : Nat}

/-! ### ALLOCATOR_REQUEST -/

theorem allocatorRequest_of_empty (h : s.allocQ = []) : allocatorRequest s = s := by
  simp only [allocatorRequest, h]

section core
variable {ctx size al rd : Nat} {soft : Bool} {a : Option Nat} {rest : List AllocReq}
  (hq : s.allocQ = .coreAlloc l c h ctx size al rd soft :: rest)
include hq

theorem allocatorRequest_of_core (ha : heapAlloc { s with allocQ := rest } h ctx size al = (a, u))
    (hst : (core s l c).stall = .alloc) : allocatorRequest s =
    if a = none ∧ soft = false then endStrand u l .allocFail else coreRet u l c rd (wd (a.getD 0)) := by
  have hwait : (core { s with allocQ := rest } l c).stall = .alloc := hst
  simp only [allocatorRequest, hq, ha, hwait]
  rw [if_neg (not_not.2 rfl)]
  exact if_congr (by simp) rfl rfl

/-- A core that waits no more: the request is dropped (log 173). -/
theorem allocatorRequest_of_gone (hst : (core s l c).stall ≠ .alloc) : allocatorRequest s = { s with allocQ := rest } := by
  simp only [allocatorRequest, hq]
  exact if_pos hst

end core

section op
variable {o size al off : Nat} {soft : Bool} {a : Option Nat} {k : Running} {rest : List AllocReq}
  (hq : s.allocQ = .opAlloc l o h c size al off soft :: rest) (hk : (lantern s l).cur = some k)
include hq hk

theorem allocatorRequest_of_op (ha : heapAlloc { s with allocQ := rest } h c size al = (a, u)) (hc : k.ctx = c) (ho : o ∈ k.busy) :
    allocatorRequest s = if a = none ∧ soft = false
      then endStrand (writeScratch u (scratchBase l + off) (leBytes 8 (a.getD 0)) false) l .allocFail
      else writeScratch u (scratchBase l + off) (leBytes 8 (a.getD 0)) false := by
  have hcur : (lantern { s with allocQ := rest } l).cur = some k := hk
  simp only [allocatorRequest, hq, hcur, ha]
  rw [if_neg (by simp [hc, ho])]
  exact if_congr (by simp) rfl rfl

/-- An op that is in progress no more: the request is dropped (log 173). -/
theorem allocatorRequest_of_over (ho : o ∉ k.busy) : allocatorRequest s = { s with allocQ := rest } := by
  have hcur : (lantern { s with allocQ := rest } l).cur = some k := hk
  simp only [allocatorRequest, hq, hcur]
  exact if_pos (by simp [ho])

end op

theorem allocatorRequest_of_free {ctx addr : Nat} {rest : List AllocReq} (hq : s.allocQ = .coreFree l c h ctx addr :: rest)
    (hf : heapFree (countHub { s with allocQ := rest } 3 1) h addr = some u) (hst : (core s l c).stall = .alloc) :
    allocatorRequest s = retire u l c 4 id := by
  have hwait : (core { s with allocQ := rest } l c).stall = .alloc := hst
  simp only [allocatorRequest, hq, hwait, hf]
  exact if_neg (not_not.2 rfl)

/-! ### SWAP_OUT and SWAP_IN -/

theorem running_of_needClock {q : Nat} (h : needClock s q = .ok () t) : pll s q = .running := by
  cases hp : pll s q with
  | running => rfl
  | starting => rw [needClock_starting hp] at h; cases h
  | stopped =>
    cases hb : backupDrowse s with
    | true => rw [needClock_drowse hp hb] at h; cases h
    | false => rw [needClock_stopped hp hb] at h; cases h

theorem swapOut_of_staying (h : (context s c).leaving = false ∨ ctxState s c ≠ 1) : swapOut s c = s := by
  refine if_pos ?_
  rw [Bool.or_eq_true]
  exact h.imp (by simp [·]) (by simp [·])

section leaving
variable (hl : (context s c).leaving = true) (hs : ctxState s c = 1)
include hl hs

/-- A sampler table has come to name the context: its swap-out is given up (R429). -/
theorem swapOut_of_pinned (hp : isPinned s c = true) : swapOut s c =
    modContext s c (fun x => { x with leaving := false, image := if x.saved.isEmpty then none else x.image }) := by
  exact (if_neg (by simp [hl, hs])).trans (if_pos hp)

section unpinned
variable (hp : isPinned s c = false) (hn : ctxLanterns s c = [])
include hp hn

/-- No lantern runs a strand of the context: the image is written, and the context is SWAPPED (R424). -/
theorem swapOut_of_still (hr : pll s (addrQuarter (swapImage s c)) = .running) : ∃ t w, (context t c).leaving = false ∧ swapOut s c =
    showHoop (schedCount (leaveResidence (setCell t 0x800004 c 7 w) c) (context s c).hoop 0) (context s c).hoop := by
  simp only [swapOut, hl, hs, hp, hn, needClock_running hr]
  refine ⟨modContext (swapTraffic s c 1 0) c (fun x => { x with leaving := false }), _, ?_, rfl⟩
  rw [context_modContext_same]

theorem swapOut_of_stopped (hr : pll s (addrQuarter (swapImage s c)) ≠ .running) :
    swapOut s c = (needClock s (addrQuarter (swapImage s c))).state := by
  simp only [swapOut, hl, hs, hp, hn]
  cases hk : needClock s (addrQuarter (swapImage s c)) with
  | ok _ t => exact absurd (running_of_needClock hk) hr
  | wait t => rfl
  | fail st t => rfl

end unpinned
end leaving

theorem swapIn_of_staying (h : 16 ≤ (residents s (context s c).hoop).length ∨ ctxState s c ≠ 2) : swapIn s c = s := by
  refine if_neg fun hin => ?_
  omega

theorem swapIn_of_turn (hs : ctxState s c = 2) (hr : (residents s (context s c).hoop).length < 16)
    (ht : (hoop s (context s c).hoop).stuck = [] ∨ (hoop s (context s c).hoop).stuck = [c]) :
    swapIn s c = schedCount (takeResidence s c) (context s c).hoop 1 := by
  refine if_pos ⟨hs, hr, ?_⟩
  obtain ht | ht := ht <;> simp [ht]

/-! ### CONTEXT_STUCK -/

theorem contextStuck_of_other (h1 : ctxState s c ≠ 1) (h2 : ctxState s c ≠ 2) : contextStuck s c = s := by
  simp only [contextStuck, h1, h2, if_false]

theorem contextStuck_of_room (h2 : ctxState s c = 2) (hr : (residents s (context s c).hoop).length < 16) : contextStuck s c = s := by
  refine (if_pos h2).trans (if_neg ?_)
  simp [Nat.not_le.2 hr]

/-- A SWAPPED context whose work could go on among 16 residents without any counts as stuck (R423). -/
theorem contextStuck_of_stuck (h2 : ctxState s c = 2) (hr : 16 ≤ (residents s (context s c).hoop).length)
    (hall : ∀ o ∈ residents s (context s c).hoop, activity s o = 3 ∨ activity s o = 0)
    (hgo : couldAdmit s c = true ∨ savedMet s c = true) : contextStuck s c = serveStuck
      (if (hoop s (context s c).hoop).stuck.contains c then s
        else modHoop s (context s c).hoop (fun x => { x with stuck := x.stuck ++ [c] })) (context s c).hoop := by
  refine (if_pos h2).trans (if_pos ?_)
  simpa [hr, hgo] using hall

section serve
variable {rest : List Nat} {v : Nat} (hst : (hoop s h).stuck = c :: rest) (hno : ∀ o ∈ hoopCtxs s h, (context s o).leaving = false)
include hst hno

/-- The resident that has been idle longest gives way at once (R423). -/
theorem serveStuck_of_idle (hv : longest s (idleContexts s h) = some v) :
    serveStuck s h = takeResidence (schedCount (leaveResidence s v) h 2) c := by
  unfold idleContexts at hv
  simp only [serveStuck, hst, hv]
  exact if_neg (by simpa using hno)

/-- None is idle: the one that has been blocked longest begins to leave (R423). -/
theorem serveStuck_of_blocked (hi : longest s (idleContexts s h) = none)
    (hv : longest s ((takeable s h).filter (fun o => activity s o = 3)) = some v) : serveStuck s h = beginLeave s h v := by
  unfold idleContexts at hi
  simp only [serveStuck, hst, hi, hv]
  exact if_neg (by simpa using hno)

end serve

/-- A RESIDENT context whose next stitch needs a lantern held too long: the holder begins to leave, the stuck one favored (R423). -/
theorem contextStuck_of_held {f : Flight} {v : Nat} (h1 : ctxState s c = 1) (hf : nextStaged s c = some f)
    (hno : ∀ o ∈ hoopCtxs s (context s c).hoop, (context s o).leaving = false)
    (hv : longest s ((holders s (context s c).hoop f).filter (fun o => decide (o ≠ c))) = some v) : contextStuck s c =
      if (context (beginLeave s (context s c).hoop v) v).leaving = true then
        modHoop (beginLeave s (context s c).hoop v) (context s c).hoop (fun x => { x with favored := some c })
      else beginLeave s (context s c).hoop v := by
  have h2 : ¬ctxState s c = 2 := by omega
  simp only [contextStuck, if_neg h2, if_pos h1, hf, hv]
  exact if_neg (by simpa using hno)

/-! ### SAMPLER_PERIOD and SAMPLER_SLOT -/

/-- A table, or none, comes into force at a period boundary of a hoop (R429). -/
def tableTaken (s : State) (h : Nat) (new : Option Sampler) : State :=
  let t := modHoop s h (fun x => { x with sampler := new, samplerNew := none })
  showPinned (bringPinned t h) h

theorem hoop_tableTaken_field {γ : Type} {p : Hoop → γ} (hp : ∀ x os, p { x with stuck := os } = p x) (s : State) (h : Nat)
    (new : Option Sampler) : p (hoop (tableTaken s h new) h) = p { hoop s h with sampler := new, samplerNew := none } := by
  have hshow (t : State) : booked t (showPinned t h) := booked_foldl (fun _ _ => booked_setCell _ _ _ _ _) _ t
  rw [tableTaken, (hshow _).hoop, hoop_bringPinned_field hp, hoop_modHoop_same]

theorem sampler_tableTaken (s : State) (h : Nat) (new : Option Sampler) : (hoop (tableTaken s h new) h).sampler = new :=
  hoop_tableTaken_field (p := Hoop.sampler) (fun _ _ => rfl) s h new

theorem samplerNew_tableTaken (s : State) (h : Nat) (new : Option Sampler) : (hoop (tableTaken s h new) h).samplerNew = none :=
  hoop_tableTaken_field (p := Hoop.samplerNew) (fun _ _ => rfl) s h new

section staged
variable {w0 w1 w2 : Word} {x : List Nat} (hnew : (hoop s h).samplerNew = some [w0, w1, w2])
  (hx : x = (samplerSlots s (fld w0 24 16) (fld w0 9 0)).map (openSlot s)) (hover : periodOver s h [w0, w1, w2] x = true)
include hnew hx hover

/-- An ENABLE of 0 removes the table (R429). -/
theorem samplerPeriod_of_removal (he : bit w0 63 = false) : samplerPeriod s h = tableTaken s h none := by
  subst hx
  have hw0 : wordAt [w0, w1, w2] 0 = w0 := rfl
  simp only [samplerPeriod, hnew, hw0, hover, he, Bool.true_eq_false, Bool.false_eq_true, false_and, if_false, Bool.not_false, if_true]
  rfl

/-- The staged row and its slots where they fit; else the old table begins its next period (R429). -/
theorem samplerPeriod_of_staged (he : bit w0 63 = true) (hs : w1.toNat ≤ wick s) : samplerPeriod s h = tableTaken s h
    (if slotsOk x = true ∧ (x.filterMap slotNames).all (ctxOf s h) = true
      then some { first := fld w0 24 16, count := fld w0 9 0, start := w1.toNat, began := periodBegan s w1.toNat x, slots := x, cur := 0 }
      else (hoop s h).sampler.map (nextPeriod s)) := by
  subst hx
  have hw0 : wordAt [w0, w1, w2] 0 = w0 := rfl
  have hw1 : wordAt [w0, w1, w2] 1 = w1 := rfl
  simp only [samplerPeriod, hnew, hw0, hw1, hover, he, Nat.not_lt.2 hs, Bool.true_eq_false, Bool.false_eq_true, and_false, if_false,
    Bool.not_true, Bool.and_eq_true]
  rfl

end staged

theorem samplerPeriod_of_running {x : Sampler} (hx : (hoop s h).sampler = some x) (hw : wick s < x.began + slotsTime x.slots) :
    samplerPeriod s h = s := by
  have hover (ws : List Word) (slots : List Nat) : periodOver s h ws slots = false := by
    simp [periodOver, hx, hw]
  cases hn : (hoop s h).samplerNew <;> simp only [samplerPeriod, hx, hn, hover, Option.map_some, if_true]

theorem samplerPeriod_of_none (hx : (hoop s h).sampler = none) (hn : (hoop s h).samplerNew = none) : samplerPeriod s h = s := by
  simp only [samplerPeriod, hx, hn, Option.map_none]

theorem samplerSlot_of_none (hx : (hoop s h).sampler = none) : samplerSlot s h = s := by
  simp only [samplerSlot, hx]

theorem sampler_samplerSlot {x : Sampler} (hx : (hoop s h).sampler = some x) : (hoop (samplerSlot s h) h).sampler =
    some (if x.began + slotsTime (x.slots.take (x.cur + 1)) ≤ wick s ∧ x.cur + 1 < x.slots.length then
      { x with cur := x.cur + 1 } else x) := by
  simp only [samplerSlot, hx, slotOver, Bool.and_eq_true, decide_eq_true_eq]
  split
  · rw [hoop_modHoop_same]
  · exact hx

/-- Settles O55: each event by the lemmas on its operation; the STATE after a swap by `ctxState_leaveResidence` and
`ctxState_takeResidence`, the table after a period by `hoop_tableTaken_field`. -/
theorem schedulerEvents : Obligations.SchedulerEvents := by
  refine ⟨?_, ?_, ?_, ?_, ?_, ?_, ?_, ?_, ?_, ?_, ?_, ?_, ?_, ?_, ?_, ?_, ?_⟩
  · intro s hq
    exact next_unlessSafe_self (allocatorRequest_of_empty hq)
  · intro s u l c h ctx size al rd soft a rest hs hq ha
    exact ⟨fun hst => next_unlessSafe hs (allocatorRequest_of_core hq ha hst),
      fun hst => next_unlessSafe hs (allocatorRequest_of_gone hq hst)⟩
  · intro s u l op h c size al off soft a k rest hs hq ha hk hc
    refine ⟨fun ho v hv => ?_, fun ho => next_unlessSafe hs (allocatorRequest_of_over hq hk ho)⟩
    subst hv
    exact next_unlessSafe hs (allocatorRequest_of_op hq hk ha hc ho)
  · intro s u l c h ctx addr rest hs hq hf hst
    exact next_unlessSafe hs (allocatorRequest_of_free hq hf hst)
  · intro s c hstay
    exact next_unlessSafe_self (swapOut_of_staying hstay)
  · intro s c hs hl hres
    refine ⟨fun hp => ⟨_, next_unlessSafe hs (swapOut_of_pinned hl hres hp), hres, ?_⟩, fun hp hn hr => ?_, fun hp hn hr => ?_⟩
    · rw [context_modContext_same]
    · obtain ⟨t, w, ht, hswap⟩ := swapOut_of_still hl hres hp hn hr
      have hstate := ctxState_leaveResidence (setCell t 0x800004 c 7 w) c
      refine ⟨_, next_unlessSafe hs hswap, ?_, ?_⟩
      · rw [ctxState_showHoop (by rw [ctxState_schedCount, hstate]; decide), ctxState_schedCount, hstate]
      · rw [leaving_showHoop, schedCount, addCell, context_setCell, leaveResidence, context_setRegFld, setCtxState, context_setRegFld,
          context_setCell, ht]
    · exact next_unlessSafe hs (swapOut_of_stopped hl hres hp hn hr)
  · intro s c hstay
    exact next_unlessSafe_self (swapIn_of_staying hstay)
  · intro s c hs hres hroom ht
    refine ⟨_, next_unlessSafe hs (swapIn_of_turn hres hroom ht), ?_, ?_⟩
    · rw [ctxState_schedCount, ctxState_takeResidence]
    · rw [schedCount, addCell, context_setCell, since_takeResidence]
  · intro s c h1 h2
    exact next_unlessSafe_self (contextStuck_of_other h1 h2)
  · intro s c hs h2 hroom
    exact next_unlessSafe_self (contextStuck_of_room h2 hroom)
  · intro s c h hs h2 hh hroom hall hgo
    subst hh
    have hstuck := contextStuck_of_stuck h2 hroom hall hgo
    refine ⟨next_unlessSafe hs hstuck, fun rest v hst hno => ?_⟩
    have hserve : contextStuck s c = serveStuck s (context s c).hoop := by
      rw [hstuck, if_pos (by simp [hst])]
    exact ⟨fun hv => next_unlessSafe hs (hserve.trans (serveStuck_of_idle hst hno hv)),
      fun hi hv => next_unlessSafe hs (hserve.trans (serveStuck_of_blocked hst hno hi hv))⟩
  · intro s c h v f hs h1 hh hf hno hv u hu
    subst hh hu
    exact next_unlessSafe hs (contextStuck_of_held h1 hf hno hv)
  · intro s h w0 w1 w2 hs hnew he hover
    exact ⟨_, next_unlessSafe hs (samplerPeriod_of_removal hnew rfl hover he), sampler_tableTaken _ _ _, samplerNew_tableTaken _ _ _⟩
  · intro s h w0 w1 w2 x hs hnew he hw hover hx
    exact ⟨_, next_unlessSafe hs (samplerPeriod_of_staged hnew hx hover he hw), sampler_tableTaken _ _ _⟩
  · intro s h x hx hw
    exact next_unlessSafe_self (samplerPeriod_of_running hx hw)
  · intro s h hx hn
    exact ⟨next_unlessSafe_self (samplerPeriod_of_none hx hn), next_unlessSafe_self (samplerSlot_of_none hx)⟩
  · intro s h x hs hx
    exact ⟨_, next_unlessSafe hs rfl, sampler_samplerSlot hx⟩

end Sys2Proof.Machine
end

section
/-! PROOFS. The requests of a slot, its passes and its timeout (R200 to R213, R217, R218, R231). -/

namespace Sys2Proof.Machine

open Sys2Proof.Safety

variable {s t u v : State} {n i : Nat} {x : Slot} {r : SlotReq}

/-! ### Records of slots -/

theorem slot_of_tget (h : tget s.slots n = some x) : slot s n = x := by simp [slot, h]

theorem tget_modSlot (h : tget s.slots n = some x) (f : Slot → Slot) : tget (modSlot s n f).slots n = some (f x) := by
  simp [modSlot, h, tget_tput_same]

theorem slot_modSlot (h : tget s.slots n = some x) (f : Slot → Slot) : slot (modSlot s n f) n = f x :=
  slot_of_tget (tget_modSlot h f)

/-- A request changed in place, the rest of the slot as it was. -/
theorem slot_modReq (h : tget s.slots n = some x) (hr : x.reqs[i]? = some r) (f : SlotReq → SlotReq) :
    slot (modReq s n i f) n = { x with reqs := x.reqs.set i (f r) } := by
  rw [modReq, slot_modSlot h, hr]

/-- Among requests none of which satisfies `p` the search finds none. -/
theorem find?_zipIdx_eq_none {α : Type} {l : List α} {p : α → Bool} (h : ∀ a ∈ l, p a = false) : l.zipIdx.find? (fun q => p q.1) = none := by
  rw [List.find?_eq_none]
  rintro ⟨a, k⟩ hk
  simp [h a (List.fst_mem_of_mem_zipIdx hk)]

/-! ### CSE_REQUEST_START -/

/-- The slot is not OPEN once its answers are taken: no request starts. -/
theorem cseRequestStart_of_closed (h : (slot (runSlot s n) n).state ≠ 1) : cseRequestStart s n = runSlot s n :=
  if_pos (by simp [h])

/-- The slot with its next request started, and its wait for the one after it registered (R200). -/
def withBareReq (u : State) (n : Nat) : State :=
  armSlot (modSlot u n (fun x => { x with reqs := x.reqs ++ [bareReq u n], next := x.next + 1 })) n

section started
variable (hu : u = runSlot s n) (ho : (slot u n).state = 1)
include hu

/-- The fence has not reached the number of the next request, and none is being read: no more is done (R200). -/
theorem cseRequestStart_of_unreached (hl : ∀ r ∈ (slot u n).reqs, r.loading = false)
    (hv : (fence u (csReqFence (slot u n).desc)).value < (slot u n).next) : cseRequestStart s n = u := by
  subst hu
  simp [cseRequestStart, find?_zipIdx_eq_none hl, hv]

variable (hq : quarterRuns u (n / 64) = true) (hp : pll u (n / 64) = .running)
include ho hq hp

/-- A request whose entry is being read is read on (R203). -/
theorem cseRequestStart_of_loading (hl : (slot u n).reqs.zipIdx.find? (fun p => p.1.loading) = some (r, i)) :
    cseRequestStart s n = runSlot (loadReq u n i (slot u n) r) n := by
  subst hu
  simp [cseRequestStart, ho, hq, hl, needClock_running hp]

/-- The next request starts (R200, R217, R391). -/
theorem cseRequestStart_of_next (hl : ∀ r ∈ (slot u n).reqs, r.loading = false) (hi : (hoop u (slot u n).hoop).inst = .running)
    (hr : engineResetting u (engCode (.cse (64 * (n / 64)))) = false)
    (hv : (slot u n).next ≤ (fence u (csReqFence (slot u n).desc)).value)
    (hc : 1 < csN (slot u n).desc → 2 ≤ (slot u n).qFree.length) :
    cseRequestStart s n = runSlot (if (fence u (csReqFence (slot u n).desc)).error = true
      then failAtHome (withBareReq u n) n (slot u n).reqs.length .fenceError
      else loadReq (withBareReq u n) n (slot u n).reqs.length (slot (withBareReq u n) n) (bareReq u n)) n := by
  subst hu
  have hc' : ¬(1 < csN (slot (runSlot s n) n).desc ∧ (slot (runSlot s n) n).qFree.length < 2) := fun h => absurd (hc h.1) (by omega)
  simp only [cseRequestStart, ho, hq, find?_zipIdx_eq_none hl, hi, hr, needClock_running hp]
  rw [if_neg (by simp), if_neg (by simpa [hv] using hc'), apply_ite (fun w => runSlot w n)]
  rfl

end started

/-! ### Reading an entry -/

section loading
variable {b : Data}
  (hb : readVa s (slotAcc n x) ((wordAt x.desc 5).toNat + 64 * ((r.num - 1) % 2 ^ fld (wordAt x.desc 3) 21 19)) 64 0 = .ok b v)
include hb

theorem loadReq_of_poison (h : b.poison = true) : loadReq s n i x r = failAtHome v n i .poison := by
  simp [loadReq, hb, h]

theorem loadReq_of_malformed (h : b.poison = false) (he : entryOk x.desc (toWords b.bytes) = false) :
    loadReq s n i x r = failAtHome v n i .format := by
  simp [loadReq, hb, h, he]

end loading

/-! ### Passes -/

/-- The only request of a slot, which wants its first pass, begins it with the count that COUNT_FENCE holds (R206, R213). -/
theorem csePassStart_of_first (hu : u = runSlot s n) (hx : tget u.slots n = some x) (ho : x.state = 1)
    (hq : quarterRuns u (n / 64) = true) (hp : pll u (n / 64) = .running) (hr : x.reqs = [r]) (hpass : r.passing = false)
    (hout : r.outDone = false) (hf : r.forwarded = true) (h0 : r.pass = 0) (he : (fence u (csCountFence x.desc)).error = false)
    (hc : (fence u (csCountFence x.desc)).value ≤ 16 * fld (wordAt x.desc 4) 63 32) :
    (slot (csePassStart s n) n).reqs =
      [{ r with passing := true, block := 0, count := (fence u (csCountFence x.desc)).value, part := 0 }] := by
  subst hu
  have hheld : partsHeld x = [] := by simp [partsHeld, hr, hpass, h0]
  have hwants : wantsPass (decide (csN x.desc = 1)) r = true := by simp [wantsPass, hpass, hout, hf, h0]
  have hreq : x.reqs[0]? = some r := by simp [hr]
  -- the search among transit queries finds it or, when it is the slot's own, the search among all does
  cases hown : r.own <;>
    simp [csePassStart, slot_of_tget hx, hheld, hr, hwants, hown, ho, hq, hpass, needClock_running hp, h0, he, Nat.not_lt.2 hc,
      slot_modReq hx hreq, List.range_succ]

/-- With no pass in progress the slot takes answers only. -/
theorem csePassEnd_of_none (h : ∀ r ∈ (slot s n).reqs, r.passing = false) : csePassEnd s n = runSlot s n := by
  simp [csePassEnd, find?_zipIdx_eq_none h]

/-- The pass of the slot's first request is over: its blocks are done and its partials stand where they must (R209 to R213). -/
theorem csePassEnd_of_over {p : SlotReq} {back : List SlotReq} (ho : (slot s n).state = 1) (hq : quarterRuns s (n / 64) = true)
    (hp : pll s (n / 64) = .running) (hr : (slot s n).reqs = r :: back) (hpass : r.passing = true)
    (hb : passBlocks (slotAcc n (slot s n)) (slot s n).desc ((r.count + 15) / 16 + 1) r s = (p, .ok () v))
    (hs : saveParts v n (slot s n) p = .ok () u) :
    csePassEnd s n = runSlot (modReq u n 0 (fun _ => passOver r p)) n := by
  simp [csePassEnd, hr, hpass, ho, hq, needClock_running hp, hb, Out.andThen, hs, passOver]

/-! ### RING_TIMEOUT -/

/-- A slot of a ring that has awaited something and heard nothing for RING_TIMEOUT fails (R231). -/
theorem ringTimeout_of_silent (ho : (slot s n).state = 1) (hn : 1 < csN (slot s n).desc) (ha : slotAwaits (slot s n) = true)
    (ht : (slot s n).heard + 1000 * fld (wordAt (slot s n).desc 4) 31 0 ≤ s.clk.wick) :
    ringTimeout s n = slotFail s n .timeout (csPos (slot s n).desc) none := if_pos ⟨ho, hn, ha, ht⟩

theorem ringTimeout_of_notOpen (h : (slot s n).state ≠ 1) : ringTimeout s n = s := if_neg (fun k => h k.1)

/-- Settles O35: each clause is one case of `cseRequestStart`, `loadReq`, `csePassStart`, `csePassEnd` or `ringTimeout`. -/
theorem slotPasses : Obligations.SlotPasses := by
  refine ⟨?_, ?_, ?_, ?_, ?_, ?_, ?_, ?_, ?_, ?_⟩
  · intro s n hs ho
    exact next_unlessSafe hs (cseRequestStart_of_closed ho)
  · intro s u n i r hs hu ho hq hl hp
    exact next_unlessSafe hs (cseRequestStart_of_loading hu ho hq hp hl)
  · intro s u n hs hu ho hq hl hi hr hv hc hp
    have hstart := cseRequestStart_of_next hu ho hq hp hl hi hr hv hc
    refine ⟨_, _, rfl, rfl, fun he => ?_, fun he => ?_⟩
    · exact next_unlessSafe hs (hstart.trans (by rw [if_pos he]; rfl))
    · exact next_unlessSafe hs (hstart.trans (by rw [if_neg (by simp [he])]; rfl))
  · intro s v n i x r b hb
    exact ⟨loadReq_of_poison hb, loadReq_of_malformed hb⟩
  · intro s u n hs hu hl hv
    exact next_unlessSafe hs (cseRequestStart_of_unreached hu hl hv)
  · intro s u n x r hs hu hx ho hq hp hr hpass hout hf h0 he hc
    exact ⟨_, next_unlessSafe hs rfl, csePassStart_of_first hu hx ho hq hp hr hpass hout hf h0 he hc⟩
  · intro s n hs h
    exact next_unlessSafe hs (csePassEnd_of_none h)
  · intro s u v n r p back hs ho hq hp hr hpass hb hsave
    exact next_unlessSafe hs (csePassEnd_of_over ho hq hp hr hpass hb hsave)
  · intro s n hs ho hn ha ht
    exact next_unlessSafe hs (ringTimeout_of_silent ho hn ha ht)
  · intro s n h
    exact next_unlessSafe_self (ringTimeout_of_notOpen h)

end Sys2Proof.Machine
end

section
/-! SUPPORT. What leaves the records of the sequence slots alone: the accesses of an engine, what they latch and send, and the signals of
fences. -/

namespace Sys2Proof.Machine

variable {s t u : State}

/-! ### Outcomes -/

@[simp] theorem state_ok {α : Type} (x : α) (s : State) : (Out.ok x s).state = s := rfl
@[simp] theorem state_wait {α : Type} (s : State) : (Out.wait s : Out α).state = s := rfl
@[simp] theorem state_fail {α : Type} (st : Status) (s : State) : (Out.fail st s : Out α).state = s := rfl

/-- What both parts of a sequence keep, the sequence keeps. -/
theorem andThen_slots {α β : Type} {o : Out α} {f : α → State → Out β} (ho : o.state.slots = s.slots)
    (hf : ∀ x t, t.slots = s.slots → (f x t).state.slots = s.slots) : (o.andThen f).state.slots = s.slots := by
  cases o with
  | ok x t => exact hf x t ho
  | wait t => exact ho
  | fail st t => exact ho

theorem booked.slots (h : booked s t) : t.slots = s.slots := by obtain ⟨_, _, rfl⟩ := h; rfl

theorem foldl_slots {β : Type} {g : State → β → State} (h : ∀ s b, (g s b).slots = s.slots) (l : List β) (s : State) :
    (l.foldl g s).slots = s.slots := foldl_field State.slots h l s

/-- A fold that carries a state and a place in the data keeps what each of its steps keeps. -/
theorem foldl_fst_slots {β γ : Type} {g : State × γ → β → State × γ} (h : ∀ p b, (g p b).1.slots = p.1.slots) (l : List β)
    (p : State × γ) : (l.foldl g p).1.slots = p.1.slots := by
  induction l generalizing p with
  | nil => rfl
  | cons b l ih => rw [List.foldl_cons, ih, h]

/-! ### Counters and latched faults -/

@[simp] theorem countB_slots (s : State) (b i n : Nat) : (countB s b i n).slots = s.slots := addCell_slots s _ _ _ _
@[simp] theorem countE_slots (s : State) (e i n : Nat) : (countE s e i n).slots = s.slots := addCell_slots s _ _ _ _
@[simp] theorem countP_slots (s : State) (p i n : Nat) : (countP s p i n).slots = s.slots := addCell_slots s _ _ _ _
@[simp] theorem countQ_slots (s : State) (q i n : Nat) : (countQ s q i n).slots = s.slots := addCell_slots s _ _ _ _
@[simp] theorem selCount_slots (s : State) (q : Option Nat) (ev n : Nat) (h c x : Option Nat) :
    (selCount s q ev n h c x).slots = s.slots := (booked_selCount s q ev n h c x).slots
@[simp] theorem setCells_slots (s : State) (e row w : Nat) (ws : List Word) : (setCells s e row w ws).slots = s.slots :=
  (booked_setCells s e row w ws).slots

@[simp] theorem startReset_slots (s : State) (r : Reset) : (startReset s r).slots = s.slots := by simp [startReset]

@[simp] theorem faultResets_slots (s : State) (f : FaultInfo) (trigger logAt : Nat) : (faultResets s f trigger logAt).slots = s.slots := by
  simp [faultResets, apply_ite State.slots]

@[simp] theorem raiseLevel_slots (s : State) (c : Nat) : (raiseLevel s c).slots = s.slots := by
  simp [raiseLevel, apply_ite State.slots]

@[simp] theorem logFault_slots (s : State) (f : FaultInfo) (subsequent same : Bool) (code : Nat) :
    (logFault s f subsequent same code).slots = s.slots := by simp [logFault]

@[simp] theorem safeState_slots (s : State) : (safeState s).slots = s.slots := by simp [safeState]

@[simp] theorem latch_slots (s : State) (f : FaultInfo) : (latch s f).slots = s.slots := by
  simp [latch, apply_ite State.slots]

/-! ### Local memory -/

@[simp] theorem wbs_slots (s : State) (a : Nat) (bs : List Byte) : (wbs s a bs).slots = s.slots := rfl
@[simp] theorem clearResv_slots (s : State) (a n : Nat) : (clearResv s a n).slots = s.slots := rfl
@[simp] theorem closeWindow_slots (s : State) (line : Nat) : (closeWindow s line).slots = s.slots := rfl
@[simp] theorem portArrive_slots (s : State) (p : Nat) (flow : Option Nat) (n : Nat) : (portArrive s p flow n).slots = s.slots := rfl
@[simp] theorem putCheck_slots (s : State) (a c : Nat) : (putCheck s a c).slots = s.slots := by
  rw [putCheck, wbs_slots]
@[simp] theorem hbmPut_slots (s : State) (a : Nat) (bs : List Byte) : (hbmPut s a bs).slots = s.slots := wbs_slots s _ _
@[simp] theorem sealBlock_slots (s : State) (a : Nat) (poison : Bool) : (sealBlock s a poison).slots = s.slots :=
  putCheck_slots s _ _
@[simp] theorem setInjected_slots (s : State) (a k : Nat) : (setInjected s a k).slots = s.slots := rfl
@[simp] theorem writeLine_slots (s : State) (a : Nat) (bs : List Byte) (poison : Bool) : (writeLine s a bs poison).slots = s.slots := rfl
@[simp] theorem holdWrite_slots (s : State) (who : Who) (a : Nat) (bs : List Byte) (poison : Bool) (check : Option Nat) :
    (holdWrite s who a bs poison check).slots = s.slots := rfl

@[simp] theorem writeScratch_slots (s : State) (a : Nat) (bs : List Byte) (poison : Bool) :
    (writeScratch s a bs poison).slots = s.slots := by
  simp [writeScratch, poisonWords, apply_ite State.slots]

@[simp] theorem clearPlanted_slots (s : State) (a : Nat) : (clearPlanted s a).slots = s.slots := by
  simp [clearPlanted, apply_ite State.slots]

@[simp] theorem applyInjection_slots (s : State) (a : Nat) : (applyInjection s a).slots = s.slots := by
  unfold applyInjection
  split
  · rw [setInjected_slots, putCheck_slots]
  · split
    · rw [setInjected_slots]
    · rfl

@[simp] theorem blockFault_slots (s : State) (who : Who) (a access cls : Nat) : (blockFault s who a access cls).slots = s.slots := by
  simp [blockFault]

@[simp] theorem mergeBlock_slots (s : State) (who : Who) (a : Nat) (bs : List Byte) (poison : Bool) :
    (mergeBlock s who a bs poison).slots = s.slots := by
  unfold mergeBlock
  dsimp only
  split
  · simp
  · split <;> simp

@[simp] theorem countRemapped_slots (s : State) (a : Nat) : (countRemapped s a).slots = s.slots := by
  simp [countRemapped, apply_ite State.slots]

@[simp] theorem storeBlock_slots (s : State) (who : Who) (a : Nat) (bs : List Byte) (poison : Bool) :
    (storeBlock s who a bs poison).slots = s.slots := by
  simp [storeBlock, apply_ite State.slots]

@[simp] theorem performMerge_slots (s : State) (m : Merge) : (performMerge s m).slots = s.slots := by
  simp [performMerge, apply_ite State.slots]

@[simp] theorem flushMerges_slots (s : State) (blk : Nat) : (flushMerges s blk).slots = s.slots := foldl_slots performMerge_slots _ _

@[simp] theorem writeBlock_slots (s : State) (who : Who) (a : Nat) (bs : List Byte) (poison : Bool) :
    (writeBlock s who a bs poison).slots = s.slots := by
  simp [writeBlock, apply_ite State.slots]

@[simp] theorem writeRun_slots (s : State) (who : Who) (a : Nat) (bs : List Byte) (poison : Bool) :
    (writeRun s who a bs poison).slots = s.slots := by
  unfold writeRun
  split
  · split
    · exact foldl_slots (fun t p => writeBlock_slots t who _ _ _) _ _
    · rfl
  · split
    · exact foldl_slots (fun t p => writeLine_slots t _ _ _) _ _
    · simp [apply_ite State.slots]

/-! ### Whether an access may be made -/

@[simp] theorem needClock_slots (s : State) (q : Nat) : (needClock s q).state.slots = s.slots := by
  unfold needClock
  split
  · rfl
  · rfl
  · simp [setPll, apply_ite Out.state, apply_ite State.slots]

@[simp] theorem wakeLantern_slots (s : State) (l : Nat) : (wakeLantern s l).state.slots = s.slots := by
  unfold wakeLantern
  split <;> simp [apply_ite Out.state, apply_ite State.slots]

@[simp] theorem localOpen_slots (s : State) (who : Who) (a n : Nat) (write own : Bool) : (localOpen s who a n write own).state.slots = s.slots := by
  have hhbm (p : State → Prop) [DecidablePred p] : ((needClock s (addrQuarter a)).andThen (fun _ s =>
      if p s then .wait s else Out.ok () s)).state.slots = s.slots :=
    andThen_slots (needClock_slots s _) fun _ t ht => by simp [apply_ite Out.state, ht]
  have hscratch (q l : Nat) : ((needClock s q).andThen (fun _ s => if own then .ok () s else wakeLantern s l)).state.slots = s.slots :=
    andThen_slots (needClock_slots s _) fun _ t ht => by simp [apply_ite Out.state, apply_ite State.slots, ht]
  unfold localOpen
  split
  · rfl
  · split <;> simp [apply_ite Out.state, apply_ite State.slots, hhbm, hscratch]

@[simp] theorem localReady_slots (s : State) (who : Who) (a n : Nat) (write own : Bool) :
    (localReady s who a n write own).state.slots = s.slots :=
  andThen_slots (localOpen_slots s who a n write own) fun _ t ht => by simp [apply_ite Out.state, ht]

@[simp] theorem tagStall_slots (s : State) (p : Nat) : (tagStall s p).slots = s.slots := by simp [tagStall]

theorem piecesReady_slots (s : State) (a : Acc) (write own : Bool) (ps : List Piece) : (piecesReady s a write own ps).state.slots = s.slots := by
  induction ps generalizing s with
  | nil => rfl
  | cons p ps ih =>
    refine andThen_slots ?_ fun _ t ht => (ih t).trans ht
    split
    · rfl
    · split <;> simp [apply_ite Out.state, apply_ite State.slots]

theorem remoteWritesReady_slots (s : State) (a : Acc) (ps : List Piece) : (remoteWritesReady s a ps).state.slots = s.slots := by
  induction ps with
  | nil => rfl
  | cons p ps ih =>
    unfold remoteWritesReady
    split
    · exact ih
    · split <;> simp [apply_ite Out.state, apply_ite State.slots, ih]

/-! ### Translation -/

@[simp] theorem rightsEvent_slots (s : State) (h : Nat) : (rightsEvent s h).slots = s.slots := bump_slots s _ _

@[simp] theorem translate_slots (s : State) (a : Acc) (va kind : Nat) : (translate s a va kind).state.slots = s.slots := by
  unfold translate
  dsimp only
  split
  · split <;> rfl
  · split <;> simp [apply_ite Out.state, apply_ite State.slots]

theorem translateAll_slots (s : State) (a : Acc) (kind : Nat) (l : List (Nat × Nat)) : (translateAll s a kind l).state.slots = s.slots := by
  induction l generalizing s with
  | nil => rfl
  | cons p l ih =>
    have hfirst := translate_slots s a p.1 kind
    unfold translateAll
    split <;> rename_i hx <;> rw [hx] at hfirst
    · exact hfirst
    · exact (ih _).trans hfirst
    · exact andThen_slots ((ih _).trans hfirst) fun _ t ht => ht

/-! ### Requests to other nodes -/

@[simp] theorem crossTo_slots (s : State) (who : Who) (a b : Option Nat) (n : Nat) : (crossTo s who a b n).slots = s.slots := by
  unfold crossTo
  dsimp only
  split
  · rw [foldl_slots (fun t p => by simp [apply_ite State.slots])]
    simp [apply_ite State.slots]
  · simp [apply_ite State.slots]

@[simp] theorem freeBytes_slots (n : Nat) (s : State) : (freeBytes n s).2.slots = s.slots := by
  induction n generalizing s with
  | zero => rfl
  | succ n ih => exact ih _

@[simp] theorem sendSeq_slots (s : State) (e ty key : Nat) (enc : Bool) (first : Nat) (body : List Byte) :
    (sendSeq s e ty key enc first body).slots = s.slots := by simp [sendSeq]

@[simp] theorem sendCtrl_slots (s : State) (e : Nat) : (sendCtrl s e).slots = s.slots := by
  simp [sendCtrl, apply_ite State.slots]

@[simp] theorem sendDue_slots (k : Nat) (s : State) (e : Nat) : (sendDue k s e).slots = s.slots := by
  induction k generalizing s with
  | zero => rfl
  | succ k ih => simp [sendDue, apply_ite State.slots, ih]

@[simp] theorem sendFlits_slots (s : State) (e : Nat) (msg : List Byte) : (sendFlits s e msg).slots = s.slots :=
  foldl_slots (fun t _ => sendSeq_slots t _ _ _ _ _ _) _ _

theorem pumpEye_go_slots (e k : Nat) (s : State) : (pumpEye.go e k s).slots = s.slots := by
  induction k generalizing s with
  | zero => rfl
  | succ k ih =>
    unfold pumpEye.go
    split
    · rfl
    · simp [ih]

@[simp] theorem sendMsg_slots (s : State) (e : Nat) (m : TxMsg) : (sendMsg s e m).slots = s.slots := by
  simp [sendMsg, pumpEye, pumpEye_go_slots, apply_ite State.slots]

@[simp] theorem sendRemote_slots (s : State) (who : Who) (h aspace entry msg node addr len row status : Nat) (d : Data) :
    (sendRemote s who h aspace entry msg node addr len row status d).state.slots = s.slots := by
  unfold sendRemote sendAs
  split
  · rfl
  · split
    · rfl
    · dsimp only
      split
      · simp
      · split <;> simp

/-! ### Host memory and the writes of an engine -/

@[simp] theorem markWrote_slots (s : State) (eng : Eng) (p : Nat) : (markWrote s eng p).slots = s.slots := by
  unfold markWrote
  split <;> simp

@[simp] theorem writeHost_slots (s : State) (who : Who) (a : Nat) (bs : List Byte) (poison : Bool) :
    (writeHost s who a bs poison).slots = s.slots := by simp [writeHost, hostPut, portArriveAs]

@[simp] theorem countPage_slots (s : State) (page : Option Nat) (n : Nat) : (countPage s page n).slots = s.slots := by
  unfold countPage
  split <;> rfl

@[simp] theorem putPieces_slots (s : State) (a : Acc) (d : Data) (at_ : Nat) (ps : List Piece) : (putPieces s a d at_ ps).slots = s.slots := by
  induction ps generalizing s at_ with
  | nil => rfl
  | cons p ps ih =>
    refine (ih _ _).trans ?_
    split <;> simp [apply_ite State.slots]

theorem writeVaBad_slots (s : State) (a : Acc) (va : Nat) (bs : List Byte) (bad : List (Nat × Nat)) (own : Bool) :
    (writeVaBad s a va bs bad own).state.slots = s.slots := by
  refine andThen_slots (translateAll_slots s a 1 _) fun ps t ht => ?_
  refine andThen_slots ((piecesReady_slots t a true own ps).trans ht) fun _ u hu => ?_
  refine andThen_slots ((remoteWritesReady_slots u a ps).trans hu) fun _ v hv => Eq.trans ?_ hv
  exact foldl_fst_slots (fun acc p => putPieces_slots acc.1 a _ 0 [p]) _ (v, 0)

@[simp] theorem writeVa_slots (s : State) (a : Acc) (va : Nat) (d : Data) (own : Bool) : (writeVa s a va d own).state.slots = s.slots :=
  writeVaBad_slots s a va _ _ own

theorem placeVa_slots (s : State) (a : Acc) (va n kind : Nat) (write : Bool) : (placeVa s a va n kind write).state.slots = s.slots :=
  andThen_slots (translate_slots s a va kind) fun _ t ht =>
    andThen_slots ((piecesReady_slots t a write false _).trans ht) fun _ _ hu => hu

@[simp] theorem issuePicot_slots (s : State) (a : Acc) (p : Piece) (data : List Byte) : (issuePicot s a p data).state.slots = s.slots := by
  unfold issuePicot
  split
  · dsimp only
    split
    · simp
    · rfl
  · rfl

/-! ### Signals -/

@[simp] theorem stopLantern_slots (s : State) (l : Nat) (st : Status) : (stopLantern s l st).slots = s.slots := rfl

@[simp] theorem stopStitch_slots (s : State) (q e : Nat) : (stopStitch s q e).slots = s.slots :=
  foldl_slots (fun t l => stopLantern_slots t l .ok) _ _

@[simp] theorem endStrand_slots (s : State) (l : Nat) (st : Status) : (endStrand s l st).slots = s.slots := by
  unfold endStrand
  split <;> simp

@[simp] theorem countRetired_slots (s : State) (l : Nat) : (countRetired s l).slots = s.slots := by
  unfold countRetired
  split
  · rfl
  · exact selCount_slots _ _ _ _ _ _ _

@[simp] theorem coreRet_slots (s : State) (l c rd : Nat) (v : Word) : (coreRet s l c rd v).slots = s.slots := by
  rw [coreRet, retire, countRetired_slots]
  rfl

@[simp] theorem releaseWaiter_slots (s : State) (w : Wait) (err : Bool) : (releaseWaiter s w err).slots = s.slots := by
  unfold releaseWaiter
  split
  · simp [apply_ite State.slots]
  · split <;> simp [apply_ite State.slots]
  · simp [apply_ite State.slots]
  · rfl
  · rfl

@[simp] theorem releaseMet_slots (s : State) (f : Nat) : (releaseMet s f).slots = s.slots := by
  refine (foldl_slots (fun t w => ?_) _ _).trans rfl
  dsimp only
  split
  · rw [(booked_showActivity _ _).slots, releaseWaiter_slots]
  · exact releaseWaiter_slots t w _

@[simp] theorem signalLocal_slots (s : State) (f v : Nat) (err qf2 : Bool) : (signalLocal s f v err qf2).slots = s.slots := by
  simp [signalLocal, discardSignal, errorSignal, apply_ite State.slots]

@[simp] theorem engineSignal_slots (s : State) (who : Who) (h f v : Nat) (err : Bool) (row : Nat) :
    (engineSignal s who h f v err row).state.slots = s.slots := by
  simp [engineSignal, aliasSignal, apply_ite Out.state, apply_ite State.slots]

/-! ### What a slot has to write or send -/

@[simp] theorem dropEngX_slots (s : State) (eng : Eng) : (dropEngX s eng).slots = s.slots := rfl
@[simp] theorem dropPicots_slots (s : State) (mine : Eng → Bool) : (dropPicots s mine).slots = s.slots := rfl

theorem failSend_slots (s : State) (n : Nat) (x : Slot) (down : Bool) (reason : Status) (origin : Nat) :
    (failSend s n x down reason origin).state.slots = s.slots :=
  andThen_slots (placeVa_slots s _ _ _ _ _) fun p t ht => (issuePicot_slots t _ p _).trans ht

/-- Whatever a slot writes or sends, the records of the slots stay as they are. -/
theorem outStep_slots (s : State) (n : Nat) (x : Slot) (o : SlotOut) : (outStep s n x o).state.slots = s.slots := by
  cases o with
  | fail down reason origin => exact failSend_slots s n x down reason origin
  | w7 num started st => exact writeVa_slots s _ _ _ _
  | record state reason => exact writeVa_slots s _ _ _ _
  | signal => simp [outStep, apply_ite Out.state, apply_ite State.slots]

end Sys2Proof.Machine
end

section
/-! PROOFS. Mailbox words: those that a slot takes, those that are dropped, and those that fail it (R214 to R221, R231 to R233). -/

namespace Sys2Proof.Machine

open Sys2Proof.Safety

variable {s t u v : State} {n i ty : Nat} {w : Word} {x : Slot} {r : SlotReq} {f : State → Slot → Out Unit}

/-! ### A word taken, dropped or poisoned -/

/-- The mailbox without slot `n`'s word `w`. -/
def mailWithout (s : State) (n : Nat) (w : Word) : State := { s with mem := { s.mem with mail := dropFirst (isWord n w) s.mem.mail } }

/-- What a word that fits asks for can be done: it is, and the slot runs on. -/
theorem takeWord_of_fit (hty : 1 ≤ ty ∧ ty ≤ 6) (hw : wordFor s n ty w) (hf : f (wordTaken s n w) (slot s n) = .ok () t) :
    takeWord s n ty w f = runSlot t n := by
  obtain ⟨hopen, hclean, htype, hseq, hmember, hpool⟩ := hw
  unfold takeWord
  dsimp only
  rw [if_neg (by simp [htype]), if_neg (fun h => Bool.noConfusion (h.2.symm.trans hclean)), if_neg (by simp [hopen, hseq]),
    if_neg (by cases hp : typePool ty with
      | none => simp [htype, hty, hmember]
      | some p => simp [htype, hty, hmember, hpool p hp])]
  split <;> rename_i h <;> cases h.symm.trans hf
  rfl

section typed
variable (htype : fld w 63 60 = ty)
include htype

/-- A word for a slot that is not OPEN, or a clean one of another sequence, is dropped and counted (R221). -/
theorem takeWord_of_foreign (h : (slot s n).state ≠ 1 ∨ wordBad s n w = false ∧ fld w 39 24 ≠ fld (wordAt (slot s n).desc 11) 63 48) :
    takeWord s n ty w f = dropWord (mailWithout s n w) n := by
  have hclean : ¬((slot s n).state = 1 ∧ wordBad s n w = true) := by
    rintro ⟨ho, hb⟩
    rcases h with h | h
    · exact h ho
    · exact Bool.noConfusion (hb.symm.trans h.1)
  refine (if_neg (by simp [htype])).trans ((if_neg hclean).trans (if_pos ?_))
  rcases h with h | h
  · simp [h]
  · simp [h.2]

/-- A poisoned word fails an OPEN slot (R231). -/
theorem takeWord_of_poison (ho : (slot s n).state = 1) (hb : wordBad s n w = true) :
    takeWord s n ty w f = slotFail (mailWithout s n w) n .poison (csPos (slot s n).desc) none :=
  (if_neg (by simp [htype])).trans (if_pos ⟨ho, hb⟩)

end typed

/-- Each ring word's command takes the word as its type does. -/
theorem exec_ringWord {c : Instr} (h : (ty, c) ∈ [(1, Instr.query n w), (2, .partialMsg n w), (3, .max n w), (4, .gmax n w),
    (5, .credit n w), (6, .fail n w)]) : ∃ f, exec c s = .next (takeWord s n ty w f) := by
  simp only [List.mem_cons, Prod.mk.injEq, List.not_mem_nil, or_false] at h
  rcases h with ⟨rfl, rfl⟩ | ⟨rfl, rfl⟩ | ⟨rfl, rfl⟩ | ⟨rfl, rfl⟩ | ⟨rfl, rfl⟩ | ⟨rfl, rfl⟩ <;> exact ⟨_, rfl⟩

/-- The slot that a word was taken for has heard. -/
theorem tget_wordTaken (h : tget s.slots n = some x) : tget (wordTaken s n w).slots n = some { x with heard := s.clk.wick } :=
  tget_modSlot (s := mailWithout s n w) h _

/-- The request changed in place. -/
theorem getElem?_modReq (hx : tget s.slots n = some x) (hr : x.reqs[i]? = some r) (f : SlotReq → SlotReq) :
    (slot (modReq s n i f) n).reqs[i]? = some (f r) := by
  rw [slot_modReq hx hr, List.getElem?_set_self (List.getElem?_eq_some_iff.1 hr).1]

/-! ### What the words do -/

/-- QUERY: the request that it brings (R218, R219). -/
def queryReq (v : State) (x : Slot) (w : Word) (h p : List Word × List Byte × List (Nat × Nat)) : SlotReq :=
  { newReq v x.desc (fld w 49 44) (fld w 23 0) false (wordAt h.1 0) (wordAt h.1 3) 0 p.2.1 p.2.2 (fld w 59 59) with
    chain := statusOf (fld w 57 50) }

theorem query_of_fit {h p : List Word × List Byte × List (Nat × Nat)} (hx : tget s.slots n = some x) (hw : wordFor s n 1 w)
    (hh : readPayload (wordTaken s n w) n x 0 (fld w 59 59) 0 = .ok h u) (hseq : wordAt h.1 2 = setFld (wordAt x.desc 0) 49 44 0)
    (hp : readPayload u n x 0 (fld w 59 59) (8 * (fld (wordAt h.1 0) 46 40 + 1) +
      csH x.desc * (fld (wordAt h.1 0) 46 40 + 1) * csD x.desc * elemBytes (fmtD (fld (wordAt h.1 0) 59 56))) = .ok p v) :
    query s n w = runSlot (modSlot v n (fun y => { y with reqs := y.reqs ++ [queryReq v x w h p] })) n := by
  refine takeWord_of_fit (by decide) hw ?_
  rw [slot_of_tget hx]
  simp only [hh, Out.andThen, hseq, hp]
  exact if_neg (not_not.2 rfl)

section named
variable {p : List Word × List Byte × List (Nat × Nat)} (hx : tget s.slots n = some x) (hr : namedReq x w = some (r, i))
include hx hr

theorem maxWord_of_fit (hw : wordFor s n 3 w)
    (hp : readPayload (wordTaken s n w) n x 1 (fld w 59 59) (4 * (csH x.desc * rqRows r)) = .ok p v) :
    maxWord s n w = runSlot (modReq v n i (fun r => { r with
      maxIn := some (fld w 59 59, bodyVals p.2.1 p.2.2), chain := statusMax r.chain (statusOf (fld w 57 50)) })) n := by
  refine takeWord_of_fit (by decide) hw ?_
  simp only [slot_of_tget hx, hr, hp, Out.andThen]

theorem gmaxWord_of_fit (hw : wordFor s n 4 w)
    (hp : readPayload (wordTaken s n w) n x 1 (fld w 59 59) (4 * (csH x.desc * rqRows r)) = .ok p v) :
    gmaxWord s n w = runSlot (modReq (owesCredit n 1 (fld w 59 59) v) n i (fun r => { r with
      gmax := some (bodyVals p.2.1 p.2.2), chain := statusMax r.chain (statusOf (fld w 57 50)) })) n := by
  refine takeWord_of_fit (by decide) hw ?_
  simp only [slot_of_tget hx, hr, hp, Out.andThen]
  rfl

theorem partialWord_of_fit {b : List Partial × State} (hw : wordFor s n 2 w)
    (hp : readPayload (wordTaken s n w) n x 1 (fld w 59 59) (csH x.desc * rqRows r *
      (if rqDet r = true then 88 * (csD x.desc + 1) else 8 + 4 * csD x.desc)) = .ok p v)
    (hb : b = bodyParts v (rqDet r) (csD x.desc) (csH x.desc * rqRows r) p.2.1 p.2.2) :
    partialWord s n w = runSlot (modReq b.2 n i (fun r => { r with
      partIn := some (fld w 59 59, b.1), chain := statusMax r.chain (statusOf (fld w 57 50)) })) n := by
  subst hb
  refine takeWord_of_fit (by decide) hw ?_
  simp only [slot_of_tget hx, hr, hp, Out.andThen]

end named

theorem creditWord_of_fit (hw : wordFor s n 5 w) :
    creditWord s n w = runSlot (modSlot (wordTaken s n w) n (fun x => if fld w 58 58 = 0
      then { x with qFree := insertNat x.qFree (fld w 59 59) } else { x with pFree := insertNat x.pFree (fld w 59 59) })) n :=
  takeWord_of_fit (by decide) hw rfl

theorem mem_insertNat (l : List Nat) (k : Nat) : k ∈ insertNat l k := by
  induction l with
  | nil => simp [insertNat]
  | cons a l ih =>
    unfold insertNat
    split
    · simp
    · split
      · rename_i h
        simp [h]
      · simp [ih]

/-! ### A slot that fails -/

/-- `y` is `x` but for what the slot has yet to write or send. -/
def owesOnly (x y : Slot) : Prop := ∃ os, y = { x with out := os }

theorem owesOnly.refl (x : Slot) : owesOnly x x := ⟨_, rfl⟩

theorem owesOnly.trans {x y z : Slot} (h : owesOnly x y) (h' : owesOnly y z) : owesOnly x z := by
  obtain ⟨_, rfl⟩ := h
  obtain ⟨os, rfl⟩ := h'
  exact ⟨os, rfl⟩

theorem owesOnly_modSlot (s : State) (n : Nat) (f : List SlotOut → List SlotOut) :
    owesOnly (slot s n) (slot (modSlot s n (fun x => { x with out := f x.out })) n) := by
  cases h : tget s.slots n with
  | none => rw [modSlot, h]; exact .refl _
  | some x => rw [slot_modSlot h, slot_of_tget h]; exact ⟨_, rfl⟩

theorem slot_outStep (s : State) (n : Nat) (x : Slot) (o : SlotOut) : slot (outStep s n x o).state n = slot s n := by
  rw [slot, outStep_slots, slot]

theorem owesOnly_outFirst (s : State) (n : Nat) (l : List (SlotOut × Nat)) : owesOnly (slot s n) (slot (outFirst s n l).state n) := by
  induction l generalizing s with
  | nil => exact .refl _
  | cons p l ih =>
    have hstep := slot_outStep s n (slot s n) p.1
    unfold outFirst
    split <;> rename_i h <;> rw [h] at hstep <;> rw [← hstep]
    · exact owesOnly_modSlot _ n (fun out => out.eraseIdx p.2)
    · exact owesOnly_modSlot _ n (fun out => out.eraseIdx p.2)
    · exact ih _

theorem owesOnly_pumpOut (k : Nat) (s : State) (n : Nat) : owesOnly (slot s n) (slot (pumpOut k s n) n) := by
  induction k generalizing s with
  | zero => exact .refl _
  | succ k ih =>
    have hfirst := owesOnly_outFirst s n ((slot s n).out.zipIdx.filter (fun p => outNow (slot s n).out p.2))
    unfold pumpOut
    dsimp only
    split <;> rename_i h <;> rw [h] at hfirst
    · exact hfirst.trans (ih _)
    · exact hfirst
    · exact hfirst

/-- Whatever a slot writes and sends takes away from what it owes, and changes nothing else of its record. -/
theorem owesOnly_payOut (s : State) (n : Nat) : owesOnly (slot s n) (slot (payOut s n) n) := owesOnly_pumpOut _ s n

/-- A slot whose requests are abandoned has none left; its state, reason and origin stay (R228, R232). -/
theorem tget_dropReqs (hx : tget s.slots n = some x) (st : Status) (always : Bool) : ∃ y, tget (dropReqs s n st always).slots n = some y ∧
    y.state = x.state ∧ y.reason = x.reason ∧ y.origin = x.origin ∧ y.reqs = [] := by
  unfold dropReqs
  rw [dropPicots_slots, dropEngX_slots]
  exact ⟨_, tget_modSlot (s := { s with mem := { s.mem with mail := s.mem.mail.filter (fun m => decide (m.1 ≠ n)) } }) hx _, rfl, rfl, rfl, rfl⟩

/-- Slot `n` marked FAILED, its wait dropped (R232). -/
def markedFailed (s : State) (n : Nat) (reason : Status) (origin : Nat) : State :=
  let s := modSlot s n (fun x => { x with state := 2, reason := reason, origin := origin })
  { s with waits := s.waits.filter (fun w => decide (w.who ≠ .slot n)) }

theorem tget_markedFailed (hx : tget s.slots n = some x) (reason : Status) (origin : Nat) :
    tget (markedFailed s n reason origin).slots n = some { x with state := 2, reason := reason, origin := origin } := tget_modSlot hx _

/-- An OPEN slot that fails is marked, tells its neighbours where there are some, abandons its requests and writes its record (R232). -/
theorem slotFail_of_open (ho : (slot s n).state = 1) (reason : Status) (origin : Nat) (back : Option (Bool × Bool)) :
    ∃ t, (t = markedFailed s n reason origin ∨ ∃ os, t = slotOwesFirst (markedFailed s n reason origin) n os) ∧
      slotFail s n reason origin back = payOut (slotOwes (dropReqs t n reason true) n [.record 2 reason]) n := by
  refine ⟨_, ?_, if_neg (not_not.2 ho)⟩
  cases back with
  | none =>
    by_cases h : csN (slot s n).desc = 1
    · exact .inl (if_pos h)
    · exact .inr ⟨_, if_neg h⟩
  | some b =>
    obtain ⟨down, goes⟩ := b
    cases goes
    · exact .inl rfl
    · exact .inr ⟨_, rfl⟩

/-- An OPEN slot that fails is FAILED, with the reason and the origin, and has no requests left (R232). -/
theorem slot_slotFail (hx : tget s.slots n = some x) (ho : x.state = 1) (reason : Status) (origin : Nat) (back : Option (Bool × Bool))
    (ht : t = slotFail s n reason origin back) :
    (slot t n).state = 2 ∧ (slot t n).reason = reason ∧ (slot t n).origin = origin ∧ (slot t n).reqs = [] := by
  obtain ⟨u, hu, hfail⟩ := slotFail_of_open ((slot_of_tget hx).symm ▸ ho) reason origin back
  have hmarked : ∃ y, tget u.slots n = some y ∧ y.state = 2 ∧ y.reason = reason ∧ y.origin = origin := by
    have hfailed := tget_markedFailed hx reason origin
    obtain rfl | ⟨os, rfl⟩ := hu
    · exact ⟨_, hfailed, rfl, rfl, rfl⟩
    · exact ⟨_, tget_modSlot hfailed _, rfl, rfl, rfl⟩
  obtain ⟨y, hy, hystate, hyreason, hyorigin⟩ := hmarked
  obtain ⟨z, hz, hstate, hreason, horigin, hreqs⟩ := tget_dropReqs hy reason true
  obtain ⟨os, hpaid⟩ := owesOnly_payOut (slotOwes (dropReqs u n reason true) n [.record 2 reason]) n
  rw [slotOwes, slot_modSlot hz] at hpaid
  rw [ht, hfail, slotOwes, hpaid]
  exact ⟨hstate.trans hystate, hreason.trans hyreason, horigin.trans hyorigin, hreqs⟩

/-- FAIL: the slot fails, and tells its neighbour on the way unless the failure began there (R233). -/
theorem failWord_of_fit (hw : wordFor s n 6 w) : ∃ back, failWord s n w =
    runSlot (slotFail (wordTaken s n w) n (statusOf (fld w 57 50)) (fld w 49 44) back) n :=
  ⟨_, takeWord_of_fit (by decide) hw rfl⟩

/-- Settles O36: a word that fits by `takeWord_of_fit` and the record that its command leaves, any other by `takeWord_of_foreign` or
`takeWord_of_poison`. -/
theorem ringWords : Obligations.RingWords := by
  refine ⟨?_, ?_, ?_, ?_, ?_, ?_, ?_, ?_, ?_⟩
  · intro s u v n w x y h p hx hw hh hseq hp hy
    refine ⟨_, queryReq v x w h p, congrArg Host.Outcome.next (query_of_fit hx hw hh hseq hp), ?_, rfl, rfl, rfl, rfl, rfl⟩
    rw [slot_modSlot hy]
  · intro s v n i w x y r z p hx hw hr hp hy hz
    refine ⟨_, _, congrArg Host.Outcome.next (maxWord_of_fit hx hr hw hp), getElem?_modReq hy hz _, rfl, ?_⟩
    rw [slot_modReq hy hz]
  · intro s v n i w x y r z p hx hw hr hp hy hz
    have hcredit := tget_modSlot hy (fun y => { y with credits := y.credits ++ [(1, fld w 59 59)] })
    refine ⟨_, _, congrArg Host.Outcome.next (gmaxWord_of_fit hx hr hw hp), getElem?_modReq hcredit hz _, rfl, ?_⟩
    rw [owesCredit, slot_modReq hcredit hz]
  · intro s v n i w x r p hx hw hr hp
    refine ⟨_, congrArg Host.Outcome.next (partialWord_of_fit hx hr hw hp rfl), fun y z hs hy hz => ?_⟩
    exact ⟨_, getElem?_modReq ((congrArg (tget · n) hs).trans hy) hz _, rfl⟩
  · intro s n w x hx hw
    refine ⟨_, congrArg Host.Outcome.next (creditWord_of_fit hw), ?_⟩
    rw [slot_modSlot (tget_wordTaken hx)]
    split <;> simp [mem_insertNat]
  · intro s n w x hx hw
    obtain ⟨back, hfail⟩ := failWord_of_fit hw
    exact ⟨_, congrArg Host.Outcome.next hfail, slot_slotFail (tget_wordTaken hx) ((slot_of_tget hx).symm ▸ hw.isOpen) _ _ _ rfl⟩
  · intro s n ty w c hc htype h
    obtain ⟨f, hexec⟩ := exec_ringWord (s := s) hc
    exact hexec.trans (congrArg Host.Outcome.next (takeWord_of_foreign htype h))
  · intro s n ty w c hc htype ho hb
    obtain ⟨f, hexec⟩ := exec_ringWord (s := s) hc
    exact hexec.trans (congrArg Host.Outcome.next (takeWord_of_poison htype ho hb))
  · intro s q
    rfl

end Sys2Proof.Machine
end

section
/-! PROOFS. MOVER_DISPATCH during a FENCE reaction for a mover (R250, R494). -/

namespace Sys2Proof.Machine

variable {s : State} {q m : Nat}

/-- A descriptor stays in the queue while the first idle mover is in a reset or in a FENCE reaction (R494, R510). -/
theorem moverDispatch_of_resetting (hm : m < 16) (hlow : ∀ k < m, (mvJob s q k).isSome = true) (hidle : mvJob s q m = none)
    (hd : s.darner.deadEngines = []) (hr : engineResetting s (engCode (.mover q m)) = true) : moverDispatch s q = s := by
  have hfirst : (List.range 16).find? (fun m => (mvJob s q m).isNone && !s.darner.deadEngines.contains (engCode (.mover q m))) = some m :=
    List.find?_range_eq_some.2 ⟨by simp [hidle, hd], List.mem_range.2 hm, fun k hk => by simp [hlow k hk]⟩
  rw [moverDispatch, hfirst]
  cases s.moverQ.find? (fun p => p.1 = q) with
  | none => rfl
  | some p => simp [hr]

/-- The descriptor of an entry, as it waits for a mover of quarter 0. -/
def waitingJob : MoverJob :=
  { queue := 0, entry := 0, work := 0, desc := [], hoop := 1, ctx := 1, aspace := 0, rows := [], put := 0, round := 0, sat := 0,
    status := .ok, flagSent := false, finished := false, since := 0, key := 0 }

/-- With every PLL running and that descriptor waiting, FAULT_LATCH of a fault of mover 0 of quarter 0 (class 8, whose reaction is a
FENCE by default) has begun the reaction. -/
def fencedMover : State :=
  faultLatch { State.reset with clk := { State.reset.clk with pll := List.replicate 4 .running }, moverQ := [(0, waitingJob)] }
    { cls := 8, access := 4, addr := none, masterKind := 1, master := 0, hoop := none, ctx := none, detail := 0 }

/-- Refutes O37: its clause on MOVER_DISPATCH rules resets out but not a FENCE reaction, during which the fenced mover is given no work
(R494). In `fencedMover` mover 0 is idle, yet the descriptor stays in the queue. -/
theorem not_movers : ¬ Obligations.Movers := by
  intro ⟨_, _, hdispatch, _⟩
  have hgiven := hdispatch fencedMover 0 0 (0, waitingJob) [] [] (by decide) (by decide) (by decide) (fun k hk => absurd hk k.not_lt_zero)
    (by decide) (by decide) (by decide) (fun x hx => absurd hx List.not_mem_nil) rfl (by decide) (by decide) (by decide) (by decide) _ rfl
  have hstays : moverDispatch fencedMover 0 = fencedMover :=
    moverDispatch_of_resetting (m := 0) (by decide) (fun k hk => absurd hk k.not_lt_zero) (by decide) (by decide) (by decide)
  have hkept : exec (.moverDispatch 0) fencedMover = .next fencedMover := next_unlessSafe_self hstays
  have hqueue := congrArg State.moverQ (Host.Outcome.next.inj (hkept.symm.trans hgiven))
  exact absurd hqueue (by decide)

end Sys2Proof.Machine
end

section
/-! PROOFS. Re-sends of links, picot writes that land, and the zeroing of the bobbins (R248, R249, R274, R275). -/

namespace Sys2Proof.Machine

variable {s t u : State} {p : Picot} {st : Status} {back : List Picot}

/-! ### LINK_CRC_ERROR -/

/-- After 8 failed re-sends the next block that comes over the link is poisoned, and class 5 latches (R249). -/
theorem linkCrcError_hub {q n : Nat} (hn : 8 ≤ n) (hq : LinkId.hub q ∉ s.mem.badLinks) :
    linkCrcError s (.hub q) n = latch { s with mem := { s.mem with badLinks := s.mem.badLinks ++ [.hub q] } }
      { cls := 5, access := 4, addr := none, masterKind := 15, master := 0, hoop := none, ctx := none,
        detail := wd (linkIndex (.hub q)) } := by
  have hnew : s.mem.badLinks.contains (LinkId.hub q) = false := by simpa using hq
  rw [linkCrcError]
  dsimp only
  rw [if_neg (by omega), hnew]
  rfl

/-! ### PICOT_WRITE_LAND -/

/-- The first due picot write failed with an earlier one: it is over with that status (R275). -/
theorem landFirst_of_failed (h : p.failed = some st) : landFirst s (p :: back) = picotDone s p st := by
  rw [landFirst, h]

/-- The first due picot write can land (R274). -/
theorem landFirst_of_landed (h : p.failed = none) (hl : landPicot s p = .ok () u) : landFirst s (p :: back) = picotDone u p .ok := by
  rw [landFirst, h, hl]

/-- A mover's picot write that is done is no longer held, and the mover goes on by itself. -/
theorem picotDone_mover {q m : Nat} (hs : p.sender = none) (he : p.eng = .mover q m) :
    picotDone s p .ok = { s with fab := { s.fab with picots := dropFirst (fun x => x == p) s.fab.picots } } := by
  simp only [picotDone, hs, he]

/-! ### HBM_ZERO_DONE -/

/-- Traffic at a bobbin shows at its port and in its counter only. -/
theorem bobbinTraffic_field {γ : Type} (f : State → γ) (hf : ∀ s w rs, f { s with floss := w, regs := rs } = f s) (s : State)
    (b n : Nat) : f (portArrive (countB s b 1 n) b none n) = f s := hf s _ _

/-- So does that of the zeroing (R435). -/
theorem scrubTraffic_field {γ : Type} (f : State → γ) (hf : ∀ s w rs, f { s with floss := w, regs := rs } = f s) (s : State) :
    f (scrubTraffic s) = f s := by
  rw [scrubTraffic, foldl_field f (bobbinTraffic_field f hf · · _)]

theorem wipePending_of_keeper (h : t.keeper = s.keeper) : wipePending t = wipePending s := by
  rw [wipePending, latestMark, h]
  rfl

theorem endWipe_of_not_pending (h : wipePending s = false) : endWipe s = s := by
  unfold wipePending at h
  unfold endWipe
  cases hm : latestMark s with
  | none => rfl
  | some m => exact if_neg (by simpa [hm] using h)

/-- The memory once it is zeroed: of the bobbins no listed byte is left, no merge waits, and no injected error (R248). -/
def zeroedMem (s : State) : Mem :=
  { (zeroHbm s).mem with zeroed := true }

/-- The bobbins are zeroed where they are powered and awake, with no wipe to end; at step 5 of power-up the block is then ready (R248,
R603). -/
theorem hbmZeroDone_zeroes (hz : s.mem.zeroed = false) (hstep : 5 ≤ s.power.step) (hb : s.power.backup = false)
    (hsleep : s.power.sleep = 0) (hs : s.snuffer.safe = false) (hw : wipePending s = false) :
    (hbmZeroDone s).mem = zeroedMem s ∧
      (hbmZeroDone s).power = if s.power.step = 5 then { s.power with step := 6, ready := true } else s.power := by
  have hquiet : wipePending (scrubTraffic (zeroHbm s)) = false :=
    (wipePending_of_keeper (scrubTraffic_field State.keeper (fun _ _ _ => rfl) _)).trans hw
  have hgoes : ¬(s.mem.zeroed = true ∨ s.power.step < 5 ∨ s.power.backup = true ∨ s.power.sleep ≠ 0 ∨ s.snuffer.safe = true) := by
    simp [hz, hb, hsleep, hs, hstep]
  have hpower : (scrubTraffic (zeroHbm s)).power = s.power := scrubTraffic_field State.power (fun _ _ _ => rfl) _
  have hmem : (scrubTraffic (zeroHbm s)).mem = (zeroHbm s).mem := scrubTraffic_field State.mem (fun _ _ _ => rfl) _
  rw [hbmZeroDone, if_neg hgoes, endWipe_of_not_pending hquiet, zeroedMem]
  generalize scrubTraffic (zeroHbm s) = t at hpower hmem
  dsimp only
  rw [hpower, hmem]
  split <;> exact ⟨rfl, rfl⟩

theorem hbmZeroDone_of_zeroed (h : s.mem.zeroed = true) : hbmZeroDone s = s := if_pos (.inl h)

/-- Settles O38: the re-sends by `linkCrcError_hub` (fewer than 8 by definition), the picot writes by what `landFirst` does with the
first due one, the zeroing by `hbmZeroDone_zeroes`. -/
theorem linksPicotsAndZeroing : Obligations.LinksPicotsAndZeroing := by
  refine ⟨?_, ?_, ?_, ?_, ?_, ?_, ?_, ?_⟩
  · intro s q n hn
    exact congrArg Host.Outcome.next (if_pos hn)
  · intro s d n hn
    exact congrArg Host.Outcome.next (if_pos hn)
  · intro s q n hn hq
    exact congrArg Host.Outcome.next (linkCrcError_hub hn hq)
  · intro s hnone
    exact next_unlessSafe_self (congrArg (landFirst s) hnone)
  · intro s u p back q m hs hfirst hp he hf hl
    exact next_unlessSafe hs ((congrArg (landFirst s) hfirst).trans ((landFirst_of_landed hf hl).trans (picotDone_mover hp he)))
  · intro s p st back hs hfirst hf
    exact next_unlessSafe hs ((congrArg (landFirst s) hfirst).trans (landFirst_of_failed hf))
  · intro s hz hstep hb hsleep hs hw
    obtain ⟨hmem, hpower⟩ := hbmZeroDone_zeroes hz hstep hb hsleep hs hw
    refine ⟨_, rfl, congrArg Mem.zeroed hmem, congrArg Mem.merges hmem, congrArg Mem.corruptNext hmem, congrArg Mem.cells hmem,
      fun h => ?_, fun h => ?_⟩
    · rw [hpower, if_pos h]
      exact ⟨rfl, rfl⟩
    · rw [hpower, if_neg h]
  · intro s hz
    exact congrArg Host.Outcome.next (hbmZeroDone_of_zeroed hz)

end Sys2Proof.Machine
end

section
/-! PROOFS. Messages of peers served and answered, this node's requests completed, and lost peers (R274, R332, R336, R337, R341, R410,
R411). -/

namespace Sys2Proof.Machine

open Sys2Proof.Safety

variable {s u : State} {e a h : Nat} {rx : RxMsg} {m : Msg} {st : Status} {b : Bank} {k : Nat}

/-! ### READ, WRITE and PICOT -/

/-- A READ's answer (R341): its status and data. -/
def readAnswer (s : State) (e : Nat) (rx : RxMsg) (m : Msg) (st : Status) (poison : Bool) (d : List Byte) : State :=
  respond (serveDone s e rx false) e m.src 8 m.epoch m.cls m.tag (statusCode st) m.fhid (m.addr % 16) poison d

/-- The ACK of a WRITE, a PICOT or a FENCE (R341). -/
def ackAnswer (s : State) (e : Nat) (rx : RxMsg) (m : Msg) (st : Status) : State :=
  respond (serveDone s e rx false) e m.src 9 m.epoch m.cls m.tag (statusCode st) m.fhid 0 false []

theorem elpRead_refused (hm : headMsg s e 1 = some (rx, m)) (hr : memoryRequest s m m.len = .error st) :
    elpRead s e = readAnswer s e rx m st true (List.replicate m.len 0) := by
  simp only [elpRead, hm, hr, readAnswer]

theorem elpWrite_refused (hm : headMsg s e 2 = some (rx, m)) (hr : memoryRequest s m m.data.length = .error st) :
    elpWrite s e = ackAnswer s e rx m st := by
  simp only [elpWrite, hm, hr, ackAnswer]

theorem elpPicot_refused (hm : headMsg s e 3 = some (rx, m)) (hr : memoryRequest s m 8 = .error st) :
    elpPicot s e = ackAnswer s e rx m st := by
  simp only [elpPicot, hm, hr, ackAnswer]

/-- A READ that may be served answers with what it reads and carries to the eyelet (R36, R332). -/
theorem elpRead_served {who : Who} {r : Data × State} (hm : headMsg s e 1 = some (rx, m)) (hr : memoryRequest s m m.len = .ok (h, a))
    (hb : behindPicot s rx m a m.len = false) (hw : who = peerWho s h rx.key m) (hl : localReady s who a m.len false false = .ok () u)
    (hd : r = readRun u who a m.len 0) :
    elpRead s e = readAnswer (crossTo r.2 who (some (addrQuarter a)) (some (e / 2)) m.len) e rx m .ok
      (onWay r.2 (some (addrQuarter a)) (some (e / 2)) r.1).poison r.1.bytes := by
  subst hw hd
  simp only [elpRead, hm, hr, hb, hl, Bool.false_eq_true, if_false, readAnswer, onWay]

/-- A WRITE that may be served lands what it carries from the eyelet, and is acknowledged (R36, R239, R332). -/
theorem elpWrite_served {who : Who} (hm : headMsg s e 2 = some (rx, m)) (hr : memoryRequest s m m.data.length = .ok (h, a))
    (hb : behindPicot s rx m a m.data.length = false) (hw : who = peerWho s h rx.key m)
    (hl : localReady s who a m.data.length true false = .ok () u) :
    elpWrite s e = ackAnswer (writeRun (crossTo u who (some (e / 2)) (some (addrQuarter a)) m.data.length) who a m.data
      (onWay u (some (e / 2)) (some (addrQuarter a)) { bytes := m.data, poison := m.poison }).poison) e rx m .ok := by
  subst hw
  simp only [elpWrite, hm, hr, hb, hl, Bool.false_eq_true, if_false, ackAnswer, onWay]

/-- A peer's picot write as it is held (R274). -/
def peerPicot (rx : RxMsg) (m : Msg) (e h a : Nat) : Picot :=
  { id := rx.num, eng := .fe, hoop := h, ctx := 1024, aspace := 0, entry := 65536, row := 0, place := .loc a, data := m.data,
    poison := m.poison, page := none, after := [], sender := some (m.src, m.fhid, e), tag := m.tag, epoch := m.epoch, cls := m.cls,
    failed := none }

theorem elpPicot_held (hm : headMsg s e 3 = some (rx, m)) (hr : memoryRequest s m 8 = .ok (h, a)) (hfree : heldPicots s < 64) :
    elpPicot s e = serveDone { s with fab := { s.fab with picots := s.fab.picots ++ [peerPicot rx m e h a] } } e rx false := by
  simp only [elpPicot, hm, hr, Nat.not_le.2 hfree, if_false, peerPicot]

/-! ### FENCE -/

theorem elpFence_refused (hm : headMsg s e 4 = some (rx, m)) (hr : requestHoop s m = .ok (b, k))
    (hf : (fence s (m.addr % 16384)).valid = false ∨ (fence s (m.addr % 16384)).remote = false ∨
      bankFhid b (fence s (m.addr % 16384)).hoop ≠ m.fhid) :
    elpFence s e = ackAnswer s e rx m .rights := by
  simp only [elpFence, hm, hr]
  rw [if_pos (by simpa [or_assoc] using hf), ackAnswer]

theorem elpFence_signals (hm : headMsg s e 4 = some (rx, m)) (hr : requestHoop s m = .ok (b, k))
    (hv : (fence s (m.addr % 16384)).valid = true) (hrem : (fence s (m.addr % 16384)).remote = true)
    (ha : (fence s (m.addr % 16384)).alias_ = false) (hh : bankFhid b (fence s (m.addr % 16384)).hoop = m.fhid) :
    elpFence s e = ackAnswer (signalLocal s (m.addr % 16384) (leNat m.data) (decide (m.status = 2)) false) e rx m .ok := by
  simp only [elpFence, hm, hr]
  rw [if_neg (by simp [hv, hrem, hh]), ha, if_neg Bool.false_ne_true, ackAnswer]

/-! ### READ_DATA and ACK -/

theorem elpReadData_answers {r : Remote} (hm : headMsg s e 8 = some (rx, m)) (hr : respondedTo s e m.tag true = some r) :
    elpReadData s e = answerRemote (serveDone s e rx true) r (statusOf m.status) m.data m.poison := by
  simp only [elpReadData, hm, hr]

theorem elpAck_answers {r : Remote} (hm : headMsg s e 9 = some (rx, m)) (hr : respondedTo s e m.tag false = some r) :
    elpAck s e = retryAliases (answerRemote (serveDone s e rx true) r (statusOf m.status) [] false) := by
  simp only [elpAck, hm, hr]

/-! ### Lost peers -/

theorem remoteTimeout_of_late {n : Nat} {r : Remote} (hr : r ∈ outstanding s) (hn : r.node = n) (hlate : r.sent + r.limit ≤ s.clk.wick) :
    remoteTimeout s n = markLost s n :=
  if_pos (List.any_eq_true.2 ⟨r, hr, by simp [hn, wick, hlate]⟩)

/-- A write by command to an entry that is open is made, with the answer OK before it (R463, R589). -/
theorem gateWrite_of_opens {who : Req} {vfs : Bool} (ho : opens s who e) (f : State → State) : gateWrite s who e vfs f = f (result s 0) := by
  obtain ⟨hopen, hawake⟩ := ho
  exact (if_neg (by simp [hopen])).trans (by rw [wakeUp_of_awake hawake])

theorem exec_markLost_manager {who : Req} (ho : opens s who 0x310007) (hw : isManager who = true) (v : Word) :
    exec (.markLost who v) s = .next (result (markLost (result s 0) (fld v 7 0)) 0) :=
  congrArg Host.Outcome.next ((gateWrite_of_opens ho _).trans (if_pos hw))

/-- Settles O48: each message's command by the lemma on its outcome, and what marks a peer LOST by its guard. -/
theorem elpMessages : Obligations.ElpMessages := by
  refine ⟨?_, ?_, ?_, ?_, ?_, ?_, ?_, ?_, ?_, ?_, ?_, ?_, ?_⟩
  · intro s e
    refine ⟨fun h => ?_, fun h => ?_, fun h => ?_, fun h => ?_, fun h => ?_, fun h => ?_⟩
    · exact congrArg Host.Outcome.next (by rw [elpRead, h])
    · exact congrArg Host.Outcome.next (by rw [elpWrite, h])
    · exact congrArg Host.Outcome.next (by rw [elpPicot, h])
    · exact congrArg Host.Outcome.next (by rw [elpFence, h])
    · exact congrArg Host.Outcome.next (by rw [elpReadData, h])
    · exact congrArg Host.Outcome.next (by rw [elpAck, h])
  · intro s e rx m st hm hr
    exact congrArg Host.Outcome.next (elpRead_refused hm hr)
  · intro s e rx m st hm hr
    exact congrArg Host.Outcome.next (elpWrite_refused hm hr)
  · intro s e rx m st hm hr
    exact congrArg Host.Outcome.next (elpPicot_refused hm hr)
  · intro s u e a rx m h r hm hr hb hl hd
    exact congrArg Host.Outcome.next (elpRead_served hm hr hb rfl hl hd)
  · intro s u e a rx m h hm hr hb hl
    exact congrArg Host.Outcome.next (elpWrite_served hm hr hb rfl hl)
  · intro s e a rx m h hm hr hfree
    exact ⟨_, peerPicot rx m e h a, congrArg Host.Outcome.next (elpPicot_held hm hr hfree), rfl, rfl, rfl, rfl⟩
  · intro s e rx m b k hm hr hf
    exact congrArg Host.Outcome.next (elpFence_refused hm hr hf)
  · intro s e rx m b k hm hr hv hrem ha hh
    exact congrArg Host.Outcome.next (elpFence_signals hm hr hv hrem ha hh)
  · intro s e rx m r hm hr
    exact congrArg Host.Outcome.next (elpReadData_answers hm hr)
  · intro s e rx m r hm hr
    exact congrArg Host.Outcome.next (elpAck_answers hm hr)
  · intro s n r hs hr hn hlate
    exact next_unlessSafe hs (remoteTimeout_of_late hr hn hlate)
  · intro s who v ho hw
    exact exec_markLost_manager ho hw v

end Sys2Proof.Machine
end

section
/-! PROOFS. The commit of a range entry (R287 to R291). -/

namespace Sys2Proof.Machine

open Sys2Proof.Safety

variable {s : State} {who : Req} {row : Nat} {w0 : Word} {ws : List Word}

/-! ### What an accepted entry obeys -/

/-- The checks of R289 on the entry itself, its target and page states apart. -/
structure RangeEntryOk (s : State) (row : Nat) (ws : List Word) : Prop where
  inSpace : entStart ws + entLen ws ≤ 2 ^ 57
  apart : ∀ h, (List.range 64).find? (fun k => inBlock s k row) = some h → ∀ p ∈ s.rng.rows, p.1 ≠ row →
    entAspace p.2 = entAspace ws → inBlock s h p.1 = true →
    entStart ws + entLen ws ≤ entStart p.2 ∨ entStart p.2 + entLen p.2 ≤ entStart ws
  atomic : bit (wordAt ws 0) 60 = true → bit (wordAt ws 0) 62 = true ∧ bit (wordAt ws 0) 61 = true
  migratable : entMigratable ws = true → entStart ws % 65536 = 0 ∧ entLen ws % 65536 = 0 ∧ entTarget ws / 2 ^ 44 = ownNode s

/-- A check that gives a code other than 0 was passed where the code is 0. -/
theorem passed_of_code_zero {c : Prop} [Decidable c] {k n : Nat} (h : (if c then k + 1 else n) = 0) : ¬c ∧ n = 0 := by
  split at h
  next => exact absurd h (Nat.succ_ne_zero k)
  next hc => exact ⟨hc, h⟩

/-- A commit that is accepted has passed every check, in the order of R289's codes. -/
theorem rangeEntryOk_of_commitCode (h : commitCode s who row ws = 0) (hvalid : bit (wordAt ws 0) 63 = true) :
    RangeEntryOk s row ws := by
  unfold commitCode at h
  obtain ⟨-, h⟩ := passed_of_code_zero h
  rw [if_neg (by simp [hvalid])] at h
  obtain ⟨-, h⟩ := passed_of_code_zero h
  obtain ⟨hspace, h⟩ := passed_of_code_zero h
  obtain ⟨hoverlap, h⟩ := passed_of_code_zero h
  obtain ⟨hatomic, h⟩ := passed_of_code_zero h
  obtain ⟨-, h⟩ := passed_of_code_zero h
  obtain ⟨-, h⟩ := passed_of_code_zero h
  obtain ⟨hmigratable, -⟩ := passed_of_code_zero h
  refine ⟨Nat.not_lt.1 hspace, fun b hb p hp hrow has hin => ?_, fun ha => ?_, fun hm => ?_⟩
  · by_contra hno
    refine hoverlap (List.any_eq_true.2 ⟨p, List.mem_filter.2 ⟨hp, ?_⟩, ?_⟩)
    · simp [hrow, has, hb, hin]
    · simp only [Bool.and_eq_true, decide_eq_true_eq]
      omega
  · simpa [ha] using hatomic
  · simp only [hm, Bool.true_and, Bool.or_eq_true, decide_eq_true_eq, Bool.not_eq_true', not_or, not_not,
      decide_eq_false_iff_not] at hmigratable
    obtain ⟨⟨⟨⟨hstart, hlen⟩, hown⟩, -⟩, -⟩ := hmigratable
    exact ⟨hstart, hlen, hown⟩

/-- Settles O42: `rangeEntryOk_of_commitCode`. -/
theorem rangeRefusals : Obligations.RangeRefusals := by
  intro s who row h ws hcode hvalid hblock
  have hok := rangeEntryOk_of_commitCode hcode hvalid
  exact ⟨hok.inSpace, hok.atomic, hok.migratable, hok.apart h hblock⟩

/-! ### RANGE_COMMIT -/

/-- The row's words as a commit of `w0` takes them: the other seven are staged (R288). -/
def commitWords (s : State) (row : Nat) (w0 : Word) : List Word := w0 :: (List.range 7).map (fun i => cell s 0x700001 row (i + 1))

/-- The code of a commit by a manager is left in the hoop whose block holds the row (R289). -/
def commitShown (s : State) (who : Req) (row : Nat) (ws : List Word) : State :=
  setReg s 0x700002 ((rowHoop s row).getD 64) (commitCode s who row ws * 2 ^ 24 + row)

section manager
variable (hm : isManager who = true) (hrow : row < 65536)
include hm hrow

/-- A refused commit by a manager leaves its code alone. -/
theorem rangeCommit_refused (hcode : commitCode s who row (commitWords s row w0) ≠ 0) :
    rangeCommit s who row w0 = commitShown s who row (commitWords s row w0) := by
  refine (if_neg (Nat.not_le.2 hrow)).trans ?_
  cases who with
  | vf n => cases hm
  | pf p => exact if_pos hcode
  | mgmt => exact if_pos hcode

/-- An accepted commit by a manager leaves its code, and W0 in the row's register. -/
theorem rangeCommit_accepted {t : State} (hcode : commitCode s who row (commitWords s row w0) = 0)
    (ht : t = setCell (commitShown s who row (commitWords s row w0)) 0x700001 row 0 w0) : rangeCommit s who row w0 =
      { t with rng := { t.rng with
        rows := if bit w0 63 then tput t.rng.rows row (commitWords s row w0) else tdel t.rng.rows row } } := by
  subst ht
  refine (if_neg (Nat.not_le.2 hrow)).trans ?_
  cases who with
  | vf n => cases hm
  | pf p => exact if_neg (not_not.2 hcode)
  | mgmt => exact if_neg (not_not.2 hcode)

/-- An accepted commit by a manager puts the entry in force, or takes the row out of force (R291). -/
theorem rangeCommit_accepted_rng (hcode : commitCode s who row (commitWords s row w0) = 0) :
    (rangeCommit s who row w0).rng = { s.rng with
      rows := if bit w0 63 then tput s.rng.rows row (commitWords s row w0) else tdel s.rng.rows row } ∧
    (rangeCommit s who row w0).answer = s.answer := by
  obtain ⟨t, ht⟩ : ∃ t, t = setCell (commitShown s who row (commitWords s row w0)) 0x700001 row 0 w0 := ⟨_, rfl⟩
  have hrng : t.rng = s.rng := by rw [ht, setCell_rng, commitShown, setReg_rng]
  have hanswer : t.answer = s.answer := by rw [ht, setCell_answer, commitShown, setReg_answer]
  rw [rangeCommit_accepted hm hrow hcode ht]
  exact ⟨by rw [hrng], hanswer⟩

end manager

theorem exec_rangeCommit (ho : opens s who 0x700001) :
    exec (.rangeCommit who row w0) s = .next (rangeCommit (result s 0) who row w0) :=
  congrArg Host.Outcome.next (gateWrite_of_opens ho _)

/-- An answer is no part of what a commit reads. -/
theorem rowHoop_result (s : State) (c row : Nat) : rowHoop (result s c) row = rowHoop s row := rfl

theorem commitWords_result (s : State) (c row : Nat) (w0 : Word) : commitWords (result s c) row w0 = commitWords s row w0 := rfl

/-- Settles O41: `rangeCommit_refused` and `rangeCommit_accepted_rng`. -/
theorem rangeCommitAnswers : Obligations.RangeCommitAnswers := by
  refine ⟨?_, ?_⟩
  · intro s who row w0 ho hm hrow hcode
    rw [← commitWords, ← commitWords_result s 0] at hcode
    rw [exec_rangeCommit ho, rangeCommit_refused hm hrow hcode, commitShown, rowHoop_result, commitWords_result, commitWords]
  · intro s who row w0 ho hm hrow hcode
    rw [← commitWords, ← commitWords_result s 0] at hcode
    obtain ⟨hrng, hanswer⟩ := rangeCommit_accepted_rng hm hrow hcode
    refine ⟨_, exec_rangeCommit ho, ?_, ?_, congrArg Answer.status hanswer⟩
    · rw [hrng]
      rfl
    · rw [hrng]
      rfl

end Sys2Proof.Machine
end

section
/-! PROOFS. The invalidations (R299 to R301): what an accepted one drops, makes stale and waits for. -/

namespace Sys2Proof.Machine

open Sys2Proof.Safety

variable {s : State} {who : Req} {v w : Word} {hi lo k : Nat}

/-! ### The opcode of a doorbell word -/

theorem toNat_setFld_op (w : Word) (k : Nat) : (setFld w 63 62 k).toNat = w.toNat % 2 ^ 62 + k % 4 * 2 ^ 62 := by
  have hw := w.isLt
  simp only [setFld, fld, wd, BitVec.toNat_ofNat]
  omega

theorem fld_setFld_op (w : Word) (k : Nat) : fld (setFld w 63 62 k) 63 62 = k % 4 := by
  rw [fld, toNat_setFld_op]
  omega

/-- A field below bit 62 reads the bits below it only. -/
theorem fld_setFld_op_below (w : Word) (k : Nat) (hhi : hi < 62) (hlo : lo ≤ hi) : fld (setFld w 63 62 k) hi lo = fld w hi lo := by
  have hfld (n : Nat) : n / 2 ^ lo % 2 ^ (hi + 1 - lo) = n % 2 ^ 62 % 2 ^ (hi + 1) / 2 ^ lo := by
    rw [Nat.mod_mod_of_dvd _ (Nat.pow_dvd_pow 2 hhi), ← Nat.mod_mul_right_div_self, ← pow_add, Nat.add_sub_cancel' (by omega)]
  rw [fld, fld, hfld, hfld, toNat_setFld_op]
  congr 2
  omega

/-! ### What an invalidation names -/

/-- Does the invalidation of a doorbell word name a translation of a hoop, address space and row (R299)? -/
def invalNames (s : State) (w : Word) (h aspace row : Nat) : Bool :=
  (decide (fld w 63 62 ≠ 0) || inBlock s (fld w 61 56) (fld w 55 40)) && decide (h = fld w 61 56) &&
    (match fld w 63 62 with
    | 0 => decide (row = fld w 55 40)
    | 1 => decide (aspace = fld w 49 40)
    | _ => true)

theorem invalNames_entry (hin : inBlock s (fld w 61 56) (fld w 55 40) = true) (h aspace row : Nat) :
    invalNames s (setFld w 63 62 0) h aspace row = true ↔ h = fld w 61 56 ∧ row = fld w 55 40 := by
  simp [invalNames, fld_setFld_op, fld_setFld_op_below, hin]

theorem invalNames_aspace (s : State) (w : Word) (h aspace row : Nat) :
    invalNames s (setFld w 63 62 1) h aspace row = true ↔ h = fld w 61 56 ∧ aspace = fld w 49 40 := by
  simp [invalNames, fld_setFld_op, fld_setFld_op_below]

theorem invalNames_hoop (s : State) (w : Word) (h aspace row : Nat) :
    invalNames s (setFld w 63 62 2) h aspace row = true ↔ h = fld w 61 56 := by
  simp [invalNames, fld_setFld_op, fld_setFld_op_below]

/-! ### What an accepted invalidation leaves -/

/-- The doorbell of an owned hoop is accepted at once when neither a BAR4 write, nor a doorbell, nor 256 pending ones hold it (R272,
R299, R303). -/
theorem invalDoorbell_accepted (hz : s.power.sleep ≠ 2) (hb : bellWaits s who = false) (ho : reqOwns s who (fld v 61 56) = true)
    (hn : s.rng.invals.length < 256) (hd : s.rng.doorbells = []) (hop : fld v 63 62 ≠ 3) :
    invalDoorbell s who v = acceptInval s who v := by
  have hroom : doorbellWaits s = false := by simp [doorbellWaits, hd, hn]
  have hring : invalDoorbell s who v = invalNow s who v := by
    rw [invalDoorbell, wakeUp_of_awake hz]
    exact if_neg (Bool.eq_false_iff.1 hb)
  rw [hring, invalNow, ho, hroom]
  exact if_neg hop

theorem acceptInval_look (s : State) (who : Req) (w : Word) : (acceptInval s who w).rng.look =
    s.rng.look.filter (fun e => !invalNames s w e.hoop e.aspace e.row) := rfl

theorem mem_acceptInval_look {e : LookEntry} : e ∈ (acceptInval s who w).rng.look ↔
    e ∈ s.rng.look ∧ ¬invalNames s w e.hoop e.aspace e.row = true := by
  rw [acceptInval_look, List.mem_filter, Bool.not_eq_true', Bool.not_eq_true]

/-- The row that a walk will find: that of the entry, or, with none, the row that the invalidation names. -/
def walkRow (s : State) (w : Word) (x : XReq) : Nat := ((findEntry s x.hoop x.aspace x.va).map (fun p => p.1)).getD (fld w 55 40)

theorem acceptInval_xreqs (s : State) (who : Req) (w : Word) : (acceptInval s who w).rng.xreqs = s.rng.xreqs.map (fun x =>
    if xWalking x && invalNames s w x.hoop x.aspace (walkRow s w x) then { x with phase := .walking true } else x) := rfl

/-- A translation of a hoop that an invalidation names whole does not walk with what it found before (R300). -/
theorem acceptInval_stale {x : XReq} (hall : ∀ aspace row, invalNames s w x.hoop aspace row = true)
    (hx : x ∈ (acceptInval s who w).rng.xreqs) : x.phase ≠ .walking false := by
  rw [acceptInval_xreqs] at hx
  obtain ⟨y, -, rfl⟩ := List.mem_map.1 hx
  split
  next => simp
  next hno =>
    intro hp
    rw [if_neg hno] at hall
    exact hno (by simp [xWalking, hp, hall])

/-- The requests outstanding that an invalidation names are among those it waits for (R301). -/
theorem acceptInval_invals (s : State) (who : Req) (w : Word) : ∃ i, (acceptInval s who w).rng.invals = s.rng.invals ++ [i] ∧
    i.hoop = fld w 61 56 ∧ i.seq = fld w 23 0 ∧
    ∀ r ∈ outstanding s, r.entry < 65536 → invalNames s w r.hoop r.aspace r.entry = true → r.id ∈ i.waits := by
  refine ⟨_, rfl, rfl, rfl, fun r hr hentry hnames => ?_⟩
  exact List.mem_append_left _ (List.mem_map.2 ⟨r, List.mem_filter.2 ⟨hr, Bool.and_eq_true_iff.2 ⟨decide_eq_true hentry, hnames⟩⟩, rfl⟩)

/-- The same, of a form whose command sets the opcode of the word. -/
theorem invalDoorbell_setFld_accepted (hz : s.power.sleep ≠ 2) (hb : bellWaits s who = false) (ho : reqOwns s who (fld w 61 56) = true)
    (hn : s.rng.invals.length < 256) (hd : s.rng.doorbells = []) (hk : k % 4 ≠ 3) :
    invalDoorbell s who (setFld w 63 62 k) = acceptInval s who (setFld w 63 62 k) :=
  invalDoorbell_accepted hz hb (by rwa [fld_setFld_op_below w k (by decide) (by decide)]) hn hd (by rwa [fld_setFld_op])

/-- Settles O46: the lookasides, the walks and the waits of `acceptInval`, with what each form names. -/
theorem invalidationDropsTranslations : Obligations.InvalidationDropsTranslations := by
  refine ⟨?_, ?_, ?_⟩
  · intro s who w hz hb ho hn hd
    refine ⟨_, congrArg Host.Outcome.next (invalDoorbell_setFld_accepted hz hb ho hn hd (by decide)),
      fun e he hh => ?_, fun e he hh => ?_, fun x hx hh => ?_, ?_⟩
    · exact (mem_acceptInval_look.1 he).2 ((invalNames_hoop s w _ _ _).2 hh)
    · exact mem_acceptInval_look.2 ⟨he, fun h => hh ((invalNames_hoop s w _ _ _).1 h)⟩
    · exact acceptInval_stale (fun _ _ => (invalNames_hoop s w _ _ _).2 hh) hx
    · obtain ⟨i, hi, hhoop, hseq, hwaits⟩ := acceptInval_invals s who (setFld w 63 62 2)
      refine ⟨i, hi, ?_, ?_, fun r hr hh hentry => hwaits r hr hentry ((invalNames_hoop s w _ _ _).2 hh)⟩
      · rw [hhoop, fld_setFld_op_below w 2 (by decide) (by decide)]
      · rw [hseq, fld_setFld_op_below w 2 (by decide) (by decide)]
  · intro s who w hz hb ho hn hd
    refine ⟨_, congrArg Host.Outcome.next (invalDoorbell_setFld_accepted hz hb ho hn hd (by decide)), fun e => ?_⟩
    rw [mem_acceptInval_look, invalNames_aspace]
  · intro s who w hz hb ho hn hd hin
    refine ⟨_, congrArg Host.Outcome.next (invalDoorbell_setFld_accepted hz hb ho hn hd (by decide)), fun e => ?_⟩
    rw [mem_acceptInval_look, invalNames_entry hin]

end Sys2Proof.Machine
end

section
/-! PROOFS. PERSTn of H0 while a higher reset runs (R503, R508, R517). -/

namespace Sys2Proof.Machine

open Sys2Proof.Safety

variable {s : State} {r : Reset}

/-- A port's request adds nothing to a running reset of the whole device at its level or above (R508, R517). -/
theorem portReset_of_contained {level target : Nat} (hr : r ∈ s.snuffer.resets) (hdevice : 4 ≤ r.level) (hlevel : level ≤ r.level) :
    portReset s level target = s :=
  if_pos (List.any_eq_true.2 ⟨r, hr, by simp [resetContains, hdevice, hlevel]⟩)

/-- While a cold L4 or an L5 runs, PERSTn of H0 unlinks the port and requests no reset. -/
theorem perst_of_contained (hp : (port s 0).perst = false) (hheld : perstHeld s = false) (hr : r ∈ s.snuffer.resets)
    (hlevel : 5 ≤ r.level) : perst s 0 = modPort s 0 (fun x => { x with perst := true, trained := false }) := by
  rw [perst, if_neg (by simp [hp]), hheld, if_neg Bool.false_ne_true]
  exact portReset_of_contained hr (by omega) hlevel

/-- PERSTn of H0 is released after reset, and RESET_L5 by the management port then runs: an L5 (level 6) that waits for its dump. -/
def powerCycling : State := resetRequest (perstRelease State.reset 0) .mgmt (setFld 0 63 60 6)

/-- Refutes O53: its clause on PERSTn of H0 claims a cold L4 (level 5) among the resets of every state, but an L5 that runs already
contains it, and the request adds nothing (R508, R517). In `powerCycling` the only reset is that L5. -/
theorem not_hostPorts : ¬ Obligations.HostPorts := by
  intro ⟨_, _, _, _, hperst, _⟩
  obtain ⟨t, hexec, -, -, r, hr, hlevel⟩ := hperst powerCycling (by decide) (by decide) (by decide)
  obtain ⟨l5, hl5, hsix⟩ : ∃ o ∈ powerCycling.snuffer.resets, o.level = 6 := by decide
  have hstays : exec (.perst 0) powerCycling = .next (modPort powerCycling 0 (fun x => { x with perst := true, trained := false })) :=
    congrArg Host.Outcome.next (perst_of_contained (by decide) (by decide) hl5 (by omega))
  cases hexec.symm.trans hstays
  have hnone : ∀ o ∈ powerCycling.snuffer.resets ++ powerCycling.snuffer.waiting, o.level ≠ 5 := by decide
  exact hnone r hr hlevel

end Sys2Proof.Machine
end

section
/-! PROOFS. COLLECTIVE during a FENCE reaction for a collective engine (R347, R494). -/

namespace Sys2Proof.Machine

variable {s : State} {q e k : Nat} {f : Flight}

theorem clJob_of_colls {t : State} (h : t.colls = s.colls) (q m : Nat) : clJob t q m = clJob s q m := by
  rw [clJob, h, clJob]

/-- Jobs of the two engines of a quarter have keys of their own. -/
theorem clJob_tput_other {m m' : Nat} (hm : m' ≠ m) (j : CollJob) :
    clJob { s with colls := tput s.colls (clKey k m) j } k m' = clJob s k m' :=
  tget_tput_other _ _ _ _ (by unfold clKey; omega)

/-- While engine 0 of the quarter that an entry names is in a reset or in a FENCE reaction, COLLECTIVE gives it no job: the entry runs on
engine 1 or stays admitted (R494, R510). -/
theorem clJob_collective_of_resetting (hf : flight s q e = some f) (hadm : f.phase = .admitted) (hop : fld (wordAt f.words 0) 63 56 = 4)
    (hrole : hoopRole s (queueHoop s q) ≠ 1) (hok : clOk f.desc = true) (hk : k = fld (wordAt f.words 0) 1 0)
    (hr : engineResetting s (engCode (.coll k 0)) = true) : clJob (collective s q e) k 0 = clJob s k 0 := by
  have hgoes : ¬(f.phase ≠ .admitted ∨ fld (wordAt f.words 0) 63 56 ≠ 4) := by simp [hadm, hop]
  have htaken : ¬(hoopRole s (queueHoop s q) = 1 ∨ clOk f.desc = false) := by simp [hrole, hok]
  simp only [collective, hf, if_neg hgoes, if_neg htaken]
  split
  next => rfl
  next m hidle =>
    have hm : 0 ≠ m := by
      rintro rfl
      simp [← hk, hr] at hidle
    rw [← hk]
    exact (clJob_tput_other hm _).trans (clJob_of_colls (setQueue_colls ..) k 0)

/-- An admitted COLLECTIVE of a ring of one: an ALL_REDUCE of 32 FP32 elements. -/
def waitingCollective : Flight :=
  { entry := 0, words := [wd (4 * 2 ^ 56)], desc := [wd (2 ^ 56), 32, 0, 4096, 0, 0, 0, wd (1000 * 2 ^ 32)], phase := .admitted,
    status := .ok, origin := 0, detail := 0, start := 0, doneAt := 0, stitch := none, aux := 0, waitOn := [], wrote := [] }

/-- With that entry admitted from queue 0, FAULT_LATCH of a fault of collective engine 0 of quarter 0 (class 26, whose reaction is a FENCE
by default) has begun the reaction. -/
def fencedColl : State :=
  faultLatch { State.reset with queues := [(0, { queueFree with flights := [waitingCollective] })] }
    { cls := 26, access := 4, addr := none, masterKind := 1, master := 64, hoop := none, ctx := none, detail := 0 }

/-- Refutes O39: its clause on an idle engine 0 rules resets out but not a FENCE reaction, during which the fenced engine is given no work
(R494). In `fencedColl` engine 0 is idle, in service and in no reset, yet COLLECTIVE gives it no job. -/
theorem not_collectives : ¬ Obligations.Collectives := by
  intro ⟨_, hruns, _⟩
  obtain ⟨t, j, hexec, hjob, -⟩ := hruns fencedColl 0 0 0 waitingCollective (by decide) rfl (by decide) (by decide)
    (by decide) (by decide) (by decide) (by decide) (by decide)
  have hnone : clJob (collective fencedColl 0 0) 0 0 = none :=
    (clJob_collective_of_resetting (f := waitingCollective) (by decide) rfl (by decide) (by decide) (by decide) (by decide)
      (by decide)).trans (by decide)
  cases hexec
  exact absurd (hnone.symm.trans hjob) nofun

end Sys2Proof.Machine
end

section
/-! SUPPORT. The fields of a word that one field's write leaves, and the keys and defaults of the cells of HOOP_STATUS and EYELET_CONFIG. -/

namespace Sys2Proof.Machine

variable {hi lo hi' lo' : Nat}

/-! ### Fields of a word -/

theorem testBit_fld (w : Word) (hi lo i : Nat) : (fld w hi lo).testBit i = (decide (i < hi + 1 - lo) && w.toNat.testBit (lo + i)) := by
  rw [fld, Nat.testBit_mod_two_pow, Nat.testBit_div_two_pow, Nat.add_comm i lo]

/-- A word with a field written is the bits above it, the field, and the bits below it. -/
theorem toNat_setFld (w : Word) (k : Nat) (hlo : lo ≤ hi) (hhi : hi < 64) : (setFld w hi lo k).toNat =
    2 ^ lo * (2 ^ (hi + 1 - lo) * (w.toNat / 2 ^ (hi + 1)) + k % 2 ^ (hi + 1 - lo)) + w.toNat % 2 ^ lo := by
  have hpow : 2 ^ lo * 2 ^ (hi + 1 - lo) = 2 ^ (hi + 1) := by rw [← pow_add, Nat.add_sub_cancel' (by omega)]
  have hsplit : 2 ^ lo * (2 ^ (hi + 1 - lo) * (w.toNat / 2 ^ (hi + 1)) + fld w hi lo) + w.toNat % 2 ^ lo = w.toNat := by
    rw [← hpow, ← Nat.div_div_eq_div_mul, fld, Nat.div_add_mod, Nat.div_add_mod]
  have habove : w.toNat / 2 ^ (hi + 1) < 2 ^ (63 - hi) := by
    rw [Nat.div_lt_iff_lt_mul (Nat.two_pow_pos _), ← pow_add, show 63 - hi + (hi + 1) = 64 by omega]
    exact w.isLt
  have hlt : 2 ^ lo * (2 ^ (hi + 1 - lo) * (w.toNat / 2 ^ (hi + 1)) + k % 2 ^ (hi + 1 - lo)) + w.toNat % 2 ^ lo < 2 ^ 64 :=
    calc
      _ < 2 ^ lo * (2 ^ (hi + 1 - lo) * (w.toNat / 2 ^ (hi + 1)) + k % 2 ^ (hi + 1 - lo) + 1) :=
        Nat.add_lt_add_left (Nat.mod_lt _ (Nat.two_pow_pos lo)) _
      _ ≤ 2 ^ lo * (2 ^ (hi + 1 - lo) * (w.toNat / 2 ^ (hi + 1) + 1)) :=
        Nat.mul_le_mul_left _ (Nat.add_lt_add_left (Nat.mod_lt _ (Nat.two_pow_pos _)) _)
      _ = 2 ^ (hi + 1) * (w.toNat / 2 ^ (hi + 1) + 1) := by rw [← Nat.mul_assoc, hpow]
      _ ≤ 2 ^ (hi + 1) * 2 ^ (63 - hi) := Nat.mul_le_mul_left _ habove
      _ = 2 ^ 64 := by rw [← pow_add, show hi + 1 + (63 - hi) = 64 by omega]
  have hsum : w.toNat - fld w hi lo * 2 ^ lo + k % 2 ^ (hi + 1 - lo) * 2 ^ lo =
      2 ^ lo * (2 ^ (hi + 1 - lo) * (w.toNat / 2 ^ (hi + 1)) + k % 2 ^ (hi + 1 - lo)) + w.toNat % 2 ^ lo := by
    rw [Nat.mul_comm (fld w hi lo), Nat.mul_comm (k % _), Nat.mul_add]
    rw [Nat.mul_add] at hsplit
    omega
  rw [setFld, wd, BitVec.toNat_ofNat, hsum, Nat.mod_eq_of_lt hlt]

/-- Of a word with a field written, the field reads as written and the rest as before. -/
theorem testBit_setFld (w : Word) (k : Nat) (hlo : lo ≤ hi) (hhi : hi < 64) (i : Nat) : (setFld w hi lo k).toNat.testBit i =
    if lo ≤ i ∧ i ≤ hi then k.testBit (i - lo) else w.toNat.testBit i := by
  rw [toNat_setFld w k hlo hhi, Nat.testBit_two_pow_mul_add _ (Nat.mod_lt _ (Nat.two_pow_pos lo)),
    Nat.testBit_two_pow_mul_add _ (Nat.mod_lt _ (Nat.two_pow_pos _)), Nat.testBit_mod_two_pow, Nat.testBit_mod_two_pow,
    Nat.testBit_div_two_pow]
  obtain hbelow | hfrom := Nat.lt_or_ge i lo
  · rw [if_pos hbelow, if_neg (by omega), decide_eq_true hbelow, Bool.true_and]
  · rw [if_neg (by omega)]
    obtain habove | hin := Nat.lt_or_ge hi i
    · rw [if_neg (by omega), if_neg (by omega), show i - lo - (hi + 1 - lo) + (hi + 1) = i by omega]
    · rw [if_pos (by omega), if_pos ⟨hfrom, hin⟩, decide_eq_true (by omega), Bool.true_and]

/-- A field written reads back. -/
theorem fld_setFld_same (w : Word) (k : Nat) (hlo : lo ≤ hi) (hhi : hi < 64) :
    fld (setFld w hi lo k) hi lo = k % 2 ^ (hi + 1 - lo) := by
  refine Nat.eq_of_testBit_eq fun i => ?_
  rw [testBit_fld, testBit_setFld w k hlo hhi, Nat.testBit_mod_two_pow, Nat.add_sub_cancel_left]
  by_cases hbit : i < hi + 1 - lo
  · rw [if_pos (by omega)]
  · simp [hbit]

/-- A field above or below the one written reads as before. -/
theorem fld_setFld_other (w : Word) (k : Nat) (hlo : lo ≤ hi) (hhi : hi < 64) (hout : hi' < lo ∨ hi < lo') :
    fld (setFld w hi lo k) hi' lo' = fld w hi' lo' := by
  refine Nat.eq_of_testBit_eq fun i => ?_
  rw [testBit_fld, testBit_fld, testBit_setFld w k hlo hhi]
  by_cases hbit : i < hi' + 1 - lo'
  · rw [if_neg (by omega)]
  · simp [hbit]
/-! ### Cells -/

theorem cellKey_word (e row : Nat) {w : Nat} (hw : w < 16) : cellKey e row w % 16 = w := by
  unfold cellKey
  omega

theorem cellDefault_hoopStatus (h : Nat) : cellDefault (cellKey 0x300003 h 0) = 0 := by
  simp only [cellDefault, cellKey_entry, cellKey_word _ _ (show 0 < 16 by decide)]
  rfl

theorem cellDefault_eyeletConfig (e : Nat) : cellDefault (cellKey 0x320001 e 0) = 0 := by
  simp only [cellDefault, cellKey_entry, cellKey_word _ _ (show 0 < 16 by decide)]
  rfl

end Sys2Proof.Machine
end

section
/-! PROOFS. Eyelets: bring-up, the spare lane, flits, and a retrain that fails (R314, R340 to R346, R542). -/

namespace Sys2Proof.Machine

open Sys2Proof.Safety

variable {s t u : State} {who : Req} {e lane : Nat} {w : Word} {flit body : List Byte}

/-! ### Records of eyelets -/

theorem eyelet_of_fab (h : t.fab = s.fab) (e : Nat) : eyelet t e = eyelet s e := by rw [eyelet, h, eyelet]

theorem eyelet_modEyelet_same (he : e < s.fab.eyes.length) (f : Eyelet → Eyelet) : eyelet (modEyelet s e f) e = f (eyelet s e) := by
  rw [eyelet, modEyelet_fab, List.getD_eq_getElem?_getD, List.getElem?_set_self he, Option.getD_some]

@[simp] theorem eyelet_countE (s : State) (e i n k : Nat) : eyelet (countE s e i n) k = eyelet s k :=
  eyelet_of_fab (addCell_fab s _ _ _ _) k

/-! ### EYELET_ENABLE (R346) -/

/-- EYELET_CONFIG as a write of `w` leaves it: the reserved bits are 0. -/
def eyeletConfig (w : Word) : Word := wd (fld w 3 0 + fld w 31 16 * 2 ^ 16)

theorem exec_eyeletEnable (ho : opens s who 0x320001) :
    exec (.eyeletEnable who e w) s = .next (eyeletEnable (result s 0) who e w) :=
  congrArg Host.Outcome.next (gateWrite_of_opens ho _)

theorem eyeletEnable_refused (hcode : eyeletCode who e (eyeletConfig w) ≠ 0) :
    eyeletEnable s who e w = result s (eyeletCode who e (eyeletConfig w)) := if_pos hcode

/-- EYELET_CONFIG is written, with the answer OK. -/
def configWritten (s : State) (e : Nat) (w : Word) : State := setCell (result s 0) 0x320001 e 0 (eyeletConfig w)

theorem eyelet_configWritten (s : State) (e : Nat) (w : Word) (k : Nat) : eyelet (configWritten s e w) k = eyelet s k :=
  eyelet_of_fab (by rw [configWritten, setCell_fab]; rfl) k

/-- An eyelet whose bring-up begins now with a configuration. -/
def beginBringUp (s : State) (cfg : Word) (y : Eyelet) : Eyelet :=
  { Eyelet.down with state := 1, cfg := cfg, since := wick s, rxMsgs := y.rxMsgs, out := y.out }

/-- ENABLE of an eyelet that is DOWN writes its configuration and begins its bring-up with it. -/
theorem eyeletEnable_of_down (hcode : eyeletCode who e (eyeletConfig w) = 0) (hon : bit (eyeletConfig w) 0 = true)
    (hdown : (eyelet s e).state = 0) :
    eyeletEnable s who e w = modEyelet (configWritten s e w) e (beginBringUp (configWritten s e w) (eyeletConfig w)) := by
  have hstate : (eyelet (configWritten s e w) e).state = 0 := by rw [eyelet_configWritten, hdown]
  rw [eyeletEnable, ← eyeletConfig]
  dsimp only
  rw [hcode, if_neg (by decide), if_neg (by simp [hon]), ← configWritten, if_pos hstate]
  rfl

theorem cell_configWritten (hon : bit (eyeletConfig w) 0 = true) : cell (configWritten s e w) 0x320001 e 0 = eyeletConfig w := by
  refine cell_setCell_of_ne fun hz => ?_
  rw [hz, cellDefault_eyeletConfig] at hon
  exact absurd hon (by decide)

/-! ### EYELET_TRAINED and CTRL_HELLO (R314, R342, R346, R542) -/

section trained
variable (htrain : (eyelet s e).state = 1) {lock : Bool}
include htrain

theorem eyeletTrained_retrained (hre : (eyelet s e).retrain = true) : eyeletTrained s e lock =
    pumpEye (resendAll (modEyelet s e (fun y => { y with
      state := if (eyelet s e).activeLanes = 4 then 3 else 2, retrain := false })) e) e := by
  rw [eyeletTrained]
  dsimp only
  rw [if_neg (by simp [htrain]), if_pos hre]

variable (hup : (eyelet s e).retrain = false)
include hup

/-- Bring-up outside confidential mode takes the version that FEC lock allows and sends HELLO. -/
theorem eyeletTrained_hello (hconf : s.keeper.conf = false) : eyeletTrained s e lock =
    sendCtrl (modEyelet s e (fun y => { y with
      version := if lock then Nat.min 2 (fld y.cfg 2 1) else 1, activeLanes := 8 })) e := by
  simp only [eyeletTrained, htrain, hup, hconf]
  rfl

/-- Confidential mode holds a link without FEC lock, of version 1, in HELLO_FAIL. -/
theorem eyeletTrained_confidential (hconf : s.keeper.conf = true) :
    eyeletTrained s e false = modEyelet s e (fun y => { y with state := 4, version := 1 }) := by
  simp only [eyeletTrained, htrain, hup, hconf]
  rfl

variable (hver : (eyelet s e).version ≠ 0) {ver node : Nat}
include hver

theorem ctrlHello_fails {valid : Bool}
    (hbad : node % 256 = ownNode s ∨ valid = false ∨ bit (cell s 0x310001 0 0) 15 = false ∨ ver = 0) :
    ctrlHello s e ver node valid = modEyelet s e (fun y => { y with state := 4 }) := by
  rw [ctrlHello]
  dsimp only
  rw [if_neg (by simp [htrain, hup, hver]), if_pos]
  obtain h | rfl | h | rfl := hbad <;> simp [*]

theorem ctrlHello_joins (hnode : node % 256 ≠ ownNode s) (hown : bit (cell s 0x310001 0 0) 15 = true) (hpeer : ver ≠ 0)
    (hconf : s.keeper.conf = false) : ctrlHello s e ver node true = (List.range 5).foldl (fun s _ => sendBare s e 0)
      (modEyelet (modEyelet (tookCtrl s e) e
        (fun y => { y with state := 2, version := Nat.min (eyelet s e).version ver, peer := node % 256 })) e
        (fun y => { y with reqReturn := 1024, rspReturn := 1024 })) := by
  rw [ctrlHello]
  dsimp only
  rw [if_neg (by simp [htrain, hup, hver]), if_neg (by simp [hnode, hown, hconf]; omega)]

end trained

/-! ### The spare lane (R344, R345) -/

theorem ctrlSpareRequest_of_up (hup : eyeUp s e = true) :
    ctrlSpareRequest s e lane = modEyelet (tookCtrl s e) e (fun y => { y with txAsked := some lane }) :=
  if_neg (by simp [hup])

theorem ctrlSpareSwitch_of_asked (hask : (eyelet s e).txAsked = some lane) : ctrlSpareSwitch s e =
    spareUsed (modEyelet (tookCtrl s e) e (fun y => { y with
      txMap := y.txMap.map (fun k => if k = lane then 8 else k), txSpare := true, txAsked := none })) e 0 lane := by
  simp only [ctrlSpareSwitch, hask]

theorem spareTrained_of_asked (hask : (eyelet s e).rxAsked = some lane) : spareTrained s e =
    spareUsed (modEyelet (sendCtrl s e) e (fun y => { y with
      rxMap := (eyelet (sendCtrl s e) e).rxMap.map (fun k => if k = lane then 8 else k), rxSpare := true, rxAsked := none })) e 1 lane := by
  simp only [spareTrained, hask]

/-- A lane in use that begins to fail degrades a link whose configuration allows it no spare. -/
theorem laneFailing_degrades (hup : eyeUp s e = true) (hlane : lane < 9) (hnew : lane ∉ (eyelet s e).failing)
    (hused : lane ∈ (eyelet s e).rxMap) (hspare : bit (eyelet s e).cfg 3 = false) : laneFailing s e lane =
    degrade (laneError (modEyelet s e (fun y => { y with failing := y.failing ++ [lane] })) e lane) e := by
  rw [laneFailing]
  dsimp only
  rw [if_neg (by simp [hup, hlane, hnew]), if_neg (by simp [hused]), if_neg (by simp [hspare])]

/-! ### Flits (R340, R342, R343) -/

section flits

theorem flits_of_not_up (hup : eyeUp s e = false) : flitData s e flit = s ∧ flitIdle s e flit = s ∧ flitNak s e flit = s :=
  ⟨if_pos (by simp [hup]), if_pos (by simp [hup]), if_pos (by simp [hup])⟩

variable (hup : eyeUp s e = true)
include hup

/-- A flit of any of the three types whose CRC fails is counted and answered with a NAK. -/
theorem flits_of_bad_crc (hbad : flitGood flit = false) :
    flitData s e flit = sendNak (countE (countE s e 1 1) e 4 1) e ∧ flitIdle s e flit = sendNak (countE (countE s e 1 1) e 4 1) e ∧
      flitNak s e flit = sendNak (countE (countE s e 1 1) e 4 1) e := by
  simp [flitData, flitIdle, flitNak, hup, hbad]

variable (hgood : flitGood flit = true)
include hgood

theorem flitData_out_of_order (hseq : flitFld flit 91 80 ≠ (eyelet s e).rxNext) :
    flitData s e flit = sendNak (countE s e 1 1) e := by
  simp [flitData, hup, hgood, hseq]

/-- A DATA flit in order whose first message begins in it, with nothing of a message received before it, gives its messages. -/
theorem flitData_in_order (hseq : flitFld flit 91 80 = (eyelet s e).rxNext)
    (hu : u = modEyelet (takeHeader (countE s e 1 1) e flit) e (fun y => { y with rxNext := (y.rxNext + 1) % 4096 }))
    (hbody : flitBody u flit = some body) (hrx : (eyelet u e).rxBytes = []) (hfirst : flitFld flit 48 45 < 15) :
    flitData s e flit = takeMsgs e (flitFld flit 51 50) 16 (modEyelet u e (fun y => { y with
      rxBytes := y.rxBytes ++ body.drop (16 * flitFld flit 48 45) })) := by
  subst hu
  simp [flitData, hup, hgood, hseq, hbody, hrx, Nat.ne_of_lt hfirst]

theorem flitIdle_in_order (hseq : (eyelet (takeHeader (countE s e 1 1) e flit) e).rxNext = flitFld flit 91 80) :
    flitIdle s e flit = takeHeader (countE s e 1 1) e flit := by
  simp [flitIdle, hup, hgood, hseq]

theorem flitNak_resends (hu : u = takeHeader (countE s e 1 1) e flit) (hleft : (eyelet u e).replay ≠ []) :
    flitNak s e flit = if ∃ n ∈ (eyelet u e).resends, 8 ≤ n then startRetrain u e
      else modEyelet (resendAll u e) e (fun y => { y with resends := y.resends.map (fun n => n + 1) }) := by
  subst hu
  simp [flitNak, hup, hgood, hleft]

end flits

/-! ### RETRAIN_TIMEOUT (R343) -/

theorem retrainTimeout_of_late (hstate : (eyelet s e).state = 1) (hre : (eyelet s e).retrain = true)
    (hlate : (eyelet s e).since + 20000000 ≤ s.clk.wick) : retrainTimeout s e = eyeDown s e :=
  if_pos ⟨hstate, hre, hlate⟩

/-- Settles O47: each event of a link by the lemma on its outcome; what EYELET_ENABLE leaves by `eyeletEnable_of_down`. -/
theorem eyeletLinks : Obligations.EyeletLinks := by
  refine ⟨?_, ?_, ?_, ?_, ?_, ?_, ?_, ?_, ?_, ?_, ?_, ?_, ?_, ?_, ?_, ?_, ?_, ?_⟩
  · intro s who e w ho hcode hon hdown he
    have hexec := (exec_eyeletEnable ho).trans (congrArg Host.Outcome.next (eyeletEnable_of_down (s := result s 0) hcode hon hdown))
    have heyelet := eyelet_modEyelet_same (s := configWritten (result s 0) e w) (by rwa [configWritten, setCell_fab])
      (beginBringUp (configWritten (result s 0) e w) (eyeletConfig w))
    refine ⟨_, hexec, by rw [heyelet]; rfl, by rw [heyelet]; rfl, cell_configWritten hon, ?_⟩
    rw [modEyelet_answer, configWritten, setCell_answer]
    rfl
  · intro s who e w ho hcode
    exact (exec_eyeletEnable ho).trans (congrArg Host.Outcome.next (eyeletEnable_refused hcode))
  · intro s e lock htrain hup hconf
    exact congrArg Host.Outcome.next (eyeletTrained_hello htrain hup hconf)
  · intro s e htrain hup hconf
    exact congrArg Host.Outcome.next (eyeletTrained_confidential htrain hup hconf)
  · intro s e lock htrain hre
    exact congrArg Host.Outcome.next (eyeletTrained_retrained htrain hre)
  · intro s e ver node a b c valid htrain hup hver hbad
    exact congrArg Host.Outcome.next (ctrlHello_fails htrain hup hver hbad)
  · intro s e ver node a b c htrain hup hver hnode hown hpeer hconf
    exact congrArg Host.Outcome.next (ctrlHello_joins htrain hup hver hnode hown hpeer hconf)
  · intro s e lane hup
    exact congrArg Host.Outcome.next (ctrlSpareRequest_of_up hup)
  · intro s e b lane hask
    exact congrArg Host.Outcome.next (ctrlSpareSwitch_of_asked hask)
  · intro s e lane hask
    exact congrArg Host.Outcome.next (spareTrained_of_asked hask)
  · intro s e lane hup hlane hnew hused hspare
    exact congrArg Host.Outcome.next (laneFailing_degrades hup hlane hnew hused hspare)
  · intro s e flit hup
    obtain ⟨hdata, hidle, hnak⟩ := flits_of_not_up (flit := flit) hup
    exact ⟨congrArg Host.Outcome.next hdata, congrArg Host.Outcome.next hidle, congrArg Host.Outcome.next hnak⟩
  · intro s e flit hup hbad
    obtain ⟨hdata, hidle, hnak⟩ := flits_of_bad_crc hup hbad
    exact ⟨congrArg Host.Outcome.next hdata, congrArg Host.Outcome.next hidle, congrArg Host.Outcome.next hnak⟩
  · intro s e flit hup hgood hseq
    exact congrArg Host.Outcome.next (flitData_out_of_order hup hgood hseq)
  · intro s u e flit body hup hgood hseq hu hbody hrx hfirst
    exact congrArg Host.Outcome.next (flitData_in_order hup hgood hseq hu hbody hrx hfirst)
  · intro s e flit hup hgood hseq
    exact congrArg Host.Outcome.next (flitIdle_in_order hup hgood hseq)
  · intro s u e flit hup hgood hu hleft
    exact congrArg Host.Outcome.next (flitNak_resends hup hgood hu hleft)
  · intro s e hsafe hstate hre hlate
    exact next_unlessSafe hsafe (retrainTimeout_of_late hstate hre hlate)

end Sys2Proof.Machine
end

section
/-! PROOFS. HOOP_COMMAND, EPOCH_COMMAND and NODE_ID (R314, R321 to R327, R333, R353). -/

namespace Sys2Proof.Machine

open Sys2Proof.Safety

variable {s : State} {who : Req} {v w : Word}

/-! ### HOOP_STATUS -/

/-- STATE other than FREE and RESULT, written to HOOP_STATUS, read back with the rest of the row as it was. -/
theorem cell_hoopResult_setHoopState (s : State) (h code : Nat) {st : Nat} (h0 : st ≠ 0) (hst : st < 16) :
    cell (hoopResult (setHoopState s h st) h code) 0x300003 h 0 = setFld (setFld (cell s 0x300003 h 0) 63 60 st) 59 56 code := by
  have hread (w : Word) (hw : fld w 63 60 = st) : w ≠ cellDefault (cellKey 0x300003 h 0) := by
    rintro rfl
    rw [cellDefault_hoopStatus] at hw
    exact h0 hw.symm
  have hstate : fld (setFld (cell s 0x300003 h 0) 63 60 st) 63 60 = st := by
    rw [fld_setFld_same _ _ (by decide) (by decide)]
    exact Nat.mod_eq_of_lt hst
  have hcell : cell (setHoopState s h st) 0x300003 h 0 = setFld (cell s 0x300003 h 0) 63 60 st :=
    cell_setCell_of_ne (hread _ hstate)
  rw [hoopResult, setRegFld, hcell, cell_setCell_of_ne]
  exact hread _ ((fld_setFld_other _ _ (by decide) (by decide) (by decide)).trans hstate)

theorem hoopState_hoopResult_setHoopState (s : State) (h code : Nat) {st : Nat} (h0 : st ≠ 0) (hst : st < 16) :
    hoopState (hoopResult (setHoopState s h st) h code) h = st := by
  rw [hoopState, cell_hoopResult_setHoopState s h code h0 hst, fld_setFld_other _ _ (by decide) (by decide) (by decide),
    fld_setFld_same _ _ (by decide) (by decide)]
  exact Nat.mod_eq_of_lt hst

theorem result_hoopResult_setHoopState (s : State) (h : Nat) {st code : Nat} (h0 : st ≠ 0) (hst : st < 16) (hcode : code < 16) :
    fld (cell (hoopResult (setHoopState s h st) h code) 0x300003 h 0) 59 56 = code := by
  rw [cell_hoopResult_setHoopState s h code h0 hst, fld_setFld_same _ _ (by decide) (by decide)]
  exact Nat.mod_eq_of_lt hcode

@[simp] theorem hoop_hoopResult (s : State) (h code k : Nat) : hoop (hoopResult s h code) k = hoop s k := by
  rw [hoop, hoopResult, setRegFld_hoops, hoop]

@[simp] theorem hoop_setHoopState (s : State) (h st k : Nat) : hoop (setHoopState s h st) k = hoop s k := by
  rw [hoop, setHoopState, setRegFld_hoops, hoop]

/-! ### HOOP_COMMAND (R321 to R323, R326, R327) -/

theorem hoopWord_op (w : Word) {k : Nat} (hk : k < 16) : fld (setFld w 63 60 k) 63 60 = k :=
  (fld_setFld_same w k (by decide) (by decide)).trans (Nat.mod_eq_of_lt hk)

@[simp] theorem hoopWord_hoop (w : Word) (k : Nat) : fld (setFld w 63 60 k) 59 54 = fld w 59 54 :=
  fld_setFld_other w k (by decide) (by decide) (by decide)

@[simp] theorem hoopWord_reserved (w : Word) (k : Nat) : fld (setFld w 63 60 k) 53 0 = fld w 53 0 :=
  fld_setFld_other w k (by decide) (by decide) (by decide)

theorem exec_hoopCreate (ho : opens s who 0x300002) :
    exec (.hoopCreate who w) s = .next (hoopCommand (result s 0) who (setFld w 63 60 1)) :=
  congrArg Host.Outcome.next (gateWrite_of_opens ho _)

theorem exec_hoopRebind (ho : opens s who 0x300002) :
    exec (.hoopRebind who w) s = .next (hoopCommand (result s 0) who (setFld w 63 60 2)) :=
  congrArg Host.Outcome.next (gateWrite_of_opens ho _)

theorem exec_hoopDestroy (ho : opens s who 0x300002) :
    exec (.hoopDestroy who w) s = .next (hoopCommand (result s 0) who (setFld w 63 60 3)) :=
  congrArg Host.Outcome.next (gateWrite_of_opens ho _)

theorem exec_hoopCancel (ho : opens s who 0x300002) :
    exec (.hoopCancel who w) s = .next (hoopCommand (result s 0) who (setFld w 63 60 4)) :=
  congrArg Host.Outcome.next (gateWrite_of_opens ho _)

/-- A VF is answered NOT_PERMITTED in place of the answer before (R321). -/
theorem hoopCommand_vf (s : State) (c n : Nat) (w : Word) : hoopCommand (result s c) (.vf n) w = result s 4 := rfl

/-- The written row of a hoop kept as its pending re-bind (R325). -/
def keepPending (s : State) (h : Nat) : State :=
  modHoop s h (fun x => { x with pending := some (hoopRow s h), flossNew := flossRows s h, houseNew := houseRow s h })

/-- The pending re-bind of a hoop withdrawn (R326). -/
def withdrawPending (s : State) (h : Nat) : State :=
  modHoop s h (fun x => { x with pending := none, flossNew := [], houseNew := 0 })

theorem hoop_keepPending (s : State) (h : Nat) : hoop (keepPending s h) h = { hoop s h with
    pending := some (hoopRow s h), flossNew := flossRows s h, houseNew := houseRow s h } := hoop_modHoop_same ..

theorem hoop_withdrawPending (s : State) (h : Nat) : hoop (withdrawPending s h) h =
    { hoop s h with pending := none, flossNew := [], houseNew := 0 } := hoop_modHoop_same ..

section manager
variable (hm : isManager who = true)
include hm

theorem hoopCommand_reserved (k : Nat) (hz : fld w 53 0 ≠ 0) :
    hoopCommand s who (setFld w 63 60 k) = hoopResult s (fld w 59 54) 2 := by
  simp [hoopCommand, hm, hz]

variable (hz : fld w 53 0 = 0)
include hz

theorem hoopCommand_create : hoopCommand s who (setFld w 63 60 1) =
    if bindCode s (fld w 59 54) false ≠ 0 then hoopResult s (fld w 59 54) (bindCode s (fld w 59 54) false)
    else createHoop s (fld w 59 54) := by
  simp [hoopCommand, hm, hz, hoopWord_op]

theorem hoopCommand_rebind (hcode : bindCode s (fld w 59 54) true = 0) : hoopCommand s who (setFld w 63 60 2) =
    hoopResult (setHoopState (keepPending s (fld w 59 54)) (fld w 59 54) 2) (fld w 59 54) 1 := by
  simp [hoopCommand, hm, hz, hoopWord_op, hcode, keepPending]

theorem hoopCommand_destroy (hstate : hoopState s (fld w 59 54) = 1) (hctx : hoopCtxs s (fld w 59 54) = [])
    (hfhid : fhidLive s (fld w 59 54) = false) :
    hoopCommand s who (setFld w 63 60 3) = hoopResult (setHoopState s (fld w 59 54) 3) (fld w 59 54) 0 := by
  simp [hoopCommand, hm, hz, hoopWord_op, hstate, hctx, hfhid]

theorem hoopCommand_cancel {d : List Word} (hstate : hoopState s (fld w 59 54) = 2) (hpend : (hoop s (fld w 59 54)).pending = some d) :
    hoopCommand s who (setFld w 63 60 4) =
      hoopResult (setHoopState (withdrawPending s (fld w 59 54)) (fld w 59 54) 1) (fld w 59 54) 7 := by
  simp [hoopCommand, hm, hz, hoopWord_op, hstate, hpend, withdrawPending]

end manager

/-! ### EPOCH_COMMAND (R333) -/

theorem epochWord_op (w : Word) {k : Nat} (hk : k < 16) : fld (setFld w 31 28 k) 31 28 = k :=
  (fld_setFld_same w k (by decide) (by decide)).trans (Nat.mod_eq_of_lt hk)

@[simp] theorem epochWord_epoch (w : Word) (k : Nat) : fld (setFld w 31 28 k) 2 0 = fld w 2 0 :=
  fld_setFld_other w k (by decide) (by decide) (by decide)

section manager
variable (hm : isManager who = true)
include hm

theorem epochCommand_stage : epochCommand s who (setFld w 31 28 1) = stageBank s (fld w 2 0) := by
  simp [epochCommand, hm, epochWord_op]

theorem epochCommand_open : epochCommand s who (setFld w 31 28 2) = openBank s := by
  simp [epochCommand, hm, epochWord_op]

theorem epochCommand_commit : epochCommand s who (setFld w 31 28 3) = commitBank s := by
  simp [epochCommand, hm, epochWord_op]

theorem epochCommand_abandon : epochCommand s who (setFld w 31 28 4) = abandonBank s := by
  simp [epochCommand, hm, epochWord_op]

/-! ### NODE_ID (R314, R353) -/

theorem nodeIdWrite_taken (hok : nodeIdOk s = true) :
    nodeIdWrite s who v = setReg s 0x310001 0 (fld v 15 15 * 2 ^ 15 + fld v 7 0) := by
  simp [nodeIdWrite, hm, hok]

theorem nodeIdWrite_refused (hok : nodeIdOk s = false) : nodeIdWrite s who v = result s 10 := by
  simp [nodeIdWrite, hm, hok]

end manager

theorem nodeIdOk_of_eyelet {e : Nat} (he : e < 8) (hstate : (eyelet s e).state ≠ 0) : nodeIdOk s = false := by
  have hall : ((List.range 8).all fun e => (eyelet s e).state = 0) = false :=
    List.all_eq_false.2 ⟨e, List.mem_range.2 he, by simpa using hstate⟩
  rw [nodeIdOk, hall, Bool.false_and]

theorem exec_nodeIdWrite (ho : opens s who 0x310001) : exec (.nodeIdWrite who v) s = .next (nodeIdWrite (result s 0) who v) :=
  congrArg Host.Outcome.next (gateWrite_of_opens ho _)

/-- Settles O49: each command by the lemma on its opcode, and what it leaves in HOOP_STATUS by the fields of the row written there. -/
theorem hoopCommands : Obligations.HoopCommands := by
  refine ⟨?_, ?_, ?_, ?_, ?_, ?_, ?_, ?_, ?_⟩
  · rintro s _ who w rfl ho hm hz
    rw [exec_hoopCreate ho, exec_hoopRebind ho, exec_hoopDestroy ho, exec_hoopCancel ho]
    simp only [hoopCommand_reserved hm _ hz, and_self]
  · intro s n w ho
    rw [exec_hoopCreate ho, exec_hoopRebind ho, exec_hoopDestroy ho, exec_hoopCancel ho]
    simp only [hoopCommand_vf, and_self]
  · rintro s _ who w rfl ho hm hz
    rw [exec_hoopCreate ho, hoopCommand_create hm hz]
  · intro s who w ho hm hz hcode
    refine ⟨_, (exec_hoopRebind ho).trans (congrArg Host.Outcome.next (hoopCommand_rebind hm hz hcode)),
      hoopState_hoopResult_setHoopState _ _ _ (by decide) (by decide), ?_, ?_,
      result_hoopResult_setHoopState _ _ (by decide) (by decide) (by decide)⟩
    · rw [hoop_hoopResult, hoop_setHoopState, hoop_keepPending]
      rfl
    · rw [hoop_hoopResult, hoop_setHoopState, hoop_keepPending]
      rfl
  · intro s who w ho hm hz hstate hctx hfhid
    refine ⟨_, (exec_hoopDestroy ho).trans (congrArg Host.Outcome.next (hoopCommand_destroy hm hz hstate hctx hfhid)),
      hoopState_hoopResult_setHoopState _ _ _ (by decide) (by decide), ?_⟩
    rw [hoopResult, setRegFld_hoops, setHoopState, setRegFld_hoops]
    rfl
  · intro s who w d ho hm hz hstate hpend
    refine ⟨_, (exec_hoopCancel ho).trans (congrArg Host.Outcome.next (hoopCommand_cancel hm hz hstate hpend)),
      hoopState_hoopResult_setHoopState _ _ _ (by decide) (by decide), ?_, ?_,
      result_hoopResult_setHoopState _ _ (by decide) (by decide) (by decide)⟩
    · rw [hoop_hoopResult, hoop_setHoopState, hoop_withdrawPending]
    · rw [hoop_hoopResult, hoop_setHoopState, hoop_withdrawPending]
      rfl
  · rintro s _ who w rfl ho hm
    have hgate (k : Nat) := gateWrite_of_opens (vfs := false) ho (epochCommand · who (setFld w 31 28 k))
    exact ⟨congrArg Host.Outcome.next ((hgate 1).trans (epochCommand_stage hm)),
      congrArg Host.Outcome.next ((hgate 2).trans (epochCommand_open hm)),
      congrArg Host.Outcome.next ((hgate 3).trans (epochCommand_commit hm)),
      congrArg Host.Outcome.next ((hgate 4).trans (epochCommand_abandon hm))⟩
  · intro s who v ho hm hok
    rw [exec_nodeIdWrite ho, nodeIdWrite_taken hm hok]
  · intro s who v e ho hm he hstate
    rw [exec_nodeIdWrite ho, nodeIdWrite_refused hm (nodeIdOk_of_eyelet (s := result s 0) he hstate)]

end Sys2Proof.Machine
end

section
/-! PROOFS. PORT_SERVE and FLOSS_WINDOW_END (R443, R447 to R450, R470). -/

namespace Sys2Proof.Machine

variable {s : State} {p : Nat} {r : PortReq}

/-! ### FLOSS_COUNTERS (R450) -/

/-- Device traffic has no counters. -/
theorem countServed_of_device (h : r.flow = none) : countServed s r = s := by
  rw [countServed, h]

/-- The service of a request shows in cells only. -/
theorem countServed_field {γ : Type} (f : State → γ) (hf : ∀ s e row w v, f (setCell s e row w v) = f s) (s : State) (r : PortReq) :
    f (countServed s r) = f s := by
  have hadd (s : State) (e row w n : Nat) : f (addCell s e row w n) = f s := hf s e row w _
  unfold countServed
  split
  · rfl
  · dsimp only
    split
    · simp only [hf, hadd]
    · simp only [hadd]

/-! ### PORT_SERVE (R443 to R446, R470) -/

/-- Request `r` taken out of those waiting, its bytes in the present window of its flow and in the count of port `p`. -/
def withService (s : State) (p : Nat) (r : PortReq) : State :=
  let k := p * 1024 + reqFlow r
  let windows := (tget s.floss.served k).getD []
  { s with
    floss := { waiting := dropFirst (fun x => x == r) s.floss.waiting
               served := tput s.floss.served k ((windows.headD 0 + r.bytes) :: windows.drop 1) }
    tele := { s.tele with bytes := tput s.tele.bytes p ((tget s.tele.bytes p).getD 0 + r.bytes) } }

theorem portServe_of_slow (h : p < 12 ∧ s.power.slowMem.getD (p / 3) false = true) : portServe s p = s := if_pos h

theorem portServe_of_next (h : ¬(p < 12 ∧ s.power.slowMem.getD (p / 3) false = true)) (hr : nextServed s p = some r) :
    portServe s p = countServed (withService s p r) r := by
  rw [portServe, if_neg h, hr]
  rfl

theorem nextServed_of_idle (h : ∀ r ∈ s.floss.waiting, r.port ≠ p) : nextServed s p = none := by
  have hnone : s.floss.waiting.filter (fun r => r.port = p) = [] := List.filter_eq_nil_iff.2 fun r hr => by simpa using h r hr
  rw [nextServed, hnone, List.foldl_nil]

theorem portServe_of_idle (h : ∀ r ∈ s.floss.waiting, r.port ≠ p) : portServe s p = s := by
  rw [portServe, nextServed_of_idle h, ite_self]

/-! ### FLOSS_WINDOW_END (R443, R447, R448, R450) -/

/-- PORT_STATE and the count of shortfalls are cells. -/
theorem portWindow_floss (s : State) (p : Nat) : (portWindow s p).floss = s.floss := by
  rw [portWindow, setReg_floss, apply_ite State.floss, bump_floss, ite_self]

theorem countOver_floss (s : State) (k : Nat) : (countOver s k).floss = s.floss := by
  unfold countOver
  dsimp only
  split
  · rfl
  · exact setCell_floss ..

theorem flossWindowEnd_floss (s : State) : (flossWindowEnd s).floss =
    { s.floss with
      served := (s.floss.served.map (fun x => (x.1, 0 :: x.2.take 8))).filter (fun x => x.2.any (fun n => decide (n ≠ 0))) } := by
  rw [flossWindowEnd]
  dsimp only
  rw [foldl_field State.floss countOver_floss, foldl_field State.floss portWindow_floss]
  rfl

/-- Settles O40: a port with a next request by `portServe_of_next`, whose counters are cells; one with none by `nextServed_of_idle`;
the end of a window by `flossWindowEnd_floss`. -/
theorem portsServe : Obligations.PortsServe := by
  refine ⟨?_, ?_, ?_, ?_⟩
  · intro s p hp hslow
    exact congrArg Host.Outcome.next (portServe_of_slow ⟨hp, hslow⟩)
  · intro s p r hgoes hr
    have hfloss := countServed_field State.floss (fun _ _ _ _ _ => setCell_floss ..) (withService s p r) r
    have htele := countServed_field State.tele (fun _ _ _ _ _ => setCell_tele ..) (withService s p r) r
    have hmem := countServed_field State.mem (fun _ _ _ _ _ => setCell_mem ..) (withService s p r) r
    refine ⟨_, congrArg Host.Outcome.next (portServe_of_next hgoes hr), congrArg Floss.waiting hfloss, ?_, ?_, hmem, fun hdevice => ?_⟩
    · rw [htele, withService, tget_tput_same, Option.getD_some]
    · rw [hfloss, withService, tget_tput_same, Option.getD_some, List.headD_cons]
    · rw [countServed_of_device hdevice]
      rfl
  · intro s p hidle
    exact congrArg Host.Outcome.next (portServe_of_idle hidle)
  · intro s hsafe
    refine ⟨_, next_unlessSafe hsafe rfl, ?_, ?_⟩ <;> rw [flossWindowEnd_floss]

end Sys2Proof.Machine
end

section
/-! PROOFS. A step of the machine (R8, R587). -/

namespace Sys2Proof.Machine

theorem step_of_waiting {s : State} {c : Instr} {rest : List Instr} (h : s.pending = c :: rest) :
    step s = exec c { s with pending := rest } := by
  rw [step, h]

theorem step_of_idle {s : State} (h : s.pending = []) : step s = .next s := by
  rw [step, h]

/-- Settles O1: the two cases of a step's queue. -/
theorem stepRunsFront : Obligations.StepRunsFront :=
  ⟨fun _ _ _ => step_of_waiting, fun _ => step_of_idle⟩

end Sys2Proof.Machine
end

section
/-! PROOFS. The dictionary server: its operations, SDP sessions, the mailbox, the aperture and the management port (R576 to R597). -/

namespace Sys2Proof.Machine

variable {s : State} {who : Req} {m : SdpMsg} {op : Nat} {x : Session} {perform : Bool → Nat → State → State}

/-! ### What the count of requests leaves (R593) -/

theorem regN_countSdp (s : State) (row : Nat) {e : Nat} (he : e ≠ 0x120007) (r : Nat) : regN (countSdp s row) e r = regN s e r :=
  congrArg BitVec.toNat (cell_setCell_entry _ _ _ _ _ _ _ _ he)

@[simp] theorem factoryOpen_countSdp (s : State) (row index : Nat) : factoryOpen (countSdp s row) index = factoryOpen s index := rfl

@[simp] theorem sessionOver_countSdp (s : State) (row : Nat) (x : Session) : sessionOver (countSdp s row) x = sessionOver s x := by
  rw [sessionOver, regN_countSdp s row (by decide)]
  rfl

@[simp] theorem sessionOf_countSdp (s : State) (row n : Nat) : sessionOf (countSdp s row) n = sessionOf s n := by
  simp only [sessionOf, sessionOver_countSdp]
  rfl

@[simp] theorem sessionSecure_countSdp (s : State) (row : Nat) (x : Session) : sessionSecure (countSdp s row) x = sessionSecure s x := by
  rw [sessionSecure, regN_countSdp s row (by decide)]
  rfl

/-! ### The operations (R576 to R589, R597) -/

section performed
variable (secure : Bool) (limit : Nat)

theorem performRead_of_described (h : factoryOpen s m.index = false) :
    performRead who m secure limit s = answerRead s (readOp s who limit m) := if_neg (by simp [h])

theorem performRead_of_factory (h : factoryOpen s m.index = true) :
    performRead who m secure limit s = factoryAnswer s ((Config.freeValue s.free).toNat / 16 % (limit + 1)) := if_pos h

theorem performWrite_of_described (h : factoryOpen s m.index = false) :
    performWrite who m secure limit s = writeOp s who secure m := if_neg (by simp [h])

theorem performWrite_of_factory (h : factoryOpen s m.index = true) : performWrite who m secure limit s = factoryAnswer s 0 := if_pos h

theorem performDescribe_of_described (h : factoryOpen s m.index = false) :
    performDescribe m secure limit s = reply s (describeOp m).2 false (describeOp m).1 := if_neg (by simp [h])

theorem performDescribe_of_factory (h : factoryOpen s m.index = true) : performDescribe m secure limit s = factoryAnswer s 16 := if_pos h

end performed

/-- NOT_PERMITTED goes before SIZE (R582). -/
theorem firstCode_notPermitted_size (b : Bool) : firstCode [4, if b then 8 else 0] = 4 := by
  cases b <;> rfl

theorem readCode_of_barred {e n : Nat} {x : Entry} (h : vfReads e = false) : readCode s (.vf n) e (some x) = 4 := by
  simp [readCode, h]

/-- A VF's READ of an entry closed to it has no data (R586). -/
theorem readOp_of_barred {n limit : Nat} {x : Entry} (hx : findEntry? (m.index * 256 + m.sub) = some x)
    (h : vfReads (m.index * 256 + m.sub) = false) : readOp s (.vf n) limit m = (4, [], 0) := by
  simp only [readOp, hx, readCode_of_barred h, firstCode_notPermitted_size]
  rfl

theorem writeOp_of_noEntry (secure : Bool) (h : findEntry? (m.index * 256 + m.sub) = none) : writeOp s who secure m = result s 3 := by
  simp only [writeOp, h]

/-! ### Requests of a function (R589) -/

/-- What comes of a function's request. -/
theorem dictRequest_of_function (hwho : who ≠ .mgmt) : dictRequest s who op m perform =
    if wickOnly s then s else if !requestOk op 65536 { m with session := 0 } then result s 1 else perform true 65536 s := by
  cases who with
  | mgmt => contradiction
  | vf n => rfl
  | pf p => rfl

theorem dictRequest_of_wickOnly (hwho : who ≠ .mgmt) (hw : wickOnly s = true) : dictRequest s who op m perform = s := by
  rw [dictRequest_of_function hwho, if_pos hw]

theorem dictRequest_performs (hwho : who ≠ .mgmt) (hw : wickOnly s = false) (hok : requestOk op 65536 { m with session := 0 } = true) :
    dictRequest s who op m perform = perform true 65536 s := by
  simp [dictRequest_of_function hwho, hw, hok]

theorem dictRequest_malformed (hwho : who ≠ .mgmt) (hw : wickOnly s = false) (hok : requestOk op 65536 { m with session := 0 } = false) :
    dictRequest s who op m perform = result s 1 := by
  simp [dictRequest_of_function hwho, hw, hok]

/-! ### Requests of a session (R592 to R594) -/

theorem num_of_sessionOf {n : Nat} (h : sessionOf s n = some x) : x.num = n := by
  have hfound := List.find?_some h
  rw [Bool.and_eq_true, decide_eq_true_eq] at hfound
  exact hfound.1

/-- The response to request `seq` stored in session `n`. -/
def storeResponse (s : State) (n seq : Nat) : State :=
  modSessions s fun l => l.map fun y => if y.num = n then { y with seq := seq, time := wick s, last := some s.answer } else y

/-- Session `n` removed. -/
def removeSession (s : State) (n : Nat) : State := modSessions s fun l => l.filter fun y => decide (y.num ≠ n)

theorem mem_storeResponse {n seq : Nat} {y : Session} (hy : y ∈ (storeResponse s n seq).server.sessions) (hn : y.num = n) :
    y.seq = seq ∧ y.last = some s.answer := by
  obtain ⟨z, -, rfl⟩ := List.mem_map.1 hy
  by_cases hz : z.num = n
  · rw [if_pos hz]
    exact ⟨rfl, rfl⟩
  · rw [if_neg hz] at hn
    exact absurd hn hz

theorem mem_removeSession {n : Nat} {y : Session} (hy : y ∈ (removeSession s n).server.sessions) : y.num ≠ n :=
  of_decide_eq_true (List.mem_filter.1 hy).2

@[simp] theorem countRefusal_answer (s : State) : (countRefusal s).answer = s.answer := by
  unfold countRefusal
  split <;> rfl

/-- The state that a request after the session's last leaves before its response is stored. -/
def performed (s : State) (x : Session) (perform : Bool → Nat → State → State) : State :=
  countRefusal (perform (sessionSecure s x) 1408 (countSdp s 0))

theorem performed_answer (s : State) (x : Session) (perform : Bool → Nat → State → State) :
    (performed s x perform).answer = (perform (sessionSecure s x) 1408 (countSdp s 0)).answer := countRefusal_answer _

section wellFormed
variable (hok : requestOk op 1408 m = true)
include hok

theorem sdpRequest_of_noSession (hx : sessionOf s m.session = none) : sdpRequest s op m perform = sdpRefuse (countSdp s 0) 2 := by
  simp [sdpRequest, hok, hx]

theorem sdpRequest_repeated (hx : sessionOf s m.session = some x) (hseq : m.seq = x.seq) (hlast : x.last.isSome = true) :
    sdpRequest s op m perform = resend (countSdp s 0) x := by
  simp [sdpRequest, hok, hx, hseq, hlast]

theorem sdpRequest_next (hx : sessionOf s m.session = some x) (hseq : m.seq = x.seq + 1) : sdpRequest s op m perform =
    if op = 2 then removeSession (performed s x perform) m.session else storeResponse (performed s x perform) m.session m.seq := by
  simp [sdpRequest, hok, hx, hseq, num_of_sessionOf hx, performed, removeSession, storeResponse]

/-- A request after the session's last is answered with what its operation answers, and that is stored with its SEQ. -/
theorem sdpRequest_next_stores (hop : op ≠ 2) (hx : sessionOf s m.session = some x) (hseq : m.seq = x.seq + 1) :
    (sdpRequest s op m perform).answer = (perform (sessionSecure s x) 1408 (countSdp s 0)).answer ∧
      ∀ y ∈ (sdpRequest s op m perform).server.sessions, y.num = m.session →
        y.seq = m.seq ∧ y.last = some (sdpRequest s op m perform).answer := by
  rw [sdpRequest_next hok hx hseq, if_neg hop]
  exact ⟨performed_answer s x perform, fun y hy hn => mem_storeResponse (s := performed s x perform) hy hn⟩

end wellFormed

theorem resend_answer {a : Answer} (hlast : x.last = some a) : (resend s x).answer = a := by
  rw [resend, hlast]
  rfl

@[simp] theorem countSdp_mem (s : State) (row : Nat) : (countSdp s row).mem = s.mem := bump_mem s _ _
@[simp] theorem countSdp_hoops (s : State) (row : Nat) : (countSdp s row).hoops = s.hoops := bump_hoops s _ _
@[simp] theorem resend_mem (s : State) (x : Session) : (resend s x).mem = s.mem := countSdp_mem s 1
@[simp] theorem resend_hoops (s : State) (x : Session) : (resend s x).hoops = s.hoops := countSdp_hoops s 1

theorem seqRepeat_of_session {n : Nat} (hx : sessionOf s n = some x) (hlast : x.last.isSome = true) :
    seqRepeat s n = resend (countSdp s 0) x := by
  rw [seqRepeat, hx]
  exact if_pos hlast

theorem seqRepeat_of_noSession {n : Nat} (hx : sessionOf s n = none) : seqRepeat s n = s := by
  rw [seqRepeat, hx]

/-! ### SESSION_OPEN -/

/-- The session that SESSION_OPEN opens. -/
def newSession (s : State) (mctp : Bool) (peer : Nat) : Session :=
  { num := s.server.nextSession, mctp := mctp, secured := mctp && s.keeper.sessions.contains .mgmt, seq := 0, peer := peer,
    time := wick s, last := none }

section opening
variable {mctp : Bool} {peer : Nat}

theorem sessionOpen_malformed (hok : requestOk 1 1408 m = false) : sessionOpen s mctp peer m = sdpRefuse (countSdp s 0) 1 := by
  simp [sessionOpen, hok]

/-- The sessions after a SESSION_OPEN that finds none open, and its answer. -/
theorem sessionOpen_first (hok : requestOk 1 1408 m = true) (hnone : s.server.sessions = []) :
    (sessionOpen s mctp peer m).server.sessions = [newSession s mctp peer] ∧
      (sessionOpen s mctp peer m).answer = { data := [], poison := false, status := 0, session := s.server.nextSession } := by
  have hlive : (countSdp s 0).server.sessions = [] := hnone
  simp only [sessionOpen, hok, modSessions, hlive]
  exact ⟨rfl, rfl⟩

/-- With eight live sessions the answer is BUSY, and they stay as they are. -/
theorem sessionOpen_full (hok : requestOk 1 1408 m = true) (hfull : s.server.sessions.length = 8)
    (hlive : ∀ x ∈ s.server.sessions, sessionOver s x = false) :
    (sessionOpen s mctp peer m).answer.status = 11 ∧ (sessionOpen s mctp peer m).server.sessions = s.server.sessions := by
  have hkept : (countSdp s 0).server.sessions.filter (fun x => !sessionOver (countSdp s 0) x) = s.server.sessions :=
    List.filter_eq_self.2 fun x hx => by simp [hlive x hx]
  simp only [sessionOpen, hok, modSessions, hkept, hfull]
  exact ⟨rfl, rfl⟩

end opening

/-! ### The mailbox (R591) -/

@[simp] theorem mailbox_setMailbox_same (s : State) (who : Req) (b : Mailbox) : mailbox (setMailbox s who b) who = b := by
  rw [mailbox, setMailbox, tget_tput_same, Option.getD_some]

/-- The state in which GO finds its response. -/
def afterGo (s : State) (who : Req) (magicOk : Bool) (op : Nat) (m : SdpMsg) : State :=
  if magicOk then dictRequest s who op m (performOp who op m) else result s 1

theorem mailboxGo_of_free (hwho : who ≠ .mgmt) (hw : wickOnly s = false) (hfree : (mailbox s who).control ≠ 1) (magicOk : Bool) :
    mailbox (mailboxGo s who magicOk op m) who =
      { mailbox s who with control := 2, request := some m, answer := (afterGo s who magicOk op m).answer } := by
  rw [mailboxGo, if_neg (by simp [hwho, hw]), if_neg hfree, mailbox_setMailbox_same]
  rfl

theorem mailboxGo_mgmt (magicOk : Bool) : mailboxGo s .mgmt magicOk op m = s := by
  simp [mailboxGo]

/-! ### The aperture (R590) -/

/-- AP_SELECT of a function's mailbox as an access finds it. -/
def withSelect (s : State) (who : Req) (select : Word) : State :=
  setMailbox s who { mailbox s who with select := wd (fld select 23 0) }

section aperture
variable {select : Word} {off len : Nat} (hwho : who ≠ .mgmt) (hw : wickOnly s = false)
include hwho hw

theorem apertureAccess_of_unfit {write : Option Word} (hfit : apertureOkAccess off len = false) :
    apertureAccess s who select off write len = barAccessDrop s who 0 (0x1000000 + off) len write.isNone := by
  simp [apertureAccess, hwho, hw, hfit]

/-- A read of what is no entry: NO_ENTRY with zeros, in the open factory range a free answer. -/
theorem apertureAccess_of_noEntry (hfit : apertureOkAccess off len = true) (hx : findEntry? (fld select 23 0) = none) :
    apertureAccess s who select off none len =
      if factoryOpen s (fld select 23 8) then factoryAnswer (withSelect s who select) len
      else reply (withSelect s who select) (leBytes len 0) false 3 := by
  simp only [apertureAccess, hwho, hw, hfit, hx]
  rfl

theorem apertureAccess_reads {x : Entry} (hfit : apertureOkAccess off len = true) (hx : findEntry? (fld select 23 0) = some x)
    (hcode : readCode s who (fld select 23 0) (some x) = 0) (hreach : apertureEntry x = true) (hsize : off + len ≤ x.size * x.rows) :
    apertureAccess s who select off none len =
      answerRead (withSelect s who select) (0, apertureBytes (withSelect s who select) who x off len, 0) := by
  simp [apertureAccess, withSelect, hwho, hw, hfit, hx, hcode, hreach, hsize, firstCode]

end aperture

/-! ### REGISTER_WRITE (R11) -/

section register
variable {index sub row : Nat} {ws : List Word}

theorem registerWrite_of_noEntry (hx : findEntry? (index * 256 + sub) = none) : registerWrite s who index sub row ws =
    if factoryOpen s index then factoryAnswer s 0 else result s 3 := by
  simp only [registerWrite, hx]

variable {x : Entry} (hx : findEntry? (index * 256 + sub) = some x)
include hx

theorem registerWrite_refused (hcode : writeCode s who x [(row, ws)] true ≠ 0) :
    registerWrite s who index sub row ws = result s (writeCode s who x [(row, ws)] true) := by
  simp only [registerWrite, hx, if_pos hcode]

theorem registerWrite_of_outside (hcode : writeCode s who x [(row, ws)] true = 0) (hrow : x.rows ≤ row) :
    registerWrite s who index sub row ws = result s 8 := by
  simp [registerWrite, hx, hcode, hrow]

theorem registerWrite_of_row (hcode : writeCode s who x [(row, ws)] true = 0) (hrow : row < x.rows) (hblob : x.type ≠ 7)
    (hbool : x.type ≠ 5) : registerWrite s who index sub row ws = writeRows s who (index * 256 + sub)
      [(row, toWords ((padTo (8 * ((x.size + 7) / 8)) (wordBytes ws)).take x.size), true)] := by
  simp [registerWrite, hx, hcode, hrow, hblob, hbool]

end register

/-! ### Timeouts and the management port (R584, R592, R595) -/

theorem mem_sessionTimeout {n : Nat} {y : Session} :
    y ∈ (modSessions s fun l => l.filter fun x => decide (x.num ≠ n) || !sessionOver s x).server.sessions ↔
      y ∈ s.server.sessions ∧ (y.num = n → sessionOver s y = false) := by
  simp [modSessions, imp_iff_not_or]

theorem mem_blobStagingTimeout {e : Nat} {y : Staging} (hy : y ∈ (blobStagingTimeout s e).server.stagings) :
    y ∈ s.server.stagings ∧ (y.entry = e → wick s < y.time + 10000000000) := by
  have hkept := List.mem_filter.1 hy
  simpa [imp_iff_not_or] using hkept

theorem neighbourDiscovery_own : neighbourDiscovery s (leNat linkLocal) = reply s macBytes false 0 := by
  simp [neighbourDiscovery]

theorem neighbourDiscovery_other {target : Nat} (hlocal : target ≠ leNat linkLocal) (hglobal : target ≠ leNat (globalBytes s)) :
    neighbourDiscovery s target = s := by
  simp [neighbourDiscovery, hlocal.symm, hglobal.symm]

/-- Settles O60: a session's requests by what `sdpRequest` makes of them, a function's by `dictRequest_performs`, and each other
command by the lemma on its operation. -/
theorem dictionary : Obligations.Dictionary := by
  refine ⟨?_, ?_, ?_, ?_, ?_, ?_, ?_, ?_, ?_, ?_, ?_, ?_, ?_, ?_, ?_, ?_, ?_, ?_, ?_, ?_, ?_, ?_, ?_, ?_⟩
  · intro s mctp peer m
    refine ⟨fun hok => ?_, fun hok hnone => ?_, fun hok hfull hlive => ?_⟩
    · exact congrArg Host.Outcome.next (sessionOpen_malformed hok)
    · obtain ⟨hopened, hanswer⟩ := sessionOpen_first (mctp := mctp) (peer := peer) hok hnone
      exact ⟨_, newSession s mctp peer, rfl, hopened, rfl, rfl, rfl, rfl, by rw [hanswer], by rw [hanswer]⟩
    · exact ⟨_, rfl, sessionOpen_full hok hfull hlive⟩
  · intro s m hx
    refine ⟨?_, ?_, ?_, ?_, ?_⟩ <;> exact fun hok => congrArg Host.Outcome.next (sdpRequest_of_noSession hok hx)
  · intro s m x a hx hseq hlast
    have hstored : x.last.isSome = true := by rw [hlast, Option.isSome_some]
    refine ⟨fun hok => ?_, fun hok => ?_, fun hok => ?_, ?_⟩
    · exact ⟨_, congrArg Host.Outcome.next (sdpRequest_repeated hok hx hseq hstored), resend_answer hlast, by simp, by simp⟩
    · exact ⟨_, congrArg Host.Outcome.next (sdpRequest_repeated hok hx hseq hstored), resend_answer hlast, by simp, by simp⟩
    · exact ⟨_, congrArg Host.Outcome.next (sdpRequest_repeated hok hx hseq hstored), resend_answer hlast⟩
    · exact ⟨_, congrArg Host.Outcome.next (seqRepeat_of_session hx hstored), resend_answer hlast, by simp⟩
  · intro s m x hx hseq hopen
    rw [← factoryOpen_countSdp s 0] at hopen
    refine ⟨fun hok => ?_, fun hok => ?_, fun hok => ?_, fun hok => ?_, fun hok => ?_⟩
    · obtain ⟨hanswer, hstored⟩ := sdpRequest_next_stores (perform := performRead .mgmt m) hok (by decide) hx hseq
      rw [performRead_of_described _ _ hopen] at hanswer
      exact ⟨_, rfl, hanswer, hstored⟩
    · obtain ⟨hanswer, hstored⟩ := sdpRequest_next_stores (perform := performWrite .mgmt m) hok (by decide) hx hseq
      rw [performWrite_of_described _ _ hopen] at hanswer
      exact ⟨_, rfl, hanswer, hstored⟩
    · obtain ⟨hanswer, -⟩ := sdpRequest_next_stores (perform := performDescribe m) hok (by decide) hx hseq
      rw [performDescribe_of_described _ _ hopen] at hanswer
      exact ⟨_, rfl, congrArg Answer.status hanswer, congrArg Answer.data hanswer⟩
    · obtain ⟨hanswer, hstored⟩ := sdpRequest_next_stores (perform := performNop) hok (by decide) hx hseq
      exact ⟨_, rfl, congrArg Answer.status hanswer, hstored⟩
    · refine ⟨_, congrArg Host.Outcome.next ((sdpRequest_next hok hx hseq).trans (if_pos rfl)), ?_, fun y hy => mem_removeSession hy⟩
      exact congrArg Answer.status (performed_answer s x performNop)
  · intro s who m hwho hw
    refine ⟨?_, ?_, ?_, ?_⟩ <;> exact congrArg Host.Outcome.next (dictRequest_of_wickOnly hwho hw)
  · intro s who m hwho hw hopen
    refine ⟨fun hok => ?_, fun hok => ?_, fun hok => ?_, fun hok => ?_, fun hok => ?_⟩
    · exact congrArg Host.Outcome.next ((dictRequest_performs hwho hw hok).trans (performRead_of_described _ _ hopen))
    · exact congrArg Host.Outcome.next ((dictRequest_performs hwho hw hok).trans (performWrite_of_described _ _ hopen))
    · exact congrArg Host.Outcome.next ((dictRequest_performs hwho hw hok).trans (performDescribe_of_described _ _ hopen))
    · exact congrArg Host.Outcome.next (dictRequest_performs hwho hw hok)
    · exact congrArg Host.Outcome.next (dictRequest_malformed hwho hw hok)
  · intro s n m hw hopen
    have hwho : Req.vf n ≠ .mgmt := nofun
    refine ⟨fun hx hok => ?_, fun x hx hbarred hok => ?_⟩
    · exact congrArg Host.Outcome.next ((dictRequest_performs hwho hw hok).trans
        ((performWrite_of_described _ _ hopen).trans (writeOp_of_noEntry true hx)))
    · refine ⟨_, congrArg Host.Outcome.next ((dictRequest_performs hwho hw hok).trans (performRead_of_described _ _ hopen)), ?_, ?_⟩ <;>
        rw [readOp_of_barred hx hbarred] <;> rfl
  · intro s m hw hfactory
    have hwho : Req.pf 0 ≠ .mgmt := nofun
    refine ⟨fun hok => ?_, fun hok => ?_, fun hok => ?_⟩
    · exact congrArg Host.Outcome.next ((dictRequest_performs hwho hw hok).trans (performRead_of_factory _ _ hfactory))
    · exact congrArg Host.Outcome.next ((dictRequest_performs hwho hw hok).trans (performWrite_of_factory _ _ hfactory))
    · exact congrArg Host.Outcome.next ((dictRequest_performs hwho hw hok).trans (performDescribe_of_factory _ _ hfactory))
  · intro s n hx
    exact congrArg Host.Outcome.next (seqRepeat_of_noSession hx)
  · intro s n
    exact ⟨_, rfl, fun x hx => (mem_sessionTimeout.1 hx).2, fun x hx hn => mem_sessionTimeout.2 ⟨hx, fun h => absurd h hn⟩⟩
  · intro s who op m hwho hw hfree _
    have hgo := mailboxGo_of_free (op := op) (m := m) hwho hw hfree
    refine ⟨⟨_, rfl, ?_, ?_, ?_⟩, _, rfl, ?_, ?_⟩
    · rw [hgo true]
    · rw [hgo true]
      rfl
    · rw [hgo true]
    · rw [hgo false]
    · rw [hgo false]
      rfl
  · intro s magicOk op m
    exact congrArg Host.Outcome.next (mailboxGo_mgmt magicOk)
  · intro s who select off len hwho hw hfit
    exact congrArg Host.Outcome.next (apertureAccess_of_unfit hwho hw hfit)
  · intro s who select off len hwho hw hfit hopen hx
    have hread := apertureAccess_of_noEntry hwho hw hfit hx
    rw [hopen] at hread
    exact ⟨_, congrArg Host.Outcome.next hread, rfl, rfl⟩
  · rintro s _ who select off len x hwho hw hfit - hx hcode hreach hsize rfl
    exact congrArg Host.Outcome.next (apertureAccess_reads hwho hw hfit hx hcode hreach hsize)
  · intro s who select off len hwho hw hfit hfactory hx
    exact congrArg Host.Outcome.next ((apertureAccess_of_noEntry hwho hw hfit hx).trans (if_pos hfactory))
  · intro s who index sub row ws hopen
    refine ⟨fun hx => ?_, fun x hx => ⟨fun hcode => ?_, fun hcode hrow => ?_, fun hcode hrow hblob hbool => ?_⟩⟩
    · exact congrArg Host.Outcome.next ((registerWrite_of_noEntry hx).trans (if_neg (by simp [hopen])))
    · exact congrArg Host.Outcome.next (registerWrite_refused hx hcode)
    · exact congrArg Host.Outcome.next (registerWrite_of_outside hx hcode hrow)
    · exact congrArg Host.Outcome.next (registerWrite_of_row hx hcode hrow hblob hbool)
  · intro s who index sub row ws hfactory hx
    exact congrArg Host.Outcome.next ((registerWrite_of_noEntry hx).trans (if_pos hfactory))
  · intro s index sub
    exact ⟨_, rfl, fun x hx => mem_blobStagingTimeout hx⟩
  · intro s eid
    exact ⟨_, rfl, rfl, rfl⟩
  · rintro s _ rfl
    exact congrArg Host.Outcome.next neighbourDiscovery_own
  · intro s target hlocal hglobal
    exact congrArg Host.Outcome.next (neighbourDiscovery_other hlocal hglobal)
  · intro s payload
    rfl
  · intro s
    rfl

end Sys2Proof.Machine
end
